-- ==== Sys2Proof/Word.lean ====
section
/-! DEFINITION. Word and byte types, the senders of commands, and the plain operations that every file uses.
The manual is little-endian throughout (R13). -/

namespace Sys2Proof

abbrev Byte := BitVec 8
abbrev Word32 := BitVec 32
abbrev Word64 := BitVec 64

/-- Who makes a register access (R437): the supervisor's firmware, or an application core (hart 0 to 31; harts 0 to 15 are on
IOD0) in machine mode or not. -/
inductive Accessor where
  | supervisor
  | core (hart : Fin 32) (machine : Bool)
  deriving DecidableEq, Repr

/-- Who makes a memory access (R255, R277, R489): a unit acting for a slot, an update engine acting for a slot, an application
core, the supervisor's firmware, or the snapshot path. -/
inductive Requester where
  | unit (slot : Fin 4)
  | update (slot : Fin 4)
  | core (hart : Fin 32) (machine : Bool)
  | supervisor
  | snapshot
  deriving DecidableEq, Repr

/-- How a command packet arrives (R433, R446): a datagram from a management source, the next entry of a slot's command queue,
a slot's abort window, or the oldest PEER_CMD message from another module. -/
inductive Arrival where
  | mgmt (src : Nat) (pkt : List Byte)
  | host (slot : Fin 4)
  | window (slot : Fin 4)
  | peer
  deriving DecidableEq, Repr

end Sys2Proof
end

