-- ==== Sys2Proof/Syntax.lean ====
section
/-! DEFINITION. The commands: one constructor per row of the opcode table, with the row's operands. A row is a command that an
agent outside a unit gives it, a register write with an effect of its own, or an event whose moment the manual does not fix.
An operand says where it happens (die, unit, slot), who sends it, and the value or the bytes it carries. -/

namespace Sys2Proof

/-- The commands of the block. -/
inductive Instr where
  /-- ISSUE (R153). -/
  | issue (cd : Fin 8) (t : Nat)
  /-- WAIT (R153). -/
  | wait (cd : Fin 8) (t : Nat)
  /-- WAIT_SATISFIED (R155). -/
  | waitSatisfied (cd : Fin 8) (ctx : Fin 4) (t : Nat)
  /-- SALU (R153). -/
  | salu (cd : Fin 8) (t : Nat)
  /-- BR (R153). -/
  | br (cd : Fin 8) (t : Nat)
  /-- POST (R316). -/
  | post (cd : Fin 8) (t : Nat)
  /-- FENCE (R153). -/
  | fence (cd : Fin 8) (t : Nat)
  /-- FENCE_COMPLETE (R153). -/
  | fenceComplete (cd : Fin 8) (ctx : Fin 4) (t : Nat)
  /-- SIGNAL (R153). -/
  | signal (cd : Fin 8) (t : Nat)
  /-- CINC (R155). -/
  | cinc (cd : Fin 8) (t : Nat)
  /-- YIELD (R162). -/
  | yield (cd : Fin 8) (t : Nat)
  /-- END (R162). -/
  | endContext (cd : Fin 8) (t : Nat)
  /-- CSET (R158). -/
  | cset (cd : Fin 8) (t : Nat)
  /-- CSET_ENTRY_EFFECT (R158). -/
  | csetEntryEffect (cd : Fin 8) (arr : Fin 24)
  /-- ADD (R159). -/
  | add (cd : Fin 8) (t : Nat)
  /-- SUB (R159). -/
  | sub (cd : Fin 8) (t : Nat)
  /-- MUL (R159). -/
  | mul (cd : Fin 8) (t : Nat)
  /-- FMA (R526). -/
  | fma (cd : Fin 8) (t : Nat)
  /-- MAX (R143). -/
  | max (cd : Fin 8) (t : Nat)
  /-- MIN (R143). -/
  | min (cd : Fin 8) (t : Nat)
  /-- CMP (R144). -/
  | cmp (cd : Fin 8) (t : Nat)
  /-- SEL (R526). -/
  | sel (cd : Fin 8) (t : Nat)
  /-- CVT (R127). -/
  | cvt (cd : Fin 8) (t : Nat)
  /-- FUNC (R183). -/
  | func (cd : Fin 8) (t : Nat)
  /-- RSUM (R208). -/
  | rsum (cd : Fin 8) (t : Nat)
  /-- RMAX (R207). -/
  | rmax (cd : Fin 8) (t : Nat)
  /-- PERM (R526). -/
  | perm (cd : Fin 8) (t : Nat)
  /-- TICKET_RELEASE (R175). -/
  | ticketRelease (cd : Fin 8) (unit : Fin 96)
  /-- RES_TILE (R50). -/
  | resTile (cd : Fin 8) (arr : Fin 24)
  /-- HOLD_LOAD (R55). -/
  | holdLoad (cd : Fin 8) (arr : Fin 24)
  /-- HOLD_PASS (R53). -/
  | holdPass (cd : Fin 8) (arr : Fin 24)
  /-- ARRAY_COMMAND_COMPLETE (R83). -/
  | arrayCommandComplete (cd : Fin 8) (arr : Fin 24) (load : Bool)
  /-- ARR_ACB_RGN_BASE_WRITE (R86). -/
  | arrAcbRgnBaseWrite (acc : Accessor) (cd : Fin 8) (arr : Fin 24) (q : Fin 8) (v : Word64)
  /-- ARR_ACB_RGN_WGM_WRITE (R190). -/
  | arrAcbRgnWgmWrite (acc : Accessor) (cd : Fin 8) (arr : Fin 24) (q : Fin 8) (v : Word64)
  /-- ARR_LS_SEED_WRITE (R221). -/
  | arrLsSeedWrite (acc : Accessor) (cd : Fin 8) (arr : Fin 24) (v : Word64)
  /-- ARR_PARK_REQUEST (R85). -/
  | arrParkRequest (acc : Accessor) (cd : Fin 8) (arr : Fin 24) (v : Word64)
  /-- ARRAY_PARK (R85). -/
  | arrayPark (cd : Fin 8) (arr : Fin 24)
  /-- ARRAY_WAKE_COMPLETE (R85). -/
  | arrayWakeComplete (cd : Fin 8) (arr : Fin 24)
  /-- ARR_FAULT_CLEAR (R85). -/
  | arrFaultClear (acc : Accessor) (cd : Fin 8) (arr : Fin 24) (v : Word64)
  /-- FEED_SUB (R95). -/
  | feedSub (cd : Fin 8) (arr : Fin 24) (b : Fin 2)
  /-- FEED_PRIV (R107). -/
  | feedPriv (cd : Fin 8) (arr : Fin 24) (b : Fin 2)
  /-- INJECT (R113). -/
  | inject (cd : Fin 8) (g : Fin 4)
  /-- CAPTURE (R113). -/
  | capture (cd : Fin 8) (g : Fin 4)
  /-- TILE_DECLARE (R94). -/
  | tileDeclare (cd : Fin 8) (st : Fin 32)
  /-- TILE_ARM (R96). -/
  | tileArm (cd : Fin 8) (tk : Fin 64)
  /-- FLIT_INJECT (R93). -/
  | flitInject (cd : Fin 8) (st : Fin 32)
  /-- SLOT_RESERVE (R93). -/
  | slotReserve (cd : Fin 8) (st : Fin 32)
  /-- TILE_RIDE_END (R97). -/
  | tileRideEnd (cd : Fin 8) (tk : Fin 64)
  /-- ARM_STALL (R98). -/
  | armStall (cd : Fin 8) (tk : Fin 64)
  /-- BOBBIN_SLOT_READY (R101). -/
  | bobbinSlotReady (cd : Fin 8) (arr : Fin 24) (b : Fin 2) (k : Fin 4)
  /-- BOBBIN_PASS_END (R104). -/
  | bobbinPassEnd (cd : Fin 8) (arr : Fin 24) (b : Fin 2)
  /-- FDR_FAULT_CLEAR (R114). -/
  | fdrFaultClear (acc : Accessor) (cd : Fin 8) (arr : Fin 24) (b : Fin 2) (v : Word64)
  /-- CAR_FAULT_CLEAR (R114). -/
  | carFaultClear (acc : Accessor) (cd : Fin 8) (v : Word64)
  /-- VLD (R161). -/
  | vld (cd : Fin 8) (ve : Fin 8)
  /-- VST (R161). -/
  | vst (cd : Fin 8) (ve : Fin 8)
  /-- SCALE_PICK (R210). -/
  | scalePick (cd : Fin 8) (ve : Fin 8)
  /-- FTAB_LOAD (R186). -/
  | ftabLoad (cd : Fin 8) (ve : Fin 8)
  /-- VMEM_COMPLETE (R161). -/
  | vmemComplete (cd : Fin 8) (ve : Fin 8)
  /-- VE_SR_SEED_WRITE (R221). -/
  | veSrSeedWrite (acc : Accessor) (cd : Fin 8) (ve : Fin 8) (v : Word64)
  /-- STASH_PURGE_WRITE (R203). -/
  | stashPurgeWrite (acc : Accessor) (cd : Fin 8) (v : Word64)
  /-- NUM_STEP_WRITE (R224). -/
  | numStepWrite (acc : Accessor) (slot : Fin 4) (v : Word64)
  /-- VOTE_LOCAL_READY (R238). -/
  | voteLocalReady (slot : Fin 4)
  /-- VOTE_GATHER (R241). -/
  | voteGather
  /-- VOTE_RESULT (R242). -/
  | voteResult
  /-- VOTE_TIMEOUT (R244). -/
  | voteTimeout (slot : Fin 4)
  /-- UPDATE_COMPLETE (R243). -/
  | updateComplete (slot : Fin 4)
  /-- MEM_READ (R37). -/
  | memRead (req : Requester) (addr : Nat) (len : Nat)
  /-- MEM_WRITE (R38). -/
  | memWrite (req : Requester) (addr : Nat) (data : List Byte) (tag : Byte)
  /-- ZEROING_COMPLETE (R257). -/
  | zeroingComplete (tier : Fin 3) (cd : Fin 8) (index : Nat)
  /-- SCRUB_WORD (R280). -/
  | scrubWord (die : Fin 6)
  /-- MEM_FRAME_DATA_WRITE (R285). -/
  | memFrameDataWrite (acc : Accessor) (v : Word64)
  /-- SRAM_CLASS_WRITE (R285). -/
  | sramClassWrite (acc : Accessor) (cd : Fin 8) (k : Fin 32) (v : Word64)
  /-- RAW_READ (R284). -/
  | rawRead (acc : Accessor) (ctl : Fin 62)
  /-- RAW_WRITE (R284). -/
  | rawWrite (acc : Accessor) (ctl : Fin 62)
  /-- STREAM (R298). -/
  | stream (cd : Fin 8) (se : Fin 8) (ch : Fin 4)
  /-- STREAM_FAULT (R305). -/
  | streamFault (cd : Fin 8) (se : Fin 8) (ch : Fin 4)
  /-- STREAM_END (R287). -/
  | streamEnd (cd : Fin 8) (se : Fin 8) (ch : Fin 4)
  /-- SE_CH_RESUME (R306). -/
  | seChResume (acc : Accessor) (cd : Fin 8) (se : Fin 8) (ch : Fin 4)
  /-- SE_CH_FAIL (R306). -/
  | seChFail (acc : Accessor) (cd : Fin 8) (se : Fin 8) (ch : Fin 4)
  /-- FAULT_LIMIT_EXPIRY (R306). -/
  | faultLimitExpiry (cd : Fin 8) (se : Fin 8) (ch : Fin 4)
  /-- POOL_STALL (R315). -/
  | poolStall (cd : Fin 8) (pool : Fin 12)
  /-- SE_SR_SEED_WRITE (R221). -/
  | seSrSeedWrite (acc : Accessor) (cd : Fin 8) (se : Fin 8) (v : Word64)
  /-- XLT_INVAL_WRITE (R303). -/
  | xltInvalWrite (acc : Accessor) (slot : Fin 4) (v : Word64)
  /-- XLT_INVAL_DONE (R303). -/
  | xltInvalDone (slot : Fin 4)
  /-- CROSSING_ERROR (R332). -/
  | crossingError (cd : Fin 8) (xing : BitVec 7)
  /-- STRETCH_PERIOD (R333). -/
  | stretchPeriod (die : Fin 12) (carousel : Bool)
  /-- CLK_STEP_WRITE (R336). -/
  | clkStepWrite (acc : Accessor) (die : Fin 12) (v : Word64)
  /-- SUPPLY_CHANGE_DONE (R338). -/
  | supplyChangeDone (die : Fin 12)
  /-- GLIDE_COMPLETE (R336). -/
  | glideComplete (die : Fin 12)
  /-- STOP_HALT (R337). -/
  | stopHalt (die : Fin 12)
  /-- STOP_RESTART (R336). -/
  | stopRestart (die : Fin 12)
  /-- HL_EN_WRITE (R345). -/
  | hlEnWrite (acc : Accessor) (port : Fin 8) (v : Word64)
  /-- HL_ROLE_CHANGE (R344). -/
  | hlRoleChange (port : Fin 8) (role : Fin 8)
  /-- SEAL_OK_WRITE (R491). -/
  | sealOkWrite (acc : Accessor) (port : Fin 8) (on : Bool)
  /-- HL_RETRAIN (R346). -/
  | hlRetrain (acc : Accessor) (port : Fin 8)
  /-- DETECT_COMPLETE (R347). -/
  | detectComplete (port : Fin 8) (driven : BitVec 12) (txGnd : BitVec 12) (rxGnd : BitVec 12) (txSup : BitVec 12) (rxSup : BitVec 12) (txOpen : BitVec 12) (rxOpen : BitVec 12)
  /-- EQUALIZE_COMPLETE (R345). -/
  | equalizeComplete (port : Fin 8)
  /-- ALIGN_COMPLETE (R346). -/
  | alignComplete (port : Fin 8) (order : BitVec 48) (inverted : BitVec 12)
  /-- TRAINING_TIMEOUT (R345). -/
  | trainingTimeout (port : Fin 8)
  /-- CROSSED_RECHECK (R347). -/
  | crossedRecheck (port : Fin 8)
  /-- LANE_LOSS_OF_LOCK (R348). -/
  | laneLossOfLock (port : Fin 8) (lane : Fin 12)
  /-- LANE_ERROR_RATE (R348). -/
  | laneErrorRate (port : Fin 8) (lane : Fin 12)
  /-- FAST_RETRAIN_COMPLETE (R348). -/
  | fastRetrainComplete (port : Fin 8)
  /-- FLIT_RECEIVE (R350). -/
  | flitReceive (port : Fin 8) (flit : List Byte) (corrected : Nat) (bad : Bool)
  /-- FRAME_RECEIVE (R355). -/
  | frameReceive (port : Fin 8)
  /-- HOLD_LIMIT_EXPIRY (R358). -/
  | holdLimitExpiry
  /-- HEARTBEAT_SEND (R366). -/
  | heartbeatSend (port : Fin 8)
  /-- HEARTBEAT (R366). -/
  | heartbeat
  /-- HEARTBEAT_LOSS (R366). -/
  | heartbeatLoss (port : Fin 8)
  /-- ALIVE_LIMIT_EXPIRY (R366). -/
  | aliveLimitExpiry
  /-- HLM_ALIVE (R366). -/
  | hlmAlive (acc : Accessor) (v : Word64)
  /-- IDENT (R344). -/
  | ident
  /-- DOORBELL (R436). -/
  | doorbell
  /-- PEER_CMD_REPLY (R435). -/
  | peerCmdReply
  /-- ALL_REDUCE (R384). -/
  | allReduce (re : Fin 2) (slot : Fin 4)
  /-- REDUCE_SCATTER (R374). -/
  | reduceScatter (re : Fin 2) (slot : Fin 4)
  /-- ALL_GATHER (R378). -/
  | allGather (re : Fin 2) (slot : Fin 4)
  /-- ALL_TO_ALL (R374). -/
  | allToAll (re : Fin 2) (slot : Fin 4)
  /-- PERMUTE (R376). -/
  | permute (re : Fin 2) (slot : Fin 4)
  /-- SEND (R377). -/
  | send (re : Fin 2) (slot : Fin 4)
  /-- RECV (R377). -/
  | recv (re : Fin 2) (slot : Fin 4)
  /-- SHIFT (R374). -/
  | shift (re : Fin 2) (slot : Fin 4)
  /-- BARRIER (R383). -/
  | barrier (re : Fin 2) (slot : Fin 4)
  /-- RE_FRAME_CONSUME (R384). -/
  | reFrameConsume (re : Fin 2) (slot : Fin 4)
  /-- COLLECTIVE_END (R370). -/
  | collectiveEnd (re : Fin 2) (slot : Fin 4) (index : Fin 4)
  /-- COLLECTIVE_TIMEOUT (R397). -/
  | collectiveTimeout (re : Fin 2) (slot : Fin 4)
  /-- CREDIT (R380). -/
  | credit
  /-- COUNT (R374). -/
  | count
  /-- BARRIER_GATHER (R383). -/
  | barrierGather
  /-- BARRIER_RESULT (R383). -/
  | barrierResult
  /-- NOISE_GATHER (R388). -/
  | noiseGather
  /-- NOISE_RESULT (R388). -/
  | noiseResult
  /-- RE_LIST_CTL_WRITE (R373). -/
  | reListCtlWrite (acc : Accessor) (re : Fin 2) (slot : Fin 4) (v : Word64)
  /-- RE_SR_SEED_WRITE (R221). -/
  | reSrSeedWrite (acc : Accessor) (re : Fin 2) (v : Word64)
  /-- YIELD_FORCED (R396). -/
  | yieldForced (cd : Fin 8)
  /-- CLAIM (R413). -/
  | claim
  /-- CLAIM_WINDOW_EXPIRY (R413). -/
  | claimWindowExpiry
  /-- ACCEPT (R414). -/
  | accept
  /-- DECLARE (R412). -/
  | declare
  /-- CATCH_FENCE (R413). -/
  | catchFence
  /-- SWING_COMPLETE (R414). -/
  | swingComplete
  /-- RECOVER (R416). -/
  | recover
  /-- QUIET_REACHED (R416). -/
  | quietReached (slot : Fin 4)
  /-- FILL_REQ (R418). -/
  | fillReq
  /-- FILL_FRAME (R419). -/
  | fillFrame
  /-- DIGEST (R420). -/
  | digest
  /-- CATCH_RESUME (R417). -/
  | catchResume
  /-- MIRROR_FRAME (R408). -/
  | mirrorFrame
  /-- MIRROR_DONE (R408). -/
  | mirrorDone
  /-- SNAPSHOT_COPY_COMPLETE (R402). -/
  | snapshotCopyComplete (slot : Fin 4)
  /-- SNAPSHOT_DRAIN_COMPLETE (R404). -/
  | snapshotDrainComplete (slot : Fin 4)
  /-- RESTORE_COMPLETE (R409). -/
  | restoreComplete (slot : Fin 4)
  /-- DATAGRAM_DISCARD (R433). -/
  | datagramDiscard
  /-- SLQ_DB (R445). -/
  | slqDb (acc : Accessor) (slot : Fin 4) (v : Word64)
  /-- SLOT_CREATE (R444). -/
  | slotCreate (arr : Arrival)
  /-- SLOT_DISABLE (R451). -/
  | slotDisable (arr : Arrival)
  /-- SLOT_STATUS (R438). -/
  | slotStatus (arr : Arrival)
  /-- PAT_LOAD (R151). -/
  | patLoad (arr : Arrival)
  /-- PAT_UNLOAD (R438). -/
  | patUnload (arr : Arrival)
  /-- PAT_LAUNCH (R444). -/
  | patLaunch (arr : Arrival)
  /-- CTX_RESUME (R438). -/
  | ctxResume (arr : Arrival)
  /-- FRAME_GRANT (R527). -/
  | frameGrant (arr : Arrival)
  /-- FRAME_RELEASE (R527). -/
  | frameRelease (arr : Arrival)
  /-- QUOTA_SET (R259). -/
  | quotaSet (arr : Arrival)
  /-- SLOT_REG_WRITE (R439). -/
  | slotRegWrite (arr : Arrival)
  /-- STASH_PURGE (R203). -/
  | stashPurge (arr : Arrival)
  /-- STEP_RATE (R230). -/
  | stepRate (arr : Arrival)
  /-- GROUP_WRITE (R230). -/
  | groupWrite (arr : Arrival)
  /-- LSCALE_SET (R220). -/
  | lscaleSet (arr : Arrival)
  /-- SKIP_NEXT (R238). -/
  | skipNext (arr : Arrival)
  /-- STEP_QUERY (R438). -/
  | stepQuery (arr : Arrival)
  /-- SNAP_TAKE (R402). -/
  | snapTake (arr : Arrival)
  /-- SNAP_CONFIG (R438). -/
  | snapConfig (arr : Arrival)
  /-- SNAP_STATUS (R438). -/
  | snapStatus (arr : Arrival)
  /-- RING_FORM (R400). -/
  | ringForm (arr : Arrival)
  /-- PORT_ROLE (R438). -/
  | portRole (arr : Arrival)
  /-- CATCH_TABLE (R411). -/
  | catchTable (arr : Arrival)
  /-- HANDBACK (R425). -/
  | handback (arr : Arrival)
  /-- JOIN (R426). -/
  | join (arr : Arrival)
  /-- RING_STATUS (R438). -/
  | ringStatus (arr : Arrival)
  /-- CSR_READ (R438). -/
  | csrRead (arr : Arrival)
  /-- CSR_WRITE (R438). -/
  | csrWrite (arr : Arrival)
  /-- SELFTEST (R438). -/
  | selftest (arr : Arrival) (pass : BitVec 12)
  /-- BUDGET_SET (R453). -/
  | budgetSet (arr : Arrival)
  /-- CAP_SET (R438). -/
  | capSet (arr : Arrival)
  /-- DIE_PARK (R438). -/
  | diePark (arr : Arrival)
  /-- ABORT_QUEUE (R448). -/
  | abortQueue (arr : Arrival)
  /-- ABORT_SLOT (R449). -/
  | abortSlot (arr : Arrival)
  /-- ABORT_CMD (R448). -/
  | abortCmd (arr : Arrival)
  /-- POWER_GOOD (R465). -/
  | powerGood (serving : BitVec 2) (rec : List Byte) (certs : Bool) (keys : Bool)
  /-- STAGE_BOUND_EXPIRY (R465). -/
  | stageBoundExpiry
  /-- STACK_RETRAIN_COMPLETE (R465). -/
  | stackRetrainComplete (stack : Fin 24) (pass : Bool)
  /-- CAP_RAISE (R465). -/
  | capRaise
  /-- SUP_CORE_MARK (R465). -/
  | supCoreMark (acc : Accessor) (v : Word64)
  /-- WATCHDOG_KICK (R458). -/
  | watchdogKick (acc : Accessor)
  /-- WATCHDOG_NMI (R458). -/
  | watchdogNmi
  /-- WATCHDOG_RESET (R458). -/
  | watchdogReset
  /-- SUP_SRAM_UE (R459). -/
  | supSramUe
  /-- FW_WRITE (R471). -/
  | fwWrite (acc : Accessor)
  /-- FW_WRITE_COMPLETE (R471). -/
  | fwWriteComplete (readback : Bool)
  /-- FW_TRIAL (R471). -/
  | fwTrial (acc : Accessor)
  /-- FW_REBOOT (R471). -/
  | fwReboot (acc : Accessor)
  /-- FW_FLOOR (R471). -/
  | fwFloor (acc : Accessor)
  /-- TRIAL_CONFIRM (R472). -/
  | trialConfirm
  /-- SENSOR_SAMPLE (R460). -/
  | sensorSample (index : Fin 420) (value : BitVec 16) (raw : Nat)
  /-- SNS_FAULT_CLEAR (R462). -/
  | snsFaultClear (acc : Accessor) (v : Word64)
  /-- QUOTE (R480). -/
  | quote (acc : Accessor)
  /-- QUOTE_COMPLETE (R480). -/
  | quoteComplete
  /-- POL_INSTALL (R483). -/
  | polInstall (acc : Accessor)
  /-- POL_RESET (R484). -/
  | polReset (acc : Accessor)
  /-- TS_RELEASE (R496). -/
  | tsRelease (acc : Accessor) (slot : Fin 4)
  /-- TS_RELEASE_COMPLETE (R498). -/
  | tsReleaseComplete (slot : Fin 4)
  /-- TS_LOG_ACK (R498). -/
  | tsLogAck (acc : Accessor) (v : Word64)
  /-- EVENT_RAISE (R505). -/
  | eventRaise
  /-- EVR_FLUSH (R502). -/
  | evrFlush (acc : Accessor)
  /-- EVR_FLUSH_COMPLETE (R502). -/
  | evrFlushComplete
  /-- EVR_CLEAR (R507). -/
  | evrClear (acc : Accessor)
  /-- EVR_ERASE_COMPLETE (R507). -/
  | evrEraseComplete
  /-- INPUT_REVERSED (R512). -/
  | inputReversed (input : Fin 2)
  /-- INPUT_OVERVOLTAGE (R512). -/
  | inputOvervoltage (input : Fin 2)
  /-- INPUT_OVERCURRENT (R512). -/
  | inputOvercurrent (input : Fin 2)
  /-- STAGE_RECLOSE (R512). -/
  | stageReclose (input : Fin 2)
  /-- INPUT_LOST (R513). -/
  | inputLost (input : Fin 2)
  /-- INPUT_RESTORED (R513). -/
  | inputRestored (input : Fin 2)
  /-- DIE_BOOT_LOCK_WRITE (R35). -/
  | dieBootLockWrite (acc : Accessor) (die : Fin 14) (v : Word64)
  /-- CSR_REGISTER_WRITE (R16). -/
  | csrRegisterWrite (acc : Accessor) (addr : Nat) (v : Word64)
  /-- MODULE_RESET (R463). -/
  | moduleReset
  /-- SELF_TEST_COMPLETE (R465). -/
  | selfTestComplete (die : Fin 14) (pass : Bool)
  /-- FIRST_TRAINING_COMPLETE (R466). -/
  | firstTrainingComplete (stack : Fin 24) (pass : Bool)
  /-- DATA_PORT_TRANSMIT (R489). -/
  | dataPortTransmit (port : Fin 2) (addr : Nat) (len : Nat)
  /-- OPERATING_SECOND (R457). -/
  | operatingSecond
  deriving DecidableEq, Repr

end Sys2Proof
end

