-- ==== Sys2Proof/WellFormed.lean ====
section
/-! DEFINITION. Which commands are well formed: the bounds that a command's operands have and their types do not say. A command that
is not well formed is one that no agent of the module can give; its meaning is total all the same. -/

namespace Sys2Proof

/-- A 64-bit address (R15, R30). -/
def addrOk (a : Nat) : Bool := decide (a < 2 ^ 64)

/-- A request of at least one byte (R30). -/
def lenOk (n : Nat) : Bool := decide (0 < n)

/-- The frames of a tier, or the blocks of a die's stage SRAM (R254, R256, R440). -/
def placeOk (tier : Fin 3) (index : Nat) : Bool :=
  decide (index < (match tier with | 0 => 589824 | 1 => 786432 | 2 => 2048))

/-- A flit is 144 bytes on the link (R349). -/
def flitOk (flit : List Byte) : Bool := flit.length == 144

/-- The checks of a command. -/
def WellFormed : Instr → Bool
  | .memRead _ addr len => addrOk addr && lenOk len
  | .memWrite _ addr data _ => addrOk addr && lenOk data.length
  | .csrRegisterWrite _ addr _ => addrOk addr
  | .dataPortTransmit _ addr len => addrOk addr && lenOk len
  | .zeroingComplete tier _ index => placeOk tier index
  | .flitReceive _ flit _ _ => flitOk flit
  | _ => true

end Sys2Proof
end

