-- ==== Sys2Proof/Machine/Table.lean ====
section
/-! DEFINITION. Sparse tables in one canonical form: the shape in which State holds everything that the module has many of.
A table lists (key, value) pairs with keys strictly rising, and lists no value equal to the default, so equal tables are equal
data. The byte memory is the same idea over addresses. Nothing here is a rule of the manual. -/

namespace Sys2Proof.Machine

/-- Where a piece of replicated state stands: `f` says what it is (a register field), `d` the die_id (R21), `u` the unit on the
die, `i` the instance or entry within the unit. Each is 0 where the state has no such level. -/
structure Key where
  f : Nat
  d : Nat
  u : Nat
  i : Nat
  deriving DecidableEq, Repr

/-- Lexicographic order of keys. -/
def Key.lt (a b : Key) : Bool :=
  a.f < b.f || (a.f == b.f && (a.d < b.d || (a.d == b.d && (a.u < b.u || (a.u == b.u && a.i < b.i)))))

/-- The plain key of a unit. -/
def Key.at (d : Nat) (u : Nat := 0) (i : Nat := 0) : Key := ⟨0, d, u, i⟩

/-- A sparse table. -/
abbrev Tbl (α : Type) := List (Key × α)

namespace Tbl

variable {α : Type}

/-- The value under a key, `none` where the table lists none. -/
def find? : Tbl α → Key → Option α
  | [], _ => none
  | (k', v) :: t, k => if k' = k then some v else find? t k

/-- The value under a key, with the default `d` for a key that is not listed. -/
def get (d : α) (t : Tbl α) (k : Key) : α := (t.find? k).getD d

/-- Removes a key, wherever it is listed. -/
def erase : Tbl α → Key → Tbl α
  | [], _ => []
  | (k', v) :: t, k => if k' = k then erase t k else (k', v) :: erase t k

/-- Lists a value under a key, in order. -/
def put : Tbl α → Key → α → Tbl α
  | [], k, v => [(k, v)]
  | (k', v') :: t, k, v =>
    if k' = k then (k, v) :: t
    else if k'.lt k then (k', v') :: put t k v
    else (k, v) :: (k', v') :: t

/-- Stores a value under a key; the default is stored by listing nothing. -/
def set [DecidableEq α] (d : α) (t : Tbl α) (k : Key) (v : α) : Tbl α :=
  if v = d then t.erase k else t.put k v

/-- Changes the value under a key. -/
def modify [DecidableEq α] (d : α) (t : Tbl α) (k : Key) (g : α → α) : Tbl α :=
  t.set d k (g (t.get d k))

/-- Keys strictly rise. -/
def Sorted : Tbl α → Bool
  | [] => true
  | [_] => true
  | (k, _) :: (k', v') :: t => k.lt k' && Sorted ((k', v') :: t)

/-- The canonical form: keys strictly rise and no listed value is the default of its key. -/
def wf [DecidableEq α] (d : Key → α) (t : Tbl α) : Bool :=
  t.Sorted && t.all (fun e => decide (e.2 ≠ d e.1))

/-- The listed entries whose key meets a test, in order. -/
def entries (t : Tbl α) (p : Key → Bool) : List (Key × α) := t.filter (fun e => p e.1)

/-- Drops every entry whose key meets a test: each such key goes back to its default. -/
def clear (t : Tbl α) (p : Key → Bool) : Tbl α := t.filter (fun e => !p e.1)

end Tbl

/-- A byte memory: (address, byte) pairs, addresses strictly rising, no zero byte listed. An unlisted address reads as zero
(DESIGN CHOICE, log entry 2). -/
abbrev Memory := List Host.Cell

namespace Memory

/-- The byte at an address. -/
def read : Memory → Nat → Byte
  | [], _ => 0
  | (a', b) :: m, a => if a' = a then b else read m a

/-- Removes an address, wherever it is listed. -/
def erase : Memory → Nat → Memory
  | [], _ => []
  | (a', b) :: m, a => if a' = a then erase m a else (a', b) :: erase m a

/-- Lists a byte at an address, in order. -/
def put : Memory → Nat → Byte → Memory
  | [], a, b => [(a, b)]
  | (a', b') :: m, a, b =>
    if a' = a then (a, b) :: m
    else if a' < a then (a', b') :: put m a b
    else (a, b) :: (a', b') :: m

/-- Stores one byte, keeping the canonical form. -/
def write (m : Memory) (a : Nat) (b : Byte) : Memory :=
  if b = 0 then m.erase a else m.put a b

/-- `n` bytes from an address up. -/
def readBytes (m : Memory) (a n : Nat) : List Byte := (List.range n).map (fun j => m.read (a + j))

/-- Stores bytes from an address up. -/
def writeBytes : Memory → Nat → List Byte → Memory
  | m, _, [] => m
  | m, a, b :: bs => writeBytes (m.write a b) (a + 1) bs

/-- Zeroes `n` bytes from an address up: they are listed no longer. -/
def zero (m : Memory) (a n : Nat) : Memory := m.filter (fun c => !(a ≤ c.1 && c.1 < a + n))

/-- Copies `n` bytes between byte memories: the range of `dst` at `da` becomes the range of `src` at `sa`. -/
def blit (dst : Memory) (da : Nat) (src : Memory) (sa n : Nat) : Memory :=
  dst.filter (fun c => c.1 < da) ++ (src.filter (fun c => sa ≤ c.1 && c.1 < sa + n)).map (fun c => (c.1 - sa + da, c.2))
    ++ dst.filter (fun c => da + n ≤ c.1)

/-- The canonical form: addresses strictly rise and no zero byte is listed. -/
def wf : Memory → Bool
  | [] => true
  | [(_, b)] => b != 0
  | (a, b) :: (a', b') :: m => b != 0 && a < a' && wf ((a', b') :: m)

end Memory

/-- Little-endian value of a list of bytes (R13). -/
def leNat : List Byte → Nat
  | [] => 0
  | b :: bs => b.toNat + 256 * leNat bs

/-- The `n` little-endian bytes of a value (R13). -/
def leBytes : Nat → Nat → List Byte
  | 0, _ => []
  | n + 1, v => BitVec.ofNat 8 v :: leBytes n (v / 256)

/-- Bits [hi:lo] of a value, as a number (R13). -/
def bits (v hi lo : Nat) : Nat := (v >>> lo) % 2 ^ (hi + 1 - lo)

end Sys2Proof.Machine
end

