-- ==== Sys2Proof/Machine/Numeric.lean ====
section
/-! DEFINITION. Exact dyadic arithmetic and the one rounding of each operation (chapter "Number formats and rounding"):
encodings R117 to R120, rounding R121 to R125, special values R142 to R144, S24 R135 to R137, block formats R139 to R141.
Element values are bit patterns held as numbers; a value is decoded exactly, computed exactly and rounded once. -/

namespace Sys2Proof.Machine

/-- The exact value (−1)^neg × m × 2^e; m = 0 is a signed zero. -/
structure Dy where
  neg : Bool
  m : Nat
  e : Int
  deriving DecidableEq, Repr

/-- A floating-point value: NaN, an infinity, or a finite value. -/
inductive Num where
  | nan
  | inf (neg : Bool)
  | fin (d : Dy)
  deriving DecidableEq, Repr

/-- A floating-point format of R117: exponent and mantissa widths, bias, whether it has infinities, the largest finite pattern
and the canonical NaN of R119. -/
structure FFmt where
  ebits : Nat
  mbits : Nat
  bias : Nat
  hasInf : Bool
  maxPat : Nat
  nanPat : Nat
  deriving DecidableEq, Repr

def FFmt.width (f : FFmt) : Nat := 1 + f.ebits + f.mbits

def e4m3 : FFmt := ⟨4, 3, 7, false, 0x7E, 0x7F⟩
def e5m2 : FFmt := ⟨5, 2, 15, true, 0x7B, 0x7E⟩
def bf16 : FFmt := ⟨8, 7, 127, true, 0x7F7F, 0x7FC0⟩
def fp16 : FFmt := ⟨5, 10, 15, true, 0x7BFF, 0x7E00⟩
def fp32 : FFmt := ⟨8, 23, 127, true, 0x7F7FFFFF, 0x7FC00000⟩
/-- The double format of the noise sums (R388). -/
def fp64 : FFmt := ⟨11, 52, 1023, true, 0x7FEFFFFFFFFFFFFF, 0x7FF8000000000000⟩

/-- The exponent of the smallest subnormal. -/
def FFmt.qmin (f : FFmt) : Int := 1 - (f.bias : Int) - f.mbits

/-- The pattern of +infinity. -/
def FFmt.infPat (f : FFmt) : Nat := (2 ^ f.ebits - 1) * 2 ^ f.mbits

/-- Decodes a bit pattern (R117). -/
def FFmt.decode (f : FFmt) (p : Nat) : Num :=
  let neg := p.testBit (f.ebits + f.mbits)
  let mag := p % 2 ^ (f.ebits + f.mbits)
  if mag ≤ f.maxPat then
    let ex := mag / 2 ^ f.mbits
    let man := mag % 2 ^ f.mbits
    if ex = 0 then .fin ⟨neg, man, f.qmin⟩ else .fin ⟨neg, man + 2 ^ f.mbits, f.qmin + (ex - 1 : Nat)⟩
  else if f.hasInf && mag == f.infPat then .inf neg
  else .nan

/-- A pattern with its sign bit. -/
def FFmt.sign (f : FFmt) (neg : Bool) (mag : Nat) : Nat := (if neg then 2 ^ (f.ebits + f.mbits) else 0) + mag

/-- The rounding modes of R121. -/
inductive Rnd where
  | rne | rtz | sr
  deriving DecidableEq, Repr

def Rnd.ofCode : Nat → Option Rnd
  | 0 => some .rne
  | 1 => some .rtz
  | 2 => some .sr
  | _ => none

/-- Bits of a magnitude. -/
def bitLen (m : Nat) : Nat := if m = 0 then 0 else Nat.log2 m + 1

/-- The integer magnitude m × 2^(−shift) rounded by a mode (R121, R122); `u` is the 16-bit draw of stochastic rounding. -/
def roundShift (rnd : Rnd) (u m shift : Nat) : Nat :=
  let a := m >>> shift
  let rem := m % 2 ^ shift
  let up := match rnd with
    | .rne => decide (2 * rem > 2 ^ shift) || (decide (2 * rem = 2 ^ shift) && a % 2 == 1 && shift != 0)
    | .rtz => false
    | .sr => decide (u < rem * 2 ^ 16 / 2 ^ shift)
  if up then a + 1 else a

/-- A value scaled to a grid of exponent `q` and rounded to it: the grid count. -/
def Dy.toGrid (d : Dy) (rnd : Rnd) (u : Nat) (q : Int) : Nat :=
  if q ≤ d.e then d.m * 2 ^ (d.e - q).toNat else roundShift rnd u d.m (q - d.e).toNat

/-- A rounded result: its pattern, and whether it overflowed (R124). -/
structure Rounded where
  pat : Nat
  overflow : Bool
  deriving DecidableEq, Repr

/-- The result of an overflow (R124). -/
def FFmt.overflowPat (f : FFmt) (ovf : Bool) (rnd : Rnd) (neg : Bool) : Nat :=
  if f = e4m3 then (if ovf then f.nanPat else f.sign neg f.maxPat)
  else if f = e5m2 && !ovf then f.sign neg f.maxPat
  else if rnd = .rtz then f.sign neg f.maxPat
  else f.sign neg f.infPat

/-- The result of an infinite source (R124). -/
def FFmt.infResult (f : FFmt) (ovf neg : Bool) : Nat :=
  if f = e4m3 then (if ovf then f.nanPat else f.sign neg f.maxPat)
  else if f = e5m2 && !ovf then f.sign neg f.maxPat
  else f.sign neg f.infPat

/-- Rounds a finite value into a format, once (R118, R121, R122, R124). -/
def FFmt.round (f : FFmt) (ovf : Bool) (rnd : Rnd) (u : Nat) (d : Dy) : Rounded :=
  if d.m = 0 then ⟨f.sign d.neg 0, false⟩
  else
    let top : Int := d.e + bitLen d.m - 1
    let q : Int := max (top - f.mbits) f.qmin
    let n := d.toGrid rnd u q
    let mag := (q - f.qmin).toNat * 2 ^ f.mbits + n
    if mag ≤ f.maxPat then ⟨f.sign d.neg mag, false⟩
    else ⟨f.overflowPat ovf rnd d.neg, true⟩

/-- Rounds any value into a format: NaN is canonical (R119), infinities follow R124. -/
def FFmt.encode (f : FFmt) (ovf : Bool) (rnd : Rnd) (u : Nat) : Num → Rounded
  | .nan => ⟨f.nanPat, false⟩
  | .inf neg => ⟨f.infResult ovf neg, decide (f = e4m3) || (decide (f = e5m2) && !ovf)⟩
  | .fin d => f.round ovf rnd u d

namespace Num

def neg : Num → Num
  | .nan => .nan
  | .inf s => .inf (!s)
  | .fin d => .fin { d with neg := !d.neg }

def abs : Num → Num
  | .nan => .nan
  | .inf _ => .inf false
  | .fin d => .fin { d with neg := false }

def isNan : Num → Bool
  | .nan => true
  | _ => false

def isFinite : Num → Bool
  | .fin _ => true
  | _ => false

def isZero : Num → Bool
  | .fin d => d.m == 0
  | _ => false

/-- The value as a signed integer on a common grid. -/
def scaled (d : Dy) (q : Int) : Int := (if d.neg then -1 else 1) * (d.m * 2 ^ (d.e - q).toNat : Nat)

/-- Exact sum; zero sums are signed as R142 says. -/
def addDy (a b : Dy) : Dy :=
  let q := min a.e b.e
  let s := scaled a q + scaled b q
  if s = 0 then ⟨a.neg && b.neg && a.m == 0 && b.m == 0, 0, 0⟩ else ⟨decide (s < 0), s.natAbs, q⟩

/-- Exact addition (R142). -/
def add : Num → Num → Num
  | .nan, _ => .nan
  | _, .nan => .nan
  | .inf s, .inf t => if s = t then .inf s else .nan
  | .inf s, _ => .inf s
  | _, .inf t => .inf t
  | .fin a, .fin b => .fin (addDy a b)

def sub (a b : Num) : Num := add a (neg b)

/-- Exact product (R142). -/
def mul : Num → Num → Num
  | .nan, _ => .nan
  | _, .nan => .nan
  | .inf s, .inf t => .inf (s != t)
  | .inf s, .fin b => if b.m = 0 then .nan else .inf (s != b.neg)
  | .fin a, .inf t => if a.m = 0 then .nan else .inf (a.neg != t)
  | .fin a, .fin b => .fin ⟨a.neg != b.neg, a.m * b.m, a.e + b.e⟩

/-- Exact product-sum (R142: 0 × infinity + c is NaN for any c). -/
def fma (a b c : Num) : Num := add (mul a b) c

/-- Scales by a power of two, exactly (R127). -/
def scale2 (k : Int) : Num → Num
  | .fin d => .fin { d with e := d.e + k }
  | x => x

/-- a < b for values that are not NaN. -/
def ltN : Num → Num → Bool
  | .inf s, .inf t => s && !t
  | .inf s, .fin _ => s
  | .fin _, .inf t => !t
  | .fin a, .fin b => let q := min a.e b.e; decide (scaled a q < scaled b q)
  | _, _ => false

/-- a = b for values that are not NaN; the two zeros are equal (R144). -/
def eqN : Num → Num → Bool
  | .inf s, .inf t => s == t
  | .fin a, .fin b => let q := min a.e b.e; decide (scaled a q = scaled b q)
  | _, _ => false

/-- The larger of two values (R143): a NaN yields to a number, and +0 exceeds −0. -/
def max (a b : Num) : Num :=
  if a.isNan then b else if b.isNan then a
  else if ltN a b then b else if ltN b a then a
  else match a with
    | .fin d => if d.neg then b else a
    | _ => a

/-- The smaller of two values (R143). -/
def min' (a b : Num) : Num :=
  if a.isNan then b else if b.isNan then a
  else if ltN a b then a else if ltN b a then b
  else match a with
    | .fin d => if d.neg then a else b
    | _ => a

/-- The exact value of an integer. -/
def ofInt (z : Int) : Num := .fin ⟨decide (z < 0), z.natAbs, 0⟩

end Num

/-- Correctly roundable quotient: 80 quotient bits and a sticky bit (for RNE and RTZ). -/
def Dy.div (a b : Dy) : Dy :=
  let s := 80 + bitLen b.m
  let q := a.m * 2 ^ s / b.m
  let r := a.m * 2 ^ s % b.m
  ⟨a.neg != b.neg, 2 * q + (if r = 0 then 0 else 1), a.e - s - b.e - 1⟩

/-- Integer square root by bits, from bit `k - 1` down. -/
def isqrtBits (n : Nat) : Nat → Nat → Nat
  | 0, r => r
  | k + 1, r => if (r + 2 ^ k) * (r + 2 ^ k) ≤ n then isqrtBits n k (r + 2 ^ k) else isqrtBits n k r

def isqrt (n : Nat) : Nat := isqrtBits n (bitLen n / 2 + 1) 0

/-- Correctly roundable square root of a magnitude, with a sticky bit. -/
def Dy.sqrt (a : Dy) : Dy :=
  let odd : Nat := (a.e % 2).toNat
  let n := a.m * 2 ^ (160 + odd)
  let r := isqrt n
  ⟨false, 2 * r + (if r * r = n then 0 else 1), (a.e - odd) / 2 - 80 - 1⟩

/-- Quotient of floating-point values as IEEE 754 has it. -/
def Num.div : Num → Num → Num
  | .nan, _ => .nan
  | _, .nan => .nan
  | .inf _, .inf _ => .nan
  | .inf s, .fin b => .inf (s != b.neg)
  | .fin a, .inf t => .fin ⟨a.neg != t, 0, 0⟩
  | .fin a, .fin b =>
    if b.m = 0 then (if a.m = 0 then .nan else .inf (a.neg != b.neg))
    else if a.m = 0 then .fin ⟨a.neg != b.neg, 0, 0⟩
    else .fin (a.div b)

/-- Square root as IEEE 754 has it. -/
def Num.sqrt : Num → Num
  | .nan => .nan
  | .inf s => if s then .nan else .inf false
  | .fin a => if a.m = 0 then .fin a else if a.neg then .nan else .fin a.sqrt

/-- One FP32 operation result rounded to nearest even, with overflow as under OVF = 1 (R142). -/
def rne32 (x : Num) : Nat := (fp32.encode true .rne 0 x).pat

def add32 (a b : Nat) : Nat := rne32 ((fp32.decode a).add (fp32.decode b))
def sub32 (a b : Nat) : Nat := rne32 ((fp32.decode a).sub (fp32.decode b))
def mul32 (a b : Nat) : Nat := rne32 ((fp32.decode a).mul (fp32.decode b))
def fma32 (a b c : Nat) : Nat := rne32 (Num.fma (fp32.decode a) (fp32.decode b) (fp32.decode c))
def div32 (a b : Nat) : Nat := rne32 ((fp32.decode a).div (fp32.decode b))
def sqrt32 (a : Nat) : Nat := rne32 (fp32.decode a).sqrt

/-- One FP32 addition rounded stochastically with a draw (R123). -/
def addSr32 (u a b : Nat) : Nat := (fp32.encode true .sr u ((fp32.decode a).add (fp32.decode b))).pat

/-- Saturates an integer to a range. -/
def clampInt (lo hi z : Int) : Int := if z < lo then lo else if hi < z then hi else z

/-- The two's complement value of a pattern of `w` bits. -/
def toSigned (w p : Nat) : Int := if p % 2 ^ w < 2 ^ (w - 1) then (p % 2 ^ w : Nat) else ((p % 2 ^ w : Nat) : Int) - 2 ^ w

/-- The pattern of `w` bits of an integer. -/
def ofSigned (w : Nat) (z : Int) : Nat := (z % (2 ^ w : Nat)).toNat

/-- The element format codes of R116. -/
inductive Fmt where
  | e4m3 | e5m2 | int8 | uint8 | bf16 | fp16 | fp32 | int32 | int4 | g16s | bq8
  deriving DecidableEq, Repr

def Fmt.ofCode : Nat → Option Fmt
  | 0x0 => some .e4m3
  | 0x1 => some .e5m2
  | 0x2 => some .int8
  | 0x3 => some .uint8
  | 0x4 => some .bf16
  | 0x5 => some .fp16
  | 0x6 => some .fp32
  | 0x7 => some .int32
  | 0x8 => some .int4
  | 0x9 => some .g16s
  | 0xA => some .bq8
  | _ => none

/-- The formats a convert operation or a stream convert step may name (R116). -/
def Fmt.convertible : Fmt → Bool
  | .int4 => false
  | _ => true

/-- Element width in bits (R116), without the block scale. -/
def Fmt.bits : Fmt → Nat
  | .e4m3 | .e5m2 | .int8 | .uint8 | .bq8 => 8
  | .bf16 | .fp16 | .g16s => 16
  | .fp32 | .int32 => 32
  | .int4 => 4

/-- Elements that share one scale byte (R139); 0 for a plain format. -/
def Fmt.block : Fmt → Nat
  | .g16s => 64
  | .bq8 => 32
  | _ => 0

/-- The floating-point format of an element, `none` for the integers. -/
def Fmt.ffmt : Fmt → Option FFmt
  | .e4m3 | .bq8 => some Machine.e4m3
  | .e5m2 => some Machine.e5m2
  | .bf16 => some Machine.bf16
  | .fp16 | .g16s => some Machine.fp16
  | .fp32 => some Machine.fp32
  | _ => none

/-- The exact value of an element (R117, R120), without a block scale. -/
def Fmt.value (f : Fmt) (p : Nat) : Num :=
  match f.ffmt with
  | some g => g.decode p
  | none => match f with
    | .int8 => Num.ofInt (toSigned 8 p)
    | .int32 => Num.ofInt (toSigned 32 p)
    | .int4 => Num.ofInt (toSigned 4 p)
    | _ => Num.ofInt (p % 256 : Nat)

/-- A source element with its block scale byte (R139): scale 0 or 255 reads as NaN. -/
def Fmt.scaledValue (f : Fmt) (scale p : Nat) : Num :=
  if f.block = 0 then f.value p
  else if scale = 0 || scale = 255 then .nan
  else (f.value p).scale2 ((scale : Int) - 127)

/-- The range of an integer destination. -/
def Fmt.intRange : Fmt → Int × Int
  | .int8 => (-128, 127)
  | .uint8 => (0, 255)
  | .int4 => (-8, 7)
  | _ => (-2147483648, 2147483647)

/-- A converted element: its pattern and whether the census counts it as saturated (R124, R125, R214). -/
structure Converted where
  pat : Nat
  saturated : Bool
  deriving DecidableEq, Repr

/-- Converts a value to an integer format (R125). -/
def toIntFmt (f : Fmt) (rnd : Rnd) (u : Nat) : Num → Converted
  | .nan => ⟨0, false⟩
  | .inf neg => let r := f.intRange; ⟨ofSigned f.bits (if neg then r.1 else r.2), true⟩
  | .fin d =>
    let mag : Int := (d.toGrid rnd u 0 : Nat)
    let z := if d.neg then -mag else mag
    let r := f.intRange
    let c := clampInt r.1 r.2 z
    ⟨ofSigned f.bits c, decide (c ≠ z)⟩

/-- The conversion of one value into a plain format or a scaled element (R124, R125, R127). A saturation that the census
counts is one of the outcomes marked "saturated" in R124, or an integer saturation. -/
def convertTo (f : Fmt) (rnd : Rnd) (ovf : Bool) (u : Nat) (x : Num) : Converted :=
  match f.ffmt with
  | some g =>
    let r := g.encode ovf rnd u x
    ⟨r.pat, r.overflow && !ovf && (decide (g = Machine.e4m3) || decide (g = Machine.e5m2))⟩
  | none => toIntFmt f rnd u x

/-- floor(log2(fmax ÷ amax)) for a whole fmax and a positive magnitude. -/
def floorLog2Ratio (fmax : Nat) (a : Dy) : Int :=
  let t : Int := (bitLen fmax : Int) - 1 - (a.e + bitLen a.m - 1)
  let lhs : Nat := fmax * 2 ^ (-(a.e + t)).toNat
  let rhs : Nat := a.m * 2 ^ (a.e + t).toNat
  if lhs < rhs then t - 1 else t

/-- The block scale exponent k of R141 for the largest finite magnitude of the block. -/
def blockExp (fmax : Nat) (amax : Dy) : Int :=
  if amax.m = 0 then 0 else clampInt (-126) 127 (-(floorLog2Ratio fmax amax))

/-- The largest magnitude among the finite values of a list; zero where there is none. -/
def amaxFinite : List Num → Dy
  | [] => ⟨false, 0, 0⟩
  | x :: xs =>
    let r := amaxFinite xs
    match x with
    | .fin d => if Num.ltN (.fin r) (.fin { d with neg := false }) then { d with neg := false } else r
    | _ => r

/-- Encodes one block (R141): the scale byte and the elements with the census flag of each. `draws` are the stochastic draws,
one per element. A finite element whose encoding overflows under a clamped k counts as saturated. -/
def encodeBlock (f : Fmt) (rnd : Rnd) (ovf : Bool) (draws : List Nat) (xs : List Num) : Nat × List Converted :=
  let fmax := if f = .g16s then 65504 else 448
  let k := blockExp fmax (amaxFinite xs)
  let scale := (k + 127).toNat
  let g := if f = .g16s then Machine.fp16 else Machine.e4m3
  let enc (x : Num) (u : Nat) : Converted :=
    let r := g.encode ovf rnd u (x.scale2 (-k))
    match x with
    | .fin _ => ⟨r.pat, r.overflow⟩
    | .inf _ => ⟨r.pat, decide (f = .bq8) && !ovf⟩
    | .nan => ⟨r.pat, false⟩
  (scale, (List.range xs.length).map (fun i => enc (xs.getD i .nan) (draws.getD i 0)))

/-- The magnitude of ulp(hi) as an exponent (R135). -/
def s24UlpExp (hi : Nat) : Int :=
  let ex := bits hi 14 7
  if ex = 0 then -133 else (ex : Int) - 127 - 7

/-- Joins an S24 pair (R135, R137): hi of ±Inf or NaN joins to itself. -/
def s24Join (hi lo : Nat) : Num :=
  match bf16.decode hi with
  | .fin d =>
    let ulp := s24UlpExp hi
    let z : Int := (d.m * 2 ^ (d.e - (ulp - 16)).toNat : Nat) + toSigned 16 lo
    let z := if d.neg then -z else z
    if z = 0 then .fin ⟨d.neg, 0, 0⟩ else .fin ⟨decide (z < 0), z.natAbs, ulp - 16⟩
  | x => x

/-- Splits an FP32 master (R136): hi to nearest with ties away from zero, lo the residual to nearest even on its own grid. -/
def s24Split (p : Nat) : Nat × Nat :=
  match fp32.decode p with
  | .nan => (bf16.nanPat, 0)
  | .inf neg => (bf16.sign neg bf16.infPat, 0)
  | .fin d =>
    if d.m = 0 then (bf16.sign d.neg 0, 0)
    else
      let top : Int := d.e + bitLen d.m - 1
      let q : Int := max (top - 7) bf16.qmin
      let n := if q ≤ d.e then d.m * 2 ^ (d.e - q).toNat
        else (d.m + 2 ^ ((q - d.e).toNat - 1)) >>> (q - d.e).toNat
      let mag := (q - bf16.qmin).toNat * 2 ^ 7 + n
      if mag > bf16.maxPat then (bf16.sign d.neg bf16.infPat, 0)
      else
        let ulp := s24UlpExp mag
        let g := min d.e (ulp - 16)
        let hiV : Int := (n * 2 ^ (q - g).toNat : Nat)
        let res : Int := (d.m * 2 ^ (d.e - g).toNat : Nat) - hiV
        let lo : Int := (roundShift .rne 0 res.natAbs (ulp - 16 - g).toNat : Nat)
        (bf16.sign d.neg mag, ofSigned 16 (if res < 0 then -lo else lo))

/-- The FP32 pattern 2^k, with overflow and underflow as rounding gives them. -/
def pow2Pat (k : Int) : Nat := rne32 (.fin ⟨false, 1, k⟩)

end Sys2Proof.Machine
end

