-- ==== Sys2Proof/Machine/Flags.lean ====
section
/-! DEFINITION. Lanes of vector registers and what a vector operation computes in them (R116 to R144, R159, R160, R182 to R184,
R207, R208, R526): the block has no flags register, so what stands here in place of flags are the compare results, the special
values and the saturations that the manual gives each operation. -/

namespace Sys2Proof.Machine

/-- The dense bytes of a sparse byte memory from address `a` on; `m` lists nothing below `a`. -/
def denseBytes : Memory → Nat → Nat → List Byte
  | _, _, 0 => []
  | [], a, n + 1 => 0 :: denseBytes [] (a + 1) n
  | (x, b) :: m, a, n + 1 => if x = a then b :: denseBytes m (a + 1) n else 0 :: denseBytes ((x, b) :: m) (a + 1) n

/-- `n` bytes of a memory from an address, in one pass. -/
def Memory.slice (m : Memory) (a n : Nat) : List Byte := denseBytes (m.filter (fun c => a ≤ c.1 && c.1 < a + n)) a n

/-- Replaces a range of a memory by dense bytes, in one pass. -/
def Memory.splice (m : Memory) (a : Nat) (bs : List Byte) : Memory :=
  m.filter (fun c => c.1 < a) ++ ((List.range bs.length).filterMap (fun k => let b := bs.getD k 0; if b = 0 then none else some (a + k, b)))
    ++ m.filter (fun c => a + bs.length ≤ c.1)

/-- Elements of `w` bytes, in order. -/
def chunks (w : Nat) : Nat → List Byte → List Nat
  | 0, _ => []
  | n + 1, bs => leNat (bs.take w) :: chunks w n (bs.drop w)

/-- The bytes of elements of `w` bytes. -/
def unchunks (w : Nat) (xs : List Nat) : List Byte := xs.flatMap (leBytes w)

/-- Lane width and count of an ETYPE (R159): FP32 and INT32 have 2,048 lanes, BF16 4,096. -/
def laneBytes (e : Nat) : Nat := if e = 1 then 2 else 4
def laneCount (e : Nat) : Nat := if e = 1 then 4096 else 2048

/-- The floating-point format of an ETYPE. -/
def laneFmt (e : Nat) : FFmt := if e = 1 then bf16 else fp32

/-- The result of a floating-point lane operation: one rounding to nearest even (R142). -/
def laneRound (e : Nat) (x : Num) : Nat := ((laneFmt e).encode true .rne 0 x).pat

/-- Saturates an exact integer to INT32 (R526). -/
def sat32 (z : Int) : Nat := ofSigned 32 (clampInt (-(2 ^ 31)) (2 ^ 31 - 1) z)

/-- A comparison predicate (R144): 0 EQ, 1 NE, 2 LT, 3 LE. -/
def cmpNum (pred : Nat) (a b : Num) : Bool :=
  if a.isNan || b.isNan then pred = 1
  else if pred = 0 then Num.eqN a b else if pred = 1 then !Num.eqN a b
  else if pred = 2 then Num.ltN a b else Num.ltN a b || Num.eqN a b

def cmpInt (pred : Nat) (a b : Int) : Bool :=
  if pred = 0 then a == b else if pred = 1 then a != b else if pred = 2 then decide (a < b) else decide (a ≤ b)

/-- The value 1 of a lane type (R526). -/
def laneOne (e : Nat) : Nat := if e = 0 then 0x3F800000 else if e = 1 then 0x3F80 else 1

/-- One lane of ADD, SUB, MUL, FMA, MAX, MIN, CMP or SEL (R159, R526). -/
def laneOp (fn e pred a b c : Nat) : Nat :=
  if e = 2 then
    let x := toSigned 32 a
    let y := toSigned 32 b
    let z := toSigned 32 c
    match fn with
    | 1 => sat32 (x + y)
    | 2 => sat32 (x - y)
    | 3 => sat32 (x * y)
    | 4 => sat32 (x * y + z)
    | 5 => ofSigned 32 (max x y)
    | 6 => ofSigned 32 (min x y)
    | 7 => if cmpInt pred x y then 1 else 0
    | _ => if z != 0 then a else b
  else
    let f := laneFmt e
    let x := f.decode a
    let y := f.decode b
    let z := f.decode c
    match fn with
    | 1 => laneRound e (x.add y)
    | 2 => laneRound e (x.sub y)
    | 3 => laneRound e (x.mul y)
    | 4 => laneRound e (Num.fma x y z)
    | 5 => laneRound e (Num.max x y)
    | 6 => laneRound e (Num.min' x y)
    | 7 => if cmpNum pred x y then laneOne e else 0
    | _ => if z.isZero then b else a

/-- One level of the RSUM tree: neighbours in pairs (R208). -/
def lanePairs : List Nat → List Nat
  | a :: b :: t => add32 a b :: lanePairs t
  | t => t

/-- The RSUM tree over FP32 patterns, level by level (R208). -/
def lanesSum : Nat → List Nat → Nat
  | 0, xs => xs.headD 0
  | n + 1, xs => lanesSum n (lanePairs xs)

/-- RSUM of a register's lanes (R208). -/
def rsum (e : Nat) (xs : List Nat) : Nat :=
  if e = 2 then sat32 (xs.foldl (fun z x => z + toSigned 32 x) 0)
  else if e = 1 then laneRound 1 (fp32.decode (lanesSum 12 (xs.map (fun x => x * 2 ^ 16))))
  else lanesSum 11 xs

/-- RMAX of a register's lanes (R207). -/
def rmax (e : Nat) (xs : List Nat) : Nat :=
  if e = 2 then sat32 (xs.foldl (fun z x => max z ((toSigned 32 x).natAbs : Int)) 0)
  else
    laneRound e (xs.foldl (fun m x =>
      let v := (laneFmt e).decode x
      if v.isFinite then Num.max m v.abs else m) (.fin ⟨false, 0, 0⟩))

/-- A table of a pair image (R185): words of 4 bytes from the image's bytes. -/
def imgWord (img : List Byte) (off : Nat) : Nat := leNat ((img.drop off).take 4)

/-- The floor of a finite non-negative value, at most 1023 (R183). -/
def segIndex (u : Num) : Nat :=
  match u with
  | .fin d => min (if 0 ≤ d.e then d.m * 2 ^ d.e.toNat else d.m >>> (-d.e).toNat) 1023
  | _ => 1023

/-- FUNC of one FP32 lane on a pair image (R183, R184); `deriv` takes table D. -/
def funcLane (img : List Byte) (deriv : Bool) (x : Nat) : Nat :=
  let tail (hi : Bool) : Nat :=
    let o := (if deriv then 0x20 else 0x10) + (if hi then 8 else 0)
    let ca := imgWord img o
    let cb := imgWord img (o + 4)
    match fp32.decode x with
    | .inf _ => if (fp32.decode cb).isZero then (if (fp32.decode ca).isNan then fp32.nanPat else ca) else fma32 x cb ca
    | _ => fma32 x cb ca
  match fp32.decode x with
  | .nan => fp32.nanPat
  | .inf neg => tail (!neg)
  | .fin d =>
    let lo := fp32.decode (imgWord img 0)
    let hi := fp32.decode (imgWord img 4)
    if Num.ltN (.fin d) lo then tail false
    else if !Num.ltN (.fin d) hi then tail true
    else
      let u := mul32 (sub32 x (imgWord img 0)) (imgWord img 8)
      let i := segIndex (fp32.decode u)
      let t := sub32 u (rne32 (Num.ofInt i))
      let o := (if deriv then 0x4040 else 0x40) + 16 * i
      fma32 t (fma32 t (imgWord img (o + 8)) (imgWord img (o + 4))) (imgWord img o)

/-- FUNC of one lane of an ETYPE (R184). -/
def funcOf (e : Nat) (img : List Byte) (deriv : Bool) (x : Nat) : Nat :=
  if e = 1 then laneRound 1 (fp32.decode (funcLane img deriv (x * 2 ^ 16))) else funcLane img deriv x

/-- What a CVT repeat delivers (R127, R128, R160): the element bytes of VD, the scale bytes of VC for a block format, and the draws
used. -/
structure CvtOut where
  elems : List Byte
  scales : List Byte
  deriving DecidableEq, Repr

/-- The elements of a CVT source: 2,048, with the block scales of VB (R139, R160). -/
def cvtSource (f : Fmt) (va vb : List Byte) : List Num :=
  let xs := chunks (f.bits / 8) 2048 va
  (List.range 2048).map (fun i => f.scaledValue (if f.block = 0 then 127 else ((vb.getD (i / f.block) 0).toNat)) (xs.getD i 0))

/-- One CVT repeat (R121 to R128, R141, R160). -/
def cvtRun (src dst : Fmt) (rnd : Rnd) (ovf : Bool) (sexp : Int) (us : List Nat) (va vb : List Byte) : CvtOut :=
  let xs := (cvtSource src va vb).map (fun x => x.scale2 sexp)
  if dst.block = 0 then
    ⟨(List.range 2048).flatMap (fun i => leBytes (dst.bits / 8) (convertTo dst rnd ovf (us.getD i 0) (xs.getD i .nan)).pat), []⟩
  else
    let blocks := (List.range (2048 / dst.block)).map (fun j =>
      encodeBlock dst rnd ovf ((us.drop (j * dst.block)).take dst.block) ((xs.drop (j * dst.block)).take dst.block))
    ⟨blocks.flatMap (fun b => b.2.flatMap (fun c => leBytes (dst.bits / 8) c.pat)), blocks.map (fun b => BitVec.ofNat 8 b.1)⟩

end Sys2Proof.Machine
end

