-- ==== Sys2Proof/Machine/Ecc.lean ====
section
/-! DEFINITION. The code on stored words (R266 to R273): the side field, the STRONG Reed–Solomon code and the LIGHT SEC-DED
code, with their decoders. A word is 256 data bits held as a number; the tag is the low byte of its side field. -/

namespace Sys2Proof.Machine

/-- Bit `i` as a number. -/
def nbit (v i : Nat) : Nat := if v.testBit i then 1 else 0

/-- XOR of a list. -/
def xorAll : List Nat → Nat
  | [] => 0
  | x :: xs => x ^^^ xorAll xs

/-- Number of set bits among the low `w`. -/
def popCount (w v : Nat) : Nat := ((List.range w).map (nbit v)).foldl (· + ·) 0

/-- The LIGHT columns h_i (R271): the 9-bit values with at least two bits set, ascending. -/
def lightCols : List Nat := (List.range 512).filter (fun n => 2 ≤ popCount 9 n)

/-- Column h_i. -/
def lightCol (i : Nat) : Nat := lightCols.getD i 0

/-- The 264 message bits of a word: data bits, then tag bits. -/
def lightMsg (data tag : Nat) : Nat := data % 2 ^ 256 + (tag % 256) * 2 ^ 256

/-- C0 to C8 of a message (R271): the XOR of the columns of its set bits. -/
def lightC (msg : Nat) : Nat :=
  xorAll (((List.range 264).zip lightCols).map (fun e => if msg.testBit e.1 then e.2 else 0))

/-- Parity of a number of `w` bits. -/
def parity (w v : Nat) : Nat := popCount w v % 2

/-- The LIGHT side field of a word and its tag (R266, R271). -/
def lightSide (data tag : Nat) : Nat :=
  let m := lightMsg data tag
  let c := lightC m
  tag % 256 + c * 2 ^ 8 + ((parity 264 m + parity 9 c) % 2) * 2 ^ 17

/-- Outcome of decoding a stored word: the word and tag to deliver; for a correction, the syndrome and position to log. -/
inductive Decoded where
  | clean (data tag : Nat)
  | corrected (data tag syn pos : Nat)
  | uncorrectable (data tag : Nat)
  deriving DecidableEq, Repr

/-- R273 and R267: a correction that changes tag bits [3:1], or a tag with a nonzero bit in [7:4], is uncorrectable. -/
def Decoded.guard (rawData rawTag : Nat) : Decoded → Decoded
  | .clean d t => if t / 16 % 16 = 0 then .clean d t else .uncorrectable rawData rawTag
  | .corrected d t syn pos =>
    if t / 16 % 16 = 0 && bits t 3 1 == bits rawTag 3 1 then .corrected d t syn pos else .uncorrectable rawData rawTag
  | .uncorrectable d t => .uncorrectable d t

/-- The LIGHT decoder (R272). Positions are those of ERR_LOG_SYN.POS. -/
def lightDecode (data side : Nat) : Decoded :=
  let tag := side % 256
  let m := lightMsg data tag
  let s := bits side 16 8 ^^^ lightC m
  let p := (parity 264 m + popCount 10 (bits side 17 8)) % 2
  let z := bits side 31 18
  let syn := s + p * 2 ^ 9 + z * 2 ^ 10
  let body : Decoded :=
    if s = 0 && p = 0 then .clean data tag
    else if p = 1 && s = 0 then .corrected data tag syn (264 + 9)
    else if p = 1 && popCount 9 s = 1 then .corrected data tag syn (264 + Nat.log2 s)
    else if p = 1 then
      match (List.range 264).find? (fun i => lightCol i = s) with
      | some i => let m' := m ^^^ 2 ^ i; .corrected (m' % 2 ^ 256) (m' / 2 ^ 256) syn i
      | none => .uncorrectable data tag
    else .uncorrectable data tag
  let r : Decoded :=
    if z = 0 then body
    else match body with
      | .clean d t => if popCount 14 z = 1 then .corrected d t syn (274 + Nat.log2 z) else .uncorrectable data tag
      | _ => .uncorrectable data tag
  r.guard data tag

/-- Multiplication in GF(2⁸) with polynomial 0x11D (R269). -/
def gfMul (a b : Nat) : Nat :=
  ((List.range 8).foldl (fun (acc : Nat × Nat) i =>
    let r := if b.testBit i then acc.1 ^^^ acc.2 else acc.1
    let d := acc.2 * 2
    (r, if 256 ≤ d then d ^^^ 0x11D else d)) (0, a % 256)).1

/-- α^p. -/
def gfPow : Nat → Nat
  | 0 => 1
  | p + 1 => gfMul (gfPow p) 2

/-- One step of the division by g(x) = x³ + 7x² + 14x + 8 (R269). -/
def strongStep (r : Nat × Nat × Nat) (m : Nat) : Nat × Nat × Nat :=
  let f := r.1 ^^^ m
  (r.2.1 ^^^ gfMul f 0x07, r.2.2 ^^^ gfMul f 0x0E, gfMul f 0x08)

/-- The 33 message symbols: data bytes, then the tag. -/
def strongMsg (data tag : Nat) : List Nat := (List.range 32).map (fun i => bits data (8 * i + 7) (8 * i)) ++ [tag % 256]

/-- The STRONG side field of a word and its tag (R266, R269). -/
def strongSide (data tag : Nat) : Nat :=
  let r := (strongMsg data tag).foldl strongStep (0, 0, 0)
  tag % 256 + r.2.2 * 2 ^ 8 + r.2.1 * 2 ^ 16 + r.1 * 2 ^ 24

/-- The 36 symbols of a received word, highest degree first. -/
def strongSymbols (data side : Nat) : List Nat :=
  strongMsg data (side % 256) ++ [bits side 31 24, bits side 23 16, bits side 15 8]

/-- Syndrome S_j (R270), by Horner's rule. -/
def strongSyn (j : Nat) (cs : List Nat) : Nat := cs.foldl (fun acc c => gfMul acc (gfPow j) ^^^ c) 0

/-- The STRONG decoder (R270). -/
def strongDecode (data side : Nat) : Decoded :=
  let tag := side % 256
  let cs := strongSymbols data side
  let s0 := strongSyn 0 cs
  let s1 := strongSyn 1 cs
  let s2 := strongSyn 2 cs
  let syn := s0 + s1 * 2 ^ 8 + s2 * 2 ^ 16
  let r : Decoded :=
    if s0 = 0 && s1 = 0 && s2 = 0 then .clean data tag
    else if s0 ≠ 0 && s1 ≠ 0 && s2 ≠ 0 && gfMul s1 s1 = gfMul s0 s2 then
      match (List.range 36).find? (fun p => gfMul s0 (gfPow p) = s1) with
      | none => .uncorrectable data tag
      | some p =>
        if 4 ≤ p then .corrected (data ^^^ s0 * 2 ^ (8 * (35 - p))) tag syn p
        else if p = 3 then .corrected data (tag ^^^ s0) syn p
        else .corrected data tag syn p
    else .uncorrectable data tag
  r.guard data tag

/-- The side field of a word under a code class (R268): STRONG or LIGHT. -/
def sideFor (strong : Bool) (data tag : Nat) : Nat := if strong then strongSide data tag else lightSide data tag

/-- Decoding under a code class. -/
def decodeWord (strong : Bool) (data side : Nat) : Decoded :=
  if strong then strongDecode data side else lightDecode data side

end Sys2Proof.Machine
end

