-- ==== Sys2Proof/Config.lean ====
section
/-! DEFINITION. What one implementation fixes and what the manual leaves open: constants without a body, so that no proof
can see their value. Log entries name each of them. -/

namespace Sys2Proof.Config

/-- The free value of the manual: an unspecified value is `freeValue` applied to a counter that the step advances. -/
opaque freeValue : Nat → BitVec 64

/-- What an ACB word holds after its array was power gated without ACB_RETAIN (R77): its data and its side field. -/
opaque lostData : Nat → Nat → BitVec 256
opaque lostSide : Nat → Nat → BitVec 32

/-- The set of a hub-cache line (R262): the manual gives 16 ways per set and no index function. -/
opaque hubCacheSet : Nat → Nat

/-- How long an HBM read stays outstanding, in reference ticks (R264): the manual gives typical latencies only. -/
opaque hbmReadTicks : Nat

/-- Beats of a ring engine in a tick of the reference timer (RE_CNT_CREDIT_WAIT): the I/O dies are not stepped (R335) and the
manual gives them no frequency. -/
opaque engineBeats : Nat

/-- The public key in the boot ROM (R455), and the measurement of TYPE 1, 2 or 3 of the firmware that the module was built with
(R479). -/
opaque romKey : List (BitVec 8)
opaque builtMeasure : Nat → List (BitVec 8)

/-- ECDSA P-256 verification of a signature over a message under a public key (R476 to R483). -/
opaque ecdsaVerify : (key msg sig : List (BitVec 8)) → Bool

/-- ECDSA P-256 signature of a message under the module's attestation key (R480). -/
opaque ecdsaSign : (msg : List (BitVec 8)) → List (BitVec 8)

/-- The ring key of a sealing policy (R481): EPH, WRAPPED and the salt of the KEK; none where it does not unwrap. -/
opaque unwrapRingKey : (eph wrapped salt : List (BitVec 8)) → Option (List (BitVec 8))

/-- AES-256-CMAC under a key (R490). -/
opaque aesCmac : (key msg : List (BitVec 8)) → List (BitVec 8)

/-- AES-256-GCM or XTS encryption of a block under a key and a position (R493). -/
opaque aesEncrypt : (key : List (BitVec 8)) → (pos : Nat) → (plain : List (BitVec 8)) → List (BitVec 8)

/-- The inverse of `aesEncrypt`. -/
opaque aesDecrypt : (key : List (BitVec 8)) → (pos : Nat) → (cipher : List (BitVec 8)) → List (BitVec 8)

/-- The fused device secret from which keys are derived (R474). -/
opaque deviceSecret : List (BitVec 8)

/-- Bytes 16 to 23 of the INFO of SLOT_STATUS (R438): the quotas in use, whose layout the manual does not give. -/
opaque quotaInfo : (used : List Nat) → List (BitVec 8)

end Sys2Proof.Config
end

