-- ==== Sys2Proof/Machine/Fields.lean ====
section
/-! DEFINITION. The registers of the manual: every field of every register table, where each register stands in the CSR
windows of R34, the access code of each field (R16) and its reset value. Each table is the register section of the chapter
that owns the block; the reserved fields are absent and read as zero (R17). -/

namespace Sys2Proof.Machine

/-- One constructor per field of a register, named REGISTER_FIELD; a 64-bit counter has the one field COUNT. -/
inductive Fld where
  | MOD_IDENT_STEPPING | MOD_IDENT_CADENCE_VER | MOD_IDENT_PART | MOD_IDENT_SKU
  | DIE_IDENT_DIE_ID | DIE_IDENT_KIND | DIE_IDENT_STEPPING | DIE_IDENT_HUB
  | DIE_STATUS_IN_SERVICE | DIE_STATUS_DEGRADED | DIE_STATUS_BOOT_LOCKED | DIE_STATUS_UNITS_OUT
  | DIE_BOOT_LOCK_LOCK
  | ARR_IDENT_INDEX | ARR_IDENT_AFT | ARR_IDENT_XPOSE
  | ARR_STATUS_STATE | ARR_STATUS_QLEVEL | ARR_STATUS_FRONT | ARR_STATUS_BACK_FULL | ARR_STATUS_LOAD_STALL
  | ARR_CTL_PARK | ARR_CTL_ACB_RETAIN | ARR_CTL_LS_ENABLE
  | ARR_EPOCH_EPOCH | ARR_EPOCH_ACB_EPOCH
  | ARR_DONE_DONE | ARR_DONE_DISCARDED
  | ARR_FAULT_BAD_CMD | ARR_FAULT_STALE_STATE | ARR_FAULT_POISON | ARR_FAULT_ACB_RANGE | ARR_FAULT_ACB_UE
  | ARR_FAULT_INFO_TAG | ARR_FAULT_INFO_KIND | ARR_FAULT_INFO_FIELD | ARR_FAULT_INFO_ROW
  | ARR_EVENTS_INT_SAT | ARR_EVENTS_LS_ACTIVE | ARR_EVENTS_EPOCH_WRAP
  | ARR_ROWMASK_BITS
  | ARR_COLMASK_BITS
  | ARR_LS_SEED_SEED
  | ARR_ACB_RGN_BASE_ROW0 | ARR_ACB_RGN_BASE_ROWS | ARR_ACB_RGN_BASE_TIE | ARR_ACB_RGN_BASE_USES | ARR_ACB_RGN_BASE_EPOCH
  | ARR_ACB_RGN_CNT_ADDS | ARR_ACB_RGN_CNT_LS_THRESH
  | ARR_ACB_RGN_WGM_EN | ARR_ACB_RGN_WGM_GRAN | ARR_ACB_RGN_WGM_COLS_T | ARR_ACB_RGN_WGM_BITMAP | ARR_ACB_RGN_WGM_ROW_OFF
  | ARR_CNT_BUSY_COUNT
  | ARR_CNT_DRY_COUNT
  | ARR_CNT_BANK_COUNT
  | ARR_CNT_DRAIN_COUNT
  | ARR_CNT_LOAD_STALL_COUNT
  | ARR_CNT_CE_COUNT
  | ARR_SCALE_A_S_LO | ARR_SCALE_A_S_HI
  | ARR_SCALE_B_S_LO | ARR_SCALE_B_S_HI
  | CAR_CTL_RING_EN
  | CAR_STATUS_OCC_CW | CAR_STATUS_OCC_CCW | CAR_STATUS_LIVE | CAR_STATUS_RESV
  | CAR_FAULT_BAD_INJ | CAR_FAULT_RING_OFF | CAR_FAULT_TRANSIT_UE
  | CAR_FAULT_INFO_TAG | CAR_FAULT_INFO_STATION | CAR_FAULT_INFO_TICKET
  | CAR_EVENTS_ARM_STALL | CAR_EVENTS_GW_STALL | CAR_EVENTS_GW
  | CAR_WDOG_LIMIT
  | CAR_CNT_FLIT_CW_COUNT
  | CAR_CNT_FLIT_CCW_COUNT
  | CAR_CNT_INJ_WAIT_COUNT
  | CAR_CNT_ARM_WAIT_COUNT
  | CAR_CNT_RESV_COUNT
  | CAR_CNT_CE_COUNT
  | CAR_TKT_STATE | CAR_TKT_SLOT | CAR_TKT_RING | CAR_TKT_INJ | CAR_TKT_DROP | CAR_TKT_SUBS | CAR_TKT_REGS | CAR_TKT_SENT
  | CAR_TKT_REG_BOBBINS | CAR_TKT_REG_STATIONS
  | FDR_STATUS_QLEVEL | FDR_STATUS_FREE | FDR_STATUS_HEAD | FDR_STATUS_WAITING
  | FDR_FAULT_BAD_FEED | FDR_FAULT_GROUP | FDR_FAULT_UE
  | FDR_FAULT_INFO_TAG | FDR_FAULT_INFO_KIND | FDR_FAULT_INFO_SLOT
  | FDR_SLOT_STATE | FDR_SLOT_SRC | FDR_SLOT_INT4 | FDR_SLOT_PASSES | FDR_SLOT_TICKET | FDR_SLOT_FLITS | FDR_SLOT_LINE
  | FDR_CNT_SUB_WAIT_COUNT
  | FDR_CNT_FLITS_COUNT
  | FDR_CNT_PRIV_COUNT
  | FDR_CNT_LINES_COUNT
  | FDR_CNT_CE_COUNT
  | SEQ_STATUS_RUNNING | SEQ_STATUS_IDLE | SEQ_STATUS_READY | SEQ_STATUS_FAULTED
  | SEQ_TKT_BUDGET_BUDGET
  | SEQ_TKT_USE_USE | SEQ_TKT_USE_ARRAYS | SEQ_TKT_USE_VES | SEQ_TKT_USE_SES
  | SEQ_CTX_STATE_STATE | SEQ_CTX_STATE_SLOT | SEQ_CTX_STATE_LOGICAL | SEQ_CTX_STATE_SIDESHOW | SEQ_CTX_STATE_WAIT_CNT | SEQ_CTX_STATE_STALL
  | SEQ_CTX_PC_PC
  | SEQ_CTX_FAULT_CAUSE | SEQ_CTX_FAULT_UNIT | SEQ_CTX_FAULT_PC | SEQ_CTX_FAULT_TAG
  | SEQ_TKT_GRANT_GRANT | SEQ_TKT_GRANT_HELD
  | SEQ_CNT_ISSUE_COUNT
  | SEQ_CNT_WAIT_COUNT
  | SEQ_CNT_QFULL_COUNT
  | SEQ_CNT_TKT_STALL_COUNT
  | SEQ_CNT_LATE_COUNT
  | SEQ_CNT_LATE_STRETCH_COUNT
  | SEQ_SS_STATUS_YIELDING | SEQ_SS_STATUS_FORCED
  | SEQ_CNT_SS_YIELD_COUNT
  | SEQ_CNT_SS_FORCED_COUNT
  | STASH_STATUS_USED | STASH_STATUS_FULL_SEEN
  | STASH_PURGE_SLOTS
  | STASH_DIR_IDX_INDEX
  | STASH_DIR_DATA0_KEY | STASH_DIR_DATA0_SLOT | STASH_DIR_DATA0_PLACE | STASH_DIR_DATA0_RECOMP | STASH_DIR_DATA0_UNITS
  | STASH_DIR_DATA1_FIRST
  | STASH_CNT_HBM_COUNT
  | STASH_CNT_SPILL_COUNT
  | STASH_CNT_DROP_COUNT
  | STASH_CNT_EXH_COUNT
  | STASH_CNT_RD_DROP_COUNT
  | VE_FTAB_STATUS_VALID | VE_FTAB_STATUS_EPOCH | VE_FTAB_STATUS_REFUSED | VE_FTAB_STATUS_PAIR
  | VE_SR_SEED_SEED
  | NUM_CEN_BASE_EN | NUM_CEN_BASE_BASE
  | NUM_CEN_CFG_CIDS | NUM_CEN_CFG_SAT_SKIP
  | NUM_STEP_STEP | NUM_STEP_RESOLVED
  | NUM_LSCALE_E | NUM_LSCALE_E_MIN | NUM_LSCALE_PEND | NUM_LSCALE_PEND_VALID | NUM_LSCALE_FLOOR_HIT
  | NUM_OVF_STEP | NUM_OVF_OVF | NUM_OVF_CID
  | NUM_CNT_LATE_COUNT
  | NUM_CNT_HALVE_COUNT
  | NUM_CNT_DISCARD_COUNT
  | CMT_CFG_SYNC_K | CMT_CFG_ROOT | CMT_CFG_SKIP_NEXT | CMT_CFG_LIMIT | CMT_CFG_NEXT_POS
  | CMT_STATUS_STATE | CMT_STATUS_LOCAL | CMT_STATUS_REASONS | CMT_STATUS_TIMEOUT | CMT_STATUS_OVF_AFTER | CMT_STATUS_STEP
  | CMT_LAST_COMMIT | CMT_LAST_REASONS | CMT_LAST_STEP
  | CMT_GRP_IDX_GROUP
  | CMT_GRP_DATA_DATA
  | CMT_CNT_COMMIT_COUNT
  | CMT_CNT_SKIP_COUNT
  | CMT_CNT_DISCARD_COUNT
  | UE_STATUS_BUSY | UE_STATUS_SLOT | UE_STATUS_TORN | UE_STATUS_SEG
  | UE_FAULT_BAD_SEG | UE_FAULT_POISON | UE_FAULT_XLATE
  | UE_FAULT_INFO_SEG | UE_FAULT_INFO_SLOT
  | UE_SEG_BASE_BASE
  | UE_SEG_CNT_COUNT
  | UE_CNT_ELEM_COUNT
  | UE_CNT_NONFIN_COUNT
  | UE_CNT_HELD_COUNT
  | QTA_HBM_LIMIT | QTA_HBM_USED | QTA_HBM_OVERSUB
  | QTA_T2_LIMIT | QTA_T2_USED | QTA_T2_OVERSUB
  | QTA_STASH_LIMIT | QTA_STASH_USED | QTA_STASH_OVERSUB
  | QTA_SPILL_LIMIT | QTA_SPILL_USED | QTA_SPILL_OVERSUB
  | QTA_HCACHE_LIMIT | QTA_HCACHE_USED | QTA_HCACHE_OVERSUB
  | QTA_STASH_UNITS_USED | QTA_STASH_UNITS_GRANTED
  | QTA_SPILL_UNITS_USED | QTA_SPILL_UNITS_GRANTED
  | FLIP_CTL_ARM | FLIP_CTL_KIND | FLIP_CTL_INDEX | FLIP_CTL_DONE
  | FLIP_DATA_MASK
  | FLIP_SIDE_MASK
  | MEM_HBM_SPLIT_HL_GIB
  | MEM_FRAME_IDX_FRAME | MEM_FRAME_IDX_TIER
  | MEM_FRAME_DATA_OWNER | MEM_FRAME_DATA_USE | MEM_FRAME_DATA_CLASS | MEM_FRAME_DATA_SEAL | MEM_FRAME_DATA_ZEROING
  | SRAM_CLASS_STRONG
  | SRAM_OWNER_BLOCKS
  | HC_CTL_EN | HC_CTL_MERGE
  | HC_SLOT_LINES_LINES
  | HC_CNT_HIT_COUNT
  | HC_CNT_MISS_COUNT
  | HC_CNT_MERGED_COUNT
  | ERR_STATUS_ENTRIES | ERR_STATUS_FULL | ERR_STATUS_UE_SEEN
  | ERR_CNT_CE_COUNT
  | CE_UNLOGGED_COUNT
  | ERR_CNT_UE_COUNT
  | ERR_UE_ADDR_VALID | ERR_UE_ADDR_CLASS | ERR_UE_ADDR_ADDR
  | ERR_LOG_ADDR_VALID | ERR_LOG_ADDR_CLASS | ERR_LOG_ADDR_ADDR | ERR_LOG_ADDR_REPEAT
  | ERR_LOG_SYN_SYN | ERR_LOG_SYN_POS | ERR_LOG_SYN_FIRST
  | ERR_RAW_ADDR_ADDR
  | ERR_RAW_CMD_OP | ERR_RAW_CMD_BUSY | ERR_RAW_CMD_REFUSED
  | ERR_RAW_DATA_DATA
  | ERR_RAW_SIDE_SIDE
  | SCRUB_CTL_EN | SCRUB_CTL_PERIOD
  | SCRUB_STATUS_PASSES | SCRUB_STATUS_POS
  | SCRUB_CNT_CE_COUNT
  | SCRUB_CNT_UE_COUNT
  | SE_STATUS_QLEVEL | SE_STATUS_ACTIVE | SE_STATUS_SUSP | SE_STATUS_CHARGED | SE_STATUS_SLOT | SE_STATUS_SR_BUSY
  | SE_CTL_FAULT_LIMIT
  | SE_SR_SEED_SEED
  | SE_EVENTS_POOL_STALL | SE_EVENTS_FAULT | SE_EVENTS_LIMIT
  | SE_POOL_USED | SE_POOL_FLOORS
  | SE_ERR_INFO_CODE | SE_ERR_INFO_CHAN | SE_ERR_INFO_SLOT | SE_ERR_INFO_TAG
  | SE_ERR_WMARK_WMARK
  | SE_DESC_BASE_BASE | SE_DESC_BASE_VALID | SE_DESC_BASE_LEN
  | SE_CH_STATUS_STATE | SE_CH_STATUS_SLOT | SE_CH_STATUS_CTX | SE_CH_STATUS_DESC | SE_CH_STATUS_TAG
  | SE_CH_WMARK_WMARK
  | SE_CH_FAULT_VA | SE_CH_FAULT_CAUSE | SE_CH_FAULT_SIDE
  | SE_CH_CTL_RESUME | SE_CH_CTL_FAIL
  | SE_CH_TTE_T
  | SE_CNT_STREAMS_COUNT
  | SE_CNT_RD_WORDS_COUNT
  | SE_CNT_WR_WORDS_COUNT
  | SE_CNT_ELEM_COUNT
  | SE_CNT_FAULT_COUNT
  | SE_CNT_ERR_COUNT
  | SE_CNT_POOL_WAIT_COUNT
  | XLT_ROOT_EN | XLT_ROOT_ROOT
  | XLT_INVAL_ALL | XLT_INVAL_BUSY | XLT_INVAL_VA
  | MESH_PEAK_PEAK | MESH_PEAK_CLR
  | MESH_CNT_FLITS_COUNT
  | MESH_CNT_ARB_COUNT
  | MESH_CNT_BP_COUNT
  | CLK_STEP_TARGET | CLK_STEP_MODE | CLK_STEP_CURRENT | CLK_STEP_CAP | CLK_STEP_BUSY | CLK_STEP_STOPPED
  | CLK_CTL_STRETCH_EN
  | CLK_STATUS_XERR | CLK_STATUS_XING
  | CLK_CNT_STRETCH_COUNT
  | CLK_CNT_GLIDE_COUNT
  | CLK_CNT_STOP_COUNT
  | CLK_CNT_STOP_TIME_COUNT
  | HL_CTL_EN | HL_CTL_ROLE | HL_CTL_SEAL_OK | HL_CTL_RETRAIN
  | HL_STATUS_STATE | HL_STATUS_TX_WIDTH | HL_STATUS_RX_WIDTH | HL_STATUS_REVERSED | HL_STATUS_COMPAT | HL_STATUS_TX_OUT | HL_STATUS_RX_OUT
  | HL_PEER_POS | HL_PEER_GEN | HL_PEER_ROLE | HL_PEER_PORT | HL_PEER_CATCHER | HL_PEER_VALID
  | HL_FAULT_LINK_CROSSED | HL_FAULT_LANE_SHORT | HL_FAULT_LANE_OPEN | HL_FAULT_LANE_FAIL | HL_FAULT_RETRY_LIMIT | HL_FAULT_HB_LOSS | HL_FAULT_ROLE_MISMATCH | HL_FAULT_SEAL_DROP | HL_FAULT_DOWN
  | HL_HB_PERIOD | HL_HB_LIMIT
  | HL_LANE_PEER | HL_LANE_RX_INV | HL_LANE_TX_OUT | HL_LANE_RX_OUT | HL_LANE_CAUSE
  | HL_CNT_TX_FLITS_COUNT
  | HL_CNT_RX_FLITS_COUNT
  | HL_CNT_FEC_CW_COUNT
  | HL_CNT_FEC_UNC_COUNT
  | HL_CNT_CRC_COUNT
  | HL_CNT_REPLAY_COUNT
  | HL_CNT_PICOT_TX_COUNT
  | HL_CNT_PICOT_RX_COUNT
  | HL_CNT_RELAY_COUNT
  | HL_CNT_RETRAIN_COUNT
  | HLM_POS_POS | HLM_POS_GEN | HLM_POS_CATCHER
  | HLM_CTL_RELAY_EN | HLM_CTL_DATELINE1 | HLM_CTL_DATELINE2 | HLM_CTL_HOLD_LIMIT | HLM_CTL_ALIVE_LIMIT
  | HLM_ALIVE_PING
  | HLM_CNT_MISROUTE_COUNT
  | HLM_CNT_NOROUTE_COUNT
  | RE_STATUS_LISTS | RE_STATUS_FAULT | RE_STATUS_RUNNING
  | RE_CTL_LIMIT
  | RE_FAULT_BAD_DESC | RE_FAULT_LAND | RE_FAULT_POISON | RE_FAULT_TRUNC | RE_FAULT_TIMEOUT
  | RE_FAULT_INFO_TAG | RE_FAULT_INFO_INST | RE_FAULT_INFO_SLOT | RE_FAULT_INFO_CODE | RE_FAULT_INFO_ENTRY
  | RE_SR_SEED_SEED
  | RE_LIST_BASE_BASE
  | RE_LIST_CTL_CNT | RE_LIST_CTL_POS | RE_LIST_CTL_STATE | RE_LIST_CTL_RUN
  | RE_LAND_BASE_BASE
  | RE_LAND_SLOTS_SLOTS | RE_LAND_SLOTS_FREE
  | RE_CNT_DONE_COUNT
  | RE_CNT_ERR_COUNT
  | RE_CNT_RX_BYTES_COUNT
  | RE_CNT_TX_BYTES_COUNT
  | RE_CNT_CREDIT_WAIT_COUNT
  | RE_CNT_STALE_COUNT
  | REC_CFG_CATCHER | REC_CFG_EDGE | REC_CFG_SECOND | REC_CFG_CLAIM_WIN
  | REC_GROUP_POS
  | REC_SRC_POS
  | REC_STATUS_STATE | REC_STATUS_SOURCE | REC_STATUS_FAILED | REC_STATUS_FILLED
  | REC_PENDING_POS
  | REC_DETOUR_POS
  | REC_JOB_GEN_GEN
  | REC_STATE_BASE_BASE | REC_STATE_BASE_CNT
  | REC_CNT_CATCH_COUNT
  | REC_CNT_CLAIM_DROP_COUNT
  | REC_CNT_STALE_COUNT
  | REC_CNT_LOST_STEPS_COUNT
  | SNAP_CFG_BUDDY_EN | SNAP_CFG_BUDDY | SNAP_CFG_OWN_TIB
  | SNAP_SHADOW_BASE | SNAP_SHADOW_SIZE
  | SNAP_SLOT_IMG0 | SNAP_SLOT_IMG1
  | SNAP_STATUS_STEP | SNAP_STATUS_MIRROR_STEP
  | CMD_CNT_MGMT_COUNT
  | CMD_CNT_DUP_COUNT
  | CMD_CNT_DROP_COUNT
  | CMD_CNT_REFUSED_COUNT
  | BUD_TARGET_TARGET | BUD_TARGET_STEP | BUD_TARGET_ACTIVE
  | CORE_AUTH_SLOT | CORE_AUTH_VALID
  | SLQ_STATE_STATE | SLQ_STATE_SIDESHOW | SLQ_STATE_ABORTED | SLQ_STATE_SEALED_RUN | SLQ_STATE_DIES
  | SLQ_CMD_BASE_BASE
  | SLQ_CMD_CTL_SIZE | SLQ_CMD_CTL_HEAD | SLQ_CMD_CTL_TAIL
  | SLQ_DB_TAIL
  | SLQ_CPL_BASE_BASE
  | SLQ_CPL_CTL_SIZE | SLQ_CPL_CTL_HEAD | SLQ_CPL_CTL_TAIL
  | SLQ_EVENTS_BAD_DB | SLQ_EVENTS_OVERFLOW
  | SLQ_ABORT_WORD
  | SLQ_CNT_CMD_COUNT
  | SLQ_CNT_DROP_COUNT
  | SUP_STATUS_CAUSE | SUP_STATUS_SLOT | SUP_STATUS_TRIAL | SUP_STATUS_PARKED | SUP_STATUS_VERSION
  | SUP_WDOG_LIMIT | SUP_WDOG_KICK | SUP_WDOG_NMI_SEEN
  | SUP_OPSEC_SECONDS
  | SUP_CYCLES_POWER | SUP_CYCLES_RESETS
  | SVC_STATUS_LEVEL | SVC_STATUS_DEGRADED | SVC_STATUS_LATE | SVC_STATUS_COOLANT_WAIT | SVC_STATUS_DIES | SVC_STATUS_HUBS | SVC_STATUS_STACKS
  | SUP_CORE_MARK_READY
  | SNS_IDX_INDEX
  | SNS_DATA_VALUE | SNS_DATA_STATE | SNS_DATA_AGE
  | SNS_FAULT_INLET | SNS_FAULT_OUTLET | SNS_FAULT_FLOW | SNS_FAULT_LEAK_WIRING | SNS_FAULT_LEAK | SNS_FAULT_DIE_CAP | SNS_FAULT_HUB_CAP
  | FW_STATUS_A_VALID | FW_STATUS_B_VALID | FW_STATUS_PREF | FW_STATUS_BUSY | FW_STATUS_RESULT | FW_STATUS_FLOOR
  | FW_UPD_ADDR_ADDR
  | FW_UPD_LEN_LEN
  | FW_CTL_WRITE | FW_CTL_TRIAL | FW_CTL_REBOOT | FW_CTL_FLOOR
  | FW_VER_A_VERSION | FW_VER_A_ROLLBACK
  | FW_VER_B_VERSION | FW_VER_B_ROLLBACK
  | ID_STATUS_RECORD_OK | ID_STATUS_SEAL_EN | ID_STATUS_POLICY | ID_STATUS_FAIL_STEP | ID_STATUS_POL_VER
  | ATT_CTL_QUOTE | ATT_CTL_BUSY | ATT_CTL_DONE
  | ATT_NONCE_NONCE
  | ATT_MEAS_M
  | POL_ADDR_ADDR
  | POL_LEN_LEN
  | POL_CTL_INSTALL | POL_CTL_RESET | POL_CTL_BUSY | POL_CTL_RESULT
  | ATT_QUOTE_Q
  | TS_STATUS_ARMED | TS_STATUS_RUNNING | TS_STATUS_PENDING | TS_STATUS_SEQ
  | TS_LOG_ACK_SEQ
  | TS_LOG_IDX_SEQ
  | TS_CNT_RELEASE_COUNT
  | TS_CNT_REFUSED_COUNT
  | TS_CNT_BLOCK_COUNT
  | SEAL_CNT_CORE_COUNT
  | TS_WIN_BASE_BASE
  | TS_WIN_LEN_FRAMES
  | TS_REL_OFF_OFF
  | TS_REL_LEN_LEN
  | TS_REL_DST_DST
  | TS_REL_CTL_GO | TS_REL_CTL_BUSY | TS_REL_CTL_RESULT
  | TS_LOG_REC
  | EVR_STATUS_LOG_FULL | EVR_STATUS_CLEARING | EVR_STATUS_FLUSHING | EVR_STATUS_PENDING
  | EVR_SEQ_FIRST_SEQ
  | EVR_SEQ_LAST_SEQ
  | EVR_CURSOR_SEQ
  | EVR_CTL_CLEAR | EVR_CTL_FLUSH
  | EVR_DROPPED_FULL | EVR_DROPPED_STAGE
  | EVR_CNT_SUPPR_COUNT
  | EVR_RATE_IDX_CODE
  | EVR_RATE_DATA_RATE | EVR_RATE_DATA_BURST | EVR_RATE_DATA_SUPPR
  | EVR_WIN_WORD
  | PWR_STATUS_SERVING | PWR_STATUS_SINGLE | PWR_STATUS_LOST | PWR_STATUS_REVERSED | PWR_STATUS_OVERVOLT | PWR_STATUS_LATCHED
  | PWR_CTL_LIMIT
  | PWR_INPUT0_MV | PWR_INPUT0_CURRENT
  | PWR_INPUT1_MV | PWR_INPUT1_CURRENT
  | PWR_MODULE_WATTS | PWR_MODULE_PEAK | PWR_MODULE_CLR
  | PWR_CAP_EFFECTIVE | PWR_CAP_POWER | PWR_CAP_THERMAL | PWR_CAP_COOLANT | PWR_CAP_SINGLE
  | THM_CTL_THROTTLE | THM_CTL_RELEASE | THM_CTL_CRITICAL
  | PWR_CNT_STEPDOWN_COUNT
  | THM_CNT_THROTTLE_COUNT
  | PWR_CNT_TRIP_COUNT
  deriving DecidableEq, Repr

/-- One constructor per register name (R19). -/
inductive Reg where
  | MOD_IDENT | DIE_IDENT | DIE_STATUS | DIE_BOOT_LOCK | ARR_IDENT | ARR_STATUS
  | ARR_CTL | ARR_EPOCH | ARR_DONE | ARR_FAULT | ARR_FAULT_INFO | ARR_EVENTS
  | ARR_ROWMASK | ARR_COLMASK | ARR_LS_SEED | ARR_ACB_RGN_BASE | ARR_ACB_RGN_CNT | ARR_ACB_RGN_WGM
  | ARR_CNT_BUSY | ARR_CNT_DRY | ARR_CNT_BANK | ARR_CNT_DRAIN | ARR_CNT_LOAD_STALL | ARR_CNT_CE
  | ARR_SCALE_A | ARR_SCALE_B | CAR_CTL | CAR_STATUS | CAR_FAULT | CAR_FAULT_INFO
  | CAR_EVENTS | CAR_WDOG | CAR_CNT_FLIT_CW | CAR_CNT_FLIT_CCW | CAR_CNT_INJ_WAIT | CAR_CNT_ARM_WAIT
  | CAR_CNT_RESV | CAR_CNT_CE | CAR_TKT | CAR_TKT_REG | FDR_STATUS | FDR_FAULT
  | FDR_FAULT_INFO | FDR_SLOT | FDR_CNT_SUB_WAIT | FDR_CNT_FLITS | FDR_CNT_PRIV | FDR_CNT_LINES
  | FDR_CNT_CE | SEQ_STATUS | SEQ_TKT_BUDGET | SEQ_TKT_USE | SEQ_CTX_STATE | SEQ_CTX_PC
  | SEQ_CTX_FAULT | SEQ_TKT_GRANT | SEQ_CNT_ISSUE | SEQ_CNT_WAIT | SEQ_CNT_QFULL | SEQ_CNT_TKT_STALL
  | SEQ_CNT_LATE | SEQ_CNT_LATE_STRETCH | SEQ_SS_STATUS | SEQ_CNT_SS_YIELD | SEQ_CNT_SS_FORCED | STASH_STATUS
  | STASH_PURGE | STASH_DIR_IDX | STASH_DIR_DATA0 | STASH_DIR_DATA1 | STASH_CNT_HBM | STASH_CNT_SPILL
  | STASH_CNT_DROP | STASH_CNT_EXH | STASH_CNT_RD_DROP | VE_FTAB_STATUS | VE_SR_SEED | NUM_CEN_BASE
  | NUM_CEN_CFG | NUM_STEP | NUM_LSCALE | NUM_OVF | NUM_CNT_LATE | NUM_CNT_HALVE
  | NUM_CNT_DISCARD | CMT_CFG | CMT_STATUS | CMT_LAST | CMT_GRP_IDX | CMT_GRP_DATA
  | CMT_CNT_COMMIT | CMT_CNT_SKIP | CMT_CNT_DISCARD | UE_STATUS | UE_FAULT | UE_FAULT_INFO
  | UE_SEG_BASE | UE_SEG_CNT | UE_CNT_ELEM | UE_CNT_NONFIN | UE_CNT_HELD | QTA_HBM
  | QTA_T2 | QTA_STASH | QTA_SPILL | QTA_HCACHE | QTA_STASH_UNITS | QTA_SPILL_UNITS
  | FLIP_CTL | FLIP_DATA | FLIP_SIDE | MEM_HBM_SPLIT | MEM_FRAME_IDX | MEM_FRAME_DATA
  | SRAM_CLASS | SRAM_OWNER | HC_CTL | HC_SLOT_LINES | HC_CNT_HIT | HC_CNT_MISS
  | HC_CNT_MERGED | ERR_STATUS | ERR_CNT_CE | CE_UNLOGGED | ERR_CNT_UE | ERR_UE_ADDR
  | ERR_LOG_ADDR | ERR_LOG_SYN | ERR_RAW_ADDR | ERR_RAW_CMD | ERR_RAW_DATA | ERR_RAW_SIDE
  | SCRUB_CTL | SCRUB_STATUS | SCRUB_CNT_CE | SCRUB_CNT_UE | SE_STATUS | SE_CTL
  | SE_SR_SEED | SE_EVENTS | SE_POOL | SE_ERR_INFO | SE_ERR_WMARK | SE_DESC_BASE
  | SE_CH_STATUS | SE_CH_WMARK | SE_CH_FAULT | SE_CH_CTL | SE_CH_TTE | SE_CNT_STREAMS
  | SE_CNT_RD_WORDS | SE_CNT_WR_WORDS | SE_CNT_ELEM | SE_CNT_FAULT | SE_CNT_ERR | SE_CNT_POOL_WAIT
  | XLT_ROOT | XLT_INVAL | MESH_PEAK | MESH_CNT_FLITS | MESH_CNT_ARB | MESH_CNT_BP
  | CLK_STEP | CLK_CTL | CLK_STATUS | CLK_CNT_STRETCH | CLK_CNT_GLIDE | CLK_CNT_STOP
  | CLK_CNT_STOP_TIME | HL_CTL | HL_STATUS | HL_PEER | HL_FAULT | HL_HB
  | HL_LANE | HL_CNT_TX_FLITS | HL_CNT_RX_FLITS | HL_CNT_FEC_CW | HL_CNT_FEC_UNC | HL_CNT_CRC
  | HL_CNT_REPLAY | HL_CNT_PICOT_TX | HL_CNT_PICOT_RX | HL_CNT_RELAY | HL_CNT_RETRAIN | HLM_POS
  | HLM_CTL | HLM_ALIVE | HLM_CNT_MISROUTE | HLM_CNT_NOROUTE | RE_STATUS | RE_CTL
  | RE_FAULT | RE_FAULT_INFO | RE_SR_SEED | RE_LIST_BASE | RE_LIST_CTL | RE_LAND_BASE
  | RE_LAND_SLOTS | RE_CNT_DONE | RE_CNT_ERR | RE_CNT_RX_BYTES | RE_CNT_TX_BYTES | RE_CNT_CREDIT_WAIT
  | RE_CNT_STALE | REC_CFG | REC_GROUP | REC_SRC | REC_STATUS | REC_PENDING
  | REC_DETOUR | REC_JOB_GEN | REC_STATE_BASE | REC_CNT_CATCH | REC_CNT_CLAIM_DROP | REC_CNT_STALE
  | REC_CNT_LOST_STEPS | SNAP_CFG | SNAP_SHADOW | SNAP_SLOT | SNAP_STATUS | CMD_CNT_MGMT
  | CMD_CNT_DUP | CMD_CNT_DROP | CMD_CNT_REFUSED | BUD_TARGET | CORE_AUTH | SLQ_STATE
  | SLQ_CMD_BASE | SLQ_CMD_CTL | SLQ_DB | SLQ_CPL_BASE | SLQ_CPL_CTL | SLQ_EVENTS
  | SLQ_ABORT | SLQ_CNT_CMD | SLQ_CNT_DROP | SUP_STATUS | SUP_WDOG | SUP_OPSEC
  | SUP_CYCLES | SVC_STATUS | SUP_CORE_MARK | SNS_IDX | SNS_DATA | SNS_FAULT
  | FW_STATUS | FW_UPD_ADDR | FW_UPD_LEN | FW_CTL | FW_VER_A | FW_VER_B
  | ID_STATUS | ATT_CTL | ATT_NONCE | ATT_MEAS | POL_ADDR | POL_LEN
  | POL_CTL | ATT_QUOTE | TS_STATUS | TS_LOG_ACK | TS_LOG_IDX | TS_CNT_RELEASE
  | TS_CNT_REFUSED | TS_CNT_BLOCK | SEAL_CNT_CORE | TS_WIN_BASE | TS_WIN_LEN | TS_REL_OFF
  | TS_REL_LEN | TS_REL_DST | TS_REL_CTL | TS_LOG | EVR_STATUS | EVR_SEQ_FIRST
  | EVR_SEQ_LAST | EVR_CURSOR | EVR_CTL | EVR_DROPPED | EVR_CNT_SUPPR | EVR_RATE_IDX
  | EVR_RATE_DATA | EVR_WIN | PWR_STATUS | PWR_CTL | PWR_INPUT0 | PWR_INPUT1
  | PWR_MODULE | PWR_CAP | THM_CTL | PWR_CNT_STEPDOWN | THM_CNT_THROTTLE | PWR_CNT_TRIP
  deriving DecidableEq, Repr

/-- The access codes of R16. -/
inductive Access where
  | rw | ro | wo | w1c | rwl
  deriving DecidableEq, Repr

/-- One field of a register: bits [lo + width - 1 : lo]. -/
structure FieldSpec where
  fld : Fld
  lo : Nat
  width : Nat
  acc : Access
  deriving DecidableEq, Repr

/-- The dies that have a block. -/
inductive DieSet where
  | cd | mh | iod | mh0 | iod0 | all
  deriving DecidableEq, Repr

/-- Where a register stands: unit (x, y) of a die has instance k at base + x * sx + y * sy + k * si. -/
structure Place where
  dies : DieSet
  base : Nat
  nx : Nat := 1
  sx : Nat := 0
  ny : Nat := 1
  sy : Nat := 0
  ni : Nat := 1
  si : Nat := 0
  deriving DecidableEq, Repr

/-- The fields of each register, lowest bit first (the register tables). -/
def Reg.fields : Reg → List FieldSpec
  | .MOD_IDENT => [⟨.MOD_IDENT_STEPPING, 0, 8, .ro⟩, ⟨.MOD_IDENT_CADENCE_VER, 8, 8, .ro⟩, ⟨.MOD_IDENT_PART, 16, 16, .ro⟩, ⟨.MOD_IDENT_SKU, 32, 16, .rwl⟩]
  | .DIE_IDENT => [⟨.DIE_IDENT_DIE_ID, 0, 8, .ro⟩, ⟨.DIE_IDENT_KIND, 8, 4, .ro⟩, ⟨.DIE_IDENT_STEPPING, 16, 8, .ro⟩, ⟨.DIE_IDENT_HUB, 32, 4, .ro⟩]
  | .DIE_STATUS => [⟨.DIE_STATUS_IN_SERVICE, 0, 1, .ro⟩, ⟨.DIE_STATUS_DEGRADED, 1, 1, .ro⟩, ⟨.DIE_STATUS_BOOT_LOCKED, 2, 1, .ro⟩, ⟨.DIE_STATUS_UNITS_OUT, 8, 24, .ro⟩]
  | .DIE_BOOT_LOCK => [⟨.DIE_BOOT_LOCK_LOCK, 0, 1, .rwl⟩]
  | .ARR_IDENT => [⟨.ARR_IDENT_INDEX, 0, 5, .ro⟩, ⟨.ARR_IDENT_AFT, 5, 1, .ro⟩, ⟨.ARR_IDENT_XPOSE, 6, 1, .ro⟩]
  | .ARR_STATUS => [⟨.ARR_STATUS_STATE, 0, 2, .ro⟩, ⟨.ARR_STATUS_QLEVEL, 2, 5, .ro⟩, ⟨.ARR_STATUS_FRONT, 7, 1, .ro⟩, ⟨.ARR_STATUS_BACK_FULL, 8, 1, .ro⟩, ⟨.ARR_STATUS_LOAD_STALL, 9, 1, .ro⟩]
  | .ARR_CTL => [⟨.ARR_CTL_PARK, 0, 1, .rw⟩, ⟨.ARR_CTL_ACB_RETAIN, 1, 1, .rw⟩, ⟨.ARR_CTL_LS_ENABLE, 2, 1, .rw⟩]
  | .ARR_EPOCH => [⟨.ARR_EPOCH_EPOCH, 0, 16, .ro⟩, ⟨.ARR_EPOCH_ACB_EPOCH, 16, 16, .ro⟩]
  | .ARR_DONE => [⟨.ARR_DONE_DONE, 0, 32, .ro⟩, ⟨.ARR_DONE_DISCARDED, 32, 32, .ro⟩]
  | .ARR_FAULT => [⟨.ARR_FAULT_BAD_CMD, 0, 1, .w1c⟩, ⟨.ARR_FAULT_STALE_STATE, 1, 1, .w1c⟩, ⟨.ARR_FAULT_POISON, 2, 1, .w1c⟩, ⟨.ARR_FAULT_ACB_RANGE, 3, 1, .w1c⟩, ⟨.ARR_FAULT_ACB_UE, 4, 1, .w1c⟩]
  | .ARR_FAULT_INFO => [⟨.ARR_FAULT_INFO_TAG, 0, 16, .ro⟩, ⟨.ARR_FAULT_INFO_KIND, 16, 4, .ro⟩, ⟨.ARR_FAULT_INFO_FIELD, 20, 4, .ro⟩, ⟨.ARR_FAULT_INFO_ROW, 24, 12, .ro⟩]
  | .ARR_EVENTS => [⟨.ARR_EVENTS_INT_SAT, 0, 1, .w1c⟩, ⟨.ARR_EVENTS_LS_ACTIVE, 1, 1, .w1c⟩, ⟨.ARR_EVENTS_EPOCH_WRAP, 2, 1, .w1c⟩]
  | .ARR_ROWMASK => [⟨.ARR_ROWMASK_BITS, 0, 64, .rw⟩]
  | .ARR_COLMASK => [⟨.ARR_COLMASK_BITS, 0, 64, .rw⟩]
  | .ARR_LS_SEED => [⟨.ARR_LS_SEED_SEED, 0, 64, .rw⟩]
  | .ARR_ACB_RGN_BASE => [⟨.ARR_ACB_RGN_BASE_ROW0, 0, 12, .rw⟩, ⟨.ARR_ACB_RGN_BASE_ROWS, 12, 13, .rw⟩, ⟨.ARR_ACB_RGN_BASE_TIE, 32, 8, .rw⟩, ⟨.ARR_ACB_RGN_BASE_USES, 40, 8, .rw⟩, ⟨.ARR_ACB_RGN_BASE_EPOCH, 48, 16, .ro⟩]
  | .ARR_ACB_RGN_CNT => [⟨.ARR_ACB_RGN_CNT_ADDS, 0, 32, .ro⟩, ⟨.ARR_ACB_RGN_CNT_LS_THRESH, 32, 32, .rw⟩]
  | .ARR_ACB_RGN_WGM => [⟨.ARR_ACB_RGN_WGM_EN, 0, 1, .rw⟩, ⟨.ARR_ACB_RGN_WGM_GRAN, 1, 1, .rw⟩, ⟨.ARR_ACB_RGN_WGM_COLS_T, 2, 8, .rw⟩, ⟨.ARR_ACB_RGN_WGM_BITMAP, 10, 22, .rw⟩, ⟨.ARR_ACB_RGN_WGM_ROW_OFF, 32, 20, .rw⟩]
  | .ARR_CNT_BUSY => [⟨.ARR_CNT_BUSY_COUNT, 0, 64, .ro⟩]
  | .ARR_CNT_DRY => [⟨.ARR_CNT_DRY_COUNT, 0, 64, .ro⟩]
  | .ARR_CNT_BANK => [⟨.ARR_CNT_BANK_COUNT, 0, 64, .ro⟩]
  | .ARR_CNT_DRAIN => [⟨.ARR_CNT_DRAIN_COUNT, 0, 64, .ro⟩]
  | .ARR_CNT_LOAD_STALL => [⟨.ARR_CNT_LOAD_STALL_COUNT, 0, 64, .ro⟩]
  | .ARR_CNT_CE => [⟨.ARR_CNT_CE_COUNT, 0, 64, .ro⟩]
  | .ARR_SCALE_A => [⟨.ARR_SCALE_A_S_LO, 0, 32, .rw⟩, ⟨.ARR_SCALE_A_S_HI, 32, 32, .rw⟩]
  | .ARR_SCALE_B => [⟨.ARR_SCALE_B_S_LO, 0, 32, .rw⟩, ⟨.ARR_SCALE_B_S_HI, 32, 32, .rw⟩]
  | .CAR_CTL => [⟨.CAR_CTL_RING_EN, 0, 2, .rwl⟩]
  | .CAR_STATUS => [⟨.CAR_STATUS_OCC_CW, 0, 6, .ro⟩, ⟨.CAR_STATUS_OCC_CCW, 8, 6, .ro⟩, ⟨.CAR_STATUS_LIVE, 16, 7, .ro⟩, ⟨.CAR_STATUS_RESV, 24, 4, .ro⟩]
  | .CAR_FAULT => [⟨.CAR_FAULT_BAD_INJ, 0, 1, .w1c⟩, ⟨.CAR_FAULT_RING_OFF, 1, 1, .w1c⟩, ⟨.CAR_FAULT_TRANSIT_UE, 2, 1, .w1c⟩]
  | .CAR_FAULT_INFO => [⟨.CAR_FAULT_INFO_TAG, 0, 16, .ro⟩, ⟨.CAR_FAULT_INFO_STATION, 16, 5, .ro⟩, ⟨.CAR_FAULT_INFO_TICKET, 21, 6, .ro⟩]
  | .CAR_EVENTS => [⟨.CAR_EVENTS_ARM_STALL, 0, 1, .w1c⟩, ⟨.CAR_EVENTS_GW_STALL, 1, 1, .w1c⟩, ⟨.CAR_EVENTS_GW, 2, 4, .w1c⟩]
  | .CAR_WDOG => [⟨.CAR_WDOG_LIMIT, 0, 16, .rw⟩]
  | .CAR_CNT_FLIT_CW => [⟨.CAR_CNT_FLIT_CW_COUNT, 0, 64, .ro⟩]
  | .CAR_CNT_FLIT_CCW => [⟨.CAR_CNT_FLIT_CCW_COUNT, 0, 64, .ro⟩]
  | .CAR_CNT_INJ_WAIT => [⟨.CAR_CNT_INJ_WAIT_COUNT, 0, 64, .ro⟩]
  | .CAR_CNT_ARM_WAIT => [⟨.CAR_CNT_ARM_WAIT_COUNT, 0, 64, .ro⟩]
  | .CAR_CNT_RESV => [⟨.CAR_CNT_RESV_COUNT, 0, 64, .ro⟩]
  | .CAR_CNT_CE => [⟨.CAR_CNT_CE_COUNT, 0, 64, .ro⟩]
  | .CAR_TKT => [⟨.CAR_TKT_STATE, 0, 2, .ro⟩, ⟨.CAR_TKT_SLOT, 2, 2, .ro⟩, ⟨.CAR_TKT_RING, 4, 1, .ro⟩, ⟨.CAR_TKT_INJ, 5, 5, .ro⟩, ⟨.CAR_TKT_DROP, 10, 5, .ro⟩, ⟨.CAR_TKT_SUBS, 15, 6, .ro⟩, ⟨.CAR_TKT_REGS, 21, 6, .ro⟩, ⟨.CAR_TKT_SENT, 27, 6, .ro⟩]
  | .CAR_TKT_REG => [⟨.CAR_TKT_REG_BOBBINS, 0, 48, .ro⟩, ⟨.CAR_TKT_REG_STATIONS, 48, 4, .ro⟩]
  | .FDR_STATUS => [⟨.FDR_STATUS_QLEVEL, 0, 4, .ro⟩, ⟨.FDR_STATUS_FREE, 4, 3, .ro⟩, ⟨.FDR_STATUS_HEAD, 7, 2, .ro⟩, ⟨.FDR_STATUS_WAITING, 9, 1, .ro⟩]
  | .FDR_FAULT => [⟨.FDR_FAULT_BAD_FEED, 0, 1, .w1c⟩, ⟨.FDR_FAULT_GROUP, 1, 1, .w1c⟩, ⟨.FDR_FAULT_UE, 2, 1, .w1c⟩]
  | .FDR_FAULT_INFO => [⟨.FDR_FAULT_INFO_TAG, 0, 16, .ro⟩, ⟨.FDR_FAULT_INFO_KIND, 16, 4, .ro⟩, ⟨.FDR_FAULT_INFO_SLOT, 20, 2, .ro⟩]
  | .FDR_SLOT => [⟨.FDR_SLOT_STATE, 0, 3, .ro⟩, ⟨.FDR_SLOT_SRC, 3, 1, .ro⟩, ⟨.FDR_SLOT_INT4, 4, 1, .ro⟩, ⟨.FDR_SLOT_PASSES, 5, 4, .ro⟩, ⟨.FDR_SLOT_TICKET, 9, 6, .ro⟩, ⟨.FDR_SLOT_FLITS, 15, 6, .ro⟩, ⟨.FDR_SLOT_LINE, 21, 13, .ro⟩]
  | .FDR_CNT_SUB_WAIT => [⟨.FDR_CNT_SUB_WAIT_COUNT, 0, 64, .ro⟩]
  | .FDR_CNT_FLITS => [⟨.FDR_CNT_FLITS_COUNT, 0, 64, .ro⟩]
  | .FDR_CNT_PRIV => [⟨.FDR_CNT_PRIV_COUNT, 0, 64, .ro⟩]
  | .FDR_CNT_LINES => [⟨.FDR_CNT_LINES_COUNT, 0, 64, .ro⟩]
  | .FDR_CNT_CE => [⟨.FDR_CNT_CE_COUNT, 0, 64, .ro⟩]
  | .SEQ_STATUS => [⟨.SEQ_STATUS_RUNNING, 0, 2, .ro⟩, ⟨.SEQ_STATUS_IDLE, 2, 1, .ro⟩, ⟨.SEQ_STATUS_READY, 4, 4, .ro⟩, ⟨.SEQ_STATUS_FAULTED, 8, 4, .ro⟩]
  | .SEQ_TKT_BUDGET => [⟨.SEQ_TKT_BUDGET_BUDGET, 0, 8, .rw⟩]
  | .SEQ_TKT_USE => [⟨.SEQ_TKT_USE_USE, 0, 8, .ro⟩, ⟨.SEQ_TKT_USE_ARRAYS, 8, 5, .ro⟩, ⟨.SEQ_TKT_USE_VES, 13, 4, .ro⟩, ⟨.SEQ_TKT_USE_SES, 17, 4, .ro⟩]
  | .SEQ_CTX_STATE => [⟨.SEQ_CTX_STATE_STATE, 0, 3, .ro⟩, ⟨.SEQ_CTX_STATE_SLOT, 3, 2, .ro⟩, ⟨.SEQ_CTX_STATE_LOGICAL, 5, 2, .ro⟩, ⟨.SEQ_CTX_STATE_SIDESHOW, 7, 1, .ro⟩, ⟨.SEQ_CTX_STATE_WAIT_CNT, 8, 8, .ro⟩, ⟨.SEQ_CTX_STATE_STALL, 16, 3, .ro⟩]
  | .SEQ_CTX_PC => [⟨.SEQ_CTX_PC_PC, 0, 32, .ro⟩]
  | .SEQ_CTX_FAULT => [⟨.SEQ_CTX_FAULT_CAUSE, 0, 4, .ro⟩, ⟨.SEQ_CTX_FAULT_UNIT, 4, 8, .ro⟩, ⟨.SEQ_CTX_FAULT_PC, 16, 32, .ro⟩, ⟨.SEQ_CTX_FAULT_TAG, 48, 16, .ro⟩]
  | .SEQ_TKT_GRANT => [⟨.SEQ_TKT_GRANT_GRANT, 0, 8, .ro⟩, ⟨.SEQ_TKT_GRANT_HELD, 8, 8, .ro⟩]
  | .SEQ_CNT_ISSUE => [⟨.SEQ_CNT_ISSUE_COUNT, 0, 64, .ro⟩]
  | .SEQ_CNT_WAIT => [⟨.SEQ_CNT_WAIT_COUNT, 0, 64, .ro⟩]
  | .SEQ_CNT_QFULL => [⟨.SEQ_CNT_QFULL_COUNT, 0, 64, .ro⟩]
  | .SEQ_CNT_TKT_STALL => [⟨.SEQ_CNT_TKT_STALL_COUNT, 0, 64, .ro⟩]
  | .SEQ_CNT_LATE => [⟨.SEQ_CNT_LATE_COUNT, 0, 64, .ro⟩]
  | .SEQ_CNT_LATE_STRETCH => [⟨.SEQ_CNT_LATE_STRETCH_COUNT, 0, 64, .ro⟩]
  | .SEQ_SS_STATUS => [⟨.SEQ_SS_STATUS_YIELDING, 0, 1, .ro⟩, ⟨.SEQ_SS_STATUS_FORCED, 1, 1, .w1c⟩]
  | .SEQ_CNT_SS_YIELD => [⟨.SEQ_CNT_SS_YIELD_COUNT, 0, 64, .ro⟩]
  | .SEQ_CNT_SS_FORCED => [⟨.SEQ_CNT_SS_FORCED_COUNT, 0, 64, .ro⟩]
  | .STASH_STATUS => [⟨.STASH_STATUS_USED, 0, 13, .ro⟩, ⟨.STASH_STATUS_FULL_SEEN, 16, 4, .w1c⟩]
  | .STASH_PURGE => [⟨.STASH_PURGE_SLOTS, 0, 4, .wo⟩]
  | .STASH_DIR_IDX => [⟨.STASH_DIR_IDX_INDEX, 0, 12, .rw⟩]
  | .STASH_DIR_DATA0 => [⟨.STASH_DIR_DATA0_KEY, 0, 32, .ro⟩, ⟨.STASH_DIR_DATA0_SLOT, 32, 2, .ro⟩, ⟨.STASH_DIR_DATA0_PLACE, 34, 3, .ro⟩, ⟨.STASH_DIR_DATA0_RECOMP, 37, 1, .ro⟩, ⟨.STASH_DIR_DATA0_UNITS, 40, 24, .ro⟩]
  | .STASH_DIR_DATA1 => [⟨.STASH_DIR_DATA1_FIRST, 0, 36, .ro⟩]
  | .STASH_CNT_HBM => [⟨.STASH_CNT_HBM_COUNT, 0, 64, .ro⟩]
  | .STASH_CNT_SPILL => [⟨.STASH_CNT_SPILL_COUNT, 0, 64, .ro⟩]
  | .STASH_CNT_DROP => [⟨.STASH_CNT_DROP_COUNT, 0, 64, .ro⟩]
  | .STASH_CNT_EXH => [⟨.STASH_CNT_EXH_COUNT, 0, 64, .ro⟩]
  | .STASH_CNT_RD_DROP => [⟨.STASH_CNT_RD_DROP_COUNT, 0, 64, .ro⟩]
  | .VE_FTAB_STATUS => [⟨.VE_FTAB_STATUS_VALID, 0, 32, .ro⟩, ⟨.VE_FTAB_STATUS_EPOCH, 32, 16, .ro⟩, ⟨.VE_FTAB_STATUS_REFUSED, 48, 1, .w1c⟩, ⟨.VE_FTAB_STATUS_PAIR, 49, 5, .ro⟩]
  | .VE_SR_SEED => [⟨.VE_SR_SEED_SEED, 0, 64, .rw⟩]
  | .NUM_CEN_BASE => [⟨.NUM_CEN_BASE_EN, 0, 1, .rw⟩, ⟨.NUM_CEN_BASE_BASE, 12, 36, .rw⟩]
  | .NUM_CEN_CFG => [⟨.NUM_CEN_CFG_CIDS, 0, 13, .rw⟩, ⟨.NUM_CEN_CFG_SAT_SKIP, 13, 1, .rw⟩]
  | .NUM_STEP => [⟨.NUM_STEP_STEP, 0, 32, .rw⟩, ⟨.NUM_STEP_RESOLVED, 32, 32, .ro⟩]
  | .NUM_LSCALE => [⟨.NUM_LSCALE_E, 0, 8, .rw⟩, ⟨.NUM_LSCALE_E_MIN, 8, 8, .rw⟩, ⟨.NUM_LSCALE_PEND, 16, 8, .rw⟩, ⟨.NUM_LSCALE_PEND_VALID, 24, 1, .rw⟩, ⟨.NUM_LSCALE_FLOOR_HIT, 25, 1, .w1c⟩]
  | .NUM_OVF => [⟨.NUM_OVF_STEP, 0, 32, .ro⟩, ⟨.NUM_OVF_OVF, 32, 1, .ro⟩, ⟨.NUM_OVF_CID, 33, 16, .ro⟩]
  | .NUM_CNT_LATE => [⟨.NUM_CNT_LATE_COUNT, 0, 64, .ro⟩]
  | .NUM_CNT_HALVE => [⟨.NUM_CNT_HALVE_COUNT, 0, 64, .ro⟩]
  | .NUM_CNT_DISCARD => [⟨.NUM_CNT_DISCARD_COUNT, 0, 64, .ro⟩]
  | .CMT_CFG => [⟨.CMT_CFG_SYNC_K, 0, 3, .rw⟩, ⟨.CMT_CFG_ROOT, 3, 1, .rw⟩, ⟨.CMT_CFG_SKIP_NEXT, 4, 1, .rw⟩, ⟨.CMT_CFG_LIMIT, 16, 16, .rw⟩, ⟨.CMT_CFG_NEXT_POS, 48, 16, .rw⟩]
  | .CMT_STATUS => [⟨.CMT_STATUS_STATE, 0, 3, .ro⟩, ⟨.CMT_STATUS_LOCAL, 3, 1, .ro⟩, ⟨.CMT_STATUS_REASONS, 4, 4, .ro⟩, ⟨.CMT_STATUS_TIMEOUT, 8, 1, .w1c⟩, ⟨.CMT_STATUS_OVF_AFTER, 9, 1, .w1c⟩, ⟨.CMT_STATUS_STEP, 32, 32, .ro⟩]
  | .CMT_LAST => [⟨.CMT_LAST_COMMIT, 0, 1, .ro⟩, ⟨.CMT_LAST_REASONS, 1, 4, .ro⟩, ⟨.CMT_LAST_STEP, 32, 32, .ro⟩]
  | .CMT_GRP_IDX => [⟨.CMT_GRP_IDX_GROUP, 0, 8, .rw⟩]
  | .CMT_GRP_DATA => [⟨.CMT_GRP_DATA_DATA, 0, 64, .rw⟩]
  | .CMT_CNT_COMMIT => [⟨.CMT_CNT_COMMIT_COUNT, 0, 64, .ro⟩]
  | .CMT_CNT_SKIP => [⟨.CMT_CNT_SKIP_COUNT, 0, 64, .ro⟩]
  | .CMT_CNT_DISCARD => [⟨.CMT_CNT_DISCARD_COUNT, 0, 64, .ro⟩]
  | .UE_STATUS => [⟨.UE_STATUS_BUSY, 0, 1, .ro⟩, ⟨.UE_STATUS_SLOT, 1, 2, .ro⟩, ⟨.UE_STATUS_TORN, 3, 1, .w1c⟩, ⟨.UE_STATUS_SEG, 32, 32, .ro⟩]
  | .UE_FAULT => [⟨.UE_FAULT_BAD_SEG, 0, 1, .w1c⟩, ⟨.UE_FAULT_POISON, 1, 1, .w1c⟩, ⟨.UE_FAULT_XLATE, 2, 1, .w1c⟩]
  | .UE_FAULT_INFO => [⟨.UE_FAULT_INFO_SEG, 0, 32, .ro⟩, ⟨.UE_FAULT_INFO_SLOT, 32, 2, .ro⟩]
  | .UE_SEG_BASE => [⟨.UE_SEG_BASE_BASE, 6, 42, .rw⟩]
  | .UE_SEG_CNT => [⟨.UE_SEG_CNT_COUNT, 0, 20, .rw⟩]
  | .UE_CNT_ELEM => [⟨.UE_CNT_ELEM_COUNT, 0, 64, .ro⟩]
  | .UE_CNT_NONFIN => [⟨.UE_CNT_NONFIN_COUNT, 0, 64, .ro⟩]
  | .UE_CNT_HELD => [⟨.UE_CNT_HELD_COUNT, 0, 64, .ro⟩]
  | .QTA_HBM => [⟨.QTA_HBM_LIMIT, 0, 20, .rw⟩, ⟨.QTA_HBM_USED, 20, 20, .ro⟩, ⟨.QTA_HBM_OVERSUB, 40, 1, .ro⟩]
  | .QTA_T2 => [⟨.QTA_T2_LIMIT, 0, 20, .rw⟩, ⟨.QTA_T2_USED, 20, 20, .ro⟩, ⟨.QTA_T2_OVERSUB, 40, 1, .ro⟩]
  | .QTA_STASH => [⟨.QTA_STASH_LIMIT, 0, 20, .rw⟩, ⟨.QTA_STASH_USED, 20, 20, .ro⟩, ⟨.QTA_STASH_OVERSUB, 40, 1, .ro⟩]
  | .QTA_SPILL => [⟨.QTA_SPILL_LIMIT, 0, 20, .rw⟩, ⟨.QTA_SPILL_USED, 20, 20, .ro⟩, ⟨.QTA_SPILL_OVERSUB, 40, 1, .ro⟩]
  | .QTA_HCACHE => [⟨.QTA_HCACHE_LIMIT, 0, 20, .rw⟩, ⟨.QTA_HCACHE_USED, 20, 20, .ro⟩, ⟨.QTA_HCACHE_OVERSUB, 40, 1, .ro⟩]
  | .QTA_STASH_UNITS => [⟨.QTA_STASH_UNITS_USED, 0, 24, .ro⟩, ⟨.QTA_STASH_UNITS_GRANTED, 24, 24, .ro⟩]
  | .QTA_SPILL_UNITS => [⟨.QTA_SPILL_UNITS_USED, 0, 24, .ro⟩, ⟨.QTA_SPILL_UNITS_GRANTED, 24, 24, .ro⟩]
  | .FLIP_CTL => [⟨.FLIP_CTL_ARM, 0, 1, .rw⟩, ⟨.FLIP_CTL_KIND, 1, 2, .rw⟩, ⟨.FLIP_CTL_INDEX, 3, 5, .rw⟩, ⟨.FLIP_CTL_DONE, 8, 1, .w1c⟩]
  | .FLIP_DATA => [⟨.FLIP_DATA_MASK, 0, 64, .rw⟩]
  | .FLIP_SIDE => [⟨.FLIP_SIDE_MASK, 0, 32, .rw⟩]
  | .MEM_HBM_SPLIT => [⟨.MEM_HBM_SPLIT_HL_GIB, 0, 6, .rwl⟩]
  | .MEM_FRAME_IDX => [⟨.MEM_FRAME_IDX_FRAME, 0, 20, .rw⟩, ⟨.MEM_FRAME_IDX_TIER, 20, 1, .rw⟩]
  | .MEM_FRAME_DATA => [⟨.MEM_FRAME_DATA_OWNER, 0, 3, .rw⟩, ⟨.MEM_FRAME_DATA_USE, 3, 2, .rw⟩, ⟨.MEM_FRAME_DATA_CLASS, 5, 1, .rw⟩, ⟨.MEM_FRAME_DATA_SEAL, 6, 1, .rw⟩, ⟨.MEM_FRAME_DATA_ZEROING, 7, 1, .ro⟩]
  | .SRAM_CLASS => [⟨.SRAM_CLASS_STRONG, 0, 64, .rw⟩]
  | .SRAM_OWNER => [⟨.SRAM_OWNER_BLOCKS, 0, 64, .ro⟩]
  | .HC_CTL => [⟨.HC_CTL_EN, 0, 1, .rw⟩, ⟨.HC_CTL_MERGE, 1, 1, .rw⟩]
  | .HC_SLOT_LINES => [⟨.HC_SLOT_LINES_LINES, 0, 21, .ro⟩]
  | .HC_CNT_HIT => [⟨.HC_CNT_HIT_COUNT, 0, 64, .ro⟩]
  | .HC_CNT_MISS => [⟨.HC_CNT_MISS_COUNT, 0, 64, .ro⟩]
  | .HC_CNT_MERGED => [⟨.HC_CNT_MERGED_COUNT, 0, 64, .ro⟩]
  | .ERR_STATUS => [⟨.ERR_STATUS_ENTRIES, 0, 5, .ro⟩, ⟨.ERR_STATUS_FULL, 5, 1, .ro⟩, ⟨.ERR_STATUS_UE_SEEN, 6, 1, .w1c⟩]
  | .ERR_CNT_CE => [⟨.ERR_CNT_CE_COUNT, 0, 64, .ro⟩]
  | .CE_UNLOGGED => [⟨.CE_UNLOGGED_COUNT, 0, 64, .ro⟩]
  | .ERR_CNT_UE => [⟨.ERR_CNT_UE_COUNT, 0, 64, .ro⟩]
  | .ERR_UE_ADDR => [⟨.ERR_UE_ADDR_VALID, 0, 1, .w1c⟩, ⟨.ERR_UE_ADDR_CLASS, 1, 1, .ro⟩, ⟨.ERR_UE_ADDR_ADDR, 2, 47, .ro⟩]
  | .ERR_LOG_ADDR => [⟨.ERR_LOG_ADDR_VALID, 0, 1, .w1c⟩, ⟨.ERR_LOG_ADDR_CLASS, 1, 1, .ro⟩, ⟨.ERR_LOG_ADDR_ADDR, 2, 47, .ro⟩, ⟨.ERR_LOG_ADDR_REPEAT, 49, 15, .ro⟩]
  | .ERR_LOG_SYN => [⟨.ERR_LOG_SYN_SYN, 0, 24, .ro⟩, ⟨.ERR_LOG_SYN_POS, 24, 9, .ro⟩, ⟨.ERR_LOG_SYN_FIRST, 33, 31, .ro⟩]
  | .ERR_RAW_ADDR => [⟨.ERR_RAW_ADDR_ADDR, 0, 47, .rw⟩]
  | .ERR_RAW_CMD => [⟨.ERR_RAW_CMD_OP, 0, 2, .wo⟩, ⟨.ERR_RAW_CMD_BUSY, 8, 1, .ro⟩, ⟨.ERR_RAW_CMD_REFUSED, 9, 1, .w1c⟩]
  | .ERR_RAW_DATA => [⟨.ERR_RAW_DATA_DATA, 0, 64, .rw⟩]
  | .ERR_RAW_SIDE => [⟨.ERR_RAW_SIDE_SIDE, 0, 32, .rw⟩]
  | .SCRUB_CTL => [⟨.SCRUB_CTL_EN, 0, 1, .rw⟩, ⟨.SCRUB_CTL_PERIOD, 8, 8, .rw⟩]
  | .SCRUB_STATUS => [⟨.SCRUB_STATUS_PASSES, 0, 32, .ro⟩, ⟨.SCRUB_STATUS_POS, 32, 32, .ro⟩]
  | .SCRUB_CNT_CE => [⟨.SCRUB_CNT_CE_COUNT, 0, 64, .ro⟩]
  | .SCRUB_CNT_UE => [⟨.SCRUB_CNT_UE_COUNT, 0, 64, .ro⟩]
  | .SE_STATUS => [⟨.SE_STATUS_QLEVEL, 0, 4, .ro⟩, ⟨.SE_STATUS_ACTIVE, 4, 4, .ro⟩, ⟨.SE_STATUS_SUSP, 8, 4, .ro⟩, ⟨.SE_STATUS_CHARGED, 12, 1, .ro⟩, ⟨.SE_STATUS_SLOT, 13, 2, .ro⟩, ⟨.SE_STATUS_SR_BUSY, 15, 1, .ro⟩]
  | .SE_CTL => [⟨.SE_CTL_FAULT_LIMIT, 0, 16, .rw⟩]
  | .SE_SR_SEED => [⟨.SE_SR_SEED_SEED, 0, 64, .rw⟩]
  | .SE_EVENTS => [⟨.SE_EVENTS_POOL_STALL, 0, 1, .w1c⟩, ⟨.SE_EVENTS_FAULT, 1, 1, .w1c⟩, ⟨.SE_EVENTS_LIMIT, 2, 1, .w1c⟩]
  | .SE_POOL => [⟨.SE_POOL_USED, 0, 10, .ro⟩, ⟨.SE_POOL_FLOORS, 10, 3, .ro⟩]
  | .SE_ERR_INFO => [⟨.SE_ERR_INFO_CODE, 0, 4, .ro⟩, ⟨.SE_ERR_INFO_CHAN, 4, 2, .ro⟩, ⟨.SE_ERR_INFO_SLOT, 6, 2, .ro⟩, ⟨.SE_ERR_INFO_TAG, 16, 16, .ro⟩]
  | .SE_ERR_WMARK => [⟨.SE_ERR_WMARK_WMARK, 0, 41, .ro⟩]
  | .SE_DESC_BASE => [⟨.SE_DESC_BASE_BASE, 0, 15, .rw⟩, ⟨.SE_DESC_BASE_VALID, 15, 1, .rw⟩, ⟨.SE_DESC_BASE_LEN, 16, 16, .rw⟩]
  | .SE_CH_STATUS => [⟨.SE_CH_STATUS_STATE, 0, 2, .ro⟩, ⟨.SE_CH_STATUS_SLOT, 2, 2, .ro⟩, ⟨.SE_CH_STATUS_CTX, 4, 2, .ro⟩, ⟨.SE_CH_STATUS_DESC, 6, 15, .ro⟩, ⟨.SE_CH_STATUS_TAG, 21, 16, .ro⟩]
  | .SE_CH_WMARK => [⟨.SE_CH_WMARK_WMARK, 0, 41, .ro⟩]
  | .SE_CH_FAULT => [⟨.SE_CH_FAULT_VA, 0, 48, .ro⟩, ⟨.SE_CH_FAULT_CAUSE, 48, 3, .ro⟩, ⟨.SE_CH_FAULT_SIDE, 51, 1, .ro⟩]
  | .SE_CH_CTL => [⟨.SE_CH_CTL_RESUME, 0, 1, .wo⟩, ⟨.SE_CH_CTL_FAIL, 1, 1, .wo⟩]
  | .SE_CH_TTE => [⟨.SE_CH_TTE_T, 0, 16, .ro⟩]
  | .SE_CNT_STREAMS => [⟨.SE_CNT_STREAMS_COUNT, 0, 64, .ro⟩]
  | .SE_CNT_RD_WORDS => [⟨.SE_CNT_RD_WORDS_COUNT, 0, 64, .ro⟩]
  | .SE_CNT_WR_WORDS => [⟨.SE_CNT_WR_WORDS_COUNT, 0, 64, .ro⟩]
  | .SE_CNT_ELEM => [⟨.SE_CNT_ELEM_COUNT, 0, 64, .ro⟩]
  | .SE_CNT_FAULT => [⟨.SE_CNT_FAULT_COUNT, 0, 64, .ro⟩]
  | .SE_CNT_ERR => [⟨.SE_CNT_ERR_COUNT, 0, 64, .ro⟩]
  | .SE_CNT_POOL_WAIT => [⟨.SE_CNT_POOL_WAIT_COUNT, 0, 64, .ro⟩]
  | .XLT_ROOT => [⟨.XLT_ROOT_EN, 0, 1, .rw⟩, ⟨.XLT_ROOT_ROOT, 12, 40, .rw⟩]
  | .XLT_INVAL => [⟨.XLT_INVAL_ALL, 0, 1, .wo⟩, ⟨.XLT_INVAL_BUSY, 1, 1, .ro⟩, ⟨.XLT_INVAL_VA, 16, 32, .wo⟩]
  | .MESH_PEAK => [⟨.MESH_PEAK_PEAK, 0, 16, .ro⟩, ⟨.MESH_PEAK_CLR, 63, 1, .wo⟩]
  | .MESH_CNT_FLITS => [⟨.MESH_CNT_FLITS_COUNT, 0, 64, .ro⟩]
  | .MESH_CNT_ARB => [⟨.MESH_CNT_ARB_COUNT, 0, 64, .ro⟩]
  | .MESH_CNT_BP => [⟨.MESH_CNT_BP_COUNT, 0, 64, .ro⟩]
  | .CLK_STEP => [⟨.CLK_STEP_TARGET, 0, 3, .rw⟩, ⟨.CLK_STEP_MODE, 3, 1, .rw⟩, ⟨.CLK_STEP_CURRENT, 4, 3, .ro⟩, ⟨.CLK_STEP_CAP, 8, 3, .rw⟩, ⟨.CLK_STEP_BUSY, 11, 1, .ro⟩, ⟨.CLK_STEP_STOPPED, 12, 1, .ro⟩]
  | .CLK_CTL => [⟨.CLK_CTL_STRETCH_EN, 0, 1, .rw⟩]
  | .CLK_STATUS => [⟨.CLK_STATUS_XERR, 0, 1, .ro⟩, ⟨.CLK_STATUS_XING, 1, 7, .ro⟩]
  | .CLK_CNT_STRETCH => [⟨.CLK_CNT_STRETCH_COUNT, 0, 64, .ro⟩]
  | .CLK_CNT_GLIDE => [⟨.CLK_CNT_GLIDE_COUNT, 0, 64, .ro⟩]
  | .CLK_CNT_STOP => [⟨.CLK_CNT_STOP_COUNT, 0, 64, .ro⟩]
  | .CLK_CNT_STOP_TIME => [⟨.CLK_CNT_STOP_TIME_COUNT, 0, 64, .ro⟩]
  | .HL_CTL => [⟨.HL_CTL_EN, 0, 1, .rw⟩, ⟨.HL_CTL_ROLE, 1, 3, .rw⟩, ⟨.HL_CTL_SEAL_OK, 4, 1, .rw⟩, ⟨.HL_CTL_RETRAIN, 5, 1, .wo⟩]
  | .HL_STATUS => [⟨.HL_STATUS_STATE, 0, 3, .ro⟩, ⟨.HL_STATUS_TX_WIDTH, 3, 4, .ro⟩, ⟨.HL_STATUS_RX_WIDTH, 7, 4, .ro⟩, ⟨.HL_STATUS_REVERSED, 11, 1, .ro⟩, ⟨.HL_STATUS_COMPAT, 12, 1, .ro⟩, ⟨.HL_STATUS_TX_OUT, 13, 12, .ro⟩, ⟨.HL_STATUS_RX_OUT, 25, 12, .ro⟩]
  | .HL_PEER => [⟨.HL_PEER_POS, 0, 16, .ro⟩, ⟨.HL_PEER_GEN, 16, 16, .ro⟩, ⟨.HL_PEER_ROLE, 32, 3, .ro⟩, ⟨.HL_PEER_PORT, 35, 3, .ro⟩, ⟨.HL_PEER_CATCHER, 38, 1, .ro⟩, ⟨.HL_PEER_VALID, 39, 1, .ro⟩]
  | .HL_FAULT => [⟨.HL_FAULT_LINK_CROSSED, 0, 1, .w1c⟩, ⟨.HL_FAULT_LANE_SHORT, 1, 1, .w1c⟩, ⟨.HL_FAULT_LANE_OPEN, 2, 1, .w1c⟩, ⟨.HL_FAULT_LANE_FAIL, 3, 1, .w1c⟩, ⟨.HL_FAULT_RETRY_LIMIT, 4, 1, .w1c⟩, ⟨.HL_FAULT_HB_LOSS, 5, 1, .w1c⟩, ⟨.HL_FAULT_ROLE_MISMATCH, 6, 1, .w1c⟩, ⟨.HL_FAULT_SEAL_DROP, 7, 1, .w1c⟩, ⟨.HL_FAULT_DOWN, 8, 1, .w1c⟩]
  | .HL_HB => [⟨.HL_HB_PERIOD, 0, 16, .rw⟩, ⟨.HL_HB_LIMIT, 16, 16, .rw⟩]
  | .HL_LANE => [⟨.HL_LANE_PEER, 0, 4, .ro⟩, ⟨.HL_LANE_RX_INV, 4, 1, .ro⟩, ⟨.HL_LANE_TX_OUT, 5, 1, .ro⟩, ⟨.HL_LANE_RX_OUT, 6, 1, .ro⟩, ⟨.HL_LANE_CAUSE, 7, 3, .ro⟩]
  | .HL_CNT_TX_FLITS => [⟨.HL_CNT_TX_FLITS_COUNT, 0, 64, .ro⟩]
  | .HL_CNT_RX_FLITS => [⟨.HL_CNT_RX_FLITS_COUNT, 0, 64, .ro⟩]
  | .HL_CNT_FEC_CW => [⟨.HL_CNT_FEC_CW_COUNT, 0, 64, .ro⟩]
  | .HL_CNT_FEC_UNC => [⟨.HL_CNT_FEC_UNC_COUNT, 0, 64, .ro⟩]
  | .HL_CNT_CRC => [⟨.HL_CNT_CRC_COUNT, 0, 64, .ro⟩]
  | .HL_CNT_REPLAY => [⟨.HL_CNT_REPLAY_COUNT, 0, 64, .ro⟩]
  | .HL_CNT_PICOT_TX => [⟨.HL_CNT_PICOT_TX_COUNT, 0, 64, .ro⟩]
  | .HL_CNT_PICOT_RX => [⟨.HL_CNT_PICOT_RX_COUNT, 0, 64, .ro⟩]
  | .HL_CNT_RELAY => [⟨.HL_CNT_RELAY_COUNT, 0, 64, .ro⟩]
  | .HL_CNT_RETRAIN => [⟨.HL_CNT_RETRAIN_COUNT, 0, 64, .ro⟩]
  | .HLM_POS => [⟨.HLM_POS_POS, 0, 16, .rw⟩, ⟨.HLM_POS_GEN, 16, 16, .rw⟩, ⟨.HLM_POS_CATCHER, 32, 1, .rw⟩]
  | .HLM_CTL => [⟨.HLM_CTL_RELAY_EN, 0, 1, .rw⟩, ⟨.HLM_CTL_DATELINE1, 1, 1, .rw⟩, ⟨.HLM_CTL_DATELINE2, 2, 1, .rw⟩, ⟨.HLM_CTL_HOLD_LIMIT, 16, 16, .rw⟩, ⟨.HLM_CTL_ALIVE_LIMIT, 32, 16, .rw⟩]
  | .HLM_ALIVE => [⟨.HLM_ALIVE_PING, 0, 1, .wo⟩]
  | .HLM_CNT_MISROUTE => [⟨.HLM_CNT_MISROUTE_COUNT, 0, 64, .ro⟩]
  | .HLM_CNT_NOROUTE => [⟨.HLM_CNT_NOROUTE_COUNT, 0, 64, .ro⟩]
  | .RE_STATUS => [⟨.RE_STATUS_LISTS, 0, 4, .ro⟩, ⟨.RE_STATUS_FAULT, 4, 4, .ro⟩, ⟨.RE_STATUS_RUNNING, 8, 5, .ro⟩]
  | .RE_CTL => [⟨.RE_CTL_LIMIT, 0, 16, .rw⟩]
  | .RE_FAULT => [⟨.RE_FAULT_BAD_DESC, 0, 1, .w1c⟩, ⟨.RE_FAULT_LAND, 1, 1, .w1c⟩, ⟨.RE_FAULT_POISON, 2, 1, .w1c⟩, ⟨.RE_FAULT_TRUNC, 3, 1, .w1c⟩, ⟨.RE_FAULT_TIMEOUT, 4, 1, .w1c⟩]
  | .RE_FAULT_INFO => [⟨.RE_FAULT_INFO_TAG, 0, 16, .ro⟩, ⟨.RE_FAULT_INFO_INST, 16, 8, .ro⟩, ⟨.RE_FAULT_INFO_SLOT, 24, 2, .ro⟩, ⟨.RE_FAULT_INFO_CODE, 26, 3, .ro⟩, ⟨.RE_FAULT_INFO_ENTRY, 32, 16, .ro⟩]
  | .RE_SR_SEED => [⟨.RE_SR_SEED_SEED, 0, 64, .rw⟩]
  | .RE_LIST_BASE => [⟨.RE_LIST_BASE_BASE, 6, 42, .rw⟩]
  | .RE_LIST_CTL => [⟨.RE_LIST_CTL_CNT, 0, 16, .rw⟩, ⟨.RE_LIST_CTL_POS, 16, 16, .ro⟩, ⟨.RE_LIST_CTL_STATE, 32, 2, .ro⟩, ⟨.RE_LIST_CTL_RUN, 34, 3, .ro⟩]
  | .RE_LAND_BASE => [⟨.RE_LAND_BASE_BASE, 12, 36, .rw⟩]
  | .RE_LAND_SLOTS => [⟨.RE_LAND_SLOTS_SLOTS, 0, 20, .rw⟩, ⟨.RE_LAND_SLOTS_FREE, 20, 20, .ro⟩]
  | .RE_CNT_DONE => [⟨.RE_CNT_DONE_COUNT, 0, 64, .ro⟩]
  | .RE_CNT_ERR => [⟨.RE_CNT_ERR_COUNT, 0, 64, .ro⟩]
  | .RE_CNT_RX_BYTES => [⟨.RE_CNT_RX_BYTES_COUNT, 0, 64, .ro⟩]
  | .RE_CNT_TX_BYTES => [⟨.RE_CNT_TX_BYTES_COUNT, 0, 64, .ro⟩]
  | .RE_CNT_CREDIT_WAIT => [⟨.RE_CNT_CREDIT_WAIT_COUNT, 0, 64, .ro⟩]
  | .RE_CNT_STALE => [⟨.RE_CNT_STALE_COUNT, 0, 64, .ro⟩]
  | .REC_CFG => [⟨.REC_CFG_CATCHER, 0, 16, .rw⟩, ⟨.REC_CFG_EDGE, 16, 16, .rw⟩, ⟨.REC_CFG_SECOND, 32, 16, .rw⟩, ⟨.REC_CFG_CLAIM_WIN, 48, 8, .rw⟩]
  | .REC_GROUP => [⟨.REC_GROUP_POS, 0, 64, .rw⟩]
  | .REC_SRC => [⟨.REC_SRC_POS, 0, 48, .rw⟩]
  | .REC_STATUS => [⟨.REC_STATUS_STATE, 0, 3, .ro⟩, ⟨.REC_STATUS_SOURCE, 3, 2, .ro⟩, ⟨.REC_STATUS_FAILED, 5, 1, .w1c⟩, ⟨.REC_STATUS_FILLED, 16, 48, .ro⟩]
  | .REC_PENDING => [⟨.REC_PENDING_POS, 0, 64, .ro⟩]
  | .REC_DETOUR => [⟨.REC_DETOUR_POS, 0, 64, .ro⟩]
  | .REC_JOB_GEN => [⟨.REC_JOB_GEN_GEN, 0, 16, .rw⟩]
  | .REC_STATE_BASE => [⟨.REC_STATE_BASE_BASE, 4, 44, .rw⟩, ⟨.REC_STATE_BASE_CNT, 48, 11, .rw⟩]
  | .REC_CNT_CATCH => [⟨.REC_CNT_CATCH_COUNT, 0, 64, .ro⟩]
  | .REC_CNT_CLAIM_DROP => [⟨.REC_CNT_CLAIM_DROP_COUNT, 0, 64, .ro⟩]
  | .REC_CNT_STALE => [⟨.REC_CNT_STALE_COUNT, 0, 64, .ro⟩]
  | .REC_CNT_LOST_STEPS => [⟨.REC_CNT_LOST_STEPS_COUNT, 0, 64, .ro⟩]
  | .SNAP_CFG => [⟨.SNAP_CFG_BUDDY_EN, 0, 1, .rw⟩, ⟨.SNAP_CFG_BUDDY, 16, 16, .rw⟩, ⟨.SNAP_CFG_OWN_TIB, 32, 16, .rw⟩]
  | .SNAP_SHADOW => [⟨.SNAP_SHADOW_BASE, 0, 48, .rw⟩, ⟨.SNAP_SHADOW_SIZE, 48, 16, .rw⟩]
  | .SNAP_SLOT => [⟨.SNAP_SLOT_IMG0, 0, 32, .rw⟩, ⟨.SNAP_SLOT_IMG1, 32, 32, .rw⟩]
  | .SNAP_STATUS => [⟨.SNAP_STATUS_STEP, 0, 32, .ro⟩, ⟨.SNAP_STATUS_MIRROR_STEP, 32, 32, .ro⟩]
  | .CMD_CNT_MGMT => [⟨.CMD_CNT_MGMT_COUNT, 0, 64, .ro⟩]
  | .CMD_CNT_DUP => [⟨.CMD_CNT_DUP_COUNT, 0, 64, .ro⟩]
  | .CMD_CNT_DROP => [⟨.CMD_CNT_DROP_COUNT, 0, 64, .ro⟩]
  | .CMD_CNT_REFUSED => [⟨.CMD_CNT_REFUSED_COUNT, 0, 64, .ro⟩]
  | .BUD_TARGET => [⟨.BUD_TARGET_TARGET, 0, 8, .ro⟩, ⟨.BUD_TARGET_STEP, 8, 3, .ro⟩, ⟨.BUD_TARGET_ACTIVE, 11, 1, .ro⟩]
  | .CORE_AUTH => [⟨.CORE_AUTH_SLOT, 0, 2, .rw⟩, ⟨.CORE_AUTH_VALID, 2, 1, .rw⟩]
  | .SLQ_STATE => [⟨.SLQ_STATE_STATE, 0, 3, .ro⟩, ⟨.SLQ_STATE_SIDESHOW, 3, 1, .ro⟩, ⟨.SLQ_STATE_ABORTED, 4, 1, .w1c⟩, ⟨.SLQ_STATE_SEALED_RUN, 5, 1, .ro⟩, ⟨.SLQ_STATE_DIES, 8, 8, .ro⟩]
  | .SLQ_CMD_BASE => [⟨.SLQ_CMD_BASE_BASE, 5, 47, .rw⟩]
  | .SLQ_CMD_CTL => [⟨.SLQ_CMD_CTL_SIZE, 0, 9, .rw⟩, ⟨.SLQ_CMD_CTL_HEAD, 16, 8, .ro⟩, ⟨.SLQ_CMD_CTL_TAIL, 24, 8, .ro⟩]
  | .SLQ_DB => [⟨.SLQ_DB_TAIL, 0, 8, .wo⟩]
  | .SLQ_CPL_BASE => [⟨.SLQ_CPL_BASE_BASE, 5, 47, .rw⟩]
  | .SLQ_CPL_CTL => [⟨.SLQ_CPL_CTL_SIZE, 0, 9, .rw⟩, ⟨.SLQ_CPL_CTL_HEAD, 16, 8, .rw⟩, ⟨.SLQ_CPL_CTL_TAIL, 24, 8, .ro⟩]
  | .SLQ_EVENTS => [⟨.SLQ_EVENTS_BAD_DB, 0, 1, .w1c⟩, ⟨.SLQ_EVENTS_OVERFLOW, 1, 1, .w1c⟩]
  | .SLQ_ABORT => [⟨.SLQ_ABORT_WORD, 0, 64, .wo⟩]
  | .SLQ_CNT_CMD => [⟨.SLQ_CNT_CMD_COUNT, 0, 64, .ro⟩]
  | .SLQ_CNT_DROP => [⟨.SLQ_CNT_DROP_COUNT, 0, 64, .ro⟩]
  | .SUP_STATUS => [⟨.SUP_STATUS_CAUSE, 0, 2, .ro⟩, ⟨.SUP_STATUS_SLOT, 2, 1, .ro⟩, ⟨.SUP_STATUS_TRIAL, 3, 1, .ro⟩, ⟨.SUP_STATUS_PARKED, 4, 1, .ro⟩, ⟨.SUP_STATUS_VERSION, 32, 32, .ro⟩]
  | .SUP_WDOG => [⟨.SUP_WDOG_LIMIT, 0, 16, .rw⟩, ⟨.SUP_WDOG_KICK, 16, 1, .wo⟩, ⟨.SUP_WDOG_NMI_SEEN, 17, 1, .w1c⟩]
  | .SUP_OPSEC => [⟨.SUP_OPSEC_SECONDS, 0, 64, .ro⟩]
  | .SUP_CYCLES => [⟨.SUP_CYCLES_POWER, 0, 32, .ro⟩, ⟨.SUP_CYCLES_RESETS, 32, 32, .ro⟩]
  | .SVC_STATUS => [⟨.SVC_STATUS_LEVEL, 0, 2, .ro⟩, ⟨.SVC_STATUS_DEGRADED, 2, 1, .ro⟩, ⟨.SVC_STATUS_LATE, 3, 1, .w1c⟩, ⟨.SVC_STATUS_COOLANT_WAIT, 4, 1, .ro⟩, ⟨.SVC_STATUS_DIES, 8, 8, .ro⟩, ⟨.SVC_STATUS_HUBS, 16, 4, .ro⟩, ⟨.SVC_STATUS_STACKS, 24, 24, .ro⟩]
  | .SUP_CORE_MARK => [⟨.SUP_CORE_MARK_READY, 0, 1, .wo⟩]
  | .SNS_IDX => [⟨.SNS_IDX_INDEX, 0, 9, .rw⟩]
  | .SNS_DATA => [⟨.SNS_DATA_VALUE, 0, 16, .ro⟩, ⟨.SNS_DATA_STATE, 16, 3, .ro⟩, ⟨.SNS_DATA_AGE, 32, 32, .ro⟩]
  | .SNS_FAULT => [⟨.SNS_FAULT_INLET, 0, 1, .w1c⟩, ⟨.SNS_FAULT_OUTLET, 1, 1, .w1c⟩, ⟨.SNS_FAULT_FLOW, 2, 1, .w1c⟩, ⟨.SNS_FAULT_LEAK_WIRING, 3, 1, .w1c⟩, ⟨.SNS_FAULT_LEAK, 4, 1, .ro⟩, ⟨.SNS_FAULT_DIE_CAP, 8, 8, .w1c⟩, ⟨.SNS_FAULT_HUB_CAP, 16, 4, .w1c⟩]
  | .FW_STATUS => [⟨.FW_STATUS_A_VALID, 0, 1, .ro⟩, ⟨.FW_STATUS_B_VALID, 1, 1, .ro⟩, ⟨.FW_STATUS_PREF, 2, 1, .ro⟩, ⟨.FW_STATUS_BUSY, 3, 1, .ro⟩, ⟨.FW_STATUS_RESULT, 4, 4, .ro⟩, ⟨.FW_STATUS_FLOOR, 32, 32, .ro⟩]
  | .FW_UPD_ADDR => [⟨.FW_UPD_ADDR_ADDR, 0, 52, .rw⟩]
  | .FW_UPD_LEN => [⟨.FW_UPD_LEN_LEN, 0, 25, .rw⟩]
  | .FW_CTL => [⟨.FW_CTL_WRITE, 0, 1, .wo⟩, ⟨.FW_CTL_TRIAL, 1, 1, .wo⟩, ⟨.FW_CTL_REBOOT, 2, 1, .wo⟩, ⟨.FW_CTL_FLOOR, 3, 1, .wo⟩]
  | .FW_VER_A => [⟨.FW_VER_A_VERSION, 0, 32, .ro⟩, ⟨.FW_VER_A_ROLLBACK, 32, 32, .ro⟩]
  | .FW_VER_B => [⟨.FW_VER_B_VERSION, 0, 32, .ro⟩, ⟨.FW_VER_B_ROLLBACK, 32, 32, .ro⟩]
  | .ID_STATUS => [⟨.ID_STATUS_RECORD_OK, 0, 1, .ro⟩, ⟨.ID_STATUS_SEAL_EN, 1, 1, .ro⟩, ⟨.ID_STATUS_POLICY, 2, 1, .ro⟩, ⟨.ID_STATUS_FAIL_STEP, 4, 3, .ro⟩, ⟨.ID_STATUS_POL_VER, 32, 32, .ro⟩]
  | .ATT_CTL => [⟨.ATT_CTL_QUOTE, 0, 1, .wo⟩, ⟨.ATT_CTL_BUSY, 1, 1, .ro⟩, ⟨.ATT_CTL_DONE, 2, 1, .w1c⟩]
  | .ATT_NONCE => [⟨.ATT_NONCE_NONCE, 0, 64, .rw⟩]
  | .ATT_MEAS => [⟨.ATT_MEAS_M, 0, 64, .ro⟩]
  | .POL_ADDR => [⟨.POL_ADDR_ADDR, 0, 52, .rw⟩]
  | .POL_LEN => [⟨.POL_LEN_LEN, 0, 21, .rw⟩]
  | .POL_CTL => [⟨.POL_CTL_INSTALL, 0, 1, .wo⟩, ⟨.POL_CTL_RESET, 1, 1, .wo⟩, ⟨.POL_CTL_BUSY, 2, 1, .ro⟩, ⟨.POL_CTL_RESULT, 4, 4, .ro⟩]
  | .ATT_QUOTE => [⟨.ATT_QUOTE_Q, 0, 64, .ro⟩]
  | .TS_STATUS => [⟨.TS_STATUS_ARMED, 0, 4, .ro⟩, ⟨.TS_STATUS_RUNNING, 4, 4, .ro⟩, ⟨.TS_STATUS_PENDING, 8, 10, .ro⟩, ⟨.TS_STATUS_SEQ, 32, 32, .ro⟩]
  | .TS_LOG_ACK => [⟨.TS_LOG_ACK_SEQ, 0, 32, .wo⟩]
  | .TS_LOG_IDX => [⟨.TS_LOG_IDX_SEQ, 0, 32, .rw⟩]
  | .TS_CNT_RELEASE => [⟨.TS_CNT_RELEASE_COUNT, 0, 64, .ro⟩]
  | .TS_CNT_REFUSED => [⟨.TS_CNT_REFUSED_COUNT, 0, 64, .ro⟩]
  | .TS_CNT_BLOCK => [⟨.TS_CNT_BLOCK_COUNT, 0, 64, .ro⟩]
  | .SEAL_CNT_CORE => [⟨.SEAL_CNT_CORE_COUNT, 0, 64, .ro⟩]
  | .TS_WIN_BASE => [⟨.TS_WIN_BASE_BASE, 21, 31, .rw⟩]
  | .TS_WIN_LEN => [⟨.TS_WIN_LEN_FRAMES, 0, 16, .rw⟩]
  | .TS_REL_OFF => [⟨.TS_REL_OFF_OFF, 0, 40, .rw⟩]
  | .TS_REL_LEN => [⟨.TS_REL_LEN_LEN, 0, 32, .rw⟩]
  | .TS_REL_DST => [⟨.TS_REL_DST_DST, 0, 52, .rw⟩]
  | .TS_REL_CTL => [⟨.TS_REL_CTL_GO, 0, 1, .wo⟩, ⟨.TS_REL_CTL_BUSY, 1, 1, .ro⟩, ⟨.TS_REL_CTL_RESULT, 2, 4, .ro⟩]
  | .TS_LOG => [⟨.TS_LOG_REC, 0, 64, .ro⟩]
  | .EVR_STATUS => [⟨.EVR_STATUS_LOG_FULL, 0, 1, .ro⟩, ⟨.EVR_STATUS_CLEARING, 1, 1, .ro⟩, ⟨.EVR_STATUS_FLUSHING, 2, 1, .ro⟩, ⟨.EVR_STATUS_PENDING, 3, 11, .ro⟩]
  | .EVR_SEQ_FIRST => [⟨.EVR_SEQ_FIRST_SEQ, 0, 32, .ro⟩]
  | .EVR_SEQ_LAST => [⟨.EVR_SEQ_LAST_SEQ, 0, 32, .ro⟩]
  | .EVR_CURSOR => [⟨.EVR_CURSOR_SEQ, 0, 32, .rw⟩]
  | .EVR_CTL => [⟨.EVR_CTL_CLEAR, 0, 1, .wo⟩, ⟨.EVR_CTL_FLUSH, 1, 1, .wo⟩]
  | .EVR_DROPPED => [⟨.EVR_DROPPED_FULL, 0, 32, .ro⟩, ⟨.EVR_DROPPED_STAGE, 32, 32, .ro⟩]
  | .EVR_CNT_SUPPR => [⟨.EVR_CNT_SUPPR_COUNT, 0, 64, .ro⟩]
  | .EVR_RATE_IDX => [⟨.EVR_RATE_IDX_CODE, 0, 16, .rw⟩]
  | .EVR_RATE_DATA => [⟨.EVR_RATE_DATA_RATE, 0, 16, .rw⟩, ⟨.EVR_RATE_DATA_BURST, 16, 16, .rw⟩, ⟨.EVR_RATE_DATA_SUPPR, 32, 16, .ro⟩]
  | .EVR_WIN => [⟨.EVR_WIN_WORD, 0, 64, .ro⟩]
  | .PWR_STATUS => [⟨.PWR_STATUS_SERVING, 0, 2, .ro⟩, ⟨.PWR_STATUS_SINGLE, 2, 1, .ro⟩, ⟨.PWR_STATUS_LOST, 3, 1, .ro⟩, ⟨.PWR_STATUS_REVERSED, 4, 2, .ro⟩, ⟨.PWR_STATUS_OVERVOLT, 6, 2, .ro⟩, ⟨.PWR_STATUS_LATCHED, 8, 2, .ro⟩]
  | .PWR_CTL => [⟨.PWR_CTL_LIMIT, 0, 13, .rw⟩]
  | .PWR_INPUT0 => [⟨.PWR_INPUT0_MV, 0, 16, .ro⟩, ⟨.PWR_INPUT0_CURRENT, 16, 16, .ro⟩]
  | .PWR_INPUT1 => [⟨.PWR_INPUT1_MV, 0, 16, .ro⟩, ⟨.PWR_INPUT1_CURRENT, 16, 16, .ro⟩]
  | .PWR_MODULE => [⟨.PWR_MODULE_WATTS, 0, 16, .ro⟩, ⟨.PWR_MODULE_PEAK, 16, 16, .ro⟩, ⟨.PWR_MODULE_CLR, 63, 1, .wo⟩]
  | .PWR_CAP => [⟨.PWR_CAP_EFFECTIVE, 0, 3, .ro⟩, ⟨.PWR_CAP_POWER, 3, 1, .ro⟩, ⟨.PWR_CAP_THERMAL, 4, 1, .ro⟩, ⟨.PWR_CAP_COOLANT, 5, 1, .ro⟩, ⟨.PWR_CAP_SINGLE, 6, 1, .ro⟩]
  | .THM_CTL => [⟨.THM_CTL_THROTTLE, 0, 8, .rw⟩, ⟨.THM_CTL_RELEASE, 8, 8, .rw⟩, ⟨.THM_CTL_CRITICAL, 16, 8, .ro⟩]
  | .PWR_CNT_STEPDOWN => [⟨.PWR_CNT_STEPDOWN_COUNT, 0, 64, .ro⟩]
  | .THM_CNT_THROTTLE => [⟨.THM_CNT_THROTTLE_COUNT, 0, 64, .ro⟩]
  | .PWR_CNT_TRIP => [⟨.PWR_CNT_TRIP_COUNT, 0, 64, .ro⟩]

/-- Where each register stands (R34 and the block tables). -/
def Reg.places : Reg → List Place
  | .MOD_IDENT => [{ dies := .iod0, base := 0x0 }]
  | .DIE_IDENT => [{ dies := .all, base := 0x8 }]
  | .DIE_STATUS => [{ dies := .all, base := 0x10 }]
  | .DIE_BOOT_LOCK => [{ dies := .all, base := 0x18 }]
  | .ARR_IDENT => [{ dies := .cd, base := 0x100000, nx := 24, sx := 0x10000 }]
  | .ARR_STATUS => [{ dies := .cd, base := 0x100008, nx := 24, sx := 0x10000 }]
  | .ARR_CTL => [{ dies := .cd, base := 0x100010, nx := 24, sx := 0x10000 }]
  | .ARR_EPOCH => [{ dies := .cd, base := 0x100018, nx := 24, sx := 0x10000 }]
  | .ARR_DONE => [{ dies := .cd, base := 0x100020, nx := 24, sx := 0x10000 }]
  | .ARR_FAULT => [{ dies := .cd, base := 0x100028, nx := 24, sx := 0x10000 }]
  | .ARR_FAULT_INFO => [{ dies := .cd, base := 0x100030, nx := 24, sx := 0x10000 }]
  | .ARR_EVENTS => [{ dies := .cd, base := 0x100038, nx := 24, sx := 0x10000 }]
  | .ARR_ROWMASK => [{ dies := .cd, base := 0x100040, nx := 24, sx := 0x10000, ni := 4, si := 0x8 }]
  | .ARR_COLMASK => [{ dies := .cd, base := 0x100060, nx := 24, sx := 0x10000, ni := 4, si := 0x8 }]
  | .ARR_LS_SEED => [{ dies := .cd, base := 0x100080, nx := 24, sx := 0x10000 }]
  | .ARR_ACB_RGN_BASE => [{ dies := .cd, base := 0x100100, nx := 24, sx := 0x10000, ni := 8, si := 0x10 }]
  | .ARR_ACB_RGN_CNT => [{ dies := .cd, base := 0x100108, nx := 24, sx := 0x10000, ni := 8, si := 0x10 }]
  | .ARR_ACB_RGN_WGM => [{ dies := .cd, base := 0x100180, nx := 24, sx := 0x10000, ni := 8, si := 0x8 }]
  | .ARR_CNT_BUSY => [{ dies := .cd, base := 0x100200, nx := 24, sx := 0x10000 }]
  | .ARR_CNT_DRY => [{ dies := .cd, base := 0x100208, nx := 24, sx := 0x10000 }]
  | .ARR_CNT_BANK => [{ dies := .cd, base := 0x100210, nx := 24, sx := 0x10000 }]
  | .ARR_CNT_DRAIN => [{ dies := .cd, base := 0x100218, nx := 24, sx := 0x10000 }]
  | .ARR_CNT_LOAD_STALL => [{ dies := .cd, base := 0x100220, nx := 24, sx := 0x10000 }]
  | .ARR_CNT_CE => [{ dies := .cd, base := 0x100228, nx := 24, sx := 0x10000 }]
  | .ARR_SCALE_A => [{ dies := .cd, base := 0x101000, nx := 24, sx := 0x10000, ni := 128, si := 0x8 }]
  | .ARR_SCALE_B => [{ dies := .cd, base := 0x101400, nx := 24, sx := 0x10000, ni := 128, si := 0x8 }]
  | .CAR_CTL => [{ dies := .cd, base := 0x20000 }]
  | .CAR_STATUS => [{ dies := .cd, base := 0x20008 }]
  | .CAR_FAULT => [{ dies := .cd, base := 0x20010 }]
  | .CAR_FAULT_INFO => [{ dies := .cd, base := 0x20018 }]
  | .CAR_EVENTS => [{ dies := .cd, base := 0x20020 }]
  | .CAR_WDOG => [{ dies := .cd, base := 0x20028 }]
  | .CAR_CNT_FLIT_CW => [{ dies := .cd, base := 0x20100 }]
  | .CAR_CNT_FLIT_CCW => [{ dies := .cd, base := 0x20108 }]
  | .CAR_CNT_INJ_WAIT => [{ dies := .cd, base := 0x20110 }]
  | .CAR_CNT_ARM_WAIT => [{ dies := .cd, base := 0x20118 }]
  | .CAR_CNT_RESV => [{ dies := .cd, base := 0x20120 }]
  | .CAR_CNT_CE => [{ dies := .cd, base := 0x20128 }]
  | .CAR_TKT => [{ dies := .cd, base := 0x21000, ni := 64, si := 0x10 }]
  | .CAR_TKT_REG => [{ dies := .cd, base := 0x21008, ni := 64, si := 0x10 }]
  | .FDR_STATUS => [{ dies := .cd, base := 0x102000, nx := 24, sx := 0x10000, ny := 2, sy := 0x400 }]
  | .FDR_FAULT => [{ dies := .cd, base := 0x102008, nx := 24, sx := 0x10000, ny := 2, sy := 0x400 }]
  | .FDR_FAULT_INFO => [{ dies := .cd, base := 0x102010, nx := 24, sx := 0x10000, ny := 2, sy := 0x400 }]
  | .FDR_SLOT => [{ dies := .cd, base := 0x102018, nx := 24, sx := 0x10000, ny := 2, sy := 0x400, ni := 4, si := 0x8 }]
  | .FDR_CNT_SUB_WAIT => [{ dies := .cd, base := 0x102100, nx := 24, sx := 0x10000, ny := 2, sy := 0x400 }]
  | .FDR_CNT_FLITS => [{ dies := .cd, base := 0x102108, nx := 24, sx := 0x10000, ny := 2, sy := 0x400 }]
  | .FDR_CNT_PRIV => [{ dies := .cd, base := 0x102110, nx := 24, sx := 0x10000, ny := 2, sy := 0x400 }]
  | .FDR_CNT_LINES => [{ dies := .cd, base := 0x102118, nx := 24, sx := 0x10000, ny := 2, sy := 0x400 }]
  | .FDR_CNT_CE => [{ dies := .cd, base := 0x102120, nx := 24, sx := 0x10000, ny := 2, sy := 0x400 }]
  | .SEQ_STATUS => [{ dies := .cd, base := 0x10000 }]
  | .SEQ_TKT_BUDGET => [{ dies := .cd, base := 0x10008 }]
  | .SEQ_TKT_USE => [{ dies := .cd, base := 0x10010 }]
  | .SEQ_CTX_STATE => [{ dies := .cd, base := 0x10100, ni := 4, si := 0x20 }]
  | .SEQ_CTX_PC => [{ dies := .cd, base := 0x10108, ni := 4, si := 0x20 }]
  | .SEQ_CTX_FAULT => [{ dies := .cd, base := 0x10110, ni := 4, si := 0x20 }]
  | .SEQ_TKT_GRANT => [{ dies := .cd, base := 0x10200, ni := 4, si := 0x8 }]
  | .SEQ_CNT_ISSUE => [{ dies := .cd, base := 0x10300, ni := 4, si := 0x40 }]
  | .SEQ_CNT_WAIT => [{ dies := .cd, base := 0x10308, ni := 4, si := 0x40 }]
  | .SEQ_CNT_QFULL => [{ dies := .cd, base := 0x10310, ni := 4, si := 0x40 }]
  | .SEQ_CNT_TKT_STALL => [{ dies := .cd, base := 0x10318, ni := 4, si := 0x40 }]
  | .SEQ_CNT_LATE => [{ dies := .cd, base := 0x10320, ni := 4, si := 0x40 }]
  | .SEQ_CNT_LATE_STRETCH => [{ dies := .cd, base := 0x10328, ni := 4, si := 0x40 }]
  | .SEQ_SS_STATUS => [{ dies := .cd, base := 0x10400 }]
  | .SEQ_CNT_SS_YIELD => [{ dies := .cd, base := 0x10408 }]
  | .SEQ_CNT_SS_FORCED => [{ dies := .cd, base := 0x10410 }]
  | .STASH_STATUS => [{ dies := .cd, base := 0x18000 }]
  | .STASH_PURGE => [{ dies := .cd, base := 0x18008 }]
  | .STASH_DIR_IDX => [{ dies := .cd, base := 0x18010 }]
  | .STASH_DIR_DATA0 => [{ dies := .cd, base := 0x18018 }]
  | .STASH_DIR_DATA1 => [{ dies := .cd, base := 0x18020 }]
  | .STASH_CNT_HBM => [{ dies := .cd, base := 0x18100 }]
  | .STASH_CNT_SPILL => [{ dies := .cd, base := 0x18108 }]
  | .STASH_CNT_DROP => [{ dies := .cd, base := 0x18110 }]
  | .STASH_CNT_EXH => [{ dies := .cd, base := 0x18118 }]
  | .STASH_CNT_RD_DROP => [{ dies := .cd, base := 0x18120 }]
  | .VE_FTAB_STATUS => [{ dies := .cd, base := 0x300800, nx := 8, sx := 0x10000 }]
  | .VE_SR_SEED => [{ dies := .cd, base := 0x300808, nx := 8, sx := 0x10000 }]
  | .NUM_CEN_BASE => [{ dies := .mh0, base := 0x48000, nx := 4, sx := 0x100 }]
  | .NUM_CEN_CFG => [{ dies := .mh0, base := 0x48008, nx := 4, sx := 0x100 }]
  | .NUM_STEP => [{ dies := .mh0, base := 0x48010, nx := 4, sx := 0x100 }]
  | .NUM_LSCALE => [{ dies := .mh0, base := 0x48018, nx := 4, sx := 0x100 }]
  | .NUM_OVF => [{ dies := .mh0, base := 0x48020, nx := 4, sx := 0x100 }]
  | .NUM_CNT_LATE => [{ dies := .mh0, base := 0x48028, nx := 4, sx := 0x100 }]
  | .NUM_CNT_HALVE => [{ dies := .mh0, base := 0x48030, nx := 4, sx := 0x100 }]
  | .NUM_CNT_DISCARD => [{ dies := .mh0, base := 0x48038, nx := 4, sx := 0x100 }]
  | .CMT_CFG => [{ dies := .mh0, base := 0x308000, nx := 4, sx := 0x100 }]
  | .CMT_STATUS => [{ dies := .mh0, base := 0x308008, nx := 4, sx := 0x100 }]
  | .CMT_LAST => [{ dies := .mh0, base := 0x308010, nx := 4, sx := 0x100 }]
  | .CMT_GRP_IDX => [{ dies := .mh0, base := 0x308018, nx := 4, sx := 0x100 }]
  | .CMT_GRP_DATA => [{ dies := .mh0, base := 0x308020, nx := 4, sx := 0x100, ni := 8, si := 0x8 }]
  | .CMT_CNT_COMMIT => [{ dies := .mh0, base := 0x308060, nx := 4, sx := 0x100 }]
  | .CMT_CNT_SKIP => [{ dies := .mh0, base := 0x308068, nx := 4, sx := 0x100 }]
  | .CMT_CNT_DISCARD => [{ dies := .mh0, base := 0x308070, nx := 4, sx := 0x100 }]
  | .UE_STATUS => [{ dies := .mh, base := 0x300000, nx := 2, sx := 0x10000 }]
  | .UE_FAULT => [{ dies := .mh, base := 0x300008, nx := 2, sx := 0x10000 }]
  | .UE_FAULT_INFO => [{ dies := .mh, base := 0x300010, nx := 2, sx := 0x10000 }]
  | .UE_SEG_BASE => [{ dies := .mh, base := 0x300100, nx := 2, sx := 0x10000, ni := 4, si := 0x10 }]
  | .UE_SEG_CNT => [{ dies := .mh, base := 0x300108, nx := 2, sx := 0x10000, ni := 4, si := 0x10 }]
  | .UE_CNT_ELEM => [{ dies := .mh, base := 0x300200, nx := 2, sx := 0x10000 }]
  | .UE_CNT_NONFIN => [{ dies := .mh, base := 0x300208, nx := 2, sx := 0x10000 }]
  | .UE_CNT_HELD => [{ dies := .mh, base := 0x300210, nx := 2, sx := 0x10000 }]
  | .QTA_HBM => [{ dies := .mh0, base := 0x40000, nx := 4, sx := 0x100 }]
  | .QTA_T2 => [{ dies := .mh0, base := 0x40008, nx := 4, sx := 0x100 }]
  | .QTA_STASH => [{ dies := .mh0, base := 0x40010, nx := 4, sx := 0x100 }]
  | .QTA_SPILL => [{ dies := .mh0, base := 0x40018, nx := 4, sx := 0x100 }]
  | .QTA_HCACHE => [{ dies := .mh0, base := 0x40020, nx := 4, sx := 0x100 }]
  | .QTA_STASH_UNITS => [{ dies := .mh0, base := 0x40028, nx := 4, sx := 0x100 }]
  | .QTA_SPILL_UNITS => [{ dies := .mh0, base := 0x40030, nx := 4, sx := 0x100 }]
  | .FLIP_CTL => [{ dies := .mh0, base := 0x40038, nx := 4, sx := 0x100 }]
  | .FLIP_DATA => [{ dies := .mh0, base := 0x40040, nx := 4, sx := 0x100 }]
  | .FLIP_SIDE => [{ dies := .mh0, base := 0x40048, nx := 4, sx := 0x100 }]
  | .MEM_HBM_SPLIT => [{ dies := .mh0, base := 0x41000 }]
  | .MEM_FRAME_IDX => [{ dies := .mh0, base := 0x41008 }]
  | .MEM_FRAME_DATA => [{ dies := .mh0, base := 0x41010 }]
  | .SRAM_CLASS => [{ dies := .cd, base := 0x41000, ni := 32, si := 0x8 }]
  | .SRAM_OWNER => [{ dies := .cd, base := 0x41200, ni := 128, si := 0x8 }]
  | .HC_CTL => [{ dies := .mh, base := 0x20000 }]
  | .HC_SLOT_LINES => [{ dies := .mh, base := 0x20010, ni := 4, si := 0x8 }]
  | .HC_CNT_HIT => [{ dies := .mh, base := 0x20100 }]
  | .HC_CNT_MISS => [{ dies := .mh, base := 0x20108 }]
  | .HC_CNT_MERGED => [{ dies := .mh, base := 0x20110 }]
  | .ERR_STATUS => [{ dies := .mh, base := 0x30000, nx := 7, sx := 0x400 }, { dies := .iod, base := 0x30000, nx := 3, sx := 0x400 }, { dies := .cd, base := 0x40000, nx := 4, sx := 0x400 }]
  | .ERR_CNT_CE => [{ dies := .mh, base := 0x30008, nx := 7, sx := 0x400 }, { dies := .iod, base := 0x30008, nx := 3, sx := 0x400 }, { dies := .cd, base := 0x40008, nx := 4, sx := 0x400 }]
  | .CE_UNLOGGED => [{ dies := .mh, base := 0x30010, nx := 7, sx := 0x400 }, { dies := .iod, base := 0x30010, nx := 3, sx := 0x400 }, { dies := .cd, base := 0x40010, nx := 4, sx := 0x400 }]
  | .ERR_CNT_UE => [{ dies := .mh, base := 0x30018, nx := 7, sx := 0x400 }, { dies := .iod, base := 0x30018, nx := 3, sx := 0x400 }, { dies := .cd, base := 0x40018, nx := 4, sx := 0x400 }]
  | .ERR_UE_ADDR => [{ dies := .mh, base := 0x30020, nx := 7, sx := 0x400 }, { dies := .iod, base := 0x30020, nx := 3, sx := 0x400 }, { dies := .cd, base := 0x40020, nx := 4, sx := 0x400 }]
  | .ERR_LOG_ADDR => [{ dies := .mh, base := 0x30100, nx := 7, sx := 0x400, ni := 16, si := 0x10 }, { dies := .iod, base := 0x30100, nx := 3, sx := 0x400, ni := 16, si := 0x10 }, { dies := .cd, base := 0x40100, nx := 4, sx := 0x400, ni := 16, si := 0x10 }]
  | .ERR_LOG_SYN => [{ dies := .mh, base := 0x30108, nx := 7, sx := 0x400, ni := 16, si := 0x10 }, { dies := .iod, base := 0x30108, nx := 3, sx := 0x400, ni := 16, si := 0x10 }, { dies := .cd, base := 0x40108, nx := 4, sx := 0x400, ni := 16, si := 0x10 }]
  | .ERR_RAW_ADDR => [{ dies := .mh, base := 0x30200, nx := 6, sx := 0x400 }, { dies := .iod, base := 0x30200, nx := 3, sx := 0x400 }, { dies := .cd, base := 0x40200, nx := 4, sx := 0x400 }]
  | .ERR_RAW_CMD => [{ dies := .mh, base := 0x30208, nx := 6, sx := 0x400 }, { dies := .iod, base := 0x30208, nx := 3, sx := 0x400 }, { dies := .cd, base := 0x40208, nx := 4, sx := 0x400 }]
  | .ERR_RAW_DATA => [{ dies := .mh, base := 0x30210, nx := 6, sx := 0x400, ni := 4, si := 0x8 }, { dies := .iod, base := 0x30210, nx := 3, sx := 0x400, ni := 4, si := 0x8 }, { dies := .cd, base := 0x40210, nx := 4, sx := 0x400, ni := 4, si := 0x8 }]
  | .ERR_RAW_SIDE => [{ dies := .mh, base := 0x30230, nx := 6, sx := 0x400 }, { dies := .iod, base := 0x30230, nx := 3, sx := 0x400 }, { dies := .cd, base := 0x40230, nx := 4, sx := 0x400 }]
  | .SCRUB_CTL => [{ dies := .mh, base := 0x32000 }, { dies := .iod, base := 0x32000 }]
  | .SCRUB_STATUS => [{ dies := .mh, base := 0x32008 }, { dies := .iod, base := 0x32008 }]
  | .SCRUB_CNT_CE => [{ dies := .mh, base := 0x32010 }, { dies := .iod, base := 0x32010 }]
  | .SCRUB_CNT_UE => [{ dies := .mh, base := 0x32018 }, { dies := .iod, base := 0x32018 }]
  | .SE_STATUS => [{ dies := .cd, base := 0x400000, nx := 8, sx := 0x10000 }]
  | .SE_CTL => [{ dies := .cd, base := 0x400008, nx := 8, sx := 0x10000 }]
  | .SE_SR_SEED => [{ dies := .cd, base := 0x400010, nx := 8, sx := 0x10000 }]
  | .SE_EVENTS => [{ dies := .cd, base := 0x400018, nx := 8, sx := 0x10000 }]
  | .SE_POOL => [{ dies := .cd, base := 0x400020, nx := 8, sx := 0x10000 }]
  | .SE_ERR_INFO => [{ dies := .cd, base := 0x400028, nx := 8, sx := 0x10000 }]
  | .SE_ERR_WMARK => [{ dies := .cd, base := 0x400030, nx := 8, sx := 0x10000 }]
  | .SE_DESC_BASE => [{ dies := .cd, base := 0x400100, nx := 8, sx := 0x10000, ni := 4, si := 0x8 }]
  | .SE_CH_STATUS => [{ dies := .cd, base := 0x400200, nx := 8, sx := 0x10000, ni := 4, si := 0x40 }]
  | .SE_CH_WMARK => [{ dies := .cd, base := 0x400208, nx := 8, sx := 0x10000, ni := 4, si := 0x40 }]
  | .SE_CH_FAULT => [{ dies := .cd, base := 0x400210, nx := 8, sx := 0x10000, ni := 4, si := 0x40 }]
  | .SE_CH_CTL => [{ dies := .cd, base := 0x400218, nx := 8, sx := 0x10000, ni := 4, si := 0x40 }]
  | .SE_CH_TTE => [{ dies := .cd, base := 0x400220, nx := 8, sx := 0x10000, ni := 4, si := 0x40 }]
  | .SE_CNT_STREAMS => [{ dies := .cd, base := 0x400400, nx := 8, sx := 0x10000 }]
  | .SE_CNT_RD_WORDS => [{ dies := .cd, base := 0x400408, nx := 8, sx := 0x10000 }]
  | .SE_CNT_WR_WORDS => [{ dies := .cd, base := 0x400410, nx := 8, sx := 0x10000 }]
  | .SE_CNT_ELEM => [{ dies := .cd, base := 0x400418, nx := 8, sx := 0x10000 }]
  | .SE_CNT_FAULT => [{ dies := .cd, base := 0x400420, nx := 8, sx := 0x10000 }]
  | .SE_CNT_ERR => [{ dies := .cd, base := 0x400428, nx := 8, sx := 0x10000 }]
  | .SE_CNT_POOL_WAIT => [{ dies := .cd, base := 0x400430, nx := 8, sx := 0x10000 }]
  | .XLT_ROOT => [{ dies := .iod0, base := 0x68000, nx := 4, sx := 0x10 }]
  | .XLT_INVAL => [{ dies := .iod0, base := 0x68008, nx := 4, sx := 0x10 }]
  | .MESH_PEAK => [{ dies := .cd, base := 0x30000 }]
  | .MESH_CNT_FLITS => [{ dies := .cd, base := 0x30100 }]
  | .MESH_CNT_ARB => [{ dies := .cd, base := 0x30108 }]
  | .MESH_CNT_BP => [{ dies := .cd, base := 0x30110 }]
  | .CLK_STEP => [{ dies := .cd, base := 0x38000 }, { dies := .mh, base := 0x8000 }]
  | .CLK_CTL => [{ dies := .cd, base := 0x38008 }, { dies := .mh, base := 0x8008 }]
  | .CLK_STATUS => [{ dies := .cd, base := 0x38010 }, { dies := .mh, base := 0x8010 }]
  | .CLK_CNT_STRETCH => [{ dies := .cd, base := 0x38100 }, { dies := .mh, base := 0x8100 }]
  | .CLK_CNT_GLIDE => [{ dies := .cd, base := 0x38108 }, { dies := .mh, base := 0x8108 }]
  | .CLK_CNT_STOP => [{ dies := .cd, base := 0x38110 }, { dies := .mh, base := 0x8110 }]
  | .CLK_CNT_STOP_TIME => [{ dies := .cd, base := 0x38118 }, { dies := .mh, base := 0x8118 }]
  | .HL_CTL => [{ dies := .iod, base := 0x100000, nx := 4, sx := 0x10000 }]
  | .HL_STATUS => [{ dies := .iod, base := 0x100008, nx := 4, sx := 0x10000 }]
  | .HL_PEER => [{ dies := .iod, base := 0x100010, nx := 4, sx := 0x10000 }]
  | .HL_FAULT => [{ dies := .iod, base := 0x100018, nx := 4, sx := 0x10000 }]
  | .HL_HB => [{ dies := .iod, base := 0x100020, nx := 4, sx := 0x10000 }]
  | .HL_LANE => [{ dies := .iod, base := 0x100100, nx := 4, sx := 0x10000, ni := 12, si := 0x8 }]
  | .HL_CNT_TX_FLITS => [{ dies := .iod, base := 0x100200, nx := 4, sx := 0x10000 }]
  | .HL_CNT_RX_FLITS => [{ dies := .iod, base := 0x100208, nx := 4, sx := 0x10000 }]
  | .HL_CNT_FEC_CW => [{ dies := .iod, base := 0x100210, nx := 4, sx := 0x10000 }]
  | .HL_CNT_FEC_UNC => [{ dies := .iod, base := 0x100218, nx := 4, sx := 0x10000 }]
  | .HL_CNT_CRC => [{ dies := .iod, base := 0x100220, nx := 4, sx := 0x10000 }]
  | .HL_CNT_REPLAY => [{ dies := .iod, base := 0x100228, nx := 4, sx := 0x10000 }]
  | .HL_CNT_PICOT_TX => [{ dies := .iod, base := 0x100230, nx := 4, sx := 0x10000 }]
  | .HL_CNT_PICOT_RX => [{ dies := .iod, base := 0x100238, nx := 4, sx := 0x10000 }]
  | .HL_CNT_RELAY => [{ dies := .iod, base := 0x100240, nx := 4, sx := 0x10000 }]
  | .HL_CNT_RETRAIN => [{ dies := .iod, base := 0x100248, nx := 4, sx := 0x10000 }]
  | .HLM_POS => [{ dies := .iod0, base := 0x108000 }]
  | .HLM_CTL => [{ dies := .iod0, base := 0x108008 }]
  | .HLM_ALIVE => [{ dies := .iod0, base := 0x108010 }]
  | .HLM_CNT_MISROUTE => [{ dies := .iod0, base := 0x108100 }]
  | .HLM_CNT_NOROUTE => [{ dies := .iod0, base := 0x108108 }]
  | .RE_STATUS => [{ dies := .iod, base := 0x20000 }]
  | .RE_CTL => [{ dies := .iod, base := 0x20008 }]
  | .RE_FAULT => [{ dies := .iod, base := 0x20010 }]
  | .RE_FAULT_INFO => [{ dies := .iod, base := 0x20018 }]
  | .RE_SR_SEED => [{ dies := .iod, base := 0x20020 }]
  | .RE_LIST_BASE => [{ dies := .iod, base := 0x20100, ni := 4, si := 0x20 }]
  | .RE_LIST_CTL => [{ dies := .iod, base := 0x20108, ni := 4, si := 0x20 }]
  | .RE_LAND_BASE => [{ dies := .iod, base := 0x20110, ni := 4, si := 0x20 }]
  | .RE_LAND_SLOTS => [{ dies := .iod, base := 0x20118, ni := 4, si := 0x20 }]
  | .RE_CNT_DONE => [{ dies := .iod, base := 0x20200 }]
  | .RE_CNT_ERR => [{ dies := .iod, base := 0x20208 }]
  | .RE_CNT_RX_BYTES => [{ dies := .iod, base := 0x20210 }]
  | .RE_CNT_TX_BYTES => [{ dies := .iod, base := 0x20218 }]
  | .RE_CNT_CREDIT_WAIT => [{ dies := .iod, base := 0x20220 }]
  | .RE_CNT_STALE => [{ dies := .iod, base := 0x20228 }]
  | .REC_CFG => [{ dies := .iod0, base := 0x109000 }]
  | .REC_GROUP => [{ dies := .iod0, base := 0x109008 }]
  | .REC_SRC => [{ dies := .iod0, base := 0x109010, ni := 4, si := 0x8 }]
  | .REC_STATUS => [{ dies := .iod0, base := 0x109030 }]
  | .REC_PENDING => [{ dies := .iod0, base := 0x109038 }]
  | .REC_DETOUR => [{ dies := .iod0, base := 0x109040, ni := 2, si := 0x8 }]
  | .REC_JOB_GEN => [{ dies := .iod0, base := 0x109060, nx := 4, sx := 0x10 }]
  | .REC_STATE_BASE => [{ dies := .iod0, base := 0x109068, nx := 4, sx := 0x10 }]
  | .REC_CNT_CATCH => [{ dies := .iod0, base := 0x109100 }]
  | .REC_CNT_CLAIM_DROP => [{ dies := .iod0, base := 0x109108 }]
  | .REC_CNT_STALE => [{ dies := .iod0, base := 0x109110 }]
  | .REC_CNT_LOST_STEPS => [{ dies := .iod0, base := 0x109118 }]
  | .SNAP_CFG => [{ dies := .iod0, base := 0x58000 }]
  | .SNAP_SHADOW => [{ dies := .iod0, base := 0x58008 }]
  | .SNAP_SLOT => [{ dies := .iod0, base := 0x58010, nx := 4, sx := 0x10 }]
  | .SNAP_STATUS => [{ dies := .iod0, base := 0x58018, nx := 4, sx := 0x10 }]
  | .CMD_CNT_MGMT => [{ dies := .iod0, base := 0x60000 }]
  | .CMD_CNT_DUP => [{ dies := .iod0, base := 0x60008 }]
  | .CMD_CNT_DROP => [{ dies := .iod0, base := 0x60010 }]
  | .CMD_CNT_REFUSED => [{ dies := .iod0, base := 0x60018 }]
  | .BUD_TARGET => [{ dies := .iod0, base := 0x60200, ni := 8, si := 0x8 }]
  | .CORE_AUTH => [{ dies := .iod, base := 0x60100, ni := 16, si := 0x8 }]
  | .SLQ_STATE => [{ dies := .iod0, base := 0x61000, nx := 4, sx := 0x1000 }]
  | .SLQ_CMD_BASE => [{ dies := .iod0, base := 0x61008, nx := 4, sx := 0x1000 }]
  | .SLQ_CMD_CTL => [{ dies := .iod0, base := 0x61010, nx := 4, sx := 0x1000 }]
  | .SLQ_DB => [{ dies := .iod0, base := 0x61018, nx := 4, sx := 0x1000 }]
  | .SLQ_CPL_BASE => [{ dies := .iod0, base := 0x61020, nx := 4, sx := 0x1000 }]
  | .SLQ_CPL_CTL => [{ dies := .iod0, base := 0x61028, nx := 4, sx := 0x1000 }]
  | .SLQ_EVENTS => [{ dies := .iod0, base := 0x61030, nx := 4, sx := 0x1000 }]
  | .SLQ_ABORT => [{ dies := .iod0, base := 0x61040, nx := 4, sx := 0x1000, ni := 8, si := 0x8 }]
  | .SLQ_CNT_CMD => [{ dies := .iod0, base := 0x61100, nx := 4, sx := 0x1000 }]
  | .SLQ_CNT_DROP => [{ dies := .iod0, base := 0x61108, nx := 4, sx := 0x1000 }]
  | .SUP_STATUS => [{ dies := .iod0, base := 0x800000 }]
  | .SUP_WDOG => [{ dies := .iod0, base := 0x800008 }]
  | .SUP_OPSEC => [{ dies := .iod0, base := 0x800010 }]
  | .SUP_CYCLES => [{ dies := .iod0, base := 0x800018 }]
  | .SVC_STATUS => [{ dies := .iod0, base := 0x800020 }]
  | .SUP_CORE_MARK => [{ dies := .iod0, base := 0x800028 }]
  | .SNS_IDX => [{ dies := .iod0, base := 0x801000 }]
  | .SNS_DATA => [{ dies := .iod0, base := 0x801008 }]
  | .SNS_FAULT => [{ dies := .iod0, base := 0x801010 }]
  | .FW_STATUS => [{ dies := .iod0, base := 0x802000 }]
  | .FW_UPD_ADDR => [{ dies := .iod0, base := 0x802008 }]
  | .FW_UPD_LEN => [{ dies := .iod0, base := 0x802010 }]
  | .FW_CTL => [{ dies := .iod0, base := 0x802018 }]
  | .FW_VER_A => [{ dies := .iod0, base := 0x802020 }]
  | .FW_VER_B => [{ dies := .iod0, base := 0x802028 }]
  | .ID_STATUS => [{ dies := .iod0, base := 0x803000 }]
  | .ATT_CTL => [{ dies := .iod0, base := 0x803008 }]
  | .ATT_NONCE => [{ dies := .iod0, base := 0x803010, ni := 4, si := 0x8 }]
  | .ATT_MEAS => [{ dies := .iod0, base := 0x803040, ni := 16, si := 0x8 }]
  | .POL_ADDR => [{ dies := .iod0, base := 0x803100 }]
  | .POL_LEN => [{ dies := .iod0, base := 0x803108 }]
  | .POL_CTL => [{ dies := .iod0, base := 0x803110 }]
  | .ATT_QUOTE => [{ dies := .iod0, base := 0x803200, ni := 48, si := 0x8 }]
  | .TS_STATUS => [{ dies := .iod0, base := 0x48000 }]
  | .TS_LOG_ACK => [{ dies := .iod0, base := 0x48008 }]
  | .TS_LOG_IDX => [{ dies := .iod0, base := 0x48010 }]
  | .TS_CNT_RELEASE => [{ dies := .iod0, base := 0x48018 }]
  | .TS_CNT_REFUSED => [{ dies := .iod0, base := 0x48020 }]
  | .TS_CNT_BLOCK => [{ dies := .iod0, base := 0x48028 }]
  | .SEAL_CNT_CORE => [{ dies := .iod0, base := 0x48030 }]
  | .TS_WIN_BASE => [{ dies := .iod0, base := 0x48100, nx := 4, sx := 0x40 }]
  | .TS_WIN_LEN => [{ dies := .iod0, base := 0x48108, nx := 4, sx := 0x40 }]
  | .TS_REL_OFF => [{ dies := .iod0, base := 0x48110, nx := 4, sx := 0x40 }]
  | .TS_REL_LEN => [{ dies := .iod0, base := 0x48118, nx := 4, sx := 0x40 }]
  | .TS_REL_DST => [{ dies := .iod0, base := 0x48120, nx := 4, sx := 0x40 }]
  | .TS_REL_CTL => [{ dies := .iod0, base := 0x48128, nx := 4, sx := 0x40 }]
  | .TS_LOG => [{ dies := .iod0, base := 0x48400, ni := 16, si := 0x8 }]
  | .EVR_STATUS => [{ dies := .iod0, base := 0x804000 }]
  | .EVR_SEQ_FIRST => [{ dies := .iod0, base := 0x804008 }]
  | .EVR_SEQ_LAST => [{ dies := .iod0, base := 0x804010 }]
  | .EVR_CURSOR => [{ dies := .iod0, base := 0x804018 }]
  | .EVR_CTL => [{ dies := .iod0, base := 0x804020 }]
  | .EVR_DROPPED => [{ dies := .iod0, base := 0x804028 }]
  | .EVR_CNT_SUPPR => [{ dies := .iod0, base := 0x804030 }]
  | .EVR_RATE_IDX => [{ dies := .iod0, base := 0x804038 }]
  | .EVR_RATE_DATA => [{ dies := .iod0, base := 0x804040 }]
  | .EVR_WIN => [{ dies := .iod0, base := 0x805000, ni := 512, si := 0x8 }]
  | .PWR_STATUS => [{ dies := .iod0, base := 0x805000 }]
  | .PWR_CTL => [{ dies := .iod0, base := 0x805008 }]
  | .PWR_INPUT0 => [{ dies := .iod0, base := 0x805010 }]
  | .PWR_INPUT1 => [{ dies := .iod0, base := 0x805018 }]
  | .PWR_MODULE => [{ dies := .iod0, base := 0x805020 }]
  | .PWR_CAP => [{ dies := .iod0, base := 0x805028 }]
  | .THM_CTL => [{ dies := .iod0, base := 0x805030 }]
  | .PWR_CNT_STEPDOWN => [{ dies := .iod0, base := 0x805100 }]
  | .THM_CNT_THROTTLE => [{ dies := .iod0, base := 0x805108 }]
  | .PWR_CNT_TRIP => [{ dies := .iod0, base := 0x805110 }]

/-- Every register. -/
def Reg.list : List Reg :=
  ([.MOD_IDENT, .DIE_IDENT, .DIE_STATUS, .DIE_BOOT_LOCK, .ARR_IDENT, .ARR_STATUS, .ARR_CTL, .ARR_EPOCH, .ARR_DONE,
     .ARR_FAULT, .ARR_FAULT_INFO, .ARR_EVENTS, .ARR_ROWMASK, .ARR_COLMASK, .ARR_LS_SEED, .ARR_ACB_RGN_BASE,
     .ARR_ACB_RGN_CNT, .ARR_ACB_RGN_WGM, .ARR_CNT_BUSY, .ARR_CNT_DRY, .ARR_CNT_BANK, .ARR_CNT_DRAIN, .ARR_CNT_LOAD_STALL,
     .ARR_CNT_CE, .ARR_SCALE_A, .ARR_SCALE_B, .CAR_CTL, .CAR_STATUS, .CAR_FAULT, .CAR_FAULT_INFO, .CAR_EVENTS, .CAR_WDOG,
     .CAR_CNT_FLIT_CW, .CAR_CNT_FLIT_CCW, .CAR_CNT_INJ_WAIT, .CAR_CNT_ARM_WAIT, .CAR_CNT_RESV, .CAR_CNT_CE, .CAR_TKT,
     .CAR_TKT_REG, .FDR_STATUS, .FDR_FAULT, .FDR_FAULT_INFO, .FDR_SLOT, .FDR_CNT_SUB_WAIT, .FDR_CNT_FLITS, .FDR_CNT_PRIV,
     .FDR_CNT_LINES, .FDR_CNT_CE] : List Reg)
  ++ ([.SEQ_STATUS, .SEQ_TKT_BUDGET, .SEQ_TKT_USE, .SEQ_CTX_STATE, .SEQ_CTX_PC, .SEQ_CTX_FAULT, .SEQ_TKT_GRANT,
     .SEQ_CNT_ISSUE, .SEQ_CNT_WAIT, .SEQ_CNT_QFULL, .SEQ_CNT_TKT_STALL, .SEQ_CNT_LATE, .SEQ_CNT_LATE_STRETCH,
     .SEQ_SS_STATUS, .SEQ_CNT_SS_YIELD, .SEQ_CNT_SS_FORCED, .STASH_STATUS, .STASH_PURGE, .STASH_DIR_IDX, .STASH_DIR_DATA0,
     .STASH_DIR_DATA1, .STASH_CNT_HBM, .STASH_CNT_SPILL, .STASH_CNT_DROP, .STASH_CNT_EXH, .STASH_CNT_RD_DROP,
     .VE_FTAB_STATUS, .VE_SR_SEED, .NUM_CEN_BASE, .NUM_CEN_CFG, .NUM_STEP, .NUM_LSCALE, .NUM_OVF, .NUM_CNT_LATE,
     .NUM_CNT_HALVE, .NUM_CNT_DISCARD, .CMT_CFG, .CMT_STATUS, .CMT_LAST, .CMT_GRP_IDX, .CMT_GRP_DATA, .CMT_CNT_COMMIT,
     .CMT_CNT_SKIP, .CMT_CNT_DISCARD, .UE_STATUS, .UE_FAULT, .UE_FAULT_INFO, .UE_SEG_BASE, .UE_SEG_CNT] : List Reg)
  ++ ([.UE_CNT_ELEM, .UE_CNT_NONFIN, .UE_CNT_HELD, .QTA_HBM, .QTA_T2, .QTA_STASH, .QTA_SPILL, .QTA_HCACHE, .QTA_STASH_UNITS,
     .QTA_SPILL_UNITS, .FLIP_CTL, .FLIP_DATA, .FLIP_SIDE, .MEM_HBM_SPLIT, .MEM_FRAME_IDX, .MEM_FRAME_DATA, .SRAM_CLASS,
     .SRAM_OWNER, .HC_CTL, .HC_SLOT_LINES, .HC_CNT_HIT, .HC_CNT_MISS, .HC_CNT_MERGED, .ERR_STATUS, .ERR_CNT_CE,
     .CE_UNLOGGED, .ERR_CNT_UE, .ERR_UE_ADDR, .ERR_LOG_ADDR, .ERR_LOG_SYN, .ERR_RAW_ADDR, .ERR_RAW_CMD, .ERR_RAW_DATA,
     .ERR_RAW_SIDE, .SCRUB_CTL, .SCRUB_STATUS, .SCRUB_CNT_CE, .SCRUB_CNT_UE, .SE_STATUS, .SE_CTL, .SE_SR_SEED, .SE_EVENTS,
     .SE_POOL, .SE_ERR_INFO, .SE_ERR_WMARK, .SE_DESC_BASE, .SE_CH_STATUS, .SE_CH_WMARK, .SE_CH_FAULT] : List Reg)
  ++ ([.SE_CH_CTL, .SE_CH_TTE, .SE_CNT_STREAMS, .SE_CNT_RD_WORDS, .SE_CNT_WR_WORDS, .SE_CNT_ELEM, .SE_CNT_FAULT,
     .SE_CNT_ERR, .SE_CNT_POOL_WAIT, .XLT_ROOT, .XLT_INVAL, .MESH_PEAK, .MESH_CNT_FLITS, .MESH_CNT_ARB, .MESH_CNT_BP,
     .CLK_STEP, .CLK_CTL, .CLK_STATUS, .CLK_CNT_STRETCH, .CLK_CNT_GLIDE, .CLK_CNT_STOP, .CLK_CNT_STOP_TIME, .HL_CTL,
     .HL_STATUS, .HL_PEER, .HL_FAULT, .HL_HB, .HL_LANE, .HL_CNT_TX_FLITS, .HL_CNT_RX_FLITS, .HL_CNT_FEC_CW,
     .HL_CNT_FEC_UNC, .HL_CNT_CRC, .HL_CNT_REPLAY, .HL_CNT_PICOT_TX, .HL_CNT_PICOT_RX, .HL_CNT_RELAY, .HL_CNT_RETRAIN,
     .HLM_POS, .HLM_CTL, .HLM_ALIVE, .HLM_CNT_MISROUTE, .HLM_CNT_NOROUTE, .RE_STATUS, .RE_CTL, .RE_FAULT, .RE_FAULT_INFO,
     .RE_SR_SEED, .RE_LIST_BASE] : List Reg)
  ++ ([.RE_LIST_CTL, .RE_LAND_BASE, .RE_LAND_SLOTS, .RE_CNT_DONE, .RE_CNT_ERR, .RE_CNT_RX_BYTES, .RE_CNT_TX_BYTES,
     .RE_CNT_CREDIT_WAIT, .RE_CNT_STALE, .REC_CFG, .REC_GROUP, .REC_SRC, .REC_STATUS, .REC_PENDING, .REC_DETOUR,
     .REC_JOB_GEN, .REC_STATE_BASE, .REC_CNT_CATCH, .REC_CNT_CLAIM_DROP, .REC_CNT_STALE, .REC_CNT_LOST_STEPS, .SNAP_CFG,
     .SNAP_SHADOW, .SNAP_SLOT, .SNAP_STATUS, .CMD_CNT_MGMT, .CMD_CNT_DUP, .CMD_CNT_DROP, .CMD_CNT_REFUSED, .BUD_TARGET,
     .CORE_AUTH, .SLQ_STATE, .SLQ_CMD_BASE, .SLQ_CMD_CTL, .SLQ_DB, .SLQ_CPL_BASE, .SLQ_CPL_CTL, .SLQ_EVENTS, .SLQ_ABORT,
     .SLQ_CNT_CMD, .SLQ_CNT_DROP, .SUP_STATUS, .SUP_WDOG, .SUP_OPSEC, .SUP_CYCLES, .SVC_STATUS, .SUP_CORE_MARK, .SNS_IDX,
     .SNS_DATA] : List Reg)
  ++ ([.SNS_FAULT, .FW_STATUS, .FW_UPD_ADDR, .FW_UPD_LEN, .FW_CTL, .FW_VER_A, .FW_VER_B, .ID_STATUS, .ATT_CTL, .ATT_NONCE,
     .ATT_MEAS, .POL_ADDR, .POL_LEN, .POL_CTL, .ATT_QUOTE, .TS_STATUS, .TS_LOG_ACK, .TS_LOG_IDX, .TS_CNT_RELEASE,
     .TS_CNT_REFUSED, .TS_CNT_BLOCK, .SEAL_CNT_CORE, .TS_WIN_BASE, .TS_WIN_LEN, .TS_REL_OFF, .TS_REL_LEN, .TS_REL_DST,
     .TS_REL_CTL, .TS_LOG, .EVR_STATUS, .EVR_SEQ_FIRST, .EVR_SEQ_LAST, .EVR_CURSOR, .EVR_CTL, .EVR_DROPPED, .EVR_CNT_SUPPR,
     .EVR_RATE_IDX, .EVR_RATE_DATA, .EVR_WIN, .PWR_STATUS, .PWR_CTL, .PWR_INPUT0, .PWR_INPUT1, .PWR_MODULE, .PWR_CAP,
     .THM_CTL, .PWR_CNT_STEPDOWN, .THM_CNT_THROTTLE, .PWR_CNT_TRIP] : List Reg)

/-- The stored fields whose reset value is not zero, with that value (the Reset columns of the register tables).
The values the manual does not give are zero (log entry 1). -/
def Fld.resets : List (Fld × Nat) :=
  [(.ARR_CTL_PARK, 1), (.ARR_CTL_LS_ENABLE, 1), (.ARR_EPOCH_EPOCH, 1), (.ARR_EPOCH_ACB_EPOCH, 1), (.ARR_ROWMASK_BITS,
   0xffffffffffffffff), (.ARR_COLMASK_BITS, 0xffffffffffffffff), (.ARR_ACB_RGN_CNT_LS_THRESH, 0x1000),
   (.ARR_SCALE_A_S_LO, 0x3f800000), (.ARR_SCALE_A_S_HI, 0x3f800000), (.ARR_SCALE_B_S_LO, 0x3f800000), (.ARR_SCALE_B_S_HI,
   0x3f800000), (.CAR_CTL_RING_EN, 3), (.CAR_WDOG_LIMIT, 1000), (.SEQ_STATUS_IDLE, 1), (.SEQ_TKT_BUDGET_BUDGET, 112),
   (.VE_FTAB_STATUS_EPOCH, 1), (.NUM_CEN_CFG_CIDS, 0x1000), (.NUM_STEP_RESOLVED, 0xffffffff), (.CMT_CFG_SYNC_K, 7),
   (.CMT_CFG_ROOT, 1), (.CMT_CFG_LIMIT, 10), (.CMT_LAST_STEP, 0xffffffff), (.MEM_HBM_SPLIT_HL_GIB, 12), (.HC_CTL_EN, 1),
   (.HC_CTL_MERGE, 1), (.SCRUB_CTL_EN, 1), (.SE_CTL_FAULT_LIMIT, 100), (.SE_CH_TTE_T, 0x7fff), (.CLK_STEP_TARGET, 1),
   (.CLK_STEP_CURRENT, 1), (.CLK_STEP_CAP, 7), (.CLK_CTL_STRETCH_EN, 1), (.HL_HB_PERIOD, 100), (.HL_HB_LIMIT, 1500),
   (.HLM_CTL_RELAY_EN, 1), (.HLM_CTL_HOLD_LIMIT, 0x1388), (.HLM_CTL_ALIVE_LIMIT, 500), (.RE_CTL_LIMIT, 1000),
   (.REC_CFG_CATCHER, 0xffff), (.REC_CFG_EDGE, 0xffff), (.REC_CFG_SECOND, 0xffff), (.REC_CFG_CLAIM_WIN, 10),
   (.REC_GROUP_POS, 0xffffffffffffffff), (.REC_SRC_POS, 0xffffffffffff), (.REC_PENDING_POS, 0xffffffffffffffff),
   (.REC_DETOUR_POS, 0xffffffffffffffff), (.SNAP_CFG_BUDDY, 0xffff), (.SNAP_CFG_OWN_TIB, 8), (.SNAP_STATUS_STEP,
   0xffffffff), (.SNAP_STATUS_MIRROR_STEP, 0xffffffff), (.BUD_TARGET_STEP, 7), (.SUP_WDOG_LIMIT, 200),
   (.EVR_RATE_DATA_RATE, 16), (.EVR_RATE_DATA_BURST, 64), (.PWR_CTL_LIMIT, 4600), (.PWR_CAP_EFFECTIVE, 7),
   (.THM_CTL_THROTTLE, 100), (.THM_CTL_RELEASE, 95), (.MOD_IDENT_CADENCE_VER, 1), (.MOD_IDENT_PART, 0x3848),
   (.THM_CTL_CRITICAL, 115)]

/-- The number under which a field stands in the register file. -/
def Fld.id (f : Fld) : Nat := f.ctorIdx

/-- The reset value of the field with a number on a die; the scrub period is 24 on hubs and 72 on I/O dies (R285). -/
def Fld.resetOf (n die : Nat) : Nat :=
  if n = Fld.SCRUB_CTL_PERIOD.id then (if die < 0x20 then 24 else 72)
  else ((Fld.resets.find? (fun e => e.1.id = n)).map Prod.snd).getD 0

/-- The width of each field in bits. -/
def Fld.width : Fld → Nat
  | .MOD_IDENT_STEPPING => 8
  | .MOD_IDENT_CADENCE_VER => 8
  | .MOD_IDENT_PART => 16
  | .MOD_IDENT_SKU => 16
  | .DIE_IDENT_DIE_ID => 8
  | .DIE_IDENT_KIND => 4
  | .DIE_IDENT_STEPPING => 8
  | .DIE_IDENT_HUB => 4
  | .DIE_STATUS_IN_SERVICE => 1
  | .DIE_STATUS_DEGRADED => 1
  | .DIE_STATUS_BOOT_LOCKED => 1
  | .DIE_STATUS_UNITS_OUT => 24
  | .DIE_BOOT_LOCK_LOCK => 1
  | .ARR_IDENT_INDEX => 5
  | .ARR_IDENT_AFT => 1
  | .ARR_IDENT_XPOSE => 1
  | .ARR_STATUS_STATE => 2
  | .ARR_STATUS_QLEVEL => 5
  | .ARR_STATUS_FRONT => 1
  | .ARR_STATUS_BACK_FULL => 1
  | .ARR_STATUS_LOAD_STALL => 1
  | .ARR_CTL_PARK => 1
  | .ARR_CTL_ACB_RETAIN => 1
  | .ARR_CTL_LS_ENABLE => 1
  | .ARR_EPOCH_EPOCH => 16
  | .ARR_EPOCH_ACB_EPOCH => 16
  | .ARR_DONE_DONE => 32
  | .ARR_DONE_DISCARDED => 32
  | .ARR_FAULT_BAD_CMD => 1
  | .ARR_FAULT_STALE_STATE => 1
  | .ARR_FAULT_POISON => 1
  | .ARR_FAULT_ACB_RANGE => 1
  | .ARR_FAULT_ACB_UE => 1
  | .ARR_FAULT_INFO_TAG => 16
  | .ARR_FAULT_INFO_KIND => 4
  | .ARR_FAULT_INFO_FIELD => 4
  | .ARR_FAULT_INFO_ROW => 12
  | .ARR_EVENTS_INT_SAT => 1
  | .ARR_EVENTS_LS_ACTIVE => 1
  | .ARR_EVENTS_EPOCH_WRAP => 1
  | .ARR_ROWMASK_BITS => 64
  | .ARR_COLMASK_BITS => 64
  | .ARR_LS_SEED_SEED => 64
  | .ARR_ACB_RGN_BASE_ROW0 => 12
  | .ARR_ACB_RGN_BASE_ROWS => 13
  | .ARR_ACB_RGN_BASE_TIE => 8
  | .ARR_ACB_RGN_BASE_USES => 8
  | .ARR_ACB_RGN_BASE_EPOCH => 16
  | .ARR_ACB_RGN_CNT_ADDS => 32
  | .ARR_ACB_RGN_CNT_LS_THRESH => 32
  | .ARR_ACB_RGN_WGM_EN => 1
  | .ARR_ACB_RGN_WGM_GRAN => 1
  | .ARR_ACB_RGN_WGM_COLS_T => 8
  | .ARR_ACB_RGN_WGM_BITMAP => 22
  | .ARR_ACB_RGN_WGM_ROW_OFF => 20
  | .ARR_CNT_BUSY_COUNT => 64
  | .ARR_CNT_DRY_COUNT => 64
  | .ARR_CNT_BANK_COUNT => 64
  | .ARR_CNT_DRAIN_COUNT => 64
  | .ARR_CNT_LOAD_STALL_COUNT => 64
  | .ARR_CNT_CE_COUNT => 64
  | .ARR_SCALE_A_S_LO => 32
  | .ARR_SCALE_A_S_HI => 32
  | .ARR_SCALE_B_S_LO => 32
  | .ARR_SCALE_B_S_HI => 32
  | .CAR_CTL_RING_EN => 2
  | .CAR_STATUS_OCC_CW => 6
  | .CAR_STATUS_OCC_CCW => 6
  | .CAR_STATUS_LIVE => 7
  | .CAR_STATUS_RESV => 4
  | .CAR_FAULT_BAD_INJ => 1
  | .CAR_FAULT_RING_OFF => 1
  | .CAR_FAULT_TRANSIT_UE => 1
  | .CAR_FAULT_INFO_TAG => 16
  | .CAR_FAULT_INFO_STATION => 5
  | .CAR_FAULT_INFO_TICKET => 6
  | .CAR_EVENTS_ARM_STALL => 1
  | .CAR_EVENTS_GW_STALL => 1
  | .CAR_EVENTS_GW => 4
  | .CAR_WDOG_LIMIT => 16
  | .CAR_CNT_FLIT_CW_COUNT => 64
  | .CAR_CNT_FLIT_CCW_COUNT => 64
  | .CAR_CNT_INJ_WAIT_COUNT => 64
  | .CAR_CNT_ARM_WAIT_COUNT => 64
  | .CAR_CNT_RESV_COUNT => 64
  | .CAR_CNT_CE_COUNT => 64
  | .CAR_TKT_STATE => 2
  | .CAR_TKT_SLOT => 2
  | .CAR_TKT_RING => 1
  | .CAR_TKT_INJ => 5
  | .CAR_TKT_DROP => 5
  | .CAR_TKT_SUBS => 6
  | .CAR_TKT_REGS => 6
  | .CAR_TKT_SENT => 6
  | .CAR_TKT_REG_BOBBINS => 48
  | .CAR_TKT_REG_STATIONS => 4
  | .FDR_STATUS_QLEVEL => 4
  | .FDR_STATUS_FREE => 3
  | .FDR_STATUS_HEAD => 2
  | .FDR_STATUS_WAITING => 1
  | .FDR_FAULT_BAD_FEED => 1
  | .FDR_FAULT_GROUP => 1
  | .FDR_FAULT_UE => 1
  | .FDR_FAULT_INFO_TAG => 16
  | .FDR_FAULT_INFO_KIND => 4
  | .FDR_FAULT_INFO_SLOT => 2
  | .FDR_SLOT_STATE => 3
  | .FDR_SLOT_SRC => 1
  | .FDR_SLOT_INT4 => 1
  | .FDR_SLOT_PASSES => 4
  | .FDR_SLOT_TICKET => 6
  | .FDR_SLOT_FLITS => 6
  | .FDR_SLOT_LINE => 13
  | .FDR_CNT_SUB_WAIT_COUNT => 64
  | .FDR_CNT_FLITS_COUNT => 64
  | .FDR_CNT_PRIV_COUNT => 64
  | .FDR_CNT_LINES_COUNT => 64
  | .FDR_CNT_CE_COUNT => 64
  | .SEQ_STATUS_RUNNING => 2
  | .SEQ_STATUS_IDLE => 1
  | .SEQ_STATUS_READY => 4
  | .SEQ_STATUS_FAULTED => 4
  | .SEQ_TKT_BUDGET_BUDGET => 8
  | .SEQ_TKT_USE_USE => 8
  | .SEQ_TKT_USE_ARRAYS => 5
  | .SEQ_TKT_USE_VES => 4
  | .SEQ_TKT_USE_SES => 4
  | .SEQ_CTX_STATE_STATE => 3
  | .SEQ_CTX_STATE_SLOT => 2
  | .SEQ_CTX_STATE_LOGICAL => 2
  | .SEQ_CTX_STATE_SIDESHOW => 1
  | .SEQ_CTX_STATE_WAIT_CNT => 8
  | .SEQ_CTX_STATE_STALL => 3
  | .SEQ_CTX_PC_PC => 32
  | .SEQ_CTX_FAULT_CAUSE => 4
  | .SEQ_CTX_FAULT_UNIT => 8
  | .SEQ_CTX_FAULT_PC => 32
  | .SEQ_CTX_FAULT_TAG => 16
  | .SEQ_TKT_GRANT_GRANT => 8
  | .SEQ_TKT_GRANT_HELD => 8
  | .SEQ_CNT_ISSUE_COUNT => 64
  | .SEQ_CNT_WAIT_COUNT => 64
  | .SEQ_CNT_QFULL_COUNT => 64
  | .SEQ_CNT_TKT_STALL_COUNT => 64
  | .SEQ_CNT_LATE_COUNT => 64
  | .SEQ_CNT_LATE_STRETCH_COUNT => 64
  | .SEQ_SS_STATUS_YIELDING => 1
  | .SEQ_SS_STATUS_FORCED => 1
  | .SEQ_CNT_SS_YIELD_COUNT => 64
  | .SEQ_CNT_SS_FORCED_COUNT => 64
  | .STASH_STATUS_USED => 13
  | .STASH_STATUS_FULL_SEEN => 4
  | .STASH_PURGE_SLOTS => 4
  | .STASH_DIR_IDX_INDEX => 12
  | .STASH_DIR_DATA0_KEY => 32
  | .STASH_DIR_DATA0_SLOT => 2
  | .STASH_DIR_DATA0_PLACE => 3
  | .STASH_DIR_DATA0_RECOMP => 1
  | .STASH_DIR_DATA0_UNITS => 24
  | .STASH_DIR_DATA1_FIRST => 36
  | .STASH_CNT_HBM_COUNT => 64
  | .STASH_CNT_SPILL_COUNT => 64
  | .STASH_CNT_DROP_COUNT => 64
  | .STASH_CNT_EXH_COUNT => 64
  | .STASH_CNT_RD_DROP_COUNT => 64
  | .VE_FTAB_STATUS_VALID => 32
  | .VE_FTAB_STATUS_EPOCH => 16
  | .VE_FTAB_STATUS_REFUSED => 1
  | .VE_FTAB_STATUS_PAIR => 5
  | .VE_SR_SEED_SEED => 64
  | .NUM_CEN_BASE_EN => 1
  | .NUM_CEN_BASE_BASE => 36
  | .NUM_CEN_CFG_CIDS => 13
  | .NUM_CEN_CFG_SAT_SKIP => 1
  | .NUM_STEP_STEP => 32
  | .NUM_STEP_RESOLVED => 32
  | .NUM_LSCALE_E => 8
  | .NUM_LSCALE_E_MIN => 8
  | .NUM_LSCALE_PEND => 8
  | .NUM_LSCALE_PEND_VALID => 1
  | .NUM_LSCALE_FLOOR_HIT => 1
  | .NUM_OVF_STEP => 32
  | .NUM_OVF_OVF => 1
  | .NUM_OVF_CID => 16
  | .NUM_CNT_LATE_COUNT => 64
  | .NUM_CNT_HALVE_COUNT => 64
  | .NUM_CNT_DISCARD_COUNT => 64
  | .CMT_CFG_SYNC_K => 3
  | .CMT_CFG_ROOT => 1
  | .CMT_CFG_SKIP_NEXT => 1
  | .CMT_CFG_LIMIT => 16
  | .CMT_CFG_NEXT_POS => 16
  | .CMT_STATUS_STATE => 3
  | .CMT_STATUS_LOCAL => 1
  | .CMT_STATUS_REASONS => 4
  | .CMT_STATUS_TIMEOUT => 1
  | .CMT_STATUS_OVF_AFTER => 1
  | .CMT_STATUS_STEP => 32
  | .CMT_LAST_COMMIT => 1
  | .CMT_LAST_REASONS => 4
  | .CMT_LAST_STEP => 32
  | .CMT_GRP_IDX_GROUP => 8
  | .CMT_GRP_DATA_DATA => 64
  | .CMT_CNT_COMMIT_COUNT => 64
  | .CMT_CNT_SKIP_COUNT => 64
  | .CMT_CNT_DISCARD_COUNT => 64
  | .UE_STATUS_BUSY => 1
  | .UE_STATUS_SLOT => 2
  | .UE_STATUS_TORN => 1
  | .UE_STATUS_SEG => 32
  | .UE_FAULT_BAD_SEG => 1
  | .UE_FAULT_POISON => 1
  | .UE_FAULT_XLATE => 1
  | .UE_FAULT_INFO_SEG => 32
  | .UE_FAULT_INFO_SLOT => 2
  | .UE_SEG_BASE_BASE => 42
  | .UE_SEG_CNT_COUNT => 20
  | .UE_CNT_ELEM_COUNT => 64
  | .UE_CNT_NONFIN_COUNT => 64
  | .UE_CNT_HELD_COUNT => 64
  | .QTA_HBM_LIMIT => 20
  | .QTA_HBM_USED => 20
  | .QTA_HBM_OVERSUB => 1
  | .QTA_T2_LIMIT => 20
  | .QTA_T2_USED => 20
  | .QTA_T2_OVERSUB => 1
  | .QTA_STASH_LIMIT => 20
  | .QTA_STASH_USED => 20
  | .QTA_STASH_OVERSUB => 1
  | .QTA_SPILL_LIMIT => 20
  | .QTA_SPILL_USED => 20
  | .QTA_SPILL_OVERSUB => 1
  | .QTA_HCACHE_LIMIT => 20
  | .QTA_HCACHE_USED => 20
  | .QTA_HCACHE_OVERSUB => 1
  | .QTA_STASH_UNITS_USED => 24
  | .QTA_STASH_UNITS_GRANTED => 24
  | .QTA_SPILL_UNITS_USED => 24
  | .QTA_SPILL_UNITS_GRANTED => 24
  | .FLIP_CTL_ARM => 1
  | .FLIP_CTL_KIND => 2
  | .FLIP_CTL_INDEX => 5
  | .FLIP_CTL_DONE => 1
  | .FLIP_DATA_MASK => 64
  | .FLIP_SIDE_MASK => 32
  | .MEM_HBM_SPLIT_HL_GIB => 6
  | .MEM_FRAME_IDX_FRAME => 20
  | .MEM_FRAME_IDX_TIER => 1
  | .MEM_FRAME_DATA_OWNER => 3
  | .MEM_FRAME_DATA_USE => 2
  | .MEM_FRAME_DATA_CLASS => 1
  | .MEM_FRAME_DATA_SEAL => 1
  | .MEM_FRAME_DATA_ZEROING => 1
  | .SRAM_CLASS_STRONG => 64
  | .SRAM_OWNER_BLOCKS => 64
  | .HC_CTL_EN => 1
  | .HC_CTL_MERGE => 1
  | .HC_SLOT_LINES_LINES => 21
  | .HC_CNT_HIT_COUNT => 64
  | .HC_CNT_MISS_COUNT => 64
  | .HC_CNT_MERGED_COUNT => 64
  | .ERR_STATUS_ENTRIES => 5
  | .ERR_STATUS_FULL => 1
  | .ERR_STATUS_UE_SEEN => 1
  | .ERR_CNT_CE_COUNT => 64
  | .CE_UNLOGGED_COUNT => 64
  | .ERR_CNT_UE_COUNT => 64
  | .ERR_UE_ADDR_VALID => 1
  | .ERR_UE_ADDR_CLASS => 1
  | .ERR_UE_ADDR_ADDR => 47
  | .ERR_LOG_ADDR_VALID => 1
  | .ERR_LOG_ADDR_CLASS => 1
  | .ERR_LOG_ADDR_ADDR => 47
  | .ERR_LOG_ADDR_REPEAT => 15
  | .ERR_LOG_SYN_SYN => 24
  | .ERR_LOG_SYN_POS => 9
  | .ERR_LOG_SYN_FIRST => 31
  | .ERR_RAW_ADDR_ADDR => 47
  | .ERR_RAW_CMD_OP => 2
  | .ERR_RAW_CMD_BUSY => 1
  | .ERR_RAW_CMD_REFUSED => 1
  | .ERR_RAW_DATA_DATA => 64
  | .ERR_RAW_SIDE_SIDE => 32
  | .SCRUB_CTL_EN => 1
  | .SCRUB_CTL_PERIOD => 8
  | .SCRUB_STATUS_PASSES => 32
  | .SCRUB_STATUS_POS => 32
  | .SCRUB_CNT_CE_COUNT => 64
  | .SCRUB_CNT_UE_COUNT => 64
  | .SE_STATUS_QLEVEL => 4
  | .SE_STATUS_ACTIVE => 4
  | .SE_STATUS_SUSP => 4
  | .SE_STATUS_CHARGED => 1
  | .SE_STATUS_SLOT => 2
  | .SE_STATUS_SR_BUSY => 1
  | .SE_CTL_FAULT_LIMIT => 16
  | .SE_SR_SEED_SEED => 64
  | .SE_EVENTS_POOL_STALL => 1
  | .SE_EVENTS_FAULT => 1
  | .SE_EVENTS_LIMIT => 1
  | .SE_POOL_USED => 10
  | .SE_POOL_FLOORS => 3
  | .SE_ERR_INFO_CODE => 4
  | .SE_ERR_INFO_CHAN => 2
  | .SE_ERR_INFO_SLOT => 2
  | .SE_ERR_INFO_TAG => 16
  | .SE_ERR_WMARK_WMARK => 41
  | .SE_DESC_BASE_BASE => 15
  | .SE_DESC_BASE_VALID => 1
  | .SE_DESC_BASE_LEN => 16
  | .SE_CH_STATUS_STATE => 2
  | .SE_CH_STATUS_SLOT => 2
  | .SE_CH_STATUS_CTX => 2
  | .SE_CH_STATUS_DESC => 15
  | .SE_CH_STATUS_TAG => 16
  | .SE_CH_WMARK_WMARK => 41
  | .SE_CH_FAULT_VA => 48
  | .SE_CH_FAULT_CAUSE => 3
  | .SE_CH_FAULT_SIDE => 1
  | .SE_CH_CTL_RESUME => 1
  | .SE_CH_CTL_FAIL => 1
  | .SE_CH_TTE_T => 16
  | .SE_CNT_STREAMS_COUNT => 64
  | .SE_CNT_RD_WORDS_COUNT => 64
  | .SE_CNT_WR_WORDS_COUNT => 64
  | .SE_CNT_ELEM_COUNT => 64
  | .SE_CNT_FAULT_COUNT => 64
  | .SE_CNT_ERR_COUNT => 64
  | .SE_CNT_POOL_WAIT_COUNT => 64
  | .XLT_ROOT_EN => 1
  | .XLT_ROOT_ROOT => 40
  | .XLT_INVAL_ALL => 1
  | .XLT_INVAL_BUSY => 1
  | .XLT_INVAL_VA => 32
  | .MESH_PEAK_PEAK => 16
  | .MESH_PEAK_CLR => 1
  | .MESH_CNT_FLITS_COUNT => 64
  | .MESH_CNT_ARB_COUNT => 64
  | .MESH_CNT_BP_COUNT => 64
  | .CLK_STEP_TARGET => 3
  | .CLK_STEP_MODE => 1
  | .CLK_STEP_CURRENT => 3
  | .CLK_STEP_CAP => 3
  | .CLK_STEP_BUSY => 1
  | .CLK_STEP_STOPPED => 1
  | .CLK_CTL_STRETCH_EN => 1
  | .CLK_STATUS_XERR => 1
  | .CLK_STATUS_XING => 7
  | .CLK_CNT_STRETCH_COUNT => 64
  | .CLK_CNT_GLIDE_COUNT => 64
  | .CLK_CNT_STOP_COUNT => 64
  | .CLK_CNT_STOP_TIME_COUNT => 64
  | .HL_CTL_EN => 1
  | .HL_CTL_ROLE => 3
  | .HL_CTL_SEAL_OK => 1
  | .HL_CTL_RETRAIN => 1
  | .HL_STATUS_STATE => 3
  | .HL_STATUS_TX_WIDTH => 4
  | .HL_STATUS_RX_WIDTH => 4
  | .HL_STATUS_REVERSED => 1
  | .HL_STATUS_COMPAT => 1
  | .HL_STATUS_TX_OUT => 12
  | .HL_STATUS_RX_OUT => 12
  | .HL_PEER_POS => 16
  | .HL_PEER_GEN => 16
  | .HL_PEER_ROLE => 3
  | .HL_PEER_PORT => 3
  | .HL_PEER_CATCHER => 1
  | .HL_PEER_VALID => 1
  | .HL_FAULT_LINK_CROSSED => 1
  | .HL_FAULT_LANE_SHORT => 1
  | .HL_FAULT_LANE_OPEN => 1
  | .HL_FAULT_LANE_FAIL => 1
  | .HL_FAULT_RETRY_LIMIT => 1
  | .HL_FAULT_HB_LOSS => 1
  | .HL_FAULT_ROLE_MISMATCH => 1
  | .HL_FAULT_SEAL_DROP => 1
  | .HL_FAULT_DOWN => 1
  | .HL_HB_PERIOD => 16
  | .HL_HB_LIMIT => 16
  | .HL_LANE_PEER => 4
  | .HL_LANE_RX_INV => 1
  | .HL_LANE_TX_OUT => 1
  | .HL_LANE_RX_OUT => 1
  | .HL_LANE_CAUSE => 3
  | .HL_CNT_TX_FLITS_COUNT => 64
  | .HL_CNT_RX_FLITS_COUNT => 64
  | .HL_CNT_FEC_CW_COUNT => 64
  | .HL_CNT_FEC_UNC_COUNT => 64
  | .HL_CNT_CRC_COUNT => 64
  | .HL_CNT_REPLAY_COUNT => 64
  | .HL_CNT_PICOT_TX_COUNT => 64
  | .HL_CNT_PICOT_RX_COUNT => 64
  | .HL_CNT_RELAY_COUNT => 64
  | .HL_CNT_RETRAIN_COUNT => 64
  | .HLM_POS_POS => 16
  | .HLM_POS_GEN => 16
  | .HLM_POS_CATCHER => 1
  | .HLM_CTL_RELAY_EN => 1
  | .HLM_CTL_DATELINE1 => 1
  | .HLM_CTL_DATELINE2 => 1
  | .HLM_CTL_HOLD_LIMIT => 16
  | .HLM_CTL_ALIVE_LIMIT => 16
  | .HLM_ALIVE_PING => 1
  | .HLM_CNT_MISROUTE_COUNT => 64
  | .HLM_CNT_NOROUTE_COUNT => 64
  | .RE_STATUS_LISTS => 4
  | .RE_STATUS_FAULT => 4
  | .RE_STATUS_RUNNING => 5
  | .RE_CTL_LIMIT => 16
  | .RE_FAULT_BAD_DESC => 1
  | .RE_FAULT_LAND => 1
  | .RE_FAULT_POISON => 1
  | .RE_FAULT_TRUNC => 1
  | .RE_FAULT_TIMEOUT => 1
  | .RE_FAULT_INFO_TAG => 16
  | .RE_FAULT_INFO_INST => 8
  | .RE_FAULT_INFO_SLOT => 2
  | .RE_FAULT_INFO_CODE => 3
  | .RE_FAULT_INFO_ENTRY => 16
  | .RE_SR_SEED_SEED => 64
  | .RE_LIST_BASE_BASE => 42
  | .RE_LIST_CTL_CNT => 16
  | .RE_LIST_CTL_POS => 16
  | .RE_LIST_CTL_STATE => 2
  | .RE_LIST_CTL_RUN => 3
  | .RE_LAND_BASE_BASE => 36
  | .RE_LAND_SLOTS_SLOTS => 20
  | .RE_LAND_SLOTS_FREE => 20
  | .RE_CNT_DONE_COUNT => 64
  | .RE_CNT_ERR_COUNT => 64
  | .RE_CNT_RX_BYTES_COUNT => 64
  | .RE_CNT_TX_BYTES_COUNT => 64
  | .RE_CNT_CREDIT_WAIT_COUNT => 64
  | .RE_CNT_STALE_COUNT => 64
  | .REC_CFG_CATCHER => 16
  | .REC_CFG_EDGE => 16
  | .REC_CFG_SECOND => 16
  | .REC_CFG_CLAIM_WIN => 8
  | .REC_GROUP_POS => 64
  | .REC_SRC_POS => 48
  | .REC_STATUS_STATE => 3
  | .REC_STATUS_SOURCE => 2
  | .REC_STATUS_FAILED => 1
  | .REC_STATUS_FILLED => 48
  | .REC_PENDING_POS => 64
  | .REC_DETOUR_POS => 64
  | .REC_JOB_GEN_GEN => 16
  | .REC_STATE_BASE_BASE => 44
  | .REC_STATE_BASE_CNT => 11
  | .REC_CNT_CATCH_COUNT => 64
  | .REC_CNT_CLAIM_DROP_COUNT => 64
  | .REC_CNT_STALE_COUNT => 64
  | .REC_CNT_LOST_STEPS_COUNT => 64
  | .SNAP_CFG_BUDDY_EN => 1
  | .SNAP_CFG_BUDDY => 16
  | .SNAP_CFG_OWN_TIB => 16
  | .SNAP_SHADOW_BASE => 48
  | .SNAP_SHADOW_SIZE => 16
  | .SNAP_SLOT_IMG0 => 32
  | .SNAP_SLOT_IMG1 => 32
  | .SNAP_STATUS_STEP => 32
  | .SNAP_STATUS_MIRROR_STEP => 32
  | .CMD_CNT_MGMT_COUNT => 64
  | .CMD_CNT_DUP_COUNT => 64
  | .CMD_CNT_DROP_COUNT => 64
  | .CMD_CNT_REFUSED_COUNT => 64
  | .BUD_TARGET_TARGET => 8
  | .BUD_TARGET_STEP => 3
  | .BUD_TARGET_ACTIVE => 1
  | .CORE_AUTH_SLOT => 2
  | .CORE_AUTH_VALID => 1
  | .SLQ_STATE_STATE => 3
  | .SLQ_STATE_SIDESHOW => 1
  | .SLQ_STATE_ABORTED => 1
  | .SLQ_STATE_SEALED_RUN => 1
  | .SLQ_STATE_DIES => 8
  | .SLQ_CMD_BASE_BASE => 47
  | .SLQ_CMD_CTL_SIZE => 9
  | .SLQ_CMD_CTL_HEAD => 8
  | .SLQ_CMD_CTL_TAIL => 8
  | .SLQ_DB_TAIL => 8
  | .SLQ_CPL_BASE_BASE => 47
  | .SLQ_CPL_CTL_SIZE => 9
  | .SLQ_CPL_CTL_HEAD => 8
  | .SLQ_CPL_CTL_TAIL => 8
  | .SLQ_EVENTS_BAD_DB => 1
  | .SLQ_EVENTS_OVERFLOW => 1
  | .SLQ_ABORT_WORD => 64
  | .SLQ_CNT_CMD_COUNT => 64
  | .SLQ_CNT_DROP_COUNT => 64
  | .SUP_STATUS_CAUSE => 2
  | .SUP_STATUS_SLOT => 1
  | .SUP_STATUS_TRIAL => 1
  | .SUP_STATUS_PARKED => 1
  | .SUP_STATUS_VERSION => 32
  | .SUP_WDOG_LIMIT => 16
  | .SUP_WDOG_KICK => 1
  | .SUP_WDOG_NMI_SEEN => 1
  | .SUP_OPSEC_SECONDS => 64
  | .SUP_CYCLES_POWER => 32
  | .SUP_CYCLES_RESETS => 32
  | .SVC_STATUS_LEVEL => 2
  | .SVC_STATUS_DEGRADED => 1
  | .SVC_STATUS_LATE => 1
  | .SVC_STATUS_COOLANT_WAIT => 1
  | .SVC_STATUS_DIES => 8
  | .SVC_STATUS_HUBS => 4
  | .SVC_STATUS_STACKS => 24
  | .SUP_CORE_MARK_READY => 1
  | .SNS_IDX_INDEX => 9
  | .SNS_DATA_VALUE => 16
  | .SNS_DATA_STATE => 3
  | .SNS_DATA_AGE => 32
  | .SNS_FAULT_INLET => 1
  | .SNS_FAULT_OUTLET => 1
  | .SNS_FAULT_FLOW => 1
  | .SNS_FAULT_LEAK_WIRING => 1
  | .SNS_FAULT_LEAK => 1
  | .SNS_FAULT_DIE_CAP => 8
  | .SNS_FAULT_HUB_CAP => 4
  | .FW_STATUS_A_VALID => 1
  | .FW_STATUS_B_VALID => 1
  | .FW_STATUS_PREF => 1
  | .FW_STATUS_BUSY => 1
  | .FW_STATUS_RESULT => 4
  | .FW_STATUS_FLOOR => 32
  | .FW_UPD_ADDR_ADDR => 52
  | .FW_UPD_LEN_LEN => 25
  | .FW_CTL_WRITE => 1
  | .FW_CTL_TRIAL => 1
  | .FW_CTL_REBOOT => 1
  | .FW_CTL_FLOOR => 1
  | .FW_VER_A_VERSION => 32
  | .FW_VER_A_ROLLBACK => 32
  | .FW_VER_B_VERSION => 32
  | .FW_VER_B_ROLLBACK => 32
  | .ID_STATUS_RECORD_OK => 1
  | .ID_STATUS_SEAL_EN => 1
  | .ID_STATUS_POLICY => 1
  | .ID_STATUS_FAIL_STEP => 3
  | .ID_STATUS_POL_VER => 32
  | .ATT_CTL_QUOTE => 1
  | .ATT_CTL_BUSY => 1
  | .ATT_CTL_DONE => 1
  | .ATT_NONCE_NONCE => 64
  | .ATT_MEAS_M => 64
  | .POL_ADDR_ADDR => 52
  | .POL_LEN_LEN => 21
  | .POL_CTL_INSTALL => 1
  | .POL_CTL_RESET => 1
  | .POL_CTL_BUSY => 1
  | .POL_CTL_RESULT => 4
  | .ATT_QUOTE_Q => 64
  | .TS_STATUS_ARMED => 4
  | .TS_STATUS_RUNNING => 4
  | .TS_STATUS_PENDING => 10
  | .TS_STATUS_SEQ => 32
  | .TS_LOG_ACK_SEQ => 32
  | .TS_LOG_IDX_SEQ => 32
  | .TS_CNT_RELEASE_COUNT => 64
  | .TS_CNT_REFUSED_COUNT => 64
  | .TS_CNT_BLOCK_COUNT => 64
  | .SEAL_CNT_CORE_COUNT => 64
  | .TS_WIN_BASE_BASE => 31
  | .TS_WIN_LEN_FRAMES => 16
  | .TS_REL_OFF_OFF => 40
  | .TS_REL_LEN_LEN => 32
  | .TS_REL_DST_DST => 52
  | .TS_REL_CTL_GO => 1
  | .TS_REL_CTL_BUSY => 1
  | .TS_REL_CTL_RESULT => 4
  | .TS_LOG_REC => 64
  | .EVR_STATUS_LOG_FULL => 1
  | .EVR_STATUS_CLEARING => 1
  | .EVR_STATUS_FLUSHING => 1
  | .EVR_STATUS_PENDING => 11
  | .EVR_SEQ_FIRST_SEQ => 32
  | .EVR_SEQ_LAST_SEQ => 32
  | .EVR_CURSOR_SEQ => 32
  | .EVR_CTL_CLEAR => 1
  | .EVR_CTL_FLUSH => 1
  | .EVR_DROPPED_FULL => 32
  | .EVR_DROPPED_STAGE => 32
  | .EVR_CNT_SUPPR_COUNT => 64
  | .EVR_RATE_IDX_CODE => 16
  | .EVR_RATE_DATA_RATE => 16
  | .EVR_RATE_DATA_BURST => 16
  | .EVR_RATE_DATA_SUPPR => 16
  | .EVR_WIN_WORD => 64
  | .PWR_STATUS_SERVING => 2
  | .PWR_STATUS_SINGLE => 1
  | .PWR_STATUS_LOST => 1
  | .PWR_STATUS_REVERSED => 2
  | .PWR_STATUS_OVERVOLT => 2
  | .PWR_STATUS_LATCHED => 2
  | .PWR_CTL_LIMIT => 13
  | .PWR_INPUT0_MV => 16
  | .PWR_INPUT0_CURRENT => 16
  | .PWR_INPUT1_MV => 16
  | .PWR_INPUT1_CURRENT => 16
  | .PWR_MODULE_WATTS => 16
  | .PWR_MODULE_PEAK => 16
  | .PWR_MODULE_CLR => 1
  | .PWR_CAP_EFFECTIVE => 3
  | .PWR_CAP_POWER => 1
  | .PWR_CAP_THERMAL => 1
  | .PWR_CAP_COOLANT => 1
  | .PWR_CAP_SINGLE => 1
  | .THM_CTL_THROTTLE => 8
  | .THM_CTL_RELEASE => 8
  | .THM_CTL_CRITICAL => 8
  | .PWR_CNT_STEPDOWN_COUNT => 64
  | .THM_CNT_THROTTLE_COUNT => 64
  | .PWR_CNT_TRIP_COUNT => 64

end Sys2Proof.Machine
end

