-- ==== Sys2Proof/Machine/Types.lean ====
section
/-! DEFINITION. The types of the state that no register shows: queues, buffers, work in flight and tables. Each docstring names
the rule of the manual that gives the unit that state. What a register shows stands in the register file of State instead. -/

namespace Sys2Proof.Machine

/-- Bits [hi:lo] of a 64-bit word, as a number. -/
def fieldOf (w : Word64) (hi lo : Nat) : Nat := bits w.toNat hi lo

/-- A queued 16-byte command with the physical context that issued it and that context's slot (R165), and the first sequencer beat
in which it may issue (R157). -/
structure Cmd where
  w0 : Word64
  w1 : Word64
  ctx : Nat
  slot : Nat
  enters : Nat
  deriving DecidableEq, Repr

/-- TAG of a queued command: bits [63:48] of word 0 in every layout (R81, R112, R113, R161). -/
def Cmd.tag (c : Cmd) : Nat := fieldOf c.w0 63 48
/-- KIND of a queued command: bits [3:0] of word 0 in every layout. -/
def Cmd.kind (c : Cmd) : Nat := fieldOf c.w0 3 0

/-- An entry of an array's queue (R80, R158): a command, or a register write made by CSET. -/
inductive ArrEntry where
  | cmd (c : Cmd)
  | cset (reg : Nat) (value : Word64) (ctx slot enters : Nat)
  deriving DecidableEq, Repr

/-- One line as the bobbin delivers it (R42, R44, R133): element patterns, and bit sets of the elements that come from a
poisoned or a sealed word. -/
structure Line where
  elems : List Nat
  poison : Nat
  isSealed : Nat
  deriving DecidableEq, Repr

/-- One 32-bit accumulator or ACB value with its marks (R85, R487). -/
structure AccVal where
  v : Nat
  poison : Bool
  isSealed : Bool
  deriving DecidableEq, Repr

/-- An array command in flight, from issue to completion (R50, R53, R55). -/
structure Running where
  cmd : Cmd
  /-- Its place in the issue order of the array. -/
  order : Nat
  /-- Long-sum state of its drains (R74). -/
  long : Bool
  /-- Selected output rows and columns as bit sets (R63, R191). -/
  rows : Nat
  cols : Nat
  /-- A weight-gradient bitmap word was poisoned (R193). -/
  maskPoison : Bool
  /-- Lines still to be read from the A-bobbin and the B-bobbin. -/
  aLeft : Nat
  bLeft : Nat
  /-- Lines read, in order. -/
  aLines : List Line
  bLines : List Line
  /-- The stored rows loaded in the init beats (R80), one list per output row. -/
  init : List (List AccVal)
  /-- The held bank a HOLD_PASS uses or a HOLD_LOAD fills. -/
  bank : Nat
  /-- A HOLD_PASS whose seam waits for its back bank: the core is frozen (R58). -/
  seamWait : Bool := false
  /-- What the bank held when the pass took it (R56, R57): a later load cannot change it. -/
  held : List Line := []
  deriving DecidableEq, Repr

/-- A held bank (R52, R78, R82, R256): what it holds, its format, epoch tag and slot record. -/
structure HeldBank where
  fmt : Nat
  epoch : Nat
  slot : Option Nat
  chunks : List Line
  deriving DecidableEq, Repr

def HeldBank.empty : HeldBank := ⟨0, 0, none, []⟩

/-- The part of an array that no register shows. -/
structure ArrayUnit where
  queue : List ArrEntry
  /-- Commands of the core in issue order: at most one entering and one draining (R49). -/
  inflight : List Running
  /-- The HOLD_LOAD on the held-load path (R55). -/
  loading : Option Running
  bank0 : HeldBank
  bank1 : HeldBank
  /-- Epochs at which the tiles of the two accumulator banks began (R78), and the bank that accumulates. -/
  accEpoch0 : Nat
  accEpoch1 : Nat
  accBank : Nat
  /-- Long-sum generator (R221). -/
  gen : Nat
  /-- A wake from power gating is under way (R85). -/
  waking : Bool
  /-- Commands issued so far. -/
  issued : Nat
  /-- The ACB is powered off (R77). -/
  acbOff : Bool
  deriving DecidableEq, Repr

/-- After module reset: nothing queued or held; the generator is 1 (R221). -/
def ArrayUnit.reset : ArrayUnit := ⟨[], [], none, HeldBank.empty, HeldBank.empty, 0, 0, 0, 1, false, 0, true⟩

/-- What an ACB region records besides its registers: the slot of its last CSET write (R256) and the ACC = 1 commands issued
since that write (R74). -/
structure Region where
  slot : Option Nat
  accIssued : Nat
  /-- The region has entered long-sum mode since that write (R74). -/
  long : Bool
  deriving DecidableEq, Repr

def Region.reset : Region := ⟨none, 0, false⟩

/-- A bobbin (R100): its feed queue and the slots assigned and not yet freed, oldest first. -/
structure Bobbin where
  queue : List Cmd
  order : List Nat
  deriving DecidableEq, Repr

def Bobbin.reset : Bobbin := ⟨[], []⟩

/-- Where an injected tile comes from (R94): a stage SRAM address, or the oldest tile of a gateway buffer. -/
inductive TileSrc where
  | sram (off : Nat)
  | gateway
  deriving DecidableEq, Repr

/-- One use of a tile ticket (R94 to R97). Registrations are bobbins 0 to 47 and stage-SRAM stations 48 to 51 (CAR_TKT_REG). -/
structure Use where
  id : Nat
  slot : Nat
  declared : Bool
  station : Nat
  ring : Nat
  subs : Nat
  regs : List Nat
  armed : Bool
  ccw : Bool
  drop : Nat
  sent : Nat
  src : TileSrc
  /-- Until armed, when it was declared, on the reference timer; once armed, the beat of the last injection. -/
  since : Nat
  stalled : Bool
  deriving DecidableEq, Repr

/-- A stage-SRAM station's queue (R113); `started` once its head has passed its checks and declared or registered. -/
structure Station where
  queue : List Cmd
  started : Bool
  /-- The use that the head INJECT has declared. -/
  useId : Option Nat
  /-- Flits that the head CAPTURE has stored. -/
  moved : Nat
  /-- The queue faulted and discards what is written to it until BAD_INJ and RING_OFF read zero (R114). -/
  held : Bool
  /-- The CAPTURE of the tile that the head INJECT sends, taken from behind it (R92), and the flits it has stored. -/
  copying : Option (Cmd × Nat)
  deriving DecidableEq, Repr

def Station.reset : Station := ⟨[], false, none, 0, false, none⟩

/-- A stream tile in a mesh gateway buffer (R109). -/
structure GwTile where
  ticket : Nat
  ring : Nat
  subs : Nat
  slot : Nat
  ctx : Nat
  /-- The stream that sends it: 4 × engine + channel. -/
  src : Nat
  /-- The use that its declaration opened. -/
  useId : Option Nat
  /-- Bytes received. -/
  got : Nat
  /-- The carousel beats in which its flits became whole, oldest first (R93, R109). -/
  readyAt : List Nat
  data : Memory
  tags : Memory
  /-- Errors in the check bits of its words (R268). -/
  errs : Tbl Nat
  deriving DecidableEq, Repr

/-- A flit of 2 KiB on a ring (R89, R90). -/
structure Flit where
  ticket : Nat
  useId : Nat
  f : Nat
  data : Memory
  tags : Memory
  /-- Errors in the check bits of its 64 words (R268), by word in `Key.i`. -/
  errs : Tbl Nat
  deriving DecidableEq, Repr

/-- A ring slot (R93): its reservation and its flit. -/
structure RingSlot where
  reserved : Option Nat
  flit : Option Flit
  deriving DecidableEq, Repr

def RingSlot.empty : RingSlot := ⟨none, none⟩

/-- What a context keeps besides its registers (R153, R162): the target of a blocked WAIT, whether the block is a FENCE, the
writes it still has outstanding, the first beat in which it may issue, the beat since which it is blocked or held, and for a late
result the beat from which only a stretched period holds it (R170). -/
structure Ctx where
  target : Nat
  fenced : Bool
  posted : Nat
  earliest : Nat
  since : Nat
  lateTo : Nat
  deriving DecidableEq, Repr

def Ctx.reset : Ctx := ⟨0, false, 0, 0, 0, 0⟩

/-- A synchronisation counter of a slot on a die (R155): its count, how many CINCs the commit vote has consumed, and for each ring
engine the issuers of the CINCs that it has not yet consumed, oldest first (R369, R370). -/
structure SyncCtr where
  count : Nat
  votes : Nat
  re0 : List Nat
  re1 : List Nat
  deriving DecidableEq, Repr

def SyncCtr.reset : SyncCtr := ⟨0, 0, [], []⟩

/-- A result in flight (R167): the register it goes to, its value, the first beat that reads it, and by how many beats it is
written later than the contract, because of the stepping and because of stretched periods (R168, R170, R172). A vector result
replaces the low bytes of its register. A seed is the direct write of a CSET (R158), to the unit of that number in R154. -/
inductive Pending where
  | scalar (cd ctx r : Nat) (v : Word64) (due : Nat)
  | vector (cd ve r : Nat) (bytes : List Byte) (isSealed : Bool) (due late stretch : Nat)
  | seed (cd u : Nat) (v : Word64) (due : Nat)
  deriving DecidableEq, Repr

/-- A queued vector memory command (R161), with lane 0 of VA as its ISSUE read it for a SCALE_PICK (R210). -/
structure VeCmd where
  cmd : Cmd
  lane0 : Nat
  laneSealed : Bool
  deriving DecidableEq, Repr

/-- A VE (R160, R187, R221): its memory queue, the command at its head once started, the first beat that accepts a VOP, its
generator, and the old contents of registers that a VOP has written while an uncounted VST names them, where the VST stores the
old ones (R161). -/
structure VeUnit where
  queue : List VeCmd
  started : Bool
  acceptFrom : Nat
  gen : Nat
  pins : List (Nat × List Byte × Bool)
  deriving DecidableEq, Repr

def VeUnit.reset : VeUnit := ⟨[], false, 0, 1, []⟩

/-- A pattern loaded on a die for a slot (R148 to R152). Code and constants lie in the die's instruction and constant memory;
`ctxOf` lists the physical context of each logical one; bases and lengths are in 64-bit words. -/
structure Pattern where
  codeBase : Nat
  codeWords : Nat
  constBase : Nat
  constWords : Nat
  ctxOf : List (Option Nat)
  entry : List Nat
  veMask : List Nat
  grant : Nat
  sideshow : Bool
  release : Bool
  sha : Nat
  deriving DecidableEq, Repr

def Pattern.none : Pattern := ⟨0, 0, 0, 0, [], [], [], 0, false, false, 0⟩

/-- The owner and use of a frame (R254). -/
inductive Owner where
  | free | system | slot (s : Nat)
  deriving DecidableEq, Repr

inductive FrameUse where
  | ordinary | stash | spill | lo
  deriving DecidableEq, Repr

/-- An entry of the frame map (R254, R257). While it is zeroed: the change that started it, and whether it goes before the other
frames of that change. -/
structure Frame where
  owner : Owner
  use : FrameUse
  strong : Bool
  isSealed : Bool
  zeroing : Bool
  batch : Nat
  first : Bool
  deriving DecidableEq, Repr

def Frame.reset : Frame := ⟨.free, .ordinary, false, false, false, 0, false⟩

/-- A 64 KiB block of stage SRAM (R256), and whether its zeroing follows a change of owner (SRAM_OWNER) or of class alone. -/
structure SramBlock where
  owner : Option Nat
  zeroing : Bool
  moved : Bool
  deriving DecidableEq, Repr

def SramBlock.reset : SramBlock := ⟨none, false, false⟩

/-- A stored word as it travels: 256 data bits and its tag (R266). -/
structure Word where
  data : Nat
  tag : Nat
  deriving DecidableEq, Repr

/-- A hub-cache line (R262, R263): its slot, its last use and its eight words under the LIGHT class, with the errors in their check
bits, if any. -/
structure HcLine where
  slot : Nat
  used : Nat
  words : List Word
  errs : Tbl Nat
  deriving DecidableEq, Repr

/-- An entry of a hub's merge window (R264): the line, when it opened and how many requesters it answers. -/
structure MergeEntry where
  hub : Nat
  line : Nat
  opened : Nat
  requesters : Nat
  deriving DecidableEq, Repr

/-- A stash directory entry (R197): free entries are not listed. -/
inductive StashPlace where
  | hbm | tier2 | dropped | writing
  deriving DecidableEq, Repr

structure StashEntry where
  key : Nat
  slot : Nat
  place : StashPlace
  /-- Where a WRITING entry will be (R200). -/
  target : StashPlace
  recomp : Bool
  /-- The tensor's size in bytes. -/
  size : Nat
  /-- Its storage units: physical address divided by 65,536. -/
  units : List Nat
  deriving DecidableEq, Repr

/-- A stream on a channel (R286 to R309): the command, its 18 descriptor words as read at the start, what the start captured
(effective exponent of R212, census step of R216), the delivered watermark and what the end will need. -/
structure StreamRun where
  cmd : Cmd
  desc : List Nat
  kexp : Int
  step : Nat
  /-- Delivered watermark W (R304). -/
  w : Nat
  /-- The half beat of its engine in which it started (R310), and when it was last suspended, on the reference timer. -/
  started : Nat
  since : Nat
  /-- The directory entry that it writes, the one that it reads, and its outcome code (R201). -/
  entry : Option Nat
  source : Option Nat
  outcome : Nat
  /-- Its write made a drop record: it reads its source and delivers nothing (R200). -/
  dropped : Bool
  /-- Its read found a drop record: nothing is read or delivered (R202). -/
  hollow : Bool
  /-- Bytes that it has read and not delivered (R313). -/
  held : Nat
  /-- The half beat since which a read waits for space in a gateway buffer (R314). -/
  poolWait : Option Nat
  /-- The channel is ENDING (R287): the code that the stream ends with, 0 for a normal end. -/
  ending : Option Nat
  /-- The census so far (R214): COUNT, ZEROS, UFLOW, SAT, NAN, INF, AMAX; and whether a sealed element was counted. -/
  census : List Nat
  censusSealed : Bool
  deriving DecidableEq, Repr

/-- A stream engine (R221, R286): its queue and generator. -/
structure SeUnit where
  queue : List Cmd
  gen : Nat
  deriving DecidableEq, Repr

def SeUnit.reset : SeUnit := ⟨[], 1⟩

/-- An event on its way to the recorder (R500, R501): SUP_OPSEC at its origin, its code, source, A value and slot. -/
structure Event where
  sec : Nat
  code : Nat
  die : Nat
  unit : Nat
  a : Nat
  slot : Option Nat
  deriving DecidableEq, Repr

/-- A token bucket (R505): the tokens missing from its capacity, in units of 10^-8, and when that was, on the reference timer. -/
structure Bucket where
  missing : Nat
  seen : Nat
  deriving DecidableEq, Repr

/-- How one word of a memory access was answered (R30): data with its tag, an acknowledged write, a bus error, or the
access-fault exception of a core (R277, R489). -/
inductive WordAns where
  | data (bytes : List Byte) (tag : Nat)
  | written
  | busError
  | accessFault
  deriving DecidableEq, Repr

/-- How the last access answered its requester (R15, R18, R30): nothing yet, the 64 bits of a register, an acknowledged register
write, a bus error of the whole request, the words of a memory access in order, or a wait for zeroing (R257). -/
inductive Response where
  | none
  | reg (v : Word64)
  | written
  | busError
  | words (ws : List WordAns)
  | waits
  deriving DecidableEq, Repr

/-- A memory access that waits for zeroing (R257): a read of `n` bytes, or a write of bytes with the tag of its writer. -/
inductive MemAccess where
  | read (req : Requester) (a n : Nat)
  | write (req : Requester) (a : Nat) (bs : List Byte) (tag : Nat)
  deriving DecidableEq, Repr

/-- A frame on a Huward port (R349, R354): its 128-byte header, its data flits of 132 bytes (four words and their tag bytes),
its virtual channel, and the port and virtual channel in whose receive buffer it stands; none for a frame of the module. -/
structure LinkFrame where
  hdr : List Byte
  data : List (List Byte)
  vc : Nat
  came : Option (Nat × Nat)
  deriving DecidableEq, Repr

/-- A byte as read, with the poison and seal marks of its word. -/
structure MByte where
  b : Byte
  poison : Bool
  isSealed : Bool
  deriving DecidableEq, Repr

/-- A ring-engine frame in a landing slot (R379), the engine and landing slot it lies in, its sender as the collective names it (a
rank, or on a tree a port), and how many of its blocks are consumed. -/
structure Landed where
  idx : Nat
  frame : LinkFrame
  peer : Nat
  used : Nat
  deriving DecidableEq, Repr

/-- A frame that a collective has still to send (R380, R381): to a rank or a tree port, with its PHASE, DIR, OFFSET, data flits and
block scales. -/
structure OutFrame where
  peer : Nat
  phase : Nat
  dir : Nat
  off : Nat
  /-- Element bytes that it carries, without the padding of its last flit. -/
  bytes : Nat
  flits : List (List Byte)
  scales : List Byte
  deriving DecidableEq, Repr

/-- What a direct operation still receives from a rank (R375 to R377): where it goes, its bytes, how many of them are stored, and
what has arrived. -/
structure Piece where
  peer : Nat
  va : Nat
  bytes : Nat
  keep : Nat
  buf : List MByte
  finished : Bool
  deriving DecidableEq, Repr

/-- A running collective of a slot on a ring engine (R368 to R388). -/
structure Coll where
  /-- Its descriptor, list index, instance, start on the reference timer and census step (R216). -/
  desc : List Byte
  entry : Nat
  inst : Nat
  started : Nat
  step : Nat
  /-- The contexts whose CINCs it consumed, by die (R369). -/
  ctxs : List (Nat × Nat)
  /-- Credits held, by receiver, and senders that hold a credit of this module (R380). -/
  credits : List (Nat × Nat)
  granted : List Nat
  /-- Senders that have had their first credit. -/
  first : List Nat
  out : List OutFrame
  /-- Downconversion tasks done, and blocks done of the current one (R385). -/
  task : Nat
  blk : Nat
  /-- Copied blocks still to arrive. -/
  copies : Nat
  pieces : List Piece
  /-- RECV counts that have arrived, by rank (R374), and whether the segments are placed. -/
  counts : List (Nat × Nat)
  placed : Bool
  /-- FP64 sums of this module and of the group (R388). -/
  localSq : Nat
  sumSq : Nat
  census : List Nat
  censusSealed : Bool
  poison : Bool
  trunc : Bool
  /-- Tree ports whose GATHER has come, whether this member's GATHER has gone, the totals it carries, and whether RESULT has
  passed (R383, R388). -/
  seen : List Nat
  gathered : Bool
  totals : Nat × Nat
  passed : Bool
  timedOut : Bool
  deriving DecidableEq, Repr

/-- A frame that waits for a port that carries bulk frames (R358): the role and INDEX of its leg, and since when. -/
structure HeldFrame where
  frame : LinkFrame
  role : Nat
  index : Nat
  since : Nat
  deriving DecidableEq, Repr

/-- A sequenced flit in a replay buffer (R352): FKIND, virtual channel, SEQ and bytes 0x00 to 0x87. -/
structure TxFlit where
  kind : Nat
  vc : Nat
  seq : Nat
  body : List Byte
  deriving DecidableEq, Repr

/-- What a Huward port keeps besides its registers (R344 to R366). -/
structure Port where
  /-- When the state began, on the reference timer (R345). -/
  since : Nat
  /-- A fast retrain is under way (R348). -/
  fast : Bool
  /-- An IDENT has been sent that waits for the peer's (R344). -/
  identDue : Bool
  /-- EV_REC_GEN has been raised for this peer (R399). -/
  genRaised : Bool
  /-- EV_HL_NOROUTE has been raised (R358). -/
  noRoute : Bool
  /-- HELD for a crossed cable (R347). -/
  crossed : Bool
  -- sender
  txSeq : Nat
  replay : List TxFlit
  /-- NAKs since the last acknowledged progress (R352). -/
  naks : Nat
  /-- Credits held: flits of VC 0 and VC 1, picot messages (R353). -/
  cred0 : Nat
  cred1 : Nat
  pcred : Nat
  picotQ : List (List Byte)
  relay0 : List LinkFrame
  relay1 : List LinkFrame
  locals : List LinkFrame
  /-- Whose turn it is: relayed VC 0, relayed VC 1, local (R357). -/
  turn : Nat
  /-- The flits still to send of the frame that is leaving, with their kinds, and its virtual channel (R341). -/
  leaving : List (Nat × List Byte)
  leavingVc : Nat
  /-- The next flit slot of the 32-slot cycle, and when it was the next, on the reference timer (R341). -/
  flitSlot : Nat
  slotAt : Nat
  -- receiver
  /-- Next SEQ expected, and the SEQ after the last whole frame or message (R350, R352). -/
  rxNext : Nat
  rxGood : Nat
  rxAny : Bool
  /-- Picot flits already delivered between the flits of an open frame. -/
  ahead : List Nat
  /-- Flits of the open frame, as bytes 0x00 to 0x87 with its virtual channel. -/
  openVc : Nat
  openFlits : List (List Byte)
  discarding : Bool
  nakDue : Bool
  ackDue : Bool
  /-- Credits to return: VC 0, VC 1, picot. -/
  owed0 : Nat
  owed1 : Nat
  owedP : Nat
  /-- Whole frames received and not yet routed. -/
  frames : List LinkFrame
  -- heartbeats
  hbCount : Nat
  hbSent : Nat
  hbSeen : Nat
  /-- Count of the last HEARTBEAT, and whether that one passed the checks of R490. -/
  hbLast : Option Nat
  hbOk : Bool
  deriving DecidableEq, Repr

/-- After reset: buffers empty, sequence 0, and the peer's whole receive buffers as credits (R353). -/
def Port.reset : Port :=
  ⟨0, false, false, false, false, false, 0, [], 0, 1024, 1024, 32, [], [], [], [], 0, [], 0, 0, 0, 0, 0, false, [], 0, [], false, false,
   false, 0, 0, 0, [], 0, 0, 0, none, false⟩

/-- The installed sealing policy (R481 to R484), as the supervisor keeps it: the ring key and FK as derived, M3, and the
allow-list entries of 64 bytes. -/
structure Policy where
  version : Nat
  ring : Nat
  ringKey : List Byte
  fk : List Byte
  digest : List Byte
  allow : List (List Byte)
  deriving DecidableEq, Repr

/-- The rate state of an allow-list entry (R497): the entry's 64 bytes, and its release and byte buckets in units of 1/65,536. -/
structure Rate where
  entry : List Byte
  releases : Nat
  bytes : Nat
  deriving DecidableEq, Repr

/-- A running release (R496): where in memory it starts, its length, its destination, and the PATTERN it records. -/
structure Release where
  src : Nat
  len : Nat
  dst : Nat
  pattern : List Byte
  deriving DecidableEq, Repr

/-- The open vote of a slot (R237 to R244): its step, the copy of the group table (R232), and when the local vote was ready. It ends at
its resolution. -/
structure Vote where
  step : Nat
  table : List (Key × Nat)
  ready : Option Nat
  timedOut : Bool
  deriving DecidableEq, Repr

/-- The update of a step that resolved to COMMIT, while it is applied (R242, R243): its copy of the group table and the loss-scale
exponent at the resolution (R220). -/
structure Update where
  slot : Nat
  step : Nat
  table : List (Key × Nat)
  scale : Int
  deriving DecidableEq, Repr

/-- What a region's clock unit is doing (R336 to R338): raising the supply, one glide, draining for a stop, halted in it, or lowering
the supply. -/
inductive ClkPhase where
  | idle | raising | gliding | draining | halted | lowering
  deriving DecidableEq, Repr

/-- A region's clock unit: its phase, the step that the change in progress moves to and whether it glides there, when it halted on the
reference timer, and its supply level. -/
structure Clk where
  phase : ClkPhase
  goal : Nat
  glide : Bool
  haltedAt : Nat
  supply : Nat
  deriving DecidableEq, Repr

/-- At reset a region runs at step 1 (CLK_STEP.CURRENT) with the supply of that step. -/
def Clk.reset : Clk := ⟨.idle, 1, false, 0, 1⟩

/-- Where a command's replies go (R433): to a management source, to a slot's completion queue (with an entry kept for the reply or
not), to a position of the ring, or nowhere, for work that the supervisor starts itself. -/
inductive ReplyTo where
  | mgmt (src : Nat)
  | host (slot : Nat) (kept : Bool)
  | peer (pos : Nat)
  | nobody
  deriving DecidableEq, Repr

/-- A command packet (R430, R435): its fields, its parameters and where it came from. -/
structure Packet where
  op : Nat
  tag : Nat
  early : Bool
  slotByte : Nat
  param : List Byte
  replyTo : ReplyTo
  deriving DecidableEq, Repr

/-- A command that has not given its final reply: its packet, and the frames and blocks whose zeroing it waits for, each as tier
(2 for stage SRAM), compute die and number. -/
structure CmdRun where
  pkt : Packet
  waits : List (Nat × Nat × Nat)
  deriving DecidableEq, Repr

/-- A kept reply to a management command (R434): source, TAG, when it was sent, and its bytes. -/
structure KeptReply where
  src : Nat
  tag : Nat
  sent : Nat
  reply : List Byte
  deriving DecidableEq, Repr

/-- What a snapshot of a slot is doing (R402 to R404): waiting to begin, copying, or draining to flash. -/
inductive SnapPhase where
  | waiting | copying | draining
  deriving DecidableEq, Repr

/-- A running snapshot of a slot: its phase, the image place it writes, the step it holds, and its image root. -/
structure SnapRun where
  phase : SnapPhase
  place : Nat
  step : Nat
  root : List Byte
  deriving DecidableEq, Repr

/-- A mirror of another module's image in the buddy area of flash (R408): its module, slot and place, its bytes and tag bytes as
received and how many have come, its step, the key under which it is encrypted in flash (empty for none, R493), and whether its
commit record is written. -/
structure Mirror where
  pos : Nat
  slot : Nat
  place : Nat
  step : Nat
  bytes : Memory
  tags : Memory
  count : Nat
  key : List Byte
  complete : Bool
  deriving DecidableEq, Repr

/-- A claim or other evidence of a loss that a catcher holds (R413): the lost position, who claims, and when. -/
structure Claim where
  pos : Nat
  sender : Nat
  since : Nat
  deriving DecidableEq, Repr

/-- A fill that a catcher receives (R418 to R420): which source of REC_SRC it uses (0 to 2; 3 for a handback), the source position,
the job generation at its start, the bytes and tags received, and whether a poisoned word came or a word could not be written. -/
structure Fill where
  which : Nat
  source : Nat
  inst : Nat
  bytes : Memory
  tags : Memory
  count : Nat
  poison : Bool
  deriving DecidableEq, Repr

/-- A FILL_REQ that waits until this module is QUIET (R418): slot, requester, the position to fill, and the target step. -/
structure FillReq where
  slot : Nat
  requester : Nat
  cpos : Nat
  target : Nat
  deriving DecidableEq, Repr

/-- What the supervisor keeps of a sensor (R460 to R464, R518, R521): its last sample and when, its STATE, the condition that the last
samples show and how many in a row, since when it has read within its limits, and the cap that its readings ask for. -/
structure Sensor where
  value : Int
  seen : Nat
  state : Nat
  cond : Nat
  run : Nat
  okSince : Nat
  cap : Nat
  capRun : Nat
  capRow : Nat
  deriving DecidableEq, Repr

/-- A cap that moves step by step (R517, R518): whether it holds, and when it last moved or the release condition began. -/
structure Ramp where
  active : Bool
  moved : Nat
  deriving DecidableEq, Repr

/-- An input stage (R512, R513): why it is open (0 closed, 1 overvoltage, 2 overcurrent, 3 lost, 4 reversed), since when, and the
times of its trips. -/
structure Stage where
  why : Nat
  since : Nat
  trips : List Nat
  deriving DecidableEq, Repr

/-- A firmware slot (R470): valid, VERSION, ROLLBACK, and the SHA-256 of its components of TYPE 1, 2 and 3, empty for the image that
the module was built with. -/
structure FwImage where
  valid : Bool
  version : Nat
  rollback : Nat
  meas : List (List Byte)
  deriving DecidableEq, Repr

/-- The first training and the retrainings of an HBM stack (R465): whether it passed, how often it failed, and whether it is excluded
for the rest of the power cycle. -/
structure Training where
  passed : Bool
  failed : Nat
  excluded : Bool
  deriving DecidableEq, Repr

/-- What leaves the module, by the port it leaves through. -/
inductive Output where
  /-- A reply to a management command (R431): source and the 32 bytes. -/
  | mgmt (src : Nat) (reply : List Byte)
  /-- A flit on a Huward port (R349): 144 bytes. -/
  | flit (port : Nat) (bytes : List Byte)
  /-- An Ethernet frame on a data port (R489). -/
  | dataPort (port : Nat) (bytes : List Byte)
  deriving DecidableEq, Repr

end Sys2Proof.Machine
end

