-- ==== Sys2Proof/Machine/State.lean ====
section
/-! DEFINITION. The state of the module: the register file, the memories and every unit's queues, buffers and work in flight,
as plain data; what stops a step; and the state after reset. -/

namespace Sys2Proof.Machine

/-- Why the block stops with a fault. No rule of the manual stops the module, so no meaning answers with it. Safe: a fault
would only leave out behaviour. -/
inductive Fault where
  /-- Raised by no meaning: kept so that the type is inhabited. Safe. -/
  | stopped
  deriving DecidableEq, Repr

/-- Why a command is refused by the model. -/
inductive Refusal where
  /-- Raised by the dispatcher for a command that has no meaning yet. Safe: nothing is claimed of it. -/
  | notModelled (mnemonic : String)
  deriving DecidableEq, Repr

set_option maxRecDepth 4096 in
/-- The state. Each table is sparse and canonical (`Tbl.wf`): an unlisted key holds the default that its accessor names. -/
structure State where
  -- the register file
  /-- Every register field that no other state determines, by field, die, unit and instance (the register tables of each
  chapter). -/
  csr : Tbl Nat := []
  -- the part
  /-- The stepping: true for B0, false for A1 (R7, R8). Fixed when the die is made; State.reset is an A1. -/
  b0 : Bool := false
  -- memory
  /-- The bytes of HBM, tier 2, the stage SRAM windows and the ACB windows, by module physical address (R28). -/
  mem : Memory := []
  /-- The side field of each 256-bit word of `mem` (R266), by word number in `Key.i`. -/
  side : Tbl Nat := []
  /-- The frame map (R254): tier 0 HBM or 1 tier 2 in `Key.u`, frame in `Key.i`. -/
  frames : Tbl Frame := []
  /-- Ownership of the 64 KiB stage SRAM blocks (R256). -/
  blocks : Tbl SramBlock := []
  /-- The hub caches (R262), by hub and line address. -/
  hcLines : Tbl HcLine := []
  /-- Counts hub-cache uses, for the LRU order (R263). -/
  hcClock : Nat := 0
  /-- The merge windows of the hubs (R264). -/
  merges : List MergeEntry := []
  /-- Memory accesses that wait for zeroing (R257), oldest first. -/
  memWait : List MemAccess := []
  /-- Numbers the changes that zero frames (R257). -/
  zeroBatch : Nat := 0
  /-- Where each patrol scrubber stands within its granule (R280), by die: controller × 64 + word. -/
  scrubs : Tbl Nat := []
  /-- The entry sequence of each mesochronous crossing, modulo 8 (R330, R331), by die and crossing number: it is that of
  the writer and of the reader. -/
  crossings : Tbl Nat := []
  /-- EV_MEM_LOG_FULL has been raised since the log of this controller last took an entry (R274), by die and unit of its
  error block. -/
  logTold : Tbl Bool := []
  -- matrix arrays
  /-- The arrays (R52, R78, R80), by die and array. -/
  arrays : Tbl ArrayUnit := []
  /-- How often each ACB has lost power (R77), by die and array. -/
  acbSeed : Tbl Nat := []
  /-- The value of `acbSeed` when each ACB word was last written: word in `Key.i`. -/
  acbAge : Tbl Nat := []
  /-- What each ACB region records (R74, R256), by die, array and region. -/
  regions : Tbl Region := []
  -- carousel and feeders
  /-- The bobbins (R100), by die and bobbin 2n + b. -/
  bobbins : Tbl Bobbin := []
  /-- The feed command each bobbin slot was reserved for (R100, R104). -/
  fills : Tbl (Option Cmd) := []
  /-- Bobbin slots whose pass is over while they still fill (R102, R104). -/
  earlyRead : Tbl Bool := []
  /-- The 64 KiB of each bobbin slot (R100), at ((die × 48 + bobbin) × 4 + slot) × 65,536. -/
  tile : Memory := []
  /-- The tag of each word of `tile`, by word number (R266). -/
  tileTag : Memory := []
  /-- Errors in the check bits of words of `tile` (R268): XOR of the stored check bits and the valid ones, by word
  number in `Key.i`. -/
  tileErr : Tbl Nat := []
  /-- The uses of each tile ticket, oldest first (R94 to R97). -/
  uses : Tbl (List Use) := []
  /-- Numbers the uses. -/
  useCount : Nat := 0
  /-- The stage-SRAM stations (R113), by die and group. -/
  stations : Tbl Station := []
  /-- The mesh gateway buffers (R109), by die and group. -/
  gateways : Tbl (List GwTile) := []
  /-- The ring slots (R89, R93): ring 0 CW or 1 CCW in `Key.u`, slot in `Key.i`. -/
  rings : Tbl RingSlot := []
  /-- Carousel beats of each die (R89). -/
  carBeat : Tbl Nat := []
  /-- Half beats that the carousel segments and stream engines of each die have run at its frequency step (R335). -/
  halves : Tbl Nat := []
  /-- One more than the carousel beat in which a station last injected (R93), by die and station. -/
  injBeat : Tbl Nat := []
  -- sequencer
  /-- The contexts (R153), by die and physical context. -/
  ctxs : Tbl Ctx := []
  /-- Scalar registers S1 to S31 (R153), by die, context and register. -/
  sregs : Tbl Word64 := []
  /-- The wait counters 0x00 to 0x62 of each context (R154, R155). -/
  cnts : Tbl Nat := []
  /-- The synchronisation counters (R155): slot in `Key.u`, K in `Key.i`. -/
  syncs : Tbl SyncCtr := []
  /-- The sequencer beat that each die has reached (R167): the latest beat in which anything is known to have happened
  there. -/
  beat : Tbl Nat := []
  /-- The sequencer beat in which each unit was last seen at work (R175), by die and unit in the numbering of R154. -/
  busyAt : Tbl Nat := []
  /-- One more than the beat since which the command at the head of a unit's queue waits for tickets (R176); 0 for none.
  -/
  tktWait : Tbl Nat := []
  /-- The context that ran last on each die (R162), plus 1; 0 for none. -/
  lastRan : Tbl Nat := []
  /-- Results in flight, in issue order (R167). -/
  pend : List Pending := []
  /-- The loaded patterns (R148, R151), by die and slot; a pattern with no code and no context is no pattern. -/
  patterns : Tbl Pattern := []
  /-- Which die holds a pattern of which slot (R151). -/
  patLoaded : Tbl Bool := []
  /-- Instruction memory, 1 MiB per die (R149, R151), at die × 2^20. -/
  code : Memory := []
  /-- Constant memory, 256 KiB per die (R149), at die × 2^18. -/
  konst : Memory := []
  /-- The slot each unit is charged to (R175), by die and unit in the numbering of R154. -/
  charges : Tbl (Option Nat) := []
  /-- Slots whose contexts are held at a boundary (R402, R425), by slot. -/
  slotPause : Tbl Bool := []
  /-- When the last yield of each die started, on the reference timer (R396). -/
  yieldAt : Tbl Nat := []
  /-- New sideshow starts wait since a yield (R395), by die. -/
  yieldHold : Tbl Bool := []
  /-- The slot whose refused command holds a unit (R85, R114), by die and unit in the numbering of R154. -/
  heldBy : Tbl (Option Nat) := []
  -- vector engines
  /-- The VEs (R160, R161). -/
  ves : Tbl VeUnit := []
  /-- The vector registers (R159), at ((die × 8 + VE) × 32 + register) × 8,192. -/
  vreg : Memory := []
  /-- The sealed bit of each vector register (R487). -/
  vsealed : Tbl Bool := []
  /-- The function table pairs (R182, R185), at ((die × 8 + VE) × 32 + pair) × 32,832. -/
  ftab : Memory := []
  /-- The VE epoch at which each pair was loaded (R187). -/
  pairEpoch : Tbl Nat := []
  /-- A pair was loaded from a SEALED word (R487), by die, VE and pair. -/
  pairSealed : Tbl Bool := []
  -- stream engines
  /-- The stream engines (R286), by die and engine. -/
  ses : Tbl SeUnit := []
  /-- The streams on the channels (R286): channel in `Key.i`. -/
  streams : Tbl (Option StreamRun) := []
  /-- When a byte last left each pool of R315, or the first one entered it: by die, and pools 0 to 7 of the stream
  engines and 8 to 11 of the mesh gateways. -/
  poolMoved : Tbl Nat := []
  /-- The stall of such a pool has been reported (R315). -/
  poolTold : Tbl Bool := []
  -- stash
  /-- The stash directories (R197), by die and entry. -/
  stash : Tbl (Option StashEntry) := []
  -- commit
  /-- The group tables (R230): slot in `Key.d`, group in `Key.u`, word in `Key.i`. -/
  groups : Tbl Nat := []
  /-- The open votes (R237), by slot. -/
  votes : Tbl (Option Vote) := []
  /-- The updates that are being applied, in the order of their resolutions (R242, R243). -/
  updates : List Update := []
  /-- The step whose RESULT a vote root has sent and not seen return (R241), by slot. -/
  awaiting : Tbl (Option Nat) := []
  /-- An engine shows TORN for a slot: by hub die, engine and slot ("When an abort meets an update"). -/
  torn : Tbl Bool := []
  /-- A GATHER that waits for the slot's local vote (R241). -/
  gathers : Tbl (Option (List Byte)) := []
  -- Huward links
  /-- The Huward ports (R340 to R366), by port number. -/
  ports : Tbl Port := []
  /-- Frames that wait for a port that carries bulk frames (R358), oldest first. -/
  held : List HeldFrame := []
  /-- Picot messages delivered to this module and not yet consumed (R363), with the port each came by; 8 for none. -/
  inbox : List (Nat × List Byte) := []
  /-- FILL and MIRROR frames delivered to this module (R355), oldest first. -/
  recIn : List LinkFrame := []
  /-- When the supervisor last wrote HLM_ALIVE (R366). -/
  aliveAt : Nat := 0
  /-- HLM_ALIVE was written within ALIVE_LIMIT (R366). -/
  hbAllowed : Bool := false
  /-- The module has found itself unfit to serve (R412): its supervisor writes HLM_ALIVE no more. -/
  unfit : Bool := false
  -- collectives
  /-- The running collectives (R369), by engine and slot, in start order. -/
  colls : Tbl (List Coll) := []
  /-- How often entries of each tag have started (R381): engine, slot, tag. -/
  insts : Tbl Nat := []
  /-- The landing areas (R379): the frames that lie in them, by engine and slot, oldest first. -/
  landed : Tbl (List Landed) := []
  /-- The generators of the ring engines (R221, R385): 1 at reset. -/
  reGen : Tbl Nat := []
  -- sealing
  /-- The installed sealing policy, in supervisor SRAM (R484). -/
  policy : Option Policy := .none
  /-- The rate state of the allow-list entries, in FRAM (R484, R497). -/
  rates : List Rate := []
  /-- The operating second up to which `rates` is refilled (R497). -/
  rateAt : Nat := 0
  /-- The key hash kept in FRAM; empty when none (R484). -/
  polHash : List Byte := []
  /-- The floor of VERSION kept in FRAM (R484). -/
  polFloor : Nat := 0
  /-- The quote being signed, without its signature (R480). -/
  quoting : Option (List Byte) := .none
  /-- The running release of each slot (R496). -/
  releases : Tbl (Option Release) := []
  /-- The release log in FRAM, oldest first: the newest 512 records (R484, R498). -/
  relLog : List (List Byte) := []
  /-- The newest acknowledged release record (R498). -/
  relAck : Nat := 0
  -- clocks
  /-- The clock units of the regions (R335 to R338), by die. -/
  clocks : Tbl Clk := []
  -- snapshots and recovery
  /-- The running snapshot of each slot (R402). -/
  snaps : Tbl (Option SnapRun) := []
  /-- The image places of the own area of flash (R404), by byte address. -/
  flash : Memory := []
  /-- The buddy area of flash (R408). -/
  mirrors : List Mirror := []
  /-- Claims that this catcher holds (R413). -/
  claims : List Claim := []
  /-- Lost neighbours that no standing catcher of this position can take (R424). -/
  lost : List Nat := []
  /-- Slots whose recovery has reached QUIET (R416), by slot. -/
  quiet : Tbl Bool := []
  /-- Slots that a RECOVER has stopped and no RESUME has released (R416, R417), by slot. -/
  recovering : Tbl Bool := []
  /-- What this module drives in the recovery of a slot (R416, R424, R425), by slot: 0 nothing; 1 a catch, 2 and 3 the
  first and second circuit of a global rollback, 4 a handback, each while its RECOVER circles; 5 a RESUME circles; 6 a
  RESUME is due. -/
  origin : Tbl Nat := []
  /-- The step that a slot is to restore (R424), by slot. -/
  restores : Tbl (Option Nat) := []
  /-- Caught positions whose RESUME has passed since a slot stopped (R417, R528), by slot. -/
  resumed : Tbl (List Nat) := []
  /-- Ring ports that an ACCEPT has set to IDLE, with their role (R414). -/
  swung : List (Nat × Nat) := []
  /-- A running handback (R425): caught position, replacement, and whether the state has been sent. -/
  handback : Option (Nat × Nat × Bool) := .none
  /-- The fill that this catcher receives for a slot (R418), by slot. -/
  recFills : Tbl (Option Fill) := []
  /-- FILL_REQ messages that wait for QUIET (R418). -/
  fillReqs : List FillReq := []
  /-- DIGEST messages that follow the frames of their fill (R418): slot, position and payload. -/
  digests : List (Nat × Nat × List Byte) := []
  -- events and the world outside
  /-- Events raised and not yet at the recorder, oldest first (R500). -/
  events : List Event := []
  /-- The staging SRAM of the recorder (R502): the pending records, oldest first. -/
  staged : List (List Byte) := []
  /-- The event log in flash (R502, R503), from place 0. -/
  evLog : List (List Byte) := []
  /-- A flush runs (R502): how many pending records it writes. -/
  flushN : Option Nat := .none
  /-- Another flush follows the running one or the erase (R502, R507). -/
  flushDue : Bool := false
  /-- The token buckets of the event codes (R505), by code; full at reset. -/
  buckets : Tbl Bucket := []
  /-- What has left the module, newest first. -/
  out : List Output := []
  /-- How the last access answered its requester. -/
  resp : Response := .none
  /-- Slot interrupts raised in the application-core cluster (R447), by slot. -/
  irq : Tbl Nat := []
  /-- The 64-entry holding buffer of each slot's notices (R447). -/
  notices : Tbl (List (List Byte)) := []
  /-- MODEL: counts the free values taken (`Config.freeValue`); no rule of the manual names it. -/
  fresh : Nat := 0
  /-- Replies to aborts of the window that wait for a free completion entry (R446, R447), by slot. -/
  replies : Tbl (List (List Byte)) := []
  /-- Completion-queue entries kept for commands that run (R445), by slot. -/
  cplOwed : Tbl Nat := []
  /-- The 100 MHz reference timer (R14), in ticks. -/
  now : Nat := 0
  -- caps and bring-up
  /-- The caps that hold, by cause in `Key.u` and region in `Key.i` (R453, R462 to R465, R513, R517 to R521); 7 for
  none. -/
  caps : Tbl Nat := []
  /-- The sensors (R460), by index; none before the first sample. -/
  sensors : Tbl (Option Sensor) := []
  /-- Samples of the module power in a row above PWR_CTL.LIMIT (R517). -/
  powerRun : Nat := 0
  /-- The power cap of R517. -/
  powerRamp : Ramp := ⟨false, 0⟩
  /-- The thermal caps of R518: die in `Key.d`; the carrier has die 0xFF. -/
  ramps : Tbl Ramp := []
  /-- The input stages (R512, R513). -/
  stages : Tbl Stage := []
  /-- Power is good and bring-up has begun (R465). -/
  booted : Bool := false
  /-- When bring-up began, on the reference timer. -/
  bootAt : Nat := 0
  /-- Ticks that stage 1 has waited for coolant, which are added to every later bound (R465). -/
  coolWait : Nat := 0
  /-- Stage 1 has started (R465, R520). -/
  stage1 : Bool := false
  /-- The self-test of each die (R465): 0 not ended, 1 passed, 2 failed. -/
  selfTests : Tbl Nat := []
  /-- The training of each HBM stack (R465, R466); none before the first one ends. -/
  trainings : Tbl (Option Training) := []
  /-- SUP_CORE_MARK.READY has been written (R465, R473). -/
  coreMark : Bool := false
  /-- The last bring-up bound that has passed (R465): 0 none, 1 to 3. -/
  lateLevel : Nat := 0
  /-- When the service-level cap last rose (R465). -/
  capRaised : Nat := 0
  /-- A module reset waits for the flush of the recorder (R502). -/
  resetDue : Bool := false
  /-- Firmware slot A in flash (R456, R470). -/
  fwA : FwImage := ⟨true, 0, 0, []⟩
  /-- Firmware slot B. -/
  fwB : FwImage := ⟨true, 0, 0, []⟩
  /-- Supervisor firmware runs (R468). -/
  fwRuns : Bool := false
  /-- The image that a running firmware WRITE takes: address and length (R471). -/
  fwJob : Option (Nat × Nat) := .none
  /-- TRIAL in FRAM (R457): 0 none, 1 A, 2 B. -/
  fwTrial : Nat := 0
  /-- When the running firmware started (R472). -/
  supBootAt : Nat := 0
  /-- The last write of SUP_WDOG.KICK (R458). -/
  wdogAt : Nat := 0
  /-- The interrupt of R458 has been raised since then. -/
  wdogNmi : Bool := false
  /-- The module record in flash (R476). -/
  record : List Byte := []
  /-- Step 2 of R477 passes on the record. -/
  recordSigned : Bool := false
  /-- Step 4 of R477 passes on the record. -/
  recordKeys : Bool := false
  -- commands
  /-- The management port is up (R465). -/
  mgmtUp : Bool := false
  /-- Commands accepted and not yet replied to. -/
  cmdRuns : List CmdRun := []
  /-- The replies kept for retried management commands (R434), newest first. -/
  keptReplies : List KeptReply := []
  /-- The abort issued through a slot's abort window and not yet taken (R446), by slot. -/
  windows : Tbl (Option (List Byte)) := []
  /-- Entries of a slot's command queue that an ABORT_CMD has already answered (R448), by slot. -/
  qSkip : Tbl (List Nat) := []
  /-- Commands waiting, first in first out. -/
  pending : List Instr := []
  deriving DecidableEq, Repr

/-- The module right after reset: every register at its reset value, every unit empty, memory all zero and nothing queued.
A register's reset value is the default that `State.fld` reads for a field that the register file does not list. -/
def State.reset : State := {}

end Sys2Proof.Machine
end

