-- ==== Sys2Proof/Machine/Ops.lean ====
section
/-! DEFINITION. The named operations that every meaning uses: reading and writing register fields, free values, and raising
events (R500). -/

namespace Sys2Proof.Machine

/-- What a command's meaning answers. -/
abbrev Out := Host.Outcome State Fault Refusal

/-- die_id of memory hub h and of I/O die k (R21). -/
def mhDie (h : Nat) : Nat := 0x10 + h
def iodDie (k : Nat) : Nat := 0x20 + k
/-- The I/O die and the local number of Huward port p (R34). -/
def portDie (p : Nat) : Nat := iodDie (p / 4)
def portUnit (p : Nat) : Nat := p % 4
def mh0 : Nat := 0x10
def iod0 : Nat := 0x20

namespace State

/-- Where a register field stands in the register file. -/
def csrKey (f : Fld) (d u i : Nat) : Key := ⟨f.id, d, u, i⟩

/-- The value of a register field: its reset value where the register file lists nothing. -/
def fld (s : State) (f : Fld) (d : Nat := 0) (u : Nat := 0) (i : Nat := 0) : Nat :=
  s.csr.get (Fld.resetOf f.id d) (csrKey f d u i)

/-- Sets a register field, to its width. -/
def setFld (s : State) (f : Fld) (d u i v : Nat) : State :=
  { s with csr := s.csr.set (Fld.resetOf f.id d) (csrKey f d u i) (v % 2 ^ f.width) }

/-- Adds to a counter or status field; the field wraps (the counters of the register tables). -/
def incFld (s : State) (f : Fld) (d u i : Nat) (n : Nat := 1) : State := s.setFld f d u i (s.fld f d u i + n)

/-- Adds to a field that saturates. -/
def incSat (s : State) (f : Fld) (d u i : Nat) (n : Nat := 1) : State :=
  s.setFld f d u i (min (s.fld f d u i + n) (2 ^ f.width - 1))

/-- A one-bit field as a Boolean. -/
def flag (s : State) (f : Fld) (d : Nat := 0) (u : Nat := 0) (i : Nat := 0) : Bool := s.fld f d u i != 0

/-- The islands of a die stand still: halted in a stop (R337) or after a crossing error (R332). -/
def halted (s : State) (die : Nat) : Bool := s.fld .CLK_STEP_STOPPED die != 0 || s.fld .CLK_STATUS_XERR die != 0

/-- A region drains for a stop or stands still in it (R337): the traffic for it is held. -/
def stopping (s : State) (die : Nat) : Bool :=
  let p := (s.clocks.get Clk.reset (Key.at die)).phase
  p = .draining || p = .halted

/-- What an event of a die does: nothing while its islands stand still (R332, R337). -/
def gated (s : State) (die : Nat) (t : State) : State := if s.halted die then s else t

/-- One bit of a field. -/
def flagBit (s : State) (f : Fld) (d u i b : Nat) : Bool := (s.fld f d u i).testBit b

/-- Sets or clears one bit of a field. -/
def setBit (s : State) (f : Fld) (d u i b : Nat) (v : Bool) : State :=
  let old := s.fld f d u i
  let cleared := if old.testBit b then old - 2 ^ b else old
  s.setFld f d u i (if v then cleared + 2 ^ b else cleared)

/-- Forgets every value of a field that meets a test, so that it reads its reset value. -/
def resetFields (s : State) (p : Key → Bool) : State := { s with csr := s.csr.clear p }

/-- The 64 bits of a register as its stored fields give them (R16, R17): reserved bits are zero. -/
def regWord (s : State) (r : Reg) (d : Nat := 0) (u : Nat := 0) (i : Nat := 0) : Nat :=
  r.fields.foldl (fun x f => x + s.fld f.fld d u i * 2 ^ f.lo) 0

/-- A free value: `Config.freeValue` of a counter that each use advances (log entry 4). -/
def takeFree (s : State) : Nat × State := ((Config.freeValue s.fresh).toNat, { s with fresh := s.fresh + 1 })

end State

/-- The event codes (R508 and the table of "Power, cooling and electrical limits"). -/
inductive Ev where
  | EV_SEQ_CTX_FAULT | EV_CAR_ARM_STALL | EV_STASH_EXHAUSTED | EV_SS_YIELD_FORCED | EV_CLK_XING
  | EV_CENSUS_LATE | EV_LSCALE_HALVED | EV_LSCALE_FLOOR | EV_CMT_COMMIT | EV_CMT_SKIP | EV_CMT_TIMEOUT | EV_CMT_OVF_AFTER
  | EV_UE_XLATE | EV_UE_NONFINITE | EV_UE_POISON
  | EV_MEM_UE | EV_MEM_LOG_FULL | EV_QUOTA_OVERSUBSCRIBED | EV_SE_FAULT_LIMIT | EV_SE_POOL_STALL
  | EV_HL_LANE | EV_HL_CROSSED | EV_HL_DOWN | EV_HL_HB_LOSS | EV_HL_MISROUTE | EV_HL_NOROUTE | EV_HL_SEAL_DROP
  | EV_HL_SEAL_LOST | EV_RE_FAULT | EV_RE_POISON | EV_RE_TIMEOUT
  | EV_REC_GEN | EV_REC_RESUME | EV_REC_DIGEST | EV_REC_NO_COMMON | EV_REC_STALE
  | EV_SUP_RESET | EV_CMD_INTERNAL | EV_SVC_LEVEL | EV_SVC_LATE | EV_FW_FALLBACK | EV_FW_UPDATE
  | EV_SNS_WIRING | EV_SNS_LEAK | EV_SNS_DIE | EV_PWR_FAIL | EV_PWR_IN_LOST | EV_PWR_IN_RESTORED | EV_PWR_IN_REVERSED
  | EV_PWR_OVERVOLT | EV_PWR_OVERCURRENT | EV_PWR_LIMIT | EV_THM_THROTTLE | EV_THM_CRITICAL | EV_COOL_LIMIT
  | EV_ID_RECORD | EV_POL_INSTALL | EV_POL_REFUSED | EV_TS_RELEASE | EV_TS_REFUSED | EV_TS_BLOCK | EV_EVR_CLEARED
  deriving DecidableEq, Repr

/-- Every event code with its class F mark (R508). -/
def Ev.table : List (Ev × Nat × Bool) :=
  [(.EV_SEQ_CTX_FAULT, 0x0101, false), (.EV_CAR_ARM_STALL, 0x0102, false), (.EV_STASH_EXHAUSTED, 0x0103, false),
   (.EV_SS_YIELD_FORCED, 0x0104, false), (.EV_CLK_XING, 0x0105, true), (.EV_CENSUS_LATE, 0x0201, false),
   (.EV_LSCALE_HALVED, 0x0202, false), (.EV_LSCALE_FLOOR, 0x0203, false), (.EV_CMT_COMMIT, 0x0204, false),
   (.EV_CMT_SKIP, 0x0205, false), (.EV_CMT_TIMEOUT, 0x0206, true), (.EV_CMT_OVF_AFTER, 0x0207, false),
   (.EV_UE_XLATE, 0x0208, true), (.EV_UE_NONFINITE, 0x0209, false), (.EV_UE_POISON, 0x020A, true),
   (.EV_MEM_UE, 0x0301, true), (.EV_MEM_LOG_FULL, 0x0302, false), (.EV_QUOTA_OVERSUBSCRIBED, 0x0303, false),
   (.EV_SE_FAULT_LIMIT, 0x0304, false), (.EV_SE_POOL_STALL, 0x0305, false), (.EV_HL_LANE, 0x0401, false),
   (.EV_HL_CROSSED, 0x0402, true), (.EV_HL_DOWN, 0x0403, true), (.EV_HL_HB_LOSS, 0x0404, true),
   (.EV_HL_MISROUTE, 0x0405, false), (.EV_HL_NOROUTE, 0x0406, false), (.EV_HL_SEAL_DROP, 0x0407, true),
   (.EV_HL_SEAL_LOST, 0x0408, true), (.EV_RE_FAULT, 0x0409, true), (.EV_RE_POISON, 0x040A, true),
   (.EV_RE_TIMEOUT, 0x040B, true)]
  ++ ([(.EV_REC_GEN, 0x0501, false), (.EV_REC_RESUME, 0x0502, false), (.EV_REC_DIGEST, 0x0503, true),
   (.EV_REC_NO_COMMON, 0x0504, true), (.EV_REC_STALE, 0x0505, false), (.EV_SUP_RESET, 0x0601, true),
   (.EV_CMD_INTERNAL, 0x0602, true), (.EV_SVC_LEVEL, 0x0603, false), (.EV_SVC_LATE, 0x0604, false),
   (.EV_FW_FALLBACK, 0x0605, true), (.EV_FW_UPDATE, 0x0606, false), (.EV_SNS_WIRING, 0x0701, true),
   (.EV_SNS_LEAK, 0x0702, true), (.EV_SNS_DIE, 0x0703, true), (.EV_PWR_FAIL, 0x0704, true),
   (.EV_PWR_IN_LOST, 0x0705, true), (.EV_PWR_IN_RESTORED, 0x0706, false), (.EV_PWR_IN_REVERSED, 0x0707, true),
   (.EV_PWR_OVERVOLT, 0x0708, true), (.EV_PWR_OVERCURRENT, 0x0709, true), (.EV_PWR_LIMIT, 0x070A, false),
   (.EV_THM_THROTTLE, 0x070B, false), (.EV_THM_CRITICAL, 0x070C, true), (.EV_COOL_LIMIT, 0x070D, false),
   (.EV_ID_RECORD, 0x0801, true), (.EV_POL_INSTALL, 0x0802, false), (.EV_POL_REFUSED, 0x0803, false),
   (.EV_TS_RELEASE, 0x0804, false), (.EV_TS_REFUSED, 0x0805, false), (.EV_TS_BLOCK, 0x0806, false),
   (.EV_EVR_CLEARED, 0x0901, true)] : List (Ev × Nat × Bool))

/-- The code of an event (R508). -/
def Ev.code (e : Ev) : Nat := ((Ev.table.find? (fun r => r.1 = e)).map (fun r => r.2.1)).getD 0

/-- An event of class F starts a flush (R502, R508). -/
def evClassF (code : Nat) : Bool := Ev.table.any (fun r => r.2.1 == code && r.2.2)

/-- A code that is not reserved (R508). -/
def evKnown (code : Nat) : Bool := Ev.table.any (fun r => r.2.1 == code)

namespace State

/-- Raises an event: it is on its way to the recorder (R500) until an EVENT_RAISE delivers it. `unit` and `a` are the SOURCE
unit and the A word of the record. -/
def raise (s : State) (e : Ev) (die unit a : Nat) (slot : Option Nat := none) : State :=
  { s with events := s.events ++ [⟨s.fld .SUP_OPSEC_SECONDS iod0, e.code, die, unit, a, slot⟩] }

end State

end Sys2Proof.Machine
end

