-- ==== Sys2Proof/Machine/Operands.lean ====
section
/-! DEFINITION. Addresses and the words behind them: the physical map (R28 to R31), the HBM and tier-2 maps (R249 to R253), the
hub-ring path (R24), ownership and seal checks (R255, R256, R485 to R489), and reading and writing one stored word at its
visibility point (R37, R38, R262 to R276, R283). -/

namespace Sys2Proof.Machine

/-- What a physical address names (R28, R29). -/
inductive Loc where
  | hbm
  | tier2
  | sram (cd off : Nat)
  | acb (cd arr off : Nat)
  | csr (die off : Nat)
  | hole
  deriving DecidableEq, Repr

def hbmEnd : Nat := 0x12000000000
def tier2Base : Nat := 0x20000000000
def tier2End : Nat := 0x38000000000
def sramBase : Nat := 0x40000000000
def sramSize : Nat := 0x8000000
def acbBase : Nat := 0x40100000000
def acbSize : Nat := 0x400000
def csrBase : Nat := 0xF0000000000

/-- The die_id values of R21. -/
def isDie (d : Nat) : Bool := d < 8 || (0x10 ≤ d && d < 0x14) || d == 0x20 || d == 0x21

/-- Decodes a module physical address (R28). -/
def locOf (a : Nat) : Loc :=
  if a < hbmEnd then .hbm
  else if tier2Base ≤ a && a < tier2End then .tier2
  else if sramBase ≤ a && a < sramBase + 8 * sramSize then .sram ((a - sramBase) / sramSize) ((a - sramBase) % sramSize)
  else if acbBase ≤ a && a < acbBase + 192 * acbSize then
    .acb ((a - acbBase) / acbSize / 24) ((a - acbBase) / acbSize % 24) ((a - acbBase) % acbSize)
  else if csrBase ≤ a && a < csrBase + 0x100 * 0x1000000 && isDie ((a - csrBase) / 0x1000000) then
    .csr ((a - csrBase) / 0x1000000) ((a - csrBase) % 0x1000000)
  else .hole

/-- Address of a stage SRAM byte, of an ACB byte and of a register. -/
def sramAddr (cd off : Nat) : Nat := sramBase + sramSize * cd + off
def acbAddr (cd arr off : Nat) : Nat := acbBase + acbSize * (24 * cd + arr) + off
def csrAddr (die off : Nat) : Nat := csrBase + 0x1000000 * die + off

/-- The six ring nodes in rising order: MH0 to MH3, IOD1, IOD0 (R23). -/
def ringNodeDie (k : Nat) : Nat := if k < 4 then mhDie k else if k = 4 then iodDie 1 else iodDie 0

/-- Segments crossed between two ring nodes, and whether in the rising direction (R24). `odd` is the parity of the granule
index for memory, and even for every other request. -/
def ringPath (src dst : Nat) (odd : Bool) : Nat × Bool :=
  let up := (dst + 6 - src % 6) % 6
  if up < 3 then (up, true) else if up = 3 then (3, !odd) else (6 - up, false)

/-- The first tier-2 frame that R32 reserves for the operating system. -/
def systemFrames : Nat := (0x37000000000 - tier2Base) / 2 ^ 21

/-- A frame at reset (R32, R254): SYSTEM in the reserved range, else FREE. -/
def frameInit (tier n : Nat) : Frame := if tier = 1 && systemFrames ≤ n then { Frame.reset with owner := .system } else Frame.reset

/-- XOR of the low three bits. -/
def xor3 (a b c : Nat) : Nat := (a % 8) ^^^ (b % 8) ^^^ (c % 8)

/-- Poison and seal marks of a tag (R266). -/
def tagPoison (t : Nat) : Bool := t.testBit 0
def tagSealed (t : Nat) : Bool := t.testBit 1
def tagSlot (t : Nat) : Nat := bits t 3 2
def mkTag (poison isSealed : Bool) (slot : Nat) : Nat :=
  (if poison then 1 else 0) + (if isSealed then 2 else 0) + slot % 4 * 4

namespace State

/-- L of R249: a value above 48 is used as 48. -/
def hlGib (s : State) : Nat := min (s.fld .MEM_HBM_SPLIT_HL_GIB mh0) 48

/-- The stack HS(n) and the stack granule of an HBM address (R250, R251). -/
def hbmMap (s : State) (a : Nat) : Nat × Nat :=
  let l := s.hlGib
  let inter := 2 ^ 30 * (24 * (48 - l))
  if a < inter then
    let g := a / 2048
    let t := g / 8
    let n := t / 3
    let c := (t + n) % 3
    let x := xor3 g n (n / 8)
    (6 * (x / 2) + 3 * (x % 2) + c, n)
  else
    let h := (a - inter) / (2 ^ 30 * (6 * l))
    let g := (a - inter) % (2 ^ 30 * (6 * l)) / 2048
    let n := g / 2 / 3
    let c := (g / 2 + n) % 3
    let b := (g + n) % 2
    (6 * h + 3 * b + c, 2 ^ 19 * (48 - l) + n)

/-- The channel T2C(n) of a tier-2 address and its granule there (R253). -/
def t2Map (a : Nat) : Nat × Nat := ((a - tier2Base) / 2048 % 6, (a - tier2Base) / 2048 / 6)

/-- A die is in service (R36). -/
def dieUp (s : State) (d : Nat) : Bool := s.flag .DIE_STATUS_IN_SERVICE d

/-- Stack HS(n) is in service (R31): its hub is, and the stack is among SVC_STATUS.STACKS. -/
def stackUp (s : State) (n : Nat) : Bool := s.dieUp (mhDie (n / 6)) && s.flagBit .SVC_STATUS_STACKS iod0 0 0 n

/-- Whether the storage behind an address is in service (R31). Register windows are judged by R36 elsewhere. -/
def serves (s : State) (a : Nat) : Bool :=
  match locOf a with
  | .hbm => s.stackUp (s.hbmMap a).1
  | .tier2 => s.dieUp (iodDie ((t2Map a).1 / 3))
  | .sram cd _ => s.dieUp cd
  | .acb cd _ _ => s.dieUp cd
  | .csr _ _ => true
  | .hole => false

/-- A frame-map entry. -/
def frame (s : State) (tier n : Nat) : Frame := s.frames.get (frameInit tier n) (Key.at 0 tier n)
def setFrame (s : State) (tier n : Nat) (f : Frame) : State :=
  { s with frames := s.frames.set (frameInit tier n) (Key.at 0 tier n) f }

/-- The frame that holds an address (R254): tier and number. -/
def frameOf (a : Nat) : Option (Nat × Nat) :=
  match locOf a with
  | .hbm => some (0, a / 2 ^ 21)
  | .tier2 => some (1, (a - tier2Base) / 2 ^ 21)
  | _ => none

/-- A stage SRAM block (R256). -/
def block (s : State) (cd n : Nat) : SramBlock := s.blocks.get SramBlock.reset (Key.at cd 0 n)
def setBlock (s : State) (cd n : Nat) (b : SramBlock) : State :=
  { s with blocks := s.blocks.set SramBlock.reset (Key.at cd 0 n) b }

/-- The code class of an address (R268): true for STRONG. -/
def strongAt (s : State) (a : Nat) : Bool :=
  match locOf a with
  | .sram cd off => s.flagBit .SRAM_CLASS_STRONG cd 0 (off / 2 ^ 16 / 64) (off / 2 ^ 16 % 64)
  | .acb _ _ _ => false
  | _ => match frameOf a with
    | some (t, n) => (s.frame t n).strong
    | none => false

/-- A word is being zeroed (R257). -/
def zeroingAt (s : State) (a : Nat) : Bool :=
  match locOf a with
  | .sram cd off => (s.block cd (off / 2 ^ 16)).zeroing
  | _ => match frameOf a with
    | some (t, n) => (s.frame t n).zeroing
    | none => false

/-- Whether region q of an array covers an ACB row. -/
def rgnCovers (s : State) (cd arr q row : Nat) : Bool :=
  let r0 := s.fld .ARR_ACB_RGN_BASE_ROW0 cd arr q
  let n := s.fld .ARR_ACB_RGN_BASE_ROWS cd arr q
  n != 0 && r0 ≤ row && row < r0 + n

/-- A region is stale (R78): its tag is not the current ACB epoch. -/
def rgnStale (s : State) (cd arr q : Nat) : Bool :=
  s.fld .ARR_ACB_RGN_BASE_EPOCH cd arr q != s.fld .ARR_EPOCH_ACB_EPOCH cd arr

/-- A tie region is released once ADDS has reached USES (R195). -/
def rgnTied (s : State) (cd arr q : Nat) : Bool :=
  s.fld .ARR_ACB_RGN_BASE_TIE cd arr q != 0
def rgnReleased (s : State) (cd arr q : Nat) : Bool :=
  s.fld .ARR_ACB_RGN_BASE_USES cd arr q ≤ s.fld .ARR_ACB_RGN_CNT_ADDS cd arr q

/-- The slot record of a region (R256). -/
def region (s : State) (cd arr q : Nat) : Region := s.regions.get Region.reset (Key.at cd arr q)

/-- An access to an ACB word is refused (R72), whether or not its array is power gated (R77; DESIGN CHOICE, log entry 132): no valid
region covers it, or a covering region is stale, tied and not released,
or, for a slot's request, recorded for another slot or none. -/
def acbRefused (s : State) (cd arr off : Nat) (slot : Option Nat) : Bool :=
  let row := off / 1024
  let qs := (List.range 8).filter (fun q => s.rgnCovers cd arr q row)
  qs.isEmpty || qs.any (fun q => s.rgnStale cd arr q || (s.rgnTied cd arr q && !s.rgnReleased cd arr q)
    || (match slot with | some x => (s.region cd arr q).slot != some x | none => false))

end State

/-- The slot a requester acts for. -/
def reqSlot : Requester → Option Nat
  | .unit x => some x.val
  | .update x => some x.val
  | _ => none

/-- The outcome of a check of one word's access: it may go on, it waits for zeroing or for a stopped region (R337), it is a bus error (a hole, a unit out of
service, a frame of another owner, R30, R31, R255), or an ownership error of stage SRAM or an ACB (R72, R256). -/
inductive Admit where
  | ok | wait | bus | access
  deriving DecidableEq, Repr

namespace State

/-- The ring nodes that a request from a node to an address passes, its own and the last among them (R24); the last is the hub or
the I/O die that the address lies on, or the hub of its compute die. -/
def ringNodes (s : State) (src a : Nat) : List Nat :=
  let dst := match locOf a with
    | .hbm => (s.hbmMap a).1 / 6
    | .tier2 => 5 - (t2Map a).1 / 3
    | .sram cd _ => cd / 2
    | .acb cd _ _ => cd / 2
    | _ => src
  let odd := match locOf a with
    | .hbm => a / 2048 % 2 = 1
    | .tier2 => a / 2048 % 2 = 1
    | _ => false
  let p := ringPath src dst odd
  (List.range (p.1 + 1)).map (fun k => if p.2 then (src + k) % 6 else (src + 6 - k) % 6)

/-- A hub on the way of a request is stopped (R337). -/
def wayStopped (s : State) (src a : Nat) : Bool := (s.ringNodes src a).any (fun n => n < 4 && s.stopping (mhDie n))

/-- The ring node that a requester's accesses leave from (R24): a core's I/O die, the supervisor's. The place of a slot's unit is checked
by the unit (log entry 137). -/
def reqNode : Requester → Option Nat
  | .core h _ => some (5 - h.val / 16)
  | .supervisor => some 5
  | _ => none

/-- An access waits for the restart of a region (R337): the one that holds the word, or a hub on the way. -/
def stopHolds (s : State) (req : Requester) (a : Nat) : Bool :=
  (match locOf a with
  | .hbm => s.stopping (mhDie ((s.hbmMap a).1 / 6))
  | .sram cd _ => s.stopping cd
  | .acb cd _ _ => s.stopping cd
  | _ => false) || (match reqNode req with
    | some n => s.wayStopped n a
    | none => false)

/-- Checks one word of an access (R30, R31, R72, R255 to R257, R337). -/
def judge (s : State) (req : Requester) (a : Nat) : Admit :=
  if !s.serves a then .bus
  else if s.zeroingAt a || s.stopHolds req a then .wait
  else match locOf a with
    | .sram cd off => match reqSlot req with
      | some x => if (s.block cd (off / 2 ^ 16)).owner = some x then .ok else .access
      | none => .ok
    | .acb cd arr off => if s.acbRefused cd arr off (reqSlot req) then (if (reqSlot req).isSome then .access else .bus) else .ok
    | .csr _ _ => .bus
    | .hole => .bus
    | _ =>
      match frameOf a with
      | none => .bus
      | some (t, n) =>
        let f := s.frame t n
        match req with
        | .unit x => if f.owner = .slot x.val && f.use != .lo then .ok else .bus
        | .update x => if f.owner = .slot x.val then .ok else .bus
        | _ => .ok

/-- The controller that owns an address and keeps an error table (R275): die and unit of its error block. -/
def errBlock (s : State) (a : Nat) : Option (Nat × Nat) :=
  match locOf a with
  | .hbm => let n := (s.hbmMap a).1; some (mhDie (n / 6), n % 6)
  | .tier2 => let n := (t2Map a).1; some (iodDie (n / 3), n % 3)
  | .sram cd off => some (cd, off / 2 ^ 25)
  | _ => none

/-- OP_SECONDS, as the error log takes it (R285). -/
def opSeconds (s : State) : Nat := s.fld .SUP_OPSEC_SECONDS iod0

/-- Logs a corrected word in the error block of a controller (R274): die and unit of the block, the word's address and class. The
event is raised once each time the table has filled. -/
def logAt (s : State) (d u a syn pos : Nat) (strong : Bool) : State :=
  let s := s.incSat .ERR_CNT_CE_COUNT d u 0
  let word := a / 32
  match (List.range 16).find? (fun i => s.flag .ERR_LOG_ADDR_VALID d u i && s.fld .ERR_LOG_ADDR_ADDR d u i = word) with
  | some i => s.incSat .ERR_LOG_ADDR_REPEAT d u i
  | none =>
    match (List.range 16).find? (fun i => !s.flag .ERR_LOG_ADDR_VALID d u i) with
    | some i =>
      let s := ((s.setFld .ERR_LOG_ADDR_VALID d u i 1).setFld .ERR_LOG_ADDR_CLASS d u i (if strong then 1 else 0)).setFld
        .ERR_LOG_ADDR_ADDR d u i word
      let s := (s.setFld .ERR_LOG_ADDR_REPEAT d u i 0).setFld .ERR_LOG_SYN_SYN d u i syn
      let s := (s.setFld .ERR_LOG_SYN_POS d u i pos).setFld .ERR_LOG_SYN_FIRST d u i s.opSeconds
      { s with logTold := s.logTold.set false (Key.at d u) false }
    | none =>
      let s := s.incSat .CE_UNLOGGED_COUNT d u 0
      if s.logTold.get false (Key.at d u) then s
      else { s with logTold := s.logTold.set false (Key.at d u) true }.raise .EV_MEM_LOG_FULL d u
        (16 + 2 ^ 5 + s.fld .ERR_STATUS_UE_SEEN d u * 2 ^ 6)

/-- Counts and logs a corrected word (R274, R275). -/
def logCorrected (s : State) (a syn pos : Nat) (strong : Bool) : State :=
  match s.errBlock a with
  | none => match locOf a with
    | .acb cd arr _ => s.incFld .ARR_CNT_CE_COUNT cd arr 0
    | _ => s
  | some e => s.logAt e.1 e.2 a syn pos strong

/-- Counts and records an uncorrectable word (R276). -/
def logUncorrectable (s : State) (a : Nat) (strong : Bool) : State :=
  match s.errBlock a with
  | none => s
  | some (d, u) =>
    let s := (s.incSat .ERR_CNT_UE_COUNT d u 0).setFld .ERR_STATUS_UE_SEEN d u 0 1
    let s := ((s.setFld .ERR_UE_ADDR_VALID d u 0 1).setFld .ERR_UE_ADDR_CLASS d u 0 (if strong then 1 else 0)).setFld
      .ERR_UE_ADDR_ADDR d u 0 (a / 32)
    s.raise .EV_MEM_UE d u (1 + (if strong then 2 else 0) + a / 32 * 4)

/-- A word of an ACB that has lost power since the word was last written (R77): its age is not its ACB's. -/
def acbLost (s : State) (a : Nat) : Option Nat :=
  match locOf a with
  | .acb cd arr off =>
    let seed := s.acbSeed.get 0 (Key.at cd arr)
    if s.acbAge.get 0 (Key.at cd arr (off / 32)) = seed then none else some seed
  | _ => none

/-- The 256 data bits stored at a word address, and its side field. What an ACB word holds after its power was gated is a free
value (log entry 7). -/
def rawData (s : State) (a : Nat) : Nat :=
  match s.acbLost a with
  | some seed => (Config.lostData seed (a / 32)).toNat
  | none => leNat (s.mem.readBytes (a / 32 * 32) 32)
def rawSide (s : State) (a : Nat) : Nat :=
  match s.acbLost a with
  | some seed => (Config.lostSide seed (a / 32)).toNat
  | none => s.side.get 0 (Key.at 0 0 (a / 32))

/-- Stores data and side field as given (R284 and the end of every write). -/
def storeRaw (s : State) (a data side : Nat) : State :=
  let s := match locOf a with
    | .acb cd arr off =>
      { s with acbAge := s.acbAge.set 0 (Key.at cd arr (off / 32)) (s.acbSeed.get 0 (Key.at cd arr)) }
    | _ => s
  { s with mem := s.mem.writeBytes (a / 32 * 32) (leBytes 32 data),
           side := s.side.set 0 (Key.at 0 0 (a / 32)) (side % 2 ^ 32) }

/-- Stores a word with a fresh code of its place's class (R38, R268). -/
def storeWord (s : State) (a : Nat) (w : Word) : State :=
  s.storeRaw a w.data (sideFor (s.strongAt a) w.data w.tag)

/-- Reads one word at its controller with decoding, correction, counting and poisoning (R274, R276). -/
def decodeAt (s : State) (a : Nat) : Word × State :=
  let strong := s.strongAt a
  match decodeWord strong (s.rawData a) (s.rawSide a) with
  | .clean d t => (⟨d, t⟩, s)
  | .corrected d t syn pos => (⟨d, t⟩, s.logCorrected a syn pos strong)
  | .uncorrectable d t =>
    let w : Word := ⟨d, t % 16 / 2 * 2 + 1⟩
    (w, (s.logUncorrectable a strong).storeWord a w)

/-- The hub and line address of an HBM word (R262). -/
def hubLine (s : State) (a : Nat) : Nat × Nat := ((s.hbmMap a).1 / 6, a / 256)

/-- The set of a line: the cache has 65,536 sets of 16 ways (R262). -/
def hubSet (line : Nat) : Nat := Config.hubCacheSet line % 65536

/-- The lines of a hub's cache that lie in the set of a line. -/
def hcSet (s : State) (hub line : Nat) : List (Key × HcLine) :=
  s.hcLines.entries (fun k => k.d == hub && decide (hubSet k.i = hubSet line))

/-- HC_SLOT_LINES: lines of a hub that a slot holds (R263). -/
def hcHeld (s : State) (hub slot : Nat) : Nat := ((s.hcLines.filter (fun e => e.1.d == hub && e.2.slot == slot))).length

/-- The least recently used of a list of lines. -/
def lruOf : List (Key × HcLine) → Option (Key × HcLine)
  | [] => none
  | e :: es => match lruOf es with
    | none => some e
    | some r => if e.2.used ≤ r.2.used then some e else some r

def hcDefault : HcLine := ⟨0, 0, [], []⟩

/-- Reads the eight words of a line at their controller (R262, R264, R282): each is decoded, counted and, where it must be, poisoned. -/
def lineWords (s : State) (line : Nat) : List Word × State :=
  (List.range 8).foldl (fun (x : List Word × State) k => let r := x.2.decodeAt (line * 256 + 32 * k); (x.1 ++ [r.1], r.2)) ([], s)

/-- Puts a line into a hub's cache for a slot's miss, under the replacement rule of R263: below its share the slot takes a free way or
replaces the LRU line of the set, at its share its own LRU line there, and with no line there it does not allocate. -/
def hcFill (s : State) (hub line slot : Nat) (words : List Word) : State :=
  let put (s : State) : State :=
    { s with hcLines := s.hcLines.set hcDefault (Key.at hub 0 line) ⟨slot, s.hcClock + 1, words, []⟩, hcClock := s.hcClock + 1 }
  let set := s.hcSet hub line
  let share := 4096 * s.fld .QTA_HCACHE_LIMIT mh0 slot
  if s.hcHeld hub slot < share then
    if set.length < 16 then put s
    else match lruOf set with
      | some e => put { s with hcLines := s.hcLines.erase e.1 }
      | none => put s
  else match lruOf (set.filter (fun e => e.2.slot == slot)) with
    | some e => put { s with hcLines := s.hcLines.erase e.1 }
    | none => s

/-- The open entry of a hub's merge window for a line (R264). -/
def mergeOpen (s : State) (hub line : Nat) : Option MergeEntry :=
  s.merges.find? (fun m => m.hub == hub && m.line == line && m.requesters < 32
    && decide (s.now < m.opened + Config.hbmReadTicks))

/-- A read that joins an open entry of the merge window (R264): the entry's own read of the line has counted and rewritten what its
controller met. -/
def readMerged (s : State) (a : Nat) : Word :=
  match decodeWord (s.strongAt a) (s.rawData a) (s.rawSide a) with
  | .clean d t => ⟨d, t⟩
  | .corrected d t _ _ => ⟨d, t⟩
  | .uncorrectable d t => ⟨d, t % 16 / 2 * 2 + 1⟩

/-- The slot that owns the place of a word, for a requester that acts for no slot (log entry 6). -/
def ownerSlotAt (s : State) (a : Nat) : Nat :=
  match locOf a with
  | .sram cd off => ((s.block cd (off / 2 ^ 16)).owner).getD 0
  | _ => match frameOf a with
    | some (t, n) => match (s.frame t n).owner with
      | .slot x => x
      | _ => 0
    | none => 0

/-- The slot whose miss a read is (R262, R263): none for a requester that never allocates. A core acts for the slot of its CORE_AUTH
register (R437), and without one, like the supervisor, for the owner of the place (log entry 6). -/
def missSlot (s : State) (req : Requester) (a : Nat) : Option Nat :=
  match req with
  | .unit x => some x.val
  | .update _ => none
  | .snapshot => none
  | .supervisor => some (s.ownerSlotAt a)
  | .core h _ =>
    if s.flag .CORE_AUTH_VALID (iodDie (h.val / 16)) 0 (h.val % 16) then some (s.fld .CORE_AUTH_SLOT (iodDie (h.val / 16)) 0 (h.val % 16))
    else some (s.ownerSlotAt a)

end State

/-- Checks a word that travels or stands under the LIGHT class (R268, R272): `err` is the error in its check bits. -/
def checkLight (w : Word) (err : Nat) : Decoded :=
  if err = 0 then .clean w.data w.tag else lightDecode w.data (lightSide w.data w.tag ^^^ err * 2 ^ 8 % 2 ^ 32)

/-- Syndrome and position of a LIGHT word that fails its check; those of an uncorrectable one are its syndrome and no position. -/
def lightFailure (w : Word) (err : Nat) : Option (Nat × Option Nat) :=
  match checkLight w err with
  | .clean _ _ => none
  | .corrected _ _ syn pos => some (syn, some pos)
  | .uncorrectable _ _ => some (err % 2 ^ 9 + parity 10 err * 2 ^ 9 + err / 2 ^ 10 % 2 ^ 14 * 2 ^ 10, none)

namespace State

/-- A word that fails its check in a cache line (R265): the line is invalidated, and one corrected error counts in the hub cache's error
block, unit 6 of the hub. The position logged for a word that LIGHT could not correct is a free value (log entry 131). -/
def lineFails (s : State) (hub line a syn : Nat) (pos : Option Nat) : State :=
  let s := { s with hcLines := s.hcLines.erase (Key.at hub 0 line) }
  match pos with
  | some p => s.logAt (mhDie hub) 6 a syn p false
  | none => let f := s.takeFree; f.2.logAt (mhDie hub) 6 a syn (f.1 % 2 ^ 9) false

/-- Reads a word that no line serves (R262 to R264): it joins an open entry of the merge window, or its line is read at the controller
and, for a requester that allocates, kept. -/
def fetchMiss (s : State) (req : Requester) (a : Nat) : Word × State :=
  let (hub, line) := s.hubLine a
  let d := mhDie hub
  match (if s.flag .HC_CTL_MERGE d then s.mergeOpen hub line else none) with
  | some m =>
    let w := s.readMerged a
    let s := s.incFld .HC_CNT_MERGED_COUNT d 0 0
    (w, { s with merges := s.merges.map (fun x => if x = m then { x with requesters := x.requesters + 1 } else x) })
  | none =>
    let s := s.incFld .HC_CNT_MISS_COUNT d 0 0
    let full := decide (64 ≤ (s.merges.filter (fun (x : MergeEntry) => x.hub == hub)).length)
    let live := if full then s.merges.filter (fun x => decide (s.now < x.opened + Config.hbmReadTicks)) else s.merges
    let room := decide ((live.filter (fun (x : MergeEntry) => x.hub == hub)).length < 64)
    let s := { s with merges := if room then live ++ [MergeEntry.mk hub line s.now 1] else live }
    let slot := s.missSlot req a
    let r := s.lineWords line
    let w := r.1.getD (a / 32 % 8) ⟨0, 0⟩
    match slot with
    | some x => (w, if r.2.flag .HC_CTL_EN d then r.2.hcFill hub line x r.1 else r.2)
    | none => (w, r.2)

/-- Reads one word through the hub cache and the merge window (R262 to R265), or from its controller. -/
def fetchWord (s : State) (req : Requester) (a : Nat) : Word × State :=
  match locOf a with
  | .hbm =>
    let (hub, line) := s.hubLine a
    let d := mhDie hub
    match (if s.flag .HC_CTL_EN d then s.hcLines.find? (Key.at hub 0 line) else none) with
    | some l =>
      let w := l.words.getD (a / 32 % 8) ⟨0, 0⟩
      match lightFailure w (l.errs.get 0 (Key.at 0 0 (a / 32 % 8))) with
      | some e => (s.lineFails hub line a e.1 e.2).fetchMiss req a
      | none =>
        let s := s.incFld .HC_CNT_HIT_COUNT d 0 0
        (w, { s with hcLines := s.hcLines.set hcDefault (Key.at hub 0 line) { l with used := s.hcClock + 1 }, hcClock := s.hcClock + 1 })
    | none => s.fetchMiss req a
  | _ => s.decodeAt a

/-- Whether the place of a word is a frame with SEAL = 1 (R486). -/
def sealFrameAt (s : State) (a : Nat) : Bool :=
  match frameOf a with
  | some (t, n) => (s.frame t n).isSealed
  | none => false

/-- The armed flip that a slot's write of an address meets (R283): its XOR masks. -/
def flipFor (s : State) (slot a : Nat) : Option (Nat × Nat) :=
  if !s.flag .FLIP_CTL_ARM mh0 slot then none
  else
    let k := s.fld .FLIP_CTL_KIND mh0 slot
    let i := s.fld .FLIP_CTL_INDEX mh0 slot
    let hit := match locOf a with
      | .hbm => k == 0 && i == (s.hbmMap a).1
      | .tier2 => k == 1 && i == (t2Map a).1
      | .sram cd off => k == 2 && i == cd * 4 + off / 2 ^ 25
      | _ => false
    if hit then
      let m := s.fld .FLIP_SIDE_MASK mh0 slot
      some (s.fld .FLIP_DATA_MASK mh0 slot, m - m / 2 % 8 * 2)
    else none

/-- Drops the open merge entries of a line: a read that arrives after the write joins none of them (R264). -/
def closeMerge (s : State) (a : Nat) : State :=
  match locOf a with
  | .hbm => let (hub, line) := s.hubLine a
    { s with merges := s.merges.filter (fun m => !(m.hub == hub && m.line == line)) }
  | _ => s

/-- Writes through to a present hub-cache line (R262). -/
def hcUpdate (s : State) (a : Nat) (w : Word) : State :=
  match locOf a with
  | .hbm =>
    let (hub, line) := s.hubLine a
    match s.hcLines.find? (Key.at hub 0 line) with
    | some l =>
      let n := a / 32 % 8
      let l := { l with words := l.words.set n w, errs := l.errs.set 0 (Key.at 0 0 n) 0 }
      { s with hcLines := s.hcLines.set hcDefault (Key.at hub 0 line) l }
    | none => s
  | _ => s

/-- Writes one whole word at its visibility point (R38, R266, R283, R486, R493): the SEALED mark of a sealed frame, the slot of
the writer, a fresh code, an armed flip, and SEALED_RUN. -/
def writeWord (s : State) (req : Requester) (a data : Nat) (poison isSealed : Bool) : State :=
  let slot := (reqSlot req).getD (s.ownerSlotAt a)
  let mark := isSealed || s.sealFrameAt a
  let w : Word := ⟨data % 2 ^ 256, mkTag poison mark slot⟩
  let s := (s.closeMerge a).hcUpdate a w
  let s := if mark then s.setFld .SLQ_STATE_SEALED_RUN iod0 slot 0 1 else s
  match (reqSlot req).bind (fun x => s.flipFor x a) with
  | some (dm, sm) =>
    let s := s.storeRaw a (w.data ^^^ dm) (sideFor (s.strongAt a) w.data w.tag ^^^ sm)
    (s.setFld .FLIP_CTL_ARM mh0 slot 0 0).setFld .FLIP_CTL_DONE mh0 slot 0 1
  | none => s.storeWord a w

/-- Merges a narrower write into a word (R38, R278): bytes `off` on are replaced; a poisoned or uncorrectable word stays
poisoned, and a sealed one stays sealed unless the whole word is written (R487). -/
def mergeWord (s : State) (req : Requester) (a : Nat) (off : Nat) (bs : List Byte) (poison isSealed : Bool) : State :=
  if off = 0 && bs.length = 32 then s.writeWord req a (leNat bs) poison isSealed
  else
    let r := s.decodeAt a
    let old := leBytes 32 r.1.data
    let new := old.take off ++ bs ++ old.drop (off + bs.length)
    r.2.writeWord req a (leNat new) (poison || tagPoison r.1.tag) (isSealed || tagSealed r.1.tag)

end State

/-- The pieces of a byte range by word: word address, offset in the word and bytes. -/
def wordPieces : Nat → Nat → List Byte → List (Nat × Nat × List Byte)
  | 0, _, _ => []
  | fuel + 1, a, bs =>
    if bs.isEmpty then []
    else
      let off := a % 32
      let n := 32 - off
      (a - off, off, bs.take n) :: wordPieces fuel (a - off + 32) (bs.drop n)

/-- The word addresses that a byte range touches. -/
def wordsOf (a n : Nat) : List Nat := if n = 0 then [] else (List.range ((a + n - 1) / 32 - a / 32 + 1)).map (fun k => (a / 32 + k) * 32)

/-- What reading a word gives a unit: the word, or why not. -/
inductive Got where
  | word (w : Word)
  | wait | bus | access
  deriving DecidableEq, Repr

namespace State

/-- Reads one word for a requester (R255, R256, R488): a slot's unit receives no SEALED word of another slot. -/
def readFor (s : State) (req : Requester) (a : Nat) : Got × State :=
  match s.judge req a with
  | .wait => (.wait, s)
  | .bus => (.bus, s)
  | .access => (.access, s)
  | .ok =>
    let r := s.fetchWord req a
    match reqSlot req with
    | some x => if tagSealed r.1.tag && tagSlot r.1.tag != x then (.access, r.2) else (.word r.1, r.2)
    | none => (.word r.1, r.2)

/-- Writes a byte range for a requester, word by word; each word stands alone (R30). -/
def writeFor (s : State) (req : Requester) (a : Nat) (bs : List Byte) (poison isSealed : Bool) : State :=
  (wordPieces (bs.length + 1) a bs).foldl (fun s p =>
    if s.judge req p.1 = .ok then s.mergeWord req p.1 p.2.1 p.2.2 poison isSealed else s) s

/-- Every word of a byte range may be accessed. -/
def admitAll (s : State) (req : Requester) (a n : Nat) : Bool := (wordsOf a n).all (fun w => s.judge req w = .ok)

/-- Zeroes a byte range with zero tags: valid words of either class (R257). -/
def zeroRange (s : State) (a n : Nat) : State :=
  { s with mem := s.mem.zero a n, side := s.side.clear (fun k => a / 32 ≤ k.i && k.i < (a + n) / 32),
           hcLines := s.hcLines.clear (fun k => a / 256 ≤ k.i && k.i < (a + n) / 256) }

end State

end Sys2Proof.Machine
end

