-- ==== Sys2Proof/Machine/Mesh.lean ====
section
/-! DEFINITION. The on-die mesh of a compute die (R320 to R324, R330, R331): routers and their endpoints, the edge ports, packets and
their routes, what MESH_CNT_FLITS counts, and the entries that pass the mesochronous crossings. A packet passes the mesh within the
command that sends it, without contention (log entry 8). -/

namespace Sys2Proof.Machine

/-- The carousel group of array n (R87). -/
def arrGroup (n : Nat) : Nat := if n < 8 then n / 2 else (n - 8) / 4

/-- The endpoints of the mesh (R321) and the edge ports HP0 to HP23 (R322). -/
inductive MeshEnd where
  | se (n : Nat)
  | sramA (q : Nat)
  | sramB (q : Nat)
  | ve (n : Nat)
  | gateway (q : Nat)
  | acb (q : Nat)
  | sequencer
  | csr
  | edge (k : Nat)
  deriving DecidableEq, Repr

/-- The router at position (a, b) of quadrant q, counted from the die's corner (R321). -/
def quadRouter (q a b : Nat) : Nat × Nat := (if q % 2 = 0 then a else 5 - a, if q / 2 = 0 then b else 5 - b)

/-- The router that holds edge port k, clockwise from MR(0, 0) (R322). -/
def edgeRouter (k : Nat) : Nat × Nat :=
  if k < 6 then (k, 0) else if k < 12 then (5, k - 6) else if k < 18 then (17 - k, 5) else (0, 23 - k)

/-- The router of an endpoint (R321, R322). -/
def MeshEnd.router : MeshEnd → Nat × Nat
  | .se n => quadRouter (n / 2) (if n % 2 = 0 then 0 else 2) (if n % 2 = 0 then 0 else 2)
  | .sramA q => quadRouter q 1 0
  | .sramB q => quadRouter q 0 1
  | .ve n => quadRouter (n / 2) (if n % 2 = 0 then 2 else 0) (if n % 2 = 0 then 0 else 2)
  | .gateway q => quadRouter q 1 1
  | .acb q => quadRouter q 2 1
  | .sequencer => quadRouter 0 1 2
  | .csr => quadRouter 1 1 2
  | .edge k => edgeRouter k

/-- The places from one to another along a line, without the first. -/
def lineTo (a b : Nat) : List Nat :=
  if a ≤ b then (List.range (b - a)).map (fun k => a + k + 1) else (List.range (a - b)).map (fun k => a - k - 1)

/-- The routers that a packet enters after its first: along the row, then along the column (R324). -/
def meshPath (a b : Nat × Nat) : List (Nat × Nat) := (lineTo a.1 b.1).map (fun x => (x, a.2)) ++ (lineTo a.2 b.2).map (fun y => (b.1, y))

/-- The crossing that the link between two neighbouring routers passes (R330), if any. -/
def linkCrossing (a b : Nat × Nat) : Option Nat :=
  if a.1 = 2 && b.1 = 3 then some (56 + a.2)
  else if a.1 = 3 && b.1 = 2 then some (62 + a.2)
  else if a.2 = 2 && b.2 = 3 then some (68 + a.1)
  else if a.2 = 3 && b.2 = 2 then some (74 + a.1)
  else none

/-- The crossing of the fill state of bobbin b of array n, 2n + b in `bob` (R330). -/
def fillCrossing (bob : Nat) : Nat := 8 + bob

/-- The crossings that a path passes. -/
def pathCrossings : Nat × Nat → List (Nat × Nat) → List Nat
  | _, [] => []
  | a, b :: t => (linkCrossing a b).toList ++ pathCrossings b t

/-- The packets of the mesh (R323), with the bytes they carry. -/
inductive MeshPacket where
  | readRequest
  | write (bytes : Nat)
  | posted (bytes : Nat)
  | csrRequest
  | readResponse (bytes : Nat)
  | writeAck
  | csrResponse
  | notice
  deriving DecidableEq, Repr

/-- The two virtual channels (R323). -/
inductive MeshVc where
  | req | rsp
  deriving DecidableEq, Repr

def MeshPacket.vc : MeshPacket → MeshVc
  | .readRequest => .req
  | .write _ => .req
  | .posted _ => .req
  | .csrRequest => .req
  | .readResponse _ => .rsp
  | .writeAck => .rsp
  | .csrResponse => .rsp
  | .notice => .rsp

/-- Flits of a packet (R320, R323): 128 bytes each, at least one and at most 16. -/
def MeshPacket.flits : MeshPacket → Nat
  | .write n => max 1 ((n + 127) / 128)
  | .posted n => max 1 ((n + 127) / 128)
  | .readResponse n => max 1 ((n + 127) / 128)
  | _ => 1

/-- The endpoint or edge port that a physical address is reached through (R321, R322): HP(g mod 24) for a granule g of memory. Which
of its two ports serves a word of a stage SRAM group is the model's choice (DESIGN CHOICE, log entry 130): the words alternate. -/
def meshEndOf (a : Nat) : MeshEnd :=
  match locOf a with
  | .sram _ off => if off / 32 % 2 = 0 then .sramA (off / 2 ^ 25) else .sramB (off / 2 ^ 25)
  | .acb _ arr _ => .acb (arrGroup arr)
  | .csr _ _ => .csr
  | _ => .edge (a / 2048 % 24)

/-- Mesh outputs that a packet leaves by: one per link, and an edge port at its end (MESH_CNT_FLITS). -/
def meshOutputs (src dst : MeshEnd) : Nat :=
  (meshPath src.router dst.router).length + (match dst with
    | .edge _ => 1
    | _ => 0)

namespace State

/-- Entries pass a crossing of a die: the writer's and the reader's sequence go on together, modulo 8 (R331). -/
def crossEntries (s : State) (cd k n : Nat) : State :=
  { s with crossings := s.crossings.modify 0 (Key.at cd k) (fun x => (x + n) % 8) }

/-- A packet goes through the mesh of a die (R323, R324): every mesh output and edge port it leaves by counts its flits. A one-flit
packet stays two beats in a router without contention (R326). -/
def meshSend (s : State) (cd : Nat) (p : MeshPacket) (src dst : MeshEnd) : State :=
  let s := s.incFld .MESH_CNT_FLITS_COUNT cd 0 0 (p.flits * meshOutputs src dst)
  let s := if p.flits = 1 then s.setFld .MESH_PEAK_PEAK cd 0 0 (max 2 (s.fld .MESH_PEAK_PEAK cd)) else s
  (pathCrossings src.router (meshPath src.router dst.router)).foldl (fun s k => s.crossEntries cd k p.flits) s

/-- A read of one word by an endpoint of a die: a request there and a response back. Each word is a packet of its own (DESIGN CHOICE,
log entry 130). -/
def meshRead (s : State) (cd : Nat) (src : MeshEnd) (a : Nat) : State :=
  (s.meshSend cd .readRequest src (meshEndOf a)).meshSend cd (.readResponse 32) (meshEndOf a) src

/-- A write of one word by an endpoint of a die, and its acknowledgement. -/
def meshWrite (s : State) (cd : Nat) (src : MeshEnd) (a : Nat) : State :=
  (s.meshSend cd (.write 32) src (meshEndOf a)).meshSend cd .writeAck (meshEndOf a) src

/-- A posted write of n bytes (R316, R323): from the sequencer port, with its acknowledgement back there. -/
def meshPosted (s : State) (cd a n : Nat) : State :=
  (s.meshSend cd (.posted n) .sequencer (meshEndOf a)).meshSend cd .writeAck (meshEndOf a) .sequencer

/-- The completion notice of a wait counter of R154 (R323): from the unit, or through HP0 from a hub or an I/O die, to the
sequencer. -/
def meshNotice (s : State) (cd n : Nat) : State :=
  if 0x50 ≤ n && n < 0x58 then s.meshSend cd .notice (.ve (n - 0x50)) .sequencer
  else if 0x58 ≤ n && n < 0x60 then s.meshSend cd .notice (.se (n - 0x58)) .sequencer
  else if n = 0x60 then s.meshSend cd .notice .sequencer .sequencer
  else if n = 0x61 || n = 0x62 then s.meshSend cd .notice (.edge 0) .sequencer
  else s

/-- An access that comes to a die from outside, to a word of its stage SRAM or ACB windows: by HP0. -/
def meshOuter (s : State) (a : Nat) (write : Bool) : State :=
  let go (cd : Nat) : State := if write then s.meshWrite cd (.edge 0) a else s.meshRead cd (.edge 0) a
  match locOf a with
  | .sram cd _ => go cd
  | .acb cd _ _ => go cd
  | _ => s

end State

end Sys2Proof.Machine
end

