-- ==== Sys2Proof/Machine/Queues.lean ====
section
/-! DEFINITION. What the module itself reads and writes in memory it owns, the completion queues with their replies and notices
(R447, R528), and the report of a bus error to a context (R165). -/

namespace Sys2Proof.Machine

namespace State

/-- Stores bytes of the module itself into memory it owns (queues, images), word by word (R38). -/
def ownWrite (s : State) (a : Nat) (bs : List Byte) : State :=
  (wordPieces (bs.length + 1) a bs).foldl (fun s p => s.mergeWord .supervisor p.1 p.2.1 p.2.2 false false) s

/-- Reads the words from a word address on, as the module itself does: their bytes, and whether one of them is poisoned. -/
def ownWords : Nat → Nat → State → List Byte × Bool × State
  | 0, _, s => ([], false, s)
  | n + 1, a, s =>
    let r := s.fetchWord .supervisor a
    let rest := ownWords n (a + 32) r.2
    (leBytes 32 r.1.data ++ rest.1, tagPoison r.1.tag || rest.2.1, rest.2.2)

/-- Reads `n` bytes of memory that the module owns. -/
def ownRead (s : State) (a n : Nat) : List Byte × Bool × State :=
  let r := ownWords (wordsOf a n).length (a / 32 * 32) s
  ((r.1.drop (a % 32)).take n, r.2)

/-- Bytes padded with zeros to a length. -/
def padTo (n : Nat) (bs : List Byte) : List Byte := (bs ++ List.replicate n 0).take n

/-- Completion-queue entries in use (R447): from HEAD to TAIL. -/
def cplUsed (s : State) (slot : Nat) : Nat :=
  let size := s.fld .SLQ_CPL_CTL_SIZE iod0 slot
  if size = 0 then 0
  else (s.fld .SLQ_CPL_CTL_TAIL iod0 slot + size - s.fld .SLQ_CPL_CTL_HEAD iod0 slot % size) % size

/-- Whether the completion queue can take another entry beside those kept for the completions of running commands (R445). -/
def cplRoom (s : State) (slot : Nat) : Bool :=
  s.cplUsed slot + s.cplOwed.get 0 (Key.at 0 slot) + 1 < s.fld .SLQ_CPL_CTL_SIZE iod0 slot

/-- Writes one 32-byte entry at TAIL, advances TAIL and raises the slot's interrupt (R447). -/
def cplPush (s : State) (slot : Nat) (entry : List Byte) : State :=
  let size := s.fld .SLQ_CPL_CTL_SIZE iod0 slot
  let tail := s.fld .SLQ_CPL_CTL_TAIL iod0 slot
  let s := s.ownWrite (s.fld .SLQ_CPL_BASE_BASE iod0 slot * 32 + tail * 32) entry
  let s := s.setFld .SLQ_CPL_CTL_TAIL iod0 slot 0 (if tail + 1 < size then tail + 1 else 0)
  { s with irq := s.irq.modify 0 (Key.at 0 slot) (· + 1) }

/-- Writes the reply that a queue command or an abort from the window owes its slot (R445 to R447): a reply of the queue uses the
entry kept for it, and one of the window waits until an entry is free. -/
def cplReply (s : State) (slot : Nat) (kept : Bool) (entry : List Byte) : State :=
  if kept then { s with cplOwed := s.cplOwed.modify 0 (Key.at 0 slot) (· - 1) }.cplPush slot entry
  else if s.cplRoom slot then s.cplPush slot entry
  else { s with replies := s.replies.modify [] (Key.at 0 slot) (· ++ [entry]) }

/-- Moves waiting replies and then notices into the queue while it has room (R447). -/
def drainNotices (s : State) (slot : Nat) : Nat → State
  | 0 => s
  | fuel + 1 =>
    if !s.cplRoom slot then s
    else match s.replies.get [] (Key.at 0 slot), s.notices.get [] (Key.at 0 slot) with
      | e :: rest, _ => drainNotices ({ s.cplPush slot e with replies := s.replies.set [] (Key.at 0 slot) rest }) slot fuel
      | [], e :: rest => drainNotices ({ s.cplPush slot e with notices := s.notices.set [] (Key.at 0 slot) rest }) slot fuel
      | [], [] => s

/-- Posts a notice (R447, R528): OPCODE 0, TAG 0, the notice code, the slot and INFO. It waits in the 64-entry holding buffer
while the queue is full, and is dropped when that is full too. -/
def notice (s : State) (slot code : Nat) (info : List Byte) : State :=
  let entry := leBytes 2 0 ++ leBytes 2 0 ++ leBytes 2 code ++ leBytes 1 slot ++ leBytes 1 0 ++ padTo 24 info
  let held := s.notices.get [] (Key.at 0 slot)
  if held.isEmpty && s.cplRoom slot then s.cplPush slot entry
  else if held.length < 64 then { s with notices := s.notices.set [] (Key.at 0 slot) (held ++ [entry]) }
  else (s.incFld .SLQ_CNT_DROP_COUNT iod0 slot 0).setFld .SLQ_EVENTS_OVERFLOW iod0 slot 0 1

/-- The states of a context (SEQ_CTX_STATE). -/
def ctxState (s : State) (cd c : Nat) : Nat := s.fld .SEQ_CTX_STATE_STATE cd 0 c
def setCtxState (s : State) (cd c v : Nat) : State := s.setFld .SEQ_CTX_STATE_STATE cd 0 c v
def ctxSlot (s : State) (cd c : Nat) : Nat := s.fld .SEQ_CTX_STATE_SLOT cd 0 c

end State

/-- Codes of SEQ_CTX_STATE.STATE. -/
def ctxFree : Nat := 0
def ctxReady : Nat := 1
def ctxRunning : Nat := 2
def ctxWaiting : Nat := 3
def ctxStalled : Nat := 4
def ctxFaulted : Nat := 5
def ctxDone : Nat := 6

/-- Causes of SEQ_CTX_FAULT.CAUSE. -/
def causeBadInst : Nat := 1
def causeArray : Nat := 2
def causeFeeder : Nat := 3
def causeCarousel : Nat := 4
def causeStream : Nat := 5
def causeBadFmt : Nat := 6
def causeStash : Nat := 7
def causeMemory : Nat := 8
def causeYield : Nat := 9
def causeAborted : Nat := 10

namespace State

/-- The contexts of a die that may run: READY. -/
def readyCtxs (s : State) (cd : Nat) : List Nat := (List.range 4).filter (fun c => s.ctxState cd c = ctxReady)

/-- The next context of R162: non-sideshow before sideshow, and among equals the lowest number above the one that ran last,
wrapping. -/
def pickCtx (s : State) (cd : Nat) : Option Nat :=
  let last := s.lastRan.get 0 (Key.at cd)
  let order := (List.range 4).map (fun k => (last + k) % 4)
  let ready := order.filter (fun c => s.ctxState cd c = ctxReady)
  match ready.find? (fun c => s.fld .SEQ_CTX_STATE_SIDESHOW cd 0 c = 0) with
  | some c => some c
  | none => ready.head?

/-- Runs a context from a beat on (R164): the switch costs two beats. -/
def runCtx (s : State) (cd c beat : Nat) : State :=
  let s := (s.setCtxState cd c ctxRunning).setFld .SEQ_STATUS_RUNNING cd 0 0 c
  let s := s.setFld .SEQ_STATUS_IDLE cd 0 0 0
  { s with lastRan := s.lastRan.set 0 (Key.at cd) (c + 1),
           ctxs := s.ctxs.modify Ctx.reset (Key.at cd 0 c) (fun x => { x with earliest := max x.earliest beat }) }

/-- The sequencer chooses at a boundary in beat `t` after the running context left it (R162, R164). Where no context of a
non-sideshow slot is READY, the starts that a yield held may go (R395). -/
def switchCtx (s : State) (cd t : Nat) : State :=
  match s.pickCtx cd with
  | some c =>
    let s := if s.flag .SEQ_CTX_STATE_SIDESHOW cd 0 c then { s with yieldHold := s.yieldHold.set false (Key.at cd) false } else s
    s.runCtx cd c (t + 2)
  | none => { s with yieldHold := s.yieldHold.set false (Key.at cd) false }.setFld .SEQ_STATUS_IDLE cd 0 0 1

/-- The sequencer beat that a die has reached. -/
def beatOf (s : State) (cd : Nat) : Nat := s.beat.get 0 (Key.at cd)

/-- Counts the beats since a context was held, by what held it (R157, R160, R170, R176). Of the beats that a late result held, those
from `lateTo` on are due to a stretched period alone. -/
def closeHold (s : State) (cd c t : Nat) : State :=
  if s.ctxState cd c != ctxStalled then s
  else
    let x := s.ctxs.get Ctx.reset (Key.at cd 0 c)
    let n := t - x.since
    let code := s.fld .SEQ_CTX_STATE_STALL cd 0 c
    let s := if code = 2 then
        let own := min n (x.lateTo - x.since)
        (s.incFld .SEQ_CNT_LATE_COUNT cd 0 c own).incFld .SEQ_CNT_LATE_STRETCH_COUNT cd 0 c (n - own)
      else s.incFld (if code = 4 then .SEQ_CNT_TKT_STALL_COUNT else .SEQ_CNT_QFULL_COUNT) cd 0 c n
    (s.setFld .SEQ_CTX_STATE_STALL cd 0 c 0).setCtxState cd c ctxRunning

/-- The running context leaves the sequencer in beat `t`, READY, and the sequencer chooses (R162). -/
def yieldCtx (s : State) (cd c t : Nat) : State := (s.setCtxState cd c ctxReady).switchCtx cd t

/-- A hold at issue that a sideshow context leaves for a READY context of another slot (R394): not the VE-busy stall of R160. -/
def holdYields (s : State) (cd c code : Nat) : Bool := s.flag .SEQ_CTX_STATE_SIDESHOW cd 0 c && code != 3

/-- A context that becomes READY in beat `t`: it runs if no context runs (R164); it ends the hold of a sideshow context of another
slot, which gives way as at a tile boundary (R394); else it waits for a boundary. -/
def makeReady (s : State) (cd c t : Nat) : State :=
  let s := s.setCtxState cd c ctxReady
  let r := s.fld .SEQ_STATUS_RUNNING cd
  if s.flag .SEQ_STATUS_IDLE cd then s.runCtx cd c (t + 2)
  else if s.ctxState cd r = ctxStalled && s.holdYields cd r (s.fld .SEQ_CTX_STATE_STALL cd 0 r) && s.ctxSlot cd r != s.ctxSlot cd c then
    (s.closeHold cd r t).yieldCtx cd r t
  else s

/-- Reports a bus error or BAD_INST to a context (R165): the record and FAULTED for a context that is neither FAULTED nor DONE,
the event and the notice always. `pc` is the first instruction the context has not issued, which its PC register holds. A
running context that faults gives way as at a tile boundary (R162), in the beat that the die has reached; what held it is counted. -/
def ctxError (s : State) (cd c cause unit tag : Nat) : State :=
  let s := s.closeHold cd c (s.beatOf cd)
  let st := s.ctxState cd c
  let slot := s.ctxSlot cd c
  let pc := s.fld .SEQ_CTX_PC_PC cd 0 c
  let dead := st = ctxFaulted || st = ctxDone || st = ctxFree
  let s1 :=
    if dead then s
    else
      let s := (((s.setFld .SEQ_CTX_FAULT_CAUSE cd 0 c cause).setFld .SEQ_CTX_FAULT_UNIT cd 0 c unit).setFld
        .SEQ_CTX_FAULT_PC cd 0 c pc).setFld .SEQ_CTX_FAULT_TAG cd 0 c tag
      let s := s.setCtxState cd c ctxFaulted
      if !s.flag .SEQ_STATUS_IDLE cd && s.fld .SEQ_STATUS_RUNNING cd = c then s.switchCtx cd (s.beatOf cd) else s
  let a := s1.fld .SEQ_CTX_FAULT_CAUSE cd 0 c + s1.fld .SEQ_CTX_FAULT_UNIT cd 0 c * 2 ^ 4
    + s1.fld .SEQ_CTX_FAULT_PC cd 0 c * 2 ^ 16 + s1.fld .SEQ_CTX_FAULT_TAG cd 0 c * 2 ^ 48
  let s2 := s1.raise .EV_SEQ_CTX_FAULT cd c a (some slot)
  s2.notice slot 0x0002 (leBytes 1 cd ++ leBytes 1 c ++ leBytes 1 cause ++ leBytes 1 unit ++ leBytes 4 pc ++ leBytes 2 tag)

/-- The wait counter of a context (R154, R155). -/
def cnt (s : State) (cd c n : Nat) : Nat := s.cnts.get 0 (Key.at cd c n)

/-- Advances a wait counter of a context: 32 bits, wrapping (R155). The unit was at work until this beat (R175), and the completion
notice of a unit behind the mesh goes to the sequencer (R323). -/
def bumpCnt (s : State) (cd c n : Nat) (k : Nat := 1) : State :=
  let s := s.meshNotice cd n
  { s with
    cnts := s.cnts.set 0 (Key.at cd c n) ((s.cnt cd c n + k) % 2 ^ 32), busyAt := s.busyAt.set 0 (Key.at cd n) (s.beatOf cd) }

/-- The value a WAIT compares: a synchronisation counter of the slot for CNT 0x70 to 0x77, else the context's own (R155). -/
def waitValue (s : State) (cd c n : Nat) : Nat :=
  if 0x70 ≤ n && n ≤ 0x77 then (s.syncs.get SyncCtr.reset (Key.at cd (s.ctxSlot cd c) (n - 0x70))).count else s.cnt cd c n

end State

/-- A 32-bit counter has reached a target: their difference as a signed value is zero or positive (R155). -/
def reached (count target : Nat) : Bool := decide ((count + 2 ^ 32 - target % 2 ^ 32) % 2 ^ 32 < 2 ^ 31)

end Sys2Proof.Machine
end

