-- ==== Sys2Proof/Machine/Units.lean ====
section
/-! DEFINITION. Accessors of the units' state, power tickets (R174 to R176), random draws (R221), and what every unit queue does
when it refuses a command. -/

namespace Sys2Proof.Machine

/-- The unit numbers of R154. -/
def unitFeed (arr b : Nat) : Nat := 0x18 + 2 * arr + b
def unitStation (g : Nat) : Nat := 0x48 + g
def unitVe (v : Nat) : Nat := 0x50 + v
def unitSe (n : Nat) : Nat := 0x58 + n

/-- One draw of a generator (R221): the next state and the 16-bit value. -/
def draw (g : Nat) : Nat × Nat :=
  let x := g ^^^ g * 2 ^ 13 % 2 ^ 64
  let x := x ^^^ x / 2 ^ 7
  let x := x ^^^ x * 2 ^ 17 % 2 ^ 64
  (x, x / 2 ^ 48)

/-- `n` draws: the state after them and the values in order. -/
def draws : Nat → Nat → Nat × List Nat
  | 0, g => (g, [])
  | n + 1, g => let r := draw g; let rest := draws n r.1; (rest.1, r.2 :: rest.2)

/-- The generator state that a seed write leaves (R221): 0 is used as 1. -/
def seedOf (v : Nat) : Nat := if v = 0 then 1 else v

namespace State

def array (s : State) (cd n : Nat) : ArrayUnit := s.arrays.get ArrayUnit.reset (Key.at cd n)
def setArray (s : State) (cd n : Nat) (a : ArrayUnit) : State :=
  { s with arrays := s.arrays.set ArrayUnit.reset (Key.at cd n) a }
def setRegion (s : State) (cd n q : Nat) (r : Region) : State :=
  { s with regions := s.regions.set Region.reset (Key.at cd n q) r }
def bobbin (s : State) (cd bob : Nat) : Bobbin := s.bobbins.get Bobbin.reset (Key.at cd bob)
def setBobbin (s : State) (cd bob : Nat) (b : Bobbin) : State :=
  { s with bobbins := s.bobbins.set Bobbin.reset (Key.at cd bob) b }
def station (s : State) (cd g : Nat) : Station := s.stations.get Station.reset (Key.at cd g)
def setStation (s : State) (cd g : Nat) (x : Station) : State :=
  { s with stations := s.stations.set Station.reset (Key.at cd g) x }
def gateway (s : State) (cd g : Nat) : List GwTile := s.gateways.get [] (Key.at cd g)
def setGateway (s : State) (cd g : Nat) (x : List GwTile) : State := { s with gateways := s.gateways.set [] (Key.at cd g) x }
def tkUses (s : State) (cd tk : Nat) : List Use := s.uses.get [] (Key.at cd tk)
def setUses (s : State) (cd tk : Nat) (us : List Use) : State := { s with uses := s.uses.set [] (Key.at cd tk) us }
def ringSlot (s : State) (cd ring k : Nat) : RingSlot := s.rings.get RingSlot.empty (Key.at cd ring k)
def setRingSlot (s : State) (cd ring k : Nat) (x : RingSlot) : State :=
  { s with rings := s.rings.set RingSlot.empty (Key.at cd ring k) x }
def ve (s : State) (cd v : Nat) : VeUnit := s.ves.get VeUnit.reset (Key.at cd v)
def setVe (s : State) (cd v : Nat) (x : VeUnit) : State := { s with ves := s.ves.set VeUnit.reset (Key.at cd v) x }
def ctx (s : State) (cd c : Nat) : Ctx := s.ctxs.get Ctx.reset (Key.at cd 0 c)
def setCtx (s : State) (cd c : Nat) (x : Ctx) : State := { s with ctxs := s.ctxs.set Ctx.reset (Key.at cd 0 c) x }
def sync (s : State) (cd slot k : Nat) : SyncCtr := s.syncs.get SyncCtr.reset (Key.at cd slot k)
def setSync (s : State) (cd slot k : Nat) (x : SyncCtr) : State :=
  { s with syncs := s.syncs.set SyncCtr.reset (Key.at cd slot k) x }

end State

/-- Half beats of a frequency region in one tick of the reference timer (R335): 0.1 GHz at step 0, and 0.6 to 1.5 GHz at steps 1
to 7. -/
def halfBeats (step : Nat) : Nat := if step = 0 then 2 else 9 + 3 * step

/-- Ticket cost of a unit (R174); 0 for a unit that is never charged. -/
def unitCost (u : Nat) : Nat :=
  if u < 0x18 then 4 else if 0x50 ≤ u && u < 0x58 then 3 else if 0x58 ≤ u && u < 0x60 then 1 else 0

namespace State

/-- A byte leaves a pool of a die, or the first one enters it (R315): the time is noted, and a stall from now on is a new one. -/
def poolMoves (s : State) (cd pool : Nat) : State :=
  { s with poolMoved := s.poolMoved.set 0 (Key.at cd pool) s.now, poolTold := s.poolTold.set false (Key.at cd pool) false }

/-- The slot a unit is charged to. -/
def charged (s : State) (cd u : Nat) : Option Nat := s.charges.get none (Key.at cd u)

/-- Tickets charged to a slot on a die (SEQ_TKT_GRANT.HELD). -/
def ticketsHeld (s : State) (cd slot : Nat) : Nat :=
  ((List.range 96).map (fun u => if s.charged cd u = some slot then unitCost u else 0)).foldl (· + ·) 0

/-- A job slot created as the sideshow slot (R12). -/
def isSideshow (s : State) (slot : Nat) : Bool := s.flag .SLQ_STATE_SIDESHOW iod0 slot

/-- Whether work of a slot may start on a unit (R175, R176, R395): the unit is charged to that slot, or it is charged to none, the
charge fits the grant and no yield holds the start. -/
def mayStart (s : State) (cd u slot : Nat) : Bool :=
  match s.charged cd u with
  | some x => x == slot
  | none => !(s.isSideshow slot && s.yieldHold.get false (Key.at cd))
    && s.ticketsHeld cd slot + unitCost u ≤ s.fld .SEQ_TKT_GRANT_GRANT cd 0 slot

/-- Takes the charge of a start (R175). -/
def charge (s : State) (cd u slot : Nat) : State := { s with charges := s.charges.set none (Key.at cd u) (some slot) }

/-- The head of a unit's queue waits for tickets, from the beat that the die has reached on (R176). -/
def tktHold (s : State) (cd u : Nat) : State :=
  if s.tktWait.get 0 (Key.at cd u) = 0 then { s with tktWait := s.tktWait.set 0 (Key.at cd u) (s.beatOf cd + 1) } else s

/-- The head of a unit's queue waits no more: the beats it waited count for its context (R176, R178). -/
def tktClose (s : State) (cd u c : Nat) : State :=
  let since := s.tktWait.get 0 (Key.at cd u)
  if since = 0 then s
  else { s with tktWait := s.tktWait.set 0 (Key.at cd u) 0 }.incFld .SEQ_CNT_TKT_STALL_COUNT cd 0 c (s.beatOf cd + 1 - since)

/-- Returns a charge. -/
def release (s : State) (cd u : Nat) : State := { s with charges := s.charges.set none (Key.at cd u) none }

/-- ARR_FAULT holds a refusal bit (R85). -/
def arrHeld (s : State) (cd n : Nat) : Bool :=
  s.flag .ARR_FAULT_BAD_CMD cd n || s.flag .ARR_FAULT_STALE_STATE cd n || s.flag .ARR_FAULT_ACB_RANGE cd n

/-- FDR_FAULT holds the feed queue (R114). -/
def fdrHeld (s : State) (cd bob : Nat) : Bool := s.flag .FDR_FAULT_BAD_FEED cd bob || s.flag .FDR_FAULT_GROUP cd bob

/-- CAR_FAULT holds a station queue that faulted (R114). -/
def carHeld (s : State) (cd : Nat) : Bool := s.flag .CAR_FAULT_BAD_INJ cd || s.flag .CAR_FAULT_RING_OFF cd

/-- ARR_STATUS.STATE after a change: PARKED and FAULT stay until their own rules end them; else BUSY while the core or the
held-load path works, and IDLE otherwise. -/
def arrSettle (s : State) (cd n : Nat) : State :=
  let st := s.fld .ARR_STATUS_STATE cd n
  if st = 0 || st = 3 then s
  else
    let a := s.array cd n
    s.setFld .ARR_STATUS_STATE cd n 0 (if a.inflight.isEmpty && a.loading.isNone then 1 else 2)

/-- Counts one array command as completed (R83): ARR_DONE and the issuing context's counter. -/
def arrDone (s : State) (cd n ctx : Nat) : State := (s.incFld .ARR_DONE_DONE cd n 0).bumpCnt cd ctx n

end State

/-- The context and slot of a queue entry. -/
def ArrEntry.ctx : ArrEntry → Nat
  | .cmd c => c.ctx
  | .cset _ _ c _ _ => c

namespace State

end State

def ArrEntry.slot : ArrEntry → Nat
  | .cmd c => c.slot
  | .cset _ _ _ x _ => x

namespace State

/-- Discards array queue entries (R85): DISCARDED counts them, and each counts for its context. -/
def arrDiscard (s : State) (cd n : Nat) (es : List ArrEntry) : State :=
  es.foldl (fun s e => (s.incFld .ARR_DONE_DISCARDED cd n 0).bumpCnt cd e.ctx n) s

/-- The refusal faults of an array (R85). -/
inductive ArrRefusal where
  | badCmd (field : Nat) | staleState | acbRange
  deriving DecidableEq, Repr

/-- Records the slot whose refused command holds a unit (R85, R114). -/
def setHeldBy (s : State) (cd u : Nat) (slot : Option Nat) : State := { s with heldBy := s.heldBy.set none (Key.at cd u) slot }

/-- Refuses the entry at the head of an array's queue (R85): fault bit, record, STATE = FAULT, the rest of the queue discarded,
the refused entry counted, and a bus error to its context. A refused CSET entry counts in ARR_DONE as a command does, and one that
takes effect counts only for its context (DESIGN CHOICE, log entry 142). -/
def arrRefuse (s : State) (cd n : Nat) (ctx tag kind : Nat) (why : ArrRefusal) : State :=
  let bit := match why with
    | .badCmd _ => Fld.ARR_FAULT_BAD_CMD
    | .staleState => Fld.ARR_FAULT_STALE_STATE
    | .acbRange => Fld.ARR_FAULT_ACB_RANGE
  let field := match why with
    | .badCmd f => f
    | _ => 0
  let s := (s.setFld bit cd n 0 1).setFld .ARR_FAULT_INFO_TAG cd n 0 tag
  let s := ((s.setFld .ARR_FAULT_INFO_KIND cd n 0 kind).setFld .ARR_FAULT_INFO_FIELD cd n 0 field).setFld .ARR_FAULT_INFO_ROW cd n 0 0
  let s := s.setFld .ARR_STATUS_STATE cd n 0 3
  let a := s.array cd n
  let s := s.setHeldBy cd n (some (s.ctxSlot cd ctx))
  let s := s.setArray cd n { a with queue := [] }
  let s := (s.arrDone cd n ctx).arrDiscard cd n a.queue.tail
  s.ctxError cd ctx causeArray n tag

/-- The slot whose refused command holds a unit. -/
def heldFor (s : State) (cd u : Nat) : Option Nat := s.heldBy.get none (Key.at cd u)

/-- Ends FAULT once the refusal bits read zero (R85). -/
def arrLeaveFault (s : State) (cd n : Nat) : State :=
  if s.fld .ARR_STATUS_STATE cd n = 3 && !s.arrHeld cd n then (s.setFld .ARR_STATUS_STATE cd n 0 1).arrSettle cd n else s

/-- An entry reaches an array's queue (R85, R157): in FAULT it is discarded at once; a parked array is woken. -/
def arrEnqueue (s : State) (cd n : Nat) (e : ArrEntry) : State :=
  if s.fld .ARR_STATUS_STATE cd n = 3 then s.arrDiscard cd n [e]
  else
    let a := s.array cd n
    s.setArray cd n { a with queue := a.queue ++ [e], waking := a.waking || s.fld .ARR_STATUS_STATE cd n = 0 }

/-- A feed command reaches a bobbin's queue (R114): while fault bits hold the queue it is discarded and counted; it wakes a
parked array. -/
def feedEnqueue (s : State) (cd bob : Nat) (c : Cmd) : State :=
  if s.fdrHeld cd bob then s.bumpCnt cd c.ctx (0x18 + bob)
  else
    let b := s.bobbin cd bob
    let s := s.setBobbin cd bob { b with queue := b.queue ++ [c] }
    let n := bob / 2
    if s.fld .ARR_STATUS_STATE cd n = 0 then s.setArray cd n { s.array cd n with waking := true } else s

/-- A slot's request may use a 64 KiB block range of stage SRAM (R256): every block belongs to it. -/
def sramOwned (s : State) (cd slot off n : Nat) : Bool :=
  (List.range ((off + n - 1) / 2 ^ 16 - off / 2 ^ 16 + 1)).all (fun k => (s.block cd (off / 2 ^ 16 + k)).owner = some slot)

/-- A block of a stage SRAM range is being zeroed. -/
def sramZeroing (s : State) (cd off n : Nat) : Bool :=
  (List.range ((off + n - 1) / 2 ^ 16 - off / 2 ^ 16 + 1)).any (fun k => (s.block cd (off / 2 ^ 16 + k)).zeroing)

end State

namespace State

end State

/-- The station of array n (R87). -/
def arrStation (n : Nat) : Nat :=
  let g := arrGroup n
  if n < 8 then (if n % 2 = 0 then 8 * g + 1 else 8 * g + 5)
  else 8 * g + ([2, 3, 6, 7].getD ((n - 8) % 4) 2)

namespace State

end State

/-- The station at which a registration copies (CAR_TKT_REG): bobbins 0 to 47, stage-SRAM stations 48 to 51. -/
def regStation (r : Nat) : Nat := if r < 48 then arrStation (r / 2) else 8 * (r - 48) + 4

namespace State

end State

end Sys2Proof.Machine
end

