-- ==== Sys2Proof/Machine/Results.lean ====
section
/-! DEFINITION. Results in flight on a compute die (R157, R158, R161, R167 to R172): where they go, when they land, what an
instruction of a beat reads, and the beat that a die has reached. -/

namespace Sys2Proof.Machine

/-- The first beat that reads a result in flight, the first beat by which it is written (R170), and its die. -/
def Pending.due : Pending → Nat
  | .scalar _ _ _ _ t => t
  | .vector _ _ _ _ _ t _ _ => t
  | .seed _ _ _ t => t

def Pending.written : Pending → Nat
  | .scalar _ _ _ _ t => t
  | .vector _ _ _ _ _ t late stretch => t + late + stretch
  | .seed _ _ _ t => t

def Pending.die : Pending → Nat
  | .scalar cd _ _ _ _ => cd
  | .vector cd _ _ _ _ _ _ _ => cd
  | .seed cd _ _ _ => cd

/-- A result of a VE. -/
def Pending.ofVe (cd ve : Nat) : Pending → Bool
  | .vector d v _ _ _ _ _ _ => d == cd && v == ve
  | _ => false

/-- A result of a VE for one of a list of registers. -/
def Pending.into (cd ve : Nat) (rs : List Nat) : Pending → Bool
  | .vector d v r _ _ _ _ _ => d == cd && v == ve && rs.any (fun x => x % 32 == r % 32)
  | _ => false

/-- Inserts a result in flight behind those due no later (R167). -/
def insertDue (p : Pending) : List Pending → List Pending
  | [] => [p]
  | q :: t => if q.due ≤ p.due then q :: insertDue p t else p :: q :: t

/-- Results in the order in which they land: by beat, and in issue order within a beat (R167). -/
def landOrder (ps : List Pending) : List Pending := ps.foldl (fun acc p => insertDue p acc) []

/-- Address of a vector register in `State.vreg`. -/
def vregBase (cd ve r : Nat) : Nat := 8192 * (32 * (8 * cd + ve) + r % 32)

/-- Address of a table pair in `State.ftab`. -/
def ftabBase (cd ve pair : Nat) : Nat := 32832 * (32 * (8 * cd + ve) + pair % 32)

/-- Fields of VLD and VST (R161). -/
def vmReg (c : Cmd) : Nat := fieldOf c.w0 8 4
def vmRep (c : Cmd) : Nat := fieldOf c.w0 12 9
def vmAcb (c : Cmd) : Bool := fieldOf c.w0 13 13 = 1
def vmAddr (c : Cmd) : Nat := fieldOf c.w1 26 0
def vmStride (c : Cmd) : Int := let r := toSigned 32 (fieldOf c.w1 63 32); if r = 0 then 8192 else r

/-- The registers that a VLD or VST names. -/
def vmRegs (c : Cmd) : List Nat := (List.range (vmRep c + 1)).map (fun i => (vmReg c + i) % 32)

/-- The offset of a register's memory in its class. -/
def vmOff (c : Cmd) (i : Nat) : Int := (vmAddr c : Int) + i * vmStride c

/-- The physical address of an offset of a class (R161, R291). -/
def vmPhys (cd : Nat) (c : Cmd) (off : Nat) : Nat :=
  if vmAcb c then acbAddr cd (off / acbSize) (off % acbSize) else sramAddr cd off

namespace State

def seUnit (s : State) (cd se : Nat) : SeUnit := s.ses.get SeUnit.reset (Key.at cd se)
def setSeUnit (s : State) (cd se : Nat) (u : SeUnit) : State := { s with ses := s.ses.set SeUnit.reset (Key.at cd se) u }

/-- Writes SE_SR_SEED (R221, R223). -/
def writeSeSeed (s : State) (cd se : Nat) (v : Word64) : State :=
  (s.setFld .SE_SR_SEED_SEED cd se 0 v.toNat).setSeUnit cd se { s.seUnit cd se with gen := seedOf v.toNat }

/-- Writes VE_SR_SEED (R221). -/
def writeVeSeed (s : State) (cd ve : Nat) (v : Word64) : State :=
  (s.setFld .VE_SR_SEED_SEED cd ve 0 v.toNat).setVe cd ve { s.ve cd ve with gen := seedOf v.toNat }

/-- A vector register: its bytes and its sealed bit. -/
def vregRaw (s : State) (cd ve r : Nat) : List Byte × Bool :=
  (s.vreg.slice (vregBase cd ve r) 8192, s.vsealed.get false (Key.at cd ve (r % 32)))

/-- Writes the low bytes of a vector register (R160, R487): the sealed bit clears only when every byte is replaced by unsealed
ones. -/
def setVreg (s : State) (cd ve r : Nat) (bs : List Byte) (isSealed : Bool) : State :=
  let old := s.vsealed.get false (Key.at cd ve (r % 32))
  { s with vreg := s.vreg.splice (vregBase cd ve r) (bs.take 8192),
           vsealed := s.vsealed.set false (Key.at cd ve (r % 32)) (isSealed || (old && decide (bs.length < 8192))) }

/-- Whether an uncounted VST of a VE's queue names a register (R161), issued before the first beat that reads the result. -/
def vstNames (s : State) (cd ve r due : Nat) : Bool :=
  (s.ve cd ve).queue.any (fun x => x.cmd.kind = 2 && (vmRegs x.cmd).any (fun y => y == r % 32) && decide (x.cmd.enters < due + 2))

/-- A VOP's result is about to replace a register that an uncounted VST names: whether the VST stores the old contents is a free
value (R161). -/
def pinVst (s : State) (cd ve r due : Nat) : State :=
  let u := s.ve cd ve
  if !s.vstNames cd ve r due || u.pins.any (fun p => p.1 == r % 32) then s
  else
    let f := s.takeFree
    if f.1 % 2 = 0 then f.2
    else f.2.setVe cd ve { u with pins := u.pins ++ [(r % 32, s.vregRaw cd ve r)] }

/-- A result lands (R167); S0 ignores writes (R153). -/
def land (s : State) : Pending → State
  | .scalar cd c r v _ => if r = 0 then s else { s with sregs := s.sregs.set 0 (Key.at cd c r) v }
  | .vector cd ve r bs sl due _ _ => (s.pinVst cd ve r due).setVreg cd ve r bs sl
  | .seed cd u v _ => if u < 0x58 then s.writeVeSeed cd (u - 0x50) v else s.writeSeSeed cd (u - 0x58) v

/-- Lands the results in flight that meet a test, in their order. -/
def landSome (s : State) (p : Pending → Bool) : State :=
  (landOrder (s.pend.filter p)).foldl (fun s p => s.land p) { s with pend := s.pend.filter (fun x => !p x) }

/-- Lands every result of a die that is written by beat `t` (R167, R170). -/
def settle (s : State) (cd t : Nat) : State := s.landSome (fun p => p.die == cd && decide (p.written ≤ t))

/-- The die has reached beat `t`: nothing happens there in an earlier beat any more, and what is written by then has landed. -/
def reach (s : State) (cd t : Nat) : State := { s.settle cd t with beat := s.beat.set 0 (Key.at cd) (max (s.beatOf cd) t) }

/-- The beat by which every result in flight that meets a test is written. -/
def writtenBy (s : State) (p : Pending → Bool) : Nat := (s.pend.filter p).foldl (fun m x => max m x.written) 0

/-- A VLD writes registers (R161): results in flight for them were issued before it and have landed (log entry 33). -/
def reachVe (s : State) (cd ve : Nat) (rs : List Nat) : State :=
  if s.pend.any (Pending.into cd ve rs) then s.reach cd (s.writtenBy (Pending.into cd ve rs)) else s

/-- A vector register as an instruction of beat `t` reads it. -/
def vregAt (s : State) (cd ve r t : Nat) : List Byte × Bool :=
  let mine := s.pend.filter (fun p => Pending.into cd ve [r] p && decide (p.due ≤ t))
  (landOrder mine).foldl (fun (old : List Byte × Bool) p => match p with
    | .vector _ _ _ bs sl _ _ _ => (bs ++ old.1.drop bs.length, sl || (old.2 && decide (bs.length < 8192)))
    | _ => old) (s.vregRaw cd ve r)

/-- The words that a VLD brings for its register number `i`, as memory holds them, and whether one of them is sealed. -/
def vldNew (s : State) (cd : Nat) (c : Cmd) (i : Nat) : List Byte × Bool :=
  let a := vmPhys cd c (vmOff c i).toNat
  (s.mem.slice a 8192, (List.range 256).any (fun k =>
    match decodeWord (s.strongAt (a + 32 * k)) (s.rawData (a + 32 * k)) (s.rawSide (a + 32 * k)) with
    | .clean _ t => tagSealed t
    | .corrected _ t _ _ => tagSealed t
    | .uncorrectable _ t => tagSealed t))

/-- A vector register as a VOP of beat `t` reads it: where an uncounted VLD names it, the old or the new value, and which one is a
free value (R161). -/
def vregSeen (s : State) (cd ve r t : Nat) : (List Byte × Bool) × State :=
  let old := s.vregAt cd ve r t
  match (s.ve cd ve).queue.find? (fun x => x.cmd.kind = 1 && (vmRegs x.cmd).any (fun y => y == r % 32)) with
  | none => (old, s)
  | some x =>
    let f := s.takeFree
    if f.1 % 2 = 0 then (old, f.2)
    else
      let new := s.vldNew cd x.cmd ((vmRegs x.cmd).findIdx (fun y => y == r % 32))
      ((new.1, old.2 || new.2), f.2)

/-- The late results of a VE that hold an instruction of beat `t` which reads and writes these registers (R170): a register that
would be read after its contract beat but before it is written, or written before that. -/
def lateResults (s : State) (cd ve t : Nat) (reads writes : List Nat) : List Pending :=
  s.pend.filter (fun p => decide (p.due < p.written) && decide (t < p.written)
    && ((Pending.into cd ve reads p && decide (p.due ≤ t)) || Pending.into cd ve writes p))

/-- The late-result interlock holds an instruction. -/
def lateHold (s : State) (cd ve t : Nat) (reads writes : List Nat) : Bool := !(s.lateResults cd ve t reads writes).isEmpty

/-- The beat by which the internal latency alone has written the results that hold an instruction. -/
def lateTo (s : State) (cd ve t : Nat) (reads writes : List Nat) : Nat :=
  (s.lateResults cd ve t reads writes).foldl (fun m p => match p with
    | .vector _ _ _ _ _ due late _ => max m (due + late)
    | _ => m) 0

end State

end Sys2Proof.Machine
end

