-- ==== Sys2Proof/Machine/Arrays.lean ====
section
/-! DEFINITION. Matrix arrays (chapter "Matrix arrays", R41 to R86; masks R190 to R193; ties R194 to R196): the array commands,
their issue checks in the order of R85, their arithmetic, the drain into the ACB, parking, and the special register writes. -/

namespace Sys2Proof.Machine

/-- An array command's fields (R81). -/
structure ArrFields where
  kind : Nat
  form : Nat
  fmtA : Nat
  fmtB : Nat
  xposeA : Bool
  xposeB : Bool
  heldB : Bool
  seam : Bool
  init : Bool
  acc : Bool
  maskReg : Bool
  scale : Bool
  count : Nat
  mValid : Nat
  nValid : Nat
  region : Nat
  row : Nat
  reserved : Bool
  deriving DecidableEq, Repr

/-- Reads the fields of an array command (R81). `reserved` says that a reserved field is nonzero. -/
def arrFields (c : Cmd) : ArrFields :=
  let b (i : Nat) : Bool := c.w0.toNat.testBit i
  { kind := fieldOf c.w0 3 0, form := fieldOf c.w0 5 4, fmtA := fieldOf c.w0 9 6, fmtB := fieldOf c.w0 13 10,
    xposeA := b 14, xposeB := b 15, heldB := b 16, seam := b 17, init := b 18, acc := b 19, maskReg := b 20, scale := b 21,
    count := fieldOf c.w0 47 32, mValid := fieldOf c.w1 8 0, nValid := fieldOf c.w1 17 9, region := fieldOf c.w1 20 18,
    row := fieldOf c.w1 43 32,
    reserved := fieldOf c.w0 31 22 != 0 || fieldOf c.w1 31 21 != 0 || fieldOf c.w1 63 44 != 0 }

/-- A field that the command's KIND does not use is nonzero (R81). -/
def arrUnused (f : ArrFields) : Bool :=
  match f.kind with
  | 1 => f.heldB || f.seam
  | 2 => f.init || f.seam || f.acc || f.maskReg || f.scale || f.region != 0 || f.row != 0
  | 3 => f.init
  | _ => false

/-- The format class of an operand code (R82): 8-bit float, 8-bit integer, 16-bit float. -/
def arrFmtClass (f : Nat) : Option Nat := if f ≤ 1 then some 0 else if f ≤ 3 then some 1 else if f ≤ 5 then some 2 else none

/-- Output rows of a RESIDENT form (R60), and its groups. -/
def formRows (form : Nat) : Nat := if form = 0 then 256 else if form = 1 then 64 else 16
def formGroups (form : Nat) : Nat := if form = 0 then 1 else if form = 1 then 4 else 16

/-- ACB rows that a command writes (R72). -/
def arrOutRows (f : ArrFields) : Nat := if f.kind = 1 then formRows f.form else if f.kind = 3 then f.count else 0

/-- K_BEATS or V_BEATS (R48, R53, R60). -/
def arrBeats (f : ArrFields) : Nat :=
  let steps := if f.kind = 1 then (f.count + formGroups f.form - 1) / formGroups f.form else f.count
  if arrFmtClass f.fmtA = some 2 then 2 * steps else steps

/-- The fixed latency of an array command (R83). -/
def arrLatency (f : ArrFields) : Nat :=
  match f.kind with
  | 1 =>
    (if f.count = 0 then 24 else arrBeats f + 39 + (if f.form = 1 then 4 else if f.form = 2 then 8 else 0))
      + (if f.init then 16 else 0)
  | 2 => if arrFmtClass f.fmtA = some 2 then 40 else 24
  | _ => if f.count = 0 then (if f.seam then 35 else 24) else arrBeats f + 43

/-- The low `n` bits set. -/
def firstBits (n : Nat) : Nat := 2 ^ n - 1

namespace State

/-- The front and back held banks (R52): ARR_STATUS.FRONT names the front one. -/
def bankOf (a : ArrayUnit) (i : Nat) : HeldBank := if i % 2 = 0 then a.bank0 else a.bank1
def withBank (a : ArrayUnit) (i : Nat) (b : HeldBank) : ArrayUnit := if i % 2 = 0 then { a with bank0 := b } else { a with bank1 := b }

/-- The mask registers as one bit set of 256 (R63). -/
def maskReg (s : State) (f : Fld) (cd n : Nat) : Nat :=
  s.fld f cd n 0 + s.fld f cd n 1 * 2 ^ 64 + s.fld f cd n 2 * 2 ^ 128 + s.fld f cd n 3 * 2 ^ 192

/-- Lines that a command reads from the A-bobbin (`b` = 0) or the B-bobbin (R42, R53, R55). -/
def arrLines (f : ArrFields) (b : Nat) : Nat :=
  if f.kind = 1 then f.count
  else if f.kind = 2 then (if f.heldB = (b = 1) then 256 else 0)
  else if f.heldB = (b = 0) then f.count else 0

/-- A command reads transposed a slot that holds packed INT4 weights (R103), among the slots its bobbin has assigned: each serves
256 lines in each of its passes, or a pair of 16-bit tiles does. -/
def xposeInt4 (s : State) (cd bob lines : Nat) (wide : Bool) : Bool :=
  ((s.bobbin cd bob).order.foldl (fun (x : Nat × Bool) k =>
    if x.1 = 0 then x
    else (x.1 - (if wide then 128 else 256) * (s.fld .FDR_SLOT_PASSES cd bob k + 1), x.2 || s.flag .FDR_SLOT_INT4 cd bob k)) (lines, false)).2

/-- The checks of R85 in their order: the first that fails. With MASK_REG = 1 the counts M_VALID and N_VALID are not used and not
checked (R65, DEDUCED, log entry 117). -/
def arrCheck (s : State) (cd n : Nat) (slot : Nat) (f : ArrFields) : Option ArrRefusal :=
  let aft := 8 ≤ n
  let q := f.region
  let a := s.array cd n
  let front := s.fld .ARR_STATUS_FRONT cd n
  let bank := bankOf a (if f.seam then front + 1 else front)
  let wgm := s.flag .ARR_ACB_RGN_WGM_EN cd n q
  let names := f.kind = 1 || f.kind = 3
  let cls := arrFmtClass f.fmtA
  if f.reserved || arrUnused f then some (.badCmd 0x8)
  else if f.kind = 0 || 3 < f.kind then some (.badCmd 0x1)
  else if f.form = 3 || (f.kind != 1 && f.form != 0) then some (.badCmd 0x2)
  else if cls.isNone || cls != arrFmtClass f.fmtB then some (.badCmd 0x3)
  else if ((f.xposeA || f.xposeB) && !aft) || (f.kind = 1 && f.form != 0 && f.xposeA)
      || (f.xposeA && s.xposeInt4 cd (2 * n) (arrLines f 0) (cls = some 2))
      || (f.xposeB && s.xposeInt4 cd (2 * n + 1) (arrLines f 1) (cls = some 2)) then some (.badCmd 0x4)
  else if (f.kind != 1 && f.mValid != 0)
      || (!f.maskReg && (f.nValid = 0 || 256 < f.nValid || (f.kind = 1 && (f.mValid = 0 || formRows f.form < f.mValid))))
      || (names && wgm && (f.kind = 3 || f.form != 0 || f.row % 256 != 0)) then some (.badCmd 0x5)
  else if (f.kind = 3 && 4096 < f.count) || (f.kind = 2 && (f.count = 0 || 256 < f.count))
      || (names && s.rgnTied cd n q && !(f.acc && f.count != 0)
          && !(!f.acc && f.count = 0 && (s.region cd n q).accIssued = 0)) then some (.badCmd 0x6)
  else if f.kind = 3 && f.scale && 256 < f.count then some (.badCmd 0x7)
  else if names && (s.region cd n q).slot != some slot then some (.badCmd 0xA)
  else if names && (s.fld .ARR_ACB_RGN_BASE_ROWS cd n q = 0
      || s.fld .ARR_ACB_RGN_BASE_ROWS cd n q < f.row + arrOutRows f
      || (s.rgnTied cd n q && f.acc && f.count != 0 && s.rgnReleased cd n q)) then some .acbRange
  else if (f.kind = 3 && (bank.epoch != s.fld .ARR_EPOCH_EPOCH cd n || bank.slot != some slot))
      || ((f.acc || f.init) && names && s.rgnStale cd n q) then some .staleState
  else if f.kind = 3 && bank.fmt != (if f.heldB then f.fmtB else f.fmtA) then some (.badCmd 0x3)
  else none

/-- The weight-gradient bitmap of a command (R191 to R193): the trained rows, and whether its word was poisoned or not the
slot's. -/
def wgmRows (s : State) (cd n slot : Nat) (f : ArrFields) : Nat × Bool × State :=
  let q := f.region
  if f.kind = 1 && f.form = 0 && f.count != 0 && s.flag .ARR_ACB_RGN_WGM_EN cd n q then
    let w := s.fld .ARR_ACB_RGN_WGM_ROW_OFF cd n q + f.row / (256 * s.fld .ARR_ACB_RGN_WGM_COLS_T cd n q)
    let bm := s.fld .ARR_ACB_RGN_WGM_BITMAP cd n q
    let gran := s.flag .ARR_ACB_RGN_WGM_GRAN cd n q
    let off := if gran then 32 * bm + w / 8 else 32 * (bm + w)
    if sramSize ≤ off || !s.sramOwned cd slot off 1 then (firstBits 256, true, s)
    else
      let r := s.decodeAt (sramAddr cd off)
      if tagPoison r.1.tag || (tagSealed r.1.tag && tagSlot r.1.tag != slot) then (firstBits 256, true, r.2)
      else if gran then
        (if (bits r.1.data (8 * (off % 32) + 7) (8 * (off % 32))).testBit (w % 8) then firstBits 256 else 0, false, r.2)
      else (r.1.data, false, r.2)
  else (firstBits 256, false, s)

end State

/-- A 32-bit value of an ACB word with its marks. -/
def accOfWord (w : Word) (c : Nat) : AccVal := ⟨bits w.data (32 * (c % 8) + 31) (32 * (c % 8)), tagPoison w.tag, tagSealed w.tag⟩

namespace State

/-- One ACB row as stored, 256 values, with whether an uncorrectable word was met (R85). -/
def acbRow (s : State) (cd n row : Nat) : List AccVal × Bool × State :=
  (List.range 32).foldl (fun (acc : List AccVal × Bool × State) w =>
    let s := acc.2.2
    let a := acbAddr cd n (row * 1024 + 32 * w)
    let ue := match decodeWord false (s.rawData a) (s.rawSide a) with
      | .uncorrectable _ _ => true
      | _ => false
    let r := s.decodeAt a
    (acc.1 ++ (List.range 8).map (accOfWord r.1), acc.2.1 || ue, r.2)) ([], false, s)

end State

/-- A product of two operand elements, exact (R69, R142). -/
def arrProduct (fa fb : Fmt) (x y : Nat) : Num := (fa.value x).mul (fb.value y)

/-- The exact product of two integer operands. -/
def intOf : Num → Int
  | .fin d => (if d.neg then -1 else 1) * ((d.m * 2 ^ d.e.toNat : Nat) : Int)
  | _ => 0

/-- An accumulation step (R69, R70): FP32 to nearest even, or INT32 with saturation; the flag says that it saturated. -/
def accAdd (isInt : Bool) (acc : Nat) (x : Num) : Nat × Bool :=
  if isInt then
    let z := toSigned 32 acc + intOf x
    let c := clampInt (-2147483648) 2147483647 z
    (ofSigned 32 c, decide (c ≠ z))
  else (rne32 ((fp32.decode acc).add x), false)

/-- Addition of two 32-bit results of one kind (R61, R70); the flag says that an INT32 sum on the way saturated. -/
def addKind (isInt : Bool) (a b : Nat × Bool) : Nat × Bool :=
  if isInt then
    let z := toSigned 32 a.1 + toSigned 32 b.1
    let c := clampInt (-2147483648) 2147483647 z
    (ofSigned 32 c, a.2 || b.2 || decide (c ≠ z))
  else (add32 a.1 b.1, a.2 || b.2)

/-- Sums values pairwise, one tree level (R69, R61). -/
def treeLevel (isInt : Bool) : List (Nat × Bool) → List (Nat × Bool)
  | a :: b :: t => addKind isInt a b :: treeLevel isInt t
  | l => l

/-- The balanced tree of `k` levels over 2^k values. -/
def treeSum (isInt : Bool) : Nat → List (Nat × Bool) → Nat × Bool
  | 0, l => l.headD (0, false)
  | k + 1, l => treeSum isInt k (treeLevel isInt l)

/-- The sum a DPU forms of one vector (R69): 256 exact products, each first-level pair added and rounded, then a tree. -/
def dpuSum (isInt : Bool) (ps : List Num) : Nat × Bool :=
  let rec pairs : List Num → List (Nat × Bool)
    | a :: b :: t => (if isInt then
        let z := intOf a + intOf b; let c := clampInt (-2147483648) 2147483647 z; (ofSigned 32 c, decide (c ≠ z))
      else (rne32 (a.add b), false)) :: pairs t
    | [a] => [(if isInt then ofSigned 32 (intOf a) else rne32 a, false)]
    | [] => []
  treeSum isInt 7 (pairs ps)

/-- The cells of a RESIDENT tile after its K-steps (R48, R60, R61): output (m, c) from the lines of A and B. Group g takes K
index G·j + g; the groups' partial sums are added as a balanced tree. The flag says that an INT32 sum saturated. -/
def residentOut (fa fb : Fmt) (isInt : Bool) (groups : Nat) (as bs : List Line) (start : Nat) (m c : Nat) : Nat × Bool :=
  let k := as.length
  if k = 0 then (start, false)
  else
    let part (g : Nat) : Nat × Bool :=
      (List.range k).foldl (fun (acc : Nat × Bool) j =>
        if j % groups = g then
          let r := accAdd isInt acc.1 (arrProduct fa fb ((as.getD j ⟨[], 0, 0⟩).elems.getD m 0) ((bs.getD j ⟨[], 0, 0⟩).elems.getD c 0))
          (r.1, acc.2 || r.2)
        else acc) (if g = 0 then start else 0, false)
    treeSum isInt (Nat.log2 groups) ((List.range groups).map part)

/-- An output scaled under SCALE = 1 (R75): an INT32 value is first converted to FP32. -/
def scaleOut (isInt : Bool) (v sa sb : Nat) : Nat :=
  let x := if isInt then rne32 (Num.ofInt (toSigned 32 v)) else v
  mul32 (mul32 x sa) sb

namespace State

/-- Scale index i of an array (R75): S_LO holds the even index, S_HI the odd one. -/
def scaleAt (s : State) (lo hi : Fld) (cd n i : Nat) : Nat :=
  if i % 2 = 0 then s.fld lo cd n (i / 2) else s.fld hi cd n (i / 2)

/-- What a drain met (R85): the state, whether an output was poisoned, whether an ACB word was uncorrectable, whether INT32
saturated, the first affected row and the generator. -/
structure Drain where
  st : State
  poison : Bool
  ue : Bool
  sat : Bool
  firstRow : Option Nat
  gen : Nat

/-- Writes or adds one output row (R73, R74, R85): `vals` holds the selected outputs, `none` for a masked column. An old word that a
partly masked row keeps columns of, and that is uncorrectable, sets ACB_UE as one read for an add does (R64; DESIGN CHOICE, log
entry 140). -/
def drainRow (d : Drain) (cd n slot row : Nat) (acc asInt long : Bool) (vals : List (Option AccVal)) : Drain :=
  (List.range 32).foldl (fun (d : Drain) w =>
    let lanes := (List.range 8).map (fun k => (vals.getD (8 * w + k) none))
    if lanes.all Option.isNone then d
    else
      let a := acbAddr cd n (row * 1024 + 32 * w)
      let whole := lanes.all Option.isSome && !acc
      let ue := !whole && (match decodeWord false (d.st.rawData a) (d.st.rawSide a) with
        | .uncorrectable _ _ => true
        | _ => false)
      let r := if whole then (Word.mk 0 0, d.st) else d.st.decodeAt a
      let oldP := tagPoison r.1.tag
      let res := (List.range 8).foldl (fun (x : Nat × Nat × Bool × Bool × Bool) k =>
        let old := accOfWord r.1 k
        match lanes.getD k none with
        | none => (x.1 + old.v * 2 ^ (32 * k), x.2.1, x.2.2.1, x.2.2.2.1 || old.isSealed, x.2.2.2.2)
        | some o =>
          if acc then
            if asInt then
              let z := toSigned 32 old.v + toSigned 32 o.v
              let c := clampInt (-2147483648) 2147483647 z
              (x.1 + ofSigned 32 c * 2 ^ (32 * k), x.2.1, x.2.2.1 || o.poison, x.2.2.2.1 || o.isSealed || old.isSealed,
               x.2.2.2.2 || decide (c ≠ z))
            else if long then
              let dr := draw x.2.1
              (x.1 + addSr32 dr.2 old.v o.v * 2 ^ (32 * k), dr.1, x.2.2.1 || o.poison, x.2.2.2.1 || o.isSealed || old.isSealed, x.2.2.2.2)
            else (x.1 + add32 old.v o.v * 2 ^ (32 * k), x.2.1, x.2.2.1 || o.poison, x.2.2.2.1 || o.isSealed || old.isSealed, x.2.2.2.2)
          else (x.1 + o.v * 2 ^ (32 * k), x.2.1, x.2.2.1 || o.poison, x.2.2.2.1 || o.isSealed, x.2.2.2.2))
        (0, d.gen, false, false, false)
      let p := res.2.2.1 || (oldP && !whole)
      let met := res.2.2.1 || (oldP && acc)
      { st := r.2.writeWord (.unit (Fin.ofNat 4 slot)) a res.1 p res.2.2.2.1,
        poison := d.poison || (met && !ue), ue := d.ue || ue, sat := d.sat || res.2.2.2.2,
        firstRow := if met || ue then d.firstRow.orElse (fun _ => some row) else d.firstRow, gen := res.2.1 }) d

/-- Ends a command's drain (R73, R85, R195): events, the poison record with its bus error, ADDS, ARR_DONE. -/
def drainEnd (d : Drain) (cd n : Nat) (c : Cmd) (f : ArrFields) : State :=
  let s := d.st
  let s := s.setArray cd n { s.array cd n with gen := d.gen }
  let s := if d.sat then s.setFld .ARR_EVENTS_INT_SAT cd n 0 1 else s
  let s := if f.acc then s.incSat .ARR_ACB_RGN_CNT_ADDS cd n f.region else s
  let s := s.arrDone cd n c.ctx
  if d.poison || d.ue then
    let s := if d.poison then s.setFld .ARR_FAULT_POISON cd n 0 1 else s
    let s := if d.ue then s.setFld .ARR_FAULT_ACB_UE cd n 0 1 else s
    let s := ((s.setFld .ARR_FAULT_INFO_TAG cd n 0 c.tag).setFld .ARR_FAULT_INFO_KIND cd n 0 c.kind).setFld .ARR_FAULT_INFO_FIELD cd n 0 0
    let s := s.setFld .ARR_FAULT_INFO_ROW cd n 0 (d.firstRow.getD 0)
    s.ctxError cd c.ctx causeArray n c.tag
  else s

/-- Drains the first `rows` rows of a RESIDENT tile (R48 to R50, R61, R64, R69, R73 to R76, R79). An integer pair whose scales make its
output FP32 (R75) adds into a long-sum region with stochastic rounding (R84; DESIGN CHOICE, log entry 141). -/
def residentRows (s : State) (cd n : Nat) (r : Running) (rows : Nat) : Drain :=
  let f := arrFields r.cmd
  let fa := (Fmt.ofCode f.fmtA).getD .e4m3
  let fb := (Fmt.ofCode f.fmtB).getD .e4m3
  let isInt := arrFmtClass f.fmtA = some 1
  let asInt := isInt && !f.scale
  let row0 := s.fld .ARR_ACB_RGN_BASE_ROW0 cd n f.region + f.row
  let bad := r.maskPoison || r.aLines.any (fun l => l.poison &&& r.rows != 0) || r.bLines.any (fun l => l.poison &&& r.cols != 0)
  let aSeal := r.aLines.foldl (fun x l => x ||| l.isSealed) 0
  let bSeal := r.bLines.foldl (fun x l => x ||| l.isSealed) 0
  let d0 : Drain := ⟨s, false, false, false, none, (s.array cd n).gen⟩
  if f.count = 0 && f.acc && !f.init then d0
  else (List.range (min rows (formRows f.form))).foldl (fun (d : Drain) m =>
    if !r.rows.testBit m then d
    else
      let initRow := r.init.getD m []
      let outs := (List.range 256).map (fun c =>
        if !r.cols.testBit c then (none, false)
        else
          let st : AccVal := if f.init then initRow.getD c ⟨0, false, false⟩ else ⟨0, false, false⟩
          let v := residentOut fa fb isInt (formGroups f.form) r.aLines r.bLines st.v m c
          let v' := if f.scale then scaleOut isInt v.1 (d.st.scaleAt .ARR_SCALE_A_S_LO .ARR_SCALE_A_S_HI cd n m)
              (d.st.scaleAt .ARR_SCALE_B_S_LO .ARR_SCALE_B_S_HI cd n c) else v.1
          (some (AccVal.mk v' (bad || st.poison) (st.isSealed || aSeal.testBit m || bSeal.testBit c)), v.2))
      let d := { d with sat := d.sat || outs.any Prod.snd }
      drainRow d cd n r.cmd.slot (row0 + m) f.acc asInt r.long (outs.map Prod.fst)) d0

/-- Drains a RESIDENT tile. -/
def drainResident (s : State) (cd n : Nat) (r : Running) : State :=
  drainEnd (s.residentRows cd n r 256) cd n r.cmd (arrFields r.cmd)

/-- Drains the first `rows` vectors of a HOLD pass (R53, R54, R64, R69, R73 to R76, R85): one ACB row per vector. -/
def holdRows (s : State) (cd n : Nat) (r : Running) (rows : Nat) : Drain :=
  let f := arrFields r.cmd
  let fa := (Fmt.ofCode f.fmtA).getD .e4m3
  let fb := (Fmt.ofCode f.fmtB).getD .e4m3
  let isInt := arrFmtClass f.fmtA = some 1
  let asInt := isInt && !f.scale
  let row0 := s.fld .ARR_ACB_RGN_BASE_ROW0 cd n f.region + f.row
  let vecs := if f.heldB then r.aLines else r.bLines
  let d0 : Drain := ⟨s, false, false, false, none, (s.array cd n).gen⟩
  (List.range (min rows vecs.length)).foldl (fun (d : Drain) v =>
    let vec := vecs.getD v ⟨[], 0, 0⟩
    let outs := (List.range 256).map (fun c =>
      if !r.cols.testBit c then (none, false)
      else
        let ch := r.held.getD c ⟨[], 0, 0⟩
        let ps := (List.range 256).map (fun k =>
          if f.heldB then arrProduct fa fb (vec.elems.getD k 0) (ch.elems.getD k 0)
          else arrProduct fa fb (ch.elems.getD k 0) (vec.elems.getD k 0))
        let x := dpuSum isInt ps
        let sa := d.st.scaleAt .ARR_SCALE_A_S_LO .ARR_SCALE_A_S_HI cd n (if f.heldB then v else c)
        let sb := d.st.scaleAt .ARR_SCALE_B_S_LO .ARR_SCALE_B_S_HI cd n (if f.heldB then c else v)
        let o := if f.scale then scaleOut isInt x.1 sa sb else x.1
        (some (AccVal.mk o (vec.poison != 0 || ch.poison != 0) (vec.isSealed != 0 || ch.isSealed != 0)), x.2))
    let d := { d with sat := d.sat || outs.any Prod.snd }
    drainRow d cd n r.cmd.slot (row0 + v) f.acc asInt r.long (outs.map Prod.fst)) d0

/-- Drains a HOLD pass. -/
def drainHold (s : State) (cd n : Nat) (r : Running) : State :=
  drainEnd (s.holdRows cd n r 65536) cd n r.cmd (arrFields r.cmd)

end State

/-- Element positions of a held line at or beyond COUNT are written as zero (R55). -/
def heldLine (count : Nat) (l : Line) : Line :=
  let keep := firstBits count
  ⟨(List.range 256).map (fun i => if i < count then l.elems.getD i 0 else 0), l.poison &&& keep, l.isSealed &&& keep⟩

namespace State

/-- The array may take work: neither parked nor in FAULT. -/
def arrAwake (s : State) (cd n : Nat) : Bool :=
  let st := s.fld .ARR_STATUS_STATE cd n
  st = 1 || st = 2

/-- The core may take the next command: at most one is entering and one draining (R49, R80). -/
def arrCoreFree (a : ArrayUnit) : Bool :=
  match a.inflight with
  | [] => true
  | [r] => r.aLeft = 0 && r.bLeft = 0 && !r.seamWait
  | _ => false

/-- Common start of an array command (R80, R85, R175): the head of the queue, its checks, the refusal, or its charge. `issue`
gives the effect of an accepted command; without the charge the command waits (R176). -/
def arrIssue (s : State) (cd n kind : Nat) (ready : ArrayUnit → ArrFields → Bool)
    (issue : State → Cmd → ArrFields → State) : State :=
  let a := s.array cd n
  if !s.arrAwake cd n then s
  else match a.queue with
    | .cmd c :: rest =>
      let f := arrFields c
      if !(f.kind = kind || f.kind = 0 || 3 < f.kind) || !ready a f then s
      else
        let s := s.reach cd c.enters
        match s.arrCheck cd n c.slot f with
        | some why => (s.tktClose cd n c.ctx).arrRefuse cd n c.ctx c.tag c.kind why
        | none =>
          if s.mayStart cd n c.slot then
            let s := ((s.tktClose cd n c.ctx).charge cd n c.slot).setArray cd n { a with queue := rest, issued := a.issued + 1 }
            (issue s c f).arrSettle cd n
          else s.tktHold cd n
    | _ => s

/-- The selected output rows and columns (R63). -/
def arrMasks (s : State) (cd n : Nat) (f : ArrFields) : Nat × Nat :=
  if f.maskReg then (s.maskReg .ARR_ROWMASK_BITS cd n % 2 ^ (if f.kind = 1 then formRows f.form else 256), s.maskReg .ARR_COLMASK_BITS cd n)
  else (firstBits f.mValid, firstBits f.nValid)

/-- Long-sum state of a command and the count it leaves (R74). The first command that finds its region in long-sum mode since the
region was written sets LS_ACTIVE (DEDUCED, log entry 118). -/
def arrLongSum (s : State) (cd n : Nat) (f : ArrFields) : Bool × State :=
  if !f.acc then (false, s)
  else
    let r := s.region cd n f.region
    let long := s.flag .ARR_CTL_LS_ENABLE cd n && s.fld .ARR_ACB_RGN_CNT_LS_THRESH cd n f.region < r.accIssued
    let s := s.setRegion cd n f.region { r with accIssued := r.accIssued + 1, long := r.long || long }
    (long, if long && !r.long then s.setFld .ARR_EVENTS_LS_ACTIVE cd n 0 1 else s)

/-- The rows that the init beats load (R80), with the state after reading them. -/
def initRows (s : State) (cd n row0 rows : Nat) : List (List AccVal) × Bool × State :=
  (List.range rows).foldl (fun (acc : List (List AccVal) × Bool × State) m =>
    let r := acc.2.2.acbRow cd n (row0 + m)
    (acc.1 ++ [r.1], acc.2.1 || r.2.1, r.2.2)) ([], false, s)

end State

/-- RES_TILE (R48 to R51, R80, R85): the command at the head of the queue issues to the core, or is refused. -/
def execResTile (cd : Fin 8) (arr : Fin 24) (s : State) : Out :=
  .next (s.gated cd (s.arrIssue cd arr 1 (fun a _ => State.arrCoreFree a) fun s c f =>
    let m := s.arrMasks cd arr f
    let w := s.wgmRows cd arr c.slot f
    let l := w.2.2.arrLongSum cd arr f
    let row0 := l.2.fld .ARR_ACB_RGN_BASE_ROW0 cd arr f.region + f.row
    let ini := if f.init then l.2.initRows cd arr row0 (formRows f.form) else ([], false, l.2)
    let s := if ini.2.1 then ini.2.2.setFld .ARR_FAULT_ACB_UE cd arr 0 1 else ini.2.2
    let a := s.array cd arr
    let r : Running := { cmd := c, order := a.issued, long := l.1, rows := m.1 &&& w.1, cols := m.2, maskPoison := w.2.1,
                         aLeft := f.count, bLeft := f.count, aLines := [], bLines := [], init := ini.1, bank := 0 }
    let ep := s.fld .ARR_EPOCH_EPOCH cd arr
    let a := if a.accBank = 0 then { a with accEpoch1 := ep, accBank := 1 } else { a with accEpoch0 := ep, accBank := 0 }
    s.setArray cd arr { a with inflight := a.inflight ++ [r] }))

/-- Starts the held-load path on the back bank (R55, R57): the bank takes the format, epoch and slot of the load. -/
def State.beginLoad (s : State) (cd n : Nat) (r : Running) : State :=
  let a := s.array cd n
  let f := arrFields r.cmd
  let back := s.fld .ARR_STATUS_FRONT cd n + 1
  let b : HeldBank := ⟨if f.heldB then f.fmtB else f.fmtA, s.fld .ARR_EPOCH_EPOCH cd n, some r.cmd.slot, []⟩
  s.setArray cd n { State.withBank a back b with loading := some { r with bank := back % 2 } }

/-- HOLD_LOAD (R55, R57): issues to the held-load path; while the back bank is full it stalls there. -/
def execHoldLoad (cd : Fin 8) (arr : Fin 24) (s : State) : Out :=
  .next (s.gated cd (s.arrIssue cd arr 2 (fun a _ => a.loading.isNone) fun s c f =>
    let a := s.array cd arr
    let r : Running := { cmd := c, order := a.issued, long := false, rows := 0, cols := 0, maskPoison := false,
                         aLeft := if f.heldB then 0 else 256, bLeft := if f.heldB then 256 else 0,
                         aLines := [], bLines := [], init := [], bank := 2 }
    if s.flag .ARR_STATUS_BACK_FULL cd arr then
      (s.setArray cd arr { a with loading := some r }).setFld .ARR_STATUS_LOAD_STALL cd arr 0 1
    else s.beginLoad cd arr r))

/-- The seam of the newest pass goes through (R56 to R58): the banks swap, the pass takes what its bank holds, and a stalled load
begins. -/
def State.seamSwap (s : State) (cd n : Nat) : State :=
  let a := s.array cd n
  let front := (s.fld .ARR_STATUS_FRONT cd n + 1) % 2
  let s := s.setArray cd n { a with inflight := a.inflight.map fun r =>
    if r.seamWait then { r with seamWait := false, held := (State.bankOf a r.bank).chunks } else r }
  let s := (s.setFld .ARR_STATUS_FRONT cd n 0 front).setFld .ARR_STATUS_BACK_FULL cd n 0 0
  match a.loading with
  | some ld => if ld.bank = 2 then (s.setFld .ARR_STATUS_LOAD_STALL cd n 0 0).beginLoad cd n ld else s
  | none => s

/-- HOLD_PASS (R53, R56 to R59): issues to the core and takes its bank; with SEAM = 1 the banks swap first. A seam whose back bank
is not yet loaded freezes the array until it is (R58). -/
def execHoldPass (cd : Fin 8) (arr : Fin 24) (s : State) : Out :=
  .next (s.gated cd (s.arrIssue cd arr 3 (fun a _ => State.arrCoreFree a) fun s c f =>
    let m := s.arrMasks cd arr f
    let l := s.arrLongSum cd arr f
    let s := l.2
    let a := s.array cd arr
    let front := s.fld .ARR_STATUS_FRONT cd arr
    let use := if f.seam then front + 1 else front
    let r : Running := { cmd := c, order := a.issued, long := l.1, rows := 0, cols := m.2, maskPoison := false,
                         aLeft := if f.heldB then f.count else 0, bLeft := if f.heldB then 0 else f.count,
                         aLines := [], bLines := [], init := [], bank := use % 2,
                         seamWait := f.seam, held := if f.seam then [] else (State.bankOf a use).chunks }
    let s := s.setArray cd arr { a with inflight := a.inflight ++ [r] }
    if f.seam && s.flag .ARR_STATUS_BACK_FULL cd arr then s.seamSwap cd arr else s))

/-- ARRAY_COMMAND_COMPLETE (R50, R54, R55, R73, R83, R195): the oldest command of the core, or the load, has read every line and
completes: it drains, ADDS and ARR_DONE advance. -/
def execArrayCommandComplete (cd : Fin 8) (arr : Fin 24) (load : Bool) (s : State) : Out :=
  let a := s.array cd arr
  .next (s.gated cd (
    if load then
      match a.loading with
      | some r =>
        if r.bank < 2 && r.aLeft = 0 && r.bLeft = 0 then
          let f := arrFields r.cmd
          let lines := (if f.heldB then r.bLines else r.aLines).map (heldLine f.count)
          let b := { State.bankOf a r.bank with chunks := lines }
          let s := s.setArray cd arr { State.withBank a r.bank b with loading := none }
          let s := (s.setFld .ARR_STATUS_BACK_FULL cd arr 0 1).arrDone cd arr r.cmd.ctx
          (if a.inflight.any Running.seamWait then s.seamSwap cd arr else s).arrSettle cd arr
        else s
      | none => s
    else
      match a.inflight with
      | r :: rest =>
        if r.aLeft = 0 && r.bLeft = 0 && !r.seamWait then
          let s := s.setArray cd arr { a with inflight := rest }
          let s := if r.cmd.kind = 1 then s.drainResident cd arr r else s.drainHold cd arr r
          s.arrSettle cd arr
        else s
      | [] => s))

/-- The field rules of ARR_ACB_RGN_BASE (R86, R196). -/
def rgnBaseOk (v : Word64) : Bool :=
  fieldOf v 11 0 + fieldOf v 24 12 ≤ 4096 && !(fieldOf v 39 32 != 0 && fieldOf v 47 40 = 0)

/-- The field rule of ARR_ACB_RGN_WGM (R190): COLS_T = 0 with EN = 1 is refused. -/
def wgmOk (v : Word64) : Bool := !(fieldOf v 0 0 = 1 && fieldOf v 9 2 = 0)

namespace State

/-- A command queued or running on an array names a region (R86). -/
def rgnNamed (s : State) (cd n q : Nat) : Bool :=
  let a := s.array cd n
  let names (c : Cmd) : Bool := (c.kind = 1 || c.kind = 3) && (arrFields c).region = q
  a.inflight.any (fun r => names r.cmd)
    || a.queue.any (fun e => match e with | .cmd c => names c | _ => false)

/-- Writes ARR_ACB_RGN_BASE (R74, R78, R86, R195, R256): the ACB epoch is tagged, the slot recorded, ADDS cleared, a tie round
opened and the long-sum count restarted. -/
def writeRgnBase (s : State) (cd n q : Nat) (v : Word64) (slot : Option Nat) : State :=
  let s := (s.setFld .ARR_ACB_RGN_BASE_ROW0 cd n q (fieldOf v 11 0)).setFld .ARR_ACB_RGN_BASE_ROWS cd n q (fieldOf v 24 12)
  let s := (s.setFld .ARR_ACB_RGN_BASE_TIE cd n q (fieldOf v 39 32)).setFld .ARR_ACB_RGN_BASE_USES cd n q (fieldOf v 47 40)
  let s := s.setFld .ARR_ACB_RGN_BASE_EPOCH cd n q (s.fld .ARR_EPOCH_ACB_EPOCH cd n)
  let s := s.setFld .ARR_ACB_RGN_CNT_ADDS cd n q 0
  s.setRegion cd n q ⟨slot, 0, false⟩

/-- Writes ARR_ACB_RGN_WGM (R190). -/
def writeWgm (s : State) (cd n q : Nat) (v : Word64) : State :=
  let s := (s.setFld .ARR_ACB_RGN_WGM_EN cd n q (fieldOf v 0 0)).setFld .ARR_ACB_RGN_WGM_GRAN cd n q (fieldOf v 1 1)
  let s := (s.setFld .ARR_ACB_RGN_WGM_COLS_T cd n q (fieldOf v 9 2)).setFld .ARR_ACB_RGN_WGM_BITMAP cd n q (fieldOf v 31 10)
  s.setFld .ARR_ACB_RGN_WGM_ROW_OFF cd n q (fieldOf v 51 32)

/-- Writes ARR_LS_SEED (R221): the generator takes the value. -/
def writeLsSeed (s : State) (cd n : Nat) (v : Word64) : State :=
  let s := s.setFld .ARR_LS_SEED_SEED cd n 0 v.toNat
  s.setArray cd n { s.array cd n with gen := seedOf v.toNat }

/-- The ACB of an array loses power (R77): what it holds is lost. -/
def gateAcb (s : State) (cd n : Nat) : State :=
  { s.setArray cd n { s.array cd n with acbOff := true } with
    acbSeed := s.acbSeed.set 0 (Key.at cd n) (s.acbSeed.get 0 (Key.at cd n) + 1) }

/-- Writes ARR_CTL (R77, R85, R86). A parked array whose ACB_RETAIN is cleared loses its ACB's power at once; setting ACB_RETAIN
does not bring it back before the wake (DESIGN CHOICE, log entry 119). -/
def writeArrCtl (s : State) (cd n : Nat) (v : Word64) : State :=
  let s := (s.setFld .ARR_CTL_PARK cd n 0 (fieldOf v 0 0)).setFld .ARR_CTL_ACB_RETAIN cd n 0 (fieldOf v 1 1)
  let s := s.setFld .ARR_CTL_LS_ENABLE cd n 0 (fieldOf v 2 2)
  if s.fld .ARR_STATUS_STATE cd n = 0 && !s.flag .ARR_CTL_ACB_RETAIN cd n && !(s.array cd n).acbOff then s.gateAcb cd n else s

/-- Every bobbin slot of the array is FREE and both feed queues are empty (R114). -/
def feedersEmpty (s : State) (cd n : Nat) : Bool :=
  (List.range 2).all (fun b => (s.bobbin cd (2 * n + b)).queue.isEmpty && (s.bobbin cd (2 * n + b)).order.isEmpty)

/-- The next epoch (R77): one that would pass 0xFFFF becomes 1. -/
def nextEpoch (e : Nat) : Nat := if e = 0xFFFF then 1 else e + 1

/-- A new array epoch (R77, R78): on a wrap every tag of the array becomes 0 and EPOCH_WRAP is set. -/
def bumpArrEpoch (s : State) (cd n : Nat) : State :=
  let e := s.fld .ARR_EPOCH_EPOCH cd n
  let s := s.setFld .ARR_EPOCH_EPOCH cd n 0 (nextEpoch e)
  if e = 0xFFFF then
    let a := s.array cd n
    (s.setArray cd n { a with bank0 := { a.bank0 with epoch := 0 }, bank1 := { a.bank1 with epoch := 0 },
                              accEpoch0 := 0, accEpoch1 := 0 }).setFld .ARR_EVENTS_EPOCH_WRAP cd n 0 1
  else s

/-- A new ACB epoch (R77, R78): on a wrap every region tag becomes 0 and EPOCH_WRAP is set. -/
def bumpAcbEpoch (s : State) (cd n : Nat) : State :=
  let e := s.fld .ARR_EPOCH_ACB_EPOCH cd n
  let s := s.setFld .ARR_EPOCH_ACB_EPOCH cd n 0 (nextEpoch e)
  if e = 0xFFFF then
    ((List.range 8).foldl (fun s q => s.setFld .ARR_ACB_RGN_BASE_EPOCH cd n q 0) s).setFld .ARR_EVENTS_EPOCH_WRAP cd n 0 1
  else s

end State

/-- CSET_ENTRY_EFFECT (R158): the CSET entry at the head of an array's queue takes effect once every earlier entry has completed,
and counts; an entry that its register's field rules refuse is BAD_CMD, field 0x9. A scale or mask write goes to the addressed
instance; REG is the byte offset divided by 8. -/
def execCsetEntryEffect (cd : Fin 8) (arr : Fin 24) (s : State) : Out :=
  let a := s.array cd arr
  .next (s.gated cd (
    match a.queue with
    | .cset reg v ctx slot enters :: rest =>
      if !s.arrAwake cd arr || !a.inflight.isEmpty || a.loading.isSome then s
      else
        let s := s.reach cd enters
        let bad := (0x20 ≤ reg && reg < 0x30 && reg % 2 = 0 && !rgnBaseOk v) || (0x30 ≤ reg && reg < 0x38 && !wgmOk v)
        if bad then s.arrRefuse cd arr ctx 0 0 (.badCmd 0x9)
        else
          let s := s.setArray cd arr { a with queue := rest }
          let s :=
            if reg = 2 then s.writeArrCtl cd arr v
            else if 8 ≤ reg && reg < 12 then s.setFld .ARR_ROWMASK_BITS cd arr (reg - 8) v.toNat
            else if 12 ≤ reg && reg < 16 then s.setFld .ARR_COLMASK_BITS cd arr (reg - 12) v.toNat
            else if reg = 0x10 then s.writeLsSeed cd arr v
            else if 0x20 ≤ reg && reg < 0x30 then
              if reg % 2 = 0 then s.writeRgnBase cd arr ((reg - 0x20) / 2) v (some slot)
              else s.setFld .ARR_ACB_RGN_CNT_LS_THRESH cd arr ((reg - 0x20) / 2) (fieldOf v 63 32)
            else if 0x30 ≤ reg && reg < 0x38 then s.writeWgm cd arr (reg - 0x30) v
            else if 0x200 ≤ reg && reg < 0x280 then
              (s.setFld .ARR_SCALE_A_S_LO cd arr (reg - 0x200) (fieldOf v 31 0)).setFld .ARR_SCALE_A_S_HI cd arr (reg - 0x200) (fieldOf v 63 32)
            else if 0x280 ≤ reg && reg < 0x300 then
              (s.setFld .ARR_SCALE_B_S_LO cd arr (reg - 0x280) (fieldOf v 31 0)).setFld .ARR_SCALE_B_S_HI cd arr (reg - 0x280) (fieldOf v 63 32)
            else s
          s.bumpCnt cd ctx arr
    | _ => s))

/-- A register write by an accessor (R16, R18, R36): a die out of service or a missing authority is a bus error without effect. -/
def State.regWrite (s : State) (die : Nat) (allowed : Bool) (f : State → Option State) : State :=
  if !s.dieUp die || !allowed then { s with resp := .busError }
  else match f s with
    | some s' => { s' with resp := .written }
    | none => { s with resp := .busError }

/-- Supervisor authority (R437). -/
def isSup : Accessor → Bool
  | .supervisor => true
  | .core _ _ => false

/-- ARR_ACB_RGN_BASE_WRITE (R86, R195, R196, R256): a write through the CSR window records no slot; it is refused while a queued
or running command names the region. -/
def execArrAcbRgnBaseWrite (acc : Accessor) (cd : Fin 8) (arr : Fin 24) (q : Fin 8) (v : Word64) (s : State) : Out :=
  .next (s.regWrite cd (isSup acc) fun s =>
    if s.rgnNamed cd arr q || !rgnBaseOk v then none else some (s.writeRgnBase cd arr q v none))

/-- ARR_ACB_RGN_WGM_WRITE (R190): refused while a queued or running command names the region, and for COLS_T = 0 with EN = 1. -/
def execArrAcbRgnWgmWrite (acc : Accessor) (cd : Fin 8) (arr : Fin 24) (q : Fin 8) (v : Word64) (s : State) : Out :=
  .next (s.regWrite cd (isSup acc) fun s => if s.rgnNamed cd arr q || !wgmOk v then none else some (s.writeWgm cd arr q v))

/-- ARR_LS_SEED_WRITE (R86, R221). -/
def execArrLsSeedWrite (acc : Accessor) (cd : Fin 8) (arr : Fin 24) (v : Word64) (s : State) : Out :=
  .next (s.regWrite cd (isSup acc) fun s => some (s.writeLsSeed cd arr v))

/-- ARR_PARK_REQUEST (R85): a write of ARR_CTL; the park itself is ARRAY_PARK. -/
def execArrParkRequest (acc : Accessor) (cd : Fin 8) (arr : Fin 24) (v : Word64) (s : State) : Out :=
  .next (s.regWrite cd (isSup acc) fun s => some (s.writeArrCtl cd arr v))

/-- ARRAY_PARK (R77, R85, R114): with PARK = 1, the array parks once its queue and both feed queues are empty, the core and the
held-load path are idle and every bobbin slot is FREE; without ACB_RETAIN its ACB loses power too. -/
def execArrayPark (cd : Fin 8) (arr : Fin 24) (s : State) : Out :=
  let a := s.array cd arr
  .next (s.gated cd (
    if s.flag .ARR_CTL_PARK cd arr && s.fld .ARR_STATUS_STATE cd arr = 1 && a.queue.isEmpty && a.inflight.isEmpty
        && a.loading.isNone && s.feedersEmpty cd arr then
      let s := s.setFld .ARR_STATUS_STATE cd arr 0 0
      if s.flag .ARR_CTL_ACB_RETAIN cd arr then s.setArray cd arr { a with acbOff := false } else s.gateAcb cd arr
    else s))

/-- ARRAY_WAKE_COMPLETE (R77, R85): the core of a parked array is powered again; the array epoch increments, and the ACB epoch
too if the ACB had lost power. -/
def execArrayWakeComplete (cd : Fin 8) (arr : Fin 24) (s : State) : Out :=
  let a := s.array cd arr
  .next (s.gated cd (
    if s.fld .ARR_STATUS_STATE cd arr = 0 && a.waking then
      let s := s.setArray cd arr { a with waking := false, acbOff := false }
      let s := s.bumpArrEpoch cd arr
      let s := if a.acbOff then s.bumpAcbEpoch cd arr else s
      s.setFld .ARR_STATUS_STATE cd arr 0 1
    else s))

/-- Clears written bits of ARR_FAULT (R16, R85). -/
def State.clearArrFault (s : State) (cd n : Nat) (v : Nat) : State :=
  let clr (s : State) (f : Fld) (b : Nat) : State := if v.testBit b then s.setFld f cd n 0 0 else s
  let s := clr (clr (clr s .ARR_FAULT_BAD_CMD 0) .ARR_FAULT_STALE_STATE 1) .ARR_FAULT_POISON 2
  (clr (clr s .ARR_FAULT_ACB_RANGE 3) .ARR_FAULT_ACB_UE 4).arrLeaveFault cd n

/-- ARR_FAULT_CLEAR (R85, R86): a supervisor W1C write; the array leaves FAULT once its refusal bits read zero. -/
def execArrFaultClear (acc : Accessor) (cd : Fin 8) (arr : Fin 24) (v : Word64) (s : State) : Out :=
  .next (s.regWrite cd (isSup acc) fun s => some (s.clearArrFault cd arr v.toNat))

end Sys2Proof.Machine
end

