-- ==== Sys2Proof/Machine/Carousel.lean ====
section
/-! DEFINITION. The carousel and the feeders (chapter "Carousel and feeders", R87 to R115), the INT4 read path (R129 to R134) and
the movement of the rings in a carousel beat. -/

namespace Sys2Proof.Machine

/-- Byte address of a bobbin slot in `State.tile`. -/
def tileBase (cd bob k : Nat) : Nat := 65536 * (4 * (48 * cd + bob) + k)

/-- A feed or station command's fields (R112, R113). -/
def feedInt4 (c : Cmd) : Bool := fieldOf c.w0 4 4 = 1
def feedReuse (c : Cmd) : Nat := fieldOf c.w0 8 5
def tkOf (c : Cmd) : Nat := fieldOf c.w0 21 16
def addrOf (c : Cmd) : Nat := fieldOf c.w1 26 0
def injRing (c : Cmd) : Nat := fieldOf c.w0 5 4
def injSubs (c : Cmd) : Nat := fieldOf c.w0 27 22

/-- A malformed feed command (R112, R114). -/
def badFeed (c : Cmd) : Bool :=
  !(c.kind = 1 || c.kind = 2) || fieldOf c.w0 15 9 != 0 || fieldOf c.w0 47 22 != 0 || fieldOf c.w1 63 27 != 0
    || (c.kind = 1 && addrOf c != 0) || (c.kind = 2 && tkOf c != 0)

/-- A malformed station command at the station of group g (R113, R114). -/
def badStation (c : Cmd) (g : Nat) : Bool :=
  !(c.kind = 1 || c.kind = 2) || fieldOf c.w0 15 6 != 0 || fieldOf c.w0 47 28 != 0 || fieldOf c.w1 63 27 != 0
    || (c.kind = 1 && (injRing c = 3 || injSubs c = 0 || 52 < injSubs c))
    || (c.kind = 2 && (injRing c != 0 || injSubs c != 0))
    || addrOf c % 2048 != 0 || addrOf c / 2 ^ 25 != g || (addrOf c + 65535) / 2 ^ 25 != g

namespace State

/-- The lowest-numbered FREE slot of a bobbin (R100). -/
def freeSlot (s : State) (cd bob : Nat) : Option Nat :=
  (List.range 4).find? (fun k => !((s.bobbin cd bob).order.contains k))

/-- Registers subscriber r of a job slot with a ticket number (R95, R96): it counts toward the oldest use of that number that
belongs to the job slot, is not armed, and has not counted it. A declared use whose registrations equal SUBS arms at once. -/
def tkRegister (s : State) (cd tk slot r : Nat) : State :=
  let us := s.tkUses cd tk
  let takes (u : Use) : Bool :=
    u.slot = slot && !u.armed && !(u.declared && u.regs.length = u.subs) && !u.regs.contains r
  match us.find? takes with
  | some u => s.setUses cd tk (us.map (fun x => if x.id = u.id then { x with regs := x.regs ++ [r] } else x))
  | none =>
    let u : Use := { id := s.useCount, slot := slot, declared := false, station := 0, ring := 0, subs := 0, regs := [r],
                     armed := false, ccw := false, drop := 0, sent := 0, src := .gateway, since := 0, stalled := false }
    { s.setUses cd tk (us ++ [u]) with useCount := s.useCount + 1 }

/-- A ticket is FREE (R94): no use of it is declared. -/
def tkFree (s : State) (cd tk : Nat) : Bool := (s.tkUses cd tk).all (fun u => !u.declared)

/-- Declares a FREE ticket for a job slot (R94): the oldest use of the slot becomes declared; its number is answered. -/
def tkDeclare (s : State) (cd tk slot station ring subs : Nat) (src : TileSrc) : Nat × State :=
  let us := s.tkUses cd tk
  let mark (u : Use) : Use :=
    { u with declared := true, station := station, ring := ring, subs := subs, src := src, since := s.now }
  match us.find? (fun u => decide (u.slot = slot)) with
  | some u => (u.id, s.setUses cd tk (us.map (fun x => if x.id = u.id then mark x else x)))
  | none =>
    let u : Use := mark { id := s.useCount, slot := slot, declared := false, station := 0, ring := 0, subs := 0, regs := [],
                          armed := false, ccw := false, drop := 0, sent := 0, src := src, since := 0, stalled := false }
    (u.id, { s.setUses cd tk (us ++ [u]) with useCount := s.useCount + 1 })

/-- Changes one use. -/
def mapUse (s : State) (cd tk id : Nat) (g : Use → Use) : State :=
  s.setUses cd tk ((s.tkUses cd tk).map (fun u => if u.id = id then g u else u))

/-- A use by number. -/
def useOf (s : State) (cd tk id : Nat) : Option Use := (s.tkUses cd tk).find? (fun u => decide (u.id = id))

/-- CAR_TKT of a ticket as it reads. -/
def carTkt (s : State) (cd tk : Nat) : Nat :=
  let us := s.tkUses cd tk
  let cur := us.find? (fun u => u.declared)
  let un := us.find? (fun u => !u.armed)
  let regs := (un.map (fun u => u.regs.length)).getD 0
  match cur with
  | some u => (if u.armed then 2 else 1) + u.slot * 2 ^ 2 + (if u.ccw then 2 ^ 4 else 0) + u.station * 2 ^ 5 + u.drop * 2 ^ 10
      + u.subs * 2 ^ 15 + regs * 2 ^ 21 + u.sent * 2 ^ 27
  | none => regs * 2 ^ 21

/-- Refuses the feed command at the head of a bobbin's queue (R114). -/
def feedRefuse (s : State) (cd bob : Nat) (c : Cmd) (group : Bool) : State :=
  let b := s.bobbin cd bob
  let s := s.setFld (if group then .FDR_FAULT_GROUP else .FDR_FAULT_BAD_FEED) cd bob 0 1
  let s := (s.setFld .FDR_FAULT_INFO_TAG cd bob 0 c.tag).setFld .FDR_FAULT_INFO_KIND cd bob 0 c.kind
  let s := (s.setBobbin cd bob { b with queue := [] }).setHeldBy cd (0x18 + bob) (some c.slot)
  let s := b.queue.foldl (fun s x => s.bumpCnt cd x.ctx (0x18 + bob)) s
  s.ctxError cd c.ctx causeFeeder (0x18 + bob) c.tag

/-- Takes the head of a feed queue (R100, R101, R112, R114): its checks, and the slot it reserves. `kind` is the row's KIND; a
reserved KIND is refused by either row. A head that waits for a slot has passed its checks, which are not made again (R107). -/
def feedTake (s : State) (cd bob kind : Nat) : State :=
  let b := s.bobbin cd bob
  let n := bob / 2
  if s.fld .ARR_STATUS_STATE cd n = 0 then s
  else match b.queue with
    | [] => s
    | c :: rest =>
      let first := !s.flag .FDR_STATUS_WAITING cd bob
      if !(c.kind = kind || !(c.kind = 1 || c.kind = 2)) then s
      else
      let s := s.reach cd c.enters
      if first && badFeed c then s.feedRefuse cd bob c false
      else if first && c.kind = 2 && (addrOf c % 256 != 0 || addrOf c / 2 ^ 25 != arrGroup n || (addrOf c + 65535) / 2 ^ 25 != arrGroup n
          || !s.sramOwned cd c.slot (addrOf c) 65536) then s.feedRefuse cd bob c true
      else match s.freeSlot cd bob with
        | none => s.setFld .FDR_STATUS_WAITING cd bob 0 1
        | some k =>
          let s := s.setFld .FDR_STATUS_WAITING cd bob 0 0
          let s := s.setBobbin cd bob ⟨rest, b.order ++ [k]⟩
          let s := { s with fills := s.fills.set none ⟨0, cd, bob, k⟩ (some c) }
          let s := (s.setFld .FDR_SLOT_STATE cd bob k 1).setFld .FDR_SLOT_SRC cd bob k (if c.kind = 1 then 0 else 1)
          let s := (s.setFld .FDR_SLOT_INT4 cd bob k (fieldOf c.w0 4 4)).setFld .FDR_SLOT_PASSES cd bob k (feedReuse c)
          let s := (s.setFld .FDR_SLOT_TICKET cd bob k (tkOf c)).setFld .FDR_SLOT_FLITS cd bob k 0
          let s := s.setFld .FDR_SLOT_LINE cd bob k 0
          if c.kind = 1 then s.tkRegister cd (tkOf c) c.slot bob else s

end State

/-- FEED_SUB (R95, R100, R101, R103, R112, R114): the head of the queue takes a slot and registers with its ticket. -/
def execFeedSub (cd : Fin 8) (arr : Fin 24) (b : Fin 2) (s : State) : Out := .next (s.gated cd (s.feedTake cd (2 * arr + b) 1))

/-- FEED_PRIV (R100, R101, R103, R107, R112, R114): the head of the queue takes a slot that the private port will fill. -/
def execFeedPriv (cd : Fin 8) (arr : Fin 24) (b : Fin 2) (s : State) : Out := .next (s.gated cd (s.feedTake cd (2 * arr + b) 2))

namespace State

/-- Refuses the station command at the head of a queue (R114). -/
def stationRefuse (s : State) (cd g : Nat) (c : Cmd) (ringOff : Bool) : State :=
  let x := s.station cd g
  let s := s.setFld (if ringOff then .CAR_FAULT_RING_OFF else .CAR_FAULT_BAD_INJ) cd 0 0 1
  let s := (s.setFld .CAR_FAULT_INFO_TAG cd 0 0 c.tag).setFld .CAR_FAULT_INFO_STATION cd 0 0 (8 * g + 4)
  let s := s.setFld .CAR_FAULT_INFO_TICKET cd 0 0 (tkOf c)
  let s := (s.setStation cd g { Station.reset with held := true }).setHeldBy cd (unitStation g) (some c.slot)
  let s := x.queue.foldl (fun s y => s.bumpCnt cd y.ctx (unitStation g)) s
  s.ctxError cd c.ctx causeCarousel (unitStation g) c.tag

/-- A ring that CAR_CTL.RING_EN disables (R91): ring 1 is CW, 2 is CCW. -/
def ringOff (s : State) (cd ring : Nat) : Bool :=
  (ring = 1 && !s.flagBit .CAR_CTL_RING_EN cd 0 0 0) || (ring = 2 && !s.flagBit .CAR_CTL_RING_EN cd 0 0 1)

/-- A station that sends a tile captures it too (R92, DEDUCED, log entry 120): the CAPTURE of the ticket and slot of the INJECT at the
head, right behind it, is taken once the INJECT has declared. -/
def captureOwn (s : State) (cd g : Nat) : State :=
  let x := s.station cd g
  match x.queue with
  | i :: c :: rest =>
    let s := s.reach cd c.enters
    if i.kind = 1 && c.kind = 2 && x.useId.isSome && x.copying.isNone && tkOf c = tkOf i && c.slot = i.slot && !badStation c g
        && s.sramOwned cd c.slot (addrOf c) 65536 then
      (s.setStation cd g { x with queue := i :: rest, copying := some (c, 0) }).tkRegister cd (tkOf c) c.slot (48 + g)
    else s
  | _ => s

/-- Takes the head of a station queue (R95, R113, R114): checks; a CAPTURE registers. An INJECT then waits to declare. -/
def stationTake (s : State) (cd g kind : Nat) : State :=
  let x := s.station cd g
  match x.queue with
  | [] => s
  | c :: _ =>
    if x.started && kind = 2 then s.captureOwn cd g
    else if x.started || !(c.kind = kind || !(c.kind = 1 || c.kind = 2)) then s
    else
    let s := s.reach cd c.enters
    if badStation c g || !s.sramOwned cd c.slot (addrOf c) 65536 then s.stationRefuse cd g c false
    else if c.kind = 1 && s.ringOff cd (injRing c) then s.stationRefuse cd g c true
    else
      let s := s.setStation cd g { x with started := true, useId := none, moved := 0 }
      if c.kind = 2 then s.tkRegister cd (tkOf c) c.slot (48 + g) else s

end State

/-- INJECT (R91, R94, R113, R114): the head of a station queue is checked; its declaration is TILE_DECLARE. -/
def execInject (cd : Fin 8) (g : Fin 4) (s : State) : Out := .next (s.gated cd (s.stationTake cd g 1))

/-- CAPTURE (R95, R113, R114): the head of a station queue is checked and registers; the riding flits do the rest. -/
def execCapture (cd : Fin 8) (g : Fin 4) (s : State) : Out := .next (s.gated cd (s.stationTake cd g 2))

/-- TILE_DECLARE (R91, R94, R109): the declaration of the injector at station `st` takes effect once its ticket is FREE. At a
stage-SRAM station it is the started INJECT; at a gateway the oldest tile that can be declared, in the order of each stream, once
its first byte has come. A stream tile that names a disabled ring is refused with RING_OFF: it leaves the buffer, and its context
gets the bus error, under the unit number of the stage-SRAM station of the gateway's group (DESIGN CHOICE, log entry 121). -/
def execTileDeclare (cd : Fin 8) (st : Fin 32) (s : State) : Out :=
  let g := st.val / 8
  .next (s.gated cd (
    if st.val % 8 = 4 then
      let x := s.station cd g
      match x.queue with
      | c :: _ =>
        if c.kind = 1 && x.started && x.useId.isNone && s.tkFree cd (tkOf c) then
          let r := s.tkDeclare cd (tkOf c) c.slot st (injRing c) (injSubs c) (.sram (addrOf c))
          r.2.setStation cd g { x with useId := some r.1 }
        else s
      | [] => s
    else if st.val % 8 = 0 then
      let ts := s.gateway cd g
      let next (t : GwTile) : Bool := ts.find? (fun x => x.useId.isNone && decide (x.src = t.src)) = some t
      match ts.find? (fun t => next t && t.got ≠ 0 && (s.ringOff cd t.ring || s.tkFree cd t.ticket)) with
      | some t =>
        if s.ringOff cd t.ring then
          let s := (s.setFld .CAR_FAULT_RING_OFF cd 0 0 1).setFld .CAR_FAULT_INFO_TAG cd 0 0 0
          let s := (s.setFld .CAR_FAULT_INFO_STATION cd 0 0 st).setFld .CAR_FAULT_INFO_TICKET cd 0 0 t.ticket
          let s := s.setHeldBy cd (unitStation g) (some t.slot)
          (s.setGateway cd g (ts.erase t)).ctxError cd t.ctx causeCarousel (unitStation g) 0
        else if s.tkFree cd t.ticket then
          let r := s.tkDeclare cd t.ticket t.slot st t.ring t.subs .gateway
          r.2.setGateway cd g (ts.map (fun y => if y = t then { y with useId := some r.1 } else y))
        else s
      | none => s
    else s))

/-- Hops from one station to another, CW or CCW (R91). -/
def hops (ccw : Bool) (src dst : Nat) : Nat := if ccw then (src + 32 - dst) % 32 else (dst + 32 - src) % 32

/-- The farthest of the subscribing stations in a direction (R92). -/
def farthest (ccw : Bool) (src : Nat) (sts : List Nat) : Nat :=
  sts.foldl (fun best x => if hops ccw src best < hops ccw src x then x else best) src

namespace State

/-- The ring of a use about to arm (R91): `some true` for CCW, none where no enabled ring serves. -/
def pickRing (s : State) (cd : Nat) (u : Use) : Option Bool :=
  let sts := u.regs.map regStation
  if u.ring = 1 then some false
  else if u.ring = 2 then some true
  else
    let cw := hops false u.station (farthest false u.station sts)
    let ccw := hops true u.station (farthest true u.station sts)
    let cwOn := s.flagBit .CAR_CTL_RING_EN cd 0 0 0
    let ccwOn := s.flagBit .CAR_CTL_RING_EN cd 0 0 1
    if cwOn && (!ccwOn || cw ≤ ccw) then some false else if ccwOn then some true else none

/-- The station at which ring slot k stands in the die's present beat (R89). -/
def slotStation (s : State) (cd ring k : Nat) : Nat :=
  let b := s.carBeat.get 0 (Key.at cd)
  if ring = 0 then (k + b) % 32 else (k + 32 - b % 32) % 32

/-- The ring slot that stands at a station. -/
def slotAt (s : State) (cd ring st : Nat) : Nat :=
  let b := s.carBeat.get 0 (Key.at cd)
  if ring = 0 then (st + 32 - b % 32) % 32 else (st + b) % 32

end State

/-- TILE_ARM (R91, R92, R96): the declared use of a ticket arms once its registrations equal SUBS; its ring and drop station are
fixed. -/
def execTileArm (cd : Fin 8) (tk : Fin 64) (s : State) : Out :=
  .next (s.gated cd (
    match (s.tkUses cd tk).find? (fun u => u.declared && !u.armed) with
    | some u =>
      if u.regs.length = u.subs then
        match s.pickRing cd u with
        | some ccw => s.mapUse cd tk u.id (fun u =>
            { u with armed := true, ccw := ccw, drop := farthest ccw u.station (u.regs.map regStation),
                     since := s.carBeat.get 0 (Key.at cd) })
        | none => s
      else s
    | none => s))

namespace State

/-- What stage SRAM gives a unit of a slot for one word (R256, R488): the word, or a poisoned word without data where the unit may
not have it. The flag says that it may not. -/
def tileWord (s : State) (cd slot off : Nat) : Word × Bool × State :=
  match s.readFor (.unit (Fin.ofNat 4 slot)) (sramAddr cd off) with
  | (.word w, s) => (w, false, s)
  | (_, s) => (⟨0, 1⟩, true, s)

/-- The 64 words of one flit read from stage SRAM (R90). -/
def flitFromSram (s : State) (cd slot off : Nat) : Memory × Memory × State :=
  (List.range 64).foldl (fun (x : Memory × Memory × State) w =>
    let r := x.2.2.tileWord cd slot (off + 32 * w)
    (x.1.writeBytes (32 * w) (leBytes 32 r.1.data), x.2.1.write w (BitVec.ofNat 8 r.1.tag), r.2.2)) ([], [], s)

/-- A word passes the check of a station (R281, R282): a corrected error counts, an uncorrectable one poisons the word and is recorded
for its ticket (R116, CAR_FAULT). -/
def verifyFlitWord (x : Flit × State) (cd st w : Nat) : Flit × State :=
  let word : Word := ⟨leNat (x.1.data.readBytes (32 * w) 32), (x.1.tags.read w).toNat⟩
  let put (d t : Nat) : Flit := { x.1 with
    data := x.1.data.writeBytes (32 * w) (leBytes 32 d), tags := x.1.tags.write w (BitVec.ofNat 8 t),
    errs := x.1.errs.set 0 (Key.at 0 0 w) 0 }
  match checkLight word (x.1.errs.get 0 (Key.at 0 0 w)) with
  | .clean _ _ => x
  | .corrected d t _ _ => (put d t, x.2.incFld .CAR_CNT_CE_COUNT cd 0 0)
  | .uncorrectable d t =>
    let s := (x.2.setFld .CAR_FAULT_TRANSIT_UE cd 0 0 1).setFld .CAR_FAULT_INFO_TAG cd 0 0 0
    let s := (s.setFld .CAR_FAULT_INFO_STATION cd 0 0 st).setFld .CAR_FAULT_INFO_TICKET cd 0 0 x.1.ticket
    (put d (t % 16 / 2 * 2 + 1), s)

/-- A flit passes the check of the station where it arrives (R282). -/
def verifyFlit (s : State) (cd st : Nat) (fl : Flit) : Flit × State :=
  fl.errs.foldl (fun x e => verifyFlitWord x cd st e.1.i) (fl, s)

/-- A CAPTURE stores a flit (R97): each word is written under its slot, and waits while its block is being zeroed (R256). -/
def captureFlit (s : State) (cd : Nat) (c : Cmd) (fl : Flit) : State :=
  (List.range 64).foldl (fun (s : State) w =>
    let a := sramAddr cd (addrOf c + 2048 * fl.f + 32 * w)
    let t := (fl.tags.read w).toNat
    match s.judge (.unit (Fin.ofNat 4 c.slot)) a with
    | .ok => s.writeWord (.unit (Fin.ofNat 4 c.slot)) a (leNat (fl.data.readBytes (32 * w) 32)) (tagPoison t) (tagSealed t)
    | .wait => { s with memWait := s.memWait ++ [.write (.unit (Fin.ofNat 4 c.slot)) a (fl.data.readBytes (32 * w) 32) t] }
    | _ => s) s

/-- One subscriber copies a flit (R92, R97): a bobbin into the slot it reserved for the use, a stage-SRAM station into stage
SRAM, where each word is written under its slot. -/
def copyFlit (s : State) (cd : Nat) (u : Use) (fl : Flit) (r : Nat) : State :=
  if r < 48 then
    let b := s.bobbin cd r
    let mine (k : Nat) : Bool :=
      s.fld .FDR_SLOT_SRC cd r k = 0 && s.fld .FDR_SLOT_TICKET cd r k = fl.ticket && s.fld .FDR_SLOT_FLITS cd r k < 32
        && (match s.fills.get none ⟨0, cd, r, k⟩ with | some c => c.slot = u.slot | none => false)
    match b.order.find? mine with
    | some k =>
      let base := tileBase cd r k
      let s := { s with tile := s.tile.blit (base + 2048 * fl.f) fl.data 0 2048,
                        tileTag := s.tileTag.blit (base / 32 + 64 * fl.f) fl.tags 0 64,
                        tileErr := s.tileErr.clear (fun x => x.i / 64 == base / 2048 + fl.f) }
      let s := s.crossEntries cd (fillCrossing r) 1
      let s := (s.incFld .FDR_SLOT_FLITS cd r k).incFld .FDR_CNT_FLITS_COUNT cd r 0
      s.setFld .FDR_SLOT_STATE cd r k 2
    | none => s
  else
    let g := r - 48
    let x := s.station cd g
    let takes (c : Cmd) : Bool := c.kind = 2 && tkOf c = fl.ticket && c.slot = u.slot
    match x.copying, x.queue with
    | some (c, m), _ =>
      if takes c then
        let s := s.captureFlit cd c fl
        if m + 1 = 32 then (s.setStation cd g { x with copying := none }).bumpCnt cd c.ctx (unitStation g)
        else s.setStation cd g { x with copying := some (c, m + 1) }
      else s
    | none, c :: rest =>
      if takes c && x.started then
        let s := s.captureFlit cd c fl
        if x.moved + 1 = 32 then (s.setStation cd g { Station.reset with queue := rest }).bumpCnt cd c.ctx (unitStation g)
        else s.setStation cd g { x with moved := x.moved + 1 }
      else s
    | none, [] => s

/-- Every subscriber at a station copies a flit there. -/
def copyAt (s : State) (cd : Nat) (u : Use) (fl : Flit) (st : Nat) : State :=
  (u.regs.filter (fun r => regStation r = st)).foldl (fun s r => s.copyFlit cd u fl r) s

/-- A gateway holds the next flit whole (R109). -/
def flitReady (s : State) (cd st : Nat) (tk : Nat) (u : Use) : Bool :=
  match u.src with
  | .sram _ => true
  | .gateway => (s.gateway cd (st / 8)).any (fun t => t.ticket = tk && t.useId = some u.id && decide (2048 * (u.sent + 1) ≤ t.got))

/-- The beat since which a use's next flit waits (R93): the one after its last flit or its arming, or the one in which a gateway had
the flit whole. -/
def flitSince (s : State) (cd st : Nat) (u : Use) : Nat :=
  match u.src with
  | .sram _ => u.since
  | .gateway => match (s.gateway cd (st / 8)).find? (fun t => decide (t.useId = some u.id)) with
    | some t => max u.since (t.readyAt.getD u.sent 0)
    | none => u.since

/-- The use whose flit a station sends next, with its ticket: an armed use with flits left; at a gateway the oldest such tile whose
next flit has come (DESIGN CHOICE, log entry 122). -/
def sendingAt (s : State) (cd st : Nat) : Option (Nat × Use) :=
  let live (tk id : Nat) : Option (Nat × Use) :=
    match s.useOf cd tk id with
    | some u => if u.armed && decide (u.sent < 32) then some (tk, u) else none
    | none => none
  if st % 8 = 4 then
    let x := s.station cd (st / 8)
    match x.queue with
    | c :: _ => x.useId.bind (live (tkOf c))
    | [] => none
  else if st % 8 = 0 then
    ((s.gateway cd (st / 8)).findSome? (fun t => (t.useId.bind (live t.ticket)).filter (fun e => s.flitReady cd st e.1 e.2)))
  else none

/-- The stage SRAM that a use's next flit comes from is being zeroed: the access waits (R256). -/
def flitWaits (s : State) (cd : Nat) (u : Use) : Bool :=
  match u.src with
  | .sram off => s.sramZeroing cd (off + 2048 * u.sent) 2048
  | .gateway => false

/-- Takes the next flit of a use from its source, through the check of its station (R282). -/
def takeFlit (s : State) (cd st tk : Nat) (u : Use) : Flit × State :=
  match u.src with
  | .sram off =>
    let r := s.flitFromSram cd u.slot (off + 2048 * u.sent)
    (⟨tk, u.id, u.sent, r.1, r.2.1, []⟩, r.2.2)
  | .gateway =>
    match (s.gateway cd (st / 8)).find? (fun t => decide (t.useId = some u.id)) with
    | some t =>
      let errs := (t.errs.filter (fun e => e.1.i / 64 == u.sent)).map (fun e => (Key.at 0 0 (e.1.i % 64), e.2))
      s.verifyFlit cd st ⟨tk, u.id, u.sent, Memory.blit [] 0 t.data (2048 * u.sent) 2048, Memory.blit [] 0 t.tags (64 * u.sent) 64, errs⟩
    | none => (⟨tk, u.id, u.sent, [], [], []⟩, s)

/-- A station's command or buffered tile ends once its last flit has left (R113). -/
def sentLast (s : State) (cd st : Nat) (u : Use) : State :=
  match u.src with
  | .sram _ =>
    let x := s.station cd (st / 8)
    match x.queue with
    | c :: rest => (s.setStation cd (st / 8) { Station.reset with queue := rest }).bumpCnt cd c.ctx (unitStation (st / 8))
    | [] => s
  | .gateway => s.setGateway cd (st / 8) ((s.gateway cd (st / 8)).filter (fun t => decide (t.useId ≠ some u.id)))

/-- The carousel of a die has its power and clock: the die is in service and not halted. -/
def carUp (s : State) (cd : Nat) : Bool := s.dieUp cd && !s.halted cd

end State

/-- FLIT_INJECT (R90, R92, R93): the station puts its next flit into the slot that stands at it on the use's ring, if that slot is
empty and not reserved for another station. A station injects one flit at most per beat, and a flit out of stage SRAM that is being
zeroed waits (R256). -/
def execFlitInject (cd : Fin 8) (st : Fin 32) (s : State) : Out :=
  .next (s.gated cd (
    match s.sendingAt cd st with
    | some (tk, u) =>
      let ring := if u.ccw then 1 else 0
      let k := s.slotAt cd ring st
      let slot := s.ringSlot cd ring k
      let beat := s.carBeat.get 0 (Key.at cd)
      if !s.flitReady cd st tk u || s.flitWaits cd u || slot.flit.isSome || !(slot.reserved = none || slot.reserved = some st.val) || beat ≤ u.since
          || s.injBeat.get 0 (Key.at cd st) = beat + 1 then s
      else
        let r := s.takeFlit cd st tk u
        let s := r.2.setRingSlot cd ring k ⟨none, some r.1⟩
        let s := { s with injBeat := s.injBeat.set 0 (Key.at cd st) (beat + 1) }
        let s := if u.src = .gateway then s.poolMoves cd (8 + st / 8) else s
        let s := s.incFld (if u.ccw then .CAR_CNT_FLIT_CCW_COUNT else .CAR_CNT_FLIT_CW_COUNT) cd 0 0
        let s := s.mapUse cd tk u.id (fun u => { u with sent := u.sent + 1, since := beat })
        let s := s.copyAt cd u r.1 st
        if u.sent + 1 = 32 then s.sentLast cd st u else s
    | none => s))

/-- SLOT_RESERVE (R93): a station whose next flit has waited 32 beats reserves the unreserved slot that passes it. It holds one
reservation at a time, and keeps it until it injects there or its command is cut (DESIGN CHOICE, log entry 123). -/
def execSlotReserve (cd : Fin 8) (st : Fin 32) (s : State) : Out :=
  .next (s.gated cd (
    match s.sendingAt cd st with
    | some (tk, u) =>
      let ring := if u.ccw then 1 else 0
      let k := s.slotAt cd ring st
      let slot := s.ringSlot cd ring k
      let beat := s.carBeat.get 0 (Key.at cd)
      let holds := s.rings.any (fun e => e.1.d == cd.val && e.2.reserved == some st.val)
      if s.flitReady cd st tk u && s.flitSince cd st u + 33 ≤ beat && slot.flit.isSome && slot.reserved.isNone && !holds then
        (s.setRingSlot cd ring k { slot with reserved := some st.val }).incFld .CAR_CNT_RESV_COUNT cd 0 0
      else s
    | none => s))

namespace State

/-- A flit of a use still rides toward its drop station (R92). -/
def ridingOn (s : State) (cd : Nat) (u : Use) : Bool :=
  s.rings.any (fun e => e.1.d == cd && (match e.2.flit with
    | some fl => fl.useId == u.id && s.slotStation cd e.1.u e.1.i != u.drop
    | none => false))

end State

/-- TILE_RIDE_END (R92, R97): every flit of the riding use has reached the drop station; the ticket returns to FREE. -/
def execTileRideEnd (cd : Fin 8) (tk : Fin 64) (s : State) : Out :=
  .next (s.gated cd (
    match (s.tkUses cd tk).find? (fun u => u.armed) with
    | some u =>
      if u.sent = 32 && !s.ridingOn cd u then s.setUses cd tk ((s.tkUses cd tk).filter (fun x => decide (x.id ≠ u.id))) else s
    | none => s))

/-- ARM_STALL (R98): a declared use unarmed for longer than CAR_WDOG.LIMIT (in microseconds; 0 is used as 1) is reported once. -/
def execArmStall (cd : Fin 8) (tk : Fin 64) (s : State) : Out :=
  .next (
    match (s.tkUses cd tk).find? (fun u => u.declared && !u.armed && !u.stalled) with
    | some u =>
      if s.now - u.since ≤ 100 * max 1 (s.fld .CAR_WDOG_LIMIT cd) then s
      else
        let s := (s.mapUse cd tk u.id (fun u => { u with stalled := true })).setFld .CAR_EVENTS_ARM_STALL cd 0 0 1
        s.raise .EV_CAR_ARM_STALL cd tk (s.carTkt cd tk) (some u.slot)
    | none => s)

namespace State

/-- The words of a private fill of the slot at `base` (R107), and whether one of them was uncorrectable. -/
def privateWords (s : State) (cd base : Nat) (c : Cmd) : State × Bool :=
  (List.range 2048).foldl (fun (x : State × Bool) w =>
    let t := x.1.tileWord cd c.slot (addrOf c + 32 * w)
    let s := t.2.2
    ({ s with tile := s.tile.writeBytes (base + 32 * w) (leBytes 32 t.1.data),
              tileTag := s.tileTag.write (base / 32 + w) (BitVec.ofNat 8 t.1.tag) }, x.2 || t.2.1)) (s, false)

/-- A slot that has been filled anew holds no errors of its old words. -/
def freshTile (s : State) (base : Nat) : State := { s with tileErr := s.tileErr.clear (fun x => x.i / 2048 == base / 65536) }

/-- The private port fills a slot (R107): 2,048 words of stage SRAM; a word the slot may no longer have arrives poisoned. -/
def fillPrivate (s : State) (cd bob k : Nat) (c : Cmd) : State :=
  let r := s.privateWords cd (tileBase cd bob k) c
  let s := r.1.freshTile (tileBase cd bob k)
  let s := (s.incFld .FDR_CNT_PRIV_COUNT cd bob 0 128).crossEntries cd (fillCrossing bob) 128
  let s := s.setFld .FDR_SLOT_FLITS cd bob k 32
  if r.2 then ((s.setFld .FDR_FAULT_UE cd bob 0 1).setFld .FDR_FAULT_INFO_TAG cd bob 0 c.tag).setFld .FDR_FAULT_INFO_SLOT cd bob 0 k
  else s

end State

namespace State

/-- A word passes the check of its bobbin when the array reads it (R281, R282): a corrected error counts, an uncorrectable one poisons
the word and sets FDR_FAULT.UE. -/
def verifyTileWord (s : State) (cd bob k w : Nat) : State :=
  let key := Key.at 0 0 w
  let put (d t : Nat) : State := { s with
    tile := s.tile.writeBytes (32 * w) (leBytes 32 d), tileTag := s.tileTag.write w (BitVec.ofNat 8 t), tileErr := s.tileErr.erase key }
  match checkLight ⟨leNat (s.tile.readBytes (32 * w) 32), (s.tileTag.read w).toNat⟩ (s.tileErr.get 0 key) with
  | .clean _ _ => s
  | .corrected d t _ _ => (put d t).incFld .FDR_CNT_CE_COUNT cd bob 0
  | .uncorrectable d t =>
    ((put d (t % 16 / 2 * 2 + 1)).setFld .FDR_FAULT_UE cd bob 0 1).setFld .FDR_FAULT_INFO_SLOT cd bob 0 k

/-- The array reads the first `bytes` bytes of a slot, and of an INT4 slot its tables too. -/
def verifyTile (s : State) (cd bob bytes : Nat) (k : Nat) : State :=
  let base := tileBase cd bob k / 32
  ((s.tileErr.map (fun e => e.1.i)).filter (fun w => decide (base ≤ w) && decide (w < base + (bytes + 31) / 32))).foldl
    (fun s w => s.verifyTileWord cd bob k w) s

/-- One delivered line: its elements at given byte addresses of `tile`, `w` bytes each, with the marks of their words. -/
def lineAt (s : State) (addrs : List Nat) (w : Nat) : Line :=
  let marks (b : Nat) : Nat :=
    (addrs.foldl (fun (x : Nat × Nat) a => (if (s.tileTag.read (a / 32)).toNat.testBit b then x.1 + x.2 else x.1, 2 * x.2)) (0, 1)).1
  ⟨addrs.map (fun a => leNat (s.tile.readBytes a w)), marks 0, marks 1⟩

/-- A bit set of the elements whose words carry a mark, from the addresses each element is made of. -/
def marksOf (s : State) (b : Nat) (addrs : List (List Nat)) : Nat :=
  (addrs.foldl (fun (x : Nat × Nat) l =>
    (if l.any (fun a => (s.tileTag.read (a / 32)).toNat.testBit b) then x.1 + x.2 else x.1, 2 * x.2)) (0, 1)).1

/-- The expansion byte of a packed INT4 tile (R129). -/
def int4Mode (s : State) (base : Nat) : Nat := (s.tile.read (base + 0xFFF8)).toNat

/-- Expanded lines of an INT4 tile (R133): 384 in TABLE mode, 504 in the AFFINE modes (and, log entry 21, under an expansion byte
that the manual gives no mode). -/
def int4Lines (mode : Nat) : Nat := if mode = 1 then 384 else 504

/-- A tile whose every line is delivered poisoned (R134): `fmt` is the format code that the command names for the operand. -/
def int4Bad (mode fmt : Nat) : Bool := mode = 0 || 3 < mode || arrFmtClass fmt = some 2 || (mode != 1 && fmt != 2 && fmt != 0)

/-- Expanded line j of an INT4 tile (R130 to R132, R134). A poisoned word of a table, zero point or expansion byte poisons the elements
that use it (DESIGN CHOICE, log entry 143). -/
def int4Line (s : State) (base fmt j : Nat) : Line :=
  let mode := s.int4Mode base
  let bad := int4Bad mode fmt
  let srcs (e : Nat) : List Nat :=
    let q := (s.tile.read (base + 128 * j + e / 2)).toNat / (if e % 2 = 0 then 1 else 16) % 16
    let z := if mode = 1 then base + 0xC000 + 16 * (2 * j + e / 128) + q
      else if mode = 2 then base + 0xFC00 + j else base + 0xFC00 + e
    [base + 128 * j + e / 2, z, base + 0xFFF8]
  let elem (e : Nat) : Nat :=
    let q := (s.tile.read (base + 128 * j + e / 2)).toNat / (if e % 2 = 0 then 1 else 16) % 16
    let z := (s.tile.read ((srcs e).getD 1 0)).toNat
    if mode = 1 then z
    else
      let v := toSigned 4 q - toSigned 4 z
      if fmt = 2 then ofSigned 8 v else (e4m3.encode false .rne 0 (Num.ofInt v)).pat
  let all := (List.range 256).map srcs
  ⟨(List.range 256).map elem, if bad then firstBits 256 else s.marksOf 0 all, s.marksOf 1 all⟩

/-- Part p of a line cut into lines of n elements (R133). -/
def cutLine (l : Line) (n p : Nat) : Line :=
  ⟨(l.elems.drop (n * p)).take n, l.poison / 2 ^ (n * p) % 2 ^ n, l.isSealed / 2 ^ (n * p) % 2 ^ n⟩

/-- How a command reads one bobbin (R42 to R45): elements per line, bytes per element, format code and transposition. -/
structure ReadAs where
  n : Nat
  w : Nat
  fmt : Nat
  xpose : Bool
  deriving DecidableEq, Repr

def readAs (c : Cmd) (b : Nat) : ReadAs :=
  let f := arrFields c
  let fmt := if b = 0 then f.fmtA else f.fmtB
  { n := if b = 0 && f.kind = 1 then formRows f.form else 256, w := if arrFmtClass fmt = some 2 then 2 else 1, fmt := fmt,
    xpose := if b = 0 then f.xposeA else f.xposeB }

/-- Lines in one pass over a slot, or over the pair of a transposed 16-bit read (R42, R44, R133). -/
def passLines (s : State) (base : Nat) (int4 : Bool) (r : ReadAs) : Nat :=
  if r.xpose then 256
  else if int4 then int4Lines (s.int4Mode base) * (256 / r.n)
  else 65536 / (r.n * r.w)

/-- Line j of a pass (R42 to R44, R102, R103): `bases` are the tiles read, two for a transposed 16-bit read. -/
def passLine (s : State) (bases : List Nat) (int4 : Bool) (r : ReadAs) (j : Nat) : Line :=
  let b0 := bases.getD 0 0
  if r.xpose then
    s.lineAt ((List.range 256).map (fun e =>
      if r.w = 2 then bases.getD (e / 128) 0 + 2 * (256 * (e % 128) + j) else b0 + 256 * e + j)) r.w
  else if int4 then cutLine (s.int4Line b0 r.fmt (j / (256 / r.n))) r.n (j % (256 / r.n))
  else s.lineAt ((List.range r.n).map (fun e => b0 + (j * r.n + e) * r.w)) r.w

/-- The running command that reads bobbin b next: among the core's commands and the load, the earliest with lines left. -/
def reader (a : ArrayUnit) (b : Nat) : Option (Bool × Running) :=
  let left (r : Running) : Nat := if b = 0 then r.aLeft else r.bLeft
  let core := a.inflight.find? (fun r => decide (0 < left r) && !r.seamWait)
  let load := match a.loading with
    | some r => if 0 < left r && r.bank < 2 then some r else none
    | none => none
  match core, load with
  | some c, some l => if l.order < c.order then some (true, l) else some (false, c)
  | some c, none => some (false, c)
  | none, some l => some (true, l)
  | none, none => none

/-- A bobbin slot becomes FREE (R104, R114): its registers read as after reset. -/
def dropSlot (s : State) (cd bob k : Nat) : State :=
  let s := s.resetFields (fun x => x.d == cd && x.u == bob && x.i == k && (x.f == Fld.FDR_SLOT_STATE.id || x.f == Fld.FDR_SLOT_SRC.id
    || x.f == Fld.FDR_SLOT_INT4.id || x.f == Fld.FDR_SLOT_PASSES.id || x.f == Fld.FDR_SLOT_TICKET.id
    || x.f == Fld.FDR_SLOT_FLITS.id || x.f == Fld.FDR_SLOT_LINE.id))
  let b := s.bobbin cd bob
  let s := { s with fills := s.fills.set none ⟨0, cd, bob, k⟩ none, earlyRead := s.earlyRead.set false ⟨0, cd, bob, k⟩ false }
  s.setBobbin cd bob { b with order := b.order.erase k }

/-- Ends one pass of a slot (R104): it rewinds, or becomes FREE after its last pass. -/
def endPass (s : State) (cd bob k : Nat) : State :=
  let p := s.fld .FDR_SLOT_PASSES cd bob k
  if 0 < p then ((s.setFld .FDR_SLOT_PASSES cd bob k (p - 1)).setFld .FDR_SLOT_STATE cd bob k 4).setFld .FDR_SLOT_LINE cd bob k 0
  else s.dropSlot cd bob k

/-- The first `bytes` bytes of a bobbin slot may be read (R102): the tile is whole, or a plain read follows the flits that have come. -/
def slotReadable (s : State) (cd bob k bytes : Nat) (plain : Bool) : Bool :=
  decide (3 ≤ s.fld .FDR_SLOT_STATE cd bob k)
    || (plain && s.fld .FDR_SLOT_STATE cd bob k = 2 && !s.earlyRead.get false ⟨0, cd, bob, k⟩
      && decide (bytes ≤ 2048 * s.fld .FDR_SLOT_FLITS cd bob k))

/-- Ends the pass over a slot, or notes that it is over where the slot is still filling. -/
def passOver (s : State) (cd bob k : Nat) : State :=
  if 3 ≤ s.fld .FDR_SLOT_STATE cd bob k then s.endPass cd bob k
  else { s with earlyRead := s.earlyRead.set false ⟨0, cd, bob, k⟩ true }

/-- A slot that has been read ahead of its fill ends its pass with it. -/
def passSettle (s : State) (cd bob k : Nat) : State :=
  if s.earlyRead.get false ⟨0, cd, bob, k⟩ then ({ s with earlyRead := s.earlyRead.set false ⟨0, cd, bob, k⟩ false }).endPass cd bob k else s

/-- Gives lines to a running command. -/
def giveLines (r : Running) (b : Nat) (ls : List Line) : Running :=
  if b = 0 then { r with aLeft := r.aLeft - ls.length, aLines := r.aLines ++ ls }
  else { r with bLeft := r.bLeft - ls.length, bLines := r.bLines ++ ls }

end State

/-- BOBBIN_SLOT_READY (R101, R102, R107): a slot with all 64 KiB written becomes READY and counts for its context. A carousel fill
has its 32 flits; the private port's copy is done here, and waits for a block that is being zeroed. -/
def execBobbinSlotReady (cd : Fin 8) (arr : Fin 24) (b : Fin 2) (k : Fin 4) (s : State) : Out :=
  let bob := 2 * arr.val + b.val
  let st := s.fld .FDR_SLOT_STATE cd bob k
  .next (s.gated cd (
    match s.fills.get none ⟨0, cd, bob, k⟩ with
    | some c =>
      if !(st = 1 || st = 2) then s
      else
        let priv := s.flag .FDR_SLOT_SRC cd bob k
        if priv && s.sramZeroing cd (addrOf c) 65536 then s
        else if !priv && s.fld .FDR_SLOT_FLITS cd bob k ≠ 32 then s
        else
          let s := if priv then s.fillPrivate cd bob k c else s
          ((s.setFld .FDR_SLOT_STATE cd bob k 3).bumpCnt cd c.ctx (0x18 + bob)).passSettle cd bob k
    | none => s))

/-- A running command whose transposed read meets packed INT4 weights in a slot that was assigned after its issue is refused there
(R103, DEDUCED, log entry 124): as R85 refuses one at issue. -/
def State.refuseRunning (s : State) (cd n : Nat) (isLoad : Bool) (r : Running) : State :=
  let a := s.array cd n
  let s := s.setArray cd n { a with
    queue := .cmd r.cmd :: a.queue, loading := (if isLoad then none else a.loading),
    inflight := (if isLoad then a.inflight else a.inflight.filter (fun x => decide (x.order ≠ r.order))) }
  s.arrRefuse cd n r.cmd.ctx r.cmd.tag r.cmd.kind (.badCmd 0x4)

/-- BOBBIN_PASS_END (R42 to R46, R102 to R104, R129 to R134): the array reads the tile at the head of a bobbin to its last line, or
as far as its command needs, and the pass ends. The lines go to the command that reads the bobbin next. -/
def execBobbinPassEnd (cd : Fin 8) (arr : Fin 24) (b : Fin 2) (s : State) : Out :=
  let bob := 2 * arr.val + b.val
  let a := s.array cd arr
  .next (s.gated cd (
    match State.reader a b with
    | none => s
    | some (isLoad, r) =>
      let ra := State.readAs r.cmd b
      let need := if ra.xpose && ra.w = 2 then 2 else 1
      let ks := (s.bobbin cd bob).order.take need
      let bases := ks.map (tileBase cd bob)
      let int4 := s.flag .FDR_SLOT_INT4 cd bob (ks.headD 0)
      let total := s.passLines (bases.headD 0) int4 ra
      let left := if b.val = 0 then r.aLeft else r.bLeft
      if ks.length < need || !ks.all (fun k => s.slotReadable cd bob k (min total left * ra.n * ra.w) (!ra.xpose && !int4)) then s
      else if ra.xpose && int4 then s.refuseRunning cd arr isLoad r
      else
        let bytes := if ra.xpose || int4 then 65536 else min total left * ra.n * ra.w
        let s := ks.foldl (fun s k => s.verifyTile cd bob bytes k) s
        let ls := (List.range (min total left)).map (s.passLine bases int4 ra)
        let r' := State.giveLines r b ls
        let s := s.setArray cd arr (if isLoad then { a with loading := some r' }
          else { a with inflight := a.inflight.map (fun x => if x.order = r.order then r' else x) })
        let s := if int4 && State.int4Bad (s.int4Mode (bases.headD 0)) ra.fmt then
            (s.setFld .FDR_FAULT_UE cd bob 0 1).setFld .FDR_FAULT_INFO_SLOT cd bob 0 (ks.headD 0)
          else s
        let s := s.incFld .FDR_CNT_LINES_COUNT cd bob 0 ls.length
        ks.foldl (fun s k => s.passOver cd bob k) s))

namespace State

/-- Clears written bits of FDR_FAULT (R16, R114). -/
def clearFdrFault (s : State) (cd bob : Nat) (v : Nat) : State :=
  let s := if v.testBit 0 then s.setFld .FDR_FAULT_BAD_FEED cd bob 0 0 else s
  let s := if v.testBit 1 then s.setFld .FDR_FAULT_GROUP cd bob 0 0 else s
  if v.testBit 2 then s.setFld .FDR_FAULT_UE cd bob 0 0 else s

/-- The station queues accept commands again once BAD_INJ and RING_OFF read zero (R114). -/
def carRelease (s : State) (cd : Nat) : State :=
  if s.flag .CAR_FAULT_BAD_INJ cd || s.flag .CAR_FAULT_RING_OFF cd then s
  else (List.range 4).foldl (fun s g => if (s.station cd g).held then s.setStation cd g { s.station cd g with held := false } else s) s

/-- Clears written bits of CAR_FAULT (R16, R114). -/
def clearCarFault (s : State) (cd : Nat) (v : Nat) : State :=
  let s := if v.testBit 0 then s.setFld .CAR_FAULT_BAD_INJ cd 0 0 0 else s
  let s := if v.testBit 1 then s.setFld .CAR_FAULT_RING_OFF cd 0 0 0 else s
  let s := if v.testBit 2 then s.setFld .CAR_FAULT_TRANSIT_UE cd 0 0 0 else s
  s.carRelease cd

/-- A station command reaches a station queue (R113, R114): a queue held by a fault discards and counts it. -/
def stationEnqueue (s : State) (cd g : Nat) (c : Cmd) : State :=
  let x := s.station cd g
  if x.held then s.bumpCnt cd c.ctx (unitStation g) else s.setStation cd g { x with queue := x.queue ++ [c] }

end State

/-- FDR_FAULT_CLEAR (R114, R115): supervisor authority only. -/
def execFdrFaultClear (acc : Accessor) (cd : Fin 8) (arr : Fin 24) (b : Fin 2) (v : Word64) (s : State) : Out :=
  .next (s.regWrite cd (isSup acc) fun s => some (s.clearFdrFault cd (2 * arr + b) v.toNat))

/-- CAR_FAULT_CLEAR (R114, R115): supervisor authority only. -/
def execCarFaultClear (acc : Accessor) (cd : Fin 8) (v : Word64) (s : State) : Out :=
  .next (s.regWrite cd (isSup acc) fun s => some (s.clearCarFault cd v.toNat))

namespace State

/-- Every flit on the rings passes the check of its new station (R282). -/
def verifyRings (s : State) (cd : Nat) : State :=
  (s.rings.filter (fun e => e.1.d == cd)).foldl (fun (s : State) e =>
    match e.2.flit with
    | some fl =>
      if fl.errs.isEmpty then s
      else
        let r := s.verifyFlit cd (s.slotStation cd e.1.u e.1.i) fl
        r.2.setRingSlot cd e.1.u e.1.i { e.2 with flit := some r.1 }
    | none => s) s

/-- The flits that stand at their drop station leave the ring (R92). -/
def dropFlits (s : State) (cd : Nat) : State :=
  (s.rings.filter (fun e => e.1.d == cd)).foldl (fun (s : State) e =>
    match e.2.flit with
    | some fl =>
      let gone := match s.useOf cd fl.ticket fl.useId with
        | some u => s.slotStation cd e.1.u e.1.i == u.drop
        | none => true
      if gone then s.setRingSlot cd e.1.u e.1.i { e.2 with flit := none } else s
    | none => s) s

/-- The subscribers at each flit's new station copy it (R92, R97). -/
def copyAll (s : State) (cd : Nat) : State :=
  (s.rings.filter (fun e => e.1.d == cd)).foldl (fun (s : State) e =>
    match e.2.flit with
    | some fl => match s.useOf cd fl.ticket fl.useId with
      | some u => s.copyAt cd u fl (s.slotStation cd e.1.u e.1.i)
      | none => s
    | none => s) s

/-- What the carousel's beat counters see in one beat: stations whose flit waited, declared uses not armed, and feed commands without a
slot. -/
def carCounters (s : State) (cd : Nat) : State :=
  let beat := s.carBeat.get 0 (Key.at cd)
  let us := (s.uses.filter (fun e => e.1.d == cd)).flatMap (fun e => e.2.map (fun u => (e.1.u, u)))
  let waits (st : Nat) : Bool := match s.sendingAt cd st with
    | some (tk, u) => decide (u.since < beat) && s.flitReady cd st tk u
    | none => false
  let inj := ((List.range 8).filter (fun k => waits (4 * k))).length
  let arm := (us.filter (fun e => e.2.declared && !e.2.armed)).length
  let s := if inj = 0 then s else s.incFld .CAR_CNT_INJ_WAIT_COUNT cd 0 0 inj
  let s := if arm = 0 then s else s.incFld .CAR_CNT_ARM_WAIT_COUNT cd 0 0 arm
  (s.bobbins.filter (fun e => e.1.d == cd)).foldl (fun s e =>
    if !e.2.queue.isEmpty && e.2.order.length = 4 then s.incFld .FDR_CNT_SUB_WAIT_COUNT cd e.1.u 0 else s) s

/-- One carousel beat of a die (R89): every slot moves one station, and each segment reads the entry that the one before it wrote a beat
earlier (R331). -/
def carMove (s : State) (cd : Nat) : State :=
  let s := (s.carCounters cd).dropFlits cd
  let s := { s with carBeat := s.carBeat.set 0 (Key.at cd) (s.carBeat.get 0 (Key.at cd) + 1) }
  (s.verifyRings cd).copyAll cd

/-- The carousel of a die runs for one tick of the reference timer, at the die's frequency step (R335, log entry 5). -/
def carTick (s : State) (cd : Nat) : State :=
  if s.carUp cd then
    let h := s.halves.get 0 (Key.at cd)
    let h' := h + halfBeats (s.fld .CLK_STEP_CURRENT cd)
    (List.range (h' / 2 - h / 2)).foldl (fun s _ => s.carMove cd) { s with halves := s.halves.set 0 (Key.at cd) h' }
  else s

end State

end Sys2Proof.Machine
end

