-- ==== Sys2Proof/Machine/Translate.lean ====
section
/-! DEFINITION. What the translating units share: host authority over a slot (R437), the page walk (R300 to R302), access to
memory behind a virtual address (R255, R30, R31), the census merge (R217) and the stash allocator (R197 to R200, R260). -/

namespace Sys2Proof.Machine

namespace State

/-- Host authority of slot x (R437): a core access whose hart has CORE_AUTH.VALID = 1 and CORE_AUTH.SLOT = x. Harts 0 to 15 have
their register on IOD0, 16 to 31 on IOD1. -/
def hostAuth (s : State) (acc : Accessor) (x : Nat) : Bool :=
  match acc with
  | .core h _ =>
    s.flag .CORE_AUTH_VALID (iodDie (h.val / 16)) 0 (h.val % 16) && s.fld .CORE_AUTH_SLOT (iodDie (h.val / 16)) 0 (h.val % 16) = x
  | .supervisor => false

/-- The slot whose authority an accessor carries. -/
def authSlot (s : State) (acc : Accessor) : Option Nat := (List.range 4).find? (fun x => s.hostAuth acc x)

/-- An 8-byte entry of a page table (R300 to R302): `none` where its word is poisoned or lies outside a SYSTEM frame. An entry whose
frame is being zeroed is read once it is zero (R257). -/
def tableEntry (s : State) (a : Nat) : Option Nat :=
  match frameOf a with
  | some (t, n) =>
    if (s.frame t n).owner = .system && s.serves a then
      if s.zeroingAt a then some 0
      else match decodeWord (s.strongAt a) (s.rawData a) (s.rawSide a) with
      | .clean d tg => if tagPoison tg then none else some (bits d (8 * (a % 32) + 63) (8 * (a % 32)))
      | .corrected d tg _ _ => if tagPoison tg then none else some (bits d (8 * (a % 32) + 63) (8 * (a % 32)))
      | .uncorrectable _ _ => none
    else none
  | none => none

end State

/-- A translation: a physical address, or the cause of the fault (R302). -/
inductive Xlt where
  | pa (a : Nat)
  | fault (cause : Nat)
  deriving DecidableEq, Repr

def xltInvalid : Nat := 1
def xltWrite : Nat := 2
def xltFormat : Nat := 3
def xltWalk : Nat := 4

/-- Index of a virtual address at a level (R300). -/
def xltIndex (level va : Nat) : Nat :=
  match level with
  | 0 => bits va 47 39
  | 1 => bits va 38 30
  | 2 => bits va 29 21
  | _ => bits va 20 16

namespace State

/-- The walk from a level on (R300 to R302). -/
def walkFrom (s : State) (va : Nat) (wr : Bool) : Nat → Nat → Nat → Xlt
  | 0, _, _ => .fault xltFormat
  | fuel + 1, level, table =>
    match s.tableEntry (table + 8 * xltIndex level va) with
    | none => .fault xltWalk
    | some e =>
      let leaf := e.testBit 1
      let addr := 4096 * bits e 51 12
      if !e.testBit 0 then .fault xltInvalid
      else if bits e 11 3 != 0 || bits e 63 52 != 0 || (leaf && level < 2) || (!leaf && level = 3) || (!leaf && e.testBit 2)
          || (leaf && level = 2 && addr % 2 ^ 21 != 0) || (leaf && level = 3 && addr % 2 ^ 16 != 0) then .fault xltFormat
      else if !leaf then s.walkFrom va wr fuel (level + 1) addr
      else if wr && !e.testBit 2 then .fault xltWrite
      else .pa (addr + va % (if level = 2 then 2 ^ 21 else 2 ^ 16))

/-- Translates a device virtual address of a slot (R300 to R302). -/
def translate (s : State) (slot va : Nat) (wr : Bool) : Xlt :=
  if !s.flag .XLT_ROOT_EN iod0 slot then .fault xltInvalid
  else s.walkFrom va wr 4 0 (4096 * s.fld .XLT_ROOT_ROOT iod0 slot)

/-- The table entries that a walk reads, from a level on. -/
def walkEntries (s : State) (va : Nat) : Nat → Nat → Nat → List Nat
  | 0, _, _ => []
  | fuel + 1, level, table =>
    let a := table + 8 * xltIndex level va
    match s.tableEntry a with
    | none => [a]
    | some e => if e.testBit 0 && !e.testBit 1 && level < 3 then a :: s.walkEntries va fuel (level + 1) (4096 * bits e 51 12) else [a]

/-- What the controllers count, log and rewrite for the table words of a walk (R274, R276). -/
def touchWalk (s : State) (slot va : Nat) : State :=
  if !s.flag .XLT_ROOT_EN iod0 slot then s
  else (s.walkEntries va 4 0 (4096 * s.fld .XLT_ROOT_ROOT iod0 slot)).foldl (fun s a =>
    if (frameOf a).isSome && s.serves a && !s.zeroingAt a then (s.decodeAt (a / 32 * 32)).2 else s) s

/-- The walks of the 64 KiB pages that a range of virtual addresses touches: a page's translation is cached, so each is walked once
for a request (log entry 22). -/
def touchPages (s : State) (slot va n : Nat) : State :=
  (List.range ((va + n - 1) / 2 ^ 16 - va / 2 ^ 16 + 1)).foldl (fun s k => s.touchWalk slot (2 ^ 16 * (va / 2 ^ 16 + k))) s

/-- Checks one translated word (R30, R31, R255): only frames of HBM and tier 2 lie behind a virtual address. -/
def admitVa (s : State) (req : Requester) (a : Nat) : Admit := if (frameOf a).isSome then s.judge req a else .bus

end State

/-- The request that a slot's unit makes. -/
def unitReq (slot : Nat) : Requester := .unit (Fin.ofNat 4 slot)

/-- Merges bytes into a word: `none` keeps the old byte. -/
def State.mergeSparse (s : State) (req : Requester) (a : Nat) (bs : List (Option Byte)) (poison isSealed : Bool) : State :=
  if bs.all Option.isSome then s.writeWord req a (leNat (bs.map (fun b => b.getD 0))) poison isSealed
  else
    let r := s.decodeAt a
    let old := leBytes 32 r.1.data
    let new := (List.range 32).map (fun k => ((bs.getD k none)).getD (old.getD k 0))
    r.2.writeWord req a (leNat new) (poison || tagPoison r.1.tag) (isSealed || tagSealed r.1.tag)

/-- An empty gathering of counts (R214). -/
def censusZero : List Nat := [0, 0, 0, 0, 0, 0, 0]

/-- Counts one element (R214): `src` before scaling, `res` as stored, `sat` a marked saturation. -/
def censusCount (c : List Nat) (src res : Num) (sat : Bool) : List Nat :=
  let z (b : Bool) : Nat := if b then 1 else 0
  let inf (x : Num) : Bool := match x with
    | .inf _ => true
    | _ => false
  let amax := if src.isFinite then rne32 src.abs else 0
  [c.getD 0 0 + 1, c.getD 1 0 + z res.isZero, c.getD 2 0 + z (src.isFinite && !src.isZero && res.isZero), c.getD 3 0 + z sat,
   c.getD 4 0 + z (src.isNan || res.isNan), c.getD 5 0 + z (inf src || inf res), max (c.getD 6 0) amax]

/-- Counts one poisoned element (R309): in COUNT and NAN only. -/
def censusPoison (c : List Nat) : List Nat :=
  [c.getD 0 0 + 1, c.getD 1 0, c.getD 2 0, c.getD 3 0, c.getD 4 0 + 1, c.getD 5 0, c.getD 6 0]

/-- Two's complement value of an 8-bit field. -/
def s8 (v : Nat) : Int := toSigned 8 v

namespace State

/-- Marks an overflow of the slot's step (R219): NUM_OVF keeps the first CID. One that arrives after the local vote was formed
sets OVF_AFTER ("When a census merge meets a cast vote"). -/
def setOvf (s : State) (slot cid : Nat) : State :=
  if s.flag .NUM_OVF_OVF mh0 slot then s
  else
    let s := (s.setFld .NUM_OVF_OVF mh0 slot 0 1).setFld .NUM_OVF_CID mh0 slot 0 cid
    if s.fld .CMT_STATUS_STATE mh0 slot = 2 then
      let s := s.setFld .CMT_STATUS_OVF_AFTER mh0 slot 0 1
      s.raise .EV_CMT_OVF_AFTER mh0 slot (s.regWord .CMT_STATUS mh0 slot) (some slot)
    else s

/-- The virtual address of a census record (R217). -/
def censusVa (s : State) (slot cid step : Nat) : Nat :=
  4096 * s.fld .NUM_CEN_BASE_BASE mh0 slot + 64 * ((step % 2) * s.fld .NUM_CEN_CFG_CIDS mh0 slot + cid)

/-- A saturating 64-bit sum (R217). -/
def sat64 (a b : Nat) : Nat := min (a + b) (2 ^ 64 - 1)

/-- Merges gathered counts into a census record (R215 to R219). The Boolean is false where the merge fails, which is an error of
the stream or collective; `none` where the record's frame is being zeroed and the merge waits. -/
def censusMerge (s : State) (slot cid cls step : Nat) (u : List Nat) (isSealed : Bool) : Option (Bool × State) :=
  if !s.flag .NUM_CEN_BASE_EN mh0 slot then some (true, s)
  else
    let s := s.touchWalk slot (s.censusVa slot cid step)
    match s.translate slot (s.censusVa slot cid step) true with
    | .fault _ => some (false, s)
    | .pa a =>
      match s.admitVa (unitReq slot) a with
      | .wait => none
      | .bus => some (false, s)
      | .access => some (false, s)
      | .ok =>
        let r0 := s.decodeAt a
        let r1 := r0.2.decodeAt (a + 32)
        let s := r1.2
        let poison := tagPoison r0.1.tag || tagPoison r1.1.tag
        let b := leBytes 32 r0.1.data ++ leBytes 32 r1.1.data
        let get (o n : Nat) : Nat := leNat ((b.drop o).take n)
        let oldStep := get 0 4
        if step < oldStep then
          let s := s.incFld .NUM_CNT_DISCARD_COUNT mh0 slot 0
          some (!poison, if poison && step = s.fld .NUM_STEP_STEP mh0 slot then s.setOvf slot cid else s)
        else
          let fresh := oldStep < step
          let old (o n : Nat) : Nat := if fresh then 0 else get o n
          let cls' := old 6 1 ||| cls
          let cur := s.fld .NUM_STEP_STEP mh0 slot
          let late := decide (step < cur)
          let nan := sat64 (old 0x28 8) (u.getD 4 0)
          let inf := sat64 (old 0x30 8) (u.getD 5 0)
          let sat := sat64 (old 0x20 8) (u.getD 3 0)
          let rec' := leBytes 4 step ++ leBytes 2 cid ++ leBytes 1 cls' ++ leBytes 1 (if late then 1 else old 7 1)
            ++ leBytes 8 (sat64 (old 8 8) (u.getD 0 0)) ++ leBytes 8 (sat64 (old 0x10 8) (u.getD 1 0))
            ++ leBytes 8 (sat64 (old 0x18 8) (u.getD 2 0)) ++ leBytes 8 sat ++ leBytes 8 nan ++ leBytes 8 inf
            ++ leBytes 4 (max (old 0x38 4) (u.getD 6 0)) ++ leBytes 4 (old 0x3C 4 + 1)
          let sl := isSealed || (!fresh && (tagSealed r0.1.tag || tagSealed r1.1.tag))
          let s := s.writeWord (unitReq slot) a (leNat (rec'.take 32)) (tagPoison r0.1.tag) sl
          let s := s.writeWord (unitReq slot) (a + 32) (leNat (rec'.drop 32)) (tagPoison r1.1.tag) sl
          let s := if late then (s.incFld .NUM_CNT_LATE_COUNT mh0 slot 0).raise .EV_CENSUS_LATE mh0 0
              (s.regWord .NUM_STEP mh0 slot) (some slot)
            else s
          let overs := (cls'.testBit 2 && (0 < nan + inf || (s.flag .NUM_CEN_CFG_SAT_SKIP mh0 slot && 0 < sat))) || poison
          some (!poison, if step = cur && overs then s.setOvf slot cid else s)

/-- An entry of a die's stash directory. -/
def stashEntry (s : State) (cd i : Nat) : Option StashEntry := s.stash.get none (Key.at cd 0 i)
def setStashEntry (s : State) (cd i : Nat) (e : Option StashEntry) : State := { s with stash := s.stash.set none (Key.at cd 0 i) e }

/-- The live entry of a slot with a key on a die (R197). -/
def stashFind (s : State) (cd slot key : Nat) : Option (Nat × StashEntry) :=
  s.stash.findSome? (fun e => if e.1.d = cd then (e.2.bind (fun x => if x.slot = slot && x.key = key then some (e.1.i, x) else none)) else none)

/-- Live entries of a die (STASH_STATUS.USED). -/
def stashUsed (s : State) (cd : Nat) : Nat := (s.stash.filter (fun e => e.1.d == cd && e.2.isSome)).length

/-- The lowest free entry of a directory of 4,096 (R197). -/
def stashFree (s : State) (cd : Nat) : Option Nat := (List.range 4096).find? (fun i => (s.stashEntry cd i).isNone)

/-- Units that the live entries of a slot hold, on every die, in HBM or in tier 2. -/
def unitsHeld (s : State) (slot : Nat) (tier2 : Bool) : List Nat :=
  s.stash.flatMap (fun e => match e.2 with
    | some x => if x.slot = slot then x.units.filter (fun u => decide (65536 * u ≥ tier2Base) == tier2) else []
    | none => [])

/-- The frames of a slot with a USE. -/
def framesUsed (s : State) (slot tier : Nat) (use : FrameUse) : List Nat :=
  (s.frames.filter (fun e => e.1.u == tier && decide (e.2.owner = .slot slot) && decide (e.2.use = use))).map (fun e => e.1.i)

/-- Granted units of the stash and the spill quota (R260). -/
def unitsGranted (s : State) (slot : Nat) (tier2 : Bool) : Nat :=
  32 * (s.framesUsed slot (if tier2 then 1 else 0) (if tier2 then .spill else .stash)).length

/-- Free units that R200 tests (R260). -/
def unitsFree (s : State) (slot : Nat) (tier2 : Bool) : Nat :=
  min (32 * s.fld (if tier2 then .QTA_SPILL_LIMIT else .QTA_STASH_LIMIT) mh0 slot) (s.unitsGranted slot tier2)
    - (s.unitsHeld slot tier2).length

/-- Hubs in the order in which a die allocates (R198, R24): fewer ring segments first, then the lower number. -/
def hubOrder (cd : Nat) : List Nat :=
  (List.range 4).flatMap (fun k => (List.range 4).filter (fun h => (ringPath (cd / 2) h false).1 = k))

/-- Chooses n free units for a die (R198): in HBM its own hub's area first. -/
def pickUnits (s : State) (cd slot n : Nat) (tier2 : Bool) : List Nat :=
  let held := s.unitsHeld slot tier2
  let frames := s.framesUsed slot (if tier2 then 1 else 0) (if tier2 then .spill else .stash)
  let base := if tier2 then tier2Base / 65536 else 0
  let ordered := if tier2 then frames
    else (hubOrder cd).flatMap (fun h => frames.filter (fun f => (s.hbmMap (2 ^ 21 * f)).1 / 6 = h))
  let units := (ordered.flatMap (fun f => (List.range 32).map (fun k => base + f * 32 + k))).filter (fun u => !held.contains u)
  units.take n

end State

/-- How a stash write was decided (R200). -/
inductive StashDecision where
  | error | exhausted | dropped (i : Nat) | placed (i : Nat) (tier2 : Bool)
  deriving DecidableEq, Repr

namespace State

/-- Decides a stash write of `bytes` bytes under a key (R198 to R200). The counters and FULL_SEEN follow. -/
def stashDecide (s : State) (cd slot key bytes : Nat) (recomp : Bool) : StashDecision × State :=
  let n := (bytes + 65535) / 65536
  if (s.stashFind cd slot key).isSome then (.error, s)
  else match s.stashFree cd with
    | none =>
      (.exhausted, (s.setBit .STASH_STATUS_FULL_SEEN cd 0 0 slot true).incFld .STASH_CNT_EXH_COUNT cd 0 0)
    | some i =>
      if n ≤ s.unitsFree slot false && (s.pickUnits cd slot n false).length = n then
        (.placed i false, (s.setStashEntry cd i (some ⟨key, slot, .writing, .hbm, recomp, bytes, s.pickUnits cd slot n false⟩)).incFld
          .STASH_CNT_HBM_COUNT cd 0 0)
      else if recomp then
        (.dropped i, (s.setStashEntry cd i (some ⟨key, slot, .dropped, .dropped, recomp, bytes, []⟩)).incFld .STASH_CNT_DROP_COUNT cd 0 0)
      else if n ≤ s.unitsFree slot true && (s.pickUnits cd slot n true).length = n then
        (.placed i true, (s.setStashEntry cd i (some ⟨key, slot, .writing, .tier2, recomp, bytes, s.pickUnits cd slot n true⟩)).incFld
          .STASH_CNT_SPILL_COUNT cd 0 0)
      else (.exhausted, s.incFld .STASH_CNT_EXH_COUNT cd 0 0)

end State

end Sys2Proof.Machine
end

