-- ==== Sys2Proof/Machine/Virtual.lean ====
section
/-! DEFINITION. Reading and writing byte ranges behind device virtual addresses (R300 to R302), for the units that do it apart
from streams: update engines, ring engines and the snapshot path. Each word is one access (R30, R37, R38, R255, R488). -/

namespace Sys2Proof.Machine

/-- Bytes read, a wait for zeroing (R257), or a failure. -/
inductive VaBytes where
  | ok (bs : List MByte)
  | wait
  | bad
  deriving DecidableEq, Repr

def mValue (bs : List MByte) : Nat := leNat (bs.map MByte.b)
def mPoison (bs : List MByte) : Bool := bs.any MByte.poison
def mSealed (bs : List MByte) : Bool := bs.any MByte.isSealed
/-- `n` bytes from an offset. -/
def mSub (bs : List MByte) (off n : Nat) : List MByte := (bs.drop off).take n

namespace State

/-- One word behind a virtual address. -/
def vaWord (s : State) (req : Requester) (slot va : Nat) : Got × State :=
  match s.translate slot va false with
  | .fault _ => (.bus, s)
  | .pa a => if (frameOf a).isSome then s.readFor req (a / 32 * 32) else (.bus, s)

/-- Reads words from a word address on. -/
def vaWords (req : Requester) (slot : Nat) : Nat → Nat → List MByte → State → VaBytes × State
  | 0, _, acc, s => (.ok acc, s)
  | n + 1, va, acc, s =>
    match s.vaWord req slot va with
    | (.word w, s') =>
      vaWords req slot n (va + 32) (acc ++ (leBytes 32 w.data).map (fun b => ⟨b, tagPoison w.tag, tagSealed w.tag⟩)) s'
    | (.wait, s') => (.wait, s')
    | (.bus, s') => (.bad, s')
    | (.access, s') => (.bad, s')

/-- Reads `n` bytes behind a virtual address. -/
def vaRead (s : State) (req : Requester) (slot va n : Nat) : VaBytes × State :=
  match vaWords req slot (wordsOf va n).length (va / 32 * 32) [] (s.touchPages slot va n) with
  | (.ok bs, s') => (.ok (mSub bs (va % 32) n), s')
  | r => r

/-- Every word of a range translates and may be accessed: `some true`; one waits for zeroing: `some false`; one fails: `none`. -/
def vaAdmit (s : State) (req : Requester) (slot va n : Nat) (wr : Bool) : Option Bool :=
  (wordsOf va n).foldl (fun r w =>
    match r with
    | none => none
    | some ok =>
      match s.translate slot w wr with
      | .fault _ => none
      | .pa a => match s.admitVa req (a / 32 * 32) with
        | .ok => some ok
        | .wait => some false
        | _ => none) (some true)

/-- Writes bytes behind a virtual address, word by word. -/
def vaWrite (s : State) (req : Requester) (slot va : Nat) (bs : List Byte) (poison isSealed : Bool) : State :=
  (wordPieces (bs.length + 1) va bs).foldl (fun s p =>
    match s.translate slot p.1 true with
    | .pa a => if s.admitVa req (a / 32 * 32) = .ok then s.mergeWord req (a / 32 * 32) p.2.1 p.2.2 poison isSealed else s
    | .fault _ => s) (s.touchPages slot va bs.length)

/-- Writes marked bytes behind a virtual address: each word is poisoned or sealed as any of its bytes is. -/
def vaStore (s : State) (req : Requester) (slot va : Nat) (bs : List MByte) : State :=
  ((wordPieces (bs.length + 1) va (bs.map MByte.b)).foldl (fun (x : State × Nat) p =>
    let part := mSub bs x.2 p.2.2.length
    (x.1.vaWrite req slot (p.1 + p.2.1) p.2.2 (mPoison part) (mSealed part), x.2 + p.2.2.length)) (s, 0)).1

end State

end Sys2Proof.Machine
end

