-- ==== Sys2Proof/Machine/Huward.lean ====
section
/-! DEFINITION. The Huward links (chapter "Huward links", R340 to R367) with the seal check of R490 and R491 and the detection of
R412: training, the link layer with replay and credits, frames and their relay, the picot channel and heartbeats. -/

namespace Sys2Proof.Machine

/-- Ticks of the reference timer in a microsecond (R14). -/
def usTicks : Nat := 100

/-- CRC-16 of R350 over one byte: polynomial 0x1021, most significant bit first. -/
def crc16Step (c : Nat) (b : Byte) : Nat :=
  (List.range 8).foldl (fun c _ => if c.testBit 15 then (c * 2 % 2 ^ 16) ^^^ 0x1021 else c * 2 % 2 ^ 16) (c ^^^ b.toNat * 256)

/-- CTL_CRC over the first six bytes of a control word (R350). -/
def crc16 (bs : List Byte) : Nat := bs.foldl crc16Step 0xFFFF

/-- CRC-32 of IEEE 802.3 over one byte (R351). -/
def crc32Step (c : Nat) (b : Byte) : Nat :=
  (List.range 8).foldl (fun c _ => if c.testBit 0 then (c / 2) ^^^ 0xEDB88320 else c / 2) (c ^^^ b.toNat)

/-- The CRC-32 of a list of bytes (R351). -/
def crc32 (bs : List Byte) : Nat := bs.foldl crc32Step 0xFFFFFFFF ^^^ 0xFFFFFFFF

/-- `n` bytes of a message or flit from an offset, as a number. -/
def field (bs : List Byte) (off n : Nat) : Nat := leNat ((bs.drop off).take n)

/-- A leg of 4 bytes (R354). -/
def legOf (role index hops : Nat) : Nat := role % 16 + index % 4 * 16 + hops % 2 ^ 16 * 2 ^ 16

/-- A picot message of 64 bytes (R362). -/
def picotMsg (kind slot src dest gen leg0 leg1 : Nat) (payload : List Byte) : List Byte :=
  leBytes 1 kind ++ leBytes 1 slot ++ leBytes 2 src ++ leBytes 2 dest ++ leBytes 2 gen ++ leBytes 4 leg0 ++ leBytes 4 leg1
    ++ State.padTo 48 payload

def msgKind (m : List Byte) : Nat := field m 0 1
def msgSlot (m : List Byte) : Nat := field m 1 1 % 4
def msgSrc (m : List Byte) : Nat := field m 2 2
def msgDest (m : List Byte) : Nat := field m 4 2
def msgGen (m : List Byte) : Nat := field m 6 2

/-- Every byte of a range of a message is zero. -/
def zeroIn (m : List Byte) (off n : Nat) : Bool := ((m.drop off).take n).all (fun b => b == 0)

/-- The zero bytes and reserved values of R364 for HEARTBEAT, IDENT and VOTE, and the reserved SUB values of the ring-engine messages
(R382) and of the catch messages (R428). -/
def msgWellFormed (m : List Byte) : Bool :=
  field m 1 1 < 4 &&
    (if msgKind m = 1 then field m 0x10 1 < 8 && field m 0x11 1 < 2 && zeroIn m 0x12 2 && zeroIn m 0x18 8 && zeroIn m 0x32 14
     else if msgKind m = 2 then
       field m 0x10 1 < 8 && field m 0x11 1 < 8 && field m 0x12 1 < 2 && zeroIn m 0x13 1 && field m 0x14 2 < 4096
         && field m 0x16 2 < 4096 && zeroIn m 0x18 40
     else if msgKind m = 3 then
       (field m 0x10 1 = 1 || field m 0x10 1 = 2) && field m 0x11 1 < 2 && field m 0x12 1 < 16 && zeroIn m 0x13 1 && zeroIn m 0x18 40
     else if msgKind m = 4 then 1 ≤ field m 0x10 1 && field m 0x10 1 ≤ 6
     else if msgKind m = 5 then 1 ≤ field m 0x10 1 && field m 0x10 1 ≤ 9 && zeroIn m 0x11 1
     else true)

/-- The header fields of a frame (R354). -/
def LinkFrame.kind (f : LinkFrame) : Nat := field f.hdr 0 1
def LinkFrame.len (f : LinkFrame) : Nat := field f.hdr 1 1
def LinkFrame.src (f : LinkFrame) : Nat := field f.hdr 2 2
def LinkFrame.dest (f : LinkFrame) : Nat := field f.hdr 4 2
def LinkFrame.gen (f : LinkFrame) : Nat := field f.hdr 6 2
def LinkFrame.slot (f : LinkFrame) : Nat := field f.hdr 8 1 % 4
def LinkFrame.legIdx (f : LinkFrame) : Nat := field f.hdr 9 1
def LinkFrame.flow (f : LinkFrame) : Nat := field f.hdr 0xC 4
def LinkFrame.offset (f : LinkFrame) : Nat := field f.hdr 0x10 6
def LinkFrame.leg (f : LinkFrame) (k : Nat) : Nat := field f.hdr (0x18 + 4 * k) 4

/-- A header with a reserved KIND, LEN above 30, LEG_IDX above 4 or a nonzero zero field (R354). -/
def LinkFrame.malformed (f : LinkFrame) : Bool :=
  f.kind = 0 || 3 < f.kind || 30 < f.len || 4 < f.legIdx || 3 < field f.hdr 8 1 || !zeroIn f.hdr 0xA 2
    || (List.range 4).any (fun k => bits (f.leg k) 15 6 != 0)

/-- A data flit's word with its tag byte (R349). -/
def flitWord (d : List Byte) (i : Nat) : Word := ⟨leNat ((d.drop (32 * i)).take 32), field d (128 + i) 1⟩

/-- A word of the frame carries SEALED. -/
def LinkFrame.sealedIn (f : LinkFrame) : Bool := f.data.any (fun d => (List.range 4).any (fun i => tagSealed (flitWord d i).tag))

/-- Replaces bytes of a list from an offset. -/
def patch (bs : List Byte) (off : Nat) (new : List Byte) : List Byte := bs.take off ++ new ++ bs.drop (off + new.length)

/-- Roles that form a compatible pair (R342). -/
def rolePair (a b : Nat) : Bool :=
  (a = 1 && b = 2) || (a = 2 && b = 1) || (a = 3 && b = 3) || (a = 4 && b = 5) || (a = 5 && b = 4) || (a = 6 && b = 7) || (a = 7 && b = 6)

/-- Ring dimension of a role (R342). -/
def roleDim (r : Nat) : Nat := if r = 1 || r = 2 then 1 else if r = 6 || r = 7 then 2 else 0

/-- The width of a direction for a number of good lanes (R346): 0 below 4. -/
def widthFor (n : Nat) : Nat := if 12 ≤ n then 12 else if 8 ≤ n then 8 else if 6 ≤ n then 6 else if 4 ≤ n then 4 else 0

/-- Set bits among the low twelve. -/
def pop12 (v : Nat) : Nat := ((List.range 12).filter (fun i => v.testBit i)).length

/-- Where R355 sends a frame or message. -/
inductive Route where
  | deliver
  | misrouted
  | leg (k role index : Nat) (isNew : Bool)
  deriving DecidableEq, Repr

/-- The routine of R355 over legs from `idx` on; `start` is the leg index that the frame arrived with. -/
def routeFrom (legs : List Nat) (start : Nat) (here : Bool) : Nat → Nat → Route
  | 0, _ => if here then .deliver else .misrouted
  | fuel + 1, idx =>
    if 4 ≤ idx then (if here then .deliver else .misrouted)
    else
      let l := legs.getD idx 0
      if l / 2 ^ 16 = 0 then routeFrom legs start here fuel (idx + 1)
      else if l % 16 = 0 || 7 < l % 16 || bits l 5 4 = 2 then .misrouted
      else .leg idx (l % 16) (bits l 5 4) (idx != start)

namespace State

def port (s : State) (p : Nat) : Port := s.ports.get Port.reset (Key.at p)
def setPort (s : State) (p : Nat) (x : Port) : State := { s with ports := s.ports.set Port.reset (Key.at p) x }
def modPort (s : State) (p : Nat) (g : Port → Port) : State := s.setPort p (g (s.port p))

/-- A field of a port's block and its setter. -/
def hl (s : State) (f : Fld) (p : Nat) (i : Nat := 0) : Nat := s.fld f (portDie p) (portUnit p) i
def setHl (s : State) (f : Fld) (p : Nat) (v : Nat) (i : Nat := 0) : State := s.setFld f (portDie p) (portUnit p) i v
def hlInc (s : State) (f : Fld) (p : Nat) (n : Nat := 1) : State := s.incFld f (portDie p) (portUnit p) 0 n

def myPos (s : State) : Nat := s.fld .HLM_POS_POS iod0
def myGen (s : State) : Nat := s.fld .HLM_POS_GEN iod0
def hlState (s : State) (p : Nat) : Nat := s.hl .HL_STATUS_STATE p
def hlRole (s : State) (p : Nat) : Nat := s.hl .HL_CTL_ROLE p

/-- A port in ACTIVE or DEGRADED. -/
def inTraffic (s : State) (p : Nat) : Bool := s.hlState p = 5 || s.hlState p = 6

/-- A port that carries bulk frames (R342, R399). -/
def carriesBulk (s : State) (p : Nat) : Bool := s.inTraffic p && s.hl .HL_STATUS_COMPAT p = 1

/-- The ports of a role, in ascending HL number. -/
def rolePorts (s : State) (role : Nat) : List Nat := (List.range 8).filter (fun p => s.hlRole p = role)

/-- Raises a port's event with one of its registers as the A word (R500, R508). -/
def raiseHl (s : State) (e : Ev) (r : Reg) (p : Nat) : State :=
  s.raise e (portDie p) (portUnit p) (s.regWord r (portDie p) (portUnit p))

/-- Counts a frame or message discarded as misrouted or malformed (R354, R355, R363). -/
def countMisroute (s : State) : State := s.incFld .HLM_CNT_MISROUTE_COUNT iod0 0 0

/-- Discards as misrouted by the routine of R355, which also raises the event. -/
def misroute (s : State) : State := (s.countMisroute).raise .EV_HL_MISROUTE iod0 0 (s.countMisroute.fld .HLM_CNT_MISROUTE_COUNT iod0)

/-- Returns the receive-buffer credits of a frame that leaves its buffer (R353). -/
def freeFrame (s : State) (f : LinkFrame) : State :=
  match f.came with
  | none => s
  | some (p, vc) =>
    s.modPort p (fun x => if vc = 0 then { x with owed0 := x.owed0 + f.data.length + 1 } else { x with owed1 := x.owed1 + f.data.length + 1 })

/-- The control word of a flit (R350): what the port acknowledges, asks again and returns goes with it. -/
def controlWord (x : Port) (kind vc seq : Nat) : List Byte × Port :=
  let credVc := if x.owed0 = 0 && x.owed1 != 0 then 1 else 0
  let cred := min (if credVc = 0 then x.owed0 else x.owed1) 1023
  let pc := if x.owedP = 0 then 0 else 1
  let v := kind % 4 + vc % 2 * 2 ^ 2 + seq % 4096 * 2 ^ 3 + (x.rxGood + 4095) % 4096 * 2 ^ 15 + (if x.rxAny then 2 ^ 27 else 0)
    + (if x.nakDue then 2 ^ 28 else 0) + credVc * 2 ^ 29 + cred * 2 ^ 30 + pc * 2 ^ 40
  let low := leBytes 6 v
  (low ++ leBytes 2 (crc16 low),
   { x with nakDue := false, ackDue := false, owed0 := if credVc = 0 then x.owed0 - cred else x.owed0,
            owed1 := if credVc = 1 then x.owed1 - cred else x.owed1, owedP := x.owedP - pc })

/-- A flit leaves on a port. -/
def emitFlit (s : State) (p : Nat) (f : TxFlit) : State :=
  let r := controlWord (s.port p) f.kind f.vc f.seq
  let s := { s.setPort p r.2 with out := Output.flit p (f.body ++ r.1) :: s.out }
  if f.kind = 0 then s else s.hlInc .HL_CNT_TX_FLITS_COUNT p

/-- Sends a sequenced flit and keeps it for replay (R352). -/
def sendFlit (s : State) (p kind vc : Nat) (body : List Byte) : State :=
  let x := s.port p
  let f : TxFlit := ⟨kind, vc, x.txSeq, body⟩
  (s.setPort p { x with txSeq := (x.txSeq + 1) % 4096, replay := x.replay ++ [f] }).emitFlit p f

/-- Sends an IDLE flit where the port owes an acknowledgement, a NAK or credits. -/
def idleFlit (s : State) (p : Nat) : State :=
  let x := s.port p
  if 3 ≤ s.hlState p && s.hlState p ≤ 6 && (x.nakDue || x.ackDue || x.owed0 != 0 || x.owed1 != 0 || x.owedP != 0) then
    s.emitFlit p ⟨0, 0, 0, List.replicate 0x88 0⟩
  else s

/-- Replays every unacknowledged flit (R352). -/
def replayAll (s : State) (p : Nat) : State :=
  if (s.port p).replay.isEmpty then s
  else (s.port p).replay.foldl (fun s f => s.emitFlit p f) (s.hlInc .HL_CNT_REPLAY_COUNT p)

/-- Sends the picot message at the head of a port's queue, if R352 and R361 let it: a picot credit is held and a reserved
replay entry is free. Before traffic only IDENT messages leave (R345). -/
def pumpPicot (s : State) (p : Nat) : Option State :=
  let x := s.port p
  let st := s.hlState p
  match x.picotQ with
  | [] => none
  | m :: rest =>
    if (st = 5 || st = 6 || (st = 4 && msgKind m = 2)) && 0 < x.pcred && (x.replay.filter (fun f => f.kind = 3)).length < 64 then
      let body := m ++ List.replicate 68 0
      let s := s.setPort p { x with picotQ := rest, pcred := x.pcred - 1 }
      some ((s.hlInc .HL_CNT_PICOT_TX_COUNT p).sendFlit p 3 0 (body ++ leBytes 4 (crc32 body)))
    else none

/-- A frame may leave a port now (R353): its whole length is covered by credits. -/
def frameFits (x : Port) (f : LinkFrame) : Bool := f.data.length + 1 ≤ (if f.vc = 0 then x.cred0 else x.cred1)

/-- A frame flit finds a replay entry (R352). -/
def flitFits (x : Port) : Bool := decide ((x.replay.filter (fun r => r.kind != 3)).length < 1984)

/-- A frame of a sideshow collective gives way to every frame of another slot that waits at the port (R387). -/
def frameYields (s : State) (x : Port) (f : LinkFrame) : Bool :=
  f.kind = 1 && s.isSideshow f.slot && (x.relay0 ++ x.relay1 ++ x.locals).any (fun g => g.slot != f.slot)

/-- The index of the local frame that leaves next. -/
def localNext (s : State) (x : Port) : Nat := (x.locals.findIdx? (fun f => !s.frameYields x f)).getD x.locals.length

/-- A frame begins to leave: header flit, data flits and the frame CRC in the last one (R349, R351), each in a slot of its own. -/
def beginFrame (s : State) (p : Nat) (f : LinkFrame) : State :=
  let bodies := (f.hdr ++ List.replicate 4 0) :: f.data
  let crc := crc32 (bodies.foldl (· ++ ·) [])
  let n := bodies.length
  let flits := (List.range n).map (fun k =>
    (if k = 0 then 1 else 2, bodies.getD k [] ++ (if k + 1 = n then leBytes 4 crc else leBytes 4 0)))
  s.modPort p (fun x =>
    let x := if f.vc = 0 then { x with cred0 := x.cred0 - n } else { x with cred1 := x.cred1 - n }
    { x with leaving := flits, leavingVc := f.vc })

/-- A frame at the egress of a port (R359): a frame that holds SEALED words leaves only with SEAL_OK. -/
def egress (s : State) (p : Nat) (relayed : Bool) (f : LinkFrame) : State :=
  let s := s.freeFrame f
  if f.sealedIn && s.hl .HL_CTL_SEAL_OK p = 0 then
    (s.setHl .HL_FAULT_SEAL_DROP p 1).raiseHl .EV_HL_SEAL_DROP .HL_FAULT p
  else
    let s := if relayed then s.hlInc .HL_CNT_RELAY_COUNT p else s
    s.beginFrame p f

/-- Begins the frame whose turn it is among relayed VC 0, relayed VC 1 and local frames (R357). -/
def pumpFrame (s : State) (p : Nat) : Option State :=
  if !s.carriesBulk p then none
  else
    let x := s.port p
    let try1 (q : Nat) : Option State :=
      let turn := (q + 1) % 3
      if q = 0 then match x.relay0 with
        | f :: r => if frameFits x f then some ((s.setPort p { x with relay0 := r, turn := turn }).egress p true f) else none
        | [] => none
      else if q = 1 then match x.relay1 with
        | f :: r => if frameFits x f then some ((s.setPort p { x with relay1 := r, turn := turn }).egress p true f) else none
        | [] => none
      else
        let k := s.localNext x
        match x.locals[k]? with
        | some f =>
          if frameFits x f then some ((s.setPort p { x with locals := x.locals.eraseIdx k, turn := turn }).egress p false f) else none
        | none => none
    [x.turn, (x.turn + 1) % 3, (x.turn + 2) % 3].findSome? try1

/-- Sends the next flit of the frame that is leaving, or of the next frame (R341, R352). -/
def pumpFlit (s : State) (p : Nat) : Option State :=
  if !flitFits (s.port p) || !s.carriesBulk p then none
  else
    (if (s.port p).leaving.isEmpty then s.pumpFrame p else some s).map (fun s =>
      match (s.port p).leaving with
      | [] => s
      | f :: rest => (s.modPort p (fun x => { x with leaving := rest })).sendFlit p f.1 (s.port p).leavingVc f.2)

/-- Sends what a port may send now, slot by slot (R341, R361): a message in slot 0 of the cycle of 32, flits of frames in the others. -/
def pumpPort (p : Nat) : Nat → State → State
  | 0, s => s
  | fuel + 1, s =>
    let next := s.modPort p (fun x => { x with flitSlot := (x.flitSlot + 1) % 32 })
    if (s.port p).flitSlot = 0 then
      match next.pumpPicot p with
      | some t => pumpPort p fuel t
      | none => if (next.pumpFlit p).isSome then pumpPort p fuel next else s
    else
      match next.pumpFlit p with
      | some t => pumpPort p fuel t
      | none => if (next.pumpPicot p).isSome then pumpPort p fuel next else s

/-- The slots of a port that have passed since it last sent, with IDLE flits (R341): a flit takes 5.76 ns ÷ width. The place in the
cycle of 32 slots is counted from the start of traffic (DESIGN CHOICE, log entry 144). -/
def passSlots (s : State) (p : Nat) : State :=
  s.modPort p (fun x => { x with
    flitSlot := (x.flitSlot + (s.now - x.slotAt) * 1000 * s.hl .HL_STATUS_TX_WIDTH p / 576) % 32, slotAt := s.now })

/-- Flits that wait at a port, and slots enough to send them. -/
def portWork (x : Port) : Nat :=
  32 * (x.picotQ.length + x.leaving.length + ((x.relay0 ++ x.relay1 ++ x.locals).map (fun f => f.data.length + 1)).foldl (· + ·) 0 + 2)

/-- Sends what every port may send now. -/
def pump (s : State) : State :=
  (List.range 8).foldl (fun s p =>
    if (s.pumpPicot p).isSome || (s.pumpFlit p).isSome then pumpPort p (portWork (s.port p)) (s.passSlots p) else s) s

/-- The port that a leg of a frame selects among those that carry bulk frames (R356), with the FLOW of the frame. -/
def framePort (s : State) (role index flow : Nat) : Option Nat :=
  if index = 3 then
    let ps := (s.rolePorts role).filter (fun p => s.carriesBulk p)
    if ps.isEmpty then none else ps[flow % ps.length]?
  else ((s.rolePorts role)[index]?).bind (fun p => if s.carriesBulk p then some p else none)

/-- The port that a leg of a picot message selects (R356, R362): a message has no FLOW, which counts as 0. -/
def picotPort (s : State) (role index : Nat) : Option Nat :=
  if index = 3 then
    match (s.rolePorts role).find? (fun p => s.carriesBulk p) with
    | some p => some p
    | none => (s.rolePorts role).head?
  else (s.rolePorts role)[index]?

/-- Queues a frame on its port, or holds it until a port of its role carries bulk frames (R358). -/
def placeFrame (s : State) (h : HeldFrame) : State :=
  match s.framePort h.role h.index h.frame.flow with
  | none => { s with held := s.held ++ [h] }
  | some p =>
    s.modPort p (fun x =>
      if h.frame.came = none then { x with locals := x.locals ++ [h.frame] }
      else if h.frame.vc = 0 then { x with relay0 := x.relay0 ++ [h.frame] }
      else { x with relay1 := x.relay1 ++ [h.frame] })

/-- Tries every held frame again. -/
def placeHeld (s : State) : State := s.held.foldl (fun s h => s.placeFrame h) { s with held := [] }

/-- Takes the frames that wait at a port back to wait for their role (R358 and "When a role change meets frames waiting"). -/
def unplace (s : State) (p role : Nat) : State :=
  let x := s.port p
  let back := (x.relay0 ++ x.relay1 ++ x.locals).map (fun f => HeldFrame.mk f role (bits (f.leg f.legIdx) 5 4) s.now)
  { s.setPort p { x with relay0 := [], relay1 := [], locals := [] } with held := s.held ++ back }

/-- Discards the bulk frames that wait at a port (R414). -/
def dropQueued (s : State) (p : Nat) : State :=
  let x := s.port p
  let s := s.setPort p { x with relay0 := [], relay1 := [], locals := [] }
  (x.relay0 ++ x.relay1).foldl (fun s f => s.freeFrame f) s

def reColls (s : State) (re slot : Nat) : List Coll := s.colls.get [] (Key.at re slot)
def setColls (s : State) (re slot : Nat) (cs : List Coll) : State := { s with colls := s.colls.set [] (Key.at re slot) cs }
def reLanded (s : State) (re slot : Nat) : List Landed := s.landed.get [] (Key.at re slot)
def setLanded (s : State) (re slot : Nat) (ls : List Landed) : State := { s with landed := s.landed.set [] (Key.at re slot) ls }

/-- The HL port of a tree role whose peer holds a position. -/
def treePort (s : State) (pos : Nat) : Option Nat :=
  (s.rolePorts 4 ++ s.rolePorts 5).find? (fun p => s.hl .HL_PEER_POS p = pos)

/-- A frame or message of a slot names, by TAG and INST, no collective that an engine has started within the last 256 instances; or
the slot has no list there; or its generation is another (R382). -/
def reStale (s : State) (re slot gen tag inst : Nat) : Bool :=
  gen != s.fld .REC_JOB_GEN_GEN iod0 slot || s.fld .RE_LIST_CTL_CNT (iodDie re) 0 slot = 0
    || (let n := s.insts.get 0 (Key.at re slot tag); decide (n ≤ inst) && decide (n < 256))

/-- The running collective of a tag and instance, on either engine: engine and place in its list. -/
def findColl (s : State) (slot tag inst : Nat) : Option (Nat × Nat) :=
  [0, 1].findSome? (fun re =>
    ((s.reColls re slot).findIdx? (fun c => field c.desc 0x38 2 = tag && c.inst % 256 = inst)).map (fun k => (re, k)))

/-- Counts what R382 discards, on the engine that the tag names, else on RE0. -/
def countStale (s : State) (slot tag : Nat) : State :=
  s.incFld .RE_CNT_STALE_COUNT (iodDie (if s.insts.get 0 (Key.at 1 slot tag) = 0 then 0 else 1)) 0 0

/-- A frame as it lies in its landing slot: the header, then the data words with their marks (R349, R379). -/
def landedBytes (f : LinkFrame) : List MByte :=
  (f.hdr.map (fun b => ⟨b, false, false⟩)) ++ f.data.flatMap (fun d => (List.range 4).flatMap (fun i =>
    let w := flitWord d i
    (leBytes 32 w.data).map (fun b => ⟨b, tagPoison w.tag, tagSealed w.tag⟩)))

/-- A ring-engine frame arrives (R379, R382): it is written into a free landing slot of its slot, whose receive buffer it leaves at
once. -/
def landFrame (s : State) (f : LinkFrame) : State :=
  let s := s.freeFrame f
  let tag := bits f.flow 31 16
  let inst := bits f.flow 15 8
  if s.reStale 0 f.slot f.gen tag inst && s.reStale 1 f.slot f.gen tag inst then s.countStale f.slot tag
  else
    match s.findColl f.slot tag inst with
    | none => s
    | some (re, k) =>
      match (s.reColls re f.slot)[k]? with
      | none => s
      | some c =>
        let ls := s.reLanded re f.slot
        let n := s.fld .RE_LAND_SLOTS_SLOTS (iodDie re) 0 f.slot
        match (List.range (ls.length + 1)).find? (fun i => !ls.any (fun l => l.idx == i)) with
        | none => s
        | some i =>
          if n ≤ i then s
          else
            let peer :=
              if field c.desc 2 1 = 2 then (s.treePort f.src).getD 8
              else
                let p := field c.desc 8 2
                ((List.range p).find? (fun q => (field c.desc 0xC 2 + q * field c.desc 0xE 2) % 2 ^ 16 = f.src)).getD p
            let s := s.vaStore (unitReq f.slot) f.slot (4096 * s.fld .RE_LAND_BASE_BASE (iodDie re) 0 f.slot + 4096 * i) (landedBytes f)
            let s := s.setLanded re f.slot (ls ++ [⟨i, { f with came := none }, peer, 0⟩])
            let s := s.setColls re f.slot ((s.reColls re f.slot).set k { c with granted := c.granted.erase peer })
            s

/-- A frame addressed to the module goes to the ring engine or to the recovery path (R355), with its leg index past its legs. -/
def deliverFrame (s : State) (f : LinkFrame) : State :=
  let f := { f with hdr := patch f.hdr 9 (leBytes 1 4) }
  if f.kind = 1 then s.landFrame f else { s with recIn := s.recIn ++ [f] }

/-- Routes a frame that the module originates or has received (R355 to R358). -/
def routeFrame (s : State) (f : LinkFrame) : State :=
  match routeFrom ((List.range 4).map f.leg) f.legIdx (f.dest == s.myPos) 5 f.legIdx with
  | .deliver => s.deliverFrame f
  | .misrouted => (s.freeFrame f).misroute
  | .leg k role index isNew =>
    if f.came.isSome && f.dest ≠ s.myPos && s.fld .HLM_CTL_RELAY_EN iod0 = 0 then s.freeFrame f
    else
      let l := f.leg k
      let hdr := patch (patch f.hdr 9 (leBytes 1 k)) (0x18 + 4 * k) (leBytes 4 (l - 2 ^ 16))
      let crosses := f.came.isSome && ((roleDim role = 1 && s.flag .HLM_CTL_DATELINE1 iod0) || (roleDim role = 2 && s.flag .HLM_CTL_DATELINE2 iod0))
      let vc := if f.came.isNone || isNew then 0 else if crosses then 1 else f.vc
      s.placeFrame ⟨{ f with hdr := hdr, vc := vc }, role, index, s.now⟩

/-- Sends a frame of this module. -/
def sendFrame (s : State) (f : LinkFrame) : State := (s.routeFrame { f with came := none, vc := 0 }).pump

/-- Puts a picot message on a port's queue. -/
def queuePicot (s : State) (p : Nat) (m : List Byte) : State := s.modPort p (fun x => { x with picotQ := x.picotQ ++ [m] })

/-- Frees a receiver's picot buffer entry (R353). -/
def freePicot (s : State) (p : Nat) : State := if p < 8 then s.modPort p (fun x => { x with owedP := x.owedP + 1 }) else s

/-- Delivers a picot message here (R363, R364): a malformed one is discarded and counted. -/
def deliverPicot (s : State) (p : Nat) (m : List Byte) : State :=
  if msgKind m = 0 || 7 < msgKind m then (s.freePicot p).countMisroute
  else if msgWellFormed m then { s with inbox := s.inbox ++ [(p, m)] }
  else if msgKind m = 3 then (s.freePicot p).incFld .CMT_CNT_DISCARD_COUNT mh0 (msgSlot m) 0
  else (s.freePicot p).countMisroute

/-- Routes a picot message (R362, R363) that came by port `p`, or, with `p` = 8, that the module originates. -/
def routePicot (s : State) (p : Nat) (m : List Byte) : State :=
  if p < 8 && (msgKind m ≤ 2 || 7 < msgKind m) then s.deliverPicot p m
  else
    match routeFrom [field m 8 4, field m 12 4, 0, 0] 0 (msgDest m == s.myPos) 5 0 with
    | .deliver => s.deliverPicot p m
    | .misrouted => (s.freePicot p).misroute
    | .leg k role index _ =>
      if p < 8 && msgDest m ≠ s.myPos && s.fld .HLM_CTL_RELAY_EN iod0 = 0 then s.freePicot p
      else
        match s.picotPort role index with
        | none => (s.freePicot p).misroute
        | some q => (s.freePicot p).queuePicot q (patch m (8 + 4 * k) (leBytes 4 (field m (8 + 4 * k) 4 - 2 ^ 16)))

/-- Sends a picot message of this module. -/
def sendPicot (s : State) (m : List Byte) : State := (s.routePicot 8 m).pump

/-- Sends a picot message of this module over one port, to the peer there. -/
def sendPicotOn (s : State) (p : Nat) (m : List Byte) : State := (s.queuePicot p m).pump

/-- The first message of the inbox that meets a test, and the state without it. -/
def takeMsg (s : State) (want : List Byte → Bool) : Option (Nat × List Byte × State) :=
  match s.inbox.find? (fun e => want e.2) with
  | none => none
  | some (p, m) => some (p, m, { s with inbox := s.inbox.erase (p, m) }.freePicot p)

/-- The CATCH port whose peer holds a position (R410). -/
def catchPort (s : State) (pos : Nat) : Option Nat :=
  (s.rolePorts 3).find? (fun p => s.hl .HL_PEER_VALID p = 1 && s.hl .HL_PEER_POS p = pos)

/-- A catch message (R428). -/
def catchMsg (s : State) (dest sub cpos rgen jgen target cand0 : Nat) (digest : List Byte) (slot : Nat := 0)
    (leg0 : Nat := 0) (leg1 : Nat := 0) : List Byte :=
  picotMsg 5 slot s.myPos dest s.myGen leg0 leg1
    (leBytes 1 sub ++ leBytes 1 0 ++ leBytes 2 cpos ++ leBytes 2 rgen ++ leBytes 2 jgen ++ leBytes 4 target ++ leBytes 4 cand0 ++ digest)

/-- Bits of a list of 16-bit positions (REC_GROUP, REC_PENDING, REC_DETOUR). -/
def posList (v n : Nat) : List Nat := (List.range n).map (fun k => bits v (16 * k + 15) (16 * k))

def recPending (s : State) : List Nat := posList (s.fld .REC_PENDING_POS iod0) 4
def recDetour (s : State) : List Nat := posList (s.fld .REC_DETOUR_POS iod0 0 0) 4 ++ posList (s.fld .REC_DETOUR_POS iod0 0 1) 4

/-- The catcher that REC_CFG names for a position (R411, R423): the second catcher for a position that is caught already, the
neighbouring group's for a position outside the own group, else the own group's. -/
def catcherFor (s : State) (k : Nat) : Nat :=
  if s.recPending.contains k || s.recDetour.contains k then s.fld .REC_CFG_SECOND iod0
  else if (posList (s.fld .REC_GROUP_POS iod0) 4).contains k || s.fld .REC_CFG_EDGE iod0 = 0xFFFF then s.fld .REC_CFG_CATCHER iod0
  else s.fld .REC_CFG_EDGE iod0

/-- A position cannot be caught while a ring neighbour of it is being caught (R423, fourth row). -/
def besideCaught (s : State) (k : Nat) : Bool := s.recPending.any (fun q => q != 0xFFFF && (q = k + 1 || q + 1 = k))

/-- A position detects the loss of its ring neighbour at a port (R412): it sends CLAIM to the catcher, and keeps the claim until an
ACCEPT answers it. A neighbour that cannot be caught is lost at once (R423). -/
def lossDetected (s : State) (p : Nat) : State :=
  if roleDim (s.hlRole p) != 1 then s
  else
    let k := s.hl .HL_PEER_POS p
    match (if s.besideCaught k then none else s.catchPort (s.catcherFor k)) with
    | none => if s.lost.contains k then s else { s with lost := s.lost ++ [k] }
    | some q => ({ s with claims := s.claims ++ [(⟨k, s.myPos, s.now⟩ : Claim)] } : State).sendPicotOn q (s.catchMsg (s.catcherFor k) 1 k 0 0 0 0 [])

/-- The module finds itself unfit to serve (R412): DECLARE to its ring neighbours and to its catcher, and HLM_ALIVE is written
no more. -/
def declareUnfit (s : State) : State :=
  let near := (List.range 8).filter (fun p => roleDim (s.hlRole p) = 1 && s.hl .HL_PEER_VALID p = 1)
  let ports := near ++ (match s.catchPort (s.fld .REC_CFG_CATCHER iod0) with | some q => [q] | none => [])
  let s := { s with unfit := true }
  ports.foldl (fun s p => s.sendPicotOn p (s.catchMsg (s.hl .HL_PEER_POS p) 3 s.myPos 0 0 0 0 [])) s

/-- The port passes its seal check (R490). -/
def sealCheck (s : State) (p : Nat) : Bool :=
  let x := s.port p
  s.carriesBulk p && (match s.policy with | some q => q.ring != 0 | none => false) && x.hbOk && x.hbLast.isSome
    && decide (s.now ≤ x.hbSeen + max (s.hl .HL_HB_LIMIT p) (2 * max (s.hl .HL_HB_PERIOD p) 1) * usTicks)

/-- A failed seal check clears SEAL_OK (R491). -/
def sealEnforce (s : State) (p : Nat) : State :=
  if s.hl .HL_CTL_SEAL_OK p = 1 && !s.sealCheck p then
    (s.setHl .HL_CTL_SEAL_OK p 0).raiseHl .EV_HL_SEAL_LOST .HL_PEER p
  else s

/-- Re-evaluates compatibility (R342, R344, R399) from HL_PEER. -/
def evalCompat (s : State) (p : Nat) : State :=
  if !s.inTraffic p || (s.port p).identDue then s
  else
    let pair := rolePair (s.hlRole p) (s.hl .HL_PEER_ROLE p)
    let sameGen := s.hl .HL_PEER_GEN p = s.myGen
    let ok := pair && sameGen
    let was := s.hl .HL_STATUS_COMPAT p = 1
    let s := if ok then s else s.setHl .HL_FAULT_ROLE_MISMATCH p 1
    let s :=
      if sameGen then s.modPort p (fun x => { x with genRaised := false })
      else if (s.port p).genRaised then s
      else
        let s := (s.modPort p (fun x => { x with genRaised := true })).raiseHl .EV_REC_GEN .HL_PEER p
        if s.hl .HL_PEER_GEN p < s.myGen then s.raiseHl .EV_REC_STALE .HL_PEER p else s
    let s := s.setHl .HL_STATUS_COMPAT p (if ok then 1 else 0)
    if ok then ((s.modPort p (fun x => { x with noRoute := false })).placeHeld).pump
    else if was then (s.unplace p (s.hlRole p)).sealEnforce p
    else s.sealEnforce p

/-- Re-evaluates every port, after a change of the module generation (R399). -/
def evalAll (s : State) : State := (List.range 8).foldl (fun s p => s.evalCompat p) s

/-- The IDENT message of a port (R364). -/
def identMsg (s : State) (p : Nat) : List Byte :=
  picotMsg 2 0 s.myPos 0 s.myGen 0 0
    (leBytes 1 p ++ leBytes 1 (s.hlRole p) ++ leBytes 1 (s.fld .HLM_POS_CATCHER iod0) ++ leBytes 1 0
      ++ leBytes 2 (4095 - s.hl .HL_STATUS_TX_OUT p) ++ leBytes 2 (4095 - s.hl .HL_STATUS_RX_OUT p))

/-- Sends IDENT ahead of every waiting message and expects the peer's (R344, R345). -/
def sendIdent (s : State) (p : Nat) (expect : Bool) : State :=
  (s.modPort p (fun x => { x with picotQ := s.identMsg p :: x.picotQ, identDue := x.identDue || expect })).pump

/-- Enters a state of the port. -/
def enterState (s : State) (p st : Nat) : State := (s.setHl .HL_STATUS_STATE p st).modPort p (fun x => { x with since := s.now })

/-- The port falls to DOWN or HELD (R345, R366, R490): widths and compatibility end, the last count is forgotten, and a port that
was in traffic records it. -/
def leaveTraffic (s : State) (p st : Nat) : State :=
  let was := s.inTraffic p || (s.port p).fast
  let s := (((s.setHl .HL_STATUS_TX_WIDTH p 0).setHl .HL_STATUS_RX_WIDTH p 0).setHl .HL_STATUS_COMPAT p 0).setHl .HL_STATUS_REVERSED p 0
  let s := (s.unplace p (s.hlRole p)).modPort p (fun x => { x with fast := false, identDue := false, genRaised := false, hbLast := none, hbOk := false })
  let s := s.enterState p st
  let s := s.sealEnforce p
  if was then
    let s := ((s.setHl .HL_FAULT_DOWN p 1).raiseHl .EV_HL_DOWN .HL_FAULT p).lossDetected p
    s.setHl .HL_PEER_VALID p 0
  else s.setHl .HL_PEER_VALID p 0

/-- The link layer of a port through a full training: sequence numbers, credits and replay buffer are kept (R352; DESIGN CHOICE, log
entry 55), and only a waiting IDENT is dropped. Frames and messages that have not left wait on. -/
def keptLink (x : Port) : Port := { x with picotQ := x.picotQ.filter (fun m => msgKind m != 2) }

/-- Starts a full training from DOWN (R345, R348): the excluded lanes return. -/
def startTraining (s : State) (p : Nat) : State :=
  let s := (List.range 12).foldl (fun s i =>
    ((((s.setHl .HL_LANE_PEER p 0 i).setHl .HL_LANE_RX_INV p 0 i).setHl .HL_LANE_TX_OUT p 0 i).setHl .HL_LANE_RX_OUT p 0 i).setHl .HL_LANE_CAUSE p 0 i) s
  let s := (s.setHl .HL_STATUS_TX_OUT p 0).setHl .HL_STATUS_RX_OUT p 0
  (s.modPort p (fun x => { keptLink x with crossed := false })).enterState p 1

/-- The port trains when EN = 1 and ROLE is not IDLE (R345). -/
def mayTrain (s : State) (p : Nat) : Bool := s.hl .HL_CTL_EN p = 1 && s.hlRole p != 0

/-- Returns a port to DOWN and trains it again where it may, which is counted (R345, R346). -/
def retrain (s : State) (p : Nat) : State :=
  let s := s.leaveTraffic p 0
  if s.mayTrain p then (s.hlInc .HL_CNT_RETRAIN_COUNT p).startTraining p else s

/-- Sets EN and ROLE of a port (R344, R345). One held with LANE_FAIL stays held until RETRAIN is written (R346). -/
def setEnRole (s : State) (p en role : Nat) : State :=
  let old := s.hlRole p
  let s := if old = role then s else s.unplace p old
  let s := (s.setHl .HL_CTL_EN p en).setHl .HL_CTL_ROLE p role
  if !s.mayTrain p then (if s.hlState p = 0 || (s.hlState p = 7 && !(s.port p).crossed) then s else s.leaveTraffic p 0)
  else if s.hlState p = 0 then s.startTraining p
  else if s.inTraffic p && old != role then
    ((s.setHl .HL_STATUS_COMPAT p 0).sealEnforce p).sendIdent p true
  else s

/-- Writes HL_CTL (R344 to R346, R491). -/
def writeHlCtl (s : State) (p : Nat) (v : Word64) : State :=
  let v := v.toNat
  let s := s.setEnRole p (bits v 0 0) (bits v 3 1)
  let s := if bits v 4 4 = 0 then s.setHl .HL_CTL_SEAL_OK p 0 else if s.sealCheck p then s.setHl .HL_CTL_SEAL_OK p 1 else s
  if bits v 5 5 = 1 then s.retrain p else s

/-- Excludes a lane in one or both directions (R347, R348). -/
def excludeLane (s : State) (p i cause : Nat) (tx rx : Bool) : State :=
  let s := s.setHl .HL_LANE_CAUSE p cause i
  let s := if tx then (s.setHl .HL_LANE_TX_OUT p 1 i).setBit .HL_STATUS_TX_OUT (portDie p) (portUnit p) 0 i true else s
  let s := if rx then (s.setHl .HL_LANE_RX_OUT p 1 i).setBit .HL_STATUS_RX_OUT (portDie p) (portUnit p) 0 i true else s
  s.raiseHl .EV_HL_LANE .HL_STATUS p

/-- Good lanes of a direction. -/
def txGood (s : State) (p : Nat) : Nat := 12 - pop12 (s.hl .HL_STATUS_TX_OUT p)
def rxGood (s : State) (p : Nat) : Nat := 12 - pop12 (s.hl .HL_STATUS_RX_OUT p)

/-- Chooses the widths (R346), or holds the port with LANE_FAIL: true where both directions have one. -/
def chooseWidths (s : State) (p tx rx : Nat) : Bool × State :=
  if widthFor tx = 0 || widthFor rx = 0 then
    let s := (s.setHl .HL_FAULT_LANE_FAIL p 1).leaveTraffic p 7
    (false, s.raiseHl .EV_HL_LANE .HL_STATUS p)
  else (true, (s.setHl .HL_STATUS_TX_WIDTH p (widthFor tx)).setHl .HL_STATUS_RX_WIDTH p (widthFor rx))

/-- Starts a fast retrain (R348): ALIGN and IDENT again; no bulk frames flow, and COMPAT reads 0 (R367). -/
def fastRetrain (s : State) (p : Nat) : State :=
  let s := ((s.modPort p (fun x => { x with fast := true })).hlInc .HL_CNT_RETRAIN_COUNT p).setHl .HL_STATUS_COMPAT p 0
  s.enterState p 3

/-- ACTIVE or DEGRADED, by the widths of a port (R345). -/
def trafficState (s : State) (p : Nat) : Nat := if s.hl .HL_STATUS_TX_WIDTH p = 12 && s.hl .HL_STATUS_RX_WIDTH p = 12 then 5 else 6

/-- The port enters ACTIVE or DEGRADED, and replays from its buffer (R345, R352). -/
def enterTraffic (s : State) (p : Nat) : State :=
  let s := (s.replayAll p).enterState p (s.trafficState p)
  ((s.modPort p (fun x => { x with identDue := false, hbSeen := s.now })).evalCompat p).pump

/-- A frame or flit fails (R352): it and every later flit are discarded, and NAK goes out. -/
def linkFail (s : State) (p : Nat) : State :=
  (s.modPort p (fun x => { x with discarding := true, nakDue := true, rxNext := x.rxGood, openFlits := [] })).idleFlit p

/-- A flit or message was received in order. -/
def inOrder (s : State) (p : Nat) : State :=
  s.modPort p (fun x => { x with rxNext := (x.rxNext + 1) % 4096, discarding := false, rxAny := true, ackDue := true })

/-- Everything received so far is whole. -/
def whole (s : State) (p : Nat) : State :=
  s.modPort p (fun x => if x.openFlits.isEmpty then { x with rxGood := x.rxNext, ahead := [] } else x)

/-- The last flit of a frame has arrived (R351, R352): its CRC holds and the frame waits to be routed, or it fails. -/
def closeFrame (s : State) (p : Nat) : State :=
  let x := s.port p
  let bodies := x.openFlits.map (fun b => b.take 0x84)
  let given := field (x.openFlits.getLast?.getD []) 0x84 4
  if crc32 (bodies.foldl (· ++ ·) []) = given then
    let f : LinkFrame := ⟨(x.openFlits.headD []).take 128, (x.openFlits.drop 1).map (fun b => b.take 0x84), x.openVc, some (p, x.openVc)⟩
    (s.setPort p { x with openFlits := [], frames := x.frames ++ [f] }).whole p
  else (s.hlInc .HL_CNT_CRC_COUNT p).linkFail p

/-- A flit of a frame with LEN above 30 is discarded with it, and its credit goes back (R353, R354). -/
def dropFlit (s : State) (p vc : Nat) : State :=
  s.modPort p (fun x => if vc = 0 then { x with openFlits := [], owed0 := x.owed0 + 1 } else { x with openFlits := [], owed1 := x.owed1 + 1 })

/-- A sequenced flit in order (R349 to R352). -/
def acceptFlit (s : State) (p kind vc seq : Nat) (body : List Byte) : State :=
  let s := s.hlInc .HL_CNT_RX_FLITS_COUNT p
  if kind = 3 then
    if (s.port p).ahead.contains seq then (s.inOrder p).whole p
    else if crc32 (body.take 0x84) = field body 0x84 4 then
      let s := (s.inOrder p).hlInc .HL_CNT_PICOT_RX_COUNT p
      let s := s.modPort p (fun x => if x.openFlits.isEmpty then x else { x with ahead := x.ahead ++ [seq] })
      ((s.whole p).routePicot p (body.take 64)).pump
    else (s.hlInc .HL_CNT_CRC_COUNT p).linkFail p
  else if kind = 1 then
    let s := s.inOrder p
    if 30 < field body 1 1 then ((s.dropFlit p vc).whole p).countMisroute
    else
      let s := s.modPort p (fun x => { x with openFlits := [body], openVc := vc })
      if field body 1 1 = 0 then s.closeFrame p else s
  else
    let x := s.port p
    let s := s.inOrder p
    if x.openFlits.isEmpty then (s.dropFlit p vc).whole p
    else
      let s := s.modPort p (fun x => { x with openFlits := x.openFlits ++ [body] })
      if x.openFlits.length = field (x.openFlits.headD []) 1 1 then s.closeFrame p else s

/-- What a control word tells the sender (R350, R352, R353): acknowledgement, credits and a replay request. -/
def applyControl (s : State) (p : Nat) (w : Nat) : State :=
  let x := s.port p
  let ack := bits w 26 15
  let keep := x.replay.filter (fun f => !(bits w 27 27 = 1 && (ack + 4096 - f.seq) % 4096 < 2048))
  let moved := decide (keep.length < x.replay.length)
  let cred := bits w 39 30
  let x := { x with replay := keep, naks := if moved then 0 else x.naks,
                    cred0 := if bits w 29 29 = 0 then min 1024 (x.cred0 + cred) else x.cred0,
                    cred1 := if bits w 29 29 = 1 then min 1024 (x.cred1 + cred) else x.cred1,
                    pcred := min 32 (x.pcred + bits w 40 40) }
  let s := s.setPort p x
  if bits w 28 28 = 0 || keep.isEmpty then s
  else
    if 8 ≤ x.naks then
      ((s.setHl .HL_FAULT_RETRY_LIMIT p 1).modPort p (fun x => { x with naks := 0 })).fastRetrain p
    else (s.modPort p (fun x => { x with naks := x.naks + 1 })).replayAll p

/-- A flit arrives at a port (R349 to R352). `corrected` codewords were corrected; `bad` says that FEC reported an uncorrectable
one. -/
def receiveFlit (s : State) (p : Nat) (flit : List Byte) (corrected : Nat) (bad : Bool) : State :=
  if s.hlState p < 3 || s.hlState p = 7 then s
  else
    let flit := padTo 144 flit
    let s := s.hlInc .HL_CNT_FEC_CW_COUNT p corrected
    let s := if bad then s.hlInc .HL_CNT_FEC_UNC_COUNT p else s
    let ctl := flit.drop 0x88
    if bad then s.linkFail p
    else if crc16 (ctl.take 6) != field ctl 6 2 then (s.hlInc .HL_CNT_CRC_COUNT p).linkFail p
    else
      let w := leNat (ctl.take 6)
      let s := s.applyControl p w
      let kind := bits w 1 0
      let seq := bits w 14 3
      let x := s.port p
      if kind = 0 then s.pump
      else if seq = x.rxNext then (s.acceptFlit p kind (bits w 2 2) seq (flit.take 0x88)).pump
      else if x.discarding || (x.rxNext + 4096 - seq) % 4096 < 2048 then s.pump
      else (s.linkFail p).pump

/-- What the links do by themselves in a tick: a port that owes an acknowledgement or credits sends an IDLE flit. -/
def linkTick (s : State) : State := (List.range 8).foldl (fun s p => s.idleFlit p) s

end State

/-- HL_EN_WRITE (R345): a write of HL_CTL. -/
def execHlEnWrite (acc : Accessor) (port : Fin 8) (v : Word64) (s : State) : Out :=
  .next (s.regWrite (portDie port) (isSup acc) (fun s => some (s.writeHlCtl port v)))

/-- HL_ROLE_CHANGE (R343, R344): the supervisor gives a port a new role. -/
def execHlRoleChange (port : Fin 8) (role : Fin 8) (s : State) : Out :=
  .next (s.setEnRole port (s.hl .HL_CTL_EN port) role)

/-- SEAL_OK_WRITE (R491): SEAL_OK takes effect only while the port passes its seal check. -/
def execSealOkWrite (acc : Accessor) (port : Fin 8) (on : Bool) (s : State) : Out :=
  .next (s.regWrite (portDie port) (isSup acc) (fun s =>
    some (if !on then s.setHl .HL_CTL_SEAL_OK port 0 else if s.sealCheck port then s.setHl .HL_CTL_SEAL_OK port 1 else s)))

/-- HL_RETRAIN (R346): a write of HL_CTL.RETRAIN. -/
def execHlRetrain (acc : Accessor) (port : Fin 8) (s : State) : Out :=
  .next (s.regWrite (portDie port) (isSup acc) (fun s => some (s.retrain port)))

/-- DETECT_COMPLETE (R347). `driven` marks transmit lanes that show a driven common mode; the other sets mark lanes whose bias
shows a short to ground or supply, and lanes with no termination or no signal, on each side. -/
def execDetectComplete (port : Fin 8) (driven txGnd rxGnd txSup rxSup txOpen rxOpen : BitVec 12) (s : State) : Out :=
  .next (
    if s.hlState port != 1 then s
    else if 7 ≤ pop12 driven.toNat then
      let s := ((s.setHl .HL_FAULT_LINK_CROSSED port 1).leaveTraffic port 7).modPort port (fun x => { x with crossed := true })
      s.raiseHl .EV_HL_CROSSED .HL_FAULT port
    else
      let s := (List.range 12).foldl (fun s i =>
        let g := txGnd.toNat.testBit i || rxGnd.toNat.testBit i
        let u := txSup.toNat.testBit i || rxSup.toNat.testBit i
        let o := txOpen.toNat.testBit i || rxOpen.toNat.testBit i
        if !g && !u && !o then s
        else
          let tx := txGnd.toNat.testBit i || txSup.toNat.testBit i || txOpen.toNat.testBit i
          let rx := rxGnd.toNat.testBit i || rxSup.toNat.testBit i || rxOpen.toNat.testBit i
          let s := if g || u then s.setHl .HL_FAULT_LANE_SHORT port 1 else s
          let s := if o then s.setHl .HL_FAULT_LANE_OPEN port 1 else s
          s.excludeLane port i (if g then 1 else if u then 2 else 3) tx rx) s
      (s.modPort port (fun x => { x with crossed := false })).enterState port 2)

/-- EQUALIZE_COMPLETE (R345). -/
def execEqualizeComplete (port : Fin 8) (s : State) : Out := .next (if s.hlState port = 2 then s.enterState port 3 else s)

/-- ALIGN_COMPLETE (R346, R347): receive lane i carries peer lane `order[4i+3:4i]`, inverted where `inverted` says so. -/
def execAlignComplete (port : Fin 8) (order : BitVec 48) (inverted : BitVec 12) (s : State) : Out :=
  .next (
    if s.hlState port != 3 then s
    else
      let peer (i : Nat) := bits order.toNat (4 * i + 3) (4 * i)
      let s := (List.range 12).foldl (fun s i =>
        (s.setHl .HL_LANE_PEER port (peer i) i).setHl .HL_LANE_RX_INV port (if inverted.toNat.testBit i then 1 else 0) i) s
      let rev := (List.range 12).all (fun i => s.hl .HL_LANE_RX_OUT port i = 1 || peer i = 11 - i)
      let r := s.chooseWidths port (s.txGood port) (s.rxGood port)
      if r.1 then
        ((r.2.setHl .HL_STATUS_REVERSED port (if rev then 1 else 0)).enterState port 4).sendIdent port true
      else r.2)

/-- TRAINING_TIMEOUT (R345): a state that exceeds its limit returns the port to DOWN, and it starts again. -/
def execTrainingTimeout (port : Fin 8) (s : State) : Out :=
  .next (
    let st := s.hlState port
    let limit := if st = 1 then 1000 else if st = 2 then 60000 else if st = 3 then 1000 else 100
    if 1 ≤ st && st ≤ 4 && (s.port port).since + limit * usTicks < s.now then s.retrain port else s)

/-- CROSSED_RECHECK (R347): a port held for a crossed cable repeats DETECT every second. -/
def execCrossedRecheck (port : Fin 8) (s : State) : Out :=
  .next (
    if s.hlState port = 7 && (s.port port).crossed && (s.port port).since + 1000000 * usTicks ≤ s.now then s.startTraining port else s)

/-- LANE_LOSS_OF_LOCK (R348). -/
def execLaneLossOfLock (port : Fin 8) (lane : Fin 12) (s : State) : Out :=
  .next (if s.inTraffic port then (s.excludeLane port lane 4 false true).fastRetrain port else s)

/-- LANE_ERROR_RATE (R348). -/
def execLaneErrorRate (port : Fin 8) (lane : Fin 12) (s : State) : Out :=
  .next (if s.inTraffic port then (s.excludeLane port lane 5 false true).fastRetrain port else s)

/-- FAST_RETRAIN_COMPLETE (R348, R352): the port is back in traffic and replays from its buffer. -/
def execFastRetrainComplete (port : Fin 8) (s : State) : Out :=
  .next (
    if s.hlState port = 4 && (s.port port).fast && !(s.port port).identDue then
      (s.modPort port (fun x => { x with fast := false })).enterTraffic port
    else s)

/-- FLIT_RECEIVE (R350). -/
def execFlitReceive (port : Fin 8) (flit : List Byte) (corrected : Nat) (bad : Bool) (s : State) : Out :=
  .next (s.receiveFlit port flit corrected bad)

/-- FRAME_RECEIVE (R354, R355): the oldest whole frame of a port is routed. -/
def execFrameReceive (port : Fin 8) (s : State) : Out :=
  .next (
    match (s.port port).frames with
    | [] => s
    | f :: rest =>
      let s := s.modPort port (fun x => { x with frames := rest })
      if f.malformed then (s.freeFrame f).countMisroute else (s.routeFrame f).pump)

/-- HOLD_LIMIT_EXPIRY (R358): the oldest frame that has waited HOLD_LIMIT is discarded. -/
def execHoldLimitExpiry (s : State) : Out :=
  .next (
    let limit := max (s.fld .HLM_CTL_HOLD_LIMIT iod0) 1 * usTicks
    match s.held.find? (fun h => h.since + limit ≤ s.now) with
    | none => s
    | some h =>
      let p := ((s.rolePorts h.role)[if h.index = 3 then 0 else h.index]?).getD 0
      let s := ({ s with held := s.held.erase h }.freeFrame h.frame).incFld .HLM_CNT_NOROUTE_COUNT iod0 0 0
      if (s.port p).noRoute then s
      else (s.modPort p (fun x => { x with noRoute := true })).raiseHl .EV_HL_NOROUTE .HL_STATUS p)

/-- The bytes that a HEARTBEAT's MAC covers (R490). -/
def hbMacInput (m : List Byte) : List Byte := m.take 0x20 ++ (m.drop 0x30).take 2

namespace State

/-- The HEARTBEAT of a port (R364, R366, R490). -/
def heartbeatMsg (s : State) (p : Nat) : List Byte :=
  let head := leBytes 1 p ++ leBytes 1 (s.fld .HLM_POS_CATCHER iod0) ++ leBytes 2 0 ++ leBytes 4 (s.port p).hbCount
  match s.policy with
  | some q =>
    if q.ring = 0 then picotMsg 1 0 s.myPos 0 s.myGen 0 0 head
    else
      let m := picotMsg 1 0 s.myPos 0 s.myGen 0 0 (padTo 32 head ++ leBytes 2 q.ring)
      patch m 0x20 (padTo 16 (Config.aesCmac q.ringKey (hbMacInput m)))
  | none => picotMsg 1 0 s.myPos 0 s.myGen 0 0 head

/-- Whether a HEARTBEAT's tag verifies under the ring key (R490). -/
def hbVerifies (s : State) (m : List Byte) : Bool :=
  match s.policy with
  | some q => q.ring != 0 && !q.ringKey.isEmpty && field m 0x30 2 = q.ring && (m.drop 0x20).take 16 == padTo 16 (Config.aesCmac q.ringKey (hbMacInput m))
  | none => false

end State

/-- HEARTBEAT_SEND (R366): a period after the last one, while the permission lasts. -/
def execHeartbeatSend (port : Fin 8) (s : State) : Out :=
  .next (
    let x := s.port port
    if s.inTraffic port && s.hbAllowed && decide (s.now < s.aliveAt + max (s.fld .HLM_CTL_ALIVE_LIMIT iod0) 1 * usTicks)
        && decide (x.hbSent + max (s.hl .HL_HB_PERIOD port) 1 * usTicks ≤ s.now) then
      let m := s.heartbeatMsg port
      (s.setPort port { x with hbCount := (x.hbCount + 1) % 2 ^ 32, hbSent := s.now }).sendPicotOn port m
    else s)

/-- HEARTBEAT (R366, R490): the oldest delivered heartbeat is copied into HL_PEER of its port and checked for the seal. -/
def execHeartbeat (s : State) : Out :=
  .next (
    match s.takeMsg (fun m => msgKind m = 1) with
    | none => s
    | some (p, m, s) =>
      let c := field m 0x14 4
      let x := s.port p
      let newer := match x.hbLast with
        | none => true
        | some o => let d := (c + 2 ^ 32 - o) % 2 ^ 32; decide (1 ≤ d) && decide (d ≤ 2 ^ 31)
      let ok := s.hbVerifies m && msgSrc m == s.hl .HL_PEER_POS p && newer
      let s := (((s.setHl .HL_PEER_POS p (msgSrc m)).setHl .HL_PEER_GEN p (msgGen m)).setHl .HL_PEER_PORT p (field m 0x10 1)).setHl
        .HL_PEER_CATCHER p (field m 0x11 1)
      let s := s.modPort p (fun x => { x with hbSeen := s.now, hbOk := ok, hbLast := if ok then some c else x.hbLast })
      (s.evalCompat p).sealEnforce p)

/-- HEARTBEAT_LOSS (R366): no HEARTBEAT for HL_HB.LIMIT. -/
def execHeartbeatLoss (port : Fin 8) (s : State) : Out :=
  .next (
    let limit := max (s.hl .HL_HB_LIMIT port) (2 * max (s.hl .HL_HB_PERIOD port) 1) * usTicks
    if s.inTraffic port && s.hl .HL_FAULT_HB_LOSS port = 0 && decide ((s.port port).hbSeen + limit ≤ s.now) then
      let s := (s.setHl .HL_FAULT_HB_LOSS port 1).raiseHl .EV_HL_HB_LOSS .HL_PEER port
      let s := (s.modPort port (fun x => { x with hbOk := false })).sealEnforce port
      s.lossDetected port
    else s)

/-- ALIVE_LIMIT_EXPIRY (R366): heartbeats stop. -/
def execAliveLimitExpiry (s : State) : Out :=
  .next (
    if s.hbAllowed && decide (s.aliveAt + max (s.fld .HLM_CTL_ALIVE_LIMIT iod0) 1 * usTicks ≤ s.now) then { s with hbAllowed := false }
    else s)

/-- HLM_ALIVE (R366): a PING refreshes the permission; an unfit module's supervisor writes it no more (R412). -/
def execHlmAlive (acc : Accessor) (v : Word64) (s : State) : Out :=
  .next (s.regWrite iod0 (isSup acc) (fun s =>
    some (if v.toNat % 2 = 1 && !s.unfit then { s with aliveAt := s.now, hbAllowed := true } else s)))

/-- IDENT (R344, R345): the oldest delivered IDENT gives the peer of its port. -/
def execIdent (s : State) : Out :=
  .next (
    match s.takeMsg (fun m => msgKind m = 2) with
    | none => s
    | some (p, m, s) =>
      if s.hlState p < 4 || s.hlState p = 7 then s
      else
        let s := ((((s.setHl .HL_PEER_POS p (msgSrc m)).setHl .HL_PEER_GEN p (msgGen m)).setHl .HL_PEER_ROLE p (field m 0x11 1)).setHl
          .HL_PEER_PORT p (field m 0x10 1)).setHl .HL_PEER_CATCHER p (field m 0x12 1)
        let s := s.setHl .HL_PEER_VALID p 1
        let due := (s.port p).identDue
        let s := s.modPort p (fun x => { x with identDue := false })
        if s.hlState p = 4 then
          let r := s.chooseWidths p (min (s.txGood p) (pop12 (field m 0x16 2))) (min (s.rxGood p) (pop12 (field m 0x14 2)))
          if !r.1 then r.2 else if (r.2.port p).fast then r.2 else r.2.enterTraffic p
        else
          let r := s.chooseWidths p (min (s.txGood p) (pop12 (field m 0x16 2))) (min (s.rxGood p) (pop12 (field m 0x14 2)))
          if !r.1 then r.2
          else
            let s := r.2.setHl .HL_STATUS_STATE p (r.2.trafficState p)
            (if due then s else s.sendIdent p false).evalCompat p)

end Sys2Proof.Machine
end

