-- ==== Sys2Proof/Machine/Commit.lean ====
section
/-! DEFINITION. The commit vote and the parameter update (chapters "Parameter update and step commit", R225 to R247, and
"Training numerics", R216 to R220 and R224). -/

namespace Sys2Proof.Machine

/-- A parameter-group entry's 32-bit fields (R230) in a copy of the table. -/
def grpWord (t : List (Key × Nat)) (slot g w : Nat) : Nat := Tbl.get 0 t (Key.at slot g w)
def grpLow (t : List (Key × Nat)) (slot g w : Nat) : Nat := grpWord t slot g w % 2 ^ 32
def grpHigh (t : List (Key × Nat)) (slot g w : Nat) : Nat := grpWord t slot g w / 2 ^ 32 % 2 ^ 32
def grpRule (t : List (Key × Nat)) (slot g : Nat) : Nat := grpWord t slot g 0 % 4

/-- The bits of a group word that are not reserved (R230). -/
def grpMask (w : Nat) : Nat :=
  if w = 0 then 2 ^ 64 - 2 ^ 32 + 7 else if w = 6 then 2 ^ 32 - 1 else if w = 7 then 0 else 2 ^ 64 - 1

/-- A stale step size (R231). -/
def grpStale (t : List (Key × Nat)) (slot g step : Nat) : Bool :=
  grpRule t slot g != 0
    && (grpHigh t slot g (4 + step % 2) != step || !(fp32.decode (grpLow t slot g (4 + step % 2))).isFinite)

/-- A segment descriptor's fields (R227). -/
structure Segment where
  count : Nat
  group : Nat
  valid : Bool
  reserved : Bool
  hi : Nat
  lo : Nat
  g : Nat
  gs : Nat
  m : Nat
  ms : Nat
  v : Nat
  vs : Nat
  deriving DecidableEq, Repr

/-- Reads a descriptor from its 64 bytes (R227). -/
def segOf (b : List Byte) : Segment :=
  ⟨field b 0 4, field b 4 1, field b 5 1 % 2 = 1, 1 < field b 5 1 || field b 6 2 != 0 || field b 0x38 8 != 0, field b 8 6, field b 0xE 6,
   field b 0x14 6, field b 0x1A 6, field b 0x20 6, field b 0x26 6, field b 0x2C 6, field b 0x32 6⟩

/-- A segment descriptor, or why an engine cannot have it: a translation or an access that fails, a poisoned word, or a frame that is
being zeroed. -/
inductive SegRead where
  | ok (x : Segment) | bad | poison | wait
  deriving DecidableEq, Repr

/-- The request that an update engine makes for a slot. -/
def updReq (slot : Nat) : Requester := .update (Fin.ofNat 4 slot)

def fp32One : Nat := 0x3F800000

/-- The update engines, as hub and engine. -/
def ueAll : List (Nat × Nat) := (List.range 8).map (fun k => (k / 2, k % 2))

namespace State

def vote (s : State) (slot : Nat) : Option Vote := s.votes.get none (Key.at slot)
def setVote (s : State) (slot : Nat) (v : Option Vote) : State := { s with votes := s.votes.set none (Key.at slot) v }

/-- The updates of a slot that are being applied (R243). -/
def updatesOf (s : State) (slot : Nat) : List Update := s.updates.filter (fun u => u.slot == slot)

/-- CMT_STATUS.STATE: that of the open vote, else APPLYING while an update runs (DESIGN CHOICE, log entry 135). -/
def cmtShow (s : State) (slot : Nat) : State :=
  s.setFld .CMT_STATUS_STATE mh0 slot 0 (match s.vote slot with
    | some v => if v.ready.isSome then 2 else 1
    | none => if (s.updatesOf slot).isEmpty then 0 else 3)

/-- UE_STATUS of every engine: it is BUSY with the earliest update for which it has a list (R243). -/
def ueShow (s : State) : State :=
  ueAll.foldl (fun s e =>
    match s.updates.find? (fun u => s.fld .UE_SEG_CNT_COUNT (mhDie e.1) e.2 u.slot != 0) with
    | some u =>
      if s.flag .UE_STATUS_BUSY (mhDie e.1) e.2 && s.fld .UE_STATUS_SLOT (mhDie e.1) e.2 = u.slot then s
      else ((s.setFld .UE_STATUS_BUSY (mhDie e.1) e.2 0 1).setFld .UE_STATUS_SLOT (mhDie e.1) e.2 0 u.slot).setFld .UE_STATUS_SEG (mhDie e.1) e.2 0 0
    | none => s.setFld .UE_STATUS_BUSY (mhDie e.1) e.2 0 0) s

/-- The dies of a slot (SLQ_STATE.DIES), which is its DIE_MASK. -/
def slotDies (s : State) (slot : Nat) : List Nat := (List.range 8).filter (fun cd => s.flagBit .SLQ_STATE_DIES iod0 slot 0 cd)

/-- CINCs on a synchronisation counter that the vote has not consumed (R237). -/
def unvoted (s : State) (cd slot k : Nat) : Nat :=
  let c := s.sync cd slot k
  (c.count + 2 ^ 32 - c.votes) % 2 ^ 32

/-- Opens the vote of a slot's step once every die of its DIE_MASK has an unconsumed CINC (R237): the vote consumes one of each,
and the engines copy the group table (R232). -/
def voteTryOpen (s : State) (slot : Nat) : State :=
  let k := s.fld .CMT_CFG_SYNC_K mh0 slot
  let dies := s.slotDies slot
  if (s.vote slot).isSome || dies.isEmpty || dies.any (fun cd => s.unvoted cd slot k = 0) then s
  else
    let step := s.fld .NUM_STEP_STEP mh0 slot
    let s := dies.foldl (fun s cd =>
      s.setSync cd slot k { s.sync cd slot k with votes := ((s.sync cd slot k).votes + 1) % 2 ^ 32 }) s
    let s := s.setVote slot (some ⟨step, s.groups.entries (fun e => e.d == slot), none, false⟩)
    (s.setFld .CMT_STATUS_STATE mh0 slot 0 1).setFld .CMT_STATUS_STEP mh0 slot 0 step

/-- Descriptor `i` of an engine's segment list for a slot (R226): it, or why it cannot be had. -/
def segment (s : State) (hub n slot i : Nat) : SegRead × State :=
  match s.vaRead (updReq slot) slot (s.fld .UE_SEG_BASE_BASE (mhDie hub) n slot * 64 + 64 * i) 64 with
  | (.ok bs, s) => (if mPoison bs then .poison else .ok (segOf (bs.map MByte.b)), s)
  | (.wait, s) => (.wait, s)
  | (.bad, s) => (.bad, s)

/-- A region of `n` bytes lies inside the slot's HBM quota (R228): every page of it is an HBM frame that the slot owns. -/
def inHbmQuota (s : State) (slot va n : Nat) : Bool :=
  (List.range ((va + n - 1) / 65536 - va / 65536 + 1)).all (fun k =>
    match s.translate slot (65536 * (va / 65536 + k)) false with
    | .fault _ => false
    | .pa a => match frameOf a with
      | some (0, f) => decide ((s.frame 0 f).owner = .slot slot)
      | _ => false)

/-- An invalid descriptor (R228). -/
def segInvalid (s : State) (slot : Nat) (t : List (Key × Nat)) (x : Segment) : Bool :=
  !x.valid || x.reserved || x.count = 0 || !s.inHbmQuota slot x.hi (2 * x.count) || !s.inHbmQuota slot x.lo (2 * x.count)
    || !s.inHbmQuota slot x.g (2 * x.count) || !s.inHbmQuota slot x.gs ((x.count + 63) / 64)
    || (grpRule t slot x.group = 2 && (x.v = 0 || x.vs = 0)) || (grpRule t slot x.group = 1 && (x.v != 0 || x.vs != 0))

/-- A descriptor of a slot's lists lies in a frame that is being zeroed: the check waits for it (R257). -/
def segmentsWait (s : State) (slot : Nat) : Bool :=
  ueAll.any (fun e => (List.range (s.fld .UE_SEG_CNT_COUNT (mhDie e.1) e.2 slot)).any (fun i => decide ((s.segment e.1 e.2 slot i).1 = .wait)))

/-- Checks the lists of every engine (R238): BAD_SEG and the record on an engine that holds an invalid descriptor, the first of its
list. A descriptor that cannot be read is invalid (log entry 136). -/
def checkSegments (s : State) (slot : Nat) (t : List (Key × Nat)) : Bool × State :=
  ueAll.foldl (fun (r : Bool × State) e =>
    let n := r.2.fld .UE_SEG_CNT_COUNT (mhDie e.1) e.2 slot
    let k := (List.range n).foldl (fun (k : Option Nat × State) i =>
      let x := k.2.segment e.1 e.2 slot i
      let bad := match x.1 with
        | .ok g => x.2.segInvalid slot t g
        | _ => true
      (if bad && k.1.isNone then some i else k.1, x.2)) (none, r.2)
    match k.1 with
    | none => (r.1, k.2)
    | some i =>
      let s := k.2.setFld .UE_FAULT_BAD_SEG (mhDie e.1) e.2 0 1
      (true, (s.setFld .UE_FAULT_INFO_SEG (mhDie e.1) e.2 0 i).setFld .UE_FAULT_INFO_SLOT (mhDie e.1) e.2 0 slot)) (false, s)

/-- Sends a picot message of this module to a position: over the port whose peer holds it, else along dimension 1, relayed by the
positions between (log entry 50). -/
def sendTo (s : State) (pos kind slot gen : Nat) (payload : List Byte) : State :=
  match (List.range 8).find? (fun p => s.inTraffic p && s.hl .HL_PEER_VALID p = 1 && s.hl .HL_PEER_POS p = pos) with
  | some p => s.sendPicotOn p (picotMsg kind slot s.myPos pos gen 0 0 payload)
  | none =>
    let leg := if s.myPos < pos then legOf 2 0 (pos - s.myPos) else legOf 1 0 (s.myPos - pos)
    s.sendPicot (picotMsg kind slot s.myPos pos gen leg 0 payload)

/-- Sends a vote message to the next position of the vote path (R239, R240, R364). -/
def sendVote (s : State) (slot kind : Nat) (commit : Bool) (reasons step : Nat) : State :=
  s.sendTo (s.fld .CMT_CFG_NEXT_POS mh0 slot) 3 slot (s.fld .REC_JOB_GEN_GEN iod0 slot)
    (leBytes 1 kind ++ leBytes 1 (if commit then 1 else 0) ++ leBytes 1 reasons ++ leBytes 1 0 ++ leBytes 4 step)

/-- The vote path has 0 hops (R239): the next position is the module's own. -/
def votePathEmpty (s : State) (slot : Nat) : Bool := s.fld .CMT_CFG_NEXT_POS mh0 slot = s.myPos

/-- Signed value of an 8-bit field of NUM_LSCALE. -/
def lscale (s : State) (slot : Nat) : Int := s8 (s.fld .NUM_LSCALE_E mh0 slot)
def lscaleMin (s : State) (slot : Nat) : Int := s8 (s.fld .NUM_LSCALE_E_MIN mh0 slot)

/-- Sets E, not below E_MIN (R220). -/
def setLscale (s : State) (slot : Nat) (e : Int) : State :=
  s.setFld .NUM_LSCALE_E mh0 slot 0 (ofSigned 8 (max e (s.lscaleMin slot)))

/-- What a resolution does to the loss scale (R220). -/
def resolveScale (s : State) (slot : Nat) (commit : Bool) : State :=
  let pend := s.flag .NUM_LSCALE_PEND_VALID mh0 slot
  let s' := s.setFld .NUM_LSCALE_PEND_VALID mh0 slot 0 0
  if commit then
    if pend then s'.setLscale slot (s8 (s.fld .NUM_LSCALE_PEND mh0 slot)) else s'
  else if s.lscaleMin slot < s.lscale slot then
    let s := (s'.setLscale slot (s.lscale slot - 1)).incFld .NUM_CNT_HALVE_COUNT mh0 slot 0
    s.raise .EV_LSCALE_HALVED mh0 slot (s.regWord .NUM_LSCALE mh0 slot) (some slot)
  else
    let s := s'.setFld .NUM_LSCALE_FLOOR_HIT mh0 slot 0 1
    s.raise .EV_LSCALE_FLOOR mh0 slot (s.regWord .NUM_LSCALE mh0 slot) (some slot)

/-- Sets NUM_STEP.STEP; NUM_OVF follows it. -/
def setStep (s : State) (slot step : Nat) : State :=
  let s := if s.fld .NUM_STEP_STEP mh0 slot = step % 2 ^ 32 then s else s.setFld .NUM_OVF_OVF mh0 slot 0 0
  (s.setFld .NUM_STEP_STEP mh0 slot 0 step).setFld .NUM_OVF_STEP mh0 slot 0 step

/-- The powers that a COMMIT stores for the groups of RULE 2 (R234). -/
def storePowers (s : State) (slot : Nat) (t : List (Key × Nat)) : State :=
  (List.range 256).foldl (fun s g =>
    if grpRule t slot g = 2 then
      let b1 := mul32 (grpLow t slot g 3) (grpLow t slot g 1)
      let b2 := mul32 (grpHigh t slot g 3) (grpHigh t slot g 1)
      { s with groups := s.groups.set 0 (Key.at slot g 3) (b1 + b2 * 2 ^ 32) }
    else s) s

/-- Advances a wait counter in every context of a slot on its dies (R243). -/
def bumpSlot (s : State) (slot n : Nat) : State :=
  (s.slotDies slot).foldl (fun s cd =>
    (List.range 4).foldl (fun s c => if s.ctxState cd c != ctxFree && s.ctxSlot cd c = slot then s.bumpCnt cd c n else s) s) s

/-- Resolves the open vote, which ends it (R242 to R244): an update begins or the step-commit counter advances, and the next vote opens
where its CINCs are there (R237). -/
def voteResolve (s : State) (slot : Nat) (v : Vote) (commit : Bool) (reasons : Nat) : State :=
  let e := s.lscale slot
  let s := (s.setStep slot (v.step + 1)).setFld .NUM_STEP_RESOLVED mh0 slot 0 v.step
  let s := s.resolveScale slot commit
  let s := ((s.setFld .CMT_LAST_COMMIT mh0 slot 0 (if commit then 1 else 0)).setFld .CMT_LAST_REASONS mh0 slot 0 reasons).setFld
    .CMT_LAST_STEP mh0 slot 0 v.step
  let s := s.setFld .CMT_CFG_SKIP_NEXT mh0 slot 0 0
  let s := s.raise (if commit then .EV_CMT_COMMIT else .EV_CMT_SKIP) mh0 slot (s.regWord .CMT_LAST mh0 slot) (some slot)
  let s := s.setVote slot none
  let s := if commit then
      let s := (s.incFld .CMT_CNT_COMMIT_COUNT mh0 slot 0).storePowers slot v.table
      ({ s with updates := s.updates ++ [⟨slot, v.step, v.table, e⟩] } : State).ueShow
    else (s.incFld .CMT_CNT_SKIP_COUNT mh0 slot 0).bumpSlot slot 0x62
  (s.cmtShow slot).voteTryOpen slot

/-- The local vote and its reasons. -/
def localVote (s : State) (slot : Nat) : Bool × Nat := (s.flag .CMT_STATUS_LOCAL mh0 slot, s.fld .CMT_STATUS_REASONS mh0 slot)

/-- Joins the local vote to a GATHER and forwards it (R241). -/
def joinGather (s : State) (slot : Nat) (v : Vote) (m : List Byte) : State :=
  let l := s.localVote slot
  { s with gathers := s.gathers.set none (Key.at slot) none }.sendVote slot 1 (field m 0x11 1 = 1 && l.1) (field m 0x12 1 ||| l.2) v.step

/-- A vote message names the slot's job generation. -/
def voteGenOk (s : State) (m : List Byte) : Bool := msgGen m == s.fld .REC_JOB_GEN_GEN iod0 (msgSlot m)

/-- The step whose RESULT the root waits for (R241). -/
def awaited (s : State) (slot : Nat) : Option Nat := s.awaiting.get none (Key.at slot)
def setAwaiting (s : State) (slot : Nat) (x : Option Nat) : State := { s with awaiting := s.awaiting.set none (Key.at slot) x }

def voteDiscard (s : State) (slot : Nat) : State := s.incFld .CMT_CNT_DISCARD_COUNT mh0 slot 0

end State

/-- VOTE_LOCAL_READY (R238, R241): the local vote is formed and sent on its way. It is not formed while a descriptor's frame is being
zeroed. -/
def execVoteLocalReady (slot : Fin 4) (s : State) : Out :=
  .next (
    match s.vote slot with
    | none => s
    | some v =>
      if v.ready.isSome || s.segmentsWait slot then s
      else
        let seg := s.checkSegments slot v.table
        let s := seg.2
        let r (b : Bool) (n : Nat) : Nat := if b then n else 0
        let reasons := r (s.flag .NUM_OVF_OVF mh0 slot) 1 + r ((List.range 256).any (fun g => grpStale v.table slot g v.step)) 2
          + r seg.1 4 + r (s.flag .CMT_CFG_SKIP_NEXT mh0 slot) 8
        let v := { v with ready := some s.now }
        let s := ((s.setFld .CMT_STATUS_STATE mh0 slot 0 2).setFld .CMT_STATUS_LOCAL mh0 slot 0 (if reasons = 0 then 1 else 0)).setFld
          .CMT_STATUS_REASONS mh0 slot 0 reasons
        let s := s.setVote slot (some v)
        if s.flag .CMT_CFG_ROOT mh0 slot then
          if s.votePathEmpty slot then s.voteResolve slot v (reasons = 0) reasons
          else s.sendVote slot 1 (reasons = 0) reasons v.step
        else match s.gathers.get none (Key.at slot) with
          | none => s
          | some m => if field m 0x14 4 = v.step && s.voteGenOk m then s.joinGather slot v m else s)

/-- VOTE_GATHER (R240, R241): the root decides when its GATHER returns; any other position holds it until its own vote is ready.
A GATHER for the slot's current step that arrives before the vote opens is held as well (log entry 31). -/
def execVoteGather (s : State) : Out :=
  .next (
    match s.takeMsg (fun m => msgKind m = 3 && field m 0x10 1 = 1) with
    | none => s
    | some (_, m, s) =>
      let slot := msgSlot m
      let step := field m 0x14 4
      if !s.voteGenOk m then s.voteDiscard slot
      else match s.vote slot with
        | none =>
          if step = s.fld .NUM_STEP_STEP mh0 slot && !s.flag .CMT_CFG_ROOT mh0 slot then
            { s with gathers := s.gathers.set none (Key.at slot) (some m) }
          else s.voteDiscard slot
        | some v =>
          if step != v.step then s.voteDiscard slot
          else if s.flag .CMT_CFG_ROOT mh0 slot then
            let commit := field m 0x11 1 = 1
            let s := s.voteResolve slot v commit (field m 0x12 1)
            (s.setAwaiting slot (some v.step)).sendVote slot 2 commit (field m 0x12 1) v.step
          else if v.ready.isSome then s.joinGather slot v m
          else { s with gathers := s.gathers.set none (Key.at slot) (some m) })

/-- VOTE_RESULT (R241, R242): a position resolves and forwards it; the vote is complete when it returns to the root. -/
def execVoteResult (s : State) : Out :=
  .next (
    match s.takeMsg (fun m => msgKind m = 3 && field m 0x10 1 = 2) with
    | none => s
    | some (_, m, s) =>
      let slot := msgSlot m
      if !s.voteGenOk m then s.voteDiscard slot
      else if s.flag .CMT_CFG_ROOT mh0 slot then
        if s.awaited slot = some (field m 0x14 4) then s.setAwaiting slot none else s.voteDiscard slot
      else match s.vote slot with
        | none => s.voteDiscard slot
        | some v =>
          if field m 0x14 4 != v.step then s.voteDiscard slot
          else
            let commit := field m 0x11 1 = 1
            (s.voteResolve slot v commit (field m 0x12 1)).sendVote slot 2 commit (field m 0x12 1) v.step)

/-- VOTE_TIMEOUT (R244): the vote is still unresolved LIMIT after its local vote was ready; it stays open. -/
def execVoteTimeout (slot : Fin 4) (s : State) : Out :=
  .next (
    match s.vote slot with
    | some v =>
      match v.ready with
      | some t =>
        if !v.timedOut && decide (t + max (s.fld .CMT_CFG_LIMIT mh0 slot) 1 * 1000 * usTicks ≤ s.now) then
          let s := (s.setVote slot (some { v with timedOut := true })).setFld .CMT_STATUS_TIMEOUT mh0 slot 0 1
          s.raise .EV_CMT_TIMEOUT mh0 slot (s.regWord .CMT_STATUS mh0 slot) (some slot)
        else s
      | none => s
    | none => s)

/-- NUM_STEP_WRITE (R224): the supervisor sets the census step; NUM_OVF follows. -/
def execNumStepWrite (acc : Accessor) (slot : Fin 4) (v : Word64) (s : State) : Out :=
  .next (s.regWrite mh0 (isSup acc) (fun s => some (s.setStep slot (bits v.toNat 31 0))))

/-- The constants of one group for the update of a step (R232 to R234), as FP32 patterns. -/
structure UpdateRule where
  rule : Nat
  zeroHold : Bool
  clip : Nat
  beta1 : Nat
  beta2 : Nat
  eps : Nat
  decay : Nat
  bc1 : Nat
  bc2 : Nat
  lr : Nat
  gmul : Nat
  scale : Int
  deriving DecidableEq, Repr

/-- Reads them from the copy of the table. -/
def updateRule (t : List (Key × Nat)) (slot g step : Nat) (e : Int) : UpdateRule :=
  ⟨grpRule t slot g, (grpWord t slot g 0).testBit 2, grpHigh t slot g 0, grpLow t slot g 1, grpHigh t slot g 1, grpLow t slot g 2,
   grpHigh t slot g 2, mul32 (grpLow t slot g 3) (grpLow t slot g 1), mul32 (grpHigh t slot g 3) (grpHigh t slot g 1),
   grpLow t slot g (4 + step % 2), grpLow t slot g 6, e⟩

/-- Negates an FP32 pattern. -/
def neg32 (a : Nat) : Nat := a ^^^ 2 ^ 31

/-- The prepared gradient (R233). -/
def prepGrad (u : UpdateRule) (g : Num) : Nat :=
  let x := mul32 (rne32 (g.scale2 (-u.scale))) u.gmul
  if Num.ltN (.fin ⟨false, 0, 0⟩) (fp32.decode u.clip) && !(fp32.decode u.clip).isNan then
    rne32 (Num.max (fp32.decode (neg32 u.clip)) (Num.min' (fp32.decode u.clip) (fp32.decode x)))
  else x

/-- One element (R233): the new master, first and second moment. -/
def updateElem (u : UpdateRule) (g : Num) (w m v : Nat) : Nat × Nat × Nat :=
  let g := prepGrad u g
  if u.rule = 1 then
    let m := fma32 u.beta1 m g
    (fma32 (neg32 u.lr) (fma32 u.decay w m) w, m, v)
  else
    let m := fma32 (sub32 fp32One u.beta1) g (mul32 u.beta1 m)
    let v := fma32 (sub32 fp32One u.beta2) (mul32 g g) (mul32 u.beta2 v)
    let mh := div32 m (sub32 fp32One u.bc1)
    let vh := div32 v (sub32 fp32One u.bc2)
    (fma32 (neg32 u.lr) (fma32 u.decay w (div32 mh (add32 (sqrt32 vh) u.eps))) w, m, v)

/-- What one 32-element block did: wait for zeroing, failed translation, held (R235), or updated with `n` elements updated and
`held` elements left (R236), some of them poisoned or not. -/
inductive BlockDone where
  | wait | xlate | held
  | done (n nonfinite : Nat) (poison : Bool)
  deriving DecidableEq, Repr

namespace State

/-- Updates block `b` of a segment (R233 to R236). -/
def updateBlock (s : State) (slot : Nat) (u : UpdateRule) (x : Segment) (b : Nat) : BlockDone × State :=
  let req := updReq slot
  let n := min 32 (x.count - 32 * b)
  let e0 := 32 * b
  let grads : List (Nat × Nat) := [(x.g + 2 * e0, 2 * n), (x.gs + e0 / 64, 1)]
  let parts : List (Nat × Nat) := [(x.hi + 2 * e0, 2 * n), (x.lo + 2 * e0, 2 * n),
    (x.m + e0, n), (x.ms + b, 1)] ++ (if u.rule = 2 then [(x.v + e0, n), (x.vs + b, 1)] else [])
  let adm := grads.map (fun p => s.vaAdmit req slot p.1 p.2 false)
  if adm.any Option.isNone then (.xlate, s)
  else if adm.any (fun a => a = some false) then (.wait, s)
  else
    let rd (r : Option (List (List MByte)) × State) (p : Nat × Nat) : Option (List (List MByte)) × State :=
      match r.1 with
      | none => r
      | some acc => match r.2.vaRead req slot p.1 p.2 with
        | (.ok bs, s') => (some (acc ++ [bs]), s')
        | (_, s') => (none, s')
    let r := grads.foldl rd (some [], s)
    match r.1 with
    | none => (.xlate, r.2)
    | some gb =>
      let g := gb.getD 0 []
      let gsb := gb.getD 1 []
      let grad (i : Nat) : Num := Fmt.g16s.scaledValue (mValue gsb) (mValue (mSub g (2 * i) 2))
      if u.zeroHold && !mPoison g && !mPoison gsb && (List.range n).all (fun i => (grad i).isZero) then (.held, r.2)
      else
        let adm := parts.map (fun p => r.2.vaAdmit req slot p.1 p.2 true)
        if adm.any Option.isNone then (.xlate, r.2)
        else if adm.any (fun a => a = some false) then (.wait, r.2)
        else
        let r := parts.foldl rd (some [], r.2)
        match r.1 with
        | none => (.xlate, r.2)
        | some ob =>
          let s := r.2
          let hi := ob.getD 0 []
          let lo := ob.getD 1 []
          let m := ob.getD 2 []
          let ms := ob.getD 3 []
          let v := ob.getD 4 []
          let vs := ob.getD 5 []
          let mOld (i : Nat) : Num := Fmt.bq8.scaledValue (mValue ms) (mValue (mSub m i 1))
          let vOld (i : Nat) : Num := Fmt.bq8.scaledValue (mValue vs) (mValue (mSub v i 1))
          let held (i : Nat) : Bool := !(grad i).isFinite
          let res := (List.range n).map (fun i =>
            let w := rne32 (s24Join (mValue (mSub hi (2 * i) 2)) (mValue (mSub lo (2 * i) 2)))
            if held i then (w, rne32 (mOld i), rne32 (vOld i)) else updateElem u (grad i) w (rne32 (mOld i)) (rne32 (vOld i)))
          let marks (i : Nat) : List MByte :=
            mSub g (2 * i) 2 ++ gsb ++ mSub hi (2 * i) 2 ++ mSub lo (2 * i) 2 ++ mSub m i 1 ++ ms ++ (if u.rule = 2 then mSub v i 1 ++ vs else [])
          let mark (bs : List Byte) (i : Nat) : List MByte := bs.map (fun b => ⟨b, mPoison (marks i), mSealed (marks i)⟩)
          let split (i : Nat) : Nat × Nat :=
            if held i then (mValue (mSub hi (2 * i) 2), mValue (mSub lo (2 * i) 2)) else s24Split (res.getD i (0, 0, 0)).1
          let anyP := (List.range n).any (fun i => mPoison (marks i))
          let anyS := (List.range n).any (fun i => mSealed (marks i))
          let encM := encodeBlock .bq8 .rne false [] (res.map (fun t => fp32.decode t.2.1))
          let encV := encodeBlock .bq8 .rne false [] (res.map (fun t => fp32.decode t.2.2))
          let each (f : Nat → List Byte) : List MByte := (List.range n).flatMap (fun i => mark (f i) i)
          let elems (enc : Nat × List Converted) : List MByte := (enc.2.map (fun c => (⟨BitVec.ofNat 8 c.pat, anyP, anyS⟩ : MByte)))
          let s := s.vaStore req slot (x.hi + 2 * e0) (each (fun i => leBytes 2 (split i).1))
          let s := s.vaStore req slot (x.lo + 2 * e0) (each (fun i => leBytes 2 (split i).2))
          let s := (s.vaStore req slot (x.m + e0) (elems encM)).vaStore req slot (x.ms + b) [⟨BitVec.ofNat 8 encM.1, anyP, anyS⟩]
          let s := if u.rule = 2 then (s.vaStore req slot (x.v + e0) (elems encV)).vaStore req slot (x.vs + b) [⟨BitVec.ofNat 8 encV.1, anyP, anyS⟩]
            else s
          let bad := ((List.range n).filter held).length
          (.done (n - bad) bad anyP, s)

/-- Records a fault of an update engine. -/
def ueRecord (s : State) (hub n slot seg : Nat) (f : Fld) (e : Ev) : State :=
  let s := s.setFld f (mhDie hub) n 0 1
  let s := (s.setFld .UE_FAULT_INFO_SEG (mhDie hub) n 0 seg).setFld .UE_FAULT_INFO_SLOT (mhDie hub) n 0 slot
  s.raise e (mhDie hub) n (s.regWord .UE_FAULT_INFO (mhDie hub) n) (some slot)

/-- The work of an engine's list in order: segment index, what its descriptor reads as, and block (R226). A segment of a group with RULE 0
is skipped (R228), and so is one of RULE 3 (log entry 32). -/
def ueWork (s : State) (hub n : Nat) (v : Update) : List (Nat × SegRead × Nat) :=
  (List.range (s.fld .UE_SEG_CNT_COUNT (mhDie hub) n v.slot)).flatMap (fun i =>
    match (s.segment hub n v.slot i).1 with
    | .ok x =>
      let r := grpRule v.table v.slot x.group
      if r = 1 || r = 2 then (List.range ((x.count + 31) / 32)).map (fun b => (i, .ok x, b)) else []
    | y => [(i, y, 0)])

/-- Runs one block of an engine's list, or finds that its descriptor cannot be had (R229): whether nothing waits for zeroing, whether a
gradient was not finite, and the state. -/
def ueBlock (hub n : Nat) (v : Update) (r : Bool × Bool × State) (k : Nat × SegRead × Nat) : Bool × Bool × State :=
  let s := r.2.2
  let slot := v.slot
  match k.2.1 with
  | .wait => (false, r.2.1, s)
  | .bad => (r.1, r.2.1, s.ueRecord hub n slot k.1 .UE_FAULT_XLATE .EV_UE_XLATE)
  | .poison => (r.1, r.2.1, s.ueRecord hub n slot k.1 .UE_FAULT_POISON .EV_UE_POISON)
  | .ok x =>
    match s.updateBlock slot (updateRule v.table slot x.group v.step v.scale) x k.2.2 with
    | (.wait, s') => (false, r.2.1, s')
    | (.xlate, s') => (r.1, r.2.1, s'.ueRecord hub n slot k.1 .UE_FAULT_XLATE .EV_UE_XLATE)
    | (.held, s') => (r.1, r.2.1, s'.incFld .UE_CNT_HELD_COUNT (mhDie hub) n 0)
    | (.done ok bad poison, s') =>
      let s := (s'.incFld .UE_CNT_ELEM_COUNT (mhDie hub) n 0 ok).incFld .UE_CNT_NONFIN_COUNT (mhDie hub) n 0 bad
      let s := s.setFld .UE_STATUS_SEG (mhDie hub) n 0 k.1
      let s := if poison then s.ueRecord hub n slot k.1 .UE_FAULT_POISON .EV_UE_POISON else s
      let s := if bad != 0 && !r.2.1 then
          s.raise .EV_UE_NONFINITE (mhDie hub) n (s.regWord .UE_FAULT_INFO (mhDie hub) n) (some slot)
        else s
      (r.1, r.2.1 || bad != 0, s)

/-- Runs blocks of an engine's list; the first Boolean turns false where one waits for zeroing. -/
def ueRun (s : State) (hub n : Nat) (v : Update) (work : List (Nat × SegRead × Nat)) : Bool × Bool × State :=
  work.foldl (ueBlock hub n v) (true, false, s)

/-- The engines that had a list for a slot show TORN for it. -/
def ueTorn (s : State) (slot : Nat) : State :=
  ueAll.foldl (fun s e =>
    if s.fld .UE_SEG_CNT_COUNT (mhDie e.1) e.2 slot = 0 then s
    else { s with torn := s.torn.set false (Key.at (mhDie e.1) e.2 slot) true }.setFld .UE_STATUS_TORN (mhDie e.1) e.2 0 1) s

/-- An abort stops a slot's update at the next block boundary ("When an abort meets an update"): how many blocks of each engine
are written by then is a free value. -/
def tearUpdate (s : State) (slot : Nat) : State :=
  match s.updatesOf slot with
  | v :: _ =>
    let s := ueAll.foldl (fun s e =>
      let work := s.ueWork e.1 e.2 v
      let f := s.takeFree
      (f.2.ueRun e.1 e.2 v (work.take (f.1 % (work.length + 1)))).2.2) s
    ({ s.ueTorn slot with updates := s.updates.filter (fun u => u.slot != slot) }.ueShow).cmtShow slot
  | [] => s

/-- Discards a slot's open vote and held GATHER: the step is not resolved ("When a failure meets a vote"). -/
def dropVote (s : State) (slot : Nat) : State :=
  let s := { s with gathers := s.gathers.set none (Key.at slot) none, awaiting := s.awaiting.set none (Key.at slot) none }
  (s.setVote slot none).cmtShow slot

end State

/-- Every engine runs its list for an update: whether nothing waits for zeroing, and the state. -/
def State.applyUpdate (s : State) (v : Update) : Bool × State :=
  ueAll.foldl (fun (r : Bool × State) e =>
    let k := r.2.ueRun e.1 e.2 v (r.2.ueWork e.1 e.2 v)
    (r.1 && k.1, k.2.2)) (true, s)

/-- UPDATE_COMPLETE (R243): the engines have applied their lists, and the step-commit counter advances. While a block waits for
zeroing (R257), or a hub whose engine has a list stands still (R337), the update is not complete. -/
def execUpdateComplete (slot : Fin 4) (s : State) : Out :=
  .next (
    match s.updatesOf slot with
    | [] => s
    | v :: _ =>
      let r := s.applyUpdate v
      if !r.1 || ueAll.any (fun e => s.halted (mhDie e.1) && s.fld .UE_SEG_CNT_COUNT (mhDie e.1) e.2 slot != 0) then s
      else ({ r.2 with updates := r.2.updates.erase v }.ueShow.cmtShow slot).bumpSlot slot 0x62)

end Sys2Proof.Machine
end

