-- ==== Sys2Proof/Machine/Streams.lean ====
section
/-! DEFINITION. The stream engines (chapter "Stream engines", R286 to R319) with the stash streams (R199 to R203) and the census
step (R213 to R217). A stream starts at STREAM, moves its elements in order, and stops at STREAM_FAULT or STREAM_END. -/

namespace Sys2Proof.Machine

/-- Bits of a descriptor word (R290). -/
def dW (d : List Nat) (i hi lo : Nat) : Nat := bits (d.getD i 0) hi lo

def dSrcClass (d : List Nat) : Nat := dW d 0 3 0
def dDstClass (d : List Nat) : Nat := dW d 0 7 4
def dNdim (d : List Nat) : Nat := dW d 0 10 8
def dCvt (d : List Nat) : Bool := dW d 0 13 13 = 1
def dCen (d : List Nat) : Bool := dW d 0 14 14 = 1
def dRate (d : List Nat) : Nat := dW d 0 28 16
def dGateway (d : List Nat) : Nat := dW d 0 33 32
def dCount (d : List Nat) (k : Nat) : Nat := dW d (3 + 2 * k) 31 0
def dSStride (d : List Nat) (k : Nat) : Int := toSigned 32 (dW d (3 + 2 * k) 63 32)
def dDStride (d : List Nat) (k : Nat) : Int := toSigned 32 (dW d (4 + 2 * k) 31 0)
def dSrcFmt (d : List Nat) : Nat := dW d 13 3 0
def dDstFmt (d : List Nat) : Nat := dW d 13 7 4
def dRnd (d : List Nat) : Nat := dW d 13 9 8
def dOvf (d : List Nat) : Bool := dW d 13 10 10 = 1
def dOutEn (d : List Nat) : Bool := dW d 17 34 34 = 1
def dOutcome (d : List Nat) : Nat := dW d 17 49 35
def dKey (d : List Nat) : Nat := dW d 17 31 0

/-- The element count N (R292). -/
def dTotal (d : List Nat) : Nat := (List.range (dNdim d)).foldl (fun n k => n * dCount d k) 1

/-- Format codes that a stream may name (R116). -/
def streamFmt (c : Nat) : Option Fmt := (Fmt.ofCode c).bind (fun f => if f.convertible then some f else none)

/-- Bytes of an element on a side (R293): a code that no stream may name counts as 1. -/
def sideSize (d : List Nat) (fmt : Nat) : Nat :=
  if dCvt d then ((streamFmt fmt).map (fun f => f.bits / 8)).getD 1 else 2 ^ dW d 0 12 11
def srcSize (d : List Nat) : Nat := sideSize d (dSrcFmt d)
def dstSize (d : List Nat) : Nat := sideSize d (dDstFmt d)

/-- Block length of a side, 0 for a plain format (R139, R294). -/
def sideBlock (d : List Nat) (fmt : Nat) : Nat := if dCvt d then ((streamFmt fmt).map Fmt.block).getD 0 else 0
def srcBlock (d : List Nat) : Nat := sideBlock d (dSrcFmt d)
def dstBlock (d : List Nat) : Nat := sideBlock d (dDstFmt d)

/-- Base addresses with the biases of the command (R289). -/
def srcBase (c : Cmd) (d : List Nat) : Int :=
  (dW d 1 47 0 : Int) + (if fieldOf c.w0 4 4 = 1 then 64 * toSigned 32 (fieldOf c.w1 31 0) else 0)
def dstBase (c : Cmd) (d : List Nat) : Int :=
  (dW d 2 47 0 : Int) + (if fieldOf c.w0 5 5 = 1 then 64 * toSigned 32 (fieldOf c.w1 63 32) else 0)

/-- Offset of an element on a side (R292): its index in each dimension times the stride. -/
def elemOffset (d : List Nat) (stride : Nat → Int) (l : Nat) : Int :=
  ((List.range (dNdim d)).foldl (fun (x : Int × Nat) k => (x.1 + ((x.2 % dCount d k : Nat) : Int) * stride k, x.2 / dCount d k)) (0, l)).1

/-- Lowest and highest offset that elements of a side reach. -/
def offsetRange (d : List Nat) (stride : Nat → Int) : Int × Int :=
  (List.range (dNdim d)).foldl (fun (x : Int × Int) k =>
    let r := ((dCount d k : Int) - 1) * stride k
    (x.1 + min 0 r, x.2 + max 0 r)) (0, 0)

/-- Size of an addressed class (R291, R298). -/
def classSize (c : Nat) : Nat := if c = 0 then 2 ^ 48 else if c = 1 then 2 ^ 27 else 96 * 2 ^ 20

/-- Every byte of a side lies inside its class (R298, order 2). -/
def sideInside (d : List Nat) (cls size : Nat) (base : Int) (stride : Nat → Int) (blk scale : Nat) : Bool :=
  if 2 < cls then true
  else
    let r := offsetRange d stride
    decide (0 ≤ base + r.1) && decide (base + r.2 + size ≤ classSize cls)
      && (blk = 0 || scale + (dTotal d + blk - 1) / blk ≤ classSize cls)

/-- Reserved fields of the command and the descriptor (R289, R290). -/
def streamReserved (c : Cmd) (d : List Nat) : Bool :=
  c.kind != 1 || fieldOf c.w0 15 6 != 0 || fieldOf c.w0 47 31 != 0
    || dW d 0 15 15 != 0 || dW d 0 31 29 != 0 || dW d 0 63 48 != 0 || dW d 1 63 48 != 0 || dW d 2 63 48 != 0
    || (List.range 5).any (fun k => dW d (4 + 2 * k) 63 32 != 0)
    || dW d 13 63 46 != 0 || dW d 14 63 37 != 0 || dW d 15 63 48 != 0 || dW d 16 63 48 != 0 || dW d 17 63 50 != 0

/-- Order 2 of R298. -/
def streamShape (c : Cmd) (d : List Nat) : Bool :=
  let sc := dSrcClass d
  let dc := dDstClass d
  let nd := dNdim d
  let dim (k : Nat) : Bool := if k < nd then dCount d k != 0 else dCount d k = 0 && dSStride d k = 0 && dDStride d k = 0
  let ss := srcSize d
  let ds := dstSize d
  let blockDst := dstBlock d != 0
  sc ≤ 3 && dc ≤ 4 && 1 ≤ nd && nd ≤ 5 && (List.range 5).all dim && dTotal d ≤ 2 ^ 40
    && decide (srcBase c d % ss = 0) && (List.range 5).all (fun k => decide (dSStride d k % ss = 0))
    && decide (dstBase c d % ds = 0) && (List.range 5).all (fun k => decide (dDStride d k % ds = 0))
    && (sc != 3 || (dW d 1 47 0 = 0 && (List.range 5).all (fun k => decide (dSStride d k = 0))))
    && (dc < 3 || (dW d 2 47 0 = 0 && (List.range 5).all (fun k => decide (dDStride d k = 0))))
    && (dc != 3 || dW d 16 47 0 = 0)
    && (dCvt d || dW d 13 63 0 - (if dCen d then dDstFmt d * 16 else 0) = 0)
    && (!blockDst || (dW d 13 18 11 = 0 && dW d 13 19 19 = 0 && dW d 13 20 20 = 0 && dW d 13 22 22 = 0))
    && sideInside d sc ss (srcBase c d) (dSStride d) (srcBlock d) (dW d 15 47 0)
    && sideInside d dc ds (dstBase c d) (dDStride d) (dstBlock d) (dW d 16 47 0)

/-- Order 3 of R298. -/
def streamCarousel (d : List Nat) : Bool :=
  dDstClass d != 3 || (dTotal d * dstSize d % 65536 = 0 && 1 ≤ dW d 0 41 36 && dW d 0 41 36 ≤ 52 && dW d 0 35 34 != 3)

/-- The format checks of order 4 of R298. -/
def streamFormats (d : List Nat) : Bool :=
  if dCvt d then
    (streamFmt (dSrcFmt d)).isSome && (streamFmt (dDstFmt d)).isSome && dRnd d != 3 && dW d 13 18 11 != 0x80 && dW d 13 18 11 != 0x81
  else if dCen d then
    match streamFmt (dDstFmt d) with
    | some f => f.block = 0 && f.bits / 8 = dstSize d
    | none => false
  else true

/-- The codes of R308. -/
def errBadDesc : Nat := 1
def errBadFmt : Nat := 2
def errXlate : Nat := 3
def errAccess : Nat := 4
def errPoison : Nat := 5
def errStashEx : Nat := 6
def errStash : Nat := 7
def errCensus : Nat := 8

namespace State

def stream (s : State) (cd se ch : Nat) : Option StreamRun := s.streams.get none (Key.at cd se ch)
def setStream (s : State) (cd se ch : Nat) (x : Option StreamRun) : State := { s with streams := s.streams.set none (Key.at cd se ch) x }

/-- A word of a slot's constant section on a die (R149, SE_DESC_BASE), by word index. -/
def constWord (s : State) (cd se slot i : Nat) : Nat :=
  leNat (s.konst.readBytes (2 ^ 18 * cd + 8 * (s.fld .SE_DESC_BASE_BASE cd se slot + i)) 8)

/-- Words of the slot's constant section; 0 while it is not VALID. -/
def constLen (s : State) (cd se slot : Nat) : Nat :=
  if s.flag .SE_DESC_BASE_VALID cd se slot then s.fld .SE_DESC_BASE_LEN cd se slot else 0

/-- What reading a scale record gives (R211, R212): its K, an error code, or `none` while its block is being zeroed. -/
def scaleRecord (s : State) (cd slot off : Nat) : Option (Except Nat Int) × State :=
  match s.readFor (unitReq slot) (sramAddr cd (32 * off)) with
  | (.word w, s) =>
    if tagPoison w.tag then (some (.error errPoison), s)
    else if bits w.data 15 8 != 1 then (some (.error errBadFmt), s)
    else (some (.ok (s8 (bits w.data 7 0))), s)
  | (.wait, s) => (none, s)
  | (_, s) => (some (.error errAccess), s)

/-- The effective exponent of a convert step (R212, R295). -/
def effectiveExp (s : State) (cd slot : Nat) (d : List Nat) : Option (Except Nat Int) × State :=
  let r1 := if dW d 13 20 20 = 1 then s.scaleRecord cd slot (dW d 13 45 24) else (some (.ok 0), s)
  match r1 with
  | (none, s) => (none, s)
  | (some (.error e), s) => (some (.error e), s)
  | (some (.ok k1), s) =>
    let r2 := if dW d 13 22 22 = 1 then s.scaleRecord cd slot (dW d 14 21 0) else (some (.ok 0), s)
    match r2 with
    | (none, s) => (none, s)
    | (some (.error e), s) => (some (.error e), s)
    | (some (.ok k2), s) =>
      let k := s8 (dW d 13 18 11) + (if dW d 13 21 21 = 1 then -k1 else k1) + (if dW d 13 23 23 = 1 then -k2 else k2)
        + (if dW d 13 19 19 = 1 then s8 (s.fld .NUM_LSCALE_E mh0 slot) else 0)
      if k < -126 || 127 < k then (some (.error errBadFmt), s) else (some (.ok k), s)

/-- Writes an outcome code into a constant word (R201). -/
def putOutcome (s : State) (cd se slot i code : Nat) : State :=
  { s with konst := s.konst.writeBytes (2 ^ 18 * cd + 8 * (s.fld .SE_DESC_BASE_BASE cd se slot + i)) (leBytes 8 code) }

/-- The tiles that a stream leaves in the gateway buffers of its die when it ends: no live stream owns them (R313). -/
def leaveTiles (s : State) (cd src : Nat) : State :=
  { s with gateways := s.gateways.map (fun e => if e.1.d = cd then
      (e.1, e.2.map (fun t => if t.src = src then { t with src := src + 32 } else t)) else e) }

/-- The stream no longer occupies its channel; W stays in SE_CH_WMARK (R287). -/
def freeChannel (s : State) (cd se ch w : Nat) : State :=
  let s := ((s.setStream cd se ch none).setFld .SE_CH_STATUS_STATE cd se ch 0).setFld .SE_CH_WMARK_WMARK cd se ch w
  s.leaveTiles cd (4 * se + ch)

/-- A stream of a stash class. -/
def isStash (d : List Nat) : Bool := dSrcClass d = 3 || dDstClass d = 4

/-- Ends a stream (R165, R201, R287, R308): outcome word, counters, and for an error the record and the bus error. A census merge
and the stash entry have been dealt with. -/
def closeStream (s : State) (cd se ch : Nat) (c : Cmd) (d : List Nat) (w err outcome : Nat) : State :=
  let s := if isStash d && dOutEn d && outcome != 0 && dOutcome d < s.constLen cd se c.slot then
      s.putOutcome cd se c.slot (dOutcome d) outcome
    else s
  let s := (s.freeChannel cd se ch w).incFld .SE_CNT_STREAMS_COUNT cd se 0
  let s := s.bumpCnt cd c.ctx (unitSe se)
  if err = 0 then s
  else
    let s := (s.incFld .SE_CNT_ERR_COUNT cd se 0).setFld .SE_ERR_INFO_CODE cd se 0 err
    let s := (s.setFld .SE_ERR_INFO_CHAN cd se 0 ch).setFld .SE_ERR_INFO_SLOT cd se 0 c.slot
    let s := (s.setFld .SE_ERR_INFO_TAG cd se 0 c.tag).setFld .SE_ERR_WMARK_WMARK cd se 0 w
    let s := if err = errStashEx then s.raise .EV_STASH_EXHAUSTED cd 0 (s.stashUsed cd + s.fld .STASH_STATUS_FULL_SEEN cd * 2 ^ 16) (some c.slot) else s
    s.ctxError cd c.ctx (if err = errStashEx then causeStash else causeStream) (unitSe se) c.tag

/-- The channels' streams of a die, by engine and channel. -/
def dieStreams (s : State) (cd : Nat) : List (Nat × Nat × StreamRun) :=
  s.streams.filterMap (fun e => if e.1.d = cd then e.2.map (fun r => (e.1.u, e.1.i, r)) else none)

/-- The streams of a die that use a gateway buffer, as 4 × engine + channel (R313). -/
def gatewayUsers (s : State) (cd g : Nat) : List Nat :=
  ((s.dieStreams cd).filter (fun x => dDstClass x.2.2.desc = 3 && dGateway x.2.2.desc = g)).map (fun x => 4 * x.1 + x.2.1)

/-- Bytes of a tile that a gateway buffer holds: those received and not yet on a ring. -/
def tileHeld (s : State) (cd : Nat) (t : GwTile) : Nat :=
  t.got - 2048 * ((t.useId.bind (fun id => s.useOf cd t.ticket id)).map Use.sent |>.getD 0)

/-- Bytes that a gateway buffer holds of the tiles that a test names. -/
def gatewayHeld (s : State) (cd g : Nat) (p : Nat → Bool) : Nat :=
  ((s.gateway cd g).filter (fun t => p t.src)).foldl (fun n t => n + s.tileHeld cd t) 0

/-- Bytes of a gateway buffer that lie in no floor and hold data (R313, R314): what its streams borrow, and what ended streams left. -/
def gatewayBorrowed (s : State) (cd g : Nat) : Nat :=
  (s.gatewayUsers cd g).foldl (fun n u => n + (s.gatewayHeld cd g (fun x => x == u) - 65536))
    (s.gatewayHeld cd g (fun x => !(s.gatewayUsers cd g).contains x))

/-- A CAROUSEL stream can reserve its floor in the gateway's pool (R286, R313): beside the floors of the others and what is borrowed. -/
def gatewayFloor (s : State) (cd g : Nat) : Bool :=
  decide (65536 * ((s.gatewayUsers cd g).length + 1) + s.gatewayBorrowed cd g ≤ 131072)

/-- Bytes that the streams of an engine hold in its staging pool (R313). -/
def poolHeld (s : State) (cd se : Nat) : Nat :=
  ((s.dieStreams cd).filter (fun x => x.1 == se)).foldl (fun n x => n + x.2.2.held) 0

/-- SE_POOL: KiB that hold data, and the floors reserved. -/
def poolWord (s : State) (cd se : Nat) : Nat :=
  (s.poolHeld cd se + 1023) / 1024 + ((s.dieStreams cd).filter (fun x => x.1 == se)).length * 2 ^ 10

/-- A stream with stochastic rounding runs on the engine (R286). -/
def seDrawing (s : State) (cd se : Nat) : Bool :=
  (s.dieStreams cd).any (fun x => x.1 = se && dCvt x.2.2.desc && dRnd x.2.2.desc = 2)

/-- What the start of a stream decides (R298): it waits, it ends with a code (and a stash outcome), or it runs. -/
inductive StreamStart where
  | wait | fail (code outcome : Nat) | run (r : StreamRun)
  deriving DecidableEq, Repr

/-- Order 7 of R298, the decision of R200 for a stash write. -/
def stashWrite (s : State) (cd : Nat) (r : StreamRun) : StreamStart × State :=
  let d := r.desc
  if dDstClass d ≠ 4 then (.run r, s)
  else match s.stashDecide cd r.cmd.slot (dKey d) (dTotal d * dstSize d) (dW d 17 32 32 = 1) with
    | (.error, s) => (.fail errStash 5, s)
    | (.exhausted, s) => (.fail errStashEx 4, s)
    | (.dropped i, s) => (.run { r with entry := some i, outcome := 3, dropped := true }, s)
    | (.placed i t2, s) => (.run { r with entry := some i, outcome := if t2 then 2 else 1 }, s)

/-- Order 8 of R298, the entry of a stash read (R202). A drop record is counted when it is found, and with RELEASE = 1 it is freed at
once. A stream that both writes and reads the stash names one key: what its read finds is the entry that its write has just made. -/
def stashRead (s : State) (cd : Nat) (r : StreamRun) : StreamStart × State :=
  let d := r.desc
  if dSrcClass d ≠ 3 then (.run r, s)
  else match s.stashFind cd r.cmd.slot (dKey d) with
    | none => (.fail errStash 5, s)
    | some (i, e) =>
      let s := if e.place = .dropped then s.incFld .STASH_CNT_RD_DROP_COUNT cd 0 0 else s
      if e.place = .writing || e.size != dTotal d * srcSize d || (e.place = .dropped && !dOutEn d) then (.fail errStash 5, s)
      else if e.place = .dropped then
        (.run { r with outcome := 3, hollow := true }, if dW d 17 33 33 = 1 then s.setStashEntry cd i none else s)
      else (.run { r with source := some i, outcome := if e.place = .tier2 then 2 else 1 }, s)

/-- The stash part of the checks at the start, orders 7 and 8 of R298. An error after the write has been placed frees its entry (R200). -/
def stashStart (s : State) (cd : Nat) (r : StreamRun) : StreamStart × State :=
  match s.stashWrite cd r with
  | (.run r, s) =>
    match s.stashRead cd r with
    | (.fail e o, s) => (.fail e o, match r.entry with
      | some i => s.setStashEntry cd i none
      | none => s)
    | x => x
  | x => x

/-- The checks at the start in the order of R298. -/
def streamChecks (s : State) (cd se : Nat) (c : Cmd) : StreamStart × State :=
  let base := fieldOf c.w0 30 16
  if s.constLen cd se c.slot < base + 18 then (.fail errBadDesc 0, s)
  else
    let d := (List.range 18).map (fun i => s.constWord cd se c.slot (base + i))
    if streamReserved c d || !streamShape c d then (.fail errBadDesc 5, s)
    else if !streamCarousel d then (.fail errBadDesc 5, s)
    else if dCvt d && dRnd d = 2 && s.seDrawing cd se then (.wait, s)
    else if dDstClass d = 3 && !s.gatewayFloor cd (dGateway d) then (.wait, s)
    else if !streamFormats d then (.fail errBadFmt 5, s)
    else match (if dCvt d then s.effectiveExp cd c.slot d else (some (.ok 0), s)) with
      | (none, _) => (.wait, s)
      | (some (.error e), s) => (.fail e 5, s)
      | (some (.ok k), s) =>
        if dCen d && (!s.flag .NUM_CEN_BASE_EN mh0 c.slot || dW d 14 33 22 = 0 || s.fld .NUM_CEN_CFG_CIDS mh0 c.slot ≤ dW d 14 33 22) then
          (.fail errCensus 5, s)
        else if dOutEn d && s.constLen cd se c.slot ≤ dOutcome d then (.fail errStash 5, s)
        else s.stashStart cd { cmd := c, desc := d, kexp := k, step := s.fld .NUM_STEP_STEP mh0 c.slot, w := 0,
                               started := s.halves.get 0 (Key.at cd), since := s.now, entry := none, source := none, outcome := 0,
                               dropped := false, hollow := false, held := 0, poolWait := none, ending := none, census := censusZero,
                               censusSealed := false }

end State

/-- STREAM (R175, R176, R286, R289 to R298): the head of an engine's queue starts on a free channel, waits, or ends at its start. -/
def execStream (cd : Fin 8) (se : Fin 8) (ch : Fin 4) (s : State) : Out :=
  .next (s.gated cd (
    match (s.seUnit cd se).queue with
    | [] => s
    | c :: rest =>
      let s := s.reach cd c.enters
      if (s.stream cd se ch).isSome then s
      else if !s.mayStart cd (unitSe se) c.slot then s.tktHold cd (unitSe se)
      else
        let s := s.tktClose cd (unitSe se) c.ctx
        let r := s.streamChecks cd se c
        match r.1 with
        | .wait => s
        | .fail code outcome =>
          let s := r.2.charge cd (unitSe se) c.slot
          let s := s.setSeUnit cd se { s.seUnit cd se with queue := rest }
          let d := (List.range 18).map (fun i => s.constWord cd se c.slot (fieldOf c.w0 30 16 + i))
          s.closeStream cd se ch c (if outcome = 0 then [] else d) 0 code outcome
        | .run x =>
          let s := r.2.charge cd (unitSe se) c.slot
          let s := s.setSeUnit cd se { s.seUnit cd se with queue := rest }
          let s := (s.setStream cd se ch (some x)).setFld .SE_CH_STATUS_STATE cd se ch 1
          let s := (s.setFld .SE_CH_STATUS_SLOT cd se ch c.slot).setFld .SE_CH_STATUS_CTX cd se ch c.ctx
          let s := (s.setFld .SE_CH_STATUS_DESC cd se ch (fieldOf c.w0 30 16)).setFld .SE_CH_STATUS_TAG cd se ch c.tag
          s.setFld .SE_CH_WMARK_WMARK cd se ch 0))

/-- Why moving elements stopped before the last one. -/
inductive Stop where
  /-- A translation fault (R302): cause, virtual address, destination side. -/
  | fault (cause va : Nat) (dst : Bool)
  | access
  | poison
  /-- The source is being zeroed. -/
  | wait
  /-- The destination is being zeroed: what has been read is held (R313). -/
  | hold
  /-- The gateway buffer has no room (R314). -/
  | room
  deriving DecidableEq, Repr

/-- A destination word being filled by a run of elements (R299). -/
structure WrBuf where
  addr : Nat
  bytes : List (Option Byte)
  poison : Bool
  isSealed : Bool
  deriving DecidableEq, Repr

/-- A stream in motion: the state, W, the source words of elements and of scales at hand, the destination words being filled with
elements and with scales, the 64 KiB pages translated so far, the counts gathered, the generator, and why it stopped. -/
structure Mover where
  st : State
  w : Nat
  rd : Option (Nat × Word)
  rs : Option (Nat × Word)
  wr : Option WrBuf
  sc : Option WrBuf
  pages : List Nat
  census : List Nat
  censusSealed : Bool
  gen : Nat
  stop : Option Stop

/-- An element or scale byte as read: its bits and marks, or why it cannot be read. -/
inductive Fetched where
  | got (v : Nat) (poison isSealed : Bool)
  | stop (x : Stop)
  deriving DecidableEq, Repr

namespace State

/-- Where a byte of a side lies (R291, R300): a physical address, or why not. MEM is translated and must be a frame. -/
def sidePlace (s : State) (cd slot cls : Nat) (entry : Option StashEntry) (a : Nat) (wr : Bool) : Except Stop Nat :=
  if cls = 0 then
    match s.translate slot a wr with
    | .fault c => .error (.fault c a wr)
    | .pa p => if (frameOf p).isSome then .ok p else .error .access
  else if cls = 1 then .ok (sramAddr cd a)
  else if cls = 2 then .ok (acbAddr cd 0 a)
  else match entry.bind (fun e => e.units[a / 65536]?) with
    | some u => .ok (65536 * u + a % 65536)
    | none => .error .access

end State

namespace Mover

/-- Writes out a destination word (R37, R38), through the die's mesh (R323). -/
def store (m : Mover) (slot cd se : Nat) (b : WrBuf) : Mover :=
  { m with st := (m.st.mergeSparse (unitReq slot) b.addr b.bytes b.poison b.isSealed).meshWrite cd (.se se) b.addr }

/-- Writes out the destination word being filled with elements, or the one being filled with scales. -/
def flushOne (m : Mover) (slot cd se : Nat) (scale : Bool) : Mover :=
  match (if scale then m.sc else m.wr) with
  | some b => let m := m.store slot cd se b; if scale then { m with sc := none } else { m with wr := none }
  | none => m

/-- Writes out the destination words held. -/
def flush (m : Mover) (slot cd se : Nat) : Mover := (m.flushOne slot cd se false).flushOne slot cd se true

/-- Translates a byte of a MEM side: a page is walked once in a movement, and stays in the translation cache (R302). -/
def walk (m : Mover) (slot cls va : Nat) : Mover :=
  if cls = 0 && !m.pages.contains (va / 65536) then
    { m with st := m.st.touchWalk slot va, pages := va / 65536 :: m.pages }
  else m

/-- Reads `n` bytes within one word for the stream; a new word is a new source access (R299). -/
def read (m : Mover) (slot cd se pa n : Nat) (scale : Bool) : Fetched × Mover :=
  let a := pa / 32 * 32
  let go (w : Word) : Fetched := .got (bits w.data (8 * (pa % 32) + 8 * n - 1) (8 * (pa % 32))) (tagPoison w.tag) (tagSealed w.tag)
  match (if scale then m.rs else m.rd).bind (fun r => if r.1 = a then some r.2 else none) with
  | some w => (go w, m)
  | none =>
    match m.st.readFor (unitReq slot) a with
    | (.word w, s) =>
      let m := { m with st := (s.incFld .SE_CNT_RD_WORDS_COUNT cd se 0).meshRead cd (.se se) a }
      (go w, if scale then { m with rs := some (a, w) } else { m with rd := some (a, w) })
    | (.wait, _) => (.stop .wait, m)
    | (_, s) => (.stop .access, { m with st := s })

/-- A destination word with bytes put in at `pa` (R38, R487). -/
def fillBuf (b : WrBuf) (pa : Nat) (bs : List Byte) (poison isSealed : Bool) : WrBuf :=
  ⟨b.addr, (List.range 32).map (fun k =>
    if pa % 32 ≤ k && k < pa % 32 + bs.length then some (bs.getD (k - pa % 32) 0) else b.bytes.getD k none), b.poison || poison,
    b.isSealed || isSealed⟩

/-- Puts the bytes of an element, or of a scale, into the destination word at `pa` (R299): a run of elements in one word is one access,
and so is a run of scales. -/
def write (m : Mover) (slot cd se pa : Nat) (bs : List Byte) (poison isSealed scale : Bool) : Mover :=
  let a := pa / 32 * 32
  let own := if scale then m.sc else m.wr
  let other := if scale then m.wr else m.sc
  let old := own.filter (fun b => b.addr == a)
  let m := if old.isNone then m.flushOne slot cd se scale else m
  let m := if other.any (fun b => b.addr == a) then m.flushOne slot cd se (!scale) else m
  let b : WrBuf := fillBuf (old.getD ⟨a, List.replicate 32 none, false, false⟩) pa bs poison isSealed
  let m := if old.isNone then { m with st := m.st.incFld .SE_CNT_WR_WORDS_COUNT cd se 0 } else m
  if scale then { m with sc := some b } else { m with wr := some b }

end Mover

/-- How one stream moves: the command, its descriptor and its stash entry. -/
structure Lane where
  cd : Nat
  se : Nat
  ch : Nat
  run : StreamRun
  /-- The stash entries that it writes and reads. -/
  entry : Option StashEntry
  source : Option StashEntry
  deriving DecidableEq, Repr

namespace Lane

def d (x : Lane) : List Nat := x.run.desc
def slot (x : Lane) : Nat := x.run.cmd.slot

/-- Byte addresses of element l on its sides: linear for the classes without addresses (R291, R292). -/
def srcAddr (x : Lane) (l : Nat) : Nat :=
  if dSrcClass x.d = 3 then l * srcSize x.d else (srcBase x.run.cmd x.d + elemOffset x.d (dSStride x.d) l).toNat
def dstAddr (x : Lane) (l : Nat) : Nat :=
  if 3 ≤ dDstClass x.d then l * dstSize x.d else (dstBase x.run.cmd x.d + elemOffset x.d (dDStride x.d) l).toNat

/-- Room for n bytes in the gateway buffer of a CAROUSEL stream (R313, R314): in its own floor, or in space that is part of none. -/
def gatewayRoom (x : Lane) (s : State) (n : Nat) : Bool :=
  let g := dGateway x.d
  decide (s.gatewayHeld x.cd g (fun u => u == 4 * x.se + x.ch) + n ≤ 65536)
    || decide (65536 * (s.gatewayUsers x.cd g).length + s.gatewayBorrowed x.cd g + n ≤ 131072)

/-- A memory address lies behind a stopped hub for the stream's die (R337). -/
def farStopped (x : Lane) (s : State) (a : Nat) : Bool := (State.frameOf a).isSome && s.wayStopped (x.cd / 2) a

/-- The destination of a byte may be written: its place, or why not. -/
def dstPlace (x : Lane) (m : Mover) (a : Nat) : Except Stop Nat × Mover :=
  let m := m.walk x.slot (dDstClass x.d) a
  (match m.st.sidePlace x.cd x.slot (dDstClass x.d) x.entry a true with
  | .error e => .error e
  | .ok p => match m.st.judge (unitReq x.slot) p with
    | .ok => if x.farStopped m.st p then .error .hold else .ok p
    | .wait => .error .hold
    | _ => .error .access, m)

/-- The place of destination element l; a gateway buffer has none. -/
def elemPlace (x : Lane) (m : Mover) (l : Nat) : Except Stop Nat × Mover :=
  if dDstClass x.d = 3 then (.ok 0, m) else x.dstPlace m (x.dstAddr l)

/-- Delivers bytes of element l (R304): into memory, or into the tile of a gateway buffer. -/
def deliver (x : Lane) (m : Mover) (l pa : Nat) (bs : List Byte) (poison isSealed : Bool) : Mover :=
  let m := { m with st := m.st.incFld .SE_CNT_ELEM_COUNT x.cd x.se 0 }
  if dDstClass x.d = 3 then
    let g := dGateway x.d
    let off := l * dstSize x.d
    let ts := m.st.gateway x.cd g
    let fresh : GwTile := ⟨(dW x.d 0 47 42 + off / 65536) % 64, dW x.d 0 35 34, dW x.d 0 41 36, x.slot, x.run.cmd.ctx, 4 * x.se + x.ch, none, 0,
      [], [], [], []⟩
    let put (t : GwTile) : GwTile :=
      let o := off % 65536
      let old := (t.tags.read (o / 32)).toNat
      let tag := mkTag (poison || tagPoison old) (isSealed || tagSealed old) x.slot
      { t with got := t.got + bs.length, readyAt := t.readyAt ++ List.replicate ((t.got + bs.length) / 2048 - t.got / 2048) (m.st.carBeat.get 0 (Key.at x.cd)),
               data := t.data.writeBytes o bs, tags := t.tags.write (o / 32) (BitVec.ofNat 8 tag),
               errs := t.errs.set 0 (Key.at 0 0 (o / 32)) 0 }
    let ts := if off % 65536 = 0 then ts ++ [put fresh]
      else match ts.reverse.find? (fun t => t.ticket = fresh.ticket && t.src = fresh.src && decide (t.got < 65536)) with
        | some t => (ts.reverse.replace t (put t)).reverse
        | none => ts
    let s := if m.st.gatewayHeld x.cd g (fun _ => true) = 0 then m.st.poolMoves x.cd (8 + g) else m.st
    let p := MeshPacket.write bs.length
    { m with st := (if off % 32 = 0 then (s.meshSend x.cd p (.se x.se) (.gateway g)).meshSend x.cd .writeAck (.gateway g) (.se x.se) else s).setGateway x.cd g ts }
  else m.write x.slot x.cd x.se pa bs poison isSealed false

/-- Reads `n` bytes at an address of the source side. -/
def readSide (x : Lane) (m : Mover) (a n : Nat) (scale : Bool) : Fetched × Mover :=
  let m := m.walk x.slot (dSrcClass x.d) a
  match m.st.sidePlace x.cd x.slot (dSrcClass x.d) x.source a false with
  | .error e => (.stop e, m)
  | .ok pa => if x.farStopped m.st pa then (.stop .wait, m) else m.read x.slot x.cd x.se pa n scale

/-- Reads source element l with its block scale (R294): its exact value, raw bits and marks. -/
def readElem (x : Lane) (m : Mover) (l : Nat) : (Stop ⊕ (Num × Nat × Bool × Bool)) × Mover :=
  let size := srcSize x.d
  let fmt := if dCvt x.d then (streamFmt (dSrcFmt x.d)).getD .uint8 else (streamFmt (dDstFmt x.d)).getD .uint8
  match x.readSide m (x.srcAddr l) size false with
  | (.stop e, m) => (.inl e, m)
  | (.got v p sl, m) =>
    let blk := srcBlock x.d
    if blk = 0 then (.inr (fmt.value v, v, p, sl), m)
    else match x.readSide m (dW x.d 15 47 0 + l / blk) 1 true with
      | (.stop e, m) => (.inl e, m)
      | (.got sc ps ss, m) => (.inr (fmt.scaledValue sc v, v, p || ps, sl || ss), m)

/-- The pattern of a poisoned element (R309): the canonical NaN, or 0 for an integer; a plain copy that names no format has no
stated value, which is a free value. -/
def poisonPattern (x : Lane) (m : Mover) : Nat × Mover :=
  if dCvt x.d || dCen x.d then (((streamFmt (dDstFmt x.d)).bind Fmt.ffmt).map (fun f => f.nanPat) |>.getD 0, m)
  else
    let r := m.st.takeFree
    (r.1 % 2 ^ (8 * dstSize x.d), { m with st := r.2 })

/-- A stochastic draw, where the convert step takes one (R222, R296). -/
def draw1 (x : Lane) (m : Mover) : Nat × Mover :=
  if dCvt x.d && dRnd x.d = 2 then let r := draw m.gen; (r.2, { m with gen := r.1 }) else (0, m)

/-- The rounding mode of the convert step. -/
def rnd (x : Lane) : Rnd := (Rnd.ofCode (dRnd x.d)).getD .rne

/-- Moves one element of a plain destination (R304 to R309). -/
def moveOne (x : Lane) (m : Mover) : Mover :=
  let l := m.w
  if dDstClass x.d = 3 && !x.gatewayRoom m.st (dstSize x.d) then { m with stop := some .room }
  else match x.readElem m l with
    | (.inl e, m) => { m with stop := some e }
    | (.inr (v, raw, p, sl), m) =>
      match x.elemPlace m l with
      | (.error e, m) => { m with stop := some e }
      | (.ok pa, m) =>
        let u := x.draw1 m
        let m := u.2
        if p then
          let pp := x.poisonPattern m
          let m := x.deliver pp.2 l pa (leBytes (dstSize x.d) pp.1) true sl
          { m with w := l + 1, stop := some .poison, census := censusPoison m.census, censusSealed := m.censusSealed || sl }
        else
          let fmt := (streamFmt (dDstFmt x.d)).getD .uint8
          let c : Converted := if dCvt x.d then convertTo fmt x.rnd (dOvf x.d) u.1 (v.scale2 x.run.kexp) else ⟨raw, false⟩
          let m := x.deliver m l pa (leBytes (dstSize x.d) c.pat) false sl
          { m with w := l + 1, census := if dCen x.d then censusCount m.census v (fmt.value c.pat) c.saturated else m.census,
                   censusSealed := m.censusSealed || (dCen x.d && sl) }

/-- One element of a destination block: its value, whether it is sealed, its place, and whether it is poisoned or comes after a poisoned
one (R309). -/
structure BlockElem where
  value : Num
  isSealed : Bool
  place : Nat
  lost : Bool
  deriving DecidableEq, Repr

/-- Reads the elements of one destination block and finds their places, in ascending order (R294, R305): the elements, of which nothing is
read after a poisoned one (R309), or why the block cannot be formed. -/
def formBlock (x : Lane) : Nat → Mover → Nat → List BlockElem → (Stop ⊕ List BlockElem) × Mover
  | 0, m, _, acc => (.inr acc, m)
  | n + 1, m, l, acc =>
    match (if acc.any BlockElem.lost then (.inr (.nan, 0, true, false), m) else x.readElem m l) with
    | (.inl e, m) => (.inl e, m)
    | (.inr (v, _, p, sl), m) =>
      match x.elemPlace m l with
      | (.error e, m) => (.inl e, m)
      | (.ok pa, m) => x.formBlock n m (l + 1) (acc ++ [⟨if p then .nan else v, sl, pa, p⟩])

/-- The place of the scale of the block that begins at W; a gateway buffer takes none (DESIGN CHOICE, log entry 133). -/
def scalePlace (x : Lane) (m : Mover) : Except Stop (Option Nat) × Mover :=
  if dDstClass x.d = 3 then (.ok none, m)
  else match x.dstPlace m (dW x.d 16 47 0 + m.w / dstBlock x.d) with
    | (.ok p, m) => (.ok (some p), m)
    | (.error e, m) => (.error e, m)

/-- The elements of the block at W and the place of its scale, which is found with its first element (R305), or why it cannot be formed. -/
def gatherBlock (x : Lane) (m : Mover) (n : Nat) : (Stop ⊕ (List BlockElem × Option Nat)) × Mover :=
  match x.formBlock 1 m m.w [] with
  | (.inl e, m) => (.inl e, m)
  | (.inr first, m) =>
    match x.scalePlace m with
    | (.error e, m) => (.inl e, m)
    | (.ok scale, m) =>
      match x.formBlock (n - 1) m (m.w + 1) first with
      | (.inl e, m) => (.inl e, m)
      | (.inr es, m) => (.inr (es, scale), m)

/-- Delivers a formed block (R141, R294, R304, R309). -/
def deliverBlock (x : Lane) (m : Mover) (es : List BlockElem) (scale : Option Nat) : Mover :=
  let l := m.w
  let bad := es.any BlockElem.lost
  let us := (List.range es.length).foldl (fun (y : List Nat × Mover) _ => let u := x.draw1 y.2; (y.1 ++ [u.1], u.2)) ([], m)
  let f := (streamFmt (dDstFmt x.d)).getD .bq8
  let enc := encodeBlock f x.rnd (dOvf x.d) us.1 (es.map (fun e => e.value.scale2 x.run.kexp))
  let sl := es.any BlockElem.isSealed
  let m := (List.range es.length).foldl (fun (m : Mover) k =>
    let c := (enc.2.getD k ⟨0, false⟩)
    let e := es.getD k ⟨.nan, false, 0, true⟩
    let m := x.deliver m (l + k) e.place (leBytes (dstSize x.d) c.pat) bad sl
    if !dCen x.d then m
    else if e.lost then { m with census := censusPoison m.census, censusSealed := m.censusSealed || sl }
    else { m with census := censusCount m.census e.value (f.scaledValue enc.1 c.pat) c.saturated, censusSealed := m.censusSealed || sl })
    us.2
  let m := match scale with
    | some sa => m.write x.slot x.cd x.se sa (leBytes 1 enc.1) bad sl true
    | none => m
  { m with w := l + es.length, stop := if bad then some .poison else none }

/-- Moves one destination block (R141, R294, R304, R305, R309). -/
def moveBlock (x : Lane) (m : Mover) (total : Nat) : Mover :=
  let n := min (dstBlock x.d) (total - m.w)
  if dDstClass x.d = 3 && !x.gatewayRoom m.st (n * dstSize x.d) then { m with stop := some .room }
  else match x.gatherBlock m n with
    | (.inl e, m) => { m with stop := some e }
    | (.inr (es, scale), m) => x.deliverBlock m es scale

/-- A write that made a drop record reads its source and delivers nothing, from element l on (R200): W stays 0. -/
def skim (x : Lane) : Nat → Mover → Nat → Mover
  | 0, m, _ => m
  | fuel + 1, m, l =>
    match x.readElem m l with
    | (.inl e, m) => { m with stop := some e }
    | (.inr (_, _, p, _), m) => if p then { m with stop := some .poison } else x.skim fuel m (l + 1)

/-- Moves elements until the last, or until something stops the stream. -/
def moveAll (x : Lane) (total : Nat) : Nat → Mover → Mover
  | 0, m => m
  | fuel + 1, m =>
    if m.stop.isSome || total ≤ m.w then m
    else x.moveAll total fuel (if dstBlock x.d = 0 then x.moveOne m else x.moveBlock m total)

end Lane

namespace State

/-- Moves a stream from its watermark by at most `fuel` elements or blocks. -/
def streamMoveBy (s : State) (cd se ch : Nat) (r : StreamRun) (fuel : Nat) : Mover :=
  let x : Lane := ⟨cd, se, ch, r, r.entry.bind (fun i => s.stashEntry cd i), r.source.bind (fun i => s.stashEntry cd i)⟩
  let m0 : Mover := { st := s, w := r.w, rd := none, rs := none, wr := none, sc := none, pages := [], census := r.census,
                      censusSealed := r.censusSealed, gen := (s.seUnit cd se).gen, stop := none }
  if r.hollow then m0
  else if r.dropped then x.skim (min fuel (dTotal r.desc)) m0 0
  else (x.moveAll (dTotal r.desc) fuel m0).flush r.cmd.slot cd se

/-- Moves a stream from its watermark as far as it goes. -/
def streamMove (s : State) (cd se ch : Nat) (r : StreamRun) : Mover := s.streamMoveBy cd se ch r (dTotal r.desc - r.w + 1)

/-- How much a stream that stopped holds between its read and its delivery (R313). While its destination takes nothing it reads ahead; how
far it has come within its floor is a free value (log entry 134). -/
def heldBytes (s : State) (r : StreamRun) (m : Mover) : Nat × State :=
  if m.stop = some .hold || m.stop = some .room then
    let f := s.takeFree
    (min ((dTotal r.desc - m.w) * srcSize r.desc) (max (srcSize r.desc) (f.1 % 65537)), f.2)
  else (0, s)

/-- The beats in which a read of the stream waited for pool space are counted (R314). -/
def poolWaited (s : State) (cd se : Nat) (r : StreamRun) : State :=
  match r.poolWait with
  | some h => s.incFld .SE_CNT_POOL_WAIT_COUNT cd se 0 ((s.halves.get 0 (Key.at cd) - h) / 2)
  | none => s

/-- The run, the generator and the pool after a move. -/
def keepMove (m : Mover) (cd se ch : Nat) (r : StreamRun) : StreamRun × State :=
  let s := (m.st.setSeUnit cd se { m.st.seUnit cd se with gen := m.gen }).poolWaited cd se r
  let h := s.heldBytes r m
  let s := if m.w ≠ r.w || (r.held = 0 && h.1 ≠ 0) then h.2.poolMoves cd se else h.2
  let r := { r with
    w := m.w, census := m.census, censusSealed := m.censusSealed, held := h.1,
    poolWait := if m.stop = some .room then some (s.halves.get 0 (Key.at cd)) else none }
  (r, (s.setStream cd se ch (some r)).setFld .SE_CH_WMARK_WMARK cd se ch m.w)

/-- A stash read with RELEASE = 1 frees its entry once the last element has been delivered (R202). -/
def releaseRead (s : State) (cd : Nat) (r : StreamRun) : StreamRun × State :=
  match r.source with
  | some i => if r.w = dTotal r.desc && dW r.desc 17 33 33 = 1 then ({ r with source := none }, s.setStashEntry cd i none) else (r, s)
  | none => (r, s)

/-- The entry that a stash write made, at the end of its stream (R200): placed, or freed after an error. A drop record stays. -/
def settleWrite (s : State) (cd : Nat) (r : StreamRun) (err : Nat) : State :=
  match r.entry with
  | some i =>
    match s.stashEntry cd i with
    | some e => if err ≠ 0 then s.setStashEntry cd i none else if r.dropped then s else s.setStashEntry cd i (some { e with place := e.target })
    | none => s
  | none => s

/-- Ends a stream at its watermark with a code, 0 for a normal end (R200 to R202, R215, R217, R287, R308). While its census merge waits
for a frame that is being zeroed, the channel is ENDING. -/
def endStream (s : State) (cd se ch : Nat) (r : StreamRun) (err : Nat) : State :=
  let d := r.desc
  let (r, s) := s.releaseRead cd { r with held := 0, poolWait := none }
  match (if dCen d then s.censusMerge r.cmd.slot (dW d 14 33 22) (dW d 14 36 34) r.step r.census r.censusSealed else some (true, s)) with
  | none => (s.setStream cd se ch (some { r with ending := some err })).setFld .SE_CH_STATUS_STATE cd se ch 3
  | some (ok, s) =>
    let err := if err = 0 && !ok then errCensus else err
    (s.settleWrite cd r err).closeStream cd se ch r.cmd d r.w err (if err = 0 then r.outcome else 5)

end State

/-- STREAM_FAULT (R302, R304 to R307): the running stream delivers every element before the one whose translation faults, and is
suspended there; the slot's translation-fault interrupt is signalled (R447). -/
def execStreamFault (cd : Fin 8) (se : Fin 8) (ch : Fin 4) (s : State) : Out :=
  .next (s.gated cd (
    match s.stream cd se ch with
    | some r =>
      if s.fld .SE_CH_STATUS_STATE cd se ch ≠ 1 then s
      else
        let m := s.streamMove cd se ch r
        match m.stop with
        | some (.fault cause va dst) =>
          let k := State.keepMove m cd se ch r
          let s := k.2.setStream cd se ch (some { k.1 with since := s.now })
          let s := (s.setFld .SE_CH_STATUS_STATE cd se ch 2).setFld .SE_CH_FAULT_VA cd se ch va
          let s := (s.setFld .SE_CH_FAULT_CAUSE cd se ch cause).setFld .SE_CH_FAULT_SIDE cd se ch (if dst then 1 else 0)
          let s := (s.incFld .SE_CNT_FAULT_COUNT cd se 0).setFld .SE_EVENTS_FAULT cd se 0 1
          s.notice r.cmd.slot 0x0005 (leBytes 1 cd ++ leBytes 1 se ++ leBytes 1 ch ++ leBytes 1 (cause + if dst then 8 else 0)
            ++ leBytes 4 0 ++ leBytes 8 va)
        | _ => s
    | none => s))

/-- STREAM_END (R287, R304, R308, R309): the running stream delivers the rest and ends. While a frame is being zeroed or a gateway is
full it delivers what it can and goes on; a fault is left to STREAM_FAULT. A stream that is ENDING tries its census merge again. -/
def execStreamEnd (cd : Fin 8) (se : Fin 8) (ch : Fin 4) (s : State) : Out :=
  .next (s.gated cd (
    match s.stream cd se ch with
    | some r =>
      match r.ending with
      | some err => s.endStream cd se ch r err
      | none =>
        if s.fld .SE_CH_STATUS_STATE cd se ch ≠ 1 then s
        else
          let m := s.streamMove cd se ch r
          let k := State.keepMove m cd se ch r
          match m.stop with
          | none => k.2.endStream cd se ch k.1 0
          | some .access => k.2.endStream cd se ch k.1 errAccess
          | some .poison => k.2.endStream cd se ch k.1 errPoison
          | some .wait => k.2
          | some .hold => k.2
          | some .room => k.2
          | some (.fault _ _ _) => s
    | none => s))

namespace State

/-- Ends a suspended stream with XLATE (R306). -/
def failStream (s : State) (cd se ch : Nat) : State :=
  match s.stream cd se ch with
  | some r => if s.fld .SE_CH_STATUS_STATE cd se ch = 2 then s.endStream cd se ch r errXlate else s
  | none => s

/-- Who may write SE_CH_CTL (R319): the supervisor, the host of the slot whose stream occupies the channel, and any slot's host
while the channel is idle. -/
def chWriter (s : State) (acc : Accessor) (cd se ch : Nat) : Bool :=
  isSup acc || (if s.fld .SE_CH_STATUS_STATE cd se ch = 0 then (s.authSlot acc).isSome
    else s.hostAuth acc (s.fld .SE_CH_STATUS_SLOT cd se ch))

/-- RESUME or FAIL of a suspended channel (R306, R307); nothing on another one. -/
def chControl (s : State) (cd se ch : Nat) (resume : Bool) : State :=
  if s.fld .SE_CH_STATUS_STATE cd se ch ≠ 2 then s
  else if resume then s.setFld .SE_CH_STATUS_STATE cd se ch 1 else s.failStream cd se ch

/-- A write of SE_CH_CTL (R306, R319). -/
def writeChCtl (s : State) (acc : Accessor) (cd se ch : Nat) (resume : Bool) : State :=
  s.regWrite cd (s.chWriter acc cd se ch) (fun s => some (s.chControl cd se ch resume))

end State

/-- SE_CH_RESUME (R306, R307, R319): the suspended stream runs on from its watermark. -/
def execSeChResume (acc : Accessor) (cd : Fin 8) (se : Fin 8) (ch : Fin 4) (s : State) : Out :=
  .next (s.writeChCtl acc cd se ch true)

/-- SE_CH_FAIL (R306, R308, R319). -/
def execSeChFail (acc : Accessor) (cd : Fin 8) (se : Fin 8) (ch : Fin 4) (s : State) : Out :=
  .next (s.writeChCtl acc cd se ch false)

/-- FAULT_LIMIT_EXPIRY (R306): a suspension longer than SE_CTL.FAULT_LIMIT milliseconds ends the stream. -/
def execFaultLimitExpiry (cd : Fin 8) (se : Fin 8) (ch : Fin 4) (s : State) : Out :=
  .next (
    match s.stream cd se ch with
    | some r =>
      if s.fld .SE_CH_STATUS_STATE cd se ch = 2 && r.since + 100000 * max 1 (s.fld .SE_CTL_FAULT_LIMIT cd se) < s.now then
        let a := s.regWord .SE_CH_FAULT cd se ch
        ((s.failStream cd se ch).setFld .SE_EVENTS_LIMIT cd se 0 1).raise .EV_SE_FAULT_LIMIT cd se a (some r.cmd.slot)
      else s
    | none => s)

/-- POOL_STALL (R315): a pool that holds data and that no byte has left for 1 ms is reported once. Pools 0 to 7 are the staging pools of
the engines, 8 to 11 the gateway buffers. -/
def execPoolStall (cd : Fin 8) (pool : Fin 12) (s : State) : Out :=
  .next (
    if s.poolTold.get false (Key.at cd pool) || s.now < s.poolMoved.get 0 (Key.at cd pool) + 100000 then s
    else
      let told : State := { s with poolTold := s.poolTold.set false (Key.at cd pool) true }
      if pool.val < 8 then
        if s.poolHeld cd pool = 0 then s
        else (told.setFld .SE_EVENTS_POOL_STALL cd pool 0 1).raise .EV_SE_POOL_STALL cd pool (s.poolWord cd pool)
      else
        let g := pool.val - 8
        if s.gatewayHeld cd g (fun _ => true) = 0 then s
        else ((told.setFld .CAR_EVENTS_GW_STALL cd 0 0 1).setBit .CAR_EVENTS_GW cd 0 0 g true).raise .EV_SE_POOL_STALL cd pool 0)

/-- SE_SR_SEED_WRITE (R221, R319): the authorities of ARR_LS_SEED; through the CSR window that is supervisor authority. -/
def execSeSrSeedWrite (acc : Accessor) (cd : Fin 8) (se : Fin 8) (v : Word64) (s : State) : Out :=
  .next (s.regWrite cd (isSup acc) fun s => some (s.writeSeSeed cd se v))

/-- XLT_INVAL_WRITE (R303, R319): starts an invalidation; while one is BUSY a write is refused. -/
def execXltInvalWrite (acc : Accessor) (slot : Fin 4) (v : Word64) (s : State) : Out :=
  .next (s.regWrite iod0 (isSup acc || s.hostAuth acc slot) fun s =>
    let _ := v
    if s.flag .XLT_INVAL_BUSY iod0 slot then none else some (s.setFld .XLT_INVAL_BUSY iod0 slot 0 1))

/-- XLT_INVAL_DONE (R303): every unit has dropped the translations, and BUSY clears. -/
def execXltInvalDone (slot : Fin 4) (s : State) : Out :=
  .next (s.setFld .XLT_INVAL_BUSY iod0 slot 0 0)

namespace State

/-- Purges a slot's stash on a die (R203): every entry is freed, and a stash stream in flight ends with STASH, outcome ERROR. -/
def purgeStash (s : State) (cd slot : Nat) : State :=
  let s := { s with stash := s.stash.filter (fun e => !(e.1.d == cd && (match e.2 with | some x => x.slot == slot | none => false))) }
  (s.dieStreams cd).foldl (fun s x =>
    if x.2.2.cmd.slot = slot && isStash x.2.2.desc then
      s.endStream cd x.1 x.2.1 { x.2.2 with entry := none, source := none } errStash
    else s) s

end State

/-- STASH_PURGE_WRITE (R203, R206): under supervisor authority the named slots are purged, under host authority only the writer's
own slot. -/
def execStashPurgeWrite (acc : Accessor) (cd : Fin 8) (v : Word64) (s : State) : Out :=
  .next (s.regWrite cd (isSup acc || (s.authSlot acc).isSome) fun s =>
    some (((List.range 4).filter (fun x => v.toNat.testBit x && (isSup acc || s.hostAuth acc x))).foldl (fun s x => s.purgeStash cd x) s))

namespace State

/-- Abandons a stream at its watermark ("When an abandonment meets a suspended stream"): how far a running one had got is a free
value; no census is merged and no outcome word written, and a stash entry being written is freed. -/
def abandonStream (s : State) (cd se ch : Nat) (r : StreamRun) : State :=
  let (r, s) := if s.fld .SE_CH_STATUS_STATE cd se ch = 1 then
      let f := s.takeFree
      keepMove (f.2.streamMoveBy cd se ch r (f.1 % (dTotal r.desc - r.w + 1))) cd se ch r
    else (r, s.poolWaited cd se r)
  let (r, s) := s.releaseRead cd r
  let s := match r.entry with
    | some i => if r.dropped then s else s.setStashEntry cd i none
    | none => s
  s.freeChannel cd se ch r.w

end State

end Sys2Proof.Machine
end

