-- ==== Sys2Proof/Machine/Sequencer.lean ====
section
/-! DEFINITION. The die sequencer (chapter "The pattern contract", R152 to R178, R394, R395, R526): issue, waits, the context
switch, the vector operations and the tickets. Each instruction's command names the beat `t` in which it issues; it does nothing
where the running context is not at that instruction or may not yet issue. -/

namespace Sys2Proof.Machine

namespace State

/-- A scalar register of a context (R153). -/
def sreg (s : State) (cd c r : Nat) : Word64 := if r = 0 then 0 else s.sregs.get 0 (Key.at cd c r)

/-- The pattern of a slot on a die. -/
def pattern (s : State) (cd slot : Nat) : Pattern := s.patterns.get Pattern.none (Key.at cd slot)

/-- A code word of a slot's pattern on a die, by word index. -/
def codeWord (s : State) (cd slot i : Nat) : Word64 :=
  BitVec.ofNat 64 (leNat (s.code.readBytes (2 ^ 20 * cd + 8 * ((s.pattern cd slot).codeBase + i)) 8))

/-- A constant word of a slot's pattern on a die (R149). -/
def konstWord (s : State) (cd slot i : Nat) : Nat :=
  leNat (s.konst.readBytes (2 ^ 18 * cd + 8 * ((s.pattern cd slot).constBase + i)) 8)

/-- The VEs that a context's pattern names for it (R149). -/
def ctxVes (s : State) (cd c : Nat) : Nat :=
  (s.pattern cd (s.ctxSlot cd c)).veMask.getD (s.fld .SEQ_CTX_STATE_LOGICAL cd 0 c) 0

end State

/-- The bits of a first word that its OP defines (R153): OP, TB and the named fields. -/
def opMask (op : Nat) : Nat :=
  let f (hi lo : Nat) : Nat := 2 ^ (hi + 1) - 2 ^ lo
  f 8 0 + (match op with
    | 1 => f 23 16
    | 2 => f 18 16
    | 3 => f 23 16 + f 28 24 + f 63 32
    | 4 => f 34 16 + f 63 40
    | 5 => f 29 16 + f 63 32
    | 6 => f 26 16 + f 63 32
    | 8 => f 24 20
    | 9 => f 18 16
    | 12 => f 41 16
    | _ => 0)

/-- Words of an instruction (R153). -/
def opWords (op : Nat) : Nat := if op = 1 then 3 else if op = 2 then 2 else 1

/-- A reserved OP (R153). -/
def opReserved (op : Nat) : Bool := op = 0 || 12 < op

/-- Counters that a WAIT may name (R154). -/
def cntValid (n : Nat) : Bool :=
  n ≤ 0x4B || (0x50 ≤ n && n ≤ 0x62) || (0x70 ≤ n && n ≤ 0x77)

/-- The instruction at which a context stands: its words, once the checks that no instruction passes are made (R166). -/
structure Fetch where
  c : Nat
  slot : Nat
  w : Word64
  w1 : Word64
  w2 : Word64
  deriving DecidableEq, Repr

def Fetch.op (f : Fetch) : Nat := fieldOf f.w 7 0
def Fetch.tb (f : Fetch) : Bool := fieldOf f.w 8 8 = 1

/-- Reserved bits of the first word are zero (R166). -/
def Fetch.clean (f : Fetch) : Bool := f.w.toNat &&& opMask f.op == f.w.toNat

namespace State

/-- BAD_INST (R165, R166): TAG 0, and UNIT 0 for want of a unit (DESIGN CHOICE, log entry 125). -/
def badInst (s : State) (cd c : Nat) : State := s.ctxError cd c causeBadInst 0 0

/-- A READY context of another slot than context `c`'s. -/
def otherReady (s : State) (cd c : Nat) : Bool := (s.readyCtxs cd).any (fun x => s.ctxSlot cd x != s.ctxSlot cd c)

/-- Holds the running context at issue (R157, R160, R170, R176); `late` is the beat up to which the internal latency of a late
result alone holds it. A sideshow context gives way instead once a context of another slot is READY (R394), but not from the
VE-busy stall of R160. -/
def stall (s : State) (cd c code t : Nat) (late : Nat := 0) : State :=
  if s.holdYields cd c code && s.otherReady cd c then (s.closeHold cd c t).yieldCtx cd c t
  else if s.ctxState cd c = ctxStalled && s.fld .SEQ_CTX_STATE_STALL cd 0 c = code then s
  else
    let s := s.closeHold cd c t
    let s := (s.setCtxState cd c ctxStalled).setFld .SEQ_CTX_STATE_STALL cd 0 c code
    s.setCtx cd c { s.ctx cd c with since := t, lateTo := late }

/-- What a tile boundary that does not block does (R162): a sideshow context gives way to a READY context of another slot. -/
def boundary (s : State) (cd c t : Nat) : State :=
  if s.flag .SEQ_CTX_STATE_SIDESHOW cd 0 c && s.otherReady cd c then s.yieldCtx cd c t else s

/-- The running context has issued its instruction in beat `t` and stands at `pc`; `next` is the first beat of its next one. -/
def issued (s : State) (cd : Nat) (f : Fetch) (t pc next : Nat) (tile : Bool) : State :=
  let s := (s.closeHold cd f.c t).incFld .SEQ_CNT_ISSUE_COUNT cd 0 f.c
  let s := s.setFld .SEQ_CTX_PC_PC cd 0 f.c pc
  let s := s.setCtx cd f.c { s.ctx cd f.c with earliest := next }
  if tile || f.tb then s.boundary cd f.c t else s

/-- Issues a plain instruction: the next word, the next beat. -/
def step1 (s : State) (cd : Nat) (f : Fetch) (t : Nat) : State :=
  s.issued cd f t (s.fld .SEQ_CTX_PC_PC cd 0 f.c + opWords f.op) (t + 1) false

/-- A die drains for a stop: its sequencer issues nothing more (R337). -/
def draining (s : State) (cd : Nat) : Bool := (s.clocks.get Clk.reset (Key.at cd)).phase = .draining

/-- The instruction that the running context of a die may issue in beat `t` (R153, R166), which is no beat that the die has passed.
A program counter outside the code or a reserved OP is BAD_INST, whatever instruction is asked for. -/
def fetchAt (s : State) (cd t : Nat) : Option (Fetch ⊕ Nat) :=
  let c := s.fld .SEQ_STATUS_RUNNING cd
  if !s.dieUp cd || s.draining cd || s.slotPause.get false (Key.at (s.ctxSlot cd c)) || s.flag .SEQ_STATUS_IDLE cd || (s.ctxState cd c != ctxRunning && s.ctxState cd c != ctxStalled)
      || t < (s.ctx cd c).earliest || t < s.beatOf cd then none
  else
    let slot := s.ctxSlot cd c
    let pc := s.fld .SEQ_CTX_PC_PC cd 0 c
    let n := (s.pattern cd slot).codeWords
    let w := s.codeWord cd slot pc
    let op := fieldOf w 7 0
    if n ≤ pc || opReserved op || n < pc + opWords op then some (.inr c)
    else some (.inl ⟨c, slot, w, s.codeWord cd slot (pc + 1), s.codeWord cd slot (pc + 2)⟩)

/-- Runs the body of an instruction of OP `op` on the running context of a die in beat `t`. -/
def runOp (s : State) (cd t op : Nat) (want : Fetch → Bool) (body : State → Fetch → State) : State :=
  match s.fetchAt cd t with
  | none => s
  | some (.inr c) => ((s.reach cd t).closeHold cd c t).badInst cd c
  | some (.inl f) =>
    if f.op != op || !want f then s
    else
      let s := s.reach cd t
      if !f.clean then (s.closeHold cd f.c t).badInst cd f.c else body s f

/-- A slot's run ends once every context of the slot is DONE (R443). -/
def slotDone (s : State) (slot : Nat) : State :=
  let mine (cd c : Nat) : Bool := s.ctxState cd c != ctxFree && s.ctxSlot cd c == slot
  if s.fld .SLQ_STATE_STATE iod0 slot = 2
      && (List.range 8).all (fun cd => (List.range 4).all (fun c => !mine cd c || s.ctxState cd c = ctxDone)) then
    s.setFld .SLQ_STATE_STATE iod0 slot 0 1
  else s

/-- The sideshow holds the sequencer or a charged unit of a die. -/
def sideshowHolds (s : State) (cd : Nat) : Bool :=
  (!s.flag .SEQ_STATUS_IDLE cd && s.flag .SEQ_CTX_STATE_SIDESHOW cd 0 (s.fld .SEQ_STATUS_RUNNING cd))
    || (List.range 96).any (fun u => match s.charged cd u with
      | some x => s.isSideshow x
      | none => false)

/-- Ends the show of a yield once no sideshow work remains (SEQ_SS_STATUS). -/
def yieldSettle (s : State) (cd : Nat) : State :=
  if s.flag .SEQ_SS_STATUS_YIELDING cd && !s.sideshowHolds cd then s.setFld .SEQ_SS_STATUS_YIELDING cd 0 0 0 else s

/-- A context of a non-sideshow slot becomes READY: a yield starts where the sideshow holds the sequencer or a unit (R395). A yield
that still holds new sideshow starts goes on; one whose hold has ended while sideshow work remains starts anew, and the time of
R396 runs on from the first. -/
def yieldStart (s : State) (cd c : Nat) : State :=
  let on := s.flag .SEQ_SS_STATUS_YIELDING cd
  if s.flag .SEQ_CTX_STATE_SIDESHOW cd 0 c || (on && s.yieldHold.get false (Key.at cd)) || !s.sideshowHolds cd then s
  else
    let s := (s.setFld .SEQ_SS_STATUS_YIELDING cd 0 0 1).incFld .SEQ_CNT_SS_YIELD_COUNT cd 0 0
    { s with
      yieldAt := if on then s.yieldAt else s.yieldAt.set 0 (Key.at cd) s.now, yieldHold := s.yieldHold.set false (Key.at cd) true }

/-- A context becomes READY in beat `t` (R162, R164, R395). -/
def wakeCtx (s : State) (cd c t : Nat) : State := ((s.yieldStart cd c).makeReady cd c t).yieldSettle cd

/-- Every posted and stream write of a context has reached its visibility point (R153): none of its streams is queued or on a
channel, and no posted write is outstanding. -/
def fenceDone (s : State) (cd c : Nat) : Bool :=
  (s.ctx cd c).posted = 0
    && (List.range 8).all (fun n => !(s.seUnit cd n).queue.any (fun x => x.ctx == c)
      && (List.range 4).all (fun ch => match s.stream cd n ch with
        | some r => r.cmd.ctx != c
        | none => true))

/-- The running context blocks on a WAIT or FENCE in beat `t`; at a tile boundary it leaves the sequencer (R162, R163, R394). -/
def blockCtx (s : State) (cd : Nat) (f : Fetch) (t : Nat) (cnt target : Nat) (fenced : Bool) : State :=
  let s := (s.closeHold cd f.c t).incFld .SEQ_CNT_ISSUE_COUNT cd 0 f.c
  let s := (s.setCtxState cd f.c ctxWaiting).setFld .SEQ_CTX_STATE_WAIT_CNT cd 0 f.c cnt
  let s := s.setCtx cd f.c { s.ctx cd f.c with target := target, fenced := fenced, since := t }
  if f.tb || s.flag .SEQ_CTX_STATE_SIDESHOW cd 0 f.c then s.switchCtx cd t else s

/-- A blocked context goes on in beat `t` (R155, R162 to R164): it is READY, or it goes on at once where it kept the sequencer. -/
def unblock (s : State) (cd c t : Nat) : State :=
  let s := s.incFld .SEQ_CNT_WAIT_COUNT cd 0 c (t - (s.ctx cd c).since)
  let s := s.incFld .SEQ_CTX_PC_PC cd 0 c
  let s := s.setFld .SEQ_CTX_STATE_WAIT_CNT cd 0 c 0
  let s := s.setCtx cd c { s.ctx cd c with fenced := false, target := 0 }
  if !s.flag .SEQ_STATUS_IDLE cd && s.fld .SEQ_STATUS_RUNNING cd = c then
    (s.setCtxState cd c ctxRunning).setCtx cd c { s.ctx cd c with earliest := t + 2 }
  else s.wakeCtx cd c t

/-- Room in the queue of an ISSUE target (R80, R100, R113, R161, R286). -/
def targetRoom (s : State) (cd u : Nat) : Bool :=
  if u < 0x18 then (s.array cd u).queue.length < 16
  else if u < 0x48 then (s.bobbin cd (u - 0x18)).queue.length < 8
  else if u < 0x4C then (s.station cd (u - 0x48)).queue.length < 8
  else if u < 0x58 then (s.ve cd (u - 0x50)).queue.length < 8
  else (s.seUnit cd (u - 0x58)).queue.length < 8

end State

/-- An ISSUE target with a queue (R154). -/
def targetValid (u : Nat) : Bool := u < 0x4C || (0x50 ≤ u && u < 0x60)

/-- ISSUE (R153, R154, R157, R166): writes the 16-byte command into the unit queue TARGET. -/
def execIssue (cd : Fin 8) (t : Nat) (s : State) : Out :=
  .next (s.gated cd (s.runOp cd t 1 (fun _ => true) fun s f =>
    let u := fieldOf f.w 23 16
    let x : Cmd := ⟨f.w1, f.w2, f.c, f.slot, t + 2⟩
    let ve := u - 0x50
    if !targetValid u || (0x50 ≤ u && u < 0x58 && !(s.ctxVes cd f.c).testBit ve) then (s.closeHold cd f.c t).badInst cd f.c
    else if 0x50 ≤ u && u < 0x58 && x.kind = 0xD && s.lateHold cd ve t [fieldOf f.w1 8 4] [] then
      s.stall cd f.c 2 t (s.lateTo cd ve t [fieldOf f.w1 8 4] [])
    else if !s.targetRoom cd u then s.stall cd f.c 1 t
    else
      let s := s.step1 cd f t
      if u < 0x18 then s.arrEnqueue cd u (.cmd x)
      else if u < 0x48 then s.feedEnqueue cd (u - 0x18) x
      else if u < 0x4C then s.stationEnqueue cd (u - 0x48) x
      else if u < 0x58 then
        let va := s.vregAt cd ve (fieldOf f.w1 8 4) t
        let q := s.ve cd ve
        s.setVe cd ve { q with queue := q.queue ++ [⟨x, leNat (va.1.take 4), va.2⟩] }
      else
        let q := s.seUnit cd (u - 0x58)
        s.setSeUnit cd (u - 0x58) { q with queue := q.queue ++ [x] }))

/-- WAIT (R153, R155, R162): blocks until counter CNT reaches COUNT + S[SREG]. -/
def execWait (cd : Fin 8) (t : Nat) (s : State) : Out :=
  .next (s.gated cd (s.runOp cd t 3 (fun _ => true) fun s f =>
    let n := fieldOf f.w 23 16
    let target := (fieldOf f.w 63 32 + (s.sreg cd f.c (fieldOf f.w 28 24)).toNat) % 2 ^ 32
    if !cntValid n then (s.closeHold cd f.c t).badInst cd f.c
    else if reached (s.waitValue cd f.c n) target then
      s.issued cd f t (s.fld .SEQ_CTX_PC_PC cd 0 f.c + 1) (t + 1) (s.flag .SEQ_CTX_STATE_SIDESHOW cd 0 f.c)
    else s.blockCtx cd f t n target false))

/-- WAIT_SATISFIED (R155): the counter has reached the target of a blocked WAIT in beat `t`. -/
def execWaitSatisfied (cd : Fin 8) (ctx : Fin 4) (t : Nat) (s : State) : Out :=
  .next (s.gated cd (
    let x := s.ctx cd ctx
    if s.ctxState cd ctx = ctxWaiting && !x.fenced && decide (x.since ≤ t)
        && reached (s.waitValue cd ctx (s.fld .SEQ_CTX_STATE_WAIT_CNT cd 0 ctx)) x.target then s.unblock cd ctx t
    else s))

/-- FENCE (R153). -/
def execFence (cd : Fin 8) (t : Nat) (s : State) : Out :=
  .next (s.gated cd (s.runOp cd t 7 (fun _ => true) fun s f =>
    if s.fenceDone cd f.c then
      s.issued cd f t (s.fld .SEQ_CTX_PC_PC cd 0 f.c + 1) (t + 1) (s.flag .SEQ_CTX_STATE_SIDESHOW cd 0 f.c)
    else s.blockCtx cd f t 0 0 true))

/-- FENCE_COMPLETE (R153): the last write that a blocked FENCE waits for has reached its visibility point in beat `t`. -/
def execFenceComplete (cd : Fin 8) (ctx : Fin 4) (t : Nat) (s : State) : Out :=
  .next (s.gated cd (
    let x := s.ctx cd ctx
    if s.ctxState cd ctx = ctxWaiting && x.fenced && decide (x.since ≤ t) && s.fenceDone cd ctx then s.unblock cd ctx t else s))

/-- SALU (R153, R168): FN 0 to 9. -/
def execSalu (cd : Fin 8) (t : Nat) (s : State) : Out :=
  .next (s.gated cd (s.runOp cd t 4 (fun _ => true) fun s f =>
    let fn := fieldOf f.w 19 16
    let a := s.sreg cd f.c (fieldOf f.w 29 25)
    let b := s.sreg cd f.c (fieldOf f.w 34 30)
    let imm := fieldOf f.w 63 40
    if 9 < fn || (fn = 9 && (s.pattern cd f.slot).constWords ≤ imm) then (s.closeHold cd f.c t).badInst cd f.c
    else
      let v : Word64 := match fn with
        | 0 => a + b
        | 1 => a - b
        | 2 => a &&& b
        | 3 => a ||| b
        | 4 => a ^^^ b
        | 5 => a <<< (b.toNat % 64)
        | 6 => a >>> (b.toNat % 64)
        | 7 => a * b
        | 8 => BitVec.ofNat 64 imm
        | _ => BitVec.ofNat 64 (s.konstWord cd f.slot imm)
      let s := { s with pend := s.pend ++ [Pending.scalar cd f.c (fieldOf f.w 24 20) v (t + (if fn = 7 || fn = 9 then 3 else 1))] }
      s.step1 cd f t))

/-- BR (R153, R166, R168): the target is a signed word offset from the branch. -/
def execBr (cd : Fin 8) (t : Nat) (s : State) : Out :=
  .next (s.gated cd (s.runOp cd t 5 (fun _ => true) fun s f =>
    let cond := fieldOf f.w 19 16
    let a := (s.sreg cd f.c (fieldOf f.w 24 20)).toInt
    let b := (s.sreg cd f.c (fieldOf f.w 29 25)).toInt
    let taken := match cond with
      | 0 => true
      | 1 => a == b
      | 2 => a != b
      | 3 => decide (a < b)
      | _ => decide (b ≤ a)
    let dest : Int := (s.fld .SEQ_CTX_PC_PC cd 0 f.c : Int) + toSigned 32 (fieldOf f.w 63 32)
    if 4 < cond then (s.closeHold cd f.c t).badInst cd f.c
    else if !taken then s.step1 cd f t
    else if dest < 0 || ((s.pattern cd f.slot).codeWords : Int) ≤ dest then (s.closeHold cd f.c t).badInst cd f.c
    else s.issued cd f t dest.toNat (t + 2) false))

/-- POST (R316 to R318): writes constant words to the virtual address in S[SADDR], in issue order; a write that R317 refuses has no
effect and is a bus error. While the target is being zeroed the instruction does not issue (R257). -/
def execPost (cd : Fin 8) (t : Nat) (s : State) : Out :=
  .next (s.gated cd (s.runOp cd t 6 (fun _ => true) fun s f =>
    let n := fieldOf f.w 21 16
    let va := (s.sreg cd f.c (fieldOf f.w 26 22)).toNat
    let k := fieldOf f.w 63 32
    if n = 0 || 32 < n || (s.pattern cd f.slot).constWords < k + n then (s.closeHold cd f.c t).badInst cd f.c
    else
      let ok := va < 2 ^ 48 && va % 8 = 0 && va / 256 = (va + 8 * n - 1) / 256
      let adm := if ok then s.vaAdmit (unitReq f.slot) f.slot va (8 * n) true else none
      match adm with
      | some false => s
      | none => (s.step1 cd f t).ctxError cd f.c causeMemory 0x60 0
      | some true =>
        let bs := (List.range n).flatMap (fun i => leBytes 8 (s.konstWord cd f.slot (k + i)))
        let s := (s.step1 cd f t).vaWrite (unitReq f.slot) f.slot va bs false false
        let s := match s.translate f.slot va true with
          | .pa a => s.meshPosted cd a (8 * n)
          | .fault _ => s
        s.bumpCnt cd f.c 0x60))

/-- SIGNAL (R153, R447, R528): posts NT_SIGNAL with the low 32 bits of S[SA]. -/
def execSignal (cd : Fin 8) (t : Nat) (s : State) : Out :=
  .next (s.gated cd (s.runOp cd t 8 (fun _ => true) fun s f =>
    let v := (s.sreg cd f.c (fieldOf f.w 24 20)).toNat % 2 ^ 32
    (s.step1 cd f t).notice f.slot 0x0001 (leBytes 1 cd ++ leBytes 1 f.c ++ leBytes 2 0 ++ leBytes 4 v)))

/-- CINC (R153, R155, R237): synchronisation counter K of the slot on this die; the vote of the slot may open in this beat. -/
def execCinc (cd : Fin 8) (t : Nat) (s : State) : Out :=
  .next (s.gated cd (s.runOp cd t 9 (fun _ => true) fun s f =>
    let k := fieldOf f.w 18 16
    let x := s.sync cd f.slot k
    let s := (s.step1 cd f t).setSync cd f.slot k { x with count := (x.count + 1) % 2 ^ 32, re0 := x.re0 ++ [f.c], re1 := x.re1 ++ [f.c] }
    s.voteTryOpen f.slot))

/-- YIELD (R153, R162): a tile boundary that does nothing else. -/
def execYield (cd : Fin 8) (t : Nat) (s : State) : Out :=
  .next (s.gated cd (s.runOp cd t 10 (fun _ => true) fun s f => s.issued cd f t (s.fld .SEQ_CTX_PC_PC cd 0 f.c + 1) (t + 1) true))

/-- END (R153, R162, R443): the context finishes. -/
def execEnd (cd : Fin 8) (t : Nat) (s : State) : Out :=
  .next (s.gated cd (s.runOp cd t 11 (fun _ => true) fun s f =>
    let s := (s.closeHold cd f.c t).incFld .SEQ_CNT_ISSUE_COUNT cd 0 f.c
    (((s.setCtxState cd f.c ctxDone).switchCtx cd t).yieldSettle cd).slotDone f.slot))

/-- The array registers that CSET may write (R158), by REG. -/
def csetArrReg (r : Nat) : Bool :=
  r = 2 || (8 ≤ r && r < 17) || (0x20 ≤ r && r < 0x38) || (0x200 ≤ r && r < 0x300)

/-- CSET (R158, R166): an array register write goes through the array's queue; a seed is written directly, at the end of the beat
after issue. -/
def execCset (cd : Fin 8) (t : Nat) (s : State) : Out :=
  .next (s.gated cd (s.runOp cd t 12 (fun _ => true) fun s f =>
    let u := fieldOf f.w 23 16
    let r := fieldOf f.w 36 24
    let v := s.sreg cd f.c (fieldOf f.w 41 37)
    if u < 0x18 then
      if !csetArrReg r then (s.closeHold cd f.c t).badInst cd f.c
      else if !s.targetRoom cd u then s.stall cd f.c 1 t
      else (s.step1 cd f t).arrEnqueue cd u (.cset r v f.c f.slot (t + 2))
    else if (0x50 ≤ u && u < 0x58 && r = 0x101 && (s.ctxVes cd f.c).testBit (u - 0x50)) || (0x58 ≤ u && u < 0x60 && r = 2) then
      { s with pend := s.pend ++ [Pending.seed cd u v (t + 2)] }.step1 cd f t
    else (s.closeHold cd f.c t).badInst cd f.c))

/-- The fields of a VOP (R159). -/
structure Vop where
  fn : Nat
  vd : Nat
  va : Nat
  vb : Nat
  vc : Nat
  e : Nat
  rep : Nat
  src : Nat
  dst : Nat
  rnd : Nat
  ovf : Nat
  sexp : Nat
  pred : Nat
  table : Nat
  deriv : Nat
  top : Nat
  deriving DecidableEq, Repr

def vopOf (w : Word64) : Vop :=
  ⟨fieldOf w 5 0, fieldOf w 10 6, fieldOf w 15 11, fieldOf w 20 16, fieldOf w 25 21, fieldOf w 27 26, fieldOf w 31 28, fieldOf w 35 32,
   fieldOf w 39 36, fieldOf w 41 40, fieldOf w 42 42, fieldOf w 50 43, fieldOf w 52 51, fieldOf w 57 53, fieldOf w 58 58, fieldOf w 63 59⟩

/-- BAD_INST of a VOP (R159): a reserved FN, reserved bits, or a nonzero field that its FN does not use. -/
def Vop.badInst (v : Vop) : Bool :=
  v.fn = 0 || 13 < v.fn || v.top != 0
    || (v.fn != 9 && (v.src != 0 || v.dst != 0 || v.rnd != 0 || v.ovf != 0 || v.sexp != 0))
    || (v.fn != 7 && v.pred != 0) || (v.fn != 10 && (v.table != 0 || v.deriv != 0))

/-- BAD_FMT of a VOP before the FUNC refusals (R121, R127, R128, R159, R184). -/
def Vop.badFmt (v : Vop) : Bool :=
  if v.fn = 9 then
    (streamFmt v.src).isNone || (streamFmt v.dst).isNone || v.rnd = 3 || v.sexp = 128 || v.sexp = 129
      || (v.sexp != 0 && ((streamFmt v.dst).map Fmt.block).getD 0 != 0)
  else v.e = 3 || (v.fn = 10 && v.e = 2)

/-- Contract latency of a FN (R168). -/
def Vop.latency (v : Vop) : Nat :=
  if v.fn ≤ 4 then 6 else if v.fn ≤ 8 then 3 else if v.fn = 9 then 5 else if v.fn = 10 then 14 else if v.fn ≤ 12 then 10 else 4

/-- Beats by which the stepping writes a result late (R168): RSUM and RMAX on A1. -/
def Vop.late (v : Vop) (b0 : Bool) : Nat := if (v.fn = 11 || v.fn = 12) && !b0 then 2 else 0

/-- Registers that one repeat reads and writes. -/
def Vop.reads (v : Vop) : List Nat :=
  if v.fn = 4 || v.fn = 8 then [v.va, v.vb, v.vc]
  else if v.fn = 9 then (if ((streamFmt v.src).map Fmt.block).getD 0 = 0 then [v.va] else [v.va, v.vb])
  else if v.fn = 10 || v.fn = 11 || v.fn = 12 then [v.va] else [v.va, v.vb]
def Vop.writes (v : Vop) : List Nat :=
  if v.fn = 9 && ((streamFmt v.dst).map Fmt.block).getD 0 != 0 then [v.vd, v.vc] else [v.vd]

/-- Registers that all repeats read and write (R160). -/
def Vop.allReads (v : Vop) : List Nat := (List.range (v.rep + 1)).flatMap (fun i => v.reads.map (fun r => (r + i) % 32))
def Vop.allWrites (v : Vop) : List Nat := (List.range (v.rep + 1)).flatMap (fun i => v.writes.map (fun r => (r + i) % 32))

/-- One repeat: the registers it writes with their low bytes, and the generator after it. `pair` is the image of the table pair. -/
def Vop.run (v : Vop) (gen : Nat) (pair : List Byte) (a b c : List Byte) : List (Nat × List Byte) × Nat :=
  let w := laneBytes v.e
  let n := laneCount v.e
  let xs := chunks w n a
  let ys := chunks w n b
  let zs := chunks w n c
  if v.fn = 9 then
    match streamFmt v.src, streamFmt v.dst, Rnd.ofCode v.rnd with
    | some f, some g, some rnd =>
      let us := if v.rnd = 2 then draws 2048 gen else (gen, [])
      let r := cvtRun f g rnd (v.ovf = 1) (s8 v.sexp) us.2 a b
      (if g.block = 0 then [(v.vd, r.elems)] else [(v.vd, r.elems), (v.vc, r.scales)], us.1)
    | _, _, _ => ([], gen)
  else if v.fn = 10 then ([(v.vd, unchunks w (xs.map (fun x => funcOf v.e pair (v.deriv = 1) x)))], gen)
  else if v.fn = 11 then ([(v.vd, unchunks w (List.replicate n (rsum v.e xs)))], gen)
  else if v.fn = 12 then ([(v.vd, unchunks w (List.replicate n (rmax v.e xs)))], gen)
  else if v.fn = 13 then ([(v.vd, unchunks w (ys.map (fun i => xs.getD (i % n) 0)))], gen)
  else
    ([(v.vd, unchunks w ((List.zip xs (List.zip ys zs)).map (fun t => laneOp v.fn v.e v.pred t.1 t.2.1 t.2.2)))], gen)

namespace State

/-- Runs the repeats of a VOP issued in beat `t` (R160, R167): every repeat reads what an instruction of beat t reads (DEDUCED, log
entry 126), and the result of repeat i is read from beat t + i + L on. -/
def vopRepeats (s : State) (cd ve t : Nat) (v : Vop) : State :=
  let pair := s.ftab.slice (ftabBase cd ve v.table) 32832
  let pairSl := v.fn = 10 && s.pairSealed.get false (Key.at cd ve v.table)
  (List.range (v.rep + 1)).foldl (fun s i =>
    let x : Vop := { v with vd := (v.vd + i) % 32, va := (v.va + i) % 32, vb := (v.vb + i) % 32, vc := (v.vc + i) % 32 }
    let ra := s.vregSeen cd ve x.va t
    let a := ra.1
    let rb := if x.reads.length ≥ 2 then ra.2.vregSeen cd ve x.vb t else (a, ra.2)
    let b := rb.1
    let rc := if x.reads.length ≥ 3 then rb.2.vregSeen cd ve x.vc t else (a, rb.2)
    let c := rc.1
    let s := rc.2
    let sl := pairSl || a.2 || b.2 || c.2
    let u := s.ve cd ve
    let r := x.run u.gen pair a.1 b.1 c.1
    let s := s.setVe cd ve { u with gen := r.2 }
    { s with pend := s.pend ++ r.1.map (fun w => Pending.vector cd ve w.1 w.2 sl (t + i + v.latency) (v.late s.b0) 0) }) s

/-- The refusals of FUNC (R187): its pair is not VALID, or it carries a stale epoch. -/
def funcRefused (s : State) (cd ve : Nat) (v : Vop) : Bool :=
  v.fn = 10 && (!s.flagBit .VE_FTAB_STATUS_VALID cd ve 0 v.table
    || s.pairEpoch.get 0 (Key.at cd ve v.table) != s.fld .VE_FTAB_STATUS_EPOCH cd ve)

/-- A VOP of function `fn` (R159, R160, R166, R170, R176). A VOP whose FN is reserved is BAD_INST under every function. Of several
causes of a hold, a late result is taken before a busy VE, and that before tickets (DESIGN CHOICE, log entry 127). -/
def runVop (s : State) (cd t fn : Nat) : State :=
  s.runOp cd t 2 (fun f => let x := (vopOf f.w1).fn; x == fn || x == 0 || 13 < x) fun s f =>
    let v := vopOf f.w1
    let ve := fieldOf f.w 18 16
    if !(s.ctxVes cd f.c).testBit ve || v.badInst then (s.closeHold cd f.c t).badInst cd f.c
    else if v.badFmt then (s.closeHold cd f.c t).ctxError cd f.c causeBadFmt (unitVe ve) 0
    else if s.funcRefused cd ve v then
      let s := ((s.closeHold cd f.c t).setFld .VE_FTAB_STATUS_REFUSED cd ve 0 1).setFld .VE_FTAB_STATUS_PAIR cd ve 0 v.table
      s.ctxError cd f.c causeBadFmt (unitVe ve) 0
    else if s.lateHold cd ve t (v.allReads) (v.allWrites) then s.stall cd f.c 2 t (s.lateTo cd ve t v.allReads v.allWrites)
    else if t < (s.ve cd ve).acceptFrom then s.stall cd f.c 3 t
    else if !s.mayStart cd (unitVe ve) f.slot then s.stall cd f.c 4 t
    else
      let s := (s.charge cd (unitVe ve) f.slot).step1 cd f t
      (s.setVe cd ve { s.ve cd ve with acceptFrom := t + v.rep + 1 }).vopRepeats cd ve t v

end State

/-- ADD (R142, R159, R526). -/
def execAdd (cd : Fin 8) (t : Nat) (s : State) : Out := .next (s.gated cd (s.runVop cd t 1))

/-- SUB (R142, R159, R526). -/
def execSub (cd : Fin 8) (t : Nat) (s : State) : Out := .next (s.gated cd (s.runVop cd t 2))

/-- MUL (R142, R159, R526). -/
def execMul (cd : Fin 8) (t : Nat) (s : State) : Out := .next (s.gated cd (s.runVop cd t 3))

/-- FMA (R142, R159, R526): VD = VA × VB + VC. -/
def execFma (cd : Fin 8) (t : Nat) (s : State) : Out := .next (s.gated cd (s.runVop cd t 4))

/-- MAX (R143, R159). -/
def execMax (cd : Fin 8) (t : Nat) (s : State) : Out := .next (s.gated cd (s.runVop cd t 5))

/-- MIN (R143, R159). -/
def execMin (cd : Fin 8) (t : Nat) (s : State) : Out := .next (s.gated cd (s.runVop cd t 6))

/-- CMP (R144, R526). -/
def execCmp (cd : Fin 8) (t : Nat) (s : State) : Out := .next (s.gated cd (s.runVop cd t 7))

/-- SEL (R159, R526). -/
def execSel (cd : Fin 8) (t : Nat) (s : State) : Out := .next (s.gated cd (s.runVop cd t 8))

/-- CVT (R126 to R128, R160). -/
def execCvt (cd : Fin 8) (t : Nat) (s : State) : Out := .next (s.gated cd (s.runVop cd t 9))

/-- FUNC (R182 to R187). -/
def execFunc (cd : Fin 8) (t : Nat) (s : State) : Out := .next (s.gated cd (s.runVop cd t 10))

/-- RSUM (R208). -/
def execRsum (cd : Fin 8) (t : Nat) (s : State) : Out := .next (s.gated cd (s.runVop cd t 11))

/-- RMAX (R207). -/
def execRmax (cd : Fin 8) (t : Nat) (s : State) : Out := .next (s.gated cd (s.runVop cd t 12))

/-- PERM (R159, R526). -/
def execPerm (cd : Fin 8) (t : Nat) (s : State) : Out := .next (s.gated cd (s.runVop cd t 13))

namespace State

/-- A unit charged to a slot has no issued or running work, and its queue has no work of that slot at its head: a queue goes in
order, so behind another slot's head the slot's work cannot start before the charge is returned (R175; DEDUCED, log entry 128).
The results of VOPs in flight are no queued work: they end by themselves (`unitQuiet`). -/
def unitIdle (s : State) (cd u slot : Nat) : Bool :=
  if u < 0x18 then
    ((s.array cd u).queue.head?.map ArrEntry.slot) != some slot && (s.array cd u).inflight.isEmpty && (s.array cd u).loading.isNone
  else if 0x50 ≤ u && u < 0x58 then ((s.ve cd (u - 0x50)).queue.head?.map (fun x => x.cmd.slot)) != some slot
  else if 0x58 ≤ u && u < 0x60 then
    ((s.seUnit cd (u - 0x58)).queue.head?.map Cmd.slot) != some slot && (List.range 4).all (fun ch => (s.stream cd (u - 0x58) ch).isNone)
  else true

/-- The sequencer beat after which a unit has no work left: the last in which it was seen at work, or the last one before which all
results of its VOPs are written. -/
def unitQuiet (s : State) (cd u : Nat) : Nat :=
  let seen := s.busyAt.get 0 (Key.at cd u)
  if 0x50 ≤ u && u < 0x58 then
    max (max seen ((s.ve cd (u - 0x50)).acceptFrom - 1)) (s.writtenBy (Pending.ofVe cd (u - 0x50)) - 1) else seen

/-- A unit charged to a slot has no work at all in the beat that the die has reached. -/
def unitFree (s : State) (cd u slot : Nat) : Bool := s.unitIdle cd u slot && decide (s.unitQuiet cd u ≤ s.beatOf cd)

/-- The idle beats after which a charge returns: 64 (R175), or the first one for a sideshow slot during a yield (R395). -/
def idleBeats (s : State) (cd slot : Nat) : Nat := if s.isSideshow slot && s.flag .SEQ_SS_STATUS_YIELDING cd then 1 else 64

end State

/-- TICKET_RELEASE (R175, R395): a charged unit returns its charge at the end of its 64th idle beat; a sideshow unit during a yield
does so in its first one. The die has then reached the beat after it. -/
def execTicketRelease (cd : Fin 8) (unit : Fin 96) (s : State) : Out :=
  .next (s.gated cd (
    match s.charged cd unit with
    | none => s
    | some slot =>
      if s.unitIdle cd unit slot then
        ((s.reach cd (s.unitQuiet cd unit + s.idleBeats cd slot + 1)).release cd unit).yieldSettle cd
      else s))

end Sys2Proof.Machine
end

