-- ==== Sys2Proof/Machine/Vector.lean ====
section
/-! DEFINITION. The memory queues of the vector engines (R161): VLD and VST, SCALE_PICK (R209 to R211), FTAB_LOAD (R185 to R187), and
the seed of a vector engine (R221). A command starts at its own row and ends at VMEM_COMPLETE. -/

namespace Sys2Proof.Machine

/-- The memory bus errors of VLD and VST before any byte moves (R161). -/
def vmBad (c : Cmd) : Bool :=
  fieldOf c.w0 47 14 != 0 || fieldOf c.w1 31 27 != 0 || vmAddr c % 32 != 0 || vmStride c % 32 != 0
    || (List.range (vmRep c + 1)).any (fun i =>
      decide (vmOff c i < 0) || decide ((if vmAcb c then 24 * (acbSize : Int) else (sramSize : Int)) < vmOff c i + 8192))

/-- Fields of SCALE_PICK (R210). -/
def spVd (c : Cmd) : Nat := fieldOf c.w0 13 9
def spVdEn (c : Cmd) : Bool := fieldOf c.w0 14 14 = 1
def spDst (c : Cmd) : Nat := fieldOf c.w0 18 15
def spMargin (c : Cmd) : Nat := fieldOf c.w0 21 19
def spType (c : Cmd) : Nat := fieldOf c.w0 23 22

/-- fmax of a destination (R209). -/
def spFmax : Nat → Option Nat
  | 0 => some 448
  | 1 => some 57344
  | 2 => some 127
  | 3 => some 255
  | 4 => some (255 * 2 ^ 120)
  | 5 => some 65504
  | 7 => some (2 ^ 31 - 1)
  | _ => none

/-- The BAD_FMT cases of SCALE_PICK (R210). -/
def spBad (c : Cmd) : Bool :=
  fieldOf c.w0 47 24 != 0 || fieldOf c.w1 63 27 != 0 || spType c = 3 || (spFmax (spDst c)).isNone || vmAddr c % 32 != 0

/-- The amax that SCALE_PICK reads from lane 0, exactly (R210). -/
def spAmax (c : Cmd) (lane0 : Nat) : Num :=
  if spType c = 2 then (Num.ofInt (toSigned 32 lane0)).abs
  else if spType c = 1 then (bf16.decode (lane0 % 2 ^ 16)).abs
  else (fp32.decode (lane0 % 2 ^ 32)).abs

/-- The scale exponent K (R209). -/
def spK (c : Cmd) (amax : Num) : Int :=
  let k : Int := match amax, spFmax (spDst c) with
    | .fin d, some fmax => if d.m = 0 then 0 else floorLog2Ratio fmax d
    | _, _ => 0
  clampInt (-126) 127 (k - spMargin c)

/-- The scale record (R211). -/
def spRecord (c : Cmd) (lane0 step : Nat) : List Byte :=
  let amax := spAmax c lane0
  let k := spK c amax
  leBytes 1 (ofSigned 8 k) ++ leBytes 1 1 ++ leBytes 1 (spDst c) ++ leBytes 1 (spMargin c) ++ leBytes 4 step
    ++ leBytes 4 (rne32 amax) ++ leBytes 4 (pow2Pat k) ++ leBytes 4 (pow2Pat (-k)) ++ leBytes 12 0

/-- Fields and checks of FTAB_LOAD (R161, R186). -/
def ftPair (c : Cmd) : Nat := fieldOf c.w0 8 4
def ftBad (c : Cmd) : Bool :=
  fieldOf c.w0 47 9 != 0 || fieldOf c.w1 63 27 != 0 || vmAddr c % 64 != 0 || sramSize < vmAddr c + 32832

/-- The header checks of a table pair (R185, R186): true where the pair is good. -/
def ftGood (img : List Byte) : Bool :=
  let lo := fp32.decode (imgWord img 0)
  let hi := fp32.decode (imgWord img 4)
  let sc := fp32.decode (imgWord img 8)
  lo.isFinite && hi.isFinite && Num.ltN lo hi && sc.isFinite && Num.ltN (.fin ⟨false, 0, 0⟩) sc
    && imgWord img 0xC = 0 && zeroIn img 0x30 16
    && ((chunks 16 2048 (img.drop 0x40)).all (fun seg => seg / 2 ^ 96 = 0))

namespace State

/-- Ends the command at the head of a VE's memory queue (R154, R161): it counts for its context. -/
def vmFinish (s : State) (cd ve : Nat) (c : Cmd) : State :=
  let u := s.ve cd ve
  let s := (s.setVe cd ve { u with queue := u.queue.tail, started := false, pins := if c.kind = 2 then [] else u.pins })
  s.bumpCnt cd c.ctx (unitVe ve)

/-- Ends it with a bus error to its context. -/
def vmError (s : State) (cd ve : Nat) (c : Cmd) (cause : Nat) : State :=
  (s.vmFinish cd ve c).ctxError cd c.ctx cause (unitVe ve) c.tag

/-- Starts the command at the head of a VE's memory queue (R161, R175, R176). `bad` says which error its checks find. A queued
command of a reserved KIND is refused, whatever command is asked for. -/
def vmStart (s : State) (cd ve kind : Nat) (bad : Cmd → Option Nat) (begin_ : State → Cmd → State) : State :=
  if !s.dieUp cd || (s.ve cd ve).started then s
  else match (s.ve cd ve).queue with
    | [] => s
    | x :: _ =>
      let c := x.cmd
      let s0 := s
      let s := s.reach cd c.enters
      if c.kind != 1 && c.kind != 2 && c.kind != 0xD && c.kind != 0xE then s.vmError cd ve c causeMemory
      else if c.kind != kind then s0
      else match bad c with
        | some cause => (s.tktClose cd (unitVe ve) c.ctx).vmError cd ve c cause
        | none =>
          if !s.mayStart cd (unitVe ve) c.slot then s.tktHold cd (unitVe ve)
          else
            let s := (s.tktClose cd (unitVe ve) c.ctx).charge cd (unitVe ve) c.slot
            begin_ (s.setVe cd ve { s.ve cd ve with started := true }) c

/-- Reads up to `n` words for a VLD or a table load: the bytes read, whether one was sealed, and how it stopped: 0 not at all, 1 at
a refused or poisoned word, 2 at a word being zeroed. -/
def vmRead (cd ve : Nat) (req : Requester) : Nat → Nat → List Byte → Bool → State → List Byte × Bool × Nat × State
  | 0, _, acc, sl, s => (acc, sl, 0, s)
  | n + 1, a, acc, sl, s =>
    match s.readFor req a with
    | (.word w, s') =>
      let s' := s'.meshRead cd (.ve ve) a
      if tagPoison w.tag then (acc, sl, 1, s') else vmRead cd ve req n (a + 32) (acc ++ leBytes 32 w.data) (sl || tagSealed w.tag) s'
    | (.wait, s') => (acc, sl, 2, s')
    | (_, s') => (acc, sl, 1, s')

/-- Loads registers one after the other (R161): the code of `vmRead`. -/
def vldRun (cd ve : Nat) (c : Cmd) : Nat → Nat → State → Nat × State
  | 0, _, s => (0, s)
  | n + 1, i, s =>
    match vmRead cd ve (unitReq c.slot) 256 (vmPhys cd c (vmOff c i).toNat) [] false s with
    | (bs, sl, 0, s') => vldRun cd ve c n (i + 1) (s'.setVreg cd ve (vmReg c + i) bs sl)
    | (bs, sl, k, s') => (k, if bs.isEmpty then s' else s'.setVreg cd ve (vmReg c + i) bs sl)

/-- Stores words one after the other (R161). -/
def vstWords (cd ve : Nat) (req : Requester) (sl : Bool) : List (Nat × List Byte) → State → Nat × State
  | [], s => (0, s)
  | (a, bs) :: t, s =>
    match s.judge req a with
    | .ok => vstWords cd ve req sl t ((s.writeWord req a (leNat bs) false sl).meshWrite cd (.ve ve) a)
    | .wait => (2, s)
    | _ => (1, s)

/-- The contents of a register that a VST stores (R161): the old ones where it keeps them, else the ones that the beat which the die
has reached reads. -/
def vstReg (s : State) (cd ve r : Nat) : List Byte × Bool :=
  match (s.ve cd ve).pins.find? (fun p => p.1 == r % 32) with
  | some p => p.2
  | none => s.vregAt cd ve r (s.beatOf cd)

/-- The words of a VST register. -/
def vstList (s : State) (cd ve : Nat) (c : Cmd) (i : Nat) : List (Nat × List Byte) :=
  let bs := (s.vstReg cd ve (vmReg c + i)).1
  (List.range 256).map (fun k => (vmPhys cd c (vmOff c i).toNat + 32 * k, (bs.drop (32 * k)).take 32))

def vstRun (cd ve : Nat) (c : Cmd) : Nat → Nat → State → Nat × State
  | 0, _, s => (0, s)
  | n + 1, i, s =>
    match vstWords cd ve (unitReq c.slot) (s.vstReg cd ve (vmReg c + i)).2 (s.vstList cd ve c i) s with
    | (0, s') => vstRun cd ve c n (i + 1) s'
    | r => r

end State

/-- VLD (R161): starts once its checks pass. -/
def execVld (cd : Fin 8) (ve : Fin 8) (s : State) : Out :=
  .next (s.gated cd (s.vmStart cd ve 1 (fun c => if vmBad c then some causeMemory else none) (fun s _ => s)))

/-- VST (R161). -/
def execVst (cd : Fin 8) (ve : Fin 8) (s : State) : Out :=
  .next (s.gated cd (s.vmStart cd ve 2 (fun c => if vmBad c then some causeMemory else none) (fun s _ => s)))

/-- SCALE_PICK (R210): its refusals are BAD_FMT. -/
def execScalePick (cd : Fin 8) (ve : Fin 8) (s : State) : Out :=
  .next (s.gated cd (s.vmStart cd ve 0xD (fun c => if spBad c then some causeBadFmt else none) (fun s _ => s)))

/-- FTAB_LOAD (R186, R187): VALID clears as the load begins. -/
def execFtabLoad (cd : Fin 8) (ve : Fin 8) (s : State) : Out :=
  .next (s.gated cd (s.vmStart cd ve 0xE (fun c => if ftBad c then some causeMemory else none)
    (fun s c => s.setBit .VE_FTAB_STATUS_VALID cd ve 0 (ftPair c) false)))

/-- VMEM_COMPLETE (R161, R186, R187, R210): the command moves its words and counts. A word that is being zeroed makes the command
wait (R257); a refused, poisoned or uncorrectable word ends it with a memory bus error, and what has moved stays. -/
def execVmemComplete (cd : Fin 8) (ve : Fin 8) (s : State) : Out :=
  let s0 := s
  .next (s.gated cd (
    match (s.ve cd ve).queue with
    | [] => s
    | x :: _ =>
      if !(s.ve cd ve).started then s
      else
        let c := x.cmd
        let s := if c.kind = 1 then s.reachVe cd ve (vmRegs c) else if c.kind = 0xD && spVdEn c then s.reachVe cd ve [spVd c] else s
        let fin (r : Nat × State) : State :=
          if r.1 = 0 then r.2.vmFinish cd ve c else if r.1 = 1 then r.2.vmError cd ve c causeMemory else s0
        if c.kind = 1 then fin (State.vldRun cd ve c (vmRep c + 1) 0 s)
        else if c.kind = 2 then fin (State.vstRun cd ve c (vmRep c + 1) 0 s)
        else if c.kind = 0xD then
          let rec' := spRecord c x.lane0 (s.fld .NUM_STEP_STEP mh0 c.slot)
          match State.vstWords cd ve (unitReq c.slot) x.laneSealed [(sramAddr cd (vmAddr c), rec')] s with
          | (0, s') =>
            let s' := if spVdEn c then
                s'.setVreg cd ve (spVd c) (unchunks 4 (List.replicate 2048 (pow2Pat (spK c (spAmax c x.lane0))))) x.laneSealed
              else s'
            s'.vmFinish cd ve c
          | r => fin r
        else
          match State.vmRead cd ve (unitReq c.slot) 1026 (sramAddr cd (vmAddr c)) [] false s with
          | (bs, sl, 0, s') =>
            if ftGood bs then
              let s' := { s' with ftab := s'.ftab.splice (ftabBase cd ve (ftPair c)) bs,
                                  pairEpoch := s'.pairEpoch.set 0 (Key.at cd ve (ftPair c)) (s'.fld .VE_FTAB_STATUS_EPOCH cd ve),
                                  pairSealed := s'.pairSealed.set false (Key.at cd ve (ftPair c)) sl }
              (s'.setBit .VE_FTAB_STATUS_VALID cd ve 0 (ftPair c) true).vmFinish cd ve c
            else s'.vmError cd ve c causeBadFmt
          | (_, _, k, s') => fin (k, s')))

/-- VE_SR_SEED_WRITE (R86, R221): through the CSR window, under supervisor authority. -/
def execVeSrSeedWrite (acc : Accessor) (cd : Fin 8) (ve : Fin 8) (v : Word64) (s : State) : Out :=
  .next (s.regWrite cd (isSup acc) fun s =>
    some (s.writeVeSeed cd ve v))

end Sys2Proof.Machine
end

