-- ==== Sys2Proof/Machine/Cut.lean ====
section
/-! DEFINITION. Abandoning a slot's work in one unit of a compute die (R448 to R450; "When the array is told to abandon its work",
"When a subscriber is abandoned during a ride", "When an abandonment meets a suspended stream"). -/

namespace Sys2Proof.Machine

/-- What a cut did: the state, how many operations it abandoned, and the contexts that had issued them. -/
structure Cut where
  st : State
  n : Nat
  ctxs : List Nat
  deriving DecidableEq, Repr

namespace State

/-- The rows that the oldest command of an array has written when the core stops (R85): how many is a free value; rows already
written stay, and the row begun holds its old or its new value. -/
def cutDrain (s : State) (cd n : Nat) (r : Running) : State :=
  let rows := if r.cmd.kind = 1 then (if r.aLeft = 0 && r.bLeft = 0 then formRows (arrFields r.cmd).form else 0)
    else if (arrFields r.cmd).heldB then r.aLines.length else r.bLines.length
  if rows = 0 then s
  else
    let f := s.takeFree
    let k := f.1 % (rows + 1)
    let d := if r.cmd.kind = 1 then f.2.residentRows cd n r k else f.2.holdRows cd n r k
    d.st.setArray cd n { d.st.array cd n with gen := d.gen }

/-- Clears the refusal bits of an array and lets it leave FAULT (R85). -/
def arrRefusalClear (s : State) (cd n : Nat) : State :=
  (((s.setFld .ARR_FAULT_BAD_CMD cd n 0 0).setFld .ARR_FAULT_STALE_STATE cd n 0 0).setFld .ARR_FAULT_ACB_RANGE cd n 0 0).arrLeaveFault cd n
    |>.setHeldBy cd n none

/-- Clears the bits that hold a feed queue (R114). -/
def fdrRefusalClear (s : State) (cd bob : Nat) : State :=
  ((s.setFld .FDR_FAULT_BAD_FEED cd bob 0 0).setFld .FDR_FAULT_GROUP cd bob 0 0).setHeldBy cd (0x18 + bob) none

/-- Clears the bits that hold a station queue (R114). -/
def carRefusalClear (s : State) (cd g : Nat) : State :=
  (((s.setFld .CAR_FAULT_BAD_INJ cd 0 0 0).setFld .CAR_FAULT_RING_OFF cd 0 0 0).carRelease cd).setHeldBy cd (unitStation g) none

/-- An array abandons a slot's work (R85): the core stops, queued commands are discarded, and the held and accumulator banks are
tagged epoch 0, unless the core runs another slot's command (log entry 35). -/
def cutArray (s : State) (cd n slot : Nat) : Cut :=
  let a := s.array cd n
  let q := a.queue.filter (fun e => e.slot = slot)
  let runs := a.inflight.filter (fun r => r.cmd.slot = slot)
  let load := match a.loading with
    | some r => if r.cmd.slot = slot then [r] else []
    | none => []
  let gone := q ++ (runs ++ load).map (fun r => .cmd r.cmd)
  let s := match a.queue.head? with
    | some e => if e.slot = slot then s.tktClose cd n e.ctx else s
    | none => s
  let s := match a.inflight with
    | r :: _ => if r.cmd.slot = slot then s.cutDrain cd n r else s
    | [] => s
  let a := { s.array cd n with
    queue := a.queue.filter (fun e => e.slot ≠ slot), inflight := a.inflight.filter (fun r => r.cmd.slot ≠ slot),
    loading := if load.isEmpty then a.loading else none }
  let idle := a.inflight.isEmpty && a.loading.isNone
  let s : State :=
    if gone.isEmpty || !idle then s.setArray cd n a
    else (s.setArray cd n { a with bank0 := { a.bank0 with epoch := 0 }, bank1 := { a.bank1 with epoch := 0 }, accEpoch0 := 0,
                                   accEpoch1 := 0 }).setFld .ARR_STATUS_BACK_FULL cd n 0 0
  let s : State := if load.isEmpty then s else s.setFld .ARR_STATUS_LOAD_STALL cd n 0 0
  let s : State := (s.arrDiscard cd n gone).arrSettle cd n
  let s := if s.heldFor cd n = some slot then s.arrRefusalClear cd n else s
  ⟨s, gone.length, gone.map ArrEntry.ctx⟩

/-- Withdraws a registration from the uses of a slot: one not armed loses it, and an armed one copies there no more. A use that
nothing declares or registers with is gone. -/
def withdraw (s : State) (cd slot r : Nat) : State :=
  { s with uses := (s.uses.map (fun e => if e.1.d = cd then
      (e.1, (e.2.map (fun u => if u.slot = slot then { u with regs := u.regs.erase r } else u)).filter
        (fun u => u.declared || !u.regs.isEmpty)) else e)).filter (fun e => !e.2.isEmpty) }

/-- A bobbin abandons a slot's work (R114): queued commands go, its slots of that job slot return to FREE, and its registrations
end. A slot that was READY had completed. -/
def cutBobbin (s : State) (cd bob slot : Nat) : Cut :=
  let b := s.bobbin cd bob
  let q := b.queue.filter (fun c => c.slot = slot)
  let mine := b.order.filterMap (fun k => match s.fills.get none ⟨0, cd, bob, k⟩ with
    | some c => if c.slot = slot then some (k, c) else none
    | none => none)
  let open_ := mine.filter (fun e => s.fld .FDR_SLOT_STATE cd bob e.1 < 3)
  let s := s.setBobbin cd bob { b with queue := b.queue.filter (fun c => c.slot ≠ slot) }
  let s := mine.foldl (fun s e => s.dropSlot cd bob e.1) s
  let s := if mine.isEmpty then s else s.withdraw cd slot bob
  let s := if (b.queue.head?.map Cmd.slot) = some slot then s.setFld .FDR_STATUS_WAITING cd bob 0 0 else s
  let s := if s.heldFor cd (0x18 + bob) = some slot then s.fdrRefusalClear cd bob else s
  ⟨s, q.length + open_.length, (q ++ open_.map Prod.snd).map Cmd.ctx⟩

/-- Ends a station's reservations on the rings of a die. -/
def dropReservations (s : State) (cd st : Nat) : State :=
  (s.rings.filter (fun e => e.1.d == cd && e.2.reserved == some st)).foldl
    (fun s e => s.setRingSlot cd e.1.u e.1.i { e.2 with reserved := none }) s

/-- A station abandons a slot's work (R114): a tile that is already being injected rides on unchanged; everything else of the slot
leaves the queue, with its declaration or registration. -/
def cutStation (s : State) (cd g slot : Nat) : Cut :=
  let x := s.station cd g
  let riding (c : Cmd) : Bool := match x.useId.bind (fun i => s.useOf cd (tkOf c) i) with
    | some u => decide (0 < u.sent)
    | none => false
  let headStays := match x.queue with
    | c :: _ => c.slot != slot || (c.kind = 1 && x.started && riding c)
    | [] => true
  let gone := (if headStays then x.queue.tail else x.queue).filter (fun c => c.slot = slot)
  let s : State :=
    if headStays then s
    else
      let s := (s.withdraw cd slot (48 + g)).dropReservations cd (8 * g + 4)
      match x.queue, x.useId with
      | c :: _, some i => s.setUses cd (tkOf c) ((s.tkUses cd (tkOf c)).filter (fun u => u.id ≠ i))
      | _, _ => s
  let rest := (if headStays then x.queue.take 1 else []) ++ (if headStays then x.queue.tail else x.queue).filter (fun c => c.slot ≠ slot)
  let copy : List Cmd := match x.copying with
    | some e => if e.1.slot = slot then [e.1] else []
    | none => []
  let keep := if copy.isEmpty then x.copying else none
  let s : State := s.setStation cd g
    (if headStays then { x with queue := rest, copying := keep } else { Station.reset with queue := rest, held := x.held, copying := keep })
  let s := if s.heldFor cd (unitStation g) = some slot then s.carRefusalClear cd g else s
  ⟨s, (copy ++ gone).length, (copy ++ gone).map Cmd.ctx⟩

/-- A vector memory command stopped at whole words (R450): how many it moved is a free value. -/
def cutVmem (s : State) (cd ve : Nat) (x : VeCmd) : State :=
  let c := x.cmd
  if c.kind = 1 then
    let f := s.takeFree
    let k := f.1 % (256 * (vmRep c + 1) + 1)
    let r := vldRun cd ve c (k / 256) 0 (f.2.reachVe cd ve (vmRegs c))
    if r.1 != 0 || k % 256 = 0 then r.2
    else match vmRead cd ve (unitReq c.slot) (k % 256) (vmPhys cd c (vmOff c (k / 256)).toNat) [] false r.2 with
      | (bs, sl, _, s') => if bs.isEmpty then s' else s'.setVreg cd ve (vmReg c + k / 256) bs sl
  else if c.kind = 2 then
    let f := s.takeFree
    let all := (List.range (vmRep c + 1)).flatMap (fun i => (f.2.vstList cd ve c i).map (fun w => (i, w)))
    ((all.take (f.1 % (all.length + 1))).foldl (fun (acc : Bool × State) e =>
      if acc.1 then
        let r := vstWords cd ve (unitReq c.slot) (acc.2.vstReg cd ve (vmReg c + e.1)).2 [e.2] acc.2
        (r.1 = 0, r.2)
      else acc) (true, f.2)).2
  else if c.kind = 0xD then
    let f := s.takeFree
    if f.1 % 2 = 0 then f.2
    else (vstWords cd ve (unitReq c.slot) x.laneSealed [(sramAddr cd (vmAddr c), spRecord c x.lane0 (f.2.fld .NUM_STEP_STEP mh0 c.slot))] f.2).2
  else s

/-- Returns a VE's charge to a slot at once when no result is still in flight (R449); otherwise the charge stays until then. -/
def cutVeCharge (s : State) (cd ve slot : Nat) : State :=
  if s.charged cd (unitVe ve) = some slot && s.unitFree cd (unitVe ve) slot then s.release cd (unitVe ve) else s

/-- A VE memory queue abandons a slot's work. -/
def cutVe (s : State) (cd ve slot : Nat) : Cut :=
  let u := s.ve cd ve
  let gone := u.queue.filter (fun x => x.cmd.slot = slot)
  let s := match u.queue with
    | x :: _ => if u.started && x.cmd.slot = slot then s.cutVmem cd ve x else s
    | [] => s
  let headGone : Bool := match u.queue with
    | x :: _ => x.cmd.slot == slot
    | [] => false
  let s := match u.queue.head? with
    | some x => if headGone then s.tktClose cd (unitVe ve) x.cmd.ctx else s
    | none => s
  let s := s.setVe cd ve { s.ve cd ve with queue := u.queue.filter (fun x => x.cmd.slot ≠ slot), started := u.started && !headGone,
                                           pins := if gone.isEmpty then u.pins else [] }
  ⟨s.cutVeCharge cd ve slot, gone.length, gone.map (fun x => x.cmd.ctx)⟩

/-- Stream tiles of a slot that an engine was filling and that no longer can be completed (R109): one not yet injected is cancelled,
and one whose flits are already riding sends no more (log entry 36). -/
def cutGateway (s : State) (cd g slot : Nat) (mine : GwTile → Bool) : State :=
  let ts := s.gateway cd g
  ts.foldl (fun (s : State) t =>
    let sent := match t.useId.bind (fun i => s.useOf cd t.ticket i) with
      | some u => u.sent
      | none => 0
    if t.slot != slot || !mine t || (0 < sent && 65536 ≤ t.got) then s
    else
      let s := s.setGateway cd g ((s.gateway cd g).erase t)
      let s := s.dropReservations cd (8 * g)
      match t.useId with
      | some i =>
        if sent = 0 then s.setUses cd t.ticket ((s.tkUses cd t.ticket).filter (fun u => u.id ≠ i))
        else s.mapUse cd t.ticket i (fun u => { u with sent := 32 })
      | none => s) s

/-- A stream engine abandons a slot's work: queued commands, and streams at their watermarks. -/
def cutSe (s : State) (cd se slot : Nat) : Cut :=
  let u := s.seUnit cd se
  let q := u.queue.filter (fun c => c.slot = slot)
  let runs := (List.range 4).filterMap (fun ch => (s.stream cd se ch).bind (fun r => if r.cmd.slot = slot then some (ch, r) else none))
  let s := match u.queue.head? with
    | some c => if c.slot = slot then s.tktClose cd (unitSe se) c.ctx else s
    | none => s
  let s := s.setSeUnit cd se { u with queue := u.queue.filter (fun c => c.slot ≠ slot) }
  let s := runs.foldl (fun s e => s.abandonStream cd se e.1 e.2) s
  let s := (List.range 4).foldl (fun s g => s.cutGateway cd g slot (fun t => t.src % 32 / 4 = se)) s
  ⟨s, q.length + runs.length, q.map Cmd.ctx ++ runs.map (fun e => e.2.cmd.ctx)⟩

/-- A charged unit returns its charge to a slot whose work it abandoned (R449). -/
def cutCharge (s : State) (cd u slot : Nat) : State :=
  if s.charged cd u = some slot && s.unitIdle cd u slot then s.release cd u else s

/-- Abandons a slot's work in a unit, in the numbering of R154. -/
def cutUnit (s : State) (cd u slot : Nat) : Cut :=
  let c :=
    if u < 0x18 then s.cutArray cd u slot
    else if u < 0x48 then s.cutBobbin cd (u - 0x18) slot
    else if u < 0x4C then s.cutStation cd (u - 0x48) slot
    else if u < 0x50 then ⟨s, 0, []⟩
    else if u < 0x58 then s.cutVe cd (u - 0x50) slot
    else if u < 0x60 then s.cutSe cd (u - 0x58) slot
    else ⟨s, 0, []⟩
  { c with st := if u < 0x50 || 0x58 ≤ u then c.st.cutCharge cd u slot else c.st }

/-- The units with queues (R154). -/
def cutUnits : List Nat := List.range 0x60

/-- A context with abandoned work faults, unless it is FAULTED or DONE already (R396, R449). -/
def faultCtx (s : State) (cd c cause unit : Nat) : State :=
  if s.ctxState cd c = ctxFaulted || s.ctxState cd c = ctxDone || s.ctxState cd c = ctxFree then s
  else s.ctxError cd c cause unit 0

/-- The carousel's part of an abort of a whole slot (R98, "When a subscriber is abandoned during a ride"): registrations not yet armed
are withdrawn, and tiles not yet injected are cancelled. -/
def cutUses (s : State) (cd slot : Nat) : State :=
  let s := { s with uses := (s.uses.map (fun e => if e.1.d = cd then
      (e.1, e.2.filter (fun u => u.slot ≠ slot || 0 < u.sent)) else e)).filter (fun e => !e.2.isEmpty) }
  (List.range 4).foldl (fun s g => s.cutGateway cd g slot (fun _ => true)) s

end State

end Sys2Proof.Machine
end

