-- ==== Sys2Proof/Machine/Memories.lean ====
section
/-! DEFINITION. Memory accesses at their controller, zeroing, the patrol scrubber, the frame map and the raw window (chapter
"Memory tiers and stored-data codes"). Register accesses through the same address map stand in Csr. -/

namespace Sys2Proof.Machine

namespace State

/-- Counts a refusal of R489. -/
def countBlocked (s : State) : State := s.incFld .TS_CNT_BLOCK_COUNT iod0 0 0

/-- A core's load or fetch that meets sealed data (R277, R489). -/
def coreRefused (s : State) : WordAns × State := (.accessFault, s.countBlocked.incFld .SEAL_CNT_CORE_COUNT iod0 0 0)

/-- Reads `n` bytes of one word for a requester, with the outcomes of R30, R31, R72, R255, R256, R277, R488 and R489. A word that is
being zeroed reads as zero: the access waits, and then finds zeros (R257). -/
def readPiece (s : State) (req : Requester) (a n : Nat) : WordAns × State :=
  let give (w : Word) : WordAns := .data ((leBytes 32 w.data).drop (a % 32) |>.take n) w.tag
  let s := s.meshOuter a false
  if s.judge req a = .wait then (give ⟨0, 0⟩, s)
  else match req with
  | .core _ _ =>
    if s.judge req a != .ok then (.busError, s)
    else if s.sealFrameAt a then s.coreRefused
    else
      let r := s.fetchWord req a
      if tagSealed r.1.tag then r.2.coreRefused
      else if tagPoison r.1.tag then (.accessFault, r.2)
      else (give r.1, r.2)
  | .supervisor =>
    if s.judge req a != .ok then (.busError, s)
    else
      let r := s.fetchWord req a
      if tagSealed r.1.tag then (.busError, r.2.countBlocked)
      else if tagPoison r.1.tag then (.busError, r.2)
      else (give r.1, r.2)
  | _ =>
    match s.readFor req a with
    | (.word w, s) => (give w, s)
    | (_, s) => (.busError, s)

/-- Reads the words of a request in order (R30). -/
def readPieces (s : State) (req : Requester) : Nat → Nat → Nat → List WordAns × State
  | 0, _, _ => ([], s)
  | fuel + 1, a, n =>
    if n = 0 then ([], s)
    else
      let k := min n (32 - a % 32)
      let r := s.readPiece req a k
      let rest := r.2.readPieces req fuel (a + k) (n - k)
      (r.1 :: rest.1, rest.2)

/-- The armed window that holds an address, if any (R495). -/
def windowAt (s : State) (a : Nat) : Option Nat :=
  (List.range 4).find? (fun slot => s.flagBit .TS_STATUS_ARMED iod0 0 0 slot
    && s.fld .TS_WIN_BASE_BASE iod0 slot ≤ a / 2 ^ 21 && a / 2 ^ 21 < s.fld .TS_WIN_BASE_BASE iod0 slot + s.fld .TS_WIN_LEN_FRAMES iod0 slot)

/-- A requester may write an address as far as release windows go (R495): an armed window is written only by units that act for its
slot. -/
def windowLets (s : State) (req : Requester) (a : Nat) : Bool :=
  match s.windowAt a with
  | some x => reqSlot req = some x
  | none => true

/-- A core's store of part of a word meets a poisoned one (R277): its cache block is not filled. -/
def storeMeetsPoison (s : State) (req : Requester) (p : Nat × Nat × List Byte) : Bool × State :=
  match req with
  | .core _ _ =>
    if p.2.2.length = 32 then (false, s)
    else let r := s.decodeAt p.1; (tagPoison r.1.tag, r.2)
  | _ => (false, s)

/-- Writes the words of a request in order (R30, R38, R267, R277, R495). -/
def writePieces (s : State) (req : Requester) (a : Nat) (bs : List Byte) (tag : Nat) : List WordAns × State :=
  (wordPieces (bs.length + 1) a bs).foldl (fun acc p =>
    let s := acc.2.meshOuter p.1 true
    if s.judge req p.1 = .ok && s.windowLets req p.1 then
      let r := s.storeMeetsPoison req p
      if r.1 then (acc.1 ++ [WordAns.accessFault], r.2)
      else (acc.1 ++ [WordAns.written], r.2.mergeWord req p.1 p.2.1 p.2.2 (tagPoison tag) (tagSealed tag))
    else (acc.1 ++ [WordAns.busError], s)) ([], s)

/-- A memory access by physical address: it waits while one of its words is being zeroed (R257) or its way is stopped (R337), and is a bus error as a whole
when its address has a 1 in bits [63:52] (R30). -/
def access (s : State) (m : MemAccess) : State :=
  match m with
  | .read req a n =>
    if 2 ^ 52 ≤ a then { s with resp := .busError }
    else if (wordsOf a n).any (fun w => s.judge req w = .wait) then { s with memWait := s.memWait ++ [m], resp := .waits }
    else let r := s.readPieces req n a n; { r.2 with resp := .words r.1 }
  | .write req a bs tag =>
    if 2 ^ 52 ≤ a then { s with resp := .busError }
    else if (wordsOf a bs.length).any (fun w => s.judge req w = .wait) then { s with memWait := s.memWait ++ [m], resp := .waits }
    else let r := s.writePieces req a bs tag; { r.2 with resp := .words r.1 }

/-- The accesses that waited try again, oldest first (R257). -/
def accessesProceed (s : State) : State :=
  s.memWait.foldl (fun s m => s.access m) { s with memWait := [] }

/-- Starts the zeroing of frames that one command changes, each to its new entry; a frame that was sealed goes first (R257). -/
def zeroFrames (s : State) (fs : List (Nat × Nat × Frame)) : State :=
  let b := s.zeroBatch + 1
  fs.foldl (fun s e =>
    let old := s.frame e.1 e.2.1
    s.setFrame e.1 e.2.1 { e.2.2 with zeroing := true, batch := b, first := old.isSealed || e.2.2.isSealed })
    { s with zeroBatch := b }

/-- Starts the zeroing of a stage SRAM block under an owner (R256): a new one, or the same one under a new class. -/
def zeroBlock (s : State) (cd k : Nat) (owner : Option Nat) (moved : Bool := true) : State := s.setBlock cd k ⟨owner, true, moved⟩

/-- Address of a frame. -/
def frameAddr (tier n : Nat) : Nat := (if tier = 0 then 0 else tier2Base) + 2 ^ 21 * n

/-- A hub that holds part of an HBM frame stands still (R337): the first 24 granules of a frame lie on every stack that it uses (R249 to
R251). -/
def frameHalted (s : State) (n : Nat) : Bool :=
  (List.range 24).any (fun k => s.halted (mhDie ((s.hbmMap (2 ^ 21 * n + 2048 * k)).1 / 6)))

/-- The zeroing of a frame ends, unless a sealed frame of the same change still goes before it (R257). -/
def zeroFrameDone (s : State) (tier n : Nat) : State :=
  let f := s.frame tier n
  if !f.zeroing then s
  else if !f.first && s.frames.any (fun e => e.2.zeroing && e.2.first && e.2.batch == f.batch) then s
  else
    let s := (s.zeroRange (frameAddr tier n) (2 ^ 21)).setFrame tier n { f with zeroing := false, batch := 0, first := false }
    -- a LIGHT zero word has side field 0, and so has a STRONG one
    s.accessesProceed

/-- The zeroing of a stage SRAM block ends. -/
def zeroBlockDone (s : State) (cd k : Nat) : State :=
  let b := s.block cd k
  if !b.zeroing then s
  else ((s.zeroRange (sramAddr cd (2 ^ 16 * k)) (2 ^ 16)).setBlock cd k { b with zeroing := false, moved := false }).accessesProceed

end State

/-- ZEROING_COMPLETE (R257): tier 0 HBM and 1 tier 2 name a frame, tier 2 a stage SRAM block of a compute die (R440). -/
def execZeroingComplete (tier : Fin 3) (cd : Fin 8) (index : Nat) (s : State) : Out :=
  .next (
    if tier.val = 2 then s.gated cd (s.zeroBlockDone cd index)
    else if tier.val = 0 && s.frameHalted index then s
    else s.zeroFrameDone tier index)

namespace State

/-- The word address of a stack's granule (R250, R251 read backwards). -/
def hbmUnmap (s : State) (stack granule : Nat) : Nat :=
  let l := s.hlGib
  let h := stack / 6
  let b := stack % 6 / 3
  let c := stack % 3
  if granule < 2 ^ 19 * (48 - l) then
    let n := granule
    let t := 3 * n + (c + 2 * n) % 3
    2048 * (8 * t + xor3 (2 * h + b) n (n / 8))
  else
    let n := granule - 2 ^ 19 * (48 - l)
    let k := 3 * n + (c + 2 * n) % 3
    2 ^ 30 * (24 * (48 - l)) + 2 ^ 30 * (6 * l * h) + 2048 * (2 * k + (b + n) % 2)

/-- The word address of a channel's granule (R253 read backwards). -/
def t2Unmap (channel granule : Nat) : Nat := tier2Base + 2048 * (6 * granule + channel)

/-- One word of a patrol scrub: a corrected word is written back, an uncorrectable one is poisoned, and words already poisoned
and frames being zeroed are skipped (R274, R276, R280). -/
def scrubAt (s : State) (die a : Nat) : State :=
  if !s.serves a || s.zeroingAt a then s
  else
    let strong := s.strongAt a
    match decodeWord strong (s.rawData a) (s.rawSide a) with
    | .clean _ _ => s
    | .corrected d t syn pos =>
      if tagPoison t then s
      else ((s.logCorrected a syn pos strong).storeWord a ⟨d, t⟩).incFld .SCRUB_CNT_CE_COUNT die 0 0
    | .uncorrectable _ _ => (s.decodeAt a).2.incFld .SCRUB_CNT_UE_COUNT die 0 0

/-- Advances a scrubber: words within a granule, then the die's controllers, then the next granule (the order is a DESIGN CHOICE,
log entry 34); PASSES counts the end of a pass. -/
def scrubNext (s : State) (die ctls granules : Nat) : State :=
  let p := s.scrubs.get 0 (Key.at die)
  if p + 1 < ctls * 64 then { s with scrubs := s.scrubs.set 0 (Key.at die) (p + 1) }
  else
    let g := s.fld .SCRUB_STATUS_POS die
    let s := { s with scrubs := s.scrubs.set 0 (Key.at die) 0 }
    if g + 1 < granules then s.setFld .SCRUB_STATUS_POS die 0 0 (g + 1)
    else (s.setFld .SCRUB_STATUS_POS die 0 0 0).incFld .SCRUB_STATUS_PASSES die 0 0

/-- One step of the scrubber of a hub (0 to 3) or of an I/O die (4, 5). -/
def scrub (s : State) (k : Nat) : State :=
  let die := if k < 4 then mhDie k else iodDie (k - 4)
  if !s.dieUp die || s.halted die || !s.flag .SCRUB_CTL_EN die then s
  else
    let p := s.scrubs.get 0 (Key.at die)
    let g := s.fld .SCRUB_STATUS_POS die
    if k < 4 then (s.scrubAt die (s.hbmUnmap (6 * k + p / 64) g + 32 * (p % 64))).scrubNext die 6 (48 * 2 ^ 19)
    else (s.scrubAt die (t2Unmap (3 * (k - 4) + p / 64) g + 32 * (p % 64))).scrubNext die 3 (2 ^ 27)

end State

/-- SCRUB_WORD (R280). -/
def execScrubWord (die : Fin 6) (s : State) : Out := .next (s.scrub die)

/-- Owner codes of MEM_FRAME_DATA. -/
def ownerOf : Nat → Option Owner
  | 0 => some .free
  | 1 => some .system
  | 4 => some (.slot 0)
  | 5 => some (.slot 1)
  | 6 => some (.slot 2)
  | 7 => some (.slot 3)
  | _ => none

def ownerCode : Owner → Nat
  | .free => 0
  | .system => 1
  | .slot x => 4 + x

def frameUseOf : Nat → FrameUse
  | 1 => .stash
  | 2 => .spill
  | 3 => .lo
  | _ => .ordinary

def useCode : FrameUse → Nat
  | .ordinary => 0
  | .stash => 1
  | .spill => 2
  | .lo => 3

/-- Frames of a tier. -/
def frameCount (tier : Nat) : Nat := if tier = 0 then 589824 else 786432

namespace State

/-- The rules of R254 for the USE of a frame: STASH in a hub-local window, SPILL in tier 2, LO in HBM. -/
def useFits (s : State) (tier n : Nat) (u : FrameUse) : Bool :=
  match u with
  | .ordinary => true
  | .stash => tier == 0 && decide (2 ^ 30 * (24 * (48 - s.hlGib)) ≤ 2 ^ 21 * n)
  | .spill => tier == 1
  | .lo => tier == 0

/-- The frame-map rules of R254 and R32: the reserved tier-2 range consists of SYSTEM frames. -/
def entryFits (s : State) (tier n : Nat) (o : Owner) (u : FrameUse) : Bool :=
  s.useFits tier n u && (o = .system || tier = 0 || decide (n < systemFrames))

/-- SEAL may be set (R485): strap SEAL_EN and an installed policy. -/
def sealAllowed (s : State) : Bool := s.flag .ID_STATUS_SEAL_EN iod0 && s.policy.isSome

/-- The MEM_FRAME_DATA value of a frame. -/
def frameWord (s : State) (tier n : Nat) : Nat :=
  if n < frameCount tier then
    let f := s.frame tier n
    ownerCode f.owner + useCode f.use * 8 + (if f.strong then 32 else 0) + (if f.isSealed then 64 else 0) + (if f.zeroing then 128 else 0)
  else 0

/-- A write of MEM_FRAME_DATA (R254, R257, R285, R485): `none` where it is refused. -/
def writeFrameData (s : State) (v : Nat) : Option State :=
  let tier := s.fld .MEM_FRAME_IDX_TIER mh0
  let n := s.fld .MEM_FRAME_IDX_FRAME mh0
  let u := frameUseOf (bits v 4 3)
  let seal1 := v.testBit 6
  let old := s.frame tier n
  match ownerOf (v % 8) with
  | none => none
  | some o =>
    if frameCount tier ≤ n || old.zeroing || !s.entryFits tier n o u || (seal1 && !s.sealAllowed) then none
    else
      let new : Frame := { old with owner := o, use := u, strong := v.testBit 5, isSealed := seal1 }
      if new.owner = old.owner && new.strong = old.strong then some (s.setFrame tier n new) else some (s.zeroFrames [(tier, n, new)])

/-- A write of SRAM_CLASS instance k (R256, R257, R285): each changed bit zeroes its block, none of which may be being zeroed. -/
def writeSramClass (s : State) (cd k v : Nat) : Option State :=
  let old := s.fld .SRAM_CLASS_STRONG cd 0 k
  let changed := (List.range 64).filter (fun b => old.testBit b != v.testBit b)
  if changed.any (fun b => (s.block cd (64 * k + b)).zeroing) then none
  else some (changed.foldl (fun s b => s.zeroBlock cd (64 * k + b) (s.block cd (64 * k + b)).owner false) (s.setFld .SRAM_CLASS_STRONG cd 0 k v))

end State

/-- MEM_FRAME_DATA_WRITE (R285): supervisor authority; the frame is the one MEM_FRAME_IDX names. -/
def execMemFrameDataWrite (acc : Accessor) (v : Word64) (s : State) : Out :=
  .next (s.regWrite mh0 (isSup acc) fun s => s.writeFrameData v.toNat)

/-- SRAM_CLASS_WRITE (R285). -/
def execSramClassWrite (acc : Accessor) (cd : Fin 8) (k : Fin 32) (v : Word64) (s : State) : Out :=
  .next (s.regWrite cd (isSup acc) fun s => s.writeSramClass cd k v.toNat)

/-- The error block of a table-holding controller (R275): stacks HS0 to HS23, channels T2C0 to T2C5, then the stage SRAM groups
CD × 4 + g. -/
def rawBlock (ctl : Nat) : Nat × Nat :=
  if ctl < 24 then (mhDie (ctl / 6), ctl % 6)
  else if ctl < 30 then (iodDie ((ctl - 24) / 3), (ctl - 24) % 3)
  else ((ctl - 30) / 4, (ctl - 30) % 4)

namespace State

/-- Refuses a raw access (R284); one that is refused for a sealed word counts under R489. -/
def rawRefuse (s : State) (d u : Nat) (isSealed : Bool) : State :=
  (if isSealed then s.countBlocked else s).setFld .ERR_RAW_CMD_REFUSED d u 0 1

/-- A raw access of a controller (R284). -/
def rawAccess (s : State) (d u : Nat) (write : Bool) : State :=
  let a := s.fld .ERR_RAW_ADDR_ADDR d u * 32
  let side := s.fld .ERR_RAW_SIDE_SIDE d u
  if s.errBlock a != some (d, u) then s.rawRefuse d u false
  else if (s.rawSide a).testBit 1 || (write && side.testBit 1) then s.rawRefuse d u true
  else if write then
    let data := ((List.range 4).map (fun j => s.fld .ERR_RAW_DATA_DATA d u j * 2 ^ (64 * j))).foldl (· + ·) 0
    let s := s.closeMerge a
    let s := { s with hcLines := s.hcLines.clear (fun k => decide (k.i = a / 256) && decide (a < hbmEnd)) }
    s.storeRaw a data side
  else
    let data := s.rawData a
    let s := (List.range 4).foldl (fun s j => s.setFld .ERR_RAW_DATA_DATA d u j (data / 2 ^ (64 * j))) s
    s.setFld .ERR_RAW_SIDE_SIDE d u 0 (s.rawSide a)

end State

/-- RAW_READ (R284, R285): a write of ERR_RAW_CMD with OP = 1. -/
def execRawRead (acc : Accessor) (ctl : Fin 62) (s : State) : Out :=
  .next (s.regWrite (rawBlock ctl).1 (isSup acc) fun s => some (s.rawAccess (rawBlock ctl).1 (rawBlock ctl).2 false))

/-- RAW_WRITE (R284, R285): a write of ERR_RAW_CMD with OP = 2. -/
def execRawWrite (acc : Accessor) (ctl : Fin 62) (s : State) : Out :=
  .next (s.regWrite (rawBlock ctl).1 (isSup acc) fun s => some (s.rawAccess (rawBlock ctl).1 (rawBlock ctl).2 true))

end Sys2Proof.Machine
end

