-- ==== Sys2Proof/Machine/Clocks.lean ====
section
/-! DEFINITION. Clock islands and frequency steps (R329 to R339). The regions are the compute dies CD0 to CD7 and the hub dies MH0 to
MH3, numbered 0 to 11. A crossing error stands with the failures of a die. -/

namespace Sys2Proof.Machine

/-- The die of a frequency region (R335). -/
def regionDie (k : Nat) : Nat := if k < 8 then k else mhDie (k - 8)

/-- What caps a region (R453, R462, R464, R465, R513, R517, R518, R521); `command` is a write of CLK_STEP.CAP or CAP_SET, and `parked`
a park or a die that left service. -/
inductive CapCause where
  | service | budget | wiring | dieSensors | power | thermal | ioThermal | carrier | coolant | single | command | parked
  deriving DecidableEq, Repr

def CapCause.all : List CapCause :=
  [.service, .budget, .wiring, .dieSensors, .power, .thermal, .ioThermal, .carrier, .coolant, .single, .command, .parked]

/-- The number under which a cause stands in `State.caps`. -/
def CapCause.id : CapCause → Nat
  | .service => 0
  | .budget => 1
  | .wiring => 2
  | .dieSensors => 3
  | .power => 4
  | .thermal => 5
  | .carrier => 6
  | .coolant => 7
  | .single => 8
  | .command => 9
  | .parked => 10
  | .ioThermal => 11

namespace State

def clk (s : State) (die : Nat) : Clk := s.clocks.get Clk.reset (Key.at die)
def setClk (s : State) (die : Nat) (c : Clk) : State := { s with clocks := s.clocks.set Clk.reset (Key.at die) c }

/-- The step a region heads for: a TARGET above CAP is used as CAP (R336). -/
def clkTarget (s : State) (die : Nat) : Nat := min (s.fld .CLK_STEP_TARGET die) (s.fld .CLK_STEP_CAP die)

/-- Begins a phase of a change, with BUSY; `idle` ends it. -/
def clkPhase (s : State) (die : Nat) (p : ClkPhase) (goal : Nat) : State :=
  (s.setClk die { s.clk die with phase := p, goal := goal }).setFld .CLK_STEP_BUSY die 0 0 (if p = .idle then 0 else 1)

/-- The cap that a cause puts on a region. -/
def capBy (s : State) (cause : CapCause) (k : Nat) : Nat := s.caps.get 7 (Key.at 0 cause.id k)

/-- A change glides (R336, R338): with MODE = 1, or as the stepping down of a cut ticket budget, and between steps of 1 to 7. -/
def clkGlides (s : State) (die target : Nat) : Bool :=
  let cur := s.fld .CLK_STEP_CURRENT die
  (s.flag .CLK_STEP_MODE die || (decide (target < cur) && die < 8 && decide (s.capBy .budget die = target))) && 1 ≤ cur && 1 ≤ target

/-- Changes the frequency toward the goal of the change in progress (R336). -/
def clkMove (s : State) (die goal : Nat) : State := s.clkPhase die (if (s.clk die).glide then .gliding else .draining) goal

/-- What a region does next, once no change runs (R336, R338, "When a step change meets another"): upward it raises the supply first and
then changes the frequency; downward it lowers the supply last. -/
def clkNext (s : State) (die : Nat) : State :=
  let cur := s.fld .CLK_STEP_CURRENT die
  let target := s.clkTarget die
  if s.flag .CLK_STATUS_XERR die then s.clkPhase die .idle cur
  else if cur ≠ target then
    let s := s.setClk die { s.clk die with glide := s.clkGlides die target }
    if (s.clk die).supply < target then s.clkPhase die .raising target else s.clkMove die target
  else if cur < (s.clk die).supply then s.clkPhase die .lowering cur
  else s.clkPhase die .idle cur

/-- A change of TARGET, MODE or CAP takes effect at once while no change runs, else when the running one ends. -/
def clkKick (s : State) (die : Nat) : State := if (s.clk die).phase = .idle then s.clkNext die else s

/-- The lowest of the caps of a region (R519). -/
def capOf (s : State) (k : Nat) : Nat := CapCause.all.foldl (fun m c => min m (s.capBy c k)) 7

/-- A cause sets its cap on a region, and the region runs under the lowest of all (R462, R519). -/
def setCause (s : State) (cause : CapCause) (k v : Nat) : State :=
  let s := { s with caps := s.caps.set 7 (Key.at 0 cause.id k) v }
  (s.setFld .CLK_STEP_CAP (regionDie k) 0 0 (s.capOf k)).clkKick (regionDie k)

/-- A cause sets its cap on every compute and hub region. -/
def setCauseAll (s : State) (cause : CapCause) (v : Nat) : State := (List.range 12).foldl (fun s k => s.setCause cause k v) s

/-- A write of CLK_STEP (R336, R339): ignored while CLK_STATUS.XERR = 1. -/
def writeClkStep (s : State) (die v : Nat) : State :=
  if s.flag .CLK_STATUS_XERR die then s
  else
    let k := if die < 8 then die else die - 8
    let s := { s with caps := s.caps.set 7 (Key.at 0 CapCause.command.id k) (bits v 10 8) }
    (((s.setFld .CLK_STEP_TARGET die 0 0 (bits v 2 0)).setFld .CLK_STEP_MODE die 0 0 (bits v 3 3)).setFld .CLK_STEP_CAP die 0 0
      (s.capOf k)).clkKick die

end State

/-- CLK_STEP_WRITE (R336, R339): supervisor authority. -/
def execClkStepWrite (acc : Accessor) (die : Fin 12) (v : Word64) (s : State) : Out :=
  .next (s.regWrite (regionDie die) (isSup acc) fun s => some (s.writeClkStep (regionDie die) v.toNat))

/-- A stretched period of one island of a compute die (R172, R329): which island, and whether the results in flight of a stretched
VE reach the sequencer a beat later for it, are free values (log entry 129). -/
def State.stretchIsland (s : State) (cd : Nat) : State :=
  let f := s.takeFree
  let k := f.1 % 49
  if 8 ≤ k then f.2
  else
    let g := f.2.takeFree
    if g.1 % 2 = 0 then g.2
    else { g.2 with pend := g.2.pend.map (fun p => match p with
      | .vector c v r bs sl due late stretch => if c = cd && v = k then .vector c v r bs sl due late (stretch + 1) else p
      | _ => p) }

/-- STRETCH_PERIOD (R172, R333, R334): one island, or the four carousel segments together, lengthen a period; no result and no count
of beats inside the island changes. -/
def execStretchPeriod (die : Fin 12) (carousel : Bool) (s : State) : Out :=
  let d := regionDie die
  .next (s.gated d (if s.dieUp d && s.flag .CLK_CTL_STRETCH_EN d && (!carousel || die.val < 8) then
    let s := s.incFld .CLK_CNT_STRETCH_COUNT d 0 0 (if carousel then 4 else 1)
    if carousel || 8 ≤ die.val then s else s.stretchIsland d
  else s))

/-- SUPPLY_CHANGE_DONE (R338). -/
def execSupplyChangeDone (die : Fin 12) (s : State) : Out :=
  let d := regionDie die
  let c := s.clk d
  .next (match c.phase with
    | .raising => (s.setClk d { c with supply := c.goal }).clkMove d c.goal
    | .lowering => (s.setClk d { c with supply := s.fld .CLK_STEP_CURRENT d }).clkNext d
    | _ => s)

/-- GLIDE_COMPLETE (R336): the region runs at the adjacent step; another glide follows until the change reaches its goal. -/
def execGlideComplete (die : Fin 12) (s : State) : Out :=
  let d := regionDie die
  let c := s.clk d
  let cur := s.fld .CLK_STEP_CURRENT d
  let step := if cur < c.goal then cur + 1 else cur - 1
  .next (if c.phase = .gliding then
    let s := (s.setFld .CLK_STEP_CURRENT d 0 0 step).incFld .CLK_CNT_GLIDE_COUNT d 0 0
    if step = c.goal then s.clkNext d else s
  else s)

/-- STOP_HALT (R337): the drain is done, and every island halts. -/
def execStopHalt (die : Fin 12) (s : State) : Out :=
  let d := regionDie die
  let c := s.clk d
  .next (if c.phase = .draining then
    (s.setClk d { c with phase := .halted, haltedAt := s.now }).setFld .CLK_STEP_STOPPED d 0 0 1 else s)

/-- STOP_RESTART (R331, R336, R337): the region relocks, its crossings start empty, it restarts at the new step, and
the accesses that waited for it go on; each tick of the reference timer is 10 ns. -/
def execStopRestart (die : Fin 12) (s : State) : Out :=
  let d := regionDie die
  let c := s.clk d
  .next (if c.phase = .halted then
    let s := ((s.setFld .CLK_STEP_CURRENT d 0 0 c.goal).setFld .CLK_STEP_STOPPED d 0 0 0).incFld .CLK_CNT_STOP_COUNT d 0 0
    let s := if d < 8 then { s with crossings := s.crossings.clear (fun k => k.d == d) } else s
    ((s.incFld .CLK_CNT_STOP_TIME_COUNT d 0 0 (10 * (s.now - c.haltedAt))).clkNext d).accessesProceed
  else s)

end Sys2Proof.Machine
end

