-- ==== Sys2Proof/Machine/Collectives.lean ====
section
/-! DEFINITION. The ring engines (chapter "Collectives, job mapping and sideshow work", R368 to R388, R397) and the forced end of a
sideshow yield (R396). A collective's work divides into downconversion tasks, copies and pieces; frames land as Huward delivers them. -/

namespace Sys2Proof.Machine

/-- The fields of a collective descriptor (R372). -/
def kOp (d : List Byte) : Nat := field d 0 1
def kChain (d : List Byte) : Bool := (field d 1 1).testBit 1
def kNoise (d : List Byte) : Bool := (field d 1 1).testBit 2
def kCen (d : List Byte) : Bool := (field d 1 1).testBit 3
def kTopo (d : List Byte) : Nat := field d 2 1
def kDies (d : List Byte) : Nat := field d 4 1
def kFmt (d : List Byte) : Nat := field d 5 1
def kSize (d : List Byte) : Nat := field d 8 2
def kRank (d : List Byte) : Nat := field d 0xA 2
def kCount (d : List Byte) : Nat := bits (field d 0x10 8) 39 0
def kSrc (d : List Byte) : Nat := field d 0x18 6
def kSrcScale (d : List Byte) : Nat := field d 0x1E 6
def kDst (d : List Byte) : Nat := field d 0x24 6
def kDstScale (d : List Byte) : Nat := field d 0x2A 6
def kAux (d : List Byte) : Nat := field d 0x30 6
def kArg (d : List Byte) : Int := toSigned 16 (field d 0x36 2)
def kTag (d : List Byte) : Nat := field d 0x38 2
/-- The position of a rank (R378). -/
def kPos (d : List Byte) (q : Nat) : Nat := (field d 0xC 2 + q * field d 0xE 2) % 2 ^ 16
/-- The descriptor is of a tree. -/
def kTree (d : List Byte) : Bool := kTopo d = 2
def kReduces (d : List Byte) : Bool := kOp d = 1 || kOp d = 2
def kScaled (d : List Byte) : Bool := kFmt d = 9

/-- Bytes of an element in memory (R116), and of one on the wire: reductions travel in G16S. -/
def kElem (d : List Byte) : Nat := if kFmt d < 4 then 1 else if kFmt d = 6 || kFmt d = 7 then 4 else 2
def kWire (d : List Byte) : Nat := if kReduces d then 2 else kElem d

/-- Blocks of 64 elements of the vector, and the blocks of a shard (R378). -/
def kBlocks (d : List Byte) : Nat := (kCount d + 63) / 64
def kShard (d : List Byte) (q : Nat) : Nat × Nat := (q * kBlocks d / kSize d, (q + 1) * kBlocks d / kSize d)
/-- The first block of a range that travels west: the eastern half holds the odd block (DESIGN CHOICE, log entry 40). -/
def kMid (r : Nat × Nat) : Nat := r.1 + (r.2 - r.1 + 1) / 2
/-- Elements of block b, and the bytes on the wire of the elements of blocks lo to hi - 1. -/
def kIn (d : List Byte) (b : Nat) : Nat := min 64 (kCount d - 64 * b)
def kSpan (d : List Byte) (lo hi : Nat) : Nat := (min (64 * hi) (kCount d) - min (64 * lo) (kCount d)) * kWire d

/-- The eastern and western neighbours of a rank, where there are any (R372, R378). -/
def kEast (d : List Byte) : Option Nat :=
  if kChain d then (if kRank d + 1 < kSize d then some (kRank d + 1) else none)
  else if kSize d < 2 then none else some ((kRank d + 1) % kSize d)
def kWest (d : List Byte) : Option Nat :=
  if kChain d then (if kRank d = 0 then none else some (kRank d - 1))
  else if kSize d < 2 then none else some ((kRank d + kSize d - 1) % kSize d)

/-- The rank that ARG names from this rank on (R374, R377); none outside a chain. -/
def kPeer (d : List Byte) (back : Bool) : Option Nat :=
  let q : Int := if back then (kRank d : Int) - kArg d else kRank d + kArg d
  if kChain d then (if q < 0 || (kSize d : Int) ≤ q then none else some q.toNat) else some (q % (kSize d : Int)).toNat

/-- One algorithm step of a reduction (R384, R385): its blocks, the members whose partial sums it adds, and where its result goes:
none for a final part. -/
structure CTask where
  dir : Nat
  lo : Nat
  hi : Nat
  sources : List Nat
  dest : Option Nat
  deriving DecidableEq, Repr

/-- FP64 sums (R388). -/
def add64 (a b : Nat) : Nat := (fp64.encode true .rne 0 ((fp64.decode a).add (fp64.decode b))).pat
def addSq64 (acc : Nat) (x : Num) : Nat := add64 acc (fp64.encode true .rne 0 (x.mul x)).pat

/-- Four words of a flit with their tag bytes, from 128 marked bytes (R349). -/
def flitOf (slot : Nat) (bs : List MByte) : List Byte :=
  let bs := bs ++ List.replicate (128 - bs.length) ⟨0, false, false⟩
  bs.map MByte.b ++ (List.range 4).map (fun i => let w := mSub bs (32 * i) 32; BitVec.ofNat 8 (mkTag (mPoison w) (mSealed w) slot))

/-- Cuts marked bytes into flits. -/
def flitsOf (slot : Nat) : Nat → List MByte → List (List Byte)
  | 0, _ => []
  | n + 1, bs => if bs.isEmpty then [] else flitOf slot (bs.take 128) :: flitsOf slot n (bs.drop 128)

/-- Cuts marked bytes, of which the first `real` are elements and the rest padding, into frames of at most 30 data flits (R354, R381). -/
def framesOf (slot peer phase dir : Nat) : Nat → Nat → Nat → List MByte → List Byte → List OutFrame
  | 0, _, _, _, _ => []
  | n + 1, off, real, bs, sc =>
    if bs.isEmpty then []
    else ⟨peer, phase, dir, off, min real 3840, flitsOf slot 30 (bs.take 3840), sc.take 30⟩
      :: framesOf slot peer phase dir n (off + 3840) (real - 3840) (bs.drop 3840) (sc.drop 30)

/-- All frames of a range. -/
def cutFrames (slot peer phase dir off real : Nat) (bs : List MByte) (sc : List Byte) : List OutFrame :=
  framesOf slot peer phase dir (bs.length / 3840 + 1) off real bs sc

/-- The data bytes of a frame with their marks. -/
def frameBytes (f : LinkFrame) : List MByte := (State.landedBytes f).drop 128

/-- Element i of a block of G16S data with its scale (R139), widened to FP32. -/
def g16sElem (scale : Nat) (bad : Bool) (bs : List MByte) (i : Nat) : AccVal :=
  let e := mSub bs (2 * i) 2
  ⟨rne32 (Fmt.g16s.scaledValue scale (mValue e)), bad || mPoison e, mSealed e⟩

namespace State

/-- The tree ports below and above this module (R378). -/
def treeKids (s : State) : List Nat := s.rolePorts 5
def treeUp (s : State) : Option Nat := (s.rolePorts 4).head?

/-- The steps of a reduction in the order of R385. On a ring the halves of each shard rotate east and west. On a chain, ALL_REDUCE
reduces one half toward each end, and REDUCE_SCATTER brings the partial sums of each shard from both ends. -/
def collTasks (s : State) (d : List Byte) : List CTask :=
  let r := kRank d
  let p := kSize d
  let b := kBlocks d
  let es := (kEast d).toList
  let ws := (kWest d).toList
  let all : List CTask :=
    if !kReduces d then []
    else if kTree d then [⟨0, 0, b, s.treeKids, s.treeUp⟩]
    else if !kChain d then
      (List.range p).flatMap (fun k =>
        let e := kShard d ((r + 2 * p - 1 - k) % p)
        let w := kShard d ((r + 1 + k) % p)
        let last := k + 1 = p
        [⟨0, e.1, kMid e, if k = 0 then [] else ws, if last then none else kEast d⟩,
         ⟨1, kMid w, w.2, if k = 0 then [] else es, if last then none else kWest d⟩])
    else if kOp d = 1 then
      let east : CTask := ⟨0, 0, kMid (0, b), ws, kEast d⟩
      let west : CTask := ⟨1, kMid (0, b), b, es, kWest d⟩
      if p - 1 - r < r then [west, east] else [east, west]
    else
      (List.range p).flatMap (fun st =>
        (if r ≤ st && st + 1 < p then let q := kShard d (p - 1 - (st - r)); [⟨0, q.1, q.2, ws, kEast d⟩] else [])
        ++ (if p - 1 - r ≤ st && st + 1 < p then let q := kShard d (st - (p - 1 - r)); [⟨1, q.1, q.2, es, kWest d⟩] else [])
        ++ (if st + 1 = p then let q := kShard d r; [⟨0, q.1, q.2, ws ++ es, none⟩] else []))
  all.filter (fun t => t.lo < t.hi)

/-- Blocks that reach this member as copies: ALL_GATHER, and the second phase of ALL_REDUCE. -/
def collCopies (s : State) (d : List Byte) : Nat :=
  if kOp d != 1 && kOp d != 3 then 0
  else if kTree d then (if s.treeUp.isNone then 0 else kBlocks d)
  else if kOp d = 1 && kChain d then
    let own := ((s.collTasks d).filter (fun t => t.dest.isNone)).map (fun t => t.hi - t.lo)
    kBlocks d - own.foldl (· + ·) 0
  else kBlocks d - ((kShard d (kRank d)).2 - (kShard d (kRank d)).1)

/-- Where a copy of a block goes on to (R384): around the ring up to the member before its owner, along a chain to its end, down a
tree. -/
def copyTargets (s : State) (d : List Byte) (dir b : Nat) : List Nat :=
  if kTree d then s.treeKids
  else
    let next := (if dir = 0 then kEast d else kWest d).toList
    if kChain d then next else next.filter (fun q => !((kShard d q).1 ≤ b && b < (kShard d q).2))

/-- The members that a collective still expects frames from (R380). -/
def collSenders (s : State) (d : List Byte) (pieces : List Piece) : List Nat :=
  if kOp d ≤ 3 then
    if kTree d then s.treeKids ++ (if kOp d = 1 then s.treeUp.toList else [])
    else ((kWest d).toList ++ (kEast d).toList).eraseDups
  else ((pieces.filter (fun x => !x.finished)).map Piece.peer).eraseDups

/-- The members that may hold a credit of a collective: those it expects frames from, and every peer of a PERMUTE, a RECV or a SHIFT
until it ends, so that what a peer offers beyond the pieces arrives and shows (R376, R377; log entry 43). -/
def collOffers (s : State) (d : List Byte) (pieces : List Piece) : List Nat :=
  if 5 ≤ kOp d then (pieces.map Piece.peer).eraseDups else s.collSenders d pieces

/-- Reads bytes behind a virtual address for a collective: none where they wait for zeroing. Words that answer a bus error count as
poisoned (DESIGN CHOICE, log entry 41). -/
def collRead (s : State) (slot va n : Nat) : Option (List MByte × State) :=
  match s.vaRead (unitReq slot) slot va n with
  | (.ok bs, s) => some (bs, s)
  | (.wait, _) => none
  | (.bad, s) => some (List.replicate n ⟨0, true, false⟩, s)

/-- A range may be written now: no word of it is being zeroed. -/
def collRoom (s : State) (slot va n : Nat) : Bool := s.vaAdmit (unitReq slot) slot va n true != some false

/-- A region lies inside the slot's translations (R373): every 64 KiB page that it touches translates. -/
def collInside (s : State) (slot va n : Nat) (wr : Bool) : Bool :=
  n = 0 || (va + n ≤ 2 ^ 48 && (List.range ((va % 2 ^ 16 + n + 2 ^ 16 - 1) / 2 ^ 16)).all (fun k =>
    match s.translate slot (2 ^ 16 * (va / 2 ^ 16 + k)) wr with
    | .pa _ => true
    | .fault _ => false))

/-- The local elements of a block, widened exactly to FP32 (R384). -/
def localBlock (s : State) (slot : Nat) (d : List Byte) (b : Nat) : Option (List AccVal × State) :=
  let n := kIn d b
  match s.collRead slot (kSrc d + 64 * b * kElem d) (n * kElem d) with
  | none => none
  | some (bs, s) =>
    if kScaled d then
      match s.collRead slot (kSrcScale d + b) 1 with
      | none => none
      | some (sc, s) => some ((List.range n).map (g16sElem (mValue sc) (mPoison sc) bs), s)
    else
      some ((List.range n).map (fun i =>
        let e := mSub bs (i * kElem d) (kElem d)
        ⟨if kFmt d = 4 then mValue e * 2 ^ 16 else mValue e, mPoison e, mSealed e⟩), s)

/-- A downconverted block (R141, R384): its scale, its elements as marked bytes, and the counted census (R386). The scale depends on
every element, so one sealed element seals the block. -/
structure DownBlock where
  scale : Nat
  bytes : List MByte
  finals : List Num
  census : List Nat
  poison : Bool
  isSealed : Bool

/-- Downconverts the sums of a block with draws of the engine's generator (R122, R385). -/
def downconvert (s : State) (re : Nat) (sums : List AccVal) (census : List Nat) : DownBlock × State :=
  let nums := sums.map (fun x => if x.poison then Num.nan else fp32.decode x.v)
  let us := draws sums.length (s.reGen.get 1 (Key.at re))
  let enc := encodeBlock .g16s .sr true us.2 nums
  let sl := sums.any (fun x => x.isSealed)
  let outs := (List.range sums.length).map (fun i => (sums.getD i ⟨0, false, false⟩, nums.getD i .nan, enc.2.getD i ⟨0, false⟩))
  (⟨enc.1, outs.flatMap (fun o => (leBytes 2 o.2.2.pat).map (fun b => ⟨b, o.1.poison, sl⟩)),
    outs.map (fun o => Fmt.g16s.scaledValue enc.1 o.2.2.pat),
    outs.foldl (fun c o => if o.1.poison then censusPoison c
      else censusCount c o.2.1 (Fmt.g16s.scaledValue enc.1 o.2.2.pat) o.2.2.saturated) census,
    sums.any (fun x => x.poison), sl⟩,
   { s with reGen := s.reGen.set 1 (Key.at re) us.1 })

def modColl (s : State) (re slot k : Nat) (g : Coll → Coll) : State :=
  s.setColls re slot ((s.reColls re slot).modify k g)

/-- One block of a task: the sum of the local element and the partial sums of the sources in order, its downconversion, and its
write where it is final (R384 to R386, R388). -/
def taskBlock (s : State) (re slot k : Nat) (c : Coll) (t : CTask) (b : Nat) (recv : List (List AccVal)) : Option (DownBlock × Coll × State) :=
  let d := c.desc
  let first := if kOp d = 2 then (kShard d (kRank d)).1 else 0
  let at_ := kDst d + 128 * (b - first)
  let sc := kDstScale d + (b - first)
  let fin := t.dest.isNone
  if fin && !(s.collRoom slot at_ (2 * kIn d b) && s.collRoom slot sc 1) then none
  else
    match s.localBlock slot d b with
    | none => none
    | some (loc, s) =>
      let sums := recv.foldl (fun acc r => (List.range acc.length).map (fun i =>
        let x := acc.getD i ⟨0, false, false⟩
        let y := r.getD i ⟨0, false, false⟩
        ⟨add32 x.v y.v, x.poison || y.poison, x.isSealed || y.isSealed⟩)) loc
      let r := s.downconvert re sums (if fin && kCen d then c.census else censusZero)
      let o := r.1
      let s := r.2
      let c := { c with poison := c.poison || o.poison, census := if fin && kCen d then o.census else c.census,
                        censusSealed := c.censusSealed || o.isSealed,
                        sumSq := if fin && kNoise d then o.finals.foldl addSq64 c.sumSq else c.sumSq }
      let s := if fin then (s.vaStore (unitReq slot) slot at_ o.bytes).vaWrite (unitReq slot) slot sc (leBytes 1 o.scale) false o.isSealed else s
      some (o, c, s.modColl re slot k (fun _ => c))

/-- Blocks `b` to `b + n - 1` of a task, with what they put on the wire. -/
def taskBlocks (re slot k : Nat) (t : CTask) (recv : Nat → List (List AccVal)) : Nat → Nat → List MByte → List Byte → Coll → State →
    Option (List MByte × List Byte × Coll × State)
  | 0, _, bs, sc, c, s => some (bs, sc, c, s)
  | n + 1, b, bs, sc, c, s =>
    match s.taskBlock re slot k c t b (recv b) with
    | none => none
    | some (o, c, s) =>
      taskBlocks re slot k t recv n (b + 1) (bs ++ o.bytes ++ List.replicate (128 - o.bytes.length) ⟨0, false, false⟩) (sc ++ leBytes 1 o.scale) c s

/-- Runs blocks of the current task: partial sums go to the next member, final parts of an ALL_REDUCE are copied on (R384). -/
def runTask (s : State) (re slot k : Nat) (c : Coll) (t : CTask) (n : Nat) (recv : Nat → List (List AccVal)) : Option State :=
  let d := c.desc
  let b := t.lo + c.blk
  match taskBlocks re slot k t recv n b [] [] c s with
  | none => none
  | some (bs, sc, c, s) =>
    let cdir := if kChain d then 1 - t.dir else t.dir
    let frames := match t.dest with
      | some q => cutFrames slot q 0 t.dir (128 * b) (kSpan d b (b + n)) bs sc
      | none => if kOp d = 1 then (s.copyTargets d cdir b).flatMap (fun q => cutFrames slot q 1 cdir (128 * b) (kSpan d b (b + n)) bs sc) else []
    let done := b + n = t.hi
    some (s.modColl re slot k (fun _ =>
      { c with out := c.out ++ frames, blk := if done then 0 else c.blk + n, task := if done then c.task + 1 else c.task }))

/-- The collective whose downconversion is next in the order of R385: the first of the slot with a task left. -/
def collTurn (s : State) (re slot : Nat) : Option (Nat × Coll × CTask) :=
  (List.range (s.reColls re slot).length).findSome? (fun k =>
    ((s.reColls re slot)[k]?).bind (fun c => ((s.collTasks c.desc)[c.task]?).map (fun t => (k, c, t))))

/-- The leg from this member to another (R378): its direction and the leg; none for itself. -/
def collLeg (d : List Byte) (q : Nat) : Nat × List Nat :=
  let p := kSize d
  let r := kRank d
  let e := (q + p - r) % p
  let east := if kChain d then decide (r ≤ q) else decide (e ≤ p - e)
  let hops := if kChain d then (if r ≤ q then q - r else r - q) else if east then e else p - e
  let role := if kTopo d = 1 then (if east then 7 else 6) else (if east then 2 else 1)
  (if east then 0 else 1, if hops = 0 then [] else [legOf role 3 hops])

/-- The legs of a frame (R378, R415): three where its dimension-2 leg would start or end at a caught position. -/
def collLegs (s : State) (d : List Byte) (q : Nat) : List Nat :=
  let caught (x : Nat) : Bool := x != 0xFFFF && s.recDetour.contains x
  let leg := (collLeg d q).2
  if kTopo d = 1 && !leg.isEmpty && (caught s.myPos || caught (kPos d q)) then legOf 1 3 1 :: leg ++ [legOf 2 3 1] else leg

/-- The header of a ring-engine frame (R354, R381). -/
def collHdr (s : State) (slot : Nat) (c : Coll) (o : OutFrame) (dest : Nat) (legs : List Nat) : List Byte :=
  padTo 128 (leBytes 1 1 ++ leBytes 1 o.flits.length ++ leBytes 2 s.myPos ++ leBytes 2 dest
    ++ leBytes 2 (s.fld .REC_JOB_GEN_GEN iod0 slot) ++ leBytes 1 slot ++ leBytes 1 0 ++ leBytes 2 0
    ++ leBytes 4 (kTag c.desc * 2 ^ 16 + c.inst % 256 * 2 ^ 8 + o.phase * 2 ^ 6 + o.dir * 2 ^ 5) ++ leBytes 6 o.off ++ leBytes 2 0
    ++ padTo 16 (legs.flatMap (leBytes 4)) ++ o.scales)

/-- Sends one frame of a collective. A tree frame leaves by its port, and by the detour of R415 where its peer's position is caught. -/
def sendColl (s : State) (re slot : Nat) (c : Coll) (o : OutFrame) : State :=
  let s := s.incFld .RE_CNT_TX_BYTES_COUNT (iodDie re) 0 0 o.bytes
  if kTree c.desc then
    let role := s.hlRole o.peer
    let dest := s.hl .HL_PEER_POS o.peer
    if dest != 0xFFFF && s.recDetour.contains dest then
      s.sendFrame ⟨s.collHdr slot c o dest [legOf 1 3 1, legOf role 3 1, legOf 2 3 1], o.flits, 0, none⟩
    else
      let index := ((s.rolePorts role).findIdx? (fun p => p == o.peer)).getD 0
      (s.placeFrame ⟨⟨s.collHdr slot c o dest [legOf role 3 0], o.flits, 0, none⟩, role, index, s.now⟩).pump
  else
    s.sendFrame ⟨s.collHdr slot c o (kPos c.desc o.peer) (s.collLegs c.desc o.peer), o.flits, 0, none⟩

/-- Sends a BARRIER message of a collective (R383) to a rank or tree port. -/
def collMsg (s : State) (slot : Nat) (c : Coll) (peer sub a b : Nat) : State :=
  let gen := s.fld .REC_JOB_GEN_GEN iod0 slot
  let body := leBytes 1 sub ++ leBytes 3 0 ++ leBytes 4 (kTag c.desc * 2 ^ 16 + c.inst % 256 * 2 ^ 8) ++ leBytes 8 a ++ leBytes 8 b
  if kTree c.desc then s.sendPicotOn peer (picotMsg 4 slot s.myPos (s.hl .HL_PEER_POS peer) gen 0 0 body)
  else
    s.sendPicot (picotMsg 4 slot s.myPos (kPos c.desc peer) gen ((collLeg c.desc peer).2.headD 0) 0 body)

/-- The circuit's next member: east of this one, and from the last member back to rank 0 (R383). -/
def circNext (d : List Byte) : Nat := (kRank d + 1) % kSize d

/-- Every downconversion of a collective is done. -/
def tasksDone (s : State) (c : Coll) : Bool := (s.collTasks c.desc).length ≤ c.task

/-- Writes the noise record (R388). -/
def noiseRecord (s : State) (slot : Nat) (c : Coll) (t : Nat × Nat) : State :=
  s.vaWrite (unitReq slot) slot (kAux c.desc) (padTo 64 (leBytes 8 c.localSq ++ leBytes 8 c.sumSq ++ leBytes 8 t.1 ++ leBytes 8 t.2
    ++ leBytes 4 c.step ++ leBytes 2 (kSize c.desc))) false c.censusSealed

/-- A collective runs a circuit of messages: a BARRIER, or one with NOISE. -/
def kCircuit (d : List Byte) : Bool := kOp d = 9 || (kReduces d && kNoise d)
/-- The SUB of its GATHER (R383); RESULT is one more. -/
def kGatherSub (d : List Byte) : Nat := if kOp d = 9 then 1 else 5

/-- RESULT passes this member (R383, R388): the noise record is written, and on a tree it goes on to the ports below. -/
def passResult (s : State) (re slot k : Nat) (c : Coll) (t : Nat × Nat) : State :=
  let s := if kOp c.desc = 9 then s else s.noiseRecord slot c t
  let s := s.modColl re slot k (fun c => { c with passed := true, totals := t })
  if kTree c.desc then s.treeKids.foldl (fun s p => s.collMsg slot c p (kGatherSub c.desc + 1) t.1 t.2) s else s

/-- Starts what a member of a circuit sends by itself: rank 0 its GATHER; on a tree each member its own once every GATHER from below
has come, and the root RESULT. -/
def circStart (s : State) (re slot k : Nat) (c : Coll) : State :=
  let d := c.desc
  if !kCircuit d || c.gathered || !s.tasksDone c then s
  else
    let mine := s.modColl re slot k (fun c => { c with gathered := true })
    if !kTree d then
      if kRank d = 0 then mine.collMsg slot c (circNext d) (kGatherSub d) c.localSq c.sumSq else s
    else if !s.treeKids.all (fun p => c.seen.contains p) then s
    else
      let t := if kOp d = 9 then (0, 0) else (add64 c.totals.1 c.localSq, add64 c.totals.2 c.sumSq)
      match s.treeUp with
      | some p => mine.collMsg slot c p (kGatherSub d) t.1 t.2
      | none => mine.passResult re slot k c t

/-- Sends the frames of a collective that hold a credit (R380), in order for each receiver. -/
def collSend (re slot k : Nat) : Nat → State → State
  | 0, s => s
  | fuel + 1, s =>
    match (s.reColls re slot)[k]? with
    | none => s
    | some c =>
      match c.out.find? (fun o => c.credits.any (fun e => e.1 == o.peer && 0 < e.2)) with
      | none => s
      | some o =>
        let s := s.modColl re slot k (fun c => { c with
          out := c.out.erase o,
          credits := c.credits.map (fun e => if e.1 = o.peer then (e.1, e.2 - 1) else e) })
        collSend re slot k fuel (s.sendColl re slot c o)

/-- Landing slots of a slot that hold no frame and are promised to no sender (R380). -/
def landFree (s : State) (re slot : Nat) : Nat :=
  s.fld .RE_LAND_SLOTS_SLOTS (iodDie re) 0 slot - (s.reLanded re slot).length
    - ((s.reColls re slot).map (fun c => c.granted.length)).foldl (· + ·) 0

/-- Grants a credit to each sender that holds none and has no frame waiting; none has a second one before every expected sender has had
its first (R380, log entry 42). -/
def collGrant (s : State) (re slot k : Nat) (c : Coll) : State :=
  if kOp c.desc = 4 && !c.placed then s
  else if kOp c.desc ≤ 3 && s.tasksDone c && c.copies = 0 then s
  else
    (s.collOffers c.desc c.pieces).foldl (fun s q =>
      match (s.reColls re slot)[k]? with
      | none => s
      | some c =>
        if s.landFree re slot = 0 || c.granted.contains q
            || (c.first.contains q && !(s.collSenders c.desc c.pieces).all (fun x => c.first.contains x))
            || (s.reLanded re slot).any (fun l => l.peer == q && bits l.frame.flow 31 16 == kTag c.desc && bits l.frame.flow 15 8 == c.inst % 256) then s
        else
          let s := s.modColl re slot k (fun c => { c with
            granted := c.granted ++ [q], first := if c.first.contains q then c.first else c.first ++ [q] })
          s.collMsg slot c q 3 1 0) s

/-- Places the segments of an ALL_TO_ALL in rank order once every count is known (R374, R375): only N elements are stored. -/
def placeSegments (s : State) (re slot k : Nat) (c : Coll) : State :=
  let d := c.desc
  if c.placed || c.counts.length < kSize d then s
  else
    let n (q : Nat) : Nat := ((c.counts.find? (fun e => e.1 == q)).map Prod.snd).getD 0 * kElem d
    let room := kCount d * kElem d
    let own := (c.pieces.headD ⟨0, 0, 0, 0, [], true⟩).buf
    let pieces := (List.range (kSize d)).map (fun q =>
      let at_ := ((List.range q).map n).foldl (· + ·) 0
      (⟨q, kDst d + at_, n q, min (n q) (room - at_), if q = kRank d then own else [], n q = 0 || q = kRank d⟩ : Piece))
    let mine := pieces.getD (kRank d) ⟨0, 0, 0, 0, [], true⟩
    if !s.collRoom slot mine.va mine.keep then s
    else
      let s := s.vaStore (unitReq slot) slot mine.va (own.take mine.keep)
      s.modColl re slot k (fun c => { c with placed := true, pieces := pieces, poison := c.poison || mPoison own,
                                             trunc := c.trunc || decide (room < ((List.range (kSize d)).map n).foldl (· + ·) 0) })

/-- Does what the collectives of a slot can do without a further frame or message: downconversions of local data alone, circuits,
frames with credits, and grants. -/
def collPump (re slot : Nat) : Nat → State → State
  | 0, s => s
  | fuel + 1, s =>
    let s := match s.collTurn re slot with
      | some (k, c, t) => if t.sources.isEmpty then (s.runTask re slot k c t (t.hi - t.lo - c.blk) (fun _ => [])).getD s else s
      | none => s
    let s := (List.range (s.reColls re slot).length).foldl (fun s k =>
      match (s.reColls re slot)[k]? with
      | none => s
      | some c =>
        let s := (s.circStart re slot k c).placeSegments re slot k c
        let s := collSend re slot k (c.out.length + 1) s
        match (s.reColls re slot)[k]? with
        | none => s
        | some c => s.collGrant re slot k c) s
    collPump re slot fuel s

/-- Records a fault of a collective or of a start: its bit, RE_FAULT_INFO and an event where the manual gives one (R373, R375, R379,
RE_FAULT_INFO). -/
def reFault (s : State) (re slot : Nat) (bit : Fld) (code tag inst entry : Nat) (e : Option Ev) : State :=
  let d := iodDie re
  let s := ((s.setFld bit d 0 0 1).setFld .RE_FAULT_INFO_TAG d 0 0 tag).setFld .RE_FAULT_INFO_INST d 0 0 inst
  let s := ((s.setFld .RE_FAULT_INFO_SLOT d 0 0 slot).setFld .RE_FAULT_INFO_CODE d 0 0 code).setFld .RE_FAULT_INFO_ENTRY d 0 0 entry
  match e with
  | some e => s.raise e d 0 (s.regWord .RE_FAULT_INFO d 0 0) (some slot)
  | none => s

/-- A bus error to the contexts that triggered a collective (R165, R373). -/
def reError (s : State) (ctxs : List (Nat × Nat)) (tag : Nat) : State :=
  ctxs.foldl (fun s x => s.ctxError x.1 x.2 causeMemory 0x61 tag) s

/-- The unconsumed CINCs of an engine on a counter (R369). -/
def reQueue (s : State) (re cd slot k : Nat) : List Nat :=
  let x := s.sync cd slot k
  if re = 0 then x.re0 else x.re1

/-- Consumes the oldest CINC of a die for an engine. -/
def reConsume (s : State) (re cd slot k : Nat) : State :=
  let x := s.sync cd slot k
  s.setSync cd slot k (if re = 0 then { x with re0 := x.re0.drop 1 } else { x with re1 := x.re1.drop 1 })

/-- The move-table entries of a PERMUTE (R376): peer, receive, bytes, offset; none where an entry is invalid. -/
def moveTable (d : List Byte) : Nat → List MByte → Option (List (Nat × Bool × Nat × Nat))
  | 0, _ => some []
  | n + 1, bs =>
    let g (o k : Nat) : Nat := mValue (mSub bs o k)
    if kSize d ≤ g 0 2 || 1 < g 2 1 || g 3 1 != 0 || g 14 2 != 0 then none
    else (moveTable d n (bs.drop 16)).map (fun r => (g 0 2, g 2 1 == 1, g 4 4, g 8 6) :: r)

/-- The checks of R373 on the descriptor alone, with the operation table of R374. -/
def collShape (s : State) (d : List Byte) : Bool :=
  let op := kOp d
  let fmtOk := if op ≤ 2 then kFmt d = 4 || kFmt d = 6 || kFmt d = 9
    else if op = 3 then kFmt d < 8 || kFmt d = 9 else if op = 9 then kFmt d = 0 else kFmt d < 8
  1 ≤ op && op ≤ 9 && (field d 1 1).testBit 0 && field d 1 1 < 16 && kTopo d ≤ 2 && (kTopo d != 2 || op = 1 || op = 9)
    && field d 3 1 < 8 && field d 6 2 < 2 ^ 15 && zeroIn d 0x15 3 && zeroIn d 0x3A 6 && fmtOk
    && kRank d < kSize d && kPos d (kRank d) = s.myPos
    && ((op != 6 && op != 7 && op != 8) || (kPeer d false).isSome) && (op != 8 || (kPeer d true).isSome)
    && (op != 5 || decide (0 ≤ kArg d))

/-- What a started collective reads at its start: the SEND counts of its count table, or its move table. -/
def collTable (s : State) (slot : Nat) (d : List Byte) : Option (List MByte × State) :=
  if kOp d = 4 then s.collRead slot (kAux d) (8 * kSize d)
  else if kOp d = 5 then s.collRead slot (kAux d) (16 * (kArg d).toNat)
  else some ([], s)

/-- The regions of a collective with their sizes, read or written (R373, R374). -/
def collRegions (d : List Byte) (table : List MByte) : List (Nat × Nat × Bool) :=
  let n := kCount d
  let sh := kShard d (kRank d)
  let shard := min (64 * sh.2) n - min (64 * sh.1) n
  let blocks := sh.2 - sh.1
  let scaled (x : List (Nat × Nat × Bool)) : List (Nat × Nat × Bool) := if kScaled d then x else []
  match kOp d with
  | 1 => [(kSrc d, n * kElem d, false), (kDst d, 2 * n, true), (kDstScale d, kBlocks d, true)] ++ scaled [(kSrcScale d, kBlocks d, false)]
      ++ (if kNoise d then [(kAux d, 64, true)] else [])
  | 2 => [(kSrc d, n * kElem d, false), (kDst d, 2 * shard, true), (kDstScale d, blocks, true)] ++ scaled [(kSrcScale d, kBlocks d, false)]
      ++ (if kNoise d then [(kAux d, 64, true)] else [])
  | 3 => [(kSrc d, shard * kElem d, false), (kDst d, n * kElem d, true)]
      ++ scaled [(kSrcScale d, blocks, false), (kDstScale d, kBlocks d, true)]
  | 4 =>
    let total := ((List.range (kSize d)).map (fun q => mValue (mSub table (8 * q) 4))).foldl (· + ·) 0
    [(kSrc d, total * kElem d, false), (kDst d, n * kElem d, true), (kAux d, 8 * kSize d, true)]
  | 5 => ((moveTable d (kArg d).toNat table).getD []).map (fun e =>
      if e.2.1 then (kDst d + e.2.2.2, e.2.2.1, true) else (kSrc d + e.2.2.2, e.2.2.1, false))
  | 6 => [(kSrc d, n * kElem d, false)]
  | 7 => [(kDst d, n * kElem d, true)]
  | 8 => [(kSrc d, n * kElem d, false), (kDst d, n * kElem d, true)]
  | _ => []

/-- The pieces that a direct operation receives (R376, R377). -/
def collPieces (d : List Byte) (table : List MByte) : List Piece :=
  let whole (q : Nat) : Piece := ⟨q, kDst d, kCount d * kElem d, kCount d * kElem d, [], kCount d = 0⟩
  match kOp d with
  | 5 => (((moveTable d (kArg d).toNat table).getD []).filter (fun e => e.2.1)).map (fun e =>
      ⟨e.1, kDst d + e.2.2.2, e.2.2.1, e.2.2.1, [], e.2.2.1 = 0⟩)
  | 7 => [whole ((kPeer d false).getD 0)]
  | 8 => [whole ((kPeer d true).getD 0)]
  | _ => []

/-- The ranges that a direct operation sends, in order: rank, address, bytes. -/
def collSends (d : List Byte) (table : List MByte) : List (Nat × Nat × Nat) :=
  let whole (q : Nat) : Nat × Nat × Nat := (q, kSrc d, kCount d * kElem d)
  match kOp d with
  | 4 =>
    let n (q : Nat) : Nat := mValue (mSub table (8 * q) 4) * kElem d
    ((List.range (kSize d)).filter (fun q => q != kRank d)).map (fun q => (q, kSrc d + ((List.range q).map n).foldl (· + ·) 0, n q))
  | 5 => (((moveTable d (kArg d).toNat table).getD []).filter (fun e => !e.2.1)).map (fun e => (e.1, kSrc d + e.2.2.2, e.2.2.1))
  | 6 => [whole ((kPeer d false).getD 0)]
  | 8 => [whole ((kPeer d false).getD 0)]
  | _ => []

/-- Reads what a direct operation sends into frames; none while a word waits for zeroing. -/
def sendFrames (slot : Nat) (d : List Byte) : List (Nat × Nat × Nat) → State → Option (List OutFrame × Bool × State)
  | [], s => some ([], false, s)
  | (q, va, n) :: rest, s =>
    match s.collRead slot va n with
    | none => none
    | some (bs, s) =>
      (sendFrames slot d rest s).map (fun r => (cutFrames slot q 1 (collLeg d q).1 0 n bs [] ++ r.1, mPoison bs || r.2.1, r.2.2))

/-- The local squares of a vector in element order (R388); none while a word waits for zeroing. -/
def localSquares (slot : Nat) (d : List Byte) : Nat → Nat → Nat → Bool → State → Option (Nat × Bool × State)
  | 0, _, acc, sl, s => some (acc, sl, s)
  | n + 1, b, acc, sl, s =>
    match s.localBlock slot d b with
    | none => none
    | some (xs, s) =>
      localSquares slot d n (b + 1) (xs.foldl (fun a x => addSq64 a (if x.poison then .nan else fp32.decode x.v)) acc)
        (sl || xs.any (fun x => x.isSealed)) s

/-- The own shard of an ALL_GATHER (R378): copied to its place, and its halves sent both ways, whole along a chain. -/
def gatherOwn (s : State) (slot : Nat) (c : Coll) : Option (Coll × State) :=
  let d := c.desc
  let n := kCount d
  let sh := kShard d (kRank d)
  let el (b : Nat) : Nat := min (64 * b) n
  let at_ (b : Nat) : Nat := kDst d + el b * kElem d
  let bytes := (el sh.2 - el sh.1) * kElem d
  let blocks := if kScaled d then sh.2 - sh.1 else 0
  if !(s.collRoom slot (at_ sh.1) bytes && s.collRoom slot (kDstScale d + sh.1) blocks) then none
  else
    match s.collRead slot (kSrc d) bytes with
    | none => none
    | some (bs, s) =>
      match s.collRead slot (kSrcScale d) blocks with
      | none => none
      | some (sc, s) =>
        let s := (s.vaStore (unitReq slot) slot (at_ sh.1) bs).vaStore (unitReq slot) slot (kDstScale d + sh.1) sc
        let part (dir lo hi q : Nat) : List OutFrame :=
          cutFrames slot q 1 dir (64 * lo * kElem d) ((el hi - el lo) * kElem d) (mSub bs ((el lo - el sh.1) * kElem d) ((el hi - el lo) * kElem d))
            ((mSub sc (lo - sh.1) (hi - lo)).map MByte.b)
        let mid := kMid sh
        let east := (kEast d).toList.flatMap (part 0 sh.1 (if kChain d then sh.2 else mid))
        let west := (kWest d).toList.flatMap (part 1 (if kChain d then sh.1 else mid) sh.2)
        some ({ c with out := east ++ west, poison := mPoison bs || mPoison sc }, s)

/-- What a collective does at its start, before any frame arrives; none while a word that it reads waits for zeroing. -/
def collBegin (s : State) (slot : Nat) (c : Coll) (table : List MByte) : Option (Coll × State) :=
  let d := c.desc
  if kOp d = 3 then s.gatherOwn slot c
  else if kReduces d && kNoise d then
    (localSquares slot d (kBlocks d) 0 0 false s).map (fun r => ({ c with localSq := r.1, censusSealed := r.2.1 }, r.2.2))
  else
    match sendFrames slot d (collSends d table) s with
    | none => none
    | some (out, bad, s) =>
      let c := { c with out := out, poison := bad || mPoison table, pieces := collPieces d table }
      if kOp d != 4 then some (c, s)
      else
        let n (q : Nat) : Nat := mValue (mSub table (8 * q) 4)
        let r := kRank d
        (s.collRead slot (kSrc d + ((List.range r).map n).foldl (· + ·) 0 * kElem d) (n r * kElem d)).map (fun x =>
          ({ c with pieces := [⟨r, 0, n r * kElem d, 0, x.1, true⟩], counts := [(r, n r)] }, x.2))

/-- A start fails (R373, R379): the bit and the event, the list in FAULT with POS on the entry, and a bus error to the contexts whose
CINCs it consumed. -/
def startFail (s : State) (re slot : Nat) (land : Bool) (d : List Byte) (inst : Nat) (ctxs : List (Nat × Nat)) : State :=
  let entry := s.fld .RE_LIST_CTL_POS (iodDie re) 0 slot
  let s := s.reFault re slot (if land then .RE_FAULT_LAND else .RE_FAULT_BAD_DESC) (if land then 2 else 1) (kTag d) inst entry (some .EV_RE_FAULT)
  (s.setFld .RE_LIST_CTL_STATE (iodDie re) 0 slot 2).reError ctxs (kTag d)

/-- A collective as it starts: its descriptor, entry, instance and contexts, the step of its census, and nothing done (R368, R369). -/
def collNew (s : State) (slot : Nat) (d : List Byte) (pos inst : Nat) (ctxs : List (Nat × Nat)) : Coll :=
  { desc := d, entry := pos, inst := inst, started := s.now, step := s.fld .NUM_STEP_STEP mh0 slot,
    ctxs := ctxs, credits := [], granted := [], first := [], out := [], task := 0, blk := 0, copies := s.collCopies d, pieces := [],
    counts := [], placed := kOp d != 4, localSq := 0, sumSq := 0, census := censusZero, censusSealed := false,
    poison := false, trunc := false, seen := [], gathered := false, totals := (0, 0), passed := false, timedOut := false }

/-- Starts the entry at POS of a slot's list, where its operation is the wanted one or a reserved one (R368, R369, R373 to R381). -/
def collStart (s : State) (re slot op : Nat) : State :=
  let dd := iodDie re
  let pos := s.fld .RE_LIST_CTL_POS dd 0 slot
  let cnt := s.fld .RE_LIST_CTL_CNT dd 0 slot
  if cnt = 0 || s.fld .RE_LIST_CTL_STATE dd 0 slot = 2 || 4 ≤ (s.reColls re slot).length then s
  else
    match s.vaRead (unitReq slot) slot (s.fld .RE_LIST_BASE_BASE dd 0 slot * 64 + 64 * pos) 64 with
    | (.wait, _) => s
    | (.bad, s) => s.startFail re slot false [] 0 []
    | (.ok bs, s1) =>
      if mPoison bs then s1.startFail re slot false [] 0 []
      else
        let d := bs.map MByte.b
        let k := field d 3 1 % 8
        let dies := (List.range 8).filter (fun cd => (kDies d).testBit cd)
        if !(kOp d = op || kOp d = 0 || 9 < kOp d) || !dies.all (fun cd => !(s1.reQueue re cd slot k).isEmpty) then s
        else
          let ctxs := dies.map (fun cd => (cd, (s1.reQueue re cd slot k).headD 0))
          let s2 := dies.foldl (fun s cd => s.reConsume re cd slot k) s1
          let inst := s2.insts.get 0 (Key.at re slot (kTag d)) % 256
          if !s2.collShape d then s2.startFail re slot false d inst ctxs
          else
            let tableLen := if kOp d = 4 then 8 * kSize d else if kOp d = 5 then 16 * (kArg d).toNat else 0
            if !s2.collInside slot (kAux d) tableLen false then s2.startFail re slot false d inst ctxs
            else
              match s2.collTable slot d with
              | none => s
              | some (table, s3) =>
                if kOp d = 5 && (moveTable d (kArg d).toNat table).isNone then s3.startFail re slot false d inst ctxs
                else if !(collRegions d table).all (fun r => s3.collInside slot r.1 r.2.1 r.2.2) then s3.startFail re slot false d inst ctxs
                else
                  let pieces := collPieces d table
                  let slots := s3.fld .RE_LAND_SLOTS_SLOTS dd 0 slot
                  let senders := if kOp d = 4 then kSize d - 1 else (s3.collSenders d pieces).length
                  let tooMuch := kOp d = 5 && decide (slots * 4096 < (pieces.map Piece.bytes).foldl (· + ·) 0)
                  if slots < senders || tooMuch then s3.startFail re slot true d inst ctxs
                  else
                    match s3.collBegin slot (s3.collNew slot d pos inst ctxs) table with
                    | none => s
                    | some (c, s4) =>
                      let s5 := s4.setColls re slot (s4.reColls re slot ++ [c])
                      let s5 := { s5 with insts := s5.insts.modify 0 (Key.at re slot (kTag d)) (· + 1) }
                      let s5 := s5.setFld .RE_LIST_CTL_POS dd 0 slot (if pos + 1 < cnt then pos + 1 else 0)
                      let s6 := if kOp d = 4 then
                          ((List.range (kSize d)).filter (fun q => q != kRank d)).foldl (fun s q =>
                            s.collMsg slot c q 4 (mValue (mSub table (8 * q) 4)) 0) s5
                        else s5
                      collPump re slot 8 s6

/-- A landed frame belongs to a collective. -/
def landedOf (l : Landed) (c : Coll) : Bool := bits l.frame.flow 31 16 == kTag c.desc && bits l.frame.flow 15 8 == c.inst % 256

/-- Frees the landing slot of a consumed frame (R379). -/
def freeLanded (s : State) (re slot : Nat) (l : Landed) : State := s.setLanded re slot ((s.reLanded re slot).erase l)

/-- Counts element bytes received. -/
def countRx (s : State) (re n : Nat) : State := s.incFld .RE_CNT_RX_BYTES_COUNT (iodDie re) 0 0 n

/-- Consumes the received partial sums of the next blocks of the task in turn (R384, R385), once every source's frame has landed. -/
def reduceStep (s : State) (re slot k : Nat) (c : Coll) (t : CTask) : Option State :=
  let cur := t.lo + c.blk
  let found := t.sources.map (fun q => (s.reLanded re slot).find? (fun l =>
    l.peer == q && landedOf l c && bits l.frame.flow 7 6 == 0 && l.frame.offset / 128 + l.used == cur))
  if found.isEmpty || found.any Option.isNone then none
  else
    let ls := found.filterMap id
    let n := ls.foldl (fun n l => min n (l.frame.data.length - l.used)) (t.hi - cur)
    let recv (b : Nat) : List (List AccVal) := ls.map (fun l =>
      let j := b - l.frame.offset / 128
      (List.range (kIn c.desc b)).map (g16sElem (field l.frame.hdr (0x28 + j) 1) false (mSub (frameBytes l.frame) (128 * j) 128)))
    (s.runTask re slot k c t n recv).map (fun s =>
      ls.foldl (fun s l =>
        let s := s.countRx re (kSpan c.desc cur (cur + n))
        if l.used + n = l.frame.data.length then s.freeLanded re slot l
        else s.setLanded re slot ((s.reLanded re slot).map (fun x => if x = l then { x with used := x.used + n } else x))) s)

/-- The end of the range of blocks that a copy frame lies in: a half of a shard, a half of a chain's vector, or the whole vector. -/
def copyEnd (d : List Byte) (dir b : Nat) : Nat :=
  if kTree d then kBlocks d
  else if kOp d = 1 && kChain d then (if b < kMid (0, kBlocks d) then kMid (0, kBlocks d) else kBlocks d)
  else
    match ((List.range (kSize d)).map (kShard d)).find? (fun x => x.1 ≤ b && b < x.2) with
    | none => b
    | some x => if kChain d || dir = 1 then x.2 else kMid x

/-- Consumes a copied frame (R378, R384): its bits are stored as they are and go on to the next member. -/
def copyStep (s : State) (re slot k : Nat) (c : Coll) (l : Landed) : Option State :=
  let d := c.desc
  let dir := bits l.frame.flow 5 5
  let w := 64 * kWire d
  let off := l.frame.offset
  let b := off / w
  let n := min (128 * l.frame.data.length) (min (copyEnd d dir b * w) (kCount d * kWire d) - off)
  let bs := (frameBytes l.frame).take n
  let scales := if kReduces d || kScaled d then (l.frame.hdr.drop 0x28).take ((n + 127) / 128) else []
  if !(s.collRoom slot (kDst d + off) n && s.collRoom slot (kDstScale d + b) scales.length) then none
  else
    let s := (s.vaStore (unitReq slot) slot (kDst d + off) bs).vaWrite (unitReq slot) slot (kDstScale d + b) scales false (mSealed bs)
    let next := (s.copyTargets d dir b).map (fun q => (⟨q, 1, dir, off, n, l.frame.data, (l.frame.hdr.drop 0x28).take 30⟩ : OutFrame))
    let s := s.modColl re slot k (fun c => { c with out := c.out ++ next, copies := c.copies - (n + w - 1) / w, poison := c.poison || mPoison bs })
    some ((s.countRx re n).freeLanded re slot l)

/-- The piece that a frame of a direct operation belongs to, and the pieces of its sender that it shows to be short: a frame at offset 0
starts the sender's next segment, so a begun piece ends where it stands, and any other frame goes on with the begun piece (R376,
R381). None where no piece takes it: it is more than its pair receives. -/
def pieceOf (ps : List Piece) (peer off : Nat) : Option Nat × Option Nat :=
  match ps.findIdx? (fun x => x.peer = peer && !x.finished) with
  | none => (none, none)
  | some i =>
    let have_ := (ps.getD i ⟨0, 0, 0, 0, [], true⟩).buf.length
    if off = have_ then (some i, none)
    else if off != 0 then (none, none)
    else ((ps.zipIdx.find? (fun x => i < x.2 && x.1.peer = peer && !x.1.finished)).map Prod.snd, some i)

/-- Consumes a frame of a direct operation (R374 to R377). A PERMUTE stores a piece only when all of it has come and its BYTES agree,
as far as whole flits show it (log entry 43). -/
def pieceStep (s : State) (re slot k : Nat) (c : Coll) (l : Landed) : Option State :=
  if !c.placed then none
  else
    let place := pieceOf c.pieces l.peer l.frame.offset
    let short (ps : List Piece) : List Piece := match place.2 with
      | some j => ps.modify j (fun x => { x with finished := true })
      | none => ps
    match place.1 with
    | none => some ((s.modColl re slot k (fun c => { c with pieces := short c.pieces, trunc := true })).freeLanded re slot l)
    | some i =>
      let x := c.pieces.getD i ⟨0, 0, 0, 0, [], true⟩
      let rest := x.bytes - x.buf.length
      let m := 128 * l.frame.data.length
      let bs := (frameBytes l.frame).take (min m rest)
      let perm := kOp c.desc = 5
      let bad := decide (rest + 128 ≤ m) || (perm && decide (m < rest) && decide (l.frame.data.length < 30))
      let done := decide (rest ≤ m) || (perm && bad)
      let buf := x.buf ++ bs
      let put : Nat × List MByte :=
        if perm then (x.va, if done && !bad then buf else [])
        else (x.va + x.buf.length, bs.take (x.keep - x.buf.length))
      if !s.collRoom slot put.1 put.2.length then none
      else
        let s := s.vaStore (unitReq slot) slot put.1 put.2
        let s := s.modColl re slot k (fun c => { c with
          pieces := (short c.pieces).set i { x with buf := buf, finished := done }, trunc := c.trunc || bad || place.2.isSome, poison := c.poison || mPoison bs })
        some ((s.countRx re bs.length).freeLanded re slot l)

/-- Consumes one landed frame, if its turn has come. -/
def consumeOne (s : State) (re slot : Nat) (l : Landed) : Option State :=
  match (s.reColls re slot).findIdx? (fun c => landedOf l c) with
  | none => some (s.freeLanded re slot l)
  | some k =>
    ((s.reColls re slot)[k]?).bind (fun c =>
      if 4 ≤ kOp c.desc then s.pieceStep re slot k c l
      else if bits l.frame.flow 7 6 = 1 && kOp c.desc != 2 then s.copyStep re slot k c l
      else if kReduces c.desc && bits l.frame.flow 7 6 = 0 then
        match s.collTurn re slot with
        | some (j, c, t) => if j = k then s.reduceStep re slot k c t else none
        | none => none
      else some (s.freeLanded re slot l))

/-- Everything that R370 asks of a collective has happened; a frame that has landed for a direct operation is consumed first. -/
def collDone (s : State) (re slot : Nat) (c : Coll) : Bool :=
  s.tasksDone c && !(5 ≤ kOp c.desc && (s.reLanded re slot).any (fun l => landedOf l c)) && c.copies = 0 && c.out.isEmpty && c.placed && c.pieces.all (fun x => x.finished)
    && (!kCircuit c.desc || c.passed)

/-- Ends a collective (R370): the census merge, counter 0x61 of its contexts, and the errors of poison, truncation and the merge
("When a poisoned word meets a reduction", R375 to R377, R217). -/
def collEnd (s : State) (re slot k : Nat) (c : Coll) : State :=
  let d := c.desc
  let counted := kCen d && kReduces d && c.census.headD 0 != 0
  match (if counted then s.censusMerge slot (bits (field d 6 2) 11 0) (bits (field d 6 2) 14 12) c.step c.census c.censusSealed
    else some (true, s)) with
  | none => s
  | some (merged, s) =>
    let s := s.setColls re slot ((s.reColls re slot).eraseIdx k)
    let s := s.setLanded re slot ((s.reLanded re slot).filter (fun l => !landedOf l c))
    let s := c.ctxs.foldl (fun s x => s.bumpCnt x.1 x.2 0x61) s
    let bad := c.poison || c.trunc || !merged
    let s := if c.trunc then s.reFault re slot .RE_FAULT_TRUNC 4 (kTag d) c.inst c.entry none else s
    let s := if c.poison then s.reFault re slot .RE_FAULT_POISON 3 (kTag d) c.inst c.entry (some .EV_RE_POISON) else s
    let s := if bad then s.reError c.ctxs (kTag d) else s
    collPump re slot 8 (s.incFld (if bad then .RE_CNT_ERR_COUNT else .RE_CNT_DONE_COUNT) (iodDie re) 0 0)

/-- Takes the oldest BARRIER message with a SUB that is stale or whose collective is ready for it: the answer is the state without it,
with the engine, place and collective it belongs to (R382, R383). -/
def reMsg (s : State) (sub : Nat) (ready : Nat → Coll → Bool) : Option (List Byte × Nat × Option (Nat × Nat × Coll) × State) :=
  let target (m : List Byte) : Option (Nat × Nat × Coll) :=
    (s.findColl (msgSlot m) (field m 0x16 2) (field m 0x15 1)).bind (fun x => ((s.reColls x.1 (msgSlot m))[x.2]?).map (fun c => (x.1, x.2, c)))
  let stale (m : List Byte) : Bool := [0, 1].all (fun re => s.reStale re (msgSlot m) (msgGen m) (field m 0x16 2) (field m 0x15 1))
  let want (m : List Byte) : Bool :=
    msgKind m = 4 && field m 0x10 1 = sub && (stale m || (match target m with | some x => ready (msgSlot m) x.2.2 | none => true))
  match s.takeMsg want with
  | none => none
  | some (_, m, s) => some (m, msgSlot m, if stale m then none else target m, if stale m then s.countStale (msgSlot m) (field m 0x16 2) else s)

/-- The member that sent a message: its rank, or the tree port toward it. -/
def msgPeer (s : State) (c : Coll) (m : List Byte) : Nat :=
  if kTree c.desc then (s.treePort (msgSrc m)).getD 8
  else ((List.range (kSize c.desc)).find? (fun q => kPos c.desc q = msgSrc m)).getD (kSize c.desc)

/-- GATHER passes a member (R383, R388): on a ring the others add their sums and send it on, and rank 0 answers its return with
RESULT; on a tree it is noted. -/
def gatherMsg (s : State) (sub : Nat) : State :=
  match s.reMsg sub (fun _ c => s.tasksDone c) with
  | none => s
  | some (_, _, none, s) => s
  | some (m, slot, some (re, k, c), s) =>
    let d := c.desc
    let a := field m 0x18 8
    let b := field m 0x20 8
    if !kCircuit d || kGatherSub d != sub then s
    else if kTree d then
      let t := if sub = 1 then (0, 0) else (add64 c.totals.1 a, add64 c.totals.2 b)
      collPump re slot 8 (s.modColl re slot k (fun c => { c with seen := c.seen ++ [s.msgPeer c m], totals := t }))
    else if kRank d = 0 then s.collMsg slot c (circNext d) (sub + 1) a b
    else
      let s := s.modColl re slot k (fun c => { c with gathered := true })
      if sub = 1 then s.collMsg slot c (circNext d) sub 0 0 else s.collMsg slot c (circNext d) sub (add64 a c.localSq) (add64 b c.sumSq)

/-- RESULT passes a member (R383, R388). -/
def resultMsg (s : State) (sub : Nat) : State :=
  match s.reMsg sub (fun slot c => sub = 2 || s.collRoom slot (kAux c.desc) 64) with
  | none => s
  | some (_, _, none, s) => s
  | some (m, slot, some (re, k, c), s) =>
    let t := (field m 0x18 8, field m 0x20 8)
    if !kCircuit c.desc || kGatherSub c.desc + 1 != sub || c.passed then s
    else
      let s := s.passResult re slot k c t
      if kTree c.desc || kRank c.desc = 0 then s else s.collMsg slot c (circNext c.desc) sub t.1 t.2

/-- Drops the collectives of a slot on an engine ("When an abort meets a collective"): nothing more is sent for them, and their landing
slots and credits go. -/
def dropColls (s : State) (re slot : Nat) : State := (s.setColls re slot []).setLanded re slot []

/-- Resets the lists of a slot (R416) and its instance counts: every member of the job starts anew (DEDUCED, log entry 44). -/
def resetLists (s : State) (slot : Nat) : State :=
  [0, 1].foldl (fun s re =>
    let s := s.dropColls re slot
    let s := (s.setFld .RE_LIST_CTL_POS (iodDie re) 0 slot 0).setFld .RE_LIST_CTL_STATE (iodDie re) 0 slot 0
    { s with insts := s.insts.clear (fun k => k.d == re && k.u == slot) }) s

/-- Writes RE_LIST_CTL (R373, R397); the instance counts of R381 go on. -/
def writeListCtl (s : State) (re slot : Nat) (v : Nat) : Option State :=
  if !(s.reColls re slot).isEmpty then none
  else
    some (((s.setFld .RE_LIST_CTL_CNT (iodDie re) 0 slot (bits v 15 0)).setFld .RE_LIST_CTL_POS (iodDie re) 0 slot 0).setFld
      .RE_LIST_CTL_STATE (iodDie re) 0 slot 0)

/-- Beats spent waiting for credits, in a tick of the reference timer (R380). -/
def creditTick (s : State) : State :=
  [0, 1].foldl (fun s re =>
    let waits := (List.range 4).any (fun slot => (s.reColls re slot).any (fun c =>
      !c.out.isEmpty && c.out.all (fun o => !c.credits.any (fun e => e.1 == o.peer && 0 < e.2))))
    if waits then s.incFld .RE_CNT_CREDIT_WAIT_COUNT (iodDie re) 0 0 Config.engineBeats else s) s

end State

/-- ALL_REDUCE (R374, R384): the entry at POS of a slot's list starts. -/
def execAllReduce (re : Fin 2) (slot : Fin 4) (s : State) : Out := .next (s.collStart re slot 1)
/-- REDUCE_SCATTER (R374). -/
def execReduceScatter (re : Fin 2) (slot : Fin 4) (s : State) : Out := .next (s.collStart re slot 2)
/-- ALL_GATHER (R374, R378). -/
def execAllGather (re : Fin 2) (slot : Fin 4) (s : State) : Out := .next (s.collStart re slot 3)
/-- ALL_TO_ALL (R374, R375): its counts go out first. -/
def execAllToAll (re : Fin 2) (slot : Fin 4) (s : State) : Out := .next (s.collStart re slot 4)
/-- PERMUTE (R376). -/
def execPermute (re : Fin 2) (slot : Fin 4) (s : State) : Out := .next (s.collStart re slot 5)
/-- SEND (R377). -/
def execSend (re : Fin 2) (slot : Fin 4) (s : State) : Out := .next (s.collStart re slot 6)
/-- RECV (R377). -/
def execRecv (re : Fin 2) (slot : Fin 4) (s : State) : Out := .next (s.collStart re slot 7)
/-- SHIFT (R374). -/
def execShift (re : Fin 2) (slot : Fin 4) (s : State) : Out := .next (s.collStart re slot 8)
/-- BARRIER (R383). -/
def execBarrier (re : Fin 2) (slot : Fin 4) (s : State) : Out := .next (s.collStart re slot 9)

/-- RE_FRAME_CONSUME (R375 to R379, R384 to R386): the oldest landed frame whose turn has come. -/
def execReFrameConsume (re : Fin 2) (slot : Fin 4) (s : State) : Out :=
  .next (
    match (s.reLanded re slot).findSome? (fun l => s.consumeOne re slot l) with
    | none => s
    | some s => State.collPump re slot 8 s)

/-- COLLECTIVE_END (R370): a collective of the slot's running ones ends. -/
def execCollectiveEnd (re : Fin 2) (slot : Fin 4) (index : Fin 4) (s : State) : Out :=
  .next (
    match (s.reColls re slot)[index.val]? with
    | none => s
    | some c => if s.collDone re slot c then s.collEnd re slot index c else s)

/-- COLLECTIVE_TIMEOUT ("When a peer failure meets a collective", RE_CTL.LIMIT): the collective stays open. -/
def execCollectiveTimeout (re : Fin 2) (slot : Fin 4) (s : State) : Out :=
  .next (
    let limit := max (s.fld .RE_CTL_LIMIT (iodDie re)) 1 * 1000 * usTicks
    match (s.reColls re slot).findIdx? (fun c => !c.timedOut && decide (c.started + limit ≤ s.now)) with
    | none => s
    | some k =>
      match (s.reColls re slot)[k]? with
      | none => s
      | some c =>
        (s.modColl re slot k (fun c => { c with timedOut := true })).reFault re slot .RE_FAULT_TIMEOUT 5 (kTag c.desc) c.inst c.entry
          (some .EV_RE_TIMEOUT))

/-- CREDIT (R380, R383): credits of a receiver; frames that waited for them leave. -/
def execCredit (s : State) : Out :=
  .next (
    match s.reMsg 3 (fun _ _ => true) with
    | none => s
    | some (_, _, none, s) => s
    | some (m, slot, some (re, k, c), s) =>
      let q := s.msgPeer c m
      let n := field m 0x18 4
      let more (cs : List (Nat × Nat)) : List (Nat × Nat) :=
        if cs.any (fun e => e.1 == q) then cs.map (fun e => if e.1 = q then (q, e.2 + n) else e) else cs ++ [(q, n)]
      State.collPump re slot 8 (s.modColl re slot k (fun c => { c with credits := more c.credits })))

/-- COUNT (R374, R383): RECV of the sender's entry in the count table. -/
def execCount (s : State) : Out :=
  .next (
    match s.reMsg 4 (fun _ _ => true) with
    | none => s
    | some (_, _, none, s) => s
    | some (m, slot, some (re, k, c), s') =>
      let q := s'.msgPeer c m
      let n := field m 0x18 4
      let va := kAux c.desc + 8 * q + 4
      if !s'.collRoom slot va 4 then s
      else if kOp c.desc != 4 || kSize c.desc ≤ q || c.counts.any (fun e => e.1 == q) then s'
      else
        State.collPump re slot 8 ((s'.vaWrite (unitReq slot) slot va (leBytes 4 n) false false).modColl re slot k (fun c =>
          { c with counts := c.counts ++ [(q, n)] })))

/-- BARRIER_GATHER (R382, R383). -/
def execBarrierGather (s : State) : Out := .next (s.gatherMsg 1)
/-- BARRIER_RESULT (R382, R383). -/
def execBarrierResult (s : State) : Out := .next (s.resultMsg 2)
/-- NOISE_GATHER (R388). -/
def execNoiseGather (s : State) : Out := .next (s.gatherMsg 5)
/-- NOISE_RESULT (R388). -/
def execNoiseResult (s : State) : Out := .next (s.resultMsg 6)

/-- RE_LIST_CTL_WRITE (R373, R397). -/
def execReListCtlWrite (acc : Accessor) (re : Fin 2) (slot : Fin 4) (v : Word64) (s : State) : Out :=
  .next (s.regWrite (iodDie re) (isSup acc) (fun s => s.writeListCtl re slot v.toNat))

/-- A slot's list is loaded on an engine, and its host may seed the generator (R223, R397). -/
def State.seedAllowed (s : State) (acc : Accessor) (re : Nat) : Bool :=
  isSup acc || (List.range 4).any (fun x => s.hostAuth acc x && s.fld .RE_LIST_CTL_CNT (iodDie re) 0 x != 0)

/-- Writes RE_SR_SEED (R221). -/
def State.writeReSeed (s : State) (re : Nat) (v : Word64) : State :=
  { s.setFld .RE_SR_SEED_SEED (iodDie re) 0 0 v.toNat with reGen := s.reGen.set 1 (Key.at re) (seedOf v.toNat) }

/-- RE_SR_SEED_WRITE (R221, R223, R397). -/
def execReSrSeedWrite (acc : Accessor) (re : Fin 2) (v : Word64) (s : State) : Out :=
  .next (s.regWrite (iodDie re) (s.seedAllowed acc re) (fun s => some (s.writeReSeed re v)))

/-- YIELD_FORCED (R396): sideshow work left on a die 20 µs after a yield started is abandoned, and the contexts that issued it fault. -/
def execYieldForced (cd : Fin 8) (s : State) : Out :=
  .next (
    if !s.flag .SEQ_SS_STATUS_YIELDING cd || decide (s.now < s.yieldAt.get 0 (Key.at cd) + 20 * usTicks) then s
    else
      match (List.range 4).find? (fun x => s.isSideshow x) with
      | none => s
      | some slot =>
        let s := State.cutUnits.foldl (fun s u =>
          let c := s.cutUnit cd u slot
          c.ctxs.eraseDups.foldl (fun s x => s.faultCtx cd x causeYield u) c.st) s
        let s := (s.cutUses cd slot).incFld .SEQ_CNT_SS_FORCED_COUNT cd 0 0
        let s := (s.setFld .SEQ_SS_STATUS_FORCED cd 0 0 1).yieldSettle cd
        (s.raise .EV_SS_YIELD_FORCED cd 0 (s.regWord .SEQ_SS_STATUS cd) (some slot)).notice slot 6 (leBytes 1 cd))

end Sys2Proof.Machine
end

