-- ==== Sys2Proof/Machine/Recorder.lean ====
section
/-! DEFINITION. The event recorder (chapter "Event recorder", R500 to R509): records, staging and flush, flood control, the window
and the clear. Each unit puts its events into `State.events` when it raises them; EVENT_RAISE brings the oldest one here. -/

namespace Sys2Proof.Machine

/-- Places of the flash log and of the staging SRAM (R502). -/
def logPlaces : Nat := 65536
def stagePlaces : Nat := 1024

/-- One token in the units of a bucket: RATE tokens per second are RATE units per tick of the reference timer (R14, R505). -/
def tokenUnits : Nat := 100000000

/-- The 32 bytes of a record (R500). -/
def eventRecord (seq : Nat) (e : Event) (cycles suppr : Nat) : List Byte :=
  leBytes 4 seq ++ leBytes 2 e.code ++ leBytes 1 e.die ++ leBytes 1 e.unit ++ leBytes 4 e.sec ++ leBytes 4 cycles ++ leBytes 8 e.a
    ++ leBytes 4 (match e.slot with | some x => x % 4 + 4 | none => 0) ++ leBytes 2 suppr ++ leBytes 1 0 ++ leBytes 1 0x5A

namespace State

/-- The missing tokens of a code's bucket now, at most its capacity (R505). -/
def bucketMissing (s : State) (code : Nat) : Nat :=
  let b := s.buckets.get ⟨0, 0⟩ (Key.at 0 code)
  let cap := max (s.fld .EVR_RATE_DATA_BURST iod0 0 code) 1 * tokenUnits
  min cap (b.missing - s.fld .EVR_RATE_DATA_RATE iod0 0 code * (s.now - b.seen))

/-- Brings a bucket up to now. -/
def bucketSettle (s : State) (code : Nat) : State :=
  let m := s.bucketMissing code
  { s with buckets := s.buckets.set ⟨0, 0⟩ (Key.at 0 code) (if m = 0 then ⟨0, 0⟩ else ⟨m, s.now⟩) }

/-- An event takes a token: `none` where its bucket holds less than one (R505). RATE = 0 exempts the code. -/
def bucketTake (s : State) (code : Nat) : Option State :=
  if s.fld .EVR_RATE_DATA_RATE iod0 0 code = 0 then some s
  else
    let cap := max (s.fld .EVR_RATE_DATA_BURST iod0 0 code) 1 * tokenUnits
    let m := s.bucketMissing code
    if cap < m + tokenUnits then none
    else some { s with buckets := s.buckets.set ⟨0, 0⟩ (Key.at 0 code) ⟨m + tokenUnits, s.now⟩ }

/-- Starts a flush of every pending record, or has it follow the running flush or erase (R502, "When a record meets a flush"). -/
def startFlush (s : State) : State :=
  if s.flag .EVR_STATUS_CLEARING iod0 || s.flushN.isSome then { s with flushDue := true }
  else if s.staged.isEmpty then s
  else { s with flushN := some s.staged.length, flushDue := false }.setFld .EVR_STATUS_FLUSHING iod0 0 0 1

/-- The log is full (R504). -/
def logFull (s : State) : Bool := logPlaces ≤ s.evLog.length + s.staged.length

/-- Puts a record into staging under the next sequence number (R501). -/
def storeRecord (s : State) (e : Event) (suppr : Nat) : State :=
  let seq := (s.fld .EVR_SEQ_LAST_SEQ iod0 + 1) % 2 ^ 32
  let s := { s with staged := s.staged ++ [eventRecord seq e (s.fld .SUP_CYCLES_POWER iod0) suppr] }.setFld .EVR_SEQ_LAST_SEQ iod0 0 0 seq
  if s.logFull then s.setFld .EVR_STATUS_LOG_FULL iod0 0 0 1 else s

/-- An event reaches the recorder (R502 to R505). -/
def recordEvent (s : State) (e : Event) : State :=
  match s.bucketTake e.code with
  | none => (s.incSat .EVR_RATE_DATA_SUPPR iod0 0 e.code).incFld .EVR_CNT_SUPPR_COUNT iod0 0 0
  | some s =>
    if s.logFull then (s.setFld .EVR_STATUS_LOG_FULL iod0 0 0 1).incSat .EVR_DROPPED_FULL iod0 0 0
    else if stagePlaces ≤ s.staged.length then s.incSat .EVR_DROPPED_STAGE iod0 0 0
    else
      let s := (s.storeRecord e (s.fld .EVR_RATE_DATA_SUPPR iod0 0 e.code)).setFld .EVR_RATE_DATA_SUPPR iod0 0 e.code 0
      if evClassF e.code || 256 ≤ s.staged.length then
        if s.flushN.isSome && !evClassF e.code then s else s.startFlush
      else s

/-- Every event on its way reaches the recorder, in order. -/
def recordAll (s : State) : State := s.events.foldl recordEvent { s with events := [] }

/-- A flush ends (R502): its records lie in the flash log, and the next flush starts where one is due. -/
def flushDone (s : State) : State :=
  match s.flushN with
  | none => s
  | some n =>
    let s := { s with evLog := s.evLog ++ s.staged.take n, staged := s.staged.drop n, flushN := none }.setFld .EVR_STATUS_FLUSHING iod0 0 0 0
    if s.flushDue || 256 ≤ s.staged.length then { s with flushDue := false }.startFlush else s

/-- A clear (R507): the log and the pending records are gone, and EV_EVR_CLEARED is the first record of the new log. -/
def clearLog (s : State) : State :=
  if s.flag .EVR_STATUS_CLEARING iod0 then s
  else
    let last := s.fld .EVR_SEQ_LAST_SEQ iod0
    let drops := (s.fld .EVR_DROPPED_FULL iod0 + s.fld .EVR_DROPPED_STAGE iod0) % 2 ^ 32
    let s := { s with staged := [], evLog := [], flushN := none, flushDue := true }
    let s := ((s.setFld .EVR_STATUS_FLUSHING iod0 0 0 0).setFld .EVR_STATUS_CLEARING iod0 0 0 1).setFld .EVR_STATUS_LOG_FULL iod0 0 0 0
    let s := ((s.setFld .EVR_DROPPED_FULL iod0 0 0 0).setFld .EVR_DROPPED_STAGE iod0 0 0 0).setFld .EVR_CNT_SUPPR_COUNT iod0 0 0 0
    let s := s.setFld .EVR_SEQ_FIRST_SEQ iod0 0 0 (last + 1)
    s.storeRecord ⟨s.fld .SUP_OPSEC_SECONDS iod0, Ev.code .EV_EVR_CLEARED, iod0, 0, last + drops * 2 ^ 32, none⟩ 0

/-- The recorder's scan of the log at boot (R503). -/
def scanLog (s : State) : State :=
  let first := match s.evLog with
    | r :: _ => leNat (r.take 4)
    | [] => 1
  let s := (s.setFld .EVR_SEQ_FIRST_SEQ iod0 0 0 first).setFld .EVR_SEQ_LAST_SEQ iod0 0 0 (first + s.evLog.length + 2 ^ 32 - 1)
  s.setFld .EVR_STATUS_LOG_FULL iod0 0 0 (if logPlaces ≤ s.evLog.length then 1 else 0)

/-- The record of sequence number `q`, zero outside SEQ_FIRST to SEQ_LAST (R506). -/
def evrRecord (s : State) (q : Nat) : List Byte :=
  let k := q - s.fld .EVR_SEQ_FIRST_SEQ iod0
  if q < s.fld .EVR_SEQ_FIRST_SEQ iod0 || s.evLog.length + s.staged.length ≤ k then List.replicate 32 0
  else if k < s.evLog.length then s.evLog.getD k [] else s.staged.getD (k - s.evLog.length) []

/-- Word `i` of EVR_WIN (R506). -/
def evrWinWord (s : State) (i : Nat) : Nat :=
  leNat (((s.evrRecord (s.fld .EVR_CURSOR_SEQ iod0 + i / 4)).drop (8 * (i % 4))).take 8)

end State

/-- EVENT_RAISE (R505): the oldest event on its way reaches the recorder. -/
def execEventRaise (s : State) : Out :=
  .next (match s.events with
    | [] => s
    | e :: rest => { s with events := rest }.recordEvent e)

/-- EVR_FLUSH (R502, R509). -/
def execEvrFlush (acc : Accessor) (s : State) : Out := .next (s.regWrite iod0 (isSup acc) fun s => some s.startFlush)

/-- EVR_CLEAR (R507, R509). -/
def execEvrClear (acc : Accessor) (s : State) : Out := .next (s.regWrite iod0 (isSup acc) fun s => some s.clearLog)

/-- EVR_ERASE_COMPLETE (R507): the records that were raised during the erase are flushed. -/
def execEvrEraseComplete (s : State) : Out :=
  .next (if s.flag .EVR_STATUS_CLEARING iod0 then (s.setFld .EVR_STATUS_CLEARING iod0 0 0 0).startFlush else s)

end Sys2Proof.Machine
end

