-- ==== Sys2Proof/Machine/Failures.lean ====
section
/-! DEFINITION. Replies (R431 to R435), the abandonment of a whole slot (R448 to R450), disabling it (R451), the budget rule (R453), and
a die that fails (R332, R412). -/

namespace Sys2Proof.Machine

/-- Status codes (R441). -/
def stOk : Nat := 0x0000
def stAccepted : Nat := 0x0001
def stAborted : Nat := 0x0002
def stBadOpcode : Nat := 0x0010
def stAuthority : Nat := 0x0011
def stBadParam : Nat := 0x0012
def stSlotState : Nat := 0x0013
def stServiceLevel : Nat := 0x0014
def stGen : Nat := 0x0015
def stRefused : Nat := 0x0016
def stBusy : Nat := 0x0017
def stTorn : Nat := 0x0018
def stBudgetLow : Nat := 0x0019
def stQuota : Nat := 0x0020
def stNoFrame : Nat := 0x0021
def stPat (order : Nat) : Nat := 0x002F + order
def stSealed : Nat := 0x0040

/-- Slot states (SLQ_STATE). -/
def slotFree : Nat := 0
def slotReady : Nat := 1
def slotRunning : Nat := 2
def slotAborting : Nat := 3
def slotDisabling : Nat := 4

/-- An opcode whose command acts on the slot that SLOT names (R438); the others are commands of the whole module. -/
def opOfSlot (op : Nat) : Bool := (op < 0x0600 && op != 0x0502) || 0x0F00 ≤ op

/-- A command of a slot: the slot that its packet names. -/
def Packet.slot (p : Packet) : Nat := p.slotByte % 4
def Packet.namesSlot (p : Packet) : Bool := p.slotByte < 128
def Packet.ofSlot (p : Packet) (slot : Nat) : Bool := opOfSlot p.op && p.namesSlot && p.slot = slot

/-- The 32 bytes of a reply (R431). -/
def replyBytes (p : Packet) (status : Nat) (info : List Byte) : List Byte :=
  leBytes 2 p.op ++ leBytes 2 p.tag ++ leBytes 2 status ++ leBytes 1 p.slotByte ++ leBytes 1 0 ++ State.padTo 24 info

namespace State

/-- Sends a reply (R431, R433 to R435, R447); a reply to a management source is kept for a retry. -/
def reply (s : State) (p : Packet) (status : Nat) (info : List Byte) : State :=
  let r := replyBytes p status info
  match p.replyTo with
  | .mgmt src =>
    { s with out := Output.mgmt src r :: s.out,
             keptReplies := (KeptReply.mk src p.tag s.now r :: s.keptReplies.filter (fun k => !(k.src == src && k.tag == p.tag))).take 64 }
  | .host slot kept => s.cplReply slot kept r
  | .peer pos =>
    s.sendTo pos 7 0 s.myGen
      (leBytes 2 p.op ++ leBytes 2 p.tag ++ leBytes 1 1 ++ leBytes 1 p.slotByte ++ leBytes 2 status ++ padTo 40 info)
  | .nobody => s

/-- Sends a final reply that refuses a command, and counts it (CMD_CNT_REFUSED). -/
def refuse (s : State) (p : Packet) (status : Nat) : State :=
  (s.reply p status []).incFld .CMD_CNT_REFUSED_COUNT iod0 0 0

/-- Commands of a slot that have not replied. -/
def slotRuns (s : State) (slot : Nat) : List CmdRun := s.cmdRuns.filter (fun r => r.pkt.ofSlot slot)

/-- The state of a slot. -/
def slotState (s : State) (slot : Nat) : Nat := s.fld .SLQ_STATE_STATE iod0 slot
def setSlotState (s : State) (slot v : Nat) : State := s.setFld .SLQ_STATE_STATE iod0 slot 0 v

/-- The contexts of a slot on a die. -/
def slotCtxs (s : State) (cd slot : Nat) : List Nat :=
  (List.range 4).filter (fun c => s.ctxState cd c != ctxFree && s.ctxSlot cd c = slot)

/-- A context of an aborted slot is DONE (R449). -/
def finishCtx (s : State) (cd c : Nat) : State :=
  if s.ctxState cd c = ctxDone then s
  else
    let t := s.beatOf cd
    let s := (s.closeHold cd c t).setFld .SEQ_CTX_STATE_WAIT_CNT cd 0 c 0
    let s := s.setCtx cd c { s.ctx cd c with fenced := false, target := 0 }
    let s := s.setCtxState cd c ctxDone
    if !s.flag .SEQ_STATUS_IDLE cd && s.fld .SEQ_STATUS_RUNNING cd = c then s.switchCtx cd t else s

/-- Disarms a slot's release window and zeroes its frames (R495). -/
def disarm (s : State) (slot : Nat) : State :=
  if !s.flagBit .TS_STATUS_ARMED iod0 0 0 slot then s
  else
    let f0 := s.fld .TS_WIN_BASE_BASE iod0 slot
    let frames := (List.range (s.fld .TS_WIN_LEN_FRAMES iod0 slot)).filterMap (fun k =>
      (frameOf (2 ^ 21 * (f0 + k))).map (fun e => (e.1, e.2, s.frame e.1 e.2)))
    (s.setBit .TS_STATUS_ARMED iod0 0 0 slot false).zeroFrames frames

/-- The snapshot of a slot ends: the image stays incomplete (R404), and the slot's contexts go on. -/
def dropSnap (s : State) (slot : Nat) : State :=
  { s with snaps := s.snaps.set none (Key.at 0 slot) none, slotPause := s.slotPause.set false (Key.at 0 slot) false }

/-- Abandons a slot's work in every unit of a compute die: how many operations, and the state (R448, R449). -/
def cutDie (s : State) (cd slot : Nat) : Nat × State :=
  let r := cutUnits.foldl (fun (r : Nat × State) u => let c := r.2.cutUnit cd u slot; (r.1 + c.n, c.st)) (0, s)
  (r.1, (r.2.cutUses cd slot).yieldSettle cd)

/-- Replies ST_ABORTED to the commands of a slot that run. -/
def abortRuns (s : State) (slot : Nat) : State :=
  (s.slotRuns slot).foldl (fun s r => s.reply r.pkt stAborted [])
    { s with cmdRuns := s.cmdRuns.filter (fun r => !r.pkt.ofSlot slot) }

/-- Abandons all of a slot's work on the module, apart from its update (R448, R449): how many operations. -/
def abandonWork (s : State) (slot : Nat) : Nat × State :=
  let r := (List.range 8).foldl (fun (r : Nat × State) cd =>
    let k := r.2.cutDie cd slot
    (r.1 + k.1, (k.2.slotCtxs cd slot).foldl (fun s c => s.finishCtx cd c) k.2)) (0, s)
  let colls := (r.2.reColls 0 slot).length + (r.2.reColls 1 slot).length
  let s := (r.2.dropColls 0 slot).dropColls 1 slot
  let snap := if (s.snaps.get none (Key.at 0 slot)).isSome then 1 else 0
  let s := (s.dropSnap slot).setFld .FLIP_CTL_ARM mh0 slot 0 0
  (r.1 + colls + snap, (s.disarm slot).abortRuns slot)

/-- ABORT_SLOT (R448 to R450): all of the slot's work, its update and its open vote are abandoned, every context is DONE and the slot
is READY. It takes effect at once (log entry 51): the operations abandoned, and the state. -/
def abortSlot (s : State) (slot : Nat) : Nat × State :=
  let was := s.slotState slot
  let vote := (if (s.vote slot).isSome then 1 else 0) + (s.updatesOf slot).length
  let r := s.abandonWork slot
  let s := (r.2.tearUpdate slot).dropVote slot
  let s := if was = slotRunning || was = slotAborting then s.setFld .SLQ_STATE_ABORTED iod0 slot 0 1 else s
  (r.1 + vote, s.setSlotState slot slotReady)

/-- The INFO of an abort (R450): the operations abandoned; it finds none already completed, since each had reported (log entry 51). -/
def abortInfo (n : Nat) : List Byte := leBytes 4 n ++ leBytes 4 0

/-- A pattern of a slot lies on a die. -/
def loaded (s : State) (cd slot : Nat) : Bool := s.patLoaded.get false (Key.at cd slot)

/-- The sum of the grants of the patterns loaded on a die (R151, R177, R453). -/
def grantSum (s : State) (cd : Nat) : Nat :=
  ((List.range 4).map (fun slot => if s.loaded cd slot then (s.pattern cd slot).grant else 0)).foldl (· + ·) 0

end State

/-- Weights of the frequency steps (R452). -/
def stepWeight : Nat → Nat
  | 7 => 256
  | 6 => 210
  | 5 => 169
  | 4 => 136
  | 3 => 108
  | _ => 0

/-- k* of R453: the highest step from 3 to 7 at which grants `g` fit a budget `b`. -/
def budgetStep (g b : Nat) : Option Nat := [7, 6, 5, 4, 3].find? (fun k => g * stepWeight k ≤ 256 * b)

namespace State

/-- Applies a budget B to a die under R453: the budget register, BUD_TARGET and the budget cap. -/
def applyBudget (s : State) (cd b : Nat) : State :=
  let g := s.grantSum cd
  let s := s.setFld .BUD_TARGET_TARGET iod0 0 cd b
  if g ≤ b then
    (((s.setFld .SEQ_TKT_BUDGET_BUDGET cd 0 0 b).setFld .BUD_TARGET_ACTIVE iod0 0 cd 0).setFld .BUD_TARGET_STEP iod0 0 cd 7).setCause .budget cd 7
  else
    let k := (budgetStep g b).getD 3
    (((s.setFld .SEQ_TKT_BUDGET_BUDGET cd 0 0 g).setFld .BUD_TARGET_ACTIVE iod0 0 cd 1).setFld .BUD_TARGET_STEP iod0 0 cd k).setCause .budget cd k

/-- Computes the budget again once grants have fallen (R453). -/
def budgetAgain (s : State) (cd : Nat) : State :=
  if s.flag .BUD_TARGET_ACTIVE iod0 0 cd then s.applyBudget cd (s.fld .BUD_TARGET_TARGET iod0 0 cd) else s

/-- Unloads a slot's pattern from a die (R438, R451): its contexts are FREE, its code and constants go, and its grant and
SE_DESC_BASE are cleared. -/
def unload (s : State) (cd slot : Nat) : State :=
  if !s.loaded cd slot then s
  else
    let s := (s.slotCtxs cd slot).foldl (fun s c =>
      (s.finishCtx cd c).resetFields (fun k => k.d == cd && k.i == c && (Reg.SEQ_CTX_STATE.fields ++ Reg.SEQ_CTX_PC.fields
                 ++ Reg.SEQ_CTX_FAULT.fields).any (fun f => f.fld.id == k.f))) s
    let s := { s with patLoaded := s.patLoaded.set false (Key.at cd slot) false, patterns := s.patterns.set Pattern.none (Key.at cd slot) Pattern.none }
    let s := (s.setFld .SEQ_TKT_GRANT_GRANT cd 0 slot 0).setBit .SLQ_STATE_DIES iod0 slot 0 cd false
    let s := (List.range 8).foldl (fun s se =>
      ((s.setFld .SE_DESC_BASE_BASE cd se slot 0).setFld .SE_DESC_BASE_VALID cd se slot 0).setFld .SE_DESC_BASE_LEN cd se slot 0) s
    s.budgetAgain cd

/-- Zeroes the ACB words of a die whose tag names a slot, and drops the regions and held banks recorded for it (R451). -/
def zeroAcb (s : State) (cd slot : Nat) : State :=
  let lo := acbAddr cd 0 0 / 32
  let hi := acbAddr cd 24 0 / 32
  let words := (s.side.filter (fun e => lo ≤ e.1.i && e.1.i < hi && bits e.2 3 2 = slot)).map (fun e => e.1.i)
  let s := words.foldl (fun s w => s.storeWord (w * 32) ⟨0, 0⟩) s
  (List.range 24).foldl (fun s n =>
    let s := (List.range 8).foldl (fun s q =>
      if (s.region cd n q).slot = some slot then (s.setFld .ARR_ACB_RGN_BASE_ROWS cd n q 0).setRegion cd n q Region.reset else s) s
    let a := s.array cd n
    let drop (b : HeldBank) : HeldBank := if b.slot = some slot then { b with epoch := 0 } else b
    s.setArray cd n { a with bank0 := drop a.bank0, bank1 := drop a.bank1 }) s

/-- The frames and stage SRAM blocks that a slot owns, sealed frames first (R451), as tier, die and number. -/
def slotFrames (s : State) (slot : Nat) : List (Nat × Nat × Nat) :=
  let fs := s.frames.filter (fun e => e.2.owner = .slot slot)
  ((fs.filter (fun e => e.2.isSealed)) ++ (fs.filter (fun e => !e.2.isSealed))).map (fun e => (e.1.u, 0, e.1.i))
def slotBlocks (s : State) (slot : Nat) : List (Nat × Nat × Nat) :=
  (s.blocks.filter (fun e => e.2.owner = some slot)).map (fun e => (2, e.1.d, e.1.i))

/-- A frame or block is being zeroed. -/
def beingZeroed (s : State) (w : Nat × Nat × Nat) : Bool :=
  if w.1 = 2 then (s.block w.2.1 w.2.2).zeroing else (s.frame w.1 w.2.2).zeroing

/-- What a released frame becomes (R257): FREE and ORDINARY in its class. -/
def freedFrame (f : Frame) : Frame := { f with owner := .free, use := .ordinary, isSealed := false }

/-- Releases frames and blocks: they are FREE and zeroed in their class (R256, R257). -/
def releaseAll (s : State) (ws : List (Nat × Nat × Nat)) : State :=
  let s := s.zeroFrames ((ws.filter (fun w => w.1 != 2)).map (fun w => (w.1, w.2.2, freedFrame (s.frame w.1 w.2.2))))
  (ws.filter (fun w => w.1 = 2)).foldl (fun s w => s.zeroBlock w.2.1 w.2.2 none) s

/-- The waiting entries of a slot's command queue. -/
def queueLeft (s : State) (slot : Nat) : Nat :=
  let size := s.fld .SLQ_CMD_CTL_SIZE iod0 slot
  if size = 0 then 0 else (s.fld .SLQ_CMD_CTL_TAIL iod0 slot + size - s.fld .SLQ_CMD_CTL_HEAD iod0 slot % size) % size

/-- The command at the head of a slot's queue: its 64 bytes, and the state with HEAD past it (R445). -/
def takeEntry (s : State) (slot : Nat) : List Byte × State :=
  let head := s.fld .SLQ_CMD_CTL_HEAD iod0 slot
  let r := s.ownRead (s.fld .SLQ_CMD_BASE_BASE iod0 slot * 32 + head * 64) 64
  let s := r.2.2.setFld .SLQ_CMD_CTL_HEAD iod0 slot 0 (if head + 1 < s.fld .SLQ_CMD_CTL_SIZE iod0 slot then head + 1 else 0)
  (r.1, s.incFld .SLQ_CNT_CMD_COUNT iod0 slot 0)

/-- Entries of a slot's command queue that have their final reply already. -/
def skipped (s : State) (slot : Nat) : List Nat := s.qSkip.get [] (Key.at 0 slot)
def headSkipped (s : State) (slot : Nat) : Bool := (s.skipped slot).contains (s.fld .SLQ_CMD_CTL_HEAD iod0 slot)
def unskip (s : State) (slot k : Nat) : State := { s with qSkip := s.qSkip.set [] (Key.at 0 slot) ((s.skipped slot).erase k) }

/-- The packet that 64 bytes spell (R430). -/
def packetOf (bs : List Byte) (rt : ReplyTo) : Packet :=
  ⟨field bs 0 2, field bs 2 2, (field bs 4 1).testBit 0, field bs 5 1, bs.drop 8, rt⟩

/-- Writes ST_ABORTED for every entry still in the command queue, while the completion queue has room (R451). -/
def flushQueue : Nat → Nat → State → State
  | 0, _, s => s
  | fuel + 1, slot, s =>
    if s.queueLeft slot = 0 then s
    else
      let r := s.takeEntry slot
      if s.headSkipped slot then flushQueue fuel slot (r.2.unskip slot (s.fld .SLQ_CMD_CTL_HEAD iod0 slot))
      else flushQueue fuel slot (if r.2.cplRoom slot then r.2.reply (packetOf r.1 (.host slot false)) stAborted [] else r.2)

/-- Steps 1 to 6 of R451 on a slot: the frames and blocks whose zeroing the disable waits for, and the state. -/
def disableSlot (s : State) (slot : Nat) : List (Nat × Nat × Nat) × State :=
  let dies := s.slotDies slot
  let s := (s.abortSlot slot).2.setSlotState slot slotDisabling
  let s := flushQueue 256 slot s
  let s := (List.range 8).foldl (fun s cd => s.unload cd slot) s
  let s := (List.range 8).foldl (fun s cd => s.purgeStash cd slot) s
  let s := s.setFld .XLT_ROOT_EN iod0 slot 0 0
  let ws := s.slotFrames slot ++ s.slotBlocks slot
  let s := s.releaseAll ws
  let s := dies.foldl (fun s cd => s.zeroAcb cd slot) s
  let s := [Fld.QTA_HBM_LIMIT, .QTA_T2_LIMIT, .QTA_STASH_LIMIT, .QTA_SPILL_LIMIT, .QTA_HCACHE_LIMIT].foldl (fun s f => s.setFld f mh0 slot 0 0) s
  (ws, s.resetLists slot)

/-- The registers of a slot page. -/
def slqRegs : List Reg :=
  [.SLQ_STATE, .SLQ_CMD_BASE, .SLQ_CMD_CTL, .SLQ_DB, .SLQ_CPL_BASE, .SLQ_CPL_CTL, .SLQ_EVENTS, .SLQ_ABORT, .SLQ_CNT_CMD, .SLQ_CNT_DROP]

/-- The slot is FREE and its page is cleared (R451). -/
def freeSlotPage (s : State) (slot : Nat) : State :=
  let ids := slqRegs.flatMap (fun r => r.fields.map (fun f => f.fld.id))
  let k := Key.at 0 slot
  { s.resetFields (fun x => x.d == iod0 && x.u == slot && ids.contains x.f) with
    notices := s.notices.set [] k [], replies := s.replies.set [] k [], cplOwed := s.cplOwed.set 0 k 0,
    windows := s.windows.set none k none, qSkip := s.qSkip.set [] k [], quiet := s.quiet.set false k false, recovering := s.recovering.set false k false,
    origin := s.origin.set 0 k 0, restores := s.restores.set none k none,
    resumed := s.resumed.set [] k [], recFills := s.recFills.set none k none }

/-- The supervisor aborts every slot with a pattern on a die. -/
def abortOnDie (s : State) (die : Nat) : State :=
  (List.range 4).foldl (fun s slot => if die < 8 && s.loaded die slot then (s.abortSlot slot).2 else s) s

/-- A die leaves service: IN_SERVICE and its bit of SVC_STATUS clear, its change of step ends, the slots on it are aborted, and the
module is unfit (R332, R412, R518). -/
def dieFails (s : State) (die : Nat) : State :=
  let s := s.setFld .DIE_STATUS_IN_SERVICE die 0 0 0
  let s := if die < 8 then s.setBit .SVC_STATUS_DIES iod0 0 0 die false else s
  (s.abortOnDie die).declareUnfit

end State

/-- CROSSING_ERROR (R330 to R332), of a crossing 0 to 79: the islands of the die stop, the crossing is recorded, and the die leaves service. -/
def execCrossingError (cd : Fin 8) (xing : BitVec 7) (s : State) : Out :=
  .next (
    if 80 ≤ xing.toNat || s.flag .CLK_STATUS_XERR cd || !s.dieUp cd then s
    else
      let s := (s.setFld .CLK_STATUS_XERR cd 0 0 1).setFld .CLK_STATUS_XING cd 0 0 xing.toNat
      let s := s.clkPhase cd .idle (s.fld .CLK_STEP_CURRENT cd)
      let s := s.raise .EV_CLK_XING cd 0 (s.regWord .CLK_STATUS cd)
      s.dieFails cd)

end Sys2Proof.Machine
end

