-- ==== Sys2Proof/Machine/Power.lean ====
section
/-! DEFINITION. Sensors (R460 to R464), the step-down limits on power, heat and coolant (R517 to R521), and the 54 V inputs (R510 to
R514). A cap is one cause among those of R519; the region runs under the lowest. -/

namespace Sys2Proof.Machine

/-- die_id of the supervisor and the carrier in a record (R500). -/
def carrierDie : Nat := 0xFF

/-- A sensor that has not been sampled. -/
def Sensor.none : Sensor := ⟨0, 0, 0, 0, 0, 0, 7, 0, 7⟩

/-- Ticks of the reference timer in a millisecond and in a second (R14). -/
def msTicks : Nat := 100000
def secTicks : Nat := 100000000

/-- The die of a thermal sensor and the sensors of a die (R460); `none` for the carrier and the other sensors. -/
def sensorDie (i : Nat) : Option Nat :=
  if i < 240 then some (i / 30) else if i < 280 then some (mhDie ((i - 240) / 10))
  else if i < 304 then some (iodDie ((i - 280) / 12)) else none

def dieSensors (die : Nat) : List Nat :=
  if die < 8 then (List.range 30).map (fun k => 30 * die + k)
  else if die < 0x20 then (List.range 10).map (fun k => 240 + 10 * (die - 0x10) + k)
  else (List.range 12).map (fun k => 280 + 12 * (die - 0x20) + k)

/-- The frequency region of a compute or hub die. -/
def dieRegion (die : Nat) : Option Nat := if die < 8 then some die else if 0x10 ≤ die && die < 0x14 then some (die - 8) else none

/-- The sensors of the coolant and of the two inputs (R460; which monitors watch the inputs is log entry 52). -/
def snInlet : Nat := 416
def snOutlet : Nat := 417
def snFlow : Nat := 418
def snLeak : Nat := 419
def snVolt (i : Nat) : Nat := 374 + i
def snAmp (i : Nat) : Nat := 414 + i

/-- Inserts into an ascending list. -/
def insertInt (x : Int) : List Int → List Int
  | [] => [x]
  | y :: t => if x ≤ y then x :: y :: t else y :: insertInt x t

/-- Twice the median of a list (R464); an even count takes the mean of the middle two (log entry 53). -/
def median2 (xs : List Int) : Int :=
  let ys := xs.foldr insertInt []
  let n := ys.length
  ys.getD (n / 2) 0 + ys.getD ((n - 1) / 2) 0

/-- The wiring condition of a coolant sensor (R461): 0 none, 1 open, 2 short, 3 leak alarm. `raw` is the input in thousandths of the
range for a temperature, the loop current in µA for the flow, and the resistance in Ω for the leak cable (log entry 54). -/
def wiringCond (i raw : Nat) : Nat :=
  if i = snInlet || i = snOutlet then (if 980 < raw then 1 else if raw < 20 then 2 else 0)
  else if i = snFlow then (if raw < 3600 then 1 else if 21000 < raw then 2 else 0)
  else if i = snLeak then (if 100000 < raw then 1 else if raw < 100 then 2 else if raw ≤ 5000 then 3 else 0)
  else 0

/-- The cap that a coolant reading asks for (R521); 7 for none. -/
def coolantCap (i : Nat) (v : Int) : Nat :=
  if i = snInlet then (if 45 * 16 < v then 3 else if 40 * 16 < v then 5 else 7)
  else if i = snFlow then (if v < 400 then 3 else if v < 600 then 5 else 7)
  else if i = snOutlet then (if 60 * 16 < v then 4 else 7)
  else 7

/-- A coolant reading is within the requirements of R520 and the outlet limit of R521. -/
def coolantGood (i : Nat) (v : Int) : Bool :=
  if i = snInlet then decide (18 * 16 ≤ v) && decide (v ≤ 40 * 16) else if i = snFlow then decide (600 ≤ v) else decide (v ≤ 60 * 16)

namespace State

def sensor (s : State) (i : Nat) : Option Sensor := s.sensors.get none (Key.at 0 0 i)
def setSensor (s : State) (i : Nat) (x : Sensor) : State := { s with sensors := s.sensors.set none (Key.at 0 0 i) (some x) }

/-- SNS_DATA of a sensor (R460). -/
def snsData (s : State) (i : Nat) : Nat :=
  if 419 < i then 5 * 2 ^ 16
  else match s.sensor i with
    | none => 0
    | some x => ofSigned 16 x.value + x.state * 2 ^ 16 + min ((s.now - x.seen) / usTicks) (2 ^ 32 - 1) * 2 ^ 32

/-- PWR_CAP (R519, R525): the lowest cap of a compute region, and which causes hold one. -/
def pwrCap (s : State) : Nat :=
  let eff := (List.range 8).foldl (fun m k => min m (s.capOf k)) 7
  let holds (cs : List CapCause) : Nat := if (List.range 12).any (fun k => cs.any (fun c => s.capBy c k != 7)) then 1 else 0
  eff + holds [.power] * 8 + holds [.thermal, .ioThermal, .carrier] * 16 + holds [.coolant] * 32 + holds [.single] * 64

/-- Whether a wiring cap or a die-sensor cap holds (R462, R464). -/
def sensorCapHolds (s : State) : Bool :=
  (List.range 12).any (fun k => s.capBy .wiring k != 7 || s.capBy .dieSensors k != 7)

/-- Every region goes to step 0 (R463, R514), by a direct change where `direct` says so. -/
def parkRegions (s : State) (direct : Bool) : State :=
  (List.range 12).foldl (fun s k =>
    let d := regionDie k
    let s := (s.setFld .CLK_STEP_TARGET d 0 0 0)
    let s := if direct then s.setFld .CLK_STEP_MODE d 0 0 0 else s
    s.setCause .parked k 0) s

/-- A park clears the ring key and FK (R475), so that no port passes its seal check. -/
def dropKeys (s : State) : State :=
  (List.range 8).foldl (fun s p => s.sealEnforce (p := p))
    ((List.range 8).foldl (fun s p => s.modPort p (fun x => { x with hbOk := false }))
      { s with policy := s.policy.map (fun q => { q with ringKey := [], fk := [] }) })

/-- Parks the module (R463, R518): DECLARE, every slot aborted (one being disabled is aborted already, R451), step 0 with CAP = 0, the dies out of service, SL0, no more heartbeats,
and no keys (R475). -/
def park (s : State) : State :=
  let s := (s.setFld .SUP_STATUS_PARKED iod0 0 0 1).declareUnfit
  let s := (List.range 4).foldl (fun s slot => if s.slotState slot = slotFree || s.slotState slot = slotDisabling then s else (s.abortSlot slot).2) s
  let s := s.dropKeys.parkRegions false
  let s := (List.range 12).foldl (fun s k => s.setFld .DIE_STATUS_IN_SERVICE (regionDie k) 0 0 0) s
  ((s.setFld .SVC_STATUS_DIES iod0 0 0 0).setFld .SVC_STATUS_HUBS iod0 0 0 0).setFld .SVC_STATUS_LEVEL iod0 0 0 0

/-- The bit of SNS_FAULT for a coolant sensor (R462). -/
def wiringFld (i : Nat) : Fld :=
  if i = snInlet then .SNS_FAULT_INLET else if i = snOutlet then .SNS_FAULT_OUTLET else if i = snFlow then .SNS_FAULT_FLOW
  else .SNS_FAULT_LEAK_WIRING

/-- Judges the wiring of a coolant sensor (R461 to R463): a condition counts when three samples in a row show it. -/
def judgeWiring (s : State) (i raw : Nat) : State :=
  match s.sensor i with
  | none => s
  | some x =>
    let c := wiringCond i raw
    let run := if c = x.cond then x.run + 1 else 1
    let wired (c : Nat) : Bool := c = 1 || c = 2
    let x := { x with cond := c, run := run, okSince := if !wired c && wired x.cond then s.now else x.okSince }
    let s := s.setSensor i x
    if run < 3 || c = 0 then s
    else if c = 3 then
      if s.flag .SNS_FAULT_LEAK_WIRING iod0 || s.flag .SNS_FAULT_LEAK iod0 then s
      else
        let s := (s.setSensor i { x with state := 3 }).setFld .SNS_FAULT_LEAK iod0 0 0 1
        (s.raise .EV_SNS_LEAK carrierDie 0 (s.regWord .SNS_FAULT iod0)).park
    else
      let was := s.flag (wiringFld i) iod0
      let s := (s.setSensor i { x with state := c }).setFld (wiringFld i) iod0 0 0 1
      let s := if was then s else s.raise .EV_SNS_WIRING carrierDie 0 (s.regWord .SNS_FAULT iod0)
      s.setCauseAll .wiring 4

/-- Judges a coolant reading (R520, R521): a row of R521 counts when three samples in a row show it. A sensor with a wiring fault is not
read. -/
def judgeCoolant (s : State) (i : Nat) : State :=
  match s.sensor i with
  | none => s
  | some x =>
    if x.state != 0 then s
    else
      let want := coolantCap i x.value
      let run := if want = 7 then 0 else if want = x.capRow then x.capRun + 1 else 1
      let now := run ≥ 3 && want < x.cap
      let s := s.setSensor i { x with capRun := run, capRow := want, cap := if now then want else x.cap, okSince := if coolantGood i x.value then x.okSince else s.now }
      if now then
        let s := s.setCauseAll .coolant (min want (s.capBy .coolant 0))
        s.raise .EV_COOL_LIMIT carrierDie 0 s.pwrCap
      else s

/-- Lifts the coolant cap once every coolant reading has been within the requirements for 10 s (R521). -/
def liftCoolant (s : State) : State :=
  if s.capBy .coolant 0 = 7 then s
  else if [snInlet, snOutlet, snFlow].all (fun i => match s.sensor i with
      | some x => coolantGood i x.value && decide (x.okSince + 10 * secTicks ≤ s.now)
      | none => true) then
    ([snInlet, snOutlet, snFlow].foldl (fun s i => match s.sensor i with
      | some x => s.setSensor i { x with cap := 7, capRun := 0 }
      | none => s) s).setCauseAll .coolant 7
  else s

/-- The temperature of a die (R518): its largest reading among the sensors that are not excluded. -/
def dieTemp (s : State) (die : Nat) : Option Int :=
  (dieSensors die).foldl (fun m i => match s.sensor i with
    | some x => if x.state = 4 then m else some (match m with | some y => max x.value y | none => x.value)
    | none => m) none

/-- Judges a die thermal sensor (R464). -/
def judgeDie (s : State) (i die : Nat) : State :=
  match s.sensor i with
  | none => s
  | some x =>
    let others := (dieSensors die).filterMap (fun k => if k = i then none else (s.sensor k).bind (fun y => if y.state = 4 then none else some y.value))
    let range := x.value < -640 || 2400 < x.value
    let far := !others.isEmpty && 800 < (2 * x.value - median2 others).natAbs
    let bad := range || far
    let s := s.setSensor i { x with okSince := if bad then s.now else x.okSince, state := if bad then 4 else x.state }
    if !bad || x.state = 4 then s
    else
      let s := s.raise .EV_SNS_DIE die 0 (s.snsData i)
      let out := ((dieSensors die).filter (fun k => match s.sensor k with | some y => y.state = 4 | none => false)).length
      let n := (dieSensors die).length
      if 2 * (n - out) < n then
        match dieRegion die with
        | some k =>
          let s := if die < 8 then s.setBit .SNS_FAULT_DIE_CAP iod0 0 0 die true else s.setBit .SNS_FAULT_HUB_CAP iod0 0 0 (die - 0x10) true
          s.setCause .dieSensors k 4
        | none => s
      else s

/-- A ramp of R517 or R518. -/
def ramp (s : State) (d : Nat) : Ramp := s.ramps.get ⟨false, 0⟩ (Key.at d)
def setRamp (s : State) (d : Nat) (r : Ramp) : State := { s with ramps := s.ramps.set ⟨false, 0⟩ (Key.at d) r }

/-- Lowers a cause's cap on a region by one step below the step it runs under, never below step 1: whether it moved. -/
def lowerCap (s : State) (c : CapCause) (k : Nat) : Bool × State :=
  let cur := s.capOf k
  if cur ≤ 1 then (false, s) else (true, s.setCause c k (cur - 1))

/-- Raises a cause's cap on regions by one step; it is lifted at 7. -/
def raiseCaps (s : State) (c : CapCause) (ks : List Nat) : State :=
  ks.foldl (fun s k => if s.capBy c k < 7 then s.setCause c k (s.capBy c k + 1) else s) s

/-- The regions that a die's temperature caps, and the cause (R518). -/
def thermalReach (die : Nat) : CapCause × List Nat :=
  match dieRegion die with
  | some k => (.thermal, [k])
  | none => (.ioThermal, List.range 8)

/-- Lowers or raises the thermal cap of a die (R518). -/
def throttle (s : State) (die : Nat) : State :=
  match s.dieTemp die with
  | none => s
  | some t =>
    let r := s.ramp die
    let reach := thermalReach die
    if (s.fld .THM_CTL_THROTTLE iod0 * 16 : Int) ≤ t then
      if r.active && s.now < r.moved + 10 * msTicks then s
      else
        let d := reach.2.foldl (fun (d : Bool × State) k => let l := d.2.lowerCap reach.1 k; (d.1 || l.1, l.2)) (false, s)
        let s := if d.1 then d.2.incFld .THM_CNT_THROTTLE_COUNT iod0 0 0 else d.2
        let s := s.setRamp die ⟨true, s.now⟩
        if r.active then s else s.raise .EV_THM_THROTTLE carrierDie 0 s.pwrCap
    else if t ≤ (s.fld .THM_CTL_RELEASE iod0 * 16 : Int) && reach.2.any (fun k => s.capBy reach.1 k < 7) then
      if s.now < r.moved + 100 * msTicks then s.setRamp die { r with active := false }
      else (s.raiseCaps reach.1 reach.2).setRamp die ⟨false, s.now⟩
    else if t ≤ (s.fld .THM_CTL_RELEASE iod0 * 16 : Int) then s.setRamp die { r with active := false }
    else s

/-- The hottest sensor of a die, the lowest-numbered among equals (R524). -/
def hottest (s : State) (die : Nat) : Nat :=
  ((dieSensors die).find? (fun i => match s.sensor i with
    | some x => x.state != 4 && s.dieTemp die == some x.value
    | none => false)).getD 0

/-- The critical temperature of a die (R518): two samples in a row at or above 115 °C. -/
def critical (s : State) (i die : Nat) : State :=
  match s.sensor i with
  | none => s
  | some x =>
    if x.state = 4 || x.value < (s.fld .THM_CTL_CRITICAL iod0 * 16 : Int) then s.setSensor i { x with run := 0 }
    else
      let s := s.setSensor i { x with run := x.run + 1 }
      if x.run + 1 != 2 then s
      else
        let s := s.raise .EV_THM_CRITICAL die 0 (s.snsData (s.hottest die))
        match dieRegion die with
        | none => s.park
        | some k =>
          if !s.dieUp die then s
          else ((s.setFld .CLK_STEP_TARGET die 0 0 0).setCause .parked k 0).dieFails die

/-- The carrier sensors (R518): cap 4 above 85 °C; from 80 °C down it rises again. -/
def judgeCarrier (s : State) : State :=
  let t := (List.range 8).foldl (fun (m : Int) k => match s.sensor (304 + k) with | some x => max m x.value | none => m) (-(2 ^ 15))
  let ks := List.range 12
  if 85 * 16 < t then (s.setCauseAll .carrier (min 4 (s.capBy .carrier 0))).setRamp carrierDie ⟨true, s.now⟩
  else if t ≤ 80 * 16 && s.capBy .carrier 0 < 7 && (s.ramp carrierDie).moved + 100 * msTicks ≤ s.now then
    (s.raiseCaps .carrier ks).setRamp carrierDie ⟨false, s.now⟩
  else s

/-- A sampled value of an input monitor. -/
def inputMv (s : State) (i : Nat) : Nat := match s.sensor (snVolt i) with | some x => ofSigned 16 x.value | none => 0
def inputAmp (s : State) (i : Nat) : Nat := match s.sensor (snAmp i) with | some x => ofSigned 16 x.value | none => 0

/-- Forms the module power once in a millisecond and applies PWR_CTL.LIMIT (R517). -/
def judgePower (s : State) : State :=
  let w := (s.inputMv 0 * s.inputAmp 0 + s.inputMv 1 * s.inputAmp 1) / 10000
  let s := (s.setFld .PWR_MODULE_WATTS iod0 0 0 w).setFld .PWR_MODULE_PEAK iod0 0 0 (max (s.fld .PWR_MODULE_PEAK iod0) w)
  let limit := max 1000 (min 4600 (s.fld .PWR_CTL_LIMIT iod0))
  let holds := (List.range 8).any (fun k => s.capBy .power k < 7)
  if limit < w then
    let s := { s with powerRun := s.powerRun + 1, powerRamp := ⟨true, s.now⟩ }
    if s.powerRun < 3 then s
    else
      let d := (List.range 8).foldl (fun (d : Bool × State) k => let l := d.2.lowerCap .power k; (d.1 || l.1, l.2)) (false, s)
      let s := if d.1 then d.2.incFld .PWR_CNT_STEPDOWN_COUNT iod0 0 0 else d.2
      if holds || !d.1 then s else s.raise .EV_PWR_LIMIT carrierDie 0 (s.regWord .PWR_MODULE iod0)
  else
    let s := { s with powerRun := 0 }
    if limit * 95 < w * 100 then { s with powerRamp := ⟨true, s.now⟩ }
    else if holds && s.powerRamp.moved + 100 * msTicks ≤ s.now then
      { s.raiseCaps .power (List.range 8) with powerRamp := ⟨false, s.now⟩ }
    else s

/-- Takes a sample (R460). -/
def takeSample (s : State) (i : Nat) (v : Int) : State :=
  let x := (s.sensor i).getD { Sensor.none with okSince := s.now }
  s.setSensor i { x with value := v, seen := s.now }

/-- A sample and all that is judged on it. -/
def sampleSensor (s : State) (i : Nat) (v : Int) (raw : Nat) : State :=
  let s := s.takeSample i v
  match sensorDie i with
  | some die => ((s.judgeDie i die).throttle die).critical i die
  | none =>
    if i < 312 then s.judgeCarrier
    else if i = snVolt 0 then s.setFld .PWR_INPUT0_MV iod0 0 0 (s.inputMv 0)
    else if i = snVolt 1 then s.setFld .PWR_INPUT1_MV iod0 0 0 (s.inputMv 1)
    else if i = snAmp 0 then s.setFld .PWR_INPUT0_CURRENT iod0 0 0 (s.inputAmp 0)
    else if i = snAmp 1 then (s.setFld .PWR_INPUT1_CURRENT iod0 0 0 (s.inputAmp 1)).judgePower
    else if i < snInlet then s
    else if i = snLeak then s.judgeWiring i raw
    else ((s.judgeWiring i raw).judgeCoolant i).liftCoolant

/-- A sensor has read within its limits for the last 10 s (R462, R464). -/
def steady (s : State) (i : Nat) : Bool :=
  match s.sensor i with
  | some x => x.cond ≠ 1 && x.cond ≠ 2 && decide (x.okSince + 10 * secTicks ≤ s.now)
  | none => true

/-- Clears a wiring fault (R462). -/
def clearWiring (s : State) (i : Nat) : State :=
  if s.flag (wiringFld i) iod0 && s.steady i then
    let s := s.setFld (wiringFld i) iod0 0 0 0
    match s.sensor i with
    | some x => s.setSensor i { x with state := 0 }
    | none => s
  else s

/-- Clears a die-sensor cap (R464): at least half of the die's sensors have read within their limits for 10 s, and those count
again. -/
def clearDieCap (s : State) (die : Nat) : State :=
  let good := (dieSensors die).filter (fun i => s.steady i)
  if 2 * good.length < (dieSensors die).length then s
  else
    let s := if die < 8 then s.setBit .SNS_FAULT_DIE_CAP iod0 0 0 die false else s.setBit .SNS_FAULT_HUB_CAP iod0 0 0 (die - 0x10) false
    let s := good.foldl (fun s i => match s.sensor i with
      | some x => s.setSensor i { x with state := 0 }
      | none => s) s
    match dieRegion die with
    | some k => s.setCause .dieSensors k 7
    | none => s

/-- A W1C write of SNS_FAULT (R462, R464): a clear written before 10 s have passed is ignored. -/
def clearSnsFault (s : State) (v : Nat) : State :=
  let s := [(0, snInlet), (1, snOutlet), (2, snFlow), (3, snLeak)].foldl (fun s e => if v.testBit e.1 then s.clearWiring e.2 else s) s
  let s := if [snInlet, snOutlet, snFlow, snLeak].any (fun i => s.flag (wiringFld i) iod0) then s else s.setCauseAll .wiring 7
  (List.range 12).foldl (fun s k =>
    let die := regionDie k
    let set := if die < 8 then s.flagBit .SNS_FAULT_DIE_CAP iod0 0 0 die else s.flagBit .SNS_FAULT_HUB_CAP iod0 0 0 (die - 0x10)
    if set && v.testBit (8 + k) then s.clearDieCap die else s) s

/-- An input stage. -/
def stage (s : State) (i : Nat) : Stage := s.stages.get ⟨0, 0, []⟩ (Key.at 0 0 i)
def setStage (s : State) (i : Nat) (x : Stage) : State := { s with stages := s.stages.set ⟨0, 0, []⟩ (Key.at 0 0 i) x }

/-- The module input is lost (R514): PWR_STATUS.LOST, EV_PWR_FAIL and its flush, every region to step 0 by a direct change, and
then a module reset, which waits for the flush. -/
def inputFails (s : State) : State :=
  let s := s.setFld .PWR_STATUS_LOST iod0 0 0 1
  let s := (s.raise .EV_PWR_FAIL carrierDie 0 (s.inputMv 0 + s.inputMv 1 * 2 ^ 16)).recordAll
  { (s.startFlush).parkRegions true with resetDue := true }

/-- An input stops serving (R513, R514). -/
def inputStops (s : State) (i why : Nat) : State :=
  let was := s.flagBit .PWR_STATUS_SERVING iod0 0 0 i
  let s := (s.setStage i { s.stage i with why := why, since := s.now }).setBit .PWR_STATUS_SERVING iod0 0 0 i false
  if !was || s.flag .PWR_STATUS_LOST iod0 then s
  else if s.fld .PWR_STATUS_SERVING iod0 = 0 then s.inputFails
  else (s.setFld .PWR_STATUS_SINGLE iod0 0 0 1).setCauseAll .single 3

/-- Raises an event of the inputs with PWR_STATUS as its A word (R524). -/
def raisePwr (s : State) (e : Ev) (i : Nat) : State := s.raise e carrierDie i (s.regWord .PWR_STATUS iod0)

/-- An input serves again (R513); the cap of single-input mode is lifted when `settled` says that it has served for 1 s. -/
def inputServes (s : State) (i : Nat) (settled : Bool) : State :=
  let s := (s.setStage i { s.stage i with why := 0, since := s.now }).setBit .PWR_STATUS_SERVING iod0 0 0 i true
  if settled && s.flag .PWR_STATUS_SINGLE iod0 && s.fld .PWR_STATUS_SERVING iod0 = 3 then
    ((s.setFld .PWR_STATUS_SINGLE iod0 0 0 0).setCauseAll .single 7).raisePwr .EV_PWR_IN_RESTORED i
  else s

end State

/-- INPUT_REVERSED (R512). -/
def execInputReversed (input : Fin 2) (s : State) : Out :=
  .next (((s.setBit .PWR_STATUS_REVERSED iod0 0 0 input true).inputStops input 4).raisePwr .EV_PWR_IN_REVERSED input)

/-- INPUT_OVERVOLTAGE (R510, R512). -/
def execInputOvervoltage (input : Fin 2) (s : State) : Out :=
  .next (((s.setBit .PWR_STATUS_OVERVOLT iod0 0 0 input true).inputStops input 1).raisePwr .EV_PWR_OVERVOLT input)

/-- INPUT_OVERCURRENT (R510, R512): the third trip in 60 s keeps the stage open until module reset. -/
def execInputOvercurrent (input : Fin 2) (s : State) : Out :=
  let trips := s.now :: (s.stage input).trips.filter (fun t => s.now < t + 60 * secTicks)
  let s := (s.setStage input { s.stage input with trips := trips }).incFld .PWR_CNT_TRIP_COUNT iod0 0 0
  let s := if 3 ≤ trips.length then s.setBit .PWR_STATUS_LATCHED iod0 0 0 input true else s
  .next ((s.inputStops input 2).raisePwr .EV_PWR_OVERCURRENT input)

/-- STAGE_RECLOSE (R512): a stage that opened for overvoltage or overcurrent closes again after 1 s, unless it is latched. -/
def execStageReclose (input : Fin 2) (s : State) : Out :=
  let x := s.stage input
  .next (
    if (x.why = 1 || x.why = 2) && !s.flagBit .PWR_STATUS_LATCHED iod0 0 0 input && decide (x.since + secTicks ≤ s.now) then
      (s.setBit .PWR_STATUS_OVERVOLT iod0 0 0 input false).inputServes input false
    else s)

/-- INPUT_LOST (R512, R513): undervoltage, or the connector removed. -/
def execInputLost (input : Fin 2) (s : State) : Out :=
  .next ((s.inputStops input 3).raisePwr .EV_PWR_IN_LOST input)

/-- INPUT_RESTORED (R513): the input has served again for 1 s. A latched stage stays open. -/
def execInputRestored (input : Fin 2) (s : State) : Out :=
  .next (
    if s.flagBit .PWR_STATUS_LATCHED iod0 0 0 input then s
    else (s.setBit .PWR_STATUS_REVERSED iod0 0 0 input false).inputServes input true)

/-- SNS_FAULT_CLEAR (R462, R464): supervisor authority. -/
def execSnsFaultClear (acc : Accessor) (v : Word64) (s : State) : Out :=
  .next (s.regWrite iod0 (isSup acc) fun s => some (s.clearSnsFault v.toNat))

end Sys2Proof.Machine
end

