-- ==== Sys2Proof/Machine/Supervisor.lean ====
section
/-! DEFINITION. Supervisor and bring-up (chapter "Supervisor and bring-up", R455 to R473): the boot of the firmware, the module record
(R476, R477), the stages and levels, the watchdog and supervisor resets, firmware updates, and the module reset. -/

namespace Sys2Proof.Machine

/-- die_id of die k of 0 to 13: the compute dies, the hubs, the I/O dies (R21). -/
def dieOf (k : Nat) : Nat := if k < 8 then k else if k < 12 then mhDie (k - 8) else iodDie (k - 12)

/-- The die_id values (R21). -/
def allDies : List Nat := (List.range 14).map dieOf

/-- A byte range holds zeros only. -/
def zeros (bs : List Byte) : Bool := bs.all (fun b => b == 0)

/-- The fields of the module record (R476). -/
def recSku (r : List Byte) : Nat := field r 6 2
def recStraps (r : List Byte) : Nat := field r 0x10 8
def recDkPub (r : List Byte) : List Byte := State.padTo 64 (r.drop 0x28)
def recSkPub (r : List Byte) : List Byte := State.padTo 64 (r.drop 0x68)
def recVarLen (r : List Byte) : Nat := field r 0xA8 4 + field r 0xAC 4 + field r 0xB0 4

/-- The first check of R477 that a module record fails; 0 for none. `signed` and `keys` say whether steps 2 and 4 pass. -/
def recFailStep (r : List Byte) (signed keys b0 : Bool) : Nat :=
  if !(field r 0 4 = 0x4345524D && field r 4 2 = 1 && zeros ((r.drop 9).take 7) && recStraps r < 2 && zeros ((r.drop 0xB4).take 12)
      && 0x120 + recVarLen r ≤ 960 * 1024) then 1
  else if !signed then 2
  else if sha256 (State.padTo (recVarLen r) (r.drop 0x120)) != (r.drop 0xC0).take 32 then 3
  else if !keys then 4
  else if field r 8 1 != (if b0 then 0xB0 else 0xA1) then 5
  else 0

/-- The largest firmware image and the largest supervisor component (R456, R470). -/
def fwSlotBytes : Nat := 30 * 2 ^ 20
def fwSupBytes : Nat := 7 * 2 ^ 18

/-- Entry k of the component table of an image (R470): TYPE, OFFSET, LENGTH, and whether the entry is zero. -/
def fwComp (img : List Byte) (k : Nat) : Nat × Nat × Nat × Bool :=
  let e := (img.drop (0x40 + 16 * k)).take 16
  (field e 0 2, field e 4 4, field e 8 4, zeros e)

/-- The layout checks of R470. -/
def fwLayoutOk (img : List Byte) : Bool :=
  let n := field img 6 2
  let len := field img 0x10 4
  let used := (List.range n).map (fwComp img)
  field img 0 4 = 0x4D524946 && field img 4 2 = 1 && 1 ≤ n && n ≤ 8 && zeros ((img.drop 0x14).take 12)
    && len + 256 ≤ fwSlotBytes && len + 256 ≤ img.length
    && used.all (fun e => 1 ≤ e.1 && e.1 ≤ 3 && e.2.1 + e.2.2.1 ≤ len)
    && ((List.range n).all (fun k => zeros ((img.drop (0x42 + 16 * k)).take 2)))
    && (List.range (8 - n)).all (fun k => (fwComp img (n + k)).2.2.2)
    && ((used.filter (fun e => e.1 = 1)).map (fun e => decide (e.2.2.1 ≤ fwSupBytes))) == [true]

/-- The SHA-256 of the component of a TYPE (R479); 32 zero bytes where the image has none (log entry 60). -/
def fwMeasure (img : List Byte) (t : Nat) : List Byte :=
  match ((List.range (field img 6 2)).map (fwComp img)).find? (fun e => e.1 = t) with
  | some e => sha256 ((img.drop (0x100 + e.2.1)).take e.2.2.1)
  | none => List.replicate 32 0

/-- Verifies an image (R470): RESULT of R471, and the slot it makes. `readback` says whether the image read back as written. -/
def fwVerify (img : List Byte) (floor : Nat) (readback : Bool) : Nat × FwImage :=
  let body := (img.drop 0x100).take (field img 0x10 4)
  let bad : FwImage := ⟨false, 0, 0, []⟩
  if !readback then (5, bad)
  else if !fwLayoutOk img then (2, bad)
  else if !Config.ecdsaVerify Config.romKey (sha256 (img.take 0xC0)) ((img.drop 0xC0).take 64) || sha256 body != (img.drop 0x20).take 32 then (3, bad)
  else if field img 0xC 4 < floor then (4, bad)
  else (1, ⟨true, field img 8 4, field img 0xC 4, [fwMeasure img 1, fwMeasure img 2, fwMeasure img 3]⟩)

namespace State

/-- A firmware slot: true for B. -/
def fwSlot (s : State) (b : Bool) : FwImage := if b then s.fwB else s.fwA
def setFwSlot (s : State) (b : Bool) (x : FwImage) : State := if b then { s with fwB := x } else { s with fwA := x }

/-- A slot verifies under R470: its ROLLBACK is at least FLOOR. -/
def fwVerifies (s : State) (b : Bool) : Bool := (s.fwSlot b).valid && decide (s.fld .FW_STATUS_FLOOR iod0 ≤ (s.fwSlot b).rollback)

/-- The running slot and its image. -/
def fwRunning (s : State) : Bool := s.flag .SUP_STATUS_SLOT iod0
def runImage (s : State) : FwImage := s.fwSlot s.fwRunning

/-- FW_STATUS as it reads. -/
def fwStatus (s : State) : Nat :=
  s.regWord .FW_STATUS iod0 + (if s.fwVerifies false then 1 else 0) + (if s.fwVerifies true then 2 else 0)

/-- The boot ROM boots a firmware slot (R468, R472): TRIAL once, else PREF, else the other slot. -/
def bootFirmware (s : State) : State :=
  let trial := s.fwTrial
  let want := if trial = 0 then s.flag .FW_STATUS_PREF iod0 else trial = 2
  let s := { s with fwTrial := 0, supBootAt := s.now, wdogAt := s.now, wdogNmi := false }
  let run (s : State) (b : Bool) : State :=
    let s := (s.setFld .SUP_STATUS_SLOT iod0 0 0 (if b then 1 else 0)).setFld .SUP_STATUS_VERSION iod0 0 0 (s.fwSlot b).version
    { s.setFld .SUP_STATUS_TRIAL iod0 0 0 (if trial != 0 && b == want then 1 else 0) with fwRuns := true }
  if s.fwVerifies want then run s want
  else if s.fwVerifies (!want) then let s := run s (!want); s.raise .EV_FW_FALLBACK carrierDie 0 s.fwStatus
  else { (s.setFld .SUP_STATUS_TRIAL iod0 0 0 0).setFld .SUP_STATUS_VERSION iod0 0 0 0 with fwRuns := false }

/-- Checks the module record (R477): SKU and the straps where it verifies. -/
def checkRecord (s : State) : State :=
  let step := recFailStep s.record s.recordSigned s.recordKeys s.b0
  if step = 0 then
    let s := (s.setFld .MOD_IDENT_SKU iod0 0 0 (recSku s.record)).setFld .ID_STATUS_RECORD_OK iod0 0 0 1
    s.setFld .ID_STATUS_SEAL_EN iod0 0 0 (recStraps s.record)
  else
    let s := s.setFld .ID_STATUS_FAIL_STEP iod0 0 0 step
    s.raise .EV_ID_RECORD carrierDie 0 (s.regWord .ID_STATUS iod0)

/-- Sets a service level (R465). -/
def setLevel (s : State) (n : Nat) : State :=
  let s := s.setFld .SVC_STATUS_LEVEL iod0 0 0 n
  s.raise .EV_SVC_LEVEL carrierDie 0 (s.regWord .SVC_STATUS iod0)

/-- Bring-up stage 0 (R465): firmware, record, recorder, sensors, watchdog and the management port. Without firmware the management
port is all there is (R468). -/
def bringUp (s : State) : State :=
  let s := s.scanLog.bootFirmware
  let s := { s with booted := true, bootAt := s.now, mgmtUp := true }
  let s := s.setFld .DIE_STATUS_IN_SERVICE iod0 0 0 1
  if s.fwRuns then s.checkRecord.setLevel 0 else s

/-- Bring-up may go on past stage 0: firmware runs, the record verified and the module is not parked (R463, R468, R477). -/
def mayBringUp (s : State) : Bool :=
  s.booted && s.fwRuns && s.flag .ID_STATUS_RECORD_OK iod0 && !s.flag .SUP_STATUS_PARKED iod0

/-- Stage 1 may start (R465, R520). -/
def coolantReady (s : State) : Bool :=
  !s.flag .SNS_FAULT_LEAK iod0 && (s.sensor snLeak).isSome && [snInlet, snFlow].all (fun i => match s.sensor i with
    | some x => x.state = 0 && coolantGood i x.value
    | none => false)

def selfTest (s : State) (die : Nat) : Nat := s.selfTests.get 0 (Key.at die)
def training (s : State) (n : Nat) : Option Training := s.trainings.get none (Key.at 0 0 n)
def setTraining (s : State) (n : Nat) (t : Training) : State := { s with trainings := s.trainings.set none (Key.at 0 0 n) (some t) }

/-- A die has its boot lock (R35). -/
def locked (s : State) (die : Nat) : Bool := s.flag .DIE_BOOT_LOCK_LOCK die

/-- Every self-test and every first training has ended; a stack of a hub that failed never trains (R465). -/
def testsDone (s : State) : Bool :=
  s.stage1 && allDies.all (fun d => s.selfTest d != 0)
    && (List.range 24).all (fun n => (s.training n).isSome || s.selfTest (mhDie (n / 6)) = 2)

/-- Every stack has passed its first training (R466). -/
def allStacksGood (s : State) : Bool :=
  (List.range 24).all (fun n => match s.training n with | some t => t.passed && t.failed = 0 | none => false)

/-- The boot lock of every die is set (R35). -/
def allLocked (s : State) : Bool := allDies.all s.locked

/-- Writes HL_GIB, where supervisor authority has not locked MH0 before, and then sets the boot lock on every die (R35, R466). -/
def lockDies (s : State) : State :=
  let s := if s.locked mh0 then s else s.setFld .MEM_HBM_SPLIT_HL_GIB mh0 0 0 (if s.allStacksGood then 12 else 48)
  allDies.foldl (fun s d => s.setFld .DIE_BOOT_LOCK_LOCK d 0 0 1) s

/-- The arrays that the self-test of a compute die excludes (DIE_STATUS.UNITS_OUT): a free value, for SELF_TEST_COMPLETE and SELFTEST
report the die alone (DESIGN CHOICE, log entry 138). -/
def excludeArrays (s : State) (die : Nat) : State :=
  if die < 8 then
    let f := s.takeFree
    f.2.setFld .DIE_STATUS_UNITS_OUT die 0 0 (f.1 % 2 ^ 24)
  else s

/-- A die enters service with CAP = 4 (R465). -/
def admitDie (s : State) (die : Nat) : State :=
  let s := (s.excludeArrays die).setFld .DIE_STATUS_IN_SERVICE die 0 0 1
  let s := { s with selfTests := s.selfTests.set 0 (Key.at die) 3 }
  match dieRegion die with
  | none => s
  | some k =>
    let s := if die < 8 then s.setBit .SVC_STATUS_DIES iod0 0 0 die true else s
    let s := { s with caps := s.caps.set 7 (Key.at 0 CapCause.parked.id k) 7, capRaised := s.now }
    (s.setFld .CLK_STEP_TARGET die 0 0 7).setCause .service k 4

/-- Stacks in service, and the hubs all of whose stacks are (R465, R466). -/
def settleStacks (s : State) : State :=
  let s := (List.range 24).foldl (fun s n =>
    s.setBit .SVC_STATUS_STACKS iod0 0 0 n (s.dieUp (mhDie (n / 6)) && (match s.training n with | some t => t.passed && !t.excluded | none => false))) s
  (List.range 4).foldl (fun s h =>
    s.setBit .SVC_STATUS_HUBS iod0 0 0 h ((List.range 6).all (fun j => s.flagBit .SVC_STATUS_STACKS iod0 0 0 (6 * h + j)))) s

/-- A Huward port is excluded (DIE_STATUS.UNITS_OUT). -/
def portOut (s : State) (p : Nat) : Bool := s.flagBit .DIE_STATUS_UNITS_OUT (portDie p) 0 0 (portUnit p)

/-- The ports that may train at a level (R467): the lowest of each ring role from stage 2, CATCH and TREE from SL2, the other ring
ports in stage 3. -/
def portEligible (s : State) (level p : Nat) : Bool :=
  let r := s.hlRole p
  if r = 0 || s.portOut p && s.lateLevel = 3 then false
  else if roleDim r != 0 then 2 ≤ level || (s.rolePorts r).head? = some p
  else 2 ≤ level

/-- The supervisor enables training on the ports that may train. -/
def enablePorts (s : State) : State :=
  let level := s.fld .SVC_STATUS_LEVEL iod0
  if !s.allLocked then s
  else (List.range 8).foldl (fun s p =>
    if s.portEligible level p && s.hl .HL_CTL_EN p = 0 then (s.setEnRole p 1 (s.hlRole p)).pump else s) s

/-- The ports whose training belongs to stage 2 or 3 have trained or are excluded. -/
def portsDone (s : State) (level : Nat) : Bool :=
  (List.range 8).all (fun p => !s.portEligible level p || s.inTraffic p || s.portOut p)

/-- A port left out at the SL2 bound that has trained before the SL3 bound is left out no more (R465). -/
def settlePorts (s : State) : State :=
  (List.range 8).foldl (fun s p =>
    if s.lateLevel < 3 && s.portOut p && s.inTraffic p then s.setBit .DIE_STATUS_UNITS_OUT (portDie p) 0 0 (portUnit p) false else s) s

/-- DEGRADED of the dies and of the module (R465). -/
def settleDegraded (s : State) : State :=
  let s := allDies.foldl (fun s d => s.setFld .DIE_STATUS_DEGRADED d 0 0 (if s.dieUp d && s.flag .DIE_STATUS_UNITS_OUT d then 1 else 0)) s
  let out := s.allLocked && allDies.any (fun d => !s.dieUp d || s.flag .DIE_STATUS_UNITS_OUT d)
  s.setFld .SVC_STATUS_DEGRADED iod0 0 0 (if out || s.sensorCapHolds then 1 else 0)

/-- Stage 2 (R465): the boot locks are set, the dies that passed enter service, and ports begin to train. -/
def enterStage2 (s : State) : State :=
  let s := if s.allLocked then s else s.lockDies.enablePorts
  allDies.foldl (fun s d => if s.selfTest d = 1 then s.admitDie d else s) s

/-- Every stack that can still pass has passed (R465): three retrainings at most, none after the SL3 bound. -/
def stacksDone (s : State) : Bool :=
  (List.range 24).all (fun n => match s.training n with
    | some t => t.passed || t.excluded || 4 ≤ t.failed
    | none => true)

/-- The cap of bring-up has reached 7, or a wiring fault holds it (R465, "When a wiring fault meets the rise of the cap"). -/
def capDone (s : State) : Bool :=
  (List.range 12).all (fun k => !s.dieUp (regionDie k) || s.capBy .service k = 7) || s.capBy .wiring 0 != 7

/-- Reaches the next level where its work is done (R465). -/
def nextLevel (s : State) : State :=
  let level := s.fld .SVC_STATUS_LEVEL iod0
  if level = 0 then (if s.allLocked && s.coreMark then s.setLevel 1 else s)
  else if level = 1 then (if s.portsDone 1 then (s.setLevel 2).enablePorts else s)
  else if level = 2 then
    (if s.lateLevel = 3 || (s.stacksDone && s.portsDone 2 && s.capDone) then s.setLevel 3 else s)
  else s

/-- Bring-up goes on (R465 to R469). -/
def svcSettle (s : State) : State :=
  if !s.mayBringUp then s
  else
    let s := if !s.stage1 && s.coolantReady then { s with stage1 := true }.setFld .SVC_STATUS_COOLANT_WAIT iod0 0 0 0 else s
    if !s.stage1 then s.setFld .SVC_STATUS_COOLANT_WAIT iod0 0 0 1
    else
      let s := if s.allLocked || s.testsDone then s.enterStage2 else s
      s.settleStacks.settlePorts.settleDegraded.nextLevel

/-- Time that stage 1 waits for coolant (R465). -/
def coolTick (s : State) : State := if s.mayBringUp && !s.stage1 then { s with coolWait := s.coolWait + 1 } else s

/-- The bound of a level in seconds (R465). -/
def levelBound (n : Nat) : Nat := if n = 1 then 25 else if n = 2 then 60 else 180

/-- A bound passes (R465): units that have not passed are left out, and at the SL3 bound they are excluded. -/
def boundPasses (s : State) (n : Nat) : State :=
  let s := { s with lateLevel := n }
  let tests := allDies.any (fun d => s.selfTest d = 0)
  let failing := (List.range 24).filter (fun k => match s.training k with | some t => !t.passed | none => true)
  let ports := (List.range 8).filter (fun p => !s.inTraffic p && (s.portEligible (n - 1) p && !s.portOut p || n = 3 && s.portOut p))
  let late := if n = 1 then tests || !failing.isEmpty else if n = 2 then !ports.isEmpty else !ports.isEmpty || !failing.isEmpty
  let s := if n = 1 then
      let s := allDies.foldl (fun s d => if s.selfTest d = 0 then { s with selfTests := s.selfTests.set 0 (Key.at d) 2 } else s) s
      failing.foldl (fun s k =>
        let s := if (s.training k).isNone then s.setTraining k ⟨false, 1, false⟩ else s
        s.setBit .DIE_STATUS_UNITS_OUT (mhDie (k / 6)) 0 0 (k % 6) true) s
    else s
  let s := if n = 3 then failing.foldl (fun s k => match s.training k with
      | some t => s.setTraining k { t with excluded := true }
      | none => s) s else s
  let s := if n = 1 then s else ports.foldl (fun s p =>
    let s := s.setBit .DIE_STATUS_UNITS_OUT (portDie p) 0 0 (portUnit p) true
    if n = 3 then s.setEnRole p 0 (s.hlRole p) else s) s
  let s := s.svcSettle
  if late then
    let s := s.setFld .SVC_STATUS_LATE iod0 0 0 1
    s.raise .EV_SVC_LATE carrierDie 0 (s.regWord .SVC_STATUS iod0)
  else s

/-- The next bound of bring-up has been reached on the reference timer. -/
def boundDue (s : State) : Bool :=
  s.mayBringUp && s.stage1 && s.lateLevel < 3
    && decide (s.bootAt + levelBound (s.lateLevel + 1) * secTicks + s.coolWait ≤ s.now)

/-- A self-test of bring-up stage 1 ends (R465). IOD1 enters service at once, for its application cores. -/
def selfTestEnds (s : State) (die : Nat) (pass : Bool) : State :=
  if !s.mayBringUp || !s.stage1 || s.selfTest die != 0 then s
  else
    let s := { s with selfTests := s.selfTests.set 0 (Key.at die) (if pass then 1 else 2) }
    (if pass && 0x20 ≤ die then s.setFld .DIE_STATUS_IN_SERVICE die 0 0 1 else s).svcSettle

/-- The first training of a stack ends (R465, R466). -/
def firstTraining (s : State) (n : Nat) (pass : Bool) : State :=
  if !s.mayBringUp || !s.stage1 || (s.training n).isSome || s.selfTest (mhDie (n / 6)) = 0 || s.selfTest (mhDie (n / 6)) = 2 then s
  else
    let s := s.setTraining n ⟨pass, if pass then 0 else 1, false⟩
    (if pass || s.locked mh0 then s else s.setFld .MEM_HBM_SPLIT_HL_GIB mh0 0 0 48).svcSettle

/-- A retraining of a failed stack ends (R465): it enters service when one passes, at most three, none once excluded. -/
def retraining (s : State) (n : Nat) (pass : Bool) : State :=
  match s.training n with
  | none => s
  | some t =>
    if !s.mayBringUp || t.passed || t.excluded || 4 ≤ t.failed then s
    else
      let s := s.setTraining n { t with passed := pass, failed := if pass then t.failed else t.failed + 1 }
      (if pass then s.setBit .DIE_STATUS_UNITS_OUT (mhDie (n / 6)) 0 0 (n % 6) false else s).svcSettle

/-- The cap of bring-up rises one step (R465): at least 20 s after the last, and not while a wiring fault or a coolant cap holds. -/
def capRises (s : State) : State :=
  if s.mayBringUp && 2 ≤ s.fld .SVC_STATUS_LEVEL iod0 && decide (s.capRaised + 20 * secTicks ≤ s.now) && s.capBy .wiring 0 = 7
      && s.capBy .coolant 0 = 7 && (List.range 12).any (fun k => s.capBy .service k < 7) then
    ({ s with capRaised := s.now }.raiseCaps .service (List.range 12)).svcSettle
  else s

/-- A supervisor reset (R459, R475, R484): hardware aborts the running slots; the firmware boots again, declares the module unfit
where a slot is not FREE, and disables every such slot. Commands that ran are answered ST_INTERNAL (log entry 61). -/
def supReset (s : State) (cause : Nat) : State :=
  let s := (List.range 4).foldl (fun s slot =>
    if s.slotState slot = slotRunning || s.slotState slot = slotAborting then (s.abortSlot slot).2 else s) s
  let s := (s.incFld .SUP_CYCLES_RESETS iod0 0 0).setFld .SUP_STATUS_CAUSE iod0 0 0 cause
  let s := s.raise .EV_SUP_RESET carrierDie 0 (s.regWord .SUP_STATUS iod0)
  let lost := s.cmdRuns.filter (fun r => r.pkt.replyTo != .nobody)
  let s := { s with policy := none, quoting := none, fwJob := none, keptReplies := [], cmdRuns := [] }
  let s := ((s.setFld .ID_STATUS_POLICY iod0 0 0 0).setFld .ID_STATUS_POL_VER iod0 0 0 0).setFld .ATT_CTL_BUSY iod0 0 0 0
  let s := (List.range 8).foldl (fun s p => s.sealEnforce p) (s.setFld .FW_STATUS_BUSY iod0 0 0 0)
  let s := s.bootFirmware
  let s := lost.foldl (fun s r =>
    (s.reply r.pkt 0x00FF []).raise .EV_CMD_INTERNAL carrierDie 0 (leNat (leBytes 2 r.pkt.op ++ leBytes 2 r.pkt.tag
      ++ leBytes 1 (if r.pkt.early then 1 else 0) ++ leBytes 1 r.pkt.slotByte))) s
  let left := (List.range 4).filter (fun slot => s.slotState slot != slotFree)
  if left.isEmpty || !s.fwRuns then s
  else left.foldl (fun s slot =>
    let r := s.disableSlot slot
    { r.2 with cmdRuns := r.2.cmdRuns ++ [⟨⟨0x0102, 0, false, slot, [], .nobody⟩, r.1⟩] }) s.declareUnfit

/-- A module reset (R463, R465): every die and register goes back to reset, and bring-up repeats from stage 0. What lies in flash, FRAM
and the memories stays (log entry 62). -/
def moduleReset (s : State) : State :=
  let keep (f : Fld) (t : State) : State := t.setFld f iod0 0 0 (s.fld f iod0)
  let stages : Tbl Stage := s.stages.map (fun e => (e.1, { e.2 with why := if e.2.why = 2 then 0 else e.2.why, trips := [] }))
  let t : State :=
    { State.reset with
      b0 := s.b0, mem := s.mem, side := s.side, flash := s.flash, mirrors := s.mirrors, evLog := s.evLog, staged := s.staged,
      fwA := s.fwA, fwB := s.fwB, fwTrial := s.fwTrial, record := s.record, recordSigned := s.recordSigned, recordKeys := s.recordKeys,
      rates := s.rates, rateAt := s.rateAt, polHash := s.polHash, polFloor := s.polFloor, relLog := s.relLog, relAck := s.relAck,
      now := s.now, fresh := s.fresh, out := s.out, pending := s.pending,
      acbAge := s.acbAge, acbSeed := (List.range 192).foldl (fun t k => t.modify 0 (Key.at (k / 24) (k % 24)) (· + 1)) s.acbSeed,
      stages := stages.filter (fun e => e.2 != ⟨0, 0, []⟩) }
  let t := [Fld.SUP_OPSEC_SECONDS, .SUP_CYCLES_POWER, .SUP_CYCLES_RESETS, .FW_STATUS_PREF, .FW_STATUS_FLOOR, .TS_STATUS_SEQ].foldl (fun t f => keep f t) t
  let serving := (List.range 2).filter (fun i => s.flagBit .PWR_STATUS_SERVING iod0 0 0 i || (s.stage i).why = 2)
  let t := serving.foldl (fun t i => t.setBit .PWR_STATUS_SERVING iod0 0 0 i true) t
  if s.booted && !s.flag .PWR_STATUS_LOST iod0 then t.bringUp else t

/-- A module reset that waits goes on once no flush runs (R502). -/
def resetSettle (s : State) : State := if s.resetDue && s.flushN.isNone && !s.flushDue then s.moduleReset else s

/-- A module reset is requested: it waits for the flush (R502). -/
def requestReset (s : State) : State := ({ s with resetDue := true }.recordAll.startFlush).resetSettle

/-- Every frame of a byte range is SYSTEM (R254). -/
def systemRange (s : State) (a n : Nat) : Bool :=
  n = 0 || (List.range ((a + n - 1) / 2 ^ 21 - a / 2 ^ 21 + 1)).all (fun k =>
    match frameOf (2 ^ 21 * (a / 2 ^ 21 + k)) with
    | some (t, f) => (s.frame t f).owner = .system
    | none => false)

/-- The supervisor's firmware reads memory (R489): the bytes, or `none` where a word is not delivered. -/
def supRead (s : State) (a n : Nat) : Option (List Byte) × State :=
  let r := s.readPieces .supervisor (n + 1) a n
  (r.1.foldr (fun w acc => match w, acc with
    | .data bs _, some rest => some (bs ++ rest)
    | _, _ => none) (some []), r.2)

/-- Refuses a firmware action (R471). -/
def fwRefuse (s : State) : State := s.setFld .FW_STATUS_RESULT iod0 0 0 6

/-- FW_CTL.WRITE (R471). -/
def fwWrite (s : State) : State :=
  let a := s.fld .FW_UPD_ADDR_ADDR iod0
  let n := s.fld .FW_UPD_LEN_LEN iod0
  if !s.systemRange a n || s.fwTrial != 0 || s.fwJob.isSome then s.fwRefuse
  else { s.setFwSlot (!s.fwRunning) ⟨false, 0, 0, []⟩ with fwJob := some (a, n) }.setFld .FW_STATUS_BUSY iod0 0 0 1

/-- The end of a WRITE (R470, R471). -/
def fwWriteEnds (s : State) (readback : Bool) : State :=
  match s.fwJob with
  | none => s
  | some (a, n) =>
    let r := s.supRead a (min n fwSlotBytes)
    let v := match r.1 with
      | some img => fwVerify img (s.fld .FW_STATUS_FLOOR iod0) (readback && decide (n ≤ fwSlotBytes))
      | none => (5, ⟨false, 0, 0, []⟩)
    let s := { r.2.setFwSlot (!s.fwRunning) v.2 with fwJob := none }
    (s.setFld .FW_STATUS_BUSY iod0 0 0 0).setFld .FW_STATUS_RESULT iod0 0 0 v.1

/-- FW_CTL.TRIAL, REBOOT and FLOOR (R471). -/
def fwTrialWrite (s : State) : State :=
  if s.fwVerifies (!s.fwRunning) then { s with fwTrial := if s.fwRunning then 1 else 2 } else s.fwRefuse
def fwReboot (s : State) : State :=
  if (List.range 4).any (fun slot => s.slotState slot != slotFree) then s.fwRefuse else s.supReset 3
def fwFloor (s : State) : State :=
  if s.flag .SUP_STATUS_TRIAL iod0 then s.fwRefuse
  else s.setFld .FW_STATUS_FLOOR iod0 0 0 (max (s.fld .FW_STATUS_FLOOR iod0) s.runImage.rollback)

/-- A write of FW_CTL (R471, R473): one bit at a time. -/
def writeFwCtl (s : State) (v : Nat) : State :=
  if v % 16 = 1 then s.fwWrite else if v % 16 = 2 then s.fwTrialWrite else if v % 16 = 4 then s.fwReboot
  else if v % 16 = 8 then s.fwFloor else if v % 16 = 0 then s else s.fwRefuse

/-- Ticks of the watchdog limit (R458). -/
def wdogLimit (s : State) : Nat := max (s.fld .SUP_WDOG_LIMIT iod0) 1 * msTicks

end State

/-- SENSOR_SAMPLE (R460 to R464, R517 to R521): a sample is judged, and bring-up that waits for coolant may go on. -/
def execSensorSample (index : Fin 420) (value : BitVec 16) (raw : Nat) (s : State) : Out :=
  .next (if s.booted && s.fwRuns then (s.sampleSensor index value.toInt raw).svcSettle else s)

/-- POWER_GOOD (R457, R465): power is good on the inputs `serving`; the module record and its verification (R477) come with it. -/
def execPowerGood (serving : BitVec 2) (rec : List Byte) (certs keys : Bool) (s : State) : Out :=
  .next (
    if s.booted || serving = 0 then s
    else
      let s := { s with record := rec, recordSigned := certs, recordKeys := keys }
      let s := ((s.incFld .SUP_CYCLES_POWER iod0 0 0).setFld .PWR_STATUS_SERVING iod0 0 0 serving.toNat).setFld .PWR_STATUS_LOST iod0 0 0 0
      s.bringUp)

/-- SELF_TEST_COMPLETE (R465). -/
def execSelfTestComplete (die : Fin 14) (pass : Bool) (s : State) : Out := .next (s.selfTestEnds (dieOf die) pass)

/-- FIRST_TRAINING_COMPLETE (R466). -/
def execFirstTrainingComplete (stack : Fin 24) (pass : Bool) (s : State) : Out := .next (s.firstTraining stack pass)

/-- STACK_RETRAIN_COMPLETE (R465). -/
def execStackRetrainComplete (stack : Fin 24) (pass : Bool) (s : State) : Out := .next (s.retraining stack pass)

/-- STAGE_BOUND_EXPIRY (R465): the next bound passes. -/
def execStageBoundExpiry (s : State) : Out := .next (if s.boundDue then s.boundPasses (s.lateLevel + 1) else s)

/-- CAP_RAISE (R465). -/
def execCapRaise (s : State) : Out := .next s.capRises

/-- A machine-mode store from any hart (R473). -/
def isMachine : Accessor → Bool
  | .core _ m => m
  | .supervisor => false

/-- SUP_CORE_MARK (R465, R473): a machine-mode store from any hart; any other write is a bus error. -/
def execSupCoreMark (acc : Accessor) (v : Word64) (s : State) : Out :=
  .next (s.regWrite iod0 (isMachine acc) (fun s => some (if v.toNat % 2 = 1 then { s with coreMark := true }.svcSettle else s)))

/-- WATCHDOG_KICK (R458): a store by the supervisor core itself. -/
def execWatchdogKick (acc : Accessor) (s : State) : Out :=
  .next (s.regWrite iod0 (isSup acc) (fun s => some { s with wdogAt := s.now, wdogNmi := false }))

/-- WATCHDOG_NMI (R458). -/
def execWatchdogNmi (s : State) : Out :=
  .next (if s.fwRuns && !s.wdogNmi && decide (s.wdogAt + s.wdogLimit ≤ s.now) then
    { s with wdogNmi := true }.setFld .SUP_WDOG_NMI_SEEN iod0 0 0 1 else s)

/-- WATCHDOG_RESET (R458, R459). -/
def execWatchdogReset (s : State) : Out :=
  .next (if s.fwRuns && decide (s.wdogAt + 2 * s.wdogLimit ≤ s.now) then s.supReset 1 else s)

/-- SUP_SRAM_UE (R459). -/
def execSupSramUe (s : State) : Out := .next (if s.fwRuns then s.supReset 2 else s)

/-- FW_WRITE (R471). -/
def execFwWrite (acc : Accessor) (s : State) : Out := .next (s.regWrite iod0 (isSup acc) (fun s => some s.fwWrite))

/-- FW_WRITE_COMPLETE (R471). -/
def execFwWriteComplete (readback : Bool) (s : State) : Out := .next (s.fwWriteEnds readback)

/-- FW_TRIAL (R471). -/
def execFwTrial (acc : Accessor) (s : State) : Out := .next (s.regWrite iod0 (isSup acc) (fun s => some s.fwTrialWrite))

/-- FW_REBOOT (R471). -/
def execFwReboot (acc : Accessor) (s : State) : Out := .next (s.regWrite iod0 (isSup acc) (fun s => some s.fwReboot))

/-- FW_FLOOR (R471). -/
def execFwFloor (acc : Accessor) (s : State) : Out := .next (s.regWrite iod0 (isSup acc) (fun s => some s.fwFloor))

/-- TRIAL_CONFIRM (R472). -/
def execTrialConfirm (s : State) : Out :=
  .next (if s.fwRuns && s.flag .SUP_STATUS_TRIAL iod0 && decide (s.supBootAt + 60 * secTicks ≤ s.now) then
    let s := (s.setFld .FW_STATUS_PREF iod0 0 0 (if s.fwRunning then 1 else 0)).setFld .SUP_STATUS_TRIAL iod0 0 0 0
    s.raise .EV_FW_UPDATE carrierDie 0 s.fwStatus else s)

/-- OPERATING_SECOND (R457). -/
def execOperatingSecond (s : State) : Out := .next (if s.booted then s.incFld .SUP_OPSEC_SECONDS iod0 0 0 else s)

/-- MODULE_RESET (R463, R502). -/
def execModuleReset (s : State) : Out := .next s.requestReset

/-- EVR_FLUSH_COMPLETE (R502): the records lie in flash; a module reset that waited for the flush goes on. -/
def execEvrFlushComplete (s : State) : Out := .next s.flushDone.resetSettle

end Sys2Proof.Machine
end

