-- ==== Sys2Proof/Machine/Identity.lean ====
section
/-! DEFINITION. Identity, attestation and sealed data (chapter of that name, R474 to R499): measurements and quotes, the sealing policy,
and the turnstile. The module record is checked in Supervisor; the sealed marks of words stand with the memories. -/

namespace Sys2Proof.Machine

namespace State

/-- Measurements M0 to M3 (R479). -/
def measure (s : State) (k : Nat) : List Byte :=
  if k < 3 then
    if !s.fwRuns then List.replicate 32 0
    else if s.runImage.meas.isEmpty then padTo 32 (Config.builtMeasure (k + 1))
    else s.runImage.meas.getD k []
  else match s.policy with
    | some q => q.digest
    | none => List.replicate 32 0

/-- TS_STATUS as it reads: PENDING counts the unacknowledged records (R498). -/
def tsStatus (s : State) : Nat :=
  s.regWord .TS_STATUS iod0 + (s.fld .TS_STATUS_SEQ iod0 - s.relAck) % 2 ^ 10 * 2 ^ 8

/-- CHAIN of the newest release record (R480, R498). -/
def relChain (s : State) : List Byte :=
  match s.relLog.getLast? with
  | some r => r.drop 0x60
  | none => List.replicate 32 0

/-- The 64-byte signature field of a structure. -/
def signed (bs : List Byte) : List Byte := bs ++ padTo 64 (Config.ecdsaSign bs)

/-- A quote without its signature (R480). -/
def quoteBody (s : State) : List Byte :=
  let flags := (if s.flag .ID_STATUS_SEAL_EN iod0 then 1 else 0) + (if s.policy.isSome then 2 else 0)
    + (if s.flag .SUP_STATUS_PARKED iod0 then 4 else 0)
  leBytes 4 0x544F5551 ++ leBytes 2 1 ++ leBytes 2 s.myPos ++ leBytes 2 s.myGen ++ leBytes 1 (s.fld .SVC_STATUS_LEVEL iod0) ++ leBytes 1 flags
    ++ leBytes 4 (s.fld .ID_STATUS_POL_VER iod0) ++ leBytes 8 (s.fld .SUP_OPSEC_SECONDS iod0) ++ leBytes 8 0
    ++ (List.range 4).flatMap (fun i => leBytes 8 (s.fld .ATT_NONCE_NONCE iod0 0 i)) ++ (List.range 4).flatMap s.measure
    ++ recSkPub s.record ++ s.relChain ++ leBytes 4 (s.fld .TS_STATUS_SEQ iod0) ++ List.replicate 28 0

/-- ATT_CTL.QUOTE (R480): ignored while a quote is being signed. -/
def startQuote (s : State) : State :=
  if s.quoting.isSome then s else { s with quoting := some s.quoteBody }.setFld .ATT_CTL_BUSY iod0 0 0 1

/-- The quote is written (R480). -/
def quoteDone (s : State) : State :=
  match s.quoting with
  | none => s
  | some q =>
    let bs := signed q
    let s := (List.range 48).foldl (fun s i => s.setFld .ATT_QUOTE_Q iod0 0 i (field bs (8 * i) 8)) { s with quoting := none }
    (s.setFld .ATT_CTL_BUSY iod0 0 0 0).setFld .ATT_CTL_DONE iod0 0 0 1

end State

/-- The fields of a policy (R481) and of an allow-list entry (R482). -/
def polEntries (p : List Byte) : Nat := field p 6 2
def polVersion (p : List Byte) : Nat := field p 8 4
def polRing (p : List Byte) : Nat := field p 0xC 2
def polKey (p : List Byte) : List Byte := (p.drop 0x10).take 64
def polAllow (p : List Byte) : List (List Byte) := (List.range (polEntries p)).map (fun i => (p.drop (0x100 + 64 * i)).take 64)
def entMax (e : List Byte) : Nat := field e 0x20 4
def entHour (e : List Byte) : Nat := field e 0x24 2
def entDay (e : List Byte) : Nat := field e 0x28 8

/-- The layout and zero fields of a policy (R481 to R483). -/
def polLayoutOk (p : List Byte) : Bool :=
  field p 0 4 = 0x4C4F5053 && field p 4 2 = 1 && polEntries p ≤ 256 && p.length = 0x140 + 64 * polEntries p
    && zeros ((p.drop 0xE).take 2) && zeros ((p.drop 0xD8).take 40)
    && (polRing p != 0 || zeros ((p.drop 0x50).take 104))
    && (polAllow p).all (fun e => 1 ≤ entHour e && zeros ((e.drop 0x26).take 2) && zeros (e.drop 0x30))

/-- Full buckets of an entry (R497). -/
def fullRate (e : List Byte) : Rate := ⟨e, entHour e * 65536, entDay e * 65536⟩

/-- The buckets of an entry refilled from one operating second to another (R497). -/
def refillRate (t0 t1 : Nat) (r : Rate) : Rate :=
  let add (n per : Nat) : Nat := n * 65536 * t1 / per - n * 65536 * t0 / per
  ⟨r.entry, min (entHour r.entry * 65536) (r.releases + add (entHour r.entry) 3600),
   min (entDay r.entry * 65536) (r.bytes + add (entDay r.entry) 86400)⟩

namespace State

/-- Brings the rate state up to the current operating second. -/
def refill (s : State) : State := { s with rates := s.rates.map (refillRate s.rateAt s.opSeconds), rateAt := s.opSeconds }

/-- The first check of R483 that a policy fails; with the ring key where none does. -/
def polCheck (s : State) (p : Option (List Byte)) : Nat × List Byte :=
  match p with
  | none => (2, [])
  | some p =>
    if !polLayoutOk p then (2, [])
    else if !s.flag .ID_STATUS_SEAL_EN iod0 then (3, [])
    else if !Config.ecdsaVerify (polKey p) (p.take (p.length - 64)) (p.drop (p.length - 64)) then (4, [])
    else if (p.drop 0xB8).take 32 != sha256 (recDkPub s.record) then (5, [])
    else if (!s.polHash.isEmpty && sha256 (polKey p) != s.polHash) || polVersion p < s.polFloor then (6, [])
    else if polRing p = 0 then (1, [])
    else match Config.unwrapRingKey ((p.drop 0x50).take 64) ((p.drop 0x90).take 40) (sha256 (recDkPub s.record)) with
      | some k => (1, k)
      | none => (7, [])

/-- Forgets the proof of membership of every port where the ring or its key changes (R490, R491). -/
def ringChanged (s : State) (old : Option Policy) : State :=
  if s.policy.map (fun q => (q.ring, q.ringKey)) = old.map (fun q => (q.ring, q.ringKey)) then s
  else (List.range 8).foldl (fun s p => (s.modPort p (fun x => { x with hbOk := false })).sealEnforce p) s

/-- POL_CTL.INSTALL (R483, R484, R497). -/
def polInstall (s : State) : State :=
  let a := s.fld .POL_ADDR_ADDR iod0
  let n := s.fld .POL_LEN_LEN iod0
  let r := if n ≤ 2 ^ 20 && s.systemRange a n then s.supRead a n else (none, s)
  let c := r.2.polCheck r.1
  let s := r.2.setFld .POL_CTL_RESULT iod0 0 0 c.1
  match (if c.1 = 1 then r.1 else none) with
  | none => s.raise .EV_POL_REFUSED carrierDie 0 (s.regWord .POL_CTL iod0)
  | some p =>
    let s := s.refill
    let hash := sha256 (polKey p)
    let old := s.policy
    let s := { s with
      policy := some ⟨polVersion p, polRing p, c.2, hkdf Config.deviceSecret hash (ascii "LFM-FK") 64, sha256 p, polAllow p⟩,
      polHash := hash, polFloor := polVersion p,
      rates := (polAllow p).map (fun e => (s.rates.find? (fun (r : Rate) => r.entry == e)).getD (fullRate e)) }
    let s := (s.setFld .ID_STATUS_POLICY iod0 0 0 1).setFld .ID_STATUS_POL_VER iod0 0 0 (polVersion p)
    (s.raise .EV_POL_INSTALL carrierDie 0 (s.regWord .ID_STATUS iod0)).ringChanged old

/-- Sealed state remains on the module, so that a policy reset is refused (R484). -/
def sealedState (s : State) : Bool :=
  s.frames.any (fun e => e.2.isSealed) || (List.range 8).any (fun p => s.hl .HL_CTL_SEAL_OK p = 1)
    || (List.range 4).any (fun slot => s.flag .SLQ_STATE_SEALED_RUN iod0 slot)

/-- POL_CTL.RESET (R484). -/
def polReset (s : State) : State :=
  if s.sealedState then s.setFld .POL_CTL_RESULT iod0 0 0 8
  else
    let s := { s with policy := none, polHash := [], polFloor := 0 }
    ((s.setFld .ID_STATUS_POLICY iod0 0 0 0).setFld .ID_STATUS_POL_VER iod0 0 0 0).setFld .POL_CTL_RESULT iod0 0 0 1

/-- A write of POL_CTL: an INSTALL goes before a RESET written with it (log entry 63). -/
def writePolCtl (s : State) (v : Nat) : State := if v.testBit 0 then s.polInstall else if v.testBit 1 then s.polReset else s

/-- The SHA-256 of a loaded pattern, as bytes (R150). -/
def patSha (s : State) (cd slot : Nat) : List Byte := leBytes 32 (s.pattern cd slot).sha

/-- The dies on which a slot has a pattern loaded. -/
def patDies (s : State) (slot : Nat) : List Nat := (List.range 8).filter (fun cd => s.loaded cd slot)

/-- The allow-list entries of a slot's loaded patterns, each once; `none` where a pattern is on none (R495, R496). -/
def patEntries (s : State) (slot : Nat) : Option (List (List Byte)) :=
  (s.patDies slot).foldl (fun acc cd =>
    match acc, (s.policy.bind (fun q => q.allow.find? (fun e => e.take 32 == s.patSha cd slot))) with
    | some es, some e => some (if es.contains e then es else es ++ [e])
    | _, _ => none) (some [])

/-- Every pattern loaded in a slot is a listed release kernel, so that a launch arms the window (R495). -/
def releaseListed (s : State) (slot : Nat) : Bool :=
  (s.patDies slot).all (fun cd => (s.pattern cd slot).release) && !(s.patDies slot).isEmpty && (s.patEntries slot).isSome

/-- Arms a slot's window at a launch: its frames are zeroed first (R495). A window with a frame that the slot does not own (R499) is not
armed (log entry 149). -/
def armWindow (s : State) (slot : Nat) : State :=
  let f0 := s.fld .TS_WIN_BASE_BASE iod0 slot
  let n := s.fld .TS_WIN_LEN_FRAMES iod0 slot
  let frames := (List.range n).filterMap (fun k =>
    (frameOf (2 ^ 21 * (f0 + k))).map (fun e => (e.1, e.2, s.frame e.1 e.2)))
  if !s.releaseListed slot || n = 0 || frames.length ≠ n || frames.any (fun e => e.2.2.owner ≠ .slot slot) then s
  else
    (s.setBit .TS_STATUS_ARMED iod0 0 0 slot true).zeroFrames frames

/-- The first check of R496 that a release fails; 0 for none. -/
def relCheck (s : State) (slot : Nat) : Nat :=
  let off := s.fld .TS_REL_OFF_OFF iod0 slot
  let len := s.fld .TS_REL_LEN_LEN iod0 slot
  let es := (s.patEntries slot).getD []
  let running := ((List.range 4).filter (fun x => (s.releases.get none (Key.at 0 x)).isSome)).length
  if !(s.flagBit .TS_STATUS_ARMED iod0 0 0 slot && off % 32 = 0 && len % 32 = 0
      && off + len ≤ 2 ^ 21 * s.fld .TS_WIN_LEN_FRAMES iod0 slot && s.systemRange (s.fld .TS_REL_DST_DST iod0 slot) len) then 2
  else if (s.releases.get none (Key.at 0 slot)).isSome then 3
  else if (s.patEntries slot).isNone || es.any (fun e => entMax e < len) then 4
  else if es.any (fun e => match s.rates.find? (fun (r : Rate) => r.entry == e) with
      | some r => r.releases < 65536 || r.bytes < 65536 * len
      | none => true) then 5
  else if 512 ≤ s.fld .TS_STATUS_SEQ iod0 - s.relAck + running then 6
  else 0

/-- TS_REL_CTL.GO (R496, R497). -/
def release_ (s : State) (slot : Nat) : State :=
  let s := s.refill
  let c := s.relCheck slot
  if c != 0 then
    let s := (s.setFld .TS_REL_CTL_RESULT iod0 slot 0 c).incFld .TS_CNT_REFUSED_COUNT iod0 0 0
    s.raise .EV_TS_REFUSED iod0 slot (s.regWord .TS_REL_CTL iod0 slot) (some slot)
  else
    let len := s.fld .TS_REL_LEN_LEN iod0 slot
    let es := (s.patEntries slot).getD []
    let s := { s with
      rates := s.rates.map (fun (r : Rate) => if es.contains r.entry then { r with releases := r.releases - 65536, bytes := r.bytes - 65536 * len } else r),
      releases := s.releases.set none (Key.at 0 slot)
        (some ⟨2 ^ 21 * s.fld .TS_WIN_BASE_BASE iod0 slot + s.fld .TS_REL_OFF_OFF iod0 slot, len, s.fld .TS_REL_DST_DST iod0 slot,
               s.patSha ((s.patDies slot).headD 0) slot⟩) }
    ((s.setFld .TS_REL_CTL_BUSY iod0 slot 0 1).setFld .TS_REL_CTL_RESULT iod0 slot 0 0).setBit .TS_STATUS_RUNNING iod0 0 0 slot true

/-- Copies the words of a release in order, without SEALED and SLOT, up to a poisoned one: the bytes copied, whether a poisoned word
ended it, and the state. -/
def relCopy : Nat → Nat → Nat → State → List Byte × Bool × State
  | 0, _, _, s => ([], false, s)
  | n + 1, src, dst, s =>
    let r := s.fetchWord .snapshot src
    if tagPoison r.1.tag then ([], true, r.2)
    else
      let bs := leBytes 32 r.1.data
      let rest := relCopy n (src + 32) (dst + 32) (r.2.ownWrite dst bs)
      (bs ++ rest.1, rest.2)

/-- A release record (R498). -/
def relRecord (s : State) (slot result : Nat) (r : Release) (bs : List Byte) : List Byte :=
  let head := leBytes 4 (s.fld .TS_STATUS_SEQ iod0 + 1) ++ leBytes 1 result ++ leBytes 1 slot ++ leBytes 2 s.myPos
    ++ leBytes 8 s.opSeconds ++ leBytes 8 bs.length ++ leBytes 4 (s.fld .NUM_STEP_STEP mh0 slot) ++ leBytes 4 0 ++ r.pattern ++ sha256 bs
  head ++ sha256 (s.relChain ++ head)

/-- A release ends (R496, R498); it waits while a word of its window is being zeroed (R257). -/
def releaseDone (s : State) (slot : Nat) : State :=
  match s.releases.get none (Key.at 0 slot) with
  | none => s
  | some r =>
    if (wordsOf r.src r.len).any s.zeroingAt || (wordsOf r.dst r.len).any s.zeroingAt then s
    else
      let c := relCopy (r.len / 32) r.src r.dst s
      let result := if c.2.1 then 7 else 1
      let s := c.2.2
      let rec_ := s.relRecord slot result r c.1
      let s := { s with releases := s.releases.set none (Key.at 0 slot) none, relLog := (s.relLog ++ [rec_]).drop (s.relLog.length + 1 - 512) }
      let s := (s.incFld .TS_STATUS_SEQ iod0 0 0).setBit .TS_STATUS_RUNNING iod0 0 0 slot false
      let s := ((s.setFld .TS_REL_CTL_BUSY iod0 slot 0 0).setFld .TS_REL_CTL_RESULT iod0 slot 0 result).incFld .TS_CNT_RELEASE_COUNT iod0 0 0
      s.raise .EV_TS_RELEASE iod0 slot s.tsStatus (some slot)

/-- TS_LOG_ACK (R498). -/
def ackLog (s : State) (q : Nat) : State := { s with relAck := max s.relAck (min q (s.fld .TS_STATUS_SEQ iod0)) }

/-- Word `i` of TS_LOG0 to TS_LOG15: the record that TS_LOG_IDX names, zero where it is not kept. -/
def tsLogWord (s : State) (i : Nat) : Nat :=
  let q := s.fld .TS_LOG_IDX_SEQ iod0
  match s.relLog.find? (fun r => field r 0 4 = q) with
  | some r => field r (8 * i) 8
  | none => 0

end State

/-- QUOTE (R480, R499). -/
def execQuote (acc : Accessor) (s : State) : Out := .next (s.regWrite iod0 (isSup acc) (fun s => some s.startQuote))

/-- QUOTE_COMPLETE (R480). -/
def execQuoteComplete (s : State) : Out := .next s.quoteDone

/-- POL_INSTALL (R483, R499). -/
def execPolInstall (acc : Accessor) (s : State) : Out := .next (s.regWrite iod0 (isSup acc) (fun s => some s.polInstall))

/-- POL_RESET (R484, R499). -/
def execPolReset (acc : Accessor) (s : State) : Out := .next (s.regWrite iod0 (isSup acc) (fun s => some s.polReset))

/-- TS_RELEASE (R496, R499): host authority of the slot, or supervisor authority. -/
def execTsRelease (acc : Accessor) (slot : Fin 4) (s : State) : Out :=
  .next (s.regWrite iod0 (isSup acc || s.hostAuth acc slot) (fun s => some (s.release_ slot)))

/-- TS_RELEASE_COMPLETE (R496, R498). -/
def execTsReleaseComplete (slot : Fin 4) (s : State) : Out := .next (s.releaseDone slot)

/-- TS_LOG_ACK (R498, R499). -/
def execTsLogAck (acc : Accessor) (v : Word64) (s : State) : Out :=
  .next (s.regWrite iod0 (isSup acc) (fun s => some (s.ackLog (bits v.toNat 31 0))))

end Sys2Proof.Machine
end

