-- ==== Sys2Proof/Machine/Snapshots.lean ====
section
/-! DEFINITION. Snapshots (R401 to R409, R493, R494): the image of a slot, its digests, the image places in flash, the copy, the drain and
the restore, and the frames that carry a state to another module (R408, R418, R419). -/

namespace Sys2Proof.Machine

/-- A value in a message or register that stands for no step (R428, SNAP_STATUS). -/
def noStep : Nat := 0xFFFFFFFF

/-- A state-list entry (R401): its VA, whether it is VALID, and its length. -/
def entVa (e : List Byte) : Nat := field e 0 6
def entLen (e : List Byte) : Nat := if (field e 6 1).testBit 0 then field e 8 8 else 0

/-- Splits a list into pieces of `n` elements. -/
def piecesOf {α : Type} (n : Nat) : Nat → List α → List (List α)
  | 0, _ => []
  | fuel + 1, xs => if xs.isEmpty then [] else xs.take n :: piecesOf n fuel (xs.drop n)

/-- The bytes and then the tag bytes of a list of words (R405). -/
def wordBytes (ws : List Word) : List Byte := ws.flatMap (fun w => leBytes 32 w.data)
def wordTags (ws : List Word) : List Byte := ws.map (fun w => BitVec.ofNat 8 w.tag)

/-- The leaves of a region: 32,768 words each (R405). -/
def leavesOf (ws : List Word) : List (List Word) := piecesOf 32768 (ws.length + 1) ws

/-- One level of the hash tree (R407): hashes are paired in order, and an unpaired last one moves up unchanged. -/
def hashLevel : List (List Byte) → List (List Byte)
  | a :: b :: t => sha256 (1 :: a ++ b) :: hashLevel t
  | t => t

/-- The one hash left (R407). -/
def hashTree : Nat → List (List Byte) → List Byte
  | 0, t => t.headD []
  | n + 1, t => if t.length ≤ 1 then t.headD [] else hashTree n (hashLevel t)

/-- The region table of an image (R405), of 16,384 bytes. -/
def regionTable (es : List (List Byte)) : List Byte := State.padTo 16384 (es.flatMap (State.padTo 16))

/-- The shard root (R407) of a region table, a register image and the words of each region. -/
def shardRoot (table regs : List Byte) (regions : List (List Word)) : List Byte :=
  let leaves := (regions.zipIdx).flatMap (fun r => ((leavesOf r.1).zipIdx).map (fun l =>
    sha256 (0 :: leBytes 2 r.2 ++ leBytes 4 l.2 ++ wordBytes l.1 ++ wordTags l.1)))
  hashTree (leaves.length + 1) (sha256 (2 :: table ++ regs) :: leaves)

/-- The image root (R407). -/
def imageRoot (head shard : List Byte) : List Byte := sha256 (3 :: head.take 0x20 ++ shard)

/-- Encrypts or decrypts the leaves of an image under FK, in units of 4,096 bytes whose tweak is the flash address divided by 4,096
(R493). -/
def cryptUnits (f : List Byte → Nat → List Byte → List Byte) (fk : List Byte) (a : Nat) (bs : List Byte) : List Byte :=
  ((piecesOf 4096 (bs.length + 1) bs).zipIdx).flatMap (fun u => State.padTo u.1.length (f fk (a / 4096 + u.2) u.1))

/-- A snapshot of a slot's committed state (R401): state list, register image and regions. -/
structure Committed where
  entries : List (List Byte)
  regs : List Byte
  regions : List (List Word)
  deriving DecidableEq, Repr

def Committed.table (c : Committed) : List Byte := regionTable c.entries
def Committed.bytes (c : Committed) : Nat := (c.regions.map (fun r => 32 * r.length)).foldl (· + ·) 0
def Committed.shard (c : Committed) : List Byte := shardRoot c.table c.regs c.regions
def Committed.leaves (c : Committed) : List Byte := c.regions.flatMap (fun r => (leavesOf r).flatMap (fun l => wordBytes l ++ wordTags l))

namespace State

/-- The state list of a slot (R401): `none` where it is empty, too long or cannot be read. -/
def stateList (s : State) (slot : Nat) : Option (List (List Byte)) × State :=
  let n := s.fld .REC_STATE_BASE_CNT iod0 slot
  if n = 0 || 1024 < n then (none, s)
  else match s.vaRead .snapshot slot (s.fld .REC_STATE_BASE_BASE iod0 slot * 16) (16 * n) with
    | (.ok bs, s) => (if mPoison bs then none else some (piecesOf 16 (n + 1) (bs.map MByte.b)), s)
    | (_, s) => (none, s)

/-- Reads the words of a region with their tags, as the snapshot path does (R402, R489). -/
def regionWords (slot : Nat) : Nat → Nat → State → Option (List Word) × State
  | 0, _, s => (some [], s)
  | n + 1, va, s =>
    match s.vaWord .snapshot slot va with
    | (.word w, s') =>
      let r := regionWords slot n (va + 32) s'
      (r.1.map (fun ws => w :: ws), r.2)
    | (_, s') => (none, s')

/-- The register image of a slot (R401, R405): the group table, NUM_LSCALE and NUM_STEP. -/
def regImage (s : State) (slot : Nat) : List Byte :=
  padTo 16448 ((List.range 256).flatMap (fun g => (List.range 8).flatMap (fun w => leBytes 8 (s.groups.get 0 (Key.at slot g w))))
    ++ leBytes 8 (s.regWord .NUM_LSCALE mh0 slot) ++ leBytes 8 (s.regWord .NUM_STEP mh0 slot))

/-- Reads a slot's committed state (R401); `none` where part of it cannot be read. -/
def readCommitted (s : State) (slot : Nat) : Option Committed × State :=
  match s.stateList slot with
  | (none, s) => (none, s)
  | (some es, s) =>
    let r := es.foldl (fun (r : Option (List (List Word)) × State) e =>
      match r with
      | (none, s) => (none, s)
      | (some acc, s) => let x := regionWords slot (entLen e / 32) (entVa e) s; (x.1.map (fun ws => acc ++ [ws]), x.2)) (some [], s)
    (r.1.map (fun rs => ⟨es, r.2.regImage slot, rs⟩), r.2)

/-- Loads a register image (R409, R420): the group table, NUM_LSCALE and NUM_STEP. -/
def loadRegImage (s : State) (slot : Nat) (regs : List Byte) : State :=
  let s := (List.range 256).foldl (fun s g => (List.range 8).foldl (fun s w =>
    { s with groups := s.groups.set 0 (Key.at slot g w) (field regs (64 * g + 8 * w) 8) }) s) s
  let put (s : State) (r : Reg) (v : Nat) : State := r.fields.foldl (fun s f => s.setFld f.fld mh0 slot 0 (bits v (f.lo + f.width - 1) f.lo)) s
  let s := s.setStep slot (bits (field regs 16392 8) 31 0)
  (put s .NUM_LSCALE (field regs 16384 8)).setFld .NUM_STEP_RESOLVED mh0 slot 0 (field regs 16396 4)

/-- A fill or a restore makes the parameter state whole again: TORN clears (R444). -/
def clearTorn (s : State) (slot : Nat) : State :=
  ueAll.foldl (fun s e =>
    let s := { s with torn := s.torn.set false (Key.at (mhDie e.1) e.2 slot) false }
    if (List.range 4).any (fun x => s.torn.get false (Key.at (mhDie e.1) e.2 x)) then s else s.setFld .UE_STATUS_TORN (mhDie e.1) e.2 0 0) s

/-- Writes the words of a region (R409, R419). Whether every word could be written, and the state. -/
def storeRegion (slot : Nat) : List Word → Nat → State → Bool × State
  | [], _, s => (true, s)
  | w :: ws, va, s =>
    let r := match s.translate slot va true with
      | .pa a => if s.admitVa .snapshot (a / 32 * 32) = Admit.ok then
          (true, s.mergeWord (.update (Fin.ofNat 4 slot)) (a / 32 * 32) 0 (leBytes 32 w.data) (tagPoison w.tag) (tagSealed w.tag))
        else (false, s)
      | .fault _ => (false, s)
    let rest := storeRegion slot ws (va + 32) r.2
    (r.1 && rest.1, rest.2)

/-- Where an image place of a slot lies in flash (SNAP_SLOT). -/
def placeAddr (s : State) (slot p : Nat) : Nat :=
  2 ^ 20 * (if p = 0 then s.fld .SNAP_SLOT_IMG0 iod0 slot else s.fld .SNAP_SLOT_IMG1 iod0 slot)

def flashRead (s : State) (a n : Nat) : List Byte := s.flash.slice a n
def flashWrite (s : State) (a : Nat) (bs : List Byte) : State := { s with flash := s.flash.splice a bs }

/-- Where the commit record of an image of `n` region bytes stands (R405). -/
def commitOff (n : Nat) : Nat := 0x10000 + n + n / 32

/-- The first 0x80 bytes of an image (R405). -/
def imageHead (s : State) (slot : Nat) (c : Committed) (encrypted : Bool) : List Byte :=
  let head := leBytes 4 0x50414E53 ++ leBytes 2 1 ++ leBytes 2 s.myPos ++ leBytes 4 (s.fld .NUM_STEP_STEP mh0 slot) ++ leBytes 2 s.myGen
    ++ leBytes 2 (s.fld .REC_JOB_GEN_GEN iod0 slot) ++ leBytes 1 slot ++ leBytes 1 (if encrypted then 1 else 0) ++ leBytes 2 c.entries.length
    ++ leBytes 4 0 ++ leBytes 8 c.bytes
  padTo 0x80 (head ++ imageRoot head c.shard)

/-- The commit record of an image header (R406). -/
def commitRecord (head : List Byte) : List Byte :=
  let b := head.take 4 ++ (head.drop 8).take 4 ++ (head.drop 0xC).take 4 ++ (head.drop 0x10).take 2 ++ leBytes 2 0 ++ (head.drop 0x18).take 8
    ++ (head.drop 0x20).take 32 ++ List.replicate 16 0
  padTo 4096 (b ++ leBytes 4 (crc32 b))

/-- The header of the image in a place, where it is complete and the slot's own (R404, R406). -/
def imageIn (s : State) (slot p : Nat) : Option (List Byte) :=
  let a := s.placeAddr slot p
  let head := s.flashRead a 0x80
  if field head 0 4 = 0x50414E53 && field head 4 2 = 1 && field head 0x10 1 = slot && !(field head 0x11 1).testBit 1
      && (s.flashRead (a + commitOff (field head 0x18 8)) 4096).take 0x4C == (commitRecord head).take 0x4C then some head
  else none

/-- The steps of the slot's complete images (R416, R424). -/
def imageSteps (s : State) (slot : Nat) : List Nat := [0, 1].filterMap (fun p => (s.imageIn slot p).map (fun h => field h 8 4))

/-- The place that holds the newest complete image: the one of the step that SNAP_STATUS shows, else the later step (log entry 70). -/
def newestPlace (s : State) (slot : Nat) : Option Nat :=
  match s.imageIn slot 0, s.imageIn slot 1 with
  | none, none => none
  | some _, none => some 0
  | none, some _ => some 1
  | some a, some b =>
    if field a 8 4 = s.fld .SNAP_STATUS_STEP iod0 slot then some 0
    else if field b 8 4 = s.fld .SNAP_STATUS_STEP iod0 slot then some 1
    else if field b 8 4 ≤ field a 8 4 then some 0 else some 1

def snap (s : State) (slot : Nat) : Option SnapRun := s.snaps.get none (Key.at 0 slot)
def setSnap (s : State) (slot : Nat) (x : Option SnapRun) : State := { s with snaps := s.snaps.set none (Key.at 0 slot) x }
def setPause (s : State) (slot : Nat) (b : Bool) : State := { s with slotPause := s.slotPause.set false (Key.at 0 slot) b }

/-- No work of a slot is queued or runs in any unit (R402, R493). -/
def slotIdle (s : State) (slot : Nat) : Bool :=
  (List.range 8).all (fun cd => (s.cutDie cd slot).1 = 0) && (s.reColls 0 slot).isEmpty && (s.reColls 1 slot).isEmpty

/-- No vote of a slot is open and no update runs (R245). -/
def voteClosed (s : State) (slot : Nat) : Bool := (s.vote slot).isNone && (s.updatesOf slot).isEmpty

/-- A waiting snapshot begins (R402, "When a snapshot meets a drain still running"): the slot's contexts issue nothing more. -/
def snapBegin (s : State) (slot : Nat) : State :=
  match s.snap slot with
  | some r =>
    if r.phase = .waiting && s.voteClosed slot
        && (List.range 4).all (fun x => x = slot || (match s.snap x with | some y => y.phase = .waiting | none => true)) then
      let place := match s.newestPlace slot with
        | some 0 => 1
        | _ => 0
      (s.setSnap slot (some ⟨.copying, place, s.fld .NUM_STEP_STEP mh0 slot, []⟩)).setPause slot true
    else s
  | none => s

/-- The tier-2 shadow: its address, and whether it holds an image of `n` bytes (R402, R403). -/
def shadowBase (s : State) : Nat := s.fld .SNAP_SHADOW_BASE iod0 * 16
def shadowFits (s : State) (n : Nat) : Bool := n ≤ 2 ^ 30 * s.fld .SNAP_SHADOW_SIZE iod0 && s.systemRange s.shadowBase n && n != 0

/-- Writes an image into the shadow (R402): the words of the leaves keep their poison and seal marks. -/
def writeShadow (s : State) (slot : Nat) (head : List Byte) (c : Committed) : State :=
  let a := s.shadowBase
  let s := s.ownWrite a (padTo 0x10000 (head ++ c.table ++ c.regs))
  let leaves := c.regions.flatMap leavesOf
  (leaves.foldl (fun (r : State × Nat) l =>
    let t := (l.zipIdx).foldl (fun s w =>
      s.mergeWord (.update (Fin.ofNat 4 slot)) (r.2 + 32 * w.2) 0 (leBytes 32 w.1.data) (tagPoison w.1.tag) (tagSealed w.1.tag)) r.1
    (t.ownWrite (r.2 + 32 * l.length) (wordTags l), r.2 + 33 * l.length)) (s, a + 0x10000)).1

/-- Writes an image into flash, but for its commit record (R404, R493). -/
def writeFlash (s : State) (a : Nat) (head : List Byte) (c : Committed) (fk : List Byte) : State :=
  let leaves := if (field head 0x11 1).testBit 0 then cryptUnits Config.aesEncrypt fk (a + 0x10000) c.leaves else c.leaves
  ((s.flashWrite a (padTo 0x10000 (head ++ c.table ++ c.regs))).flashWrite (a + 0x10000) leaves).flashWrite (a + commitOff c.bytes)
    (List.replicate 4096 0)

/-- A port in traffic whose peer holds a position. -/
def adjacentPort (s : State) (pos : Nat) : Option Nat :=
  (List.range 8).find? (fun p => s.inTraffic p && s.hl .HL_PEER_VALID p = 1 && s.hl .HL_PEER_POS p = pos)

/-- The legs of a state frame (R415, R418): one hop to an adjacent position, else out to the ring neighbour on one side, one hop of
dimension 2 and back (the number of hops of dimension 2 is log entry 71). The peer of a CATCH port needs no leg: INDEX cannot name each
of several CATCH ports (R356), so such a frame is put on its port. -/
def stateLegs (s : State) (dest : Nat) (east : Bool) : List Nat :=
  match s.adjacentPort dest with
  | some p => if s.hlRole p = 3 then [] else [legOf (s.hlRole p) 3 1]
  | none =>
    let r2 := if s.myPos < dest then 7 else 6
    if east then [legOf 2 3 1, legOf r2 3 1, legOf 1 3 1] else [legOf 1 3 1, legOf r2 3 1, legOf 2 3 1]

/-- The header of a FILL or MIRROR frame (R354, R419). -/
def stateHdr (s : State) (kind slot dest region off step flits : Nat) (legs : List Nat) : List Byte :=
  padTo 128 (leBytes 1 kind ++ leBytes 1 flits ++ leBytes 2 s.myPos ++ leBytes 2 dest ++ leBytes 2 (s.fld .REC_JOB_GEN_GEN iod0 slot)
    ++ leBytes 1 slot ++ leBytes 1 0 ++ leBytes 2 0 ++ leBytes 2 region ++ leBytes 2 (s.fld .REC_JOB_GEN_GEN iod0 slot) ++ leBytes 6 off
    ++ leBytes 2 0 ++ padTo 16 (legs.flatMap (leBytes 4)) ++ leBytes 4 step)

/-- The data flits of words: four words and their tags each (R349). -/
def wordFlits (ws : List Word) : List (List Byte) :=
  (piecesOf 4 (ws.length + 1) ws).map (fun q => padTo 128 (wordBytes q) ++ padTo 4 (wordTags q))

/-- Sends words of a region in frames of at most 30 flits (R354, R419). -/
def sendWords (s : State) (kind slot dest region off step : Nat) (legs : List Nat) (ws : List Word) : State :=
  ((piecesOf 120 (ws.length + 1) ws).zipIdx).foldl (fun s f =>
    let flits := wordFlits f.1
    let g : LinkFrame := ⟨s.stateHdr kind slot dest region (off + 3840 * f.2) step flits.length legs, flits, 0, none⟩
    match s.adjacentPort dest with
    | some p => if legs.isEmpty then (s.modPort p (fun x => { x with locals := x.locals ++ [g] })).pump else s.sendFrame g
    | none => s.sendFrame g) s

/-- Bytes as words without marks. -/
def plainWords (slot : Nat) (bs : List Byte) : List Word := (piecesOf 32 (bs.length + 1) bs).map (fun q => ⟨leNat q, mkTag false false slot⟩)

/-- How many words of a region of `n` words travel on the western side (R418): half of them in whole flits. -/
def westHalf (n : Nat) : Nat := n / 8 * 4

/-- Sends a committed state (R408, R418): the register image, and half of each region's words on either side. -/
def sendState (s : State) (kind slot dest step : Nat) (c : Committed) : State :=
  let west := s.stateLegs dest false
  let east := s.stateLegs dest true
  let s := s.sendWords kind slot dest 0xFFFF 0 step west (plainWords slot c.regs)
  (c.regions.zipIdx).foldl (fun s r =>
    let half := westHalf r.1.length
    (s.sendWords kind slot dest r.2 0 step west (r.1.take half)).sendWords kind slot dest r.2 (32 * half) step east (r.1.drop half)) s

/-- Sends the mirror of an image to the buddy (R408). -/
def sendMirror (s : State) (slot step : Nat) (head : List Byte) (c : Committed) : State :=
  if !s.flag .SNAP_CFG_BUDDY_EN iod0 then s
  else
    let dest := s.fld .SNAP_CFG_BUDDY iod0
    (s.sendWords 3 slot dest 0xFFFE 0 step (s.stateLegs dest false) (plainWords slot (padTo 0x4080 (head ++ c.table)))).sendState 3 slot dest step c

/-- The running SNAP_TAKE of a slot gives its final reply. -/
def endSnap (s : State) (slot status : Nat) : State :=
  let mine (r : CmdRun) : Bool := r.pkt.op = 0x0501 && r.pkt.slot = slot
  let runs := s.cmdRuns.filter mine
  let s := { s.dropSnap slot with cmdRuns := s.cmdRuns.filter (fun r => !mine r) }
  runs.foldl (fun s r => if status = stOk then s.reply r.pkt status [] else s.refuse r.pkt status) s

/-- The copy of a snapshot ends (R402, R403, R493): the image lies in the shadow, and where it does not fit there the slot stays paused
until the image is complete. A state that cannot be read, or an encrypted image without FK, ends the snapshot (log entry 72). -/
def snapCopied (s : State) (slot : Nat) : State :=
  match s.snap slot with
  | some r =>
    if r.phase != .copying || !s.slotIdle slot then s
    else
      match s.readCommitted slot with
      | (none, s) => s.endSnap slot stBadParam
      | (some c, s) =>
        let encrypted := s.frames.any (fun e => e.2.isSealed && e.2.owner = .slot slot) || s.flag .SLQ_STATE_SEALED_RUN iod0 slot
        let fk := match s.policy with | some q => q.fk | none => []
        if encrypted && fk.isEmpty then s.endSnap slot stSealed
        else
          let head := s.imageHead slot c encrypted
          let fits := s.shadowFits (commitOff c.bytes)
          let s := if fits then (s.writeShadow slot head c).setPause slot false else s
          let s := s.writeFlash (s.placeAddr slot r.place) head c fk
          (s.setSnap slot (some { r with phase := .draining, root := (head.drop 0x20).take 32 })).sendMirror slot r.step head c
  | none => s

/-- The drain of a snapshot ends (R404): the commit record is the last write of the image. -/
def snapDrained (s : State) (slot : Nat) : State :=
  match s.snap slot with
  | some r =>
    if r.phase != .draining then s
    else
      let a := s.placeAddr slot r.place
      let head := s.flashRead a 0x80
      let s := s.flashWrite (a + commitOff (field head 0x18 8)) (commitRecord head)
      (s.setFld .SNAP_STATUS_STEP iod0 slot 0 r.step).endSnap slot stOk
  | none => s

/-- Reads back the `n` words of one region from its leaves, of which at most `fuel` are read. -/
def leafWords : Nat → Nat → List Byte → List Word
  | 0, _, _ => []
  | fuel + 1, n, bs =>
    let k := min n 32768
    let data := piecesOf 32 (k + 1) (bs.take (32 * k))
    let tags := (bs.drop (32 * k)).take k
    (List.zipWith (fun d t => Word.mk (leNat d) t.toNat) data tags) ++ (if n ≤ k then [] else leafWords fuel (n - k) (bs.drop (33 * k)))

/-- The committed state that an image holds, where its root is right (R407, R409). -/
def parseImage (head table regs leaves : List Byte) : Option Committed :=
  let es := (piecesOf 16 1025 table).take (field head 0x12 2)
  let r := es.foldl (fun (r : List (List Word) × List Byte) e =>
    let n := entLen e / 32
    (r.1 ++ [leafWords (n / 32768 + 1) n r.2], r.2.drop (33 * n))) ([], leaves)
  let c : Committed := ⟨es, regs, r.1⟩
  if regionTable es == table && imageRoot head c.shard == (head.drop 0x20).take 32 then some c else none

/-- The image of a step in the shadow (R409). -/
def shadowImage (s : State) (slot step : Nat) : Option Committed :=
  let a := s.shadowBase
  if !s.shadowFits 0x10000 then none
  else
    let front := (s.ownRead a 0x10000).1
    let head := front.take 0x80
    if field head 0 4 = 0x50414E53 && field head 0x10 1 = slot && field head 8 4 = step && s.shadowFits (commitOff (field head 0x18 8)) then
      parseImage head ((front.drop 0x80).take 16384) ((front.drop 0x4080).take 16448)
        (s.ownRead (a + 0x10000) (commitOff (field head 0x18 8) - 0x10000)).1
    else none

/-- The slot's own complete image of a step in flash (R409, R494). -/
def flashImage (s : State) (slot step : Nat) : Option Committed :=
  match [0, 1].find? (fun p => (s.imageIn slot p).map (fun h => field h 8 4) == some step) with
  | none => none
  | some p =>
    let a := s.placeAddr slot p
    let head := s.flashRead a 0x80
    let stored := s.flashRead (a + 0x10000) (commitOff (field head 0x18 8) - 0x10000)
    let leaves := if (field head 0x11 1).testBit 0 then
        (match s.policy with | some q => cryptUnits Config.aesDecrypt q.fk (a + 0x10000) stored | none => [])
      else stored
    parseImage head (s.flashRead (a + 0x80) 16384) (s.flashRead (a + 0x4080) 16448) leaves

/-- Restores the slot's own image of a step (R409, R424): whether it could, and the state. -/
def restoreStep (s : State) (slot step : Nat) : Bool × State :=
  match (match s.shadowImage slot step with
    | some c => some c
    | none => s.flashImage slot step) with
  | none => (false, s)
  | some c =>
    let r := (List.zip c.entries c.regions).foldl (fun (r : Bool × State) e =>
      let x := storeRegion slot e.2 (entVa e.1) r.2
      (r.1 && x.1, x.2)) (true, s)
    let now := r.2.fld .NUM_STEP_STEP mh0 slot
    let s := r.2.incFld .REC_CNT_LOST_STEPS_COUNT iod0 0 0 (now - step)
    (r.1, (s.loadRegImage slot c.regs).clearTorn slot)

end State

/-- SNAPSHOT_COPY_COMPLETE (R402, R403): the slot's queued work has completed and every state word is copied. -/
def execSnapshotCopyComplete (slot : Fin 4) (s : State) : Out := .next (s.snapCopied slot)

/-- SNAPSHOT_DRAIN_COMPLETE (R404). -/
def execSnapshotDrainComplete (slot : Fin 4) (s : State) : Out := .next (s.snapDrained slot)

end Sys2Proof.Machine
end

