-- ==== Sys2Proof/Machine/Recovery.lean ====
section
/-! DEFINITION. Surviving failures (R410 to R426, R428): claims, the catch and the swing, RECOVER and RESUME along the vote path, the fill of
a catcher from a replica or a buddy, mirrors, the global rollback and the handback. -/

namespace Sys2Proof.Machine

/-- What a slot's `origin` may be. -/
def originCatch : Nat := 1
def originRollback : Nat := 2
def originRestore : Nat := 3
def originHandback : Nat := 4
def originCircling : Nat := 5
def originDue : Nat := 6

/-- Where a region of a fill or mirror lies in its store. -/
def fillAt (region off : Nat) : Nat := 2 ^ 48 * region + off

/-- The words of a frame's data flits (R349). -/
def frameWords (f : LinkFrame) : List Word := f.data.flatMap (fun d => (List.range 4).map (fun i => flitWord d i))

/-- Reads `n` words from the store of a fill or mirror. -/
def storedWords (bytes tags : Memory) (region n : Nat) : List Word :=
  List.zipWith (fun d t => Word.mk (leNat d) t.toNat) (piecesOf 32 (n + 1) (bytes.slice (fillAt region 0) (32 * n)))
    (tags.slice (fillAt region 0 / 32) n)

/-- The new generation, which never falls (R416). -/
def nextGen (g : Nat) : Nat := (g + 1) % 2 ^ 16

/-- The body of a RECOVER or RESUME (R428). -/
def circuitBody (sub cpos rgen jgen target c0 c1 : Nat) : List Byte :=
  leBytes 1 sub ++ leBytes 1 0 ++ leBytes 2 cpos ++ leBytes 2 rgen ++ leBytes 2 jgen ++ leBytes 4 target ++ leBytes 4 c0 ++ leBytes 4 c1

namespace State

def recState (s : State) (v : Nat) : State := s.setFld .REC_STATUS_STATE iod0 0 0 v

/-- The group position at an index of REC_GROUP, and the index of a position. -/
def groupPos (s : State) : List Nat := posList (s.fld .REC_GROUP_POS iod0) 4
def groupIdx (s : State) (k : Nat) : Option Nat := if k = 0xFFFF then none else s.groupPos.findIdx? (· == k)

/-- The catcher's ports to the ring neighbours of a group position (R410): west, then east. -/
def catchSides (s : State) (i : Nat) : Nat × Nat :=
  (if i = 0 then 4 else i - 1, if 3 ≤ i || s.groupPos.getD (i + 1) 0xFFFF = 0xFFFF then 5 else i + 1)

/-- Those that are wired: at a chain end a side has no port. -/
def wiredSides (s : State) (i : Nat) : List (Nat × Nat) :=
  [((s.catchSides i).1, 1), ((s.catchSides i).2, 2)].filter (fun p => s.hlRole p.1 != 0)

/-- The claim window in ticks (R413). -/
def claimWindow (s : State) : Nat := max (s.fld .REC_CFG_CLAIM_WIN iod0) 1 * 100 * usTicks

/-- A standing catcher accepts a position where the claim rule of R413 holds: ACCEPT to both neighbours, FENCE to the position, and
the catcher's side of the swing (R414). -/
def tryAccept (s : State) (k : Nat) : State :=
  match s.groupIdx k with
  | none => s
  | some i =>
    let near := s.wiredSides i
    let live := s.claims.filter (fun c => c.pos == k && decide (s.now ≤ c.since + s.claimWindow))
    let claimed (p : Nat × Nat) : Bool := live.any (fun c => c.sender == s.hl .HL_PEER_POS p.1)
    let own := live.any (fun c => c.sender == k) || !s.inTraffic i || s.hl .HL_FAULT_HB_LOSS i = 1
    if s.flag .HLM_POS_CATCHER iod0 && near.any claimed && (near.all claimed || own) then
      let g := nextGen s.myGen
      let s := near.foldl (fun s p => s.sendPicotOn p.1 (s.catchMsg (s.hl .HL_PEER_POS p.1) 2 k g 0 0 0 [])) s
      let s := s.sendPicotOn i (s.catchMsg k 4 k 0 0 0 0 [])
      let s := (s.setFld .HLM_POS_POS iod0 0 0 k).setFld .HLM_POS_CATCHER iod0 0 0 0
      let s := near.foldl (fun s p => s.setEnRole p.1 1 p.2) s
      { (s.recState 1).incFld .REC_CNT_CATCH_COUNT iod0 0 0 with claims := s.claims.filter (fun c => c.pos != k) }
    else s

/-- Handles the oldest catch message of a SUB (R428): one with a lower module generation is discarded and counted. -/
def catchStep (s : State) (sub : Nat) (ready : List Byte → Bool) (body : Nat → List Byte → State → State) : State :=
  match s.takeMsg (fun m => msgKind m = 5 && field m 0x10 1 = sub && (decide (msgGen m < s.myGen) || ready m)) with
  | none => s
  | some (p, m, s) => if msgGen m < s.myGen then s.incFld .REC_CNT_STALE_COUNT iod0 0 0 else body p m s

/-- Adds a position to a list of positions in a register word, at the first unused place. -/
def addPos (s : State) (f : Fld) (i : Nat) (pos : Nat) : Option State :=
  let l := posList (s.fld f iod0 0 i) 4
  (l.findIdx? (· == 0xFFFF)).map (fun k => s.setFld f iod0 0 i ((l.set k pos).zipIdx.foldl (fun (a : Nat) (e : Nat × Nat) => a + e.1 * 2 ^ (16 * e.2)) 0))

/-- Removes a position from a register word. -/
def dropPos (s : State) (f : Fld) (i : Nat) (pos : Nat) : State :=
  let l := (posList (s.fld f iod0 0 i) 4).map (fun q => if q = pos then 0xFFFF else q)
  s.setFld f iod0 0 i (l.zipIdx.foldl (fun (a : Nat) (e : Nat × Nat) => a + e.1 * 2 ^ (16 * e.2)) 0)

def addPending (s : State) (pos : Nat) : State :=
  if s.recPending.contains pos then s else (s.addPos .REC_PENDING_POS 0 pos).getD s
def addDetour (s : State) (pos : Nat) : State :=
  if s.recDetour.contains pos || pos = s.myPos then s
  else match s.addPos .REC_DETOUR_POS 0 pos with
    | some s => s
    | none => (s.addPos .REC_DETOUR_POS 1 pos).getD s
def dropDetour (s : State) (pos : Nat) : State := (s.dropPos .REC_DETOUR_POS 0 pos).dropPos .REC_DETOUR_POS 1 pos

/-- Sends a message to the next position of the vote path of a slot, as `sendVote` does (R239, R416). -/
def sendPath (s : State) (slot : Nat) (body : List Byte) : State := s.sendTo (s.fld .CMT_CFG_NEXT_POS mh0 slot) 5 slot s.myGen body

def isQuiet (s : State) (slot : Nat) : Bool := s.quiet.get false (Key.at 0 slot)
def setQuiet (s : State) (slot : Nat) (b : Bool) : State := { s with quiet := s.quiet.set false (Key.at 0 slot) b }
def isRecovering (s : State) (slot : Nat) : Bool := s.recovering.get false (Key.at 0 slot)
def setRecovering (s : State) (slot : Nat) (b : Bool) : State := { s with recovering := s.recovering.set false (Key.at 0 slot) b }
def originOf (s : State) (slot : Nat) : Nat := s.origin.get 0 (Key.at 0 slot)
def setOrigin (s : State) (slot v : Nat) : State := { s with origin := s.origin.set 0 (Key.at 0 slot) v }
def restoreOf (s : State) (slot : Nat) : Option Nat := s.restores.get none (Key.at 0 slot)
def setRestore (s : State) (slot : Nat) (v : Option Nat) : State := { s with restores := s.restores.set none (Key.at 0 slot) v }
def fillOf (s : State) (slot : Nat) : Option Fill := s.recFills.get none (Key.at 0 slot)
def setFill (s : State) (slot : Nat) (v : Option Fill) : State := { s with recFills := s.recFills.set none (Key.at 0 slot) v }

/-- Every circuit that this module sent has ended: the position that they were about is lost no more (R417, R424). -/
def endLoss (s : State) (cpos : Nat) : State :=
  if (List.range 4).all (fun x => s.originOf x = 0) then { s with lost := s.lost.filter (· != cpos) } else s

/-- The result of the last step that this module resolved goes out again where the path to the next position is not empty. -/
def resendResult (s : State) (slot : Nat) : State :=
  let step := s.fld .CMT_LAST_STEP mh0 slot
  if s.votePathEmpty slot || (step + 1) % 2 ^ 32 ≠ s.fld .NUM_STEP_STEP mh0 slot || step = 2 ^ 32 - 1 then s
  else s.sendVote slot 2 (s.flag .CMT_LAST_COMMIT mh0 slot) (s.fld .CMT_LAST_REASONS mh0 slot) step

/-- Stops a slot for the recovery of a position (R416): its work is abandoned, its lists are reset and its stash is purged. An open vote
stays until the circuit has shown whether a surviving module resolved it; a module that has resolved sends RESULT again under the new
generation ("When a failure meets a vote"). A fill of another position goes on (R423, first row); what this module owed to a fill of
this one is dropped, since its new catcher fills from the start (R423, second row). -/
def stopSlot (s : State) (slot cpos : Nat) : State :=
  if s.slotState slot = slotFree || s.slotState slot = slotDisabling then s
  else
    let s := ((s.abandonWork slot).2.resetLists slot).setSlotState slot slotReady
    let s := (List.range 8).foldl (fun s cd => s.purgeStash cd slot) s
    let s := (s.setRecovering slot true).setQuiet slot false
    let s := if cpos = s.myPos then s.setFill slot none else s
    let s := { s with fillReqs := s.fillReqs.filter (fun q => !(q.slot == slot && q.cpos == cpos)), digests := s.digests.filter (fun q => !(q.1 == slot && q.2.1 == cpos)) }
    s.resendResult slot

/-- The swing of a handback on a neighbour (R425): the ring ports toward the position take back their role, and the CATCH port its
own. -/
def swingBack (s : State) (cpos : Nat) : State :=
  let mine := s.swung.filter (fun e => s.hl .HL_PEER_POS e.1 = cpos)
  let s := if mine.isEmpty then s
    else ((List.range 8).filter (fun p => roleDim (s.hlRole p) = 1 && s.hl .HL_PEER_POS p = cpos)).foldl (fun s p => (s.dropQueued p).setEnRole p 1 3) s
  { mine.foldl (fun s e => s.setEnRole e.1 1 e.2) s with swung := s.swung.filter (fun e => s.hl .HL_PEER_POS e.1 != cpos) }

/-- What a RECOVER does on a module (R416, R424, R425), its own included: the generations, REC_PENDING and REC_DETOUR, the restore
that it asks for, and the stop of the slot. -/
def takeRecover (s : State) (slot cpos rgen jgen target c0 c1 : Nat) : State :=
  let s := ((s.setFld .HLM_POS_GEN iod0 0 0 rgen).setFld .REC_JOB_GEN_GEN iod0 slot 0 jgen).evalAll
  let back := target != noStep && c0 = noStep && c1 = noStep
  let s := s.addPending cpos
  let s := if back then (s.dropDetour cpos).swingBack cpos else s.addDetour cpos
  let s := s.stopSlot slot cpos
  if target != noStep && c0 = target && c1 = target && s.isRecovering slot then (s.setRestore slot (some target)).recState 4
  else s.setRestore slot none

/-- The candidates that a module leaves in a RECOVER (R416). -/
def keepCand (s : State) (slot c : Nat) : Nat := if (s.imageSteps slot).contains c then c else noStep

/-- A module's own two image steps as candidates (R424). -/
def ownCands (s : State) (slot : Nat) : Nat × Nat := let l := s.imageSteps slot; (l.getD 0 noStep, l.getD 1 noStep)

/-- A recovery that cannot go on (R424). -/
def noCommon (s : State) (slot : Nat) : State :=
  let s := s.setFld .REC_STATUS_FAILED iod0 0 0 1
  s.raise .EV_REC_NO_COMMON iod0 0 (s.regWord .REC_STATUS iod0) (some slot)

/-- Sends a RECOVER of this module on its circuit (R416) and acts on it here. A path of 0 hops returns it at once: the result says so. -/
def launchCircuit (s : State) (slot kind cpos rgen jgen target c0 c1 : Nat) : State × Bool :=
  let s := (s.takeRecover slot cpos rgen jgen target c0 c1).setOrigin slot kind
  let s := if kind = originRestore && !(s.imageSteps slot).contains target then s.setRestore slot none else s
  if s.votePathEmpty slot then (s, true) else (s.sendPath slot (circuitBody 5 cpos rgen jgen target c0 c1), false)

/-- A circuit has returned (R416, R424, R425). -/
def circuitBack (s : State) (slot cpos c0 c1 : Nat) : State :=
  if s.originOf slot = originRollback then
    let got := [c0, c1].filter (· != noStep)
    if got.isEmpty then ((s.setOrigin slot 0).endLoss cpos).noCommon slot
    else
      let t := got.foldl max 0
      let r := s.launchCircuit slot originRestore cpos s.myGen (s.fld .REC_JOB_GEN_GEN iod0 slot) t t t
      if r.2 then r.1.setOrigin slot originDue else r.1
  else if s.originOf slot = originRestore || s.originOf slot = originHandback then s.setOrigin slot originDue
  else s

/-- Starts a global rollback (R424). -/
def rollback (s : State) (slot cpos rgen c0 c1 : Nat) : State :=
  let r := s.launchCircuit slot originRollback cpos rgen (nextGen (s.fld .REC_JOB_GEN_GEN iod0 slot)) noStep c0 c1
  if r.2 then r.1.circuitBack slot cpos c0 c1 else r.1

/-- A fill source of this position (R411): REPLICA0, REPLICA1 or BUDDY, where it is named and neither lost nor caught (R418). -/
def fillSource (s : State) (which : Nat) : Option Nat :=
  match s.groupIdx s.myPos with
  | none => none
  | some i =>
    let pos := bits (s.fld .REC_SRC_POS iod0 0 i) (16 * which + 15) (16 * which)
    if pos = 0xFFFF || s.recPending.contains pos || s.recDetour.contains pos || s.lost.contains pos then none else some pos

/-- Asks the next usable source for the state of a slot (R418); where none is left, the recovery is a global rollback (R423). -/
def startFill (s : State) (slot start : Nat) : State :=
  match [0, 1, 2].find? (fun w => decide (start ≤ w) && (s.fillSource w).isSome) with
  | none =>
    let c := s.ownCands slot
    (s.setFill slot none).rollback slot s.myPos (nextGen s.myGen) c.1 c.2
  | some w =>
    let src := (s.fillSource w).getD 0
    let s := ((s.setFill slot (some ⟨w, src, s.fld .REC_JOB_GEN_GEN iod0 slot, [], [], 0, false⟩)).setFld .REC_STATUS_SOURCE iod0 0 0 w).setFld .REC_STATUS_FILLED iod0 0 0 0
    (s.recState 3).sendTo src 5 slot s.myGen (circuitBody 7 s.myPos 0 0 noStep 0 0)

/-- A RECOVER passes for a position from which this module fills a slot: the fill goes on from the next source (R423, third row). -/
def fillAgain (s : State) (slot cpos : Nat) : State :=
  match s.fillOf slot with
  | some f => if f.which ≠ 3 && f.source = cpos then s.startFill slot (f.which + 1) else s
  | none => s

/-- Starts the recovery of a caught position on each slot that had a pattern there (R416): the slots whose state list the catcher
holds. -/
def startCatch (s : State) : State :=
  let g := nextGen s.myGen
  let slots := (List.range 4).filter (fun x => s.fld .REC_STATE_BASE_CNT iod0 x != 0)
  slots.foldl (fun s slot =>
    let c := s.ownCands slot
    let r := s.launchCircuit slot originCatch s.myPos g (nextGen (s.fld .REC_JOB_GEN_GEN iod0 slot)) noStep c.1 c.2
    if r.2 then r.1.startFill slot 0 else r.1) s

/-- The RESUME of a position passes this module (R417). When no position is pending the slot is released: a vote that no module
resolved is discarded, and the slot's completion queue learns the positions. -/
def passResume (s : State) (slot cpos : Nat) : State :=
  let s := s.dropPos .REC_PENDING_POS 0 cpos
  if s.slotState slot = slotFree || s.slotState slot = slotDisabling then s
  else
    let seen := s.resumed.get [] (Key.at 0 slot)
    let seen := if seen.contains cpos then seen else seen ++ [cpos]
    let s := { s with resumed := s.resumed.set [] (Key.at 0 slot) seen }
    if s.recPending.any (· != 0xFFFF) then s
    else
      let s := s.dropVote slot
      let s := s.raise .EV_REC_RESUME iod0 0 (s.regWord .REC_PENDING iod0) (some slot)
      let s := s.notice slot 4 ((List.range 4).flatMap (fun i => leBytes 2 (seen.getD i 0xFFFF)) ++ leBytes 2 (s.fld .REC_JOB_GEN_GEN iod0 slot))
      let s := { s with resumed := s.resumed.set [] (Key.at 0 slot) [] }
      ((s.setRecovering slot false).setQuiet slot false).recState 0

/-- During a handback two modules hold the caught position (R425): a circuit message for the other one goes over the CATCH port that
joins them. -/
def sendTwin (s : State) (slot cpos : Nat) (body : List Byte) : State :=
  match s.catchPort cpos with
  | some p => s.sendPicotOn p (picotMsg 5 slot s.myPos cpos s.myGen 0 0 body)
  | none => s

/-- A position is served again: this module holds it, or a ring port hears its heartbeats (R366, R424). -/
def servedAt (s : State) (k : Nat) : Bool :=
  k = s.myPos || (List.range 8).any (fun p => roleDim (s.hlRole p) = 1 && s.inTraffic p && s.hl .HL_PEER_VALID p = 1 && s.hl .HL_PEER_POS p = k
    && decide (s.now < (s.port p).hbSeen + max (s.hl .HL_HB_LIMIT p) (2 * max (s.hl .HL_HB_PERIOD p) 1) * usTicks))

/-- A RESUME that is due leaves once the module is QUIET and has restored, and the position is caught (R417, R424). -/
def resumeSettle (s : State) (slot : Nat) : State :=
  let ready := !s.isRecovering slot || (s.isQuiet slot && (s.restoreOf slot).isNone)
  let cpos := match s.lost with
    | k :: _ => if s.flag .HLM_POS_CATCHER iod0 || (s.groupIdx s.myPos).isNone then k else s.myPos
    | [] => s.myPos
  if s.originOf slot = originDue && ready && s.servedAt cpos then
    let body := circuitBody 6 cpos s.myGen (s.fld .REC_JOB_GEN_GEN iod0 slot) 0 0 0
    let s := if s.handback.isSome then s.sendTwin slot cpos body else s
    let s := if s.votePathEmpty slot then (s.setOrigin slot 0).endLoss cpos else (s.setOrigin slot originCircling).sendPath slot body
    s.passResume slot cpos
  else s

/-- The newest complete mirror of a position's slot (R408). -/
def newestMirror (s : State) (pos slot : Nat) : Option Mirror :=
  s.mirrors.find? (fun m => m.pos == pos && m.slot == slot && m.complete)

/-- The header and region table of a mirror (R405, R419). -/
def mirrorHead (m : Mirror) : List Byte := m.bytes.slice (fillAt 0xFFFE 0) 0x80
def mirrorTable (m : Mirror) : List Byte := m.bytes.slice (fillAt 0xFFFE 0x80) 16384

/-- The committed state that a mirror holds. -/
def mirrorState (m : Mirror) : Committed :=
  let es := (piecesOf 16 1025 (mirrorTable m)).take (field (mirrorHead m) 0x12 2)
  ⟨es, m.bytes.slice (fillAt 0xFFFF 0) 16448, (es.zipIdx).map (fun e => storedWords m.bytes m.tags e.2 (entLen e.1 / 32))⟩

/-- The data flits that carry a mirror (R419): the header and table, the register image, and each region in two halves. -/
def mirrorFlits (m : Mirror) : Nat :=
  let es := (piecesOf 16 1025 (mirrorTable m)).take (field (mirrorHead m) 0x12 2)
  es.foldl (fun (a : Nat) e => let n := entLen e / 32; a + (n + 3) / 4) (129 + 129)

/-- The key under which a mirror can be read (R493, R494): FK as it is now. -/
def mirrorKeyOk (s : State) (m : Mirror) : Bool :=
  m.key.isEmpty || (match s.policy with | some q => q.fk == m.key | none => false)

/-- Sends the DIGESTs whose FILL frames have all left this module (R418). -/
def digestSettle (s : State) : State :=
  let waits (slot : Nat) : Bool :=
    let fill (f : LinkFrame) : Bool := f.kind == 2 && f.slot == slot && f.came.isNone
    s.held.any (fun h => fill h.frame) || (List.range 8).any (fun p => (s.port p).locals.any fill)
  let now := s.digests.filter (fun q => !waits q.1)
  now.foldl (fun s q => s.sendTo q.2.1 5 q.1 s.myGen q.2.2) { s with digests := s.digests.filter (fun q => waits q.1) }

/-- Sends a DIGEST behind the frames of its fill (R418). -/
def sendDigest (s : State) (slot dest cpos step : Nat) (root : List Byte) : State :=
  let body := leBytes 1 8 ++ leBytes 1 0 ++ leBytes 2 cpos ++ leBytes 4 0 ++ leBytes 4 step ++ leBytes 4 0 ++ root
  { s with digests := s.digests ++ [(slot, dest, body)] }.digestSettle

/-- Answers a FILL_REQ (R418): a complete mirror of the position is sent as a BUDDY's, else the committed state of this module. Where
there is nothing to send, the DIGEST says so with no step. -/
def answerFill (s : State) (q : FillReq) : State :=
  let digest (s : State) (step : Nat) (root : List Byte) : State :=
    s.sendDigest q.slot q.requester q.cpos step root
  match s.newestMirror q.cpos q.slot with
  | some m =>
    let c := mirrorState m
    if s.mirrorKeyOk m && imageRoot (mirrorHead m) c.shard == ((mirrorHead m).drop 0x20).take 32 then
      digest (s.sendState 2 q.slot q.requester m.step c) m.step c.shard
    else digest s noStep []
  | none =>
    match s.readCommitted q.slot with
    | (some c, s) =>
      let step := s.fld .NUM_STEP_STEP mh0 q.slot
      digest (s.sendState 2 q.slot q.requester step c) step c.shard
    | (none, s) => digest s noStep []

/-- Answers the waiting requests of a slot that is QUIET (R418). -/
def answerFills (s : State) (slot : Nat) : State :=
  let qs := s.fillReqs.filter (fun q => q.slot == slot)
  qs.foldl (fun s q => s.answerFill q) { s with fillReqs := s.fillReqs.filter (fun q => q.slot != slot) }

/-- Takes the oldest FILL or MIRROR frame (R355), which leaves its buffer. -/
def takeRecFrame (s : State) (kind : Nat) : Option (LinkFrame × State) :=
  match s.recIn.find? (fun f => f.kind == kind) with
  | none => none
  | some f => some (f, { s with recIn := s.recIn.erase f }.freeFrame f)

/-- Words of a fill, from a byte offset of a region, are stored and written at the same region of the own state list (R419). -/
def fillWords (s : State) (slot : Nat) (f : Fill) (region off : Nat) (ws : List Word) : State :=
  match s.stateList slot with
  | (none, s) => s.setFill slot (some { f with poison := true })
  | (some es, s) =>
    let len := if region = 0xFFFF then 16448 else match es[region]? with | some e => entLen e | none => 0
    let ws := ws.take ((len - off) / 32)
    let r := if region = 0xFFFF then (true, s) else storeRegion slot ws (entVa (es.getD region []) + off) s
    let count := f.count + 32 * ws.length
    let f := { f with
      bytes := f.bytes.splice (fillAt region off) (wordBytes ws)
      tags := f.tags.splice (fillAt region off / 32) (wordTags ws)
      count := count
      poison := f.poison || !r.1 || ws.any (fun w => tagPoison w.tag) }
    (r.2.setFill slot (some f)).setFld .REC_STATUS_FILLED iod0 0 0 (count / 65536)

/-- A FILL frame (R419): of the running fill's source, and of no instance before it, else it is discarded. A standing module takes the state of a
handback (R425). -/
def fillFrame (s : State) : State :=
  match s.takeRecFrame 2 with
  | none => s
  | some (f, s) =>
    let slot := f.slot
    let s := match s.fillOf slot with
      | none => if s.flag .HLM_POS_CATCHER iod0 then s.setFill slot (some ⟨3, f.src, s.fld .REC_JOB_GEN_GEN iod0 slot, [], [], 0, false⟩) else s
      | some _ => s
    match s.fillOf slot with
    | none => s
    | some x =>
      if x.source = f.src && x.inst ≤ bits f.flow 31 16 then
        s.fillWords slot x (bits f.flow 15 0) f.offset (frameWords f)
      else s

/-- FILL frames of a source for a slot wait in this module's ports or at the recovery path. -/
def fillWaits (s : State) (slot src : Nat) : Bool :=
  let mine (f : LinkFrame) : Bool := f.kind == 2 && f.slot == slot && f.src == src
  s.recIn.any mine || (List.range 8).any (fun p => (s.port p).frames.any mine)

/-- The state that a fill has received. -/
def fillState (s : State) (slot : Nat) (f : Fill) : Option Committed × State :=
  match s.stateList slot with
  | (none, s) => (none, s)
  | (some es, s) =>
    (some ⟨es, f.bytes.slice (fillAt 0xFFFF 0) 16448, (es.zipIdx).map (fun e => storedWords f.bytes f.tags e.2 (entLen e.1 / 32))⟩, s)

/-- A DIGEST for the running fill (R418, R420, R425): the fill is verified, or goes on with the next source. -/
def takeDigest (s : State) (slot : Nat) (f : Fill) (m : List Byte) : State :=
  let step := field m 0x18 4
  let r := s.fillState slot f
  let s := r.2
  let equal := match r.1 with
    | some c => !f.poison && c.shard == (m.drop 0x20).take 32
    | none => false
  if equal then
    let s := ((s.loadRegImage slot (f.bytes.slice (fillAt 0xFFFF 0) 16448)).clearTorn slot).setFill slot none
    if f.which = 3 then (s.setFld .HLM_POS_POS iod0 0 0 (field m 0x12 2)).setFld .HLM_POS_CATCHER iod0 0 0 0
    else if f.which = 2 then (s.recState 2).rollback slot s.myPos (nextGen s.myGen) step noStep
    else (s.recState 2).setOrigin slot originDue
  else
    let s := if step = noStep then s else s.raise .EV_REC_DIGEST iod0 0 (s.regWord .REC_STATUS iod0) (some slot)
    if f.which = 3 then s.setFill slot none else s.startFill slot (f.which + 1)

/-- The commit record of a mirror is written (R408): MIRROR is set in its header, whose image root follows, and MIRROR_DONE goes out. -/
def mirrorDone (s : State) (m : Mirror) : State :=
  let c := mirrorState m
  let h := mirrorHead m
  let h := patch h 0x11 (leBytes 1 (field h 0x11 1 ||| 2))
  let h := patch h 0x20 (imageRoot h c.shard)
  let key := if (field h 0x11 1).testBit 0 then (match s.policy with | some q => q.fk | none => []) else []
  let m := { m with bytes := m.bytes.splice (fillAt 0xFFFE 0) h, complete := true, key := key }
  let s := { s with mirrors := m :: s.mirrors.filter (fun x => !(x.pos == m.pos && x.slot == m.slot && x.place == m.place)) }
  s.sendTo m.pos 5 m.slot s.myGen (leBytes 1 9 ++ leBytes 1 0 ++ leBytes 2 m.pos ++ leBytes 4 0 ++ leBytes 4 m.step ++ leBytes 4 0 ++ c.shard)

/-- A MIRROR frame (R408, R419): it goes to the place of the buddy area that does not hold the newest complete mirror. -/
def mirrorFrame (s : State) : State :=
  match s.takeRecFrame 3 with
  | none => s
  | some (f, s) =>
    let step := field f.hdr 0x28 4
    let place := match s.newestMirror f.src f.slot with
      | some m => 1 - m.place
      | none => 0
    let m := (s.mirrors.find? (fun m => m.pos == f.src && m.slot == f.slot && m.step == step && !m.complete)).getD
      ⟨f.src, f.slot, place, step, [], [], 0, [], false⟩
    let ws := frameWords f
    let at_ := fillAt (bits f.flow 15 0) f.offset
    let m := { m with
      bytes := m.bytes.splice at_ (wordBytes ws)
      tags := m.tags.splice (at_ / 32) (wordTags ws)
      count := m.count + f.data.length }
    let s := { s with mirrors := s.mirrors.filter (fun x => !(x.pos == m.pos && x.slot == m.slot && x.place == m.place)) ++ [m] }
    let ready := field (mirrorHead m) 0 4 = 0x50414E53 && decide (mirrorFlits m ≤ m.count)
      && (!(field (mirrorHead m) 0x11 1).testBit 0 || (match s.policy with | some q => !q.fk.isEmpty | none => false))
    if ready then s.mirrorDone m else s

/-- The slots whose state a handback moves (R425). -/
def handbackSlots (s : State) : List Nat :=
  (List.range 4).filter (fun x => s.slotState x != slotFree && s.fld .REC_STATE_BASE_CNT iod0 x != 0)

/-- The running HANDBACK gives its final reply. -/
def handbackReply (s : State) (status : Nat) : State :=
  let runs := s.cmdRuns.filter (fun r => r.pkt.op == 0x0604)
  runs.foldl (fun s r => if status = stOk then s.reply r.pkt status [] else s.refuse r.pkt status)
    { s with cmdRuns := s.cmdRuns.filter (fun r => r.pkt.op != 0x0604), handback := none }

/-- A handback that a failure meets is abandoned, and the catcher keeps the position (R423). -/
def dropHandback (s : State) : State := (s.handbackSlots.foldl (fun s x => s.setPause x false) (s.recState 0)).handbackReply stRefused

/-- The RECOVER of another module passes for a position (R423): what this module had begun for that position is over, and a handback
that has not reached its circuit is abandoned. -/
def supersede (s : State) (slot cpos : Nat) : State :=
  let s := if s.lost.contains cpos then s.setOrigin slot 0 else s
  let s := { s with lost := s.lost.filter (· != cpos) }
  if s.handback.isSome && s.fld .REC_STATUS_STATE iod0 = 5 then s.dropHandback else s

/-- The former catcher is wiped and stands again (R425, R426). -/
def standAgain (s : State) (repl : Nat) : State :=
  let s := ((List.range 4).filter (fun x => s.slotState x != slotFree)).foldl (fun s x =>
    let r := s.disableSlot x
    { r.2 with cmdRuns := r.2.cmdRuns ++ [⟨⟨0x0102, 0, false, x, [], .nobody⟩, r.1⟩] }) s
  let c := s.fld .REC_CFG_CATCHER iod0
  let s := (s.setFld .HLM_POS_CATCHER iod0 0 0 1).setFld .HLM_POS_POS iod0 0 0 (if c = 0xFFFF then repl else c)
  let s := ((List.range 8).filter (fun p => roleDim (s.hlRole p) = 1)).foldl (fun s p => s.setEnRole p 1 3) s
  { s with flash := [], mirrors := [] }.recState 0

/-- The handback goes on (R425): the slots pause as for a snapshot, the state goes to the replacement, and once its port shows the
position a RECOVER circuit raises the generations; when the RESUME of every slot has returned the catcher stands again. -/
def handbackSettle (s : State) : State :=
  match s.handback with
  | none => s
  | some (c, r, sent) =>
    let port := (s.groupIdx c).getD 8
    if !sent then
      let slots := s.handbackSlots
      if slots.all (fun x => s.voteClosed x && (s.snap x).isNone) then
        let s := slots.foldl (fun s x => s.setPause x true) s
        if slots.all (fun x => s.slotIdle x) then
          let s := slots.foldl (fun s x =>
            match s.readCommitted x with
            | (none, s) => s
            | (some k, s) =>
              let step := s.fld .NUM_STEP_STEP mh0 x
              (s.sendState 2 x r step k).sendDigest x r c step k.shard) s
          { s with handback := some (c, r, true) }
        else s
      else s
    else if s.fld .REC_STATUS_STATE iod0 = 5 then
      if s.hl .HL_PEER_VALID port = 1 && s.hl .HL_PEER_POS port = c then
        let g := nextGen s.myGen
        let slots := s.handbackSlots
        slots.foldl (fun s x =>
          let step := s.fld .NUM_STEP_STEP mh0 x
          let j := nextGen (s.fld .REC_JOB_GEN_GEN iod0 x)
          let k := (s.sendTwin x c (circuitBody 5 c g j step noStep noStep)).launchCircuit x originHandback c g j step noStep noStep
          if k.2 then k.1.setOrigin x originDue else k.1) (slots.foldl (fun s x => s.setPause x false) (s.recState 2))
      else if s.inTraffic port then s
      else s.dropHandback
    else if (List.range 4).all (fun x => s.originOf x = 0) then (s.standAgain r).handbackReply stOk
    else s

/-- A standing catcher looks at its claims again, since its own ports may have shown a loss after them (R413). -/
def claimSettle (s : State) : State :=
  if s.flag .HLM_POS_CATCHER iod0 then (s.claims.map Claim.pos).eraseDups.foldl (fun s k => s.tryAccept k) s else s

/-- This module is the lowest-numbered surviving neighbour of a lost position, as far as positions show it (R424, log entry 148). -/
def startsRollback (s : State) (k : Nat) : Bool :=
  !s.recPending.contains s.myPos &&
    (s.myPos + 1 = k
     || (s.myPos = k + 1 && (k = 0 || s.recPending.contains (k - 1) || s.lost.contains (k - 1)))
     || (decide (k + 1 < s.myPos) && k ≠ 0 && (s.rolePorts 2).any (fun p => s.hl .HL_PEER_POS p = k)))

end State

/-- CLAIM (R412, R413): a claim reaches a catcher. -/
def execClaim (s : State) : Out :=
  .next (s.catchStep 1 (fun _ => true) (fun _ m s =>
    let k := field m 0x12 2
    ({ s with claims := s.claims ++ [(⟨k, msgSrc m, s.now⟩ : Claim)] } : State).tryAccept k))

/-- CLAIM_WINDOW_EXPIRY (R413, R424): claims older than CLAIM_WIN are discarded and counted. An own claim that no ACCEPT has answered
shows that the position cannot be caught, and the lowest-numbered surviving neighbour starts a global rollback. -/
def execClaimWindowExpiry (s : State) : Out :=
  .next (
    let dead := s.claims.filter (fun c => decide (c.since + s.claimWindow < s.now))
    let own := dead.filter (fun c => c.sender == s.myPos)
    let s := { s with claims := s.claims.filter (fun c => decide (s.now ≤ c.since + s.claimWindow)) }
    let s := s.incFld .REC_CNT_CLAIM_DROP_COUNT iod0 0 0 (dead.length - own.length)
    let gone : List Nat := (s.lost ++ own.map Claim.pos).eraseDups
    let s := { s with lost := gone }
    let idle := (List.range 4).all (fun x => s.originOf x = 0)
    let fresh := gone.filter (fun (k : Nat) => s.startsRollback k && (idle || !s.recPending.contains k))
    fresh.foldl (fun s k =>
      let g := nextGen s.myGen
      ((List.range 4).filter (fun x => s.slotState x != slotFree && s.fld .REC_STATE_BASE_CNT iod0 x != 0)).foldl (fun s x =>
        let c := s.ownCands x
        s.rollback x k g c.1 c.2) s) s)

/-- ACCEPT (R414): the neighbour sets its ring ports toward the position to IDLE and gives its CATCH port their role. -/
def execAccept (s : State) : Out :=
  .next (s.catchStep 2 (fun _ => true) (fun p m s =>
    let k := field m 0x12 2
    let ring := (List.range 8).filter (fun q => roleDim (s.hlRole q) = 1 && s.hl .HL_PEER_POS q = k && q != p)
    match ring with
    | [] => s
    | q :: _ =>
      let role := s.hlRole q
      let s := ring.foldl (fun s q => { (s.dropQueued q).setEnRole q (s.hl .HL_CTL_EN q) 0 with swung := s.swung ++ [(q, s.hlRole q)] }) s
      let s := { s with held := s.held.filter (fun h => h.role != role), claims := s.claims.filter (fun c => c.pos != k) }
      s.setEnRole p 1 role))

/-- DECLARE (R412, R413): evidence for a catcher; a ring neighbour takes it as the loss of the sender. -/
def execDeclare (s : State) : Out :=
  .next (s.catchStep 3 (fun _ => true) (fun p m s =>
    let k := msgSrc m
    if s.flag .HLM_POS_CATCHER iod0 then ({ s with claims := s.claims ++ [(⟨k, k, s.now⟩ : Claim)] } : State).tryAccept k
    else if roleDim (s.hlRole p) = 1 then s.lossDetected p
    else s))

/-- CATCH_FENCE (R413): the module aborts every slot and stops its ring ports. -/
def execCatchFence (s : State) : Out :=
  .next (s.catchStep 4 (fun _ => true) (fun _ _ s =>
    let s := ((List.range 4).filter (fun x => s.slotState x != slotFree && s.slotState x != slotDisabling)).foldl (fun s x => (s.abortSlot x).2) s
    ((List.range 8).filter (fun p => roleDim (s.hlRole p) != 0)).foldl (fun s p => s.setEnRole p 0 (s.hlRole p)) s))

/-- SWING_COMPLETE (R414, R416): both ports of the catcher carry bulk frames, and RECOVER goes out. -/
def execSwingComplete (s : State) : Out :=
  .next (
    let ports := s.rolePorts 1 ++ s.rolePorts 2
    if s.fld .REC_STATUS_STATE iod0 = 1 && !ports.isEmpty && ports.all (fun p => s.carriesBulk p) then (s.recState 2).startCatch
    else s)

/-- RECOVER (R416, R423, R424): one with lower generations is discarded. One of the own generations that has circled is back at its
sender; one of higher generations is another module's. The replacement of a
handback takes the one for its position without sending it on (R425). -/
def execRecover (s : State) : Out :=
  .next (s.catchStep 5 (fun _ => true) (fun _ m s =>
    let slot := msgSlot m
    let cpos := field m 0x12 2
    let rgen := field m 0x14 2
    let jgen := field m 0x16 2
    let target := field m 0x18 4
    let c0 := field m 0x1C 4
    let c1 := field m 0x20 4
    if rgen < s.myGen || jgen < s.fld .REC_JOB_GEN_GEN iod0 slot then s
    else if s.originOf slot != 0 && rgen = s.myGen && jgen = s.fld .REC_JOB_GEN_GEN iod0 slot && (cpos = s.myPos || s.lost.contains cpos) then
      if s.originOf slot = originCatch then s.startFill slot 0 else s.circuitBack slot cpos c0 c1
    else if cpos = s.myPos then
      if rgen = s.myGen && jgen = s.fld .REC_JOB_GEN_GEN iod0 slot then s.sendTwin slot cpos (circuitBody 5 cpos rgen jgen target c0 c1)
      else s.takeRecover slot cpos rgen jgen target c0 c1
    else
      let k0 := s.keepCand slot c0
      let k1 := s.keepCand slot c1
      let final := target != noStep
      let s := (s.supersede slot cpos).takeRecover slot cpos rgen jgen target c0 c1
      (s.sendPath slot (circuitBody 5 cpos rgen jgen target (if final then c0 else k0) (if final then c1 else k1))).fillAgain slot cpos))

/-- QUIET_REACHED (R416, R418): the slot is stopped, and no resolved update is still being applied. -/
def execQuietReached (slot : Fin 4) (s : State) : Out :=
  .next (
    if s.isRecovering slot && !s.isQuiet slot && (s.updatesOf slot).isEmpty then
      let s := s.setQuiet slot true
      (if s.fld .REC_STATUS_STATE iod0 = 0 then s.recState 2 else s).answerFills slot
    else s)

/-- FILL_REQ (R418): it waits until the module is QUIET. -/
def execFillReq (s : State) : Out :=
  .next (s.catchStep 7 (fun _ => true) (fun _ m s =>
    let slot := msgSlot m
    let s := { s with fillReqs := s.fillReqs ++ [⟨slot, msgSrc m, field m 0x12 2, field m 0x18 4⟩] }
    if s.isQuiet slot || !s.isRecovering slot then s.answerFills slot else s))

/-- FILL_FRAME (R419). -/
def execFillFrame (s : State) : Out := .next s.fillFrame

/-- DIGEST (R420): from the source of the running fill. It is looked at once no frame of its source waits in this module. -/
def execDigest (s : State) : Out :=
  .next (s.catchStep 8 (fun m => !s.fillWaits (msgSlot m) (msgSrc m)) (fun _ m s =>
    match s.fillOf (msgSlot m) with
    | none => s
    | some f => if f.source = msgSrc m then s.takeDigest (msgSlot m) f m else s))

/-- CATCH_RESUME (R417): it is forwarded only once the module is QUIET and has finished any restore. -/
def execCatchResume (s : State) : Out :=
  .next (s.catchStep 6
    (fun m => let slot := msgSlot m; !s.isRecovering slot || (s.isQuiet slot && (s.restoreOf slot).isNone))
    (fun _ m s =>
      let slot := msgSlot m
      let cpos := field m 0x12 2
      if s.originOf slot = originCircling && (cpos = s.myPos || s.lost.contains cpos) then ((s.setOrigin slot 0).recState 0).endLoss cpos
      else if cpos = s.myPos then
        if s.isRecovering slot then s.passResume slot cpos
        else s.sendTwin slot cpos (circuitBody 6 cpos (field m 0x14 2) (field m 0x16 2) (field m 0x18 4) 0 0)
      else
        let s := s.sendPath slot (circuitBody 6 cpos (field m 0x14 2) (field m 0x16 2) (field m 0x18 4) 0 0)
        s.passResume slot cpos))

/-- MIRROR_FRAME (R408). -/
def execMirrorFrame (s : State) : Out := .next s.mirrorFrame

/-- MIRROR_DONE (R408): SNAP_STATUS.MIRROR_STEP is set. -/
def execMirrorDone (s : State) : Out :=
  .next (s.catchStep 9 (fun _ => true) (fun _ m s => s.setFld .SNAP_STATUS_MIRROR_STEP iod0 (msgSlot m) 0 (field m 0x18 4)))

/-- RESTORE_COMPLETE (R409, R424): the restore of a QUIET slot ends; an image whose root or commit record fails is not used. -/
def execRestoreComplete (slot : Fin 4) (s : State) : Out :=
  .next (
    match s.restoreOf slot with
    | none => s
    | some t =>
      if !s.isQuiet slot then s
      else
        let r := s.restoreStep slot t
        if r.1 then (r.2.setRestore slot none).recState 2 else r.2.noCommon slot)

end Sys2Proof.Machine
end

