-- ==== Sys2Proof/Machine/Csr.lean ====
section
/-! DEFINITION. The CSR windows (R15 to R18, R34 to R36): which register an address names, what each register shows, who may read
and write it, and what a store does. The registers with rows of their own share their operations with those rows. -/

namespace Sys2Proof.Machine

/-- A register of the module: its name, die, unit and instance. -/
structure RegAt where
  reg : Reg
  d : Nat
  u : Nat
  i : Nat
  deriving DecidableEq, Repr

/-- Whether a die has a block (R34). -/
def DieSet.has : DieSet → Nat → Bool
  | .cd, d => d < 8
  | .mh, d => 0x10 ≤ d && d < 0x14
  | .iod, d => d == 0x20 || d == 0x21
  | .mh0, d => d == 0x10
  | .iod0, d => d == 0x20
  | .all, _ => true

/-- The unit and instance of a place at an offset of the window. -/
def Place.at? (p : Place) (off : Nat) : Option (Nat × Nat) :=
  if off < p.base then none
  else
    let cut (n step r : Nat) : Nat × Nat := if step = 0 then (0, r) else (min (r / step) (n - 1), r - min (r / step) (n - 1) * step)
    let x := cut p.nx p.sx (off - p.base)
    let y := cut p.ny p.sy x.2
    let k := cut p.ni p.si y.2
    if k.2 = 0 then some (x.1 * p.ny + y.1, k.1) else none

/-- The register at an offset of a die's window (R34). The power block and the record window of the recorder stand at the same
offsets; the power block's registers are the ones found there (log entry 80). -/
def locate (die off : Nat) : Option RegAt :=
  ((Reg.list.filter (fun r => r != .EVR_WIN)) ++ [Reg.EVR_WIN]).findSome? (fun r =>
    r.places.findSome? (fun p =>
      if p.dies.has die then (p.at? off).map (fun e => ⟨r, die, e.1, e.2⟩) else none))

/-- A bit set as a number. -/
def bitSet (n : Nat) (p : Nat → Bool) : Nat := ((List.range n).map (fun k => if p k then 2 ^ k else 0)).foldl (· + ·) 0

/-- A Boolean as a bit. -/
def bit (b : Bool) : Nat := if b then 1 else 0

namespace State

/-- USED of a quota of a slot (R258): 0 HBM, 1 tier 2, 2 stash, 3 spill, 4 hub cache. A MiB of the hub cache counts once it is
begun. -/
def quotaUsed (s : State) (slot q : Nat) : Nat :=
  let owned (tier : Nat) : Nat := (s.frames.filter (fun e => e.1.u == tier && decide (e.2.owner = .slot slot))).length
  match q with
  | 0 => owned 0
  | 1 => owned 1
  | 2 => (s.framesUsed slot 0 .stash).length
  | 3 => (s.framesUsed slot 1 .spill).length
  | _ => ((List.range 4).map (fun h => (s.hcHeld h slot + 4095) / 4096)).foldl max 0

/-- LIMIT field and register of a quota. -/
def quotaFld (q : Nat) : Fld :=
  [Fld.QTA_HBM_LIMIT, .QTA_T2_LIMIT, .QTA_STASH_LIMIT, .QTA_SPILL_LIMIT].getD q .QTA_HCACHE_LIMIT

def quotaReg (q : Nat) : Reg := [Reg.QTA_HBM, .QTA_T2, .QTA_STASH, .QTA_SPILL].getD q .QTA_HCACHE

/-- A quota register as it reads. -/
def quotaWord (s : State) (slot q : Nat) : Nat :=
  let limit := s.fld (quotaFld q) mh0 slot
  let used := s.quotaUsed slot q
  limit + used * 2 ^ 20 + bit (limit < used) * 2 ^ 40

/-- Sets a LIMIT (R259): falling below USED raises EV_QUOTA_OVERSUBSCRIBED. -/
def setQuota (s : State) (slot q limit : Nat) : State :=
  let s := s.setFld (quotaFld q) mh0 slot 0 limit
  if limit < s.quotaUsed slot q then s.raise .EV_QUOTA_OVERSUBSCRIBED mh0 slot (s.quotaWord slot q) (some slot) else s

/-- Time-to-empty of a channel (R310), in beats of its engine. -/
def timeToEmpty (s : State) (cd se ch : Nat) : Nat :=
  match s.stream cd se ch with
  | none => 0x7FFF
  | some r =>
    if dRate r.desc = 0 then 0x7FFF
    else
      let beats := (s.halves.get 0 (Key.at cd) - r.started) / 2
      let t : Int := ((r.w * dstSize r.desc / dRate r.desc : Nat) : Int) - beats
      ofSigned 16 (max (-32768) (min 32767 t))

/-- Register word of the tickets charged on a die (SEQ_TKT_USE). -/
def ticketWord (s : State) (cd : Nat) : Nat :=
  let us := (List.range 96).filter (fun u => (s.charged cd u).isSome)
  let use := (us.map unitCost).foldl (· + ·) 0
  let num (p : Nat → Bool) : Nat := (us.filter p).length
  use + num (fun u => u < 24) * 2 ^ 8 + num (fun u => 0x50 ≤ u && u < 0x58) * 2 ^ 13 + num (fun u => 0x58 ≤ u && u < 0x60) * 2 ^ 17

/-- The stash directory entry that an accessor sees through STASH_DIR_IDX (R206). -/
def stashSeen (s : State) (acc : Accessor) (cd : Nat) : Option StashEntry :=
  match s.stashEntry cd (s.fld .STASH_DIR_IDX_INDEX cd), s.authSlot acc with
  | some e, some x => if e.slot = x then some e else none
  | e, _ => e

def placeCode : StashPlace → Nat
  | .hbm => 1
  | .tier2 => 2
  | .dropped => 3
  | .writing => 4

/-- The part of a register that other state determines: it is added to the stored fields. -/
def regView (s : State) (acc : Accessor) (r : Reg) (d u i : Nat) : Nat :=
  match r with
  | .MOD_IDENT => if s.b0 then 0xB0 else 0xA1
  | .DIE_IDENT =>
    d + (if d < 8 then 0 else if d < 0x20 then 1 else 2) * 2 ^ 8 + (if s.b0 then 0xB0 else 0xA1) * 2 ^ 16
      + (if d < 8 then d / 2 else if d < 0x20 then d - 0x10 else 0xF) * 2 ^ 32
  | .DIE_STATUS => bit (s.locked d) * 2 ^ 2
  | .ARR_IDENT => u + (if u < 8 then 0 else 3) * 2 ^ 5
  | .ARR_STATUS => (s.array d u).queue.length * 2 ^ 2
  | .CAR_STATUS =>
    let occ (ring : Nat) : Nat := ((List.range 32).filter (fun k => (s.ringSlot d ring k).flit.isSome)).length
    let resv (ring : Nat) : Nat := ((List.range 32).filter (fun k => (s.ringSlot d ring k).reserved.isSome)).length
    occ 0 + occ 1 * 2 ^ 8 + ((List.range 64).filter (fun t => !s.tkFree d t)).length * 2 ^ 16 + (resv 0 + resv 1) * 2 ^ 24
  | .CAR_TKT => s.carTkt d i
  | .CAR_TKT_REG =>
    let us := s.tkUses d i
    let one (u : Option Use) : List Nat := (u.map Use.regs).getD []
    let regs := one (us.find? (fun u => !u.armed)) ++ one (us.find? (fun u => u.declared && u.armed))
    bitSet 52 (fun k => regs.contains k)
  | .FDR_STATUS =>
    let b := s.bobbin d u
    b.queue.length + (4 - b.order.length) * 2 ^ 4 + b.order.headD 0 * 2 ^ 7
  | .SEQ_STATUS =>
    bitSet 4 (fun c => s.ctxState d c = ctxReady) * 2 ^ 4 + bitSet 4 (fun c => s.ctxState d c = ctxFaulted) * 2 ^ 8
  | .SEQ_TKT_USE => s.ticketWord d
  | .SEQ_TKT_GRANT => s.ticketsHeld d i * 2 ^ 8
  | .STASH_STATUS => s.stashUsed d
  | .STASH_DIR_DATA0 =>
    match s.stashSeen acc d with
    | some e => e.key + e.slot * 2 ^ 32 + placeCode e.place * 2 ^ 34 + bit e.recomp * 2 ^ 37 + e.units.length * 2 ^ 40
    | none => 0
  | .STASH_DIR_DATA1 =>
    match s.stashSeen acc d with
    | some e => e.units.headD 0
    | none => 0
  | .CMT_GRP_DATA => s.groups.get 0 (Key.at u (s.fld .CMT_GRP_IDX_GROUP mh0 u) i)
  | .QTA_HBM => s.quotaWord u 0 - s.fld .QTA_HBM_LIMIT mh0 u
  | .QTA_T2 => s.quotaWord u 1 - s.fld .QTA_T2_LIMIT mh0 u
  | .QTA_STASH => s.quotaWord u 2 - s.fld .QTA_STASH_LIMIT mh0 u
  | .QTA_SPILL => s.quotaWord u 3 - s.fld .QTA_SPILL_LIMIT mh0 u
  | .QTA_HCACHE => s.quotaWord u 4 - s.fld .QTA_HCACHE_LIMIT mh0 u
  | .QTA_STASH_UNITS => (s.unitsHeld u false).length + s.unitsGranted u false * 2 ^ 24
  | .QTA_SPILL_UNITS => (s.unitsHeld u true).length + s.unitsGranted u true * 2 ^ 24
  | .MEM_FRAME_DATA => s.frameWord (s.fld .MEM_FRAME_IDX_TIER mh0) (s.fld .MEM_FRAME_IDX_FRAME mh0)
  | .SRAM_OWNER =>
    ((List.range 16).map (fun b =>
      let x := s.block d (16 * i + b)
      ((x.owner.map (fun o => o + 4)).getD 0 + bit (x.zeroing && x.moved) * 8) * 2 ^ (4 * b))).foldl (· + ·) 0
  | .HC_SLOT_LINES => s.hcHeld (d - 0x10) i
  | .ERR_STATUS =>
    let n := ((List.range 16).filter (fun k => s.flag .ERR_LOG_ADDR_VALID d u k)).length
    n + bit (n = 16) * 2 ^ 5
  | .SE_STATUS =>
    let held := s.charged d (unitSe u)
    (s.seUnit d u).queue.length + bitSet 4 (fun c => s.fld .SE_CH_STATUS_STATE d u c != 0) * 2 ^ 4
      + bitSet 4 (fun c => s.fld .SE_CH_STATUS_STATE d u c = 2) * 2 ^ 8 + bit held.isSome * 2 ^ 12 + held.getD 0 * 2 ^ 13
      + bit (s.seDrawing d u) * 2 ^ 15
  | .SE_POOL => s.poolWord d u
  | .SE_CH_TTE => s.timeToEmpty d u i
  | .RE_STATUS =>
    bitSet 4 (fun x => s.fld .RE_LIST_CTL_CNT d 0 x != 0) + bitSet 4 (fun x => s.fld .RE_LIST_CTL_STATE d 0 x = 2) * 2 ^ 4
      + ((List.range 4).map (fun x => (s.reColls (d - 0x20) x).length)).foldl (· + ·) 0 * 2 ^ 8
  | .RE_LIST_CTL =>
    let n := (s.reColls (d - 0x20) i).length
    n * 2 ^ 34 + bit (n != 0 && s.fld .RE_LIST_CTL_STATE d 0 i = 0) * 2 ^ 32
  | .RE_LAND_SLOTS => (s.fld .RE_LAND_SLOTS_SLOTS d 0 i - (s.reLanded (d - 0x20) i).length) * 2 ^ 20
  | .SNS_DATA => s.snsData (s.fld .SNS_IDX_INDEX iod0)
  | .FW_STATUS => s.fwStatus - s.regWord .FW_STATUS iod0
  | .FW_VER_A => if s.fwVerifies false then s.fwA.version + s.fwA.rollback * 2 ^ 32 else 0
  | .FW_VER_B => if s.fwVerifies true then s.fwB.version + s.fwB.rollback * 2 ^ 32 else 0
  | .ATT_MEAS => field (s.measure (i / 4)) (8 * (i % 4)) 8
  | .TS_STATUS => s.tsStatus - s.regWord .TS_STATUS iod0
  | .TS_LOG => s.tsLogWord i
  | .EVR_STATUS => s.staged.length * 2 ^ 3
  | .EVR_WIN => s.evrWinWord i
  | .PWR_CAP => s.pwrCap
  | _ => 0

/-- What a register shows (R16, R17): its stored fields, but for the write-only ones, and what other state determines. -/
def regShown (s : State) (acc : Accessor) (r : Reg) (d u i : Nat) : Nat :=
  match r with
  | .EVR_RATE_DATA =>
    let code := s.fld .EVR_RATE_IDX_CODE iod0
    if evKnown code then s.regWord r iod0 0 code else 0
  | .CAR_TKT | .CAR_TKT_REG | .SE_CH_TTE | .MEM_FRAME_DATA | .PWR_CAP | .SNS_DATA | .EVR_WIN | .CMT_GRP_DATA => s.regView acc r d u i
  | _ =>
    r.fields.foldl (fun x f => if f.acc = .wo then x else x + s.fld f.fld d u i * 2 ^ f.lo) 0 + s.regView acc r d u i

/-- The registers of a slot's own set, which only the supervisor and the slot's host may read (R224, R246, R285). -/
def regOfSlot : Reg → Bool
  | .NUM_CEN_BASE | .NUM_CEN_CFG | .NUM_STEP | .NUM_LSCALE | .NUM_OVF | .NUM_CNT_LATE | .NUM_CNT_HALVE | .NUM_CNT_DISCARD
  | .CMT_CFG | .CMT_STATUS | .CMT_LAST | .CMT_GRP_IDX | .CMT_GRP_DATA | .CMT_CNT_COMMIT | .CMT_CNT_SKIP | .CMT_CNT_DISCARD
  | .QTA_HBM | .QTA_T2 | .QTA_STASH | .QTA_SPILL | .QTA_HCACHE | .QTA_STASH_UNITS | .QTA_SPILL_UNITS
  | .FLIP_CTL | .FLIP_DATA | .FLIP_SIDE => true
  | _ => false

/-- The authority to read a register (R35, R437, and the rule of each block). -/
def mayRead (s : State) (acc : Accessor) (r : Reg) (u : Nat) : Bool := !regOfSlot r || isSup acc || s.hostAuth acc u

/-- The authority to write a register (R437, R454, and the rule of each block). -/
def mayWrite (s : State) (acc : Accessor) (r : Reg) (d u i : Nat) : Bool :=
  match r with
  | .CORE_AUTH =>
    match acc with
    | .core h machine => machine && d == iodDie (h.val / 16) && i == h.val % 16
    | .supervisor => false
  | .SUP_CORE_MARK => isMachine acc
  | .STASH_DIR_IDX | .STASH_PURGE => isSup acc || (s.authSlot acc).isSome
  | .FLIP_CTL | .FLIP_DATA | .FLIP_SIDE | .XLT_INVAL | .SLQ_DB | .SLQ_ABORT | .SLQ_EVENTS | .SLQ_CPL_CTL
  | .TS_REL_OFF | .TS_REL_LEN | .TS_REL_DST | .TS_REL_CTL => isSup acc || s.hostAuth acc u
  | .SE_CH_CTL => s.chWriter acc d u i
  | .RE_SR_SEED => s.seedAllowed acc (d - 0x20)
  | _ => isSup acc

/-- A store by the access codes of R16 alone. A supervisor's write of MOD_IDENT.SKU while IOD0 is unlocked takes effect even where the
module record failed, which R9 does not treat (DESIGN CHOICE, log entry 139). -/
def plainStore (s : State) (r : Reg) (d u i v : Nat) : State :=
  r.fields.foldl (fun s f =>
    let x := bits v (f.lo + f.width - 1) f.lo
    match f.acc with
    | .rw => s.setFld f.fld d u i x
    | .rwl => if s.locked d then s else s.setFld f.fld d u i x
    | .w1c => let old := s.fld f.fld d u i; s.setFld f.fld d u i (old - (old &&& x))
    | .ro => s
    | .wo => s) s

/-- A census stream of a slot runs (R224). -/
def censusRuns (s : State) (slot : Nat) : Bool :=
  (List.range 8).any (fun cd => (s.dieStreams cd).any (fun x => x.2.2.cmd.slot = slot && dCen x.2.2.desc))

/-- A snapshot, a fill or a handback of a slot runs (R429). -/
def stateHeld (s : State) (slot : Nat) : Bool :=
  (s.snap slot).isSome || (s.fillOf slot).isSome || (s.handback.isSome && s.handbackSlots.contains slot)

/-- SLQ_DB (R445): a doorbell below SIZE is the new tail. -/
def writeDb (s : State) (slot v : Nat) : State :=
  let tail := bits v 7 0
  if s.fld .SLQ_CMD_CTL_SIZE iod0 slot ≤ tail then s.setFld .SLQ_EVENTS_BAD_DB iod0 slot 0 1
  else s.setFld .SLQ_CMD_CTL_TAIL iod0 slot 0 tail

/-- NUM_LSCALE (R220): an E below E_MIN is used as E_MIN. -/
def writeLscale (s : State) (slot v : Nat) : State :=
  let s := s.plainStore .NUM_LSCALE mh0 slot 0 v
  if s.lscale slot < s.lscaleMin slot then s.setLscale slot (s.lscaleMin slot) else s

/-- The whole effect of a store that has its authority (R16 and the register's own rules); `none` where the register refuses it
with a bus error. -/
def regStore (s : State) (acc : Accessor) (r : Reg) (d u i v : Nat) : Option State :=
  let w := BitVec.ofNat 64 v
  match r with
  | .DIE_BOOT_LOCK => some (if v.testBit 0 then s.setFld .DIE_BOOT_LOCK_LOCK d 0 0 1 else s)
  | .ARR_CTL => some (s.writeArrCtl d u w)
  | .ARR_FAULT => some (s.clearArrFault d u v)
  | .ARR_LS_SEED => some (s.writeLsSeed d u w)
  | .ARR_ACB_RGN_BASE => if s.rgnNamed d u i || !rgnBaseOk w then none else some (s.writeRgnBase d u i w none)
  | .ARR_ACB_RGN_WGM => if s.rgnNamed d u i || !wgmOk w then none else some (s.writeWgm d u i w)
  | .CAR_FAULT => some (s.clearCarFault d v)
  | .FDR_FAULT => some (s.clearFdrFault d u v)
  | .STASH_PURGE =>
    some (((List.range 4).filter (fun x => v.testBit x && (isSup acc || s.hostAuth acc x))).foldl (fun s x => s.purgeStash d x) s)
  | .VE_SR_SEED => some ((s.setFld .VE_SR_SEED_SEED d u 0 v).setVe d u { s.ve d u with gen := seedOf v })
  | .SE_SR_SEED => some (s.writeSeSeed d u w)
  | .RE_SR_SEED => some (s.writeReSeed (d - 0x20) w)
  | .NUM_CEN_BASE | .NUM_CEN_CFG => if s.censusRuns u then none else some (s.plainStore r d u i v)
  | .NUM_STEP => some (s.setStep u (bits v 31 0))
  | .NUM_LSCALE => some (s.writeLscale u v)
  | .CMT_CFG => if (s.vote u).isSome then none else some (s.plainStore r d u i v)
  | .CMT_GRP_DATA =>
    some { s with groups := s.groups.set 0 (Key.at u (s.fld .CMT_GRP_IDX_GROUP mh0 u) i) (v &&& grpMask i) }
  | .UE_SEG_BASE | .UE_SEG_CNT => if (s.vote i).isSome || !(s.updatesOf i).isEmpty then none else some (s.plainStore r d u i v)
  | .UE_STATUS =>
    let s := s.plainStore r d u i v
    some (if v.testBit 3 then { s with torn := s.torn.clear (fun k => k.d == d && k.u == u) } else s)
  | .QTA_HBM => some (s.setQuota u 0 (bits v 19 0))
  | .QTA_T2 => some (s.setQuota u 1 (bits v 19 0))
  | .QTA_STASH => some (s.setQuota u 2 (bits v 19 0))
  | .QTA_SPILL => some (s.setQuota u 3 (bits v 19 0))
  | .QTA_HCACHE => some (s.setQuota u 4 (bits v 19 0))
  | .MEM_FRAME_DATA => s.writeFrameData v
  | .SRAM_CLASS => s.writeSramClass d i v
  | .ERR_RAW_CMD =>
    let s := s.plainStore r d u i v
    some (if v % 4 = 1 then s.rawAccess d u false else if v % 4 = 2 then s.rawAccess d u true else s)
  | .SE_CH_CTL => some (if v.testBit 0 then s.chControl d u i true else if v.testBit 1 then s.chControl d u i false else s)
  | .XLT_INVAL => if s.flag .XLT_INVAL_BUSY iod0 u then none else some (s.setFld .XLT_INVAL_BUSY iod0 u 0 1)
  | .MESH_PEAK => some (if v.testBit 63 then s.setFld .MESH_PEAK_PEAK d 0 0 0 else s)
  | .CLK_STEP => some (s.writeClkStep d v)
  | .HL_CTL => some (s.writeHlCtl (4 * (d - 0x20) + u) w)
  | .HLM_POS => some ((s.plainStore r d u i v).evalAll.pump)
  | .HLM_ALIVE => some (if v.testBit 0 && !s.unfit then { s with aliveAt := s.now, hbAllowed := true } else s)
  | .RE_LIST_CTL => s.writeListCtl (d - 0x20) i v
  | .RE_LIST_BASE | .RE_LAND_BASE | .RE_LAND_SLOTS =>
    if (s.reColls (d - 0x20) i).isEmpty then some (s.plainStore r d u i v) else none
  | .REC_STATE_BASE | .SNAP_SLOT => if s.stateHeld u then none else some (s.plainStore r d u i v)
  | .SNAP_SHADOW => if (List.range 4).any s.stateHeld then none else some (s.plainStore r d u i v)
  | .SLQ_DB => some (s.writeDb u v)
  | .SLQ_CPL_CTL =>
    let s := if isSup acc then s.plainStore r d u i v else s.setFld .SLQ_CPL_CTL_HEAD iod0 u 0 (bits v 23 16)
    some (s.drainNotices u 512)
  | .SLQ_ABORT =>
    if i < 7 then some (s.setFld .SLQ_ABORT_WORD iod0 u i v)
    else if (s.windows.get none (Key.at 0 u)).isSome then none
    else
      let s := s.setFld .SLQ_ABORT_WORD iod0 u 7 v
      let cmd := (List.range 8).flatMap (fun k => leBytes 8 (s.fld .SLQ_ABORT_WORD iod0 u k))
      some { s with windows := s.windows.set none (Key.at 0 u) (some cmd) }
  | .SUP_WDOG =>
    let s := s.plainStore r d u i v
    some (if v.testBit 16 then { s with wdogAt := s.now, wdogNmi := false } else s)
  | .SUP_CORE_MARK => some (if v.testBit 0 then { s with coreMark := true }.svcSettle else s)
  | .SNS_FAULT => some (s.clearSnsFault v)
  | .FW_CTL => some (s.writeFwCtl v)
  | .ATT_CTL =>
    let s := s.plainStore r d u i v
    some (if v.testBit 0 then s.startQuote else s)
  | .POL_CTL => some (s.writePolCtl v)
  | .TS_LOG_ACK => some (s.ackLog (bits v 31 0))
  | .TS_WIN_BASE | .TS_WIN_LEN => if s.flagBit .TS_STATUS_ARMED iod0 0 0 u then none else some (s.plainStore r d u i v)
  | .TS_REL_CTL => some (if v.testBit 0 then s.release_ u else s)
  | .EVR_CTL =>
    let s := if v.testBit 0 then s.clearLog else s
    some (if v.testBit 1 then s.startFlush else s)
  | .EVR_RATE_DATA =>
    let code := s.fld .EVR_RATE_IDX_CODE iod0
    some (if evKnown code then (s.bucketSettle code).plainStore r iod0 0 code v else s)
  | .PWR_MODULE => some (if v.testBit 63 then s.setFld .PWR_MODULE_PEAK iod0 0 0 0 else s)
  | .THM_CTL =>
    let throttle := bits v 7 0
    if throttle < 80 || 100 < throttle || throttle ≤ bits v 15 8 then none else some (s.plainStore r d u i v)
  | _ => some (s.plainStore r d u i v)

/-- The die and offset of a CSR address (R33); `none` outside the windows. -/
def csrPlace (a : Nat) : Option (Nat × Nat) :=
  if a < csrBase then none
  else
    let die := (a - csrBase) / 0x1000000
    if isDie die then some (die, (a - csrBase) % 0x1000000) else none

/-- A register that a die out of service still answers (R36). -/
def answersOut (r : Option RegAt) : Bool :=
  match r with
  | some x => x.reg = .DIE_IDENT || x.reg = .DIE_STATUS
  | none => false

/-- A read of a register by address (R15 to R18, R36); `none` is a bus error. -/
def csrRead (s : State) (acc : Accessor) (a : Nat) : Option Nat :=
  if a % 8 != 0 then none
  else match csrPlace a with
    | none => none
    | some (die, off) =>
      let r := locate die off
      if !s.dieUp die && !answersOut r then none
      else match r with
        | none => some 0
        | some x => if s.mayRead acc x.reg x.u then some (s.regShown acc x.reg x.d x.u x.i % 2 ^ 64) else none

/-- A write of a register by address (R15 to R18, R36); `none` is a bus error. -/
def csrWrite (s : State) (acc : Accessor) (a v : Nat) : Option State :=
  if a % 8 != 0 then none
  else match csrPlace a with
    | none => none
    | some (die, off) =>
      let r := locate die off
      if !s.dieUp die then (if answersOut r then some s else none)
      else match r with
        | none => some s
        | some x =>
          if s.mayWrite acc x.reg x.d x.u x.i then s.regStore acc x.reg x.d x.u x.i v
          else none

/-- The request of a register access crosses the mesh of a compute die in service (R322, R323). -/
def csrEnter (s : State) (a : Nat) : State :=
  match csrPlace a with
  | some (die, _) => if die < 8 && s.dieUp die then s.meshSend die .csrRequest (.edge 0) .csr else s
  | none => s

/-- The response of a register access crosses the mesh. -/
def csrLeave (s : State) (a : Nat) : State :=
  match csrPlace a with
  | some (die, _) => if die < 8 && s.dieUp die then s.meshSend die .csrResponse .csr (.edge 0) else s
  | none => s

/-- A register read by address, as the requester is answered. -/
def csrLoad (s : State) (acc : Accessor) (a : Nat) : State :=
  let s := s.csrEnter a
  match s.csrRead acc a with
  | some v => { s.csrLeave a with resp := .reg (BitVec.ofNat 64 v) }
  | none => { s.csrLeave a with resp := .busError }

/-- A register write by address, as the requester is answered. -/
def csrStore (s : State) (acc : Accessor) (a v : Nat) : State :=
  let s := s.csrEnter a
  match s.csrWrite acc a v with
  | some t => { t.csrLeave a with resp := .written }
  | none => { s.csrLeave a with resp := .busError }

end State

/-- CSR_REGISTER_WRITE (R15 to R18): a 64-bit write of a register by its address. -/
def execCsrRegisterWrite (acc : Accessor) (addr : Nat) (v : Word64) (s : State) : Out :=
  .next (if 2 ^ 52 ≤ addr then { s with resp := .busError } else s.csrStore acc addr v.toNat)

/-- DIE_BOOT_LOCK_WRITE (R35): LOCK is set once, and stays until the next module reset. -/
def execDieBootLockWrite (acc : Accessor) (die : Fin 14) (v : Word64) (s : State) : Out :=
  .next (s.regWrite (dieOf die) (isSup acc) fun s => s.regStore acc .DIE_BOOT_LOCK (dieOf die) 0 0 v.toNat)

end Sys2Proof.Machine
end

