-- ==== Sys2Proof/Machine/Packets.lean ====
section
/-! DEFINITION. Command packets (R430 to R447): how each arrival delivers one, the checks of R432 up to the opcode's own conditions, and
the replies. -/

namespace Sys2Proof.Machine

/-- The opcodes (R438). -/
def opcodes : List Nat :=
  [0x0101, 0x0102, 0x0103, 0x0201, 0x0202, 0x0203, 0x0204, 0x0301, 0x0302, 0x0303, 0x0304, 0x0305, 0x0401, 0x0402, 0x0403, 0x0404, 0x0405]
  ++ [0x0501, 0x0502, 0x0503, 0x0601, 0x0602, 0x0603, 0x0604, 0x0605, 0x0606, 0x0701, 0x0702, 0x0703, 0x0801, 0x0802, 0x0803]
  ++ [0x0F01, 0x0F02, 0x0F03]

/-- The opcodes that a HOST arrival may issue (R438). -/
def hostOps : List Nat :=
  [0x0102, 0x0103, 0x0201, 0x0202, 0x0203, 0x0204, 0x0301, 0x0302, 0x0304, 0x0305, 0x0401, 0x0402, 0x0403, 0x0404, 0x0405]
  ++ [0x0501, 0x0503, 0x0606, 0x0F01, 0x0F02, 0x0F03]

/-- An abort (R446). -/
def opAbort (op : Nat) : Bool := 0x0F00 ≤ op

/-- The PARAM fields of an opcode (R440): offset and size. -/
def paramFields (op : Nat) : List (Nat × Nat) :=
  if op = 0x0101 then [(0, 1), (8, 8), (0x10, 2), (0x18, 8), (0x20, 2)]
  else if op = 0x0201 then [(0, 8), (8, 4), (0xC, 1)]
  else if op = 0x0202 || op = 0x0305 then [(0, 1)]
  else if op = 0x0203 then [(0, 1), (8, 8), (0x10, 16)]
  else if op = 0x0204 || op = 0x0602 || op = 0x0801 || op = 0x0F01 || op = 0x0403 then [(0, 2)]
  else if op = 0x0301 || op = 0x0302 then [(0, 5), (8, 8)]
  else if op = 0x0303 then [(0, 1), (8, 4)]
  else if op = 0x0304 || op = 0x0502 then [(0, 2), (8, 8)]
  else if op = 0x0401 then [(0, 1), (2, 10)]
  else if op = 0x0402 then [(0, 1), (8, 40)]
  else if op = 0x0601 then [(0, 5)]
  else if op = 0x0603 then [(0, 1), (8, 8)]
  else if op = 0x0604 then [(0, 4)]
  else if op = 0x0605 || op = 0x0703 || op = 0x0803 || op = 0x0F03 then [(0, 2)]
  else if op = 0x0701 then [(0, 8)]
  else if op = 0x0702 then [(0, 16)]
  else if op = 0x0802 then [(0, 3)]
  else []

/-- A field of PARAM. -/
def Packet.fld (p : Packet) (off n : Nat) : Nat := field p.param off n

/-- Every PARAM byte that the opcode does not list is zero (R440). -/
def Packet.paramClean (p : Packet) : Bool :=
  (p.param.zipIdx).all (fun b => b.1 == 0 || (paramFields p.op).any (fun f => f.1 ≤ b.2 && b.2 < f.1 + f.2))

/-- Slot registers of SLOT_REG_WRITE (R439) by REG_ID: how many instances INDEX selects among. -/
def slotRegCount (id : Nat) : Nat :=
  if id = 7 || id = 8 then 8 else if 9 ≤ id && id ≤ 0xC then 2 else if 1 ≤ id && id ≤ 0xE then 1 else 0

/-- The words that GROUP_WRITE writes (R440): word number and PARAM offset. -/
def groupWords : List (Nat × Nat) := [(0, 8), (1, 0x10), (2, 0x18), (3, 0x20), (6, 0x28)]

/-- The parameters are in the ranges of R440. -/
def Packet.inRange (p : Packet) : Bool :=
  let op := p.op
  if op = 0x0101 then
    p.fld 0 1 < 2 && 2 ≤ p.fld 0x10 2 && p.fld 0x10 2 ≤ 256 && 2 ≤ p.fld 0x20 2 && p.fld 0x20 2 ≤ 256
      && p.fld 8 8 % 64 = 0 && p.fld 8 8 < 2 ^ 52 && p.fld 0x18 8 % 32 = 0 && p.fld 0x18 8 < 2 ^ 52
  else if op = 0x0201 then p.fld 0xC 1 < 2 && (p.fld 0xC 1 = 1 || p.fld 0 8 < 2 ^ 48)
  else if op = 0x0203 then p.fld 0 1 != 0
  else if op = 0x0204 then p.fld 0 1 < 8 && p.fld 1 1 < 4
  else if op = 0x0301 then
    p.fld 0 1 < 3 && p.fld 1 1 < 4 && p.fld 2 1 < 2 && p.fld 3 1 < 2
      && (if p.fld 0 1 = 2 then p.fld 4 1 < 8 && p.fld 1 1 = 0 && p.fld 3 1 = 0 else p.fld 4 1 = 0)
  else if op = 0x0302 then
    p.fld 0 1 < 3 && p.fld 1 3 = 0 && (if p.fld 0 1 = 2 then p.fld 4 1 < 8 else p.fld 4 1 = 0)
  else if op = 0x0303 then p.fld 0 1 < 5 && p.fld 8 4 < 2 ^ 20
  else if op = 0x0304 then p.fld 1 1 < slotRegCount (p.fld 0 1)
  else if op = 0x0401 then 1 ≤ p.fld 2 2 && p.fld 2 2 ≤ 256
  else if op = 0x0402 then groupWords.all (fun w => p.fld w.2 8 &&& grpMask w.1 == p.fld w.2 8)
  else if op = 0x0403 then p.fld 0 1 = 0 || (p.fld 0 1 = 1 && decide ((-126 : Int) ≤ s8 (p.fld 1 1)))
  else if op = 0x0502 then p.fld 0 1 < 3 && p.fld 1 1 < (if p.fld 0 1 = 2 then 4 else 1)
  else if op = 0x0601 then p.fld 4 1 < 8
  else if op = 0x0602 then p.fld 0 1 < 8 && p.fld 1 1 < 8
  else if op = 0x0603 then p.fld 0 1 < 6
  else if op = 0x0703 || op = 0x0803 then p.fld 0 2 < 2 ^ 12
  else if op = 0x0801 then p.fld 1 1 ≤ 128
  else if op = 0x0802 then p.fld 0 2 < 2 ^ 12 && p.fld 2 1 < 8
  else if op = 0x0F01 then p.fld 0 1 < 8 && p.fld 1 1 < 0x60
  else true

/-- The commands that a slot state accepts (R443). -/
def stateAccepts (st op : Nat) : Bool :=
  if st = slotFree then op = 0x0101 || op = 0x0103
  else if st = slotReady then op != 0x0101
  else if st = slotRunning then !([0x0101, 0x0201, 0x0202, 0x0203] : List Nat).contains op
  else if st = slotAborting then ([0x0103, 0x0405, 0x0606, 0x0102, 0x0F01, 0x0F02, 0x0F03] : List Nat).contains op
  else op = 0x0103

/-- What an arrival holds for a command row: nothing for it, with the state that results, or a packet. `clean` says that the reserved
bits outside PARAM are zero, and `genOk` that a PEER message has the module's generation (R435). -/
inductive Intake where
  | idle (s : State)
  | cmd (p : Packet) (clean genOk : Bool) (s : State)

/-- What a command's own conditions and action come to: a refusal, an end with its INFO, or a run that replies later. The state of a
refusal differs from the one before in what the reads of the command have counted alone. -/
inductive Did where
  | refused (s : State) (status : Nat)
  | ok (s : State) (info : List Byte)
  | runs (s : State) (waits : List (Nat × Nat × Nat))

/-- The reserved bits of a packet outside PARAM are zero (R430). -/
def headClean (bs : List Byte) : Bool := field bs 4 1 < 2 && field bs 5 1 / 4 % 32 = 0 && field bs 6 2 = 0

namespace State

/-- The queue engine passes the entries that an abort has answered. -/
def passSkipped (slot : Nat) : Nat → State → State
  | 0, s => s
  | fuel + 1, s =>
    if s.queueLeft slot = 0 || !s.headSkipped slot then s
    else passSkipped slot fuel ((s.takeEntry slot).2.unskip slot (s.fld .SLQ_CMD_CTL_HEAD iod0 slot))

/-- The previous command of a slot's queue has not yet given the reply that lets the next one be taken (R445). -/
def engineBusy (s : State) (slot : Nat) : Bool := s.cmdRuns.any (fun r => r.pkt.replyTo == .host slot true && !r.pkt.early)

/-- Whether the completion queue has room for `n` replies more (R445). -/
def cplSpace (s : State) (slot n : Nat) : Bool :=
  s.cplUsed slot + s.cplOwed.get 0 (Key.at 0 slot) + n < s.fld .SLQ_CPL_CTL_SIZE iod0 slot

/-- A row takes a packet of its own opcode, or one whose opcode no row has. -/
def rowTakes (op : Nat) (p : Packet) : Bool := p.op = op || !opcodes.contains p.op

/-- A management datagram (R433, R434). -/
def mgmtIntake (s : State) (op src : Nat) (bs : List Byte) : Intake :=
  if !s.mgmtUp then .idle s
  else if bs.length ≠ 64 then .idle (s.incFld .CMD_CNT_DROP_COUNT iod0 0 0)
  else
    let p := packetOf bs (.mgmt src)
    match s.keptReplies.find? (fun k => k.src == src && k.tag == p.tag && decide (s.now ≤ k.sent + secTicks)) with
    | some k => .idle ({ s with out := .mgmt src k.reply :: s.out }.incFld .CMD_CNT_DUP_COUNT iod0 0 0)
    | none => if rowTakes op p then .cmd p (headClean bs) true s else .idle s

/-- The next entry of a slot's command queue (R445). -/
def hostIntake (s : State) (op slot : Nat) : Intake :=
  let s := passSkipped slot 256 s
  let r := s.takeEntry slot
  let p := packetOf r.1 (.host slot true)
  let n := if p.early then 2 else 1
  if s.queueLeft slot = 0 || s.engineBusy slot || !s.cplSpace slot n || !rowTakes op p then .idle s
  else .cmd p (headClean r.1) true { r.2 with cplOwed := r.2.cplOwed.modify 0 (Key.at 0 slot) (· + n) }

/-- The abort in a slot's abort window (R446). -/
def windowIntake (s : State) (op slot : Nat) : Intake :=
  match s.windows.get none (Key.at 0 slot) with
  | none => .idle s
  | some bs =>
    let p := packetOf bs (.host slot false)
    if rowTakes op p then .cmd p (headClean bs) true { s with windows := s.windows.set none (Key.at 0 slot) none } else .idle s

/-- The oldest PEER_CMD message that is no reply (R435). -/
def peerIntake (s : State) (op : Nat) : Intake :=
  match s.takeMsg (fun m => msgKind m = 7 && !(field m 0x14 1).testBit 0) with
  | none => .idle s
  | some (_, m, t) =>
    let p : Packet := ⟨field m 0x10 2, field m 0x12 2, false, field m 0x15 1, padTo 56 ((m.drop 0x18).take 40), .peer (msgSrc m)⟩
    if rowTakes op p then .cmd p (field m 0x14 1 = 0 && field m 0x15 1 / 4 % 32 = 0) (msgGen m == s.myGen) t else .idle s

/-- What an arrival holds for the row of an opcode (R433). -/
def intake (s : State) (op : Nat) : Arrival → Intake
  | .mgmt src bs => s.mgmtIntake op src bs
  | .host slot => s.hostIntake op slot
  | .window slot => s.windowIntake op slot
  | .peer => s.peerIntake op

/-- The arrival may issue the command, and the slot that it names is its own (R432, R433, R438, R439, R440, R446). -/
def authorized (s : State) (p : Packet) : Bool :=
  match p.replyTo with
  | .host x kept =>
    hostOps.contains p.op && opAbort p.op != kept && (!p.namesSlot || p.slot = x)
      && !(p.op = 0x0201 && p.fld 0xC 1 % 2 = 1) && !(p.op = 0x0304 && p.fld 0 1 = 0x0D)
  | .peer pos =>
    !p.namesSlot && (p.op = 0x0606 || (p.op = 0x0602 && p.fld 0 1 < 8 && s.hl .HL_PEER_VALID (p.fld 0 1) = 1
      && s.hl .HL_PEER_POS (p.fld 0 1) = pos))
  | _ => true

/-- The slot whose state must accept a command (R443); RING_STATUS of a host counts for the host's slot. -/
def stateSlot (p : Packet) : Option Nat :=
  if opOfSlot p.op then some p.slot
  else match p.replyTo with
    | .host x _ => some x
    | _ => none

/-- A command of the same kind runs (R441): for the slot, or for the module. -/
def sameRuns (s : State) (p : Packet) : Bool :=
  !opAbort p.op && s.cmdRuns.any (fun r => r.pkt.op == p.op && (!opOfSlot p.op || r.pkt.slot == p.slot))

/-- Without firmware the boot ROM answers CSR_READ of MOD_IDENT and FW_STATUS alone (R468). -/
def romAnswers (p : Packet) : Bool :=
  p.op = 0x0701 && (match csrPlace (p.fld 0 8) with
    | some (d, off) => (match locate d off with
      | some r => r.reg = .MOD_IDENT || r.reg = .FW_STATUS
      | none => false)
    | none => false)

/-- The checks of R432 before the opcode's own conditions, then R443: the status of the first that fails. -/
def checkCmd (s : State) (p : Packet) (clean genOk : Bool) : Option Nat :=
  if !s.fwRuns && !romAnswers p then some stServiceLevel
  else if !genOk then some stGen
  else if !opcodes.contains p.op then some stBadOpcode
  else if !s.authorized p then some stAuthority
  else if !clean || !p.paramClean || !p.inRange || (opOfSlot p.op && !p.namesSlot) then some stBadParam
  else if (match stateSlot p with
    | some x => !stateAccepts (s.slotState x) p.op
    | none => false) then some stSlotState
  else if s.sameRuns p then some stBusy
  else none

/-- A refusal that gives a command its only reply (R431, R432): the entry kept for ST_ACCEPTED is free again. -/
def refuseCmd (s : State) (p : Packet) (status : Nat) : State :=
  let s := match p.replyTo with
    | .host slot true => if p.early then { s with cplOwed := s.cplOwed.modify 0 (Key.at 0 slot) (· - 1) } else s
    | _ => s
  s.refuse p status

/-- A command is executed: it is counted, and under EARLY gives its ST_ACCEPTED reply (R431). -/
def acceptCmd (s : State) (p : Packet) : State :=
  let s := match p.replyTo with
    | .mgmt _ => s.incFld .CMD_CNT_MGMT_COUNT iod0 0 0
    | _ => s
  if p.early then s.reply p stAccepted [] else s

end State

end Sys2Proof.Machine
end

