-- ==== Sys2Proof/Machine/Patterns.lean ====
section
/-! DEFINITION. Pattern files (R148 to R152): the checks of a load, where code and constants go, and the launch (R444). -/

namespace Sys2Proof.Machine

/-- Bytes of the 512-byte header (R148). -/
def patMask (file : List Byte) : Nat := field file 0xA 1
def patGrant (file : List Byte) (cd : Nat) : Nat := field file (0x10 + cd) 1
def patDie (file : List Byte) (cd : Nat) : Bool := (patMask file).testBit cd

/-- The die entry of a compute die (R149). -/
def patEntry (file : List Byte) (cd : Nat) : List Byte := (file.drop (0x20 + 48 * cd)).take 48
def entCodeOff (e : List Byte) : Nat := field e 0 4
def entCodeLen (e : List Byte) : Nat := field e 4 4
def entConstOff (e : List Byte) : Nat := field e 8 4
def entConstLen (e : List Byte) : Nat := field e 0xC 4
def entPc (e : List Byte) (c : Nat) : Nat := field e (0x10 + 4 * c) 4
def entVes (e : List Byte) (c : Nat) : Nat := field e (0x20 + c) 1

/-- An entry point that marks an unused logical context (R149). -/
def pcNone : Nat := 0xFFFFFFFF

/-- The logical contexts that an entry uses. -/
def entUsed (e : List Byte) : List Nat := (List.range 4).filter (fun c => entPc e c != pcNone)

/-- Words of code and of constants of an entry (R149). -/
def entCodeWords (e : List Byte) : Nat := entCodeLen e / 8
def entConstWords (e : List Byte) : Nat := (entConstLen e + 7) / 8

/-- A section lies where R149 allows. -/
def sectionOk (off len file : Nat) : Bool := off % 64 = 0 && (len = 0 || (0x200 ≤ off && off + len ≤ file))

/-- The layout of a die entry (R149, order 1 of R151). -/
def entryOk (file : List Byte) (cd : Nat) : Bool :=
  let e := patEntry file cd
  if patDie file cd then
    zeros (e.drop 0x24) && entCodeLen e % 8 = 0 && entCodeLen e ≤ 2 ^ 20 && entConstLen e ≤ 2 ^ 18
      && sectionOk (entCodeOff e) (entCodeLen e) file.length && sectionOk (entConstOff e) (entConstLen e) file.length
      && (List.range 4).all (fun c => entPc e c != pcNone || entVes e c = 0)
  else zeros e && patGrant file cd = 0

/-- Order 1 of R151. -/
def patLayoutOk (file : List Byte) : Bool :=
  512 ≤ file.length && field file 0 4 = 0x31504C49 && field file 4 4 = file.length && file.length % 64 = 0
    && field file 9 1 < 4 && field file 0xB 1 = 0 && field file 0x18 8 = 0 && zeros ((file.drop 0x1C8).take 56)
    && (List.range 8).all (entryOk file)

/-- The dies of a pattern file. -/
def patFileDies (file : List Byte) : List Nat := (List.range 8).filter (patDie file)

/-- The lowest place at which `n` words fit beside the taken ranges (base, words) in a memory of `size` words. -/
def firstFit (size n : Nat) (taken : List (Nat × Nat)) : Option Nat :=
  let free (b : Nat) : Bool := b + n ≤ size && taken.all (fun t => b + n ≤ t.1 || t.1 + t.2 ≤ b)
  let starts := (0 :: taken.map (fun t => t.1 + t.2)).filter free
  match starts with
  | [] => none
  | b :: bs => some (bs.foldl min b)

namespace State

/-- Cuts a range of virtual addresses into its words: the supervisor reads each through the slot's translations (R438). -/
def fileWords (slot : Nat) : List Nat → State → Option (List Byte) × State
  | [], s => (some [], s)
  | va :: rest, s =>
    match s.translate slot va false with
    | .fault _ => (none, s)
    | .pa a =>
      let r := s.supRead a 32
      match r.1 with
      | none => (none, r.2)
      | some bs => let t := fileWords slot rest r.2; (t.1.map (fun x => bs ++ x), t.2)

/-- The bytes of a pattern file (R438): `none` where one of them cannot be read. -/
def patFile (s : State) (slot a n : Nat) (phys : Bool) : Option (List Byte) × State :=
  if phys then s.supRead a n
  else let r := fileWords slot (wordsOf a n) s; (r.1.map (fun bs => (bs.drop (a % 32)).take n), r.2)

/-- The slots with a pattern on a die. -/
def dieSlots (s : State) (cd : Nat) : List Nat := (List.range 4).filter (fun x => s.loaded cd x)

/-- The free physical contexts of a die, in ascending order (R152). -/
def freeCtxs (s : State) (cd : Nat) : List Nat := (List.range 4).filter (fun c => s.ctxState cd c = ctxFree)

/-- Order 5 of R151: each VE of a new pattern is used by no other context. -/
def vesFree (s : State) (cd : Nat) (e : List Byte) : Bool :=
  (List.range 8).all (fun v =>
    let mine := ((List.range 4).filter (fun c => (entVes e c).testBit v)).length
    let others := (s.dieSlots cd).any (fun x => (s.pattern cd x).veMask.any (fun m => m.testBit v))
    mine = 0 || (mine = 1 && !others))

/-- Where a new pattern's code and constants go on a die (order 6 of R151; log entry 84). -/
def codeFit (s : State) (cd : Nat) (e : List Byte) : Option Nat :=
  firstFit (2 ^ 17) (entCodeWords e) ((s.dieSlots cd).map (fun x => ((s.pattern cd x).codeBase, (s.pattern cd x).codeWords)))
def constFit (s : State) (cd : Nat) (e : List Byte) : Option Nat :=
  firstFit (2 ^ 15) (entConstWords e) ((s.dieSlots cd).map (fun x => ((s.pattern cd x).constBase, (s.pattern cd x).constWords)))

/-- The checks of R151 on a file, in their order: the order number of the first that fails; 0 for none. -/
def patCheck (s : State) (slot : Nat) (file : List Byte) : Nat :=
  let dies := patFileDies file
  if !patLayoutOk file then 1
  else if field file 8 1 != s.fld .MOD_IDENT_CADENCE_VER iod0 then 2
  else if !dies.all (fun cd => s.dieUp cd) then 3
  else if !dies.all (fun cd => 4 ≤ patGrant file cd && patGrant file cd ≤ 128
      && s.grantSum cd + patGrant file cd ≤ min (s.fld .SEQ_TKT_BUDGET_BUDGET cd) 128) then 4
  else if !dies.all (fun cd => !s.loaded cd slot && (entUsed (patEntry file cd)).length ≤ (s.freeCtxs cd).length
      && s.vesFree cd (patEntry file cd)) then 5
  else if !dies.all (fun cd => (s.codeFit cd (patEntry file cd)).isSome && (s.constFit cd (patEntry file cd)).isSome) then 6
  else if (field file 9 1).testBit 0 != s.isSideshow slot then 7
  else if (field file 9 1).testBit 1 && !(s.sealAllowed
      && (match s.policy with | some q => q.allow.any (fun x => x.take 32 == sha256 file) | none => false)) then 8
  else 0

/-- Loads a pattern on one die (R149, R152): code, constants, and its contexts, which are DONE until a launch (log entry 85). -/
def loadDie (slot : Nat) (file : List Byte) (s : State) (cd : Nat) : State :=
  let e := patEntry file cd
  let used := entUsed e
  let free := s.freeCtxs cd
  let ctxOf : List (Option Nat) := (List.range 4).map (fun c => (used.findIdx? (fun u => u = c)).bind (fun k => free[k]?))
  let cb := (s.codeFit cd e).getD 0
  let kb := (s.constFit cd e).getD 0
  let show_ := (field file 9 1).testBit 0
  let pat : Pattern :=
    ⟨cb, entCodeWords e, kb, entConstWords e, ctxOf, (List.range 4).map (entPc e), (List.range 4).map (entVes e), patGrant file cd, show_,
     (field file 9 1).testBit 1, leNat (sha256 file)⟩
  let s := { s with
    code := s.code.splice (2 ^ 20 * cd + 8 * cb) ((file.drop (entCodeOff e)).take (entCodeLen e)),
    konst := s.konst.splice (2 ^ 18 * cd + 8 * kb) (padTo (8 * entConstWords e) ((file.drop (entConstOff e)).take (entConstLen e))),
    patterns := s.patterns.set Pattern.none (Key.at cd slot) pat,
    patLoaded := s.patLoaded.set false (Key.at cd slot) true }
  let s := s.setBit .SLQ_STATE_DIES iod0 slot 0 cd true
  (ctxOf.zipIdx).foldl (fun s x =>
    match x.1 with
    | none => s
    | some c =>
      let s := (s.setCtxState cd c ctxDone).setFld .SEQ_CTX_STATE_SLOT cd 0 c slot
      (s.setFld .SEQ_CTX_STATE_LOGICAL cd 0 c x.2).setFld .SEQ_CTX_STATE_SIDESHOW cd 0 c (bit show_)) s

/-- Starts a logical context of a launched pattern at its PC (R155, R444). -/
def launchCtx (cd slot s1 : Nat) (pcs : List Nat) (s : State) (x : Option Nat × Nat) : State :=
  match x.1 with
  | none => s
  | some c =>
    let pat := s.pattern cd slot
    let pc := if pcs.getD x.2 pcNone = pcNone then pat.entry.getD x.2 0 else pcs.getD x.2 0
    let s := { s with cnts := s.cnts.clear (fun k => k.d == cd && k.u == c),
                      sregs := s.sregs.set 0 (Key.at cd c 1) (BitVec.ofNat 64 s1) }
    let s := ([.SEQ_CNT_ISSUE_COUNT, .SEQ_CNT_WAIT_COUNT, .SEQ_CNT_QFULL_COUNT, .SEQ_CNT_TKT_STALL_COUNT, .SEQ_CNT_LATE_COUNT,
        .SEQ_CNT_LATE_STRETCH_COUNT] : List Fld).foldl (fun s f => s.setFld f cd 0 c 0) s
    let s := (List.range 8).foldl (fun s v =>
      if (pat.veMask.getD x.2 0).testBit v then s.setFld .VE_FTAB_STATUS_VALID cd v 0 0 else s) s
    (s.setFld .SEQ_CTX_PC_PC cd 0 c pc).wakeCtx cd c (s.beatOf cd)

/-- Launches a slot's pattern on one die (R177, R187, R444). -/
def launchDie (slot s1 : Nat) (pcs : List Nat) (s : State) (cd : Nat) : State :=
  let pat := s.pattern cd slot
  let s := s.setFld .SEQ_TKT_GRANT_GRANT cd 0 slot pat.grant
  let s := (List.range 8).foldl (fun s se =>
    ((s.setFld .SE_DESC_BASE_BASE cd se slot pat.constBase).setFld .SE_DESC_BASE_VALID cd se slot 1).setFld .SE_DESC_BASE_LEN cd se slot
      pat.constWords) s
  let s := { s with syncs := s.syncs.clear (fun k => k.d == cd && k.u == slot) }
  (pat.ctxOf.zipIdx).foldl (launchCtx cd slot s1 pcs) s

/-- An update engine shows TORN for a slot (R444). -/
def slotTorn (s : State) (slot : Nat) : Bool :=
  ueAll.any (fun e => s.flag .UE_STATUS_TORN (mhDie e.1) e.2 && s.torn.get false (Key.at (mhDie e.1) e.2 slot))

end State

end Sys2Proof.Machine
end

