-- ==== Sys2Proof/Machine/Commands.lean ====
section
/-! DEFINITION. The commands (R438 to R453, R527): the own conditions and the action of every opcode, the runs that reply later, and the
rows of the command chapter. -/

namespace Sys2Proof.Machine

/-- The range of a FRAME_GRANT or FRAME_RELEASE (R440), as tier, compute die and number. -/
def rangeOf (p : Packet) : List (Nat × Nat × Nat) := (List.range (p.fld 0xC 4)).map (fun k => (p.fld 0 1, p.fld 4 1, p.fld 8 4 + k))

/-- Frames of a tier, or blocks of a die (R440). -/
def unitCount (tier : Nat) : Nat := if tier = 2 then 2048 else frameCount tier

namespace State

/-- The stacks that a frame touches (R249 to R251): all of them when it is interleaved, those of its hub in a hub-local window. -/
def frameStacks (s : State) (n : Nat) : List Nat :=
  let inter := 24 * (48 - s.hlGib) * 512
  if n < inter then List.range 24 else (List.range 6).map (fun j => 6 * ((n - inter) / (6 * s.hlGib * 512)) + j)

/-- A frame lies on stacks or controllers in service, a block on a die in service (R466, R527). -/
def rangeServes (s : State) (w : Nat × Nat × Nat) : Bool :=
  if w.1 = 2 then s.dieUp w.2.1
  else if w.1 = 0 then (s.frameStacks w.2.2).all (fun n => s.stackUp n)
  else s.dieUp (iodDie 0) && s.dieUp (iodDie 1)

/-- A frame or block is FREE; one that is still being zeroed counts as FREE (R527). -/
def rangeFree (s : State) (w : Nat × Nat × Nat) : Bool :=
  if w.1 = 2 then (s.block w.2.1 w.2.2).owner.isNone else (s.frame w.1 w.2.2).owner = .free

/-- A frame or block belongs to a slot. -/
def rangeOwned (s : State) (slot : Nat) (w : Nat × Nat × Nat) : Bool :=
  if w.1 = 2 then (s.block w.2.1 w.2.2).owner = some slot else (s.frame w.1 w.2.2).owner = .slot slot

/-- A grant of `n` frames keeps a quota (R259). -/
def quotaFits (s : State) (slot q n : Nat) : Bool := n = 0 || s.quotaUsed slot q + n ≤ s.fld (quotaFld q) mh0 slot

/-- The conditions of a FRAME_GRANT in the order of R527. -/
def grantCheck (s : State) (p : Packet) : Option Nat :=
  let tier := p.fld 0 1
  let use := frameUseOf (p.fld 1 1)
  let isSeal := p.fld 3 1 = 1
  let n := p.fld 0xC 4
  if unitCount tier < p.fld 8 4 + n then some stBadParam
  else if tier != 2 && !(rangeOf p).all (fun w => s.useFits tier w.2.2 use) then some stBadParam
  else if !(rangeOf p).all s.rangeServes then some stServiceLevel
  else if isSeal && !s.sealAllowed then some stSealed
  else if isSeal && s.isSideshow p.slot then some stQuota
  else if !(rangeOf p).all s.rangeFree then some stNoFrame
  else if tier != 2 && !(s.quotaFits p.slot tier n && (use != .stash || s.quotaFits p.slot 2 n) && (use != .spill || s.quotaFits p.slot 3 n)) then
    some stQuota
  else none

/-- Gives frames or blocks to a slot: their owner, use, class and seal change, and they are zeroed (R254, R256, R257). -/
def grantAll (s : State) (p : Packet) : State :=
  let strong := p.fld 2 1 = 1
  if p.fld 0 1 = 2 then
    (rangeOf p).foldl (fun s w =>
      (s.setBit .SRAM_CLASS_STRONG w.2.1 0 (w.2.2 / 64) (w.2.2 % 64) strong).zeroBlock w.2.1 w.2.2 (some p.slot)) s
  else
    s.zeroFrames ((rangeOf p).map (fun w =>
      (w.1, w.2.2, { s.frame w.1 w.2.2 with owner := .slot p.slot, use := frameUseOf (p.fld 1 1), strong := strong, isSealed := p.fld 3 1 = 1 })))

/-- FRAME_GRANT (R527): it waits while a frame or block that it names is being zeroed. -/
def cmdGrant (s : State) (p : Packet) : Did :=
  match s.grantCheck p with
  | some st => .refused s st
  | none =>
    let busy := (rangeOf p).filter s.beingZeroed
    if busy.isEmpty then .ok (s.grantAll p) [] else .runs s busy

/-- FRAME_RELEASE (R256, R257, R527): a released block takes the CLASS of the packet, which is 0. -/
def cmdRelease (s : State) (p : Packet) : Did :=
  if unitCount (p.fld 0 1) < p.fld 8 4 + p.fld 0xC 4 then .refused s stBadParam
  else if !(rangeOf p).all (s.rangeOwned p.slot) then .refused s stBadParam
  else
    let s := if p.fld 0 1 = 2 then
        (rangeOf p).foldl (fun s w => s.setBit .SRAM_CLASS_STRONG w.2.1 0 (w.2.2 / 64) (w.2.2 % 64) false) s
      else s
    .ok (s.releaseAll (rangeOf p)) []

/-- SLOT_CREATE (R444). -/
def cmdSlotCreate (s : State) (p : Packet) : Did :=
  let slot := p.slot
  let show_ := p.fld 0 1 = 1
  if show_ && (List.range 4).any (fun x => x != slot && s.isSideshow x) then .refused s stSlotState
  else if !(s.systemRange (p.fld 8 8) (64 * p.fld 0x10 2) && s.systemRange (p.fld 0x18 8) (32 * p.fld 0x20 2)) then .refused s stBadParam
  else if s.fld .SVC_STATUS_LEVEL iod0 < 1 then .refused s stServiceLevel
  else
    let s := (s.setSlotState slot slotReady).setFld .SLQ_STATE_SIDESHOW iod0 slot 0 (bit show_)
    let s := (s.setFld .SLQ_CMD_BASE_BASE iod0 slot 0 (p.fld 8 8 / 32)).setFld .SLQ_CMD_CTL_SIZE iod0 slot 0 (p.fld 0x10 2)
    .ok ((s.setFld .SLQ_CPL_BASE_BASE iod0 slot 0 (p.fld 0x18 8 / 32)).setFld .SLQ_CPL_CTL_SIZE iod0 slot 0 (p.fld 0x20 2)) []

/-- SLOT_DISABLE (R451): its reply and the last step come when the memory is zeroed. -/
def cmdSlotDisable (s : State) (p : Packet) : Did := let r := s.disableSlot p.slot; .runs r.2 r.1

/-- SLOT_STATUS (R438): SLQ_STATE, the grant on each die, and the quotas in use in a layout that the manual does not give (log entry 86). -/
def cmdSlotStatus (s : State) (p : Packet) : Did :=
  .ok s (leBytes 8 (s.regWord .SLQ_STATE iod0 p.slot)
    ++ (List.range 8).flatMap (fun cd => leBytes 1 (s.fld .SEQ_TKT_GRANT_GRANT cd 0 p.slot))
    ++ padTo 8 (Config.quotaInfo ((List.range 5).map (s.quotaUsed p.slot))))

/-- PAT_LOAD (R151). -/
def cmdPatLoad (s : State) (p : Packet) : Did :=
  let r := s.patFile p.slot (p.fld 0 8) (p.fld 8 4) (p.fld 0xC 1 = 1)
  match r.1 with
  | none => .refused r.2 (stPat 1)
  | some file =>
    let k := r.2.patCheck p.slot file
    if k = 0 then .ok ((patFileDies file).foldl (loadDie p.slot file) r.2) []
    else .refused r.2 (if k = 8 then stSealed else stPat k)

/-- The dies of a mask of compute dies. -/
def maskDies (m : Nat) : List Nat := (List.range 8).filter (fun cd => m.testBit cd)

/-- PAT_UNLOAD (R438, R495). -/
def cmdPatUnload (s : State) (p : Packet) : Did :=
  .ok ((maskDies (p.fld 0 1)).foldl (fun s cd => s.unload cd p.slot) (s.disarm p.slot)) []

/-- PAT_LAUNCH (R444, R495). -/
def cmdPatLaunch (s : State) (p : Packet) : Did :=
  let slot := p.slot
  if s.fld .SVC_STATUS_LEVEL iod0 < 2 then .refused s stServiceLevel
  else if s.slotTorn slot then .refused s stTorn
  else if !(maskDies (p.fld 0 1)).all (fun cd => s.loaded cd slot) then .refused s stBadParam
  else
    let s := (s.setSlotState slot slotRunning).armWindow slot
    .ok (((maskDies (p.fld 0 1)).foldl (launchDie slot (p.fld 8 8) ((List.range 4).map (fun c => p.fld (0x10 + 4 * c) 4))) s).slotDone slot) []

/-- Clears the refusal bits of the unit that a fault record names (R85, R114). -/
def clearRefusal (s : State) (cd cause u : Nat) : State :=
  if !([causeArray, causeFeeder, causeCarousel, causeAborted] : List Nat).contains cause then s
  else if u < 0x18 then s.arrRefusalClear cd u
  else if u < 0x48 then s.fdrRefusalClear cd (u - 0x18)
  else if u < 0x4C then s.carRefusalClear cd (u - 0x48)
  else s

/-- CTX_RESUME (R165, R438). -/
def cmdCtxResume (s : State) (p : Packet) : Did :=
  let cd := p.fld 0 1
  let c := p.fld 1 1
  if s.ctxState cd c != ctxFaulted || s.ctxSlot cd c != p.slot then .refused s stBadParam
  else
    let s := s.clearRefusal cd (s.fld .SEQ_CTX_FAULT_CAUSE cd 0 c) (s.fld .SEQ_CTX_FAULT_UNIT cd 0 c)
    let s := s.setFld .SEQ_CTX_PC_PC cd 0 c (s.fld .SEQ_CTX_FAULT_PC cd 0 c)
    let s := (s.setFld .SEQ_CTX_FAULT_CAUSE cd 0 c 0).setFld .SEQ_CTX_FAULT_UNIT cd 0 c 0
    let s := (s.setFld .SEQ_CTX_FAULT_PC cd 0 c 0).setFld .SEQ_CTX_FAULT_TAG cd 0 c 0
    .ok (s.wakeCtx cd c (s.beatOf cd)) []

/-- The register that SLOT_REG_WRITE names (R439). -/
def slotReg (slot id idx : Nat) : RegAt :=
  if id = 1 then ⟨.XLT_ROOT, iod0, slot, 0⟩
  else if id = 2 then ⟨.NUM_CEN_BASE, mh0, slot, 0⟩
  else if id = 3 then ⟨.NUM_CEN_CFG, mh0, slot, 0⟩
  else if id = 4 then ⟨.NUM_STEP, mh0, slot, 0⟩
  else if id = 5 then ⟨.NUM_LSCALE, mh0, slot, 0⟩
  else if id = 6 then ⟨.CMT_CFG, mh0, slot, 0⟩
  else if id = 7 then ⟨.UE_SEG_BASE, mhDie (idx / 2), idx % 2, slot⟩
  else if id = 8 then ⟨.UE_SEG_CNT, mhDie (idx / 2), idx % 2, slot⟩
  else if id = 9 then ⟨.RE_LIST_BASE, iodDie idx, 0, slot⟩
  else if id = 0xA then ⟨.RE_LIST_CTL, iodDie idx, 0, slot⟩
  else if id = 0xB then ⟨.RE_LAND_BASE, iodDie idx, 0, slot⟩
  else if id = 0xC then ⟨.RE_LAND_SLOTS, iodDie idx, 0, slot⟩
  else if id = 0xD then ⟨.REC_JOB_GEN, iod0, slot, 0⟩
  else ⟨.REC_STATE_BASE, iod0, slot, 0⟩

/-- A register write of a command: refused where the die is out of service or the register refuses it. -/
def cmdStore (s : State) (r : RegAt) (v : Nat) : Did :=
  if !s.dieUp r.d then .refused s stRefused
  else match s.regStore .supervisor r.reg r.d r.u r.i v with
    | some t => .ok t []
    | none => .refused s stRefused

/-- SLOT_REG_WRITE (R439): of NUM_LSCALE only E and E_MIN are written. -/
def cmdSlotRegWrite (s : State) (p : Packet) : Did :=
  let id := p.fld 0 1
  let v := p.fld 8 8
  if id = 0xD && s.slotState p.slot = slotRunning then .refused s stSlotState
  else if id = 5 then
    let old := s.regWord .NUM_LSCALE mh0 p.slot
    s.cmdStore (slotReg p.slot id 0) (v % 2 ^ 16 + bits old 24 16 * 2 ^ 16)
  else s.cmdStore (slotReg p.slot id (p.fld 1 1)) v

/-- STASH_PURGE (R203). -/
def cmdStashPurge (s : State) (p : Packet) : Did := .ok ((maskDies (p.fld 0 1)).foldl (fun s cd => s.purgeStash cd p.slot) s) []

/-- A word of a group-table entry (R230). -/
def setGroupWord (s : State) (slot g w v : Nat) : State :=
  { s with groups := s.groups.set 0 (Key.at slot g w) v }.setFld .CMT_GRP_IDX_GROUP mh0 slot 0 g

/-- STEP_RATE (R230): LR and LR_STEP of the step's parity, for the groups that exist. -/
def cmdStepRate (s : State) (p : Packet) : Did :=
  let step := p.fld 4 4
  .ok (((List.range (p.fld 2 2)).filter (fun k => p.fld 0 1 + k < 256)).foldl (fun s k =>
    s.setGroupWord p.slot (p.fld 0 1 + k) (4 + step % 2) (p.fld 8 4 + step * 2 ^ 32)) s) []

/-- GROUP_WRITE (R230). -/
def cmdGroupWrite (s : State) (p : Packet) : Did := .ok (groupWords.foldl (fun s w => s.setGroupWord p.slot (p.fld 0 1) w.1 (p.fld w.2 8)) s) []

/-- LSCALE_SET (R220). -/
def cmdLscaleSet (s : State) (p : Packet) : Did :=
  if p.fld 0 1 = 0 then .ok ((s.setFld .NUM_LSCALE_PEND mh0 p.slot 0 (p.fld 1 1)).setFld .NUM_LSCALE_PEND_VALID mh0 p.slot 0 1) []
  else
    let s := s.setFld .NUM_LSCALE_E_MIN mh0 p.slot 0 (p.fld 1 1)
    .ok (if s.lscale p.slot < s.lscaleMin p.slot then s.setLscale p.slot (s.lscaleMin p.slot) else s) []

/-- SKIP_NEXT (R238). -/
def cmdSkipNext (s : State) (p : Packet) : Did := .ok (s.setFld .CMT_CFG_SKIP_NEXT mh0 p.slot 0 1) []

/-- STEP_QUERY (R438): the three registers in turn. -/
def cmdStepQuery (s : State) (p : Packet) : Did :=
  .ok s (leBytes 8 (s.regWord .NUM_STEP mh0 p.slot) ++ leBytes 8 (s.regWord .CMT_LAST mh0 p.slot) ++ leBytes 8 (s.regWord .NUM_LSCALE mh0 p.slot))

/-- SNAP_TAKE (R401, R402): it waits for a vote, an update or the drain of another snapshot. -/
def cmdSnapTake (s : State) (p : Packet) : Did :=
  let r := s.stateList p.slot
  if r.1.isNone then .refused r.2 stBadParam
  else .runs ((r.2.setSnap p.slot (some ⟨.waiting, 0, 0, []⟩)).snapBegin p.slot) []

/-- SNAP_CONFIG (R429, R438). -/
def cmdSnapConfig (s : State) (p : Packet) : Did :=
  let which := p.fld 0 1
  s.cmdStore (if which = 0 then ⟨.SNAP_CFG, iod0, 0, 0⟩ else if which = 1 then ⟨.SNAP_SHADOW, iod0, 0, 0⟩ else ⟨.SNAP_SLOT, iod0, p.fld 1 1, 0⟩)
    (p.fld 8 8)

/-- SNAP_STATUS (R438). -/
def cmdSnapStatus (s : State) (p : Packet) : Did := .ok s (leBytes 8 (s.regWord .SNAP_STATUS iod0 p.slot))

/-- Job state (R400): a frame owned by a slot, or a snapshot image in flash. -/
def ownsFrames (s : State) : Bool := s.frames.any (fun e => match e.2.owner with | .slot _ => true | _ => false)
def holdsImages (s : State) : Bool :=
  (List.range 4).any (fun x => (s.imageIn x 0).isSome || (s.imageIn x 1).isSome) || s.mirrors.any (fun m => m.complete)

/-- The ring refuses this module: a port shows a peer of a higher module generation (R399, R426). -/
def staleHere (s : State) : Bool :=
  (List.range 8).any (fun p => s.inTraffic p && !(s.port p).identDue && s.hl .HL_PEER_VALID p = 1 && decide (s.myGen < s.hl .HL_PEER_GEN p))

/-- The full wipe of a module that the ring refuses, once no slot is in use (R426; what starts it is log entry 29): slot-owned frames are
zeroed, sealed ones first, and the image places and the buddy area are erased. -/
def wipeStale (s : State) : State :=
  if (s.ownsFrames || !s.flash.isEmpty || !s.mirrors.isEmpty) && (List.range 4).all (fun x => s.slotState x = slotFree) && s.staleHere then
    { s.releaseAll ((List.range 4).flatMap (fun x => s.slotFrames x)) with flash := [], mirrors := [] }
  else s

/-- RING_FORM (R400): no pattern is loaded, and a generation is not raised over job state. -/
def cmdRingForm (s : State) (p : Packet) : Did :=
  let flags := p.fld 4 1
  if (List.range 8).any (fun cd => !(s.dieSlots cd).isEmpty) then .refused s stGen
  else if s.myGen < p.fld 2 2 && (s.ownsFrames || s.holdsImages) then .refused s stGen
  else
    let s := (s.setFld .HLM_POS_POS iod0 0 0 (p.fld 0 2)).setFld .HLM_POS_GEN iod0 0 0 (p.fld 2 2)
    let s := (s.setFld .HLM_POS_CATCHER iod0 0 0 (bits flags 0 0)).setFld .HLM_CTL_DATELINE1 iod0 0 0 (bits flags 1 1)
    .ok ((s.setFld .HLM_CTL_DATELINE2 iod0 0 0 (bits flags 2 2)).evalAll.pump.enablePorts) []

/-- PORT_ROLE (R342, R467). -/
def cmdPortRole (s : State) (p : Packet) : Did :=
  let port := p.fld 0 1
  if !s.dieUp (portDie port) then .refused s stRefused
  else .ok ((s.setEnRole port (s.hl .HL_CTL_EN port) (p.fld 1 1)).pump.enablePorts) []

/-- CATCH_TABLE (R411, R429). -/
def cmdCatchTable (s : State) (p : Packet) : Did :=
  let which := p.fld 0 1
  s.cmdStore (if which = 0 then ⟨.REC_CFG, iod0, 0, 0⟩ else if which = 1 then ⟨.REC_GROUP, iod0, 0, 0⟩ else ⟨.REC_SRC, iod0, 0, which - 2⟩) (p.fld 8 8)

/-- HANDBACK (R425): of the position that this module has caught, while no recovery runs (log entry 87). -/
def cmdHandback (s : State) (p : Packet) : Did :=
  let c := p.fld 0 2
  if s.myPos ≠ c || s.flag .HLM_POS_CATCHER iod0 || (s.groupIdx c).isNone then .refused s stBadParam
  else if s.fld .REC_STATUS_STATE iod0 ≠ 0 || s.handback.isSome then .refused s stBusy
  else .runs ({ s with handback := some (c, p.fld 2 2, false) }.recState 5) []

/-- JOIN (R426): no frame of a slot and no image remains. -/
def cmdJoin (s : State) (p : Packet) : Did :=
  if s.ownsFrames || s.holdsImages then .refused s stGen
  else .ok ((s.setFld .HLM_POS_GEN iod0 0 0 (p.fld 0 2)).evalAll.pump) []

/-- RING_STATUS (R438): HLM_POS, the state of the eight ports, REC_STATUS. -/
def cmdRingStatus (s : State) (_p : Packet) : Did :=
  .ok s (leBytes 8 (s.regWord .HLM_POS iod0) ++ (List.range 8).flatMap (fun k => leBytes 1 (s.hlState k)) ++ leBytes 8 (s.regWord .REC_STATUS iod0))

/-- The frame or block behind an address that is being zeroed (R257). -/
def zeroingPlace (a : Nat) : Nat × Nat × Nat :=
  match locOf a with
  | .sram cd off => (2, cd, off / 2 ^ 16)
  | _ => match frameOf a with
    | some e => (e.1, 0, e.2)
    | none => (0, 0, 0)

/-- CSR_READ (R438, R489): a register, or 8 aligned bytes of memory, under supervisor authority (log entry 88). -/
def cmdCsrRead (s : State) (p : Packet) : Did :=
  let a := p.fld 0 8
  if csrBase ≤ a then
    let s := s.csrEnter a
    match s.csrRead .supervisor a with
    | some v => .ok (s.csrLeave a) (leBytes 8 v)
    | none => .refused (s.csrLeave a) stRefused
  else if a % 8 ≠ 0 then .refused s stRefused
  else if s.judge .supervisor a = .wait then .runs s [zeroingPlace a]
  else
    let secret := s.judge .supervisor a = .ok && tagSealed (s.fetchWord .supervisor a).1.tag
    match s.readPiece .supervisor a 8 with
    | (.data bs _, s) => .ok s bs
    | (_, s) => .refused s (if secret then stSealed else stRefused)

/-- CSR_WRITE (R438, R458, R485). -/
def cmdCsrWrite (s : State) (p : Packet) : Did :=
  let a := p.fld 0 8
  let v := p.fld 8 8
  if csrBase ≤ a then
    let reg := (csrPlace a).bind (fun e => (locate e.1 e.2).map RegAt.reg)
    if reg = some .SUP_WDOG then .refused s stRefused
    else if reg = some .MEM_FRAME_DATA && v.testBit 6 && !s.sealAllowed then .refused s stSealed
    else match (s.csrEnter a).csrWrite .supervisor a v with
      | some t => .ok (t.csrLeave a) []
      | none => .refused ((s.csrEnter a).csrLeave a) stRefused
  else if a % 8 ≠ 0 then .refused s stRefused
  else if s.judge .supervisor a = .wait then .runs s [zeroingPlace a]
  else if s.judge .supervisor a ≠ .ok || (s.windowAt a).isSome then .refused s stRefused
  else .ok (s.writePieces .supervisor a (leBytes 8 v) 0).2 []

/-- The registers that a die reset keeps: those of the slots on MH0, the boot-time fields, and what the supervisor holds for the die
(log entry 89). -/
def keptAtDieReset (r : Reg) : Bool :=
  regOfSlot r || ([.DIE_IDENT, .DIE_STATUS, .DIE_BOOT_LOCK, .MEM_HBM_SPLIT, .MEM_FRAME_IDX, .SRAM_CLASS, .SEQ_TKT_BUDGET, .UE_STATUS] : List Reg).contains r

def keptFields : List Nat :=
  (Reg.list.flatMap (fun r => (r.fields.filter (fun f => keptAtDieReset r || f.acc = .rwl)).map (fun f => f.fld.id)))

/-- A die reset (R331): its registers and units go back to reset, but for the epochs, and its crossings start empty. Its arrays are
parked and their ACBs without power, so that R77 counts both epochs when they wake. -/
def dieReset (s : State) (d : Nat) : State :=
  let at_ (k : Key) : Bool := k.d == d
  let mem (m : Memory) (step : Nat) : Memory := m.zero (d * step) step
  let epochs (f : Fld) (n : Nat) : List (Nat × Nat) := (List.range n).map (fun u => (u, s.fld f d u))
  let kept := keptFields
  let t := s.resetFields (fun k => k.d == d && !kept.contains k.f)
  let t : State := { t with clocks := t.clocks.clear at_, hcLines := (if 0x10 ≤ d && d < 0x14 then t.hcLines.clear (fun k => k.d == d - 0x10) else t.hcLines) }
  if 8 ≤ d then t
  else
    let t : State := { t with
      acbSeed := (List.range 24).foldl (fun x n => x.modify 0 (Key.at d n) (· + 1)) t.acbSeed,
      arrays := t.arrays.clear at_, regions := t.regions.clear at_, bobbins := t.bobbins.clear at_, fills := t.fills.clear at_,
      earlyRead := t.earlyRead.clear at_, injBeat := t.injBeat.clear at_, tktWait := t.tktWait.clear at_, busyAt := t.busyAt.clear at_,
      tile := mem t.tile (48 * 4 * 65536), tileTag := mem t.tileTag (48 * 4 * 2048), uses := t.uses.clear at_,
      tileErr := t.tileErr.clear (fun k => decide (k.i / (48 * 4 * 2048) = d)), crossings := t.crossings.clear at_,
      poolMoved := t.poolMoved.clear at_, poolTold := t.poolTold.clear at_,
      stations := t.stations.clear at_, gateways := t.gateways.clear at_, rings := t.rings.clear at_ }
    let t : State := { t with
      ctxs := t.ctxs.clear at_, sregs := t.sregs.clear at_, cnts := t.cnts.clear at_, syncs := t.syncs.clear at_, lastRan := t.lastRan.clear at_,
      pend := t.pend.filter (fun x => x.die != d), charges := t.charges.clear at_, heldBy := t.heldBy.clear at_,
      yieldHold := t.yieldHold.clear at_, ves := t.ves.clear at_, vreg := mem t.vreg (8 * 32 * 8192), vsealed := t.vsealed.clear at_,
      ftab := mem t.ftab (8 * 32 * 32832), pairEpoch := t.pairEpoch.clear at_, pairSealed := t.pairSealed.clear at_,
      ses := t.ses.clear at_, streams := t.streams.clear at_, stash := t.stash.clear at_ }
    let put (f : Fld) (es : List (Nat × Nat)) (t : State) : State := es.foldl (fun t e => t.setFld f d e.1 0 e.2) t
    put .VE_FTAB_STATUS_EPOCH (epochs .VE_FTAB_STATUS_EPOCH 8)
      (put .ARR_EPOCH_ACB_EPOCH (epochs .ARR_EPOCH_ACB_EPOCH 24) (put .ARR_EPOCH_EPOCH (epochs .ARR_EPOCH_EPOCH 24) t))

/-- A compute die that passes its test is readmitted (R77, R78): every array and every function table pair takes its next epoch. -/
def readmit (s : State) (d : Nat) : State :=
  if 8 ≤ d then s
  else
    let s := (List.range 24).foldl (fun s n => s.bumpArrEpoch d n) s
    (List.range 8).foldl (fun s v => s.setFld .VE_FTAB_STATUS_EPOCH d v 0 (nextEpoch (s.fld .VE_FTAB_STATUS_EPOCH d v))) s

/-- The compute and hub dies of a 12-bit mask, as frequency regions (R440). -/
def maskRegions (m : Nat) : List Nat := (List.range 12).filter (fun k => m.testBit k)

/-- A die of a mask holds a pattern. -/
def maskLoaded (s : State) (m : Nat) : Bool := (maskRegions m).any (fun k => k < 8 && !(s.dieSlots k).isEmpty)

/-- SELFTEST (R332, R469): each die is reset and tested; one that passes enters service again, and one that fails stays out. -/
def cmdSelftest (s : State) (p : Packet) (pass : Nat) : Did :=
  if s.maskLoaded (p.fld 0 2) then .refused s stBadParam
  else
    .ok ((maskRegions (p.fld 0 2)).foldl (fun s k =>
      let d := regionDie k
      let s := (s.dieReset d).setFld .DIE_STATUS_IN_SERVICE d 0 0 0
      let s := if pass.testBit k then s.readmit d else s
      let s := if d < 8 then s.setBit .SVC_STATUS_DIES iod0 0 0 d false else s
      { s with selfTests := s.selfTests.set 0 (Key.at d) (if pass.testBit k then 1 else 2) }) s).svcSettle []

/-- BUDGET_SET has brought its dies at or below their k* (R453). -/
def budgetMet (s : State) (m : Nat) : Bool :=
  (maskDies m).all (fun cd => !s.flag .BUD_TARGET_ACTIVE iod0 0 cd || s.fld .CLK_STEP_CURRENT cd ≤ s.fld .BUD_TARGET_STEP iod0 0 cd)

/-- BUDGET_SET (R453). -/
def cmdBudgetSet (s : State) (p : Packet) : Did :=
  let dies := maskDies (p.fld 0 1)
  let b := p.fld 1 1
  if !dies.all (fun cd => (budgetStep (s.grantSum cd) b).isSome || s.grantSum cd ≤ b) then .refused s stBudgetLow
  else
    let s := dies.foldl (fun s cd => s.applyBudget cd b) s
    if s.budgetMet (p.fld 0 1) then .ok s [] else .runs s []

/-- CAP_SET (R336, R438): ignored while CLK_STATUS.XERR = 1, as every write of CLK_STEP. -/
def cmdCapSet (s : State) (p : Packet) : Did :=
  .ok ((maskRegions (p.fld 0 2)).foldl (fun s k => if s.flag .CLK_STATUS_XERR (regionDie k) then s else s.setCause .command k (p.fld 2 1)) s) []

/-- DIE_PARK (R438): the regions head for step 0. -/
def cmdDiePark (s : State) (p : Packet) : Did :=
  if s.maskLoaded (p.fld 0 2) then .refused s stBadParam
  else .ok ((maskRegions (p.fld 0 2)).foldl (fun s k =>
    if s.flag .CLK_STATUS_XERR (regionDie k) then s else (s.setFld .CLK_STEP_TARGET (regionDie k) 0 0 0).clkKick (regionDie k)) s) []

/-- ABORT_QUEUE (R448, R449). -/
def cmdAbortQueue (s : State) (p : Packet) : Did :=
  let cd := p.fld 0 1
  let c := s.cutUnit cd (p.fld 1 1) p.slot
  .ok (((c.ctxs.eraseDups).foldl (fun s x => s.faultCtx cd x causeAborted (p.fld 1 1)) c.st).yieldSettle cd) (abortInfo c.n)

/-- ABORT_SLOT (R448 to R450). -/
def cmdAbortSlot (s : State) (p : Packet) : Did := let r := s.abortSlot p.slot; .ok r.2 (abortInfo r.1)

/-- The entries still in a slot's command queue that have no reply yet: index and packet. -/
def queuedCmds (s : State) (slot : Nat) : List (Nat × Packet) :=
  let size := s.fld .SLQ_CMD_CTL_SIZE iod0 slot
  ((List.range (s.queueLeft slot)).map (fun k => (s.fld .SLQ_CMD_CTL_HEAD iod0 slot + k) % size)).filterMap (fun k =>
    if (s.skipped slot).contains k then none
    else some (k, packetOf (s.ownRead (s.fld .SLQ_CMD_BASE_BASE iod0 slot * 32 + k * 64) 64).1 (.host slot false)))

/-- ABORT_CMD (R448, R450): commands of the slot with the TAG that run, or that wait in its queue. -/
def cmdAbortCmd (s : State) (p : Packet) : Did :=
  let slot := p.slot
  let tag := p.fld 0 2
  let runs := (s.slotRuns slot).filter (fun r => r.pkt.tag = tag)
  let queued := (s.queuedCmds slot).filter (fun e => e.2.tag = tag)
  let s := { s with cmdRuns := s.cmdRuns.filter (fun r => !(r.pkt.ofSlot slot && r.pkt.tag = tag)) }
  let s := if runs.any (fun r => r.pkt.op = 0x0501) then s.dropSnap slot else s
  let s := runs.foldl (fun s r => s.reply r.pkt stAborted []) s
  let s := { s with qSkip := s.qSkip.set [] (Key.at 0 slot) (s.skipped slot ++ queued.map Prod.fst) }
  let s := queued.foldl (fun s e => s.reply e.2 stAborted []) s
  .ok s (abortInfo (runs.length + queued.length))

/-- The own conditions and the action of a command that passed the checks of R432. -/
def cmdBody (s : State) (p : Packet) (pass : Nat) : Did :=
  let op := p.op
  if op = 0x0101 then s.cmdSlotCreate p
  else if op = 0x0102 then s.cmdSlotDisable p
  else if op = 0x0103 then s.cmdSlotStatus p
  else if op = 0x0201 then s.cmdPatLoad p
  else if op = 0x0202 then s.cmdPatUnload p
  else if op = 0x0203 then s.cmdPatLaunch p
  else if op = 0x0204 then s.cmdCtxResume p
  else if op = 0x0301 then s.cmdGrant p
  else if op = 0x0302 then s.cmdRelease p
  else if op = 0x0303 then .ok (s.setQuota p.slot (p.fld 0 1) (p.fld 8 4)) []
  else if op = 0x0304 then s.cmdSlotRegWrite p
  else if op = 0x0305 then s.cmdStashPurge p
  else if op = 0x0401 then s.cmdStepRate p
  else if op = 0x0402 then s.cmdGroupWrite p
  else if op = 0x0403 then s.cmdLscaleSet p
  else if op = 0x0404 then s.cmdSkipNext p
  else if op = 0x0405 then s.cmdStepQuery p
  else if op = 0x0501 then s.cmdSnapTake p
  else if op = 0x0502 then s.cmdSnapConfig p
  else if op = 0x0503 then s.cmdSnapStatus p
  else if op = 0x0601 then s.cmdRingForm p
  else if op = 0x0602 then s.cmdPortRole p
  else if op = 0x0603 then s.cmdCatchTable p
  else if op = 0x0604 then s.cmdHandback p
  else if op = 0x0605 then s.cmdJoin p
  else if op = 0x0606 then s.cmdRingStatus p
  else if op = 0x0701 then s.cmdCsrRead p
  else if op = 0x0702 then s.cmdCsrWrite p
  else if op = 0x0703 then s.cmdSelftest p pass
  else if op = 0x0801 then s.cmdBudgetSet p
  else if op = 0x0802 then s.cmdCapSet p
  else if op = 0x0803 then s.cmdDiePark p
  else if op = 0x0F01 then s.cmdAbortQueue p
  else if op = 0x0F02 then s.cmdAbortSlot p
  else s.cmdAbortCmd p

/-- One command that has not replied goes on (R451, R453, R527): `none` while it still waits. -/
def runSettle (s : State) (r : CmdRun) : Option State :=
  let p := r.pkt
  let gone := { s with cmdRuns := s.cmdRuns.erase r }
  if r.waits.any s.beingZeroed then none
  else if p.op = 0x0102 then some ((gone.reply p stOk []).freeSlotPage p.slot)
  else if p.op = 0x0301 || p.op = 0x0701 || p.op = 0x0702 then
    match gone.cmdBody p 0 with
    | .refused t st => some (t.refuse p st)
    | .ok t info => some (t.reply p stOk info)
    | .runs t ws => if ws = r.waits then none else some { t with cmdRuns := t.cmdRuns ++ [⟨p, ws⟩] }
  else if p.op = 0x0801 then (if s.budgetMet (p.fld 0 1) then some (gone.reply p stOk []) else none)
  else none

/-- The commands that have not replied go on; so do snapshots, handbacks, the RESUMEs that are due,
the claims of a catcher and the wipe of a refused module. -/
def cmdSettle (s : State) : State :=
  let s := s.cmdRuns.foldl (fun s r => if s.cmdRuns.contains r then (s.runSettle r).getD s else s) s
  let s := (List.range 4).foldl (fun s x => (s.snapBegin x).resumeSettle x) s
  s.handbackSettle.claimSettle.wipeStale

/-- Executes a packet (R431, R432). -/
def runPacket (s : State) (p : Packet) (clean genOk : Bool) (pass : Nat) : State :=
  match s.checkCmd p clean genOk with
  | some st => s.refuseCmd p st
  | none =>
    match s.cmdBody p pass with
    | .refused t st => t.refuseCmd p st
    | .ok t info => (t.acceptCmd p).reply p stOk info
    | .runs t ws =>
      let t := t.acceptCmd p
      let r : CmdRun := ⟨p, ws⟩
      let t := { t with cmdRuns := t.cmdRuns ++ [r] }
      (t.runSettle r).getD t

/-- A row of the command chapter: the next packet of an arrival, if it is the row's. -/
def command (s : State) (op : Nat) (a : Arrival) (pass : Nat := 0) : State :=
  match s.intake op a with
  | .idle t => t
  | .cmd p clean genOk t => t.runPacket p clean genOk pass

/-- A DOORBELL message (R436). -/
def doorbell (s : State) : State :=
  match s.takeMsg (fun m => msgKind m = 6) with
  | none => s
  | some (_, m, s) =>
    let slot := msgSlot m
    if s.slotState slot = slotRunning && msgGen m = s.fld .REC_JOB_GEN_GEN iod0 slot then
      s.notice slot 3 (leBytes 2 (msgSrc m) ++ leBytes 2 0 ++ leBytes 4 (field m 0x10 4))
    else s.incFld .CMD_CNT_DROP_COUNT iod0 0 0

end State

/-- SLOT_CREATE (R444). -/
def execSlotCreate (arr : Arrival) (s : State) : Out := .next (s.command 0x0101 arr)
/-- SLOT_DISABLE (R451). -/
def execSlotDisable (arr : Arrival) (s : State) : Out := .next (s.command 0x0102 arr)
/-- SLOT_STATUS (R438). -/
def execSlotStatus (arr : Arrival) (s : State) : Out := .next (s.command 0x0103 arr)
/-- PAT_LOAD (R151). -/
def execPatLoad (arr : Arrival) (s : State) : Out := .next (s.command 0x0201 arr)
/-- PAT_UNLOAD (R438). -/
def execPatUnload (arr : Arrival) (s : State) : Out := .next (s.command 0x0202 arr)
/-- PAT_LAUNCH (R444). -/
def execPatLaunch (arr : Arrival) (s : State) : Out := .next (s.command 0x0203 arr)
/-- CTX_RESUME (R165). -/
def execCtxResume (arr : Arrival) (s : State) : Out := .next (s.command 0x0204 arr)
/-- FRAME_GRANT (R527). -/
def execFrameGrant (arr : Arrival) (s : State) : Out := .next (s.command 0x0301 arr)
/-- FRAME_RELEASE (R527). -/
def execFrameRelease (arr : Arrival) (s : State) : Out := .next (s.command 0x0302 arr)
/-- QUOTA_SET (R259). -/
def execQuotaSet (arr : Arrival) (s : State) : Out := .next (s.command 0x0303 arr)
/-- SLOT_REG_WRITE (R439). -/
def execSlotRegWrite (arr : Arrival) (s : State) : Out := .next (s.command 0x0304 arr)
/-- STASH_PURGE (R203). -/
def execStashPurge (arr : Arrival) (s : State) : Out := .next (s.command 0x0305 arr)
/-- STEP_RATE (R230). -/
def execStepRate (arr : Arrival) (s : State) : Out := .next (s.command 0x0401 arr)
/-- GROUP_WRITE (R230). -/
def execGroupWrite (arr : Arrival) (s : State) : Out := .next (s.command 0x0402 arr)
/-- LSCALE_SET (R220). -/
def execLscaleSet (arr : Arrival) (s : State) : Out := .next (s.command 0x0403 arr)
/-- SKIP_NEXT (R238). -/
def execSkipNext (arr : Arrival) (s : State) : Out := .next (s.command 0x0404 arr)
/-- STEP_QUERY (R438). -/
def execStepQuery (arr : Arrival) (s : State) : Out := .next (s.command 0x0405 arr)
/-- SNAP_TAKE (R402). -/
def execSnapTake (arr : Arrival) (s : State) : Out := .next (s.command 0x0501 arr)
/-- SNAP_CONFIG (R438). -/
def execSnapConfig (arr : Arrival) (s : State) : Out := .next (s.command 0x0502 arr)
/-- SNAP_STATUS (R438). -/
def execSnapStatus (arr : Arrival) (s : State) : Out := .next (s.command 0x0503 arr)
/-- RING_FORM (R400). -/
def execRingForm (arr : Arrival) (s : State) : Out := .next (s.command 0x0601 arr)
/-- PORT_ROLE (R342). -/
def execPortRole (arr : Arrival) (s : State) : Out := .next (s.command 0x0602 arr)
/-- CATCH_TABLE (R411). -/
def execCatchTable (arr : Arrival) (s : State) : Out := .next (s.command 0x0603 arr)
/-- HANDBACK (R425). -/
def execHandback (arr : Arrival) (s : State) : Out := .next (s.command 0x0604 arr)
/-- JOIN (R426). -/
def execJoin (arr : Arrival) (s : State) : Out := .next (s.command 0x0605 arr)
/-- RING_STATUS (R438). -/
def execRingStatus (arr : Arrival) (s : State) : Out := .next (s.command 0x0606 arr)
/-- CSR_READ (R438). -/
def execCsrRead (arr : Arrival) (s : State) : Out := .next (s.command 0x0701 arr)
/-- CSR_WRITE (R438). -/
def execCsrWrite (arr : Arrival) (s : State) : Out := .next (s.command 0x0702 arr)
/-- SELFTEST (R438, R469): `pass` says which dies of the mask pass. -/
def execSelftest (arr : Arrival) (pass : BitVec 12) (s : State) : Out := .next (s.command 0x0703 arr pass.toNat)
/-- BUDGET_SET (R453). -/
def execBudgetSet (arr : Arrival) (s : State) : Out := .next (s.command 0x0801 arr)
/-- CAP_SET (R438). -/
def execCapSet (arr : Arrival) (s : State) : Out := .next (s.command 0x0802 arr)
/-- DIE_PARK (R438). -/
def execDiePark (arr : Arrival) (s : State) : Out := .next (s.command 0x0803 arr)
/-- ABORT_QUEUE (R448). -/
def execAbortQueue (arr : Arrival) (s : State) : Out := .next (s.command 0x0F01 arr)
/-- ABORT_SLOT (R448). -/
def execAbortSlot (arr : Arrival) (s : State) : Out := .next (s.command 0x0F02 arr)
/-- ABORT_CMD (R448). -/
def execAbortCmd (arr : Arrival) (s : State) : Out := .next (s.command 0x0F03 arr)

/-- DATAGRAM_DISCARD (R433): a datagram that is no command. -/
def execDatagramDiscard (s : State) : Out := .next (if s.mgmtUp then s.incFld .CMD_CNT_DROP_COUNT iod0 0 0 else s)

/-- SLQ_DB (R445, R454). -/
def execSlqDb (acc : Accessor) (slot : Fin 4) (v : Word64) (s : State) : Out :=
  .next (s.regWrite iod0 (isSup acc || s.hostAuth acc slot) fun s => some (s.writeDb slot v.toNat))

/-- DOORBELL (R436). -/
def execDoorbell (s : State) : Out := .next s.doorbell

/-- PEER_CMD_REPLY (R435): the supervisor of the sender takes the reply; the manual gives it no further effect. -/
def execPeerCmdReply (s : State) : Out :=
  .next (match s.takeMsg (fun m => msgKind m = 7 && (field m 0x14 1).testBit 0) with
    | some (_, _, t) => t
    | none => s)

end Sys2Proof.Machine
end

