-- ==== Sys2Proof/Machine/Access.lean ====
section
/-! DEFINITION. Memory accesses by physical address, register windows among them (R15, R28 to R38), transmits on the data ports (R489), and
what a tick of the reference timer does on an empty queue. -/

namespace Sys2Proof.Machine

/-- The authority that a requester has over registers (R35, R437): units have none. -/
def accessorOf : Requester → Option Accessor
  | .core h m => some (.core h m)
  | .supervisor => some .supervisor
  | _ => none

/-- An address lies in a register window (R28, R33). -/
def inCsr (a : Nat) : Bool :=
  match locOf a with
  | .csr _ _ => true
  | _ => false

namespace State

/-- A read by physical address: of a register as 64 aligned bits (R15), else of memory. -/
def readAt (s : State) (req : Requester) (a n : Nat) : State :=
  if !inCsr a then s.access (.read req a n)
  else match accessorOf req with
    | some acc => if n = 8 then s.csrLoad acc a else { s with resp := .busError }
    | none => { s with resp := .busError }

/-- A write by physical address. -/
def writeAt (s : State) (req : Requester) (a : Nat) (bs : List Byte) (tag : Nat) : State :=
  if !inCsr a then s.access (.write req a bs tag)
  else match accessorOf req with
    | some acc => if bs.length = 8 then s.csrStore acc a (leNat bs) else { s with resp := .busError }
    | none => { s with resp := .busError }

/-- The words of a transmit, in order (R489): the bytes, or whether a word was refused for its seal. -/
def portWords : List Nat → State → Option (List Byte) × Bool × State
  | [], s => (some [], false, s)
  | a :: rest, s =>
    let r := s.fetchWord .supervisor a
    if tagSealed r.1.tag then (none, true, r.2)
    else if tagPoison r.1.tag then (none, false, r.2)
    else let t := portWords rest r.2; (t.1.map (fun x => leBytes 32 r.1.data ++ x), t.2)

/-- A transmit on a data port (R489): one that reads a SEALED word is not sent. -/
def transmit (s : State) (port a n : Nat) : State :=
  let ws := wordsOf a n
  if !s.dieUp (iodDie port) || ws.any (fun w => s.judge .supervisor w != .ok) then s
  else
    match portWords ws s with
    | (some bs, _, s) => { s with out := .dataPort port ((bs.drop (a % 32)).take n) :: s.out }
    | (none, true, s) => let s := s.countBlocked; s.raise .EV_TS_BLOCK iod0 0 (s.fld .TS_CNT_BLOCK_COUNT iod0)
    | (none, false, s) => s

/-- A tick of the reference timer, 10 ns (R14): time passes, the carousels move, links send what they owe, and what waited for time or
for other work goes on (log entry 5). -/
def tick (s : State) : State :=
  let s := { s with now := s.now + 1 }
  let s := (List.range 8).foldl (fun s cd => s.carTick cd) s
  s.linkTick.digestSettle.creditTick.coolTick.svcSettle.resetSettle.cmdSettle

end State

/-- MEM_READ (R30, R37). -/
def execMemRead (req : Requester) (addr len : Nat) (s : State) : Out := .next (s.readAt req addr len)

/-- MEM_WRITE (R30, R38). -/
def execMemWrite (req : Requester) (addr : Nat) (data : List Byte) (tag : Byte) (s : State) : Out := .next (s.writeAt req addr data tag.toNat)

/-- DATA_PORT_TRANSMIT (R489). -/
def execDataPortTransmit (port : Fin 2) (addr len : Nat) (s : State) : Out := .next (s.transmit port addr len)

end Sys2Proof.Machine
end

