-- ==== Sys2Proof/Machine/Dispatch.lean ====
section
/-! DEFINITION. What each command does: one arm per constructor, each one call of that command's meaning. -/

namespace Sys2Proof.Machine

def exec (i : Instr) (s : State) : Host.Outcome State Fault Refusal :=
  match i with
  | .issue cd t => Sys2Proof.Machine.execIssue cd t s
  | .wait cd t => Sys2Proof.Machine.execWait cd t s
  | .waitSatisfied cd ctx t => Sys2Proof.Machine.execWaitSatisfied cd ctx t s
  | .salu cd t => Sys2Proof.Machine.execSalu cd t s
  | .br cd t => Sys2Proof.Machine.execBr cd t s
  | .post cd t => Sys2Proof.Machine.execPost cd t s
  | .fence cd t => Sys2Proof.Machine.execFence cd t s
  | .fenceComplete cd ctx t => Sys2Proof.Machine.execFenceComplete cd ctx t s
  | .signal cd t => Sys2Proof.Machine.execSignal cd t s
  | .cinc cd t => Sys2Proof.Machine.execCinc cd t s
  | .yield cd t => Sys2Proof.Machine.execYield cd t s
  | .endContext cd t => Sys2Proof.Machine.execEnd cd t s
  | .cset cd t => Sys2Proof.Machine.execCset cd t s
  | .csetEntryEffect cd arr => Sys2Proof.Machine.execCsetEntryEffect cd arr s
  | .add cd t => Sys2Proof.Machine.execAdd cd t s
  | .sub cd t => Sys2Proof.Machine.execSub cd t s
  | .mul cd t => Sys2Proof.Machine.execMul cd t s
  | .fma cd t => Sys2Proof.Machine.execFma cd t s
  | .max cd t => Sys2Proof.Machine.execMax cd t s
  | .min cd t => Sys2Proof.Machine.execMin cd t s
  | .cmp cd t => Sys2Proof.Machine.execCmp cd t s
  | .sel cd t => Sys2Proof.Machine.execSel cd t s
  | .cvt cd t => Sys2Proof.Machine.execCvt cd t s
  | .func cd t => Sys2Proof.Machine.execFunc cd t s
  | .rsum cd t => Sys2Proof.Machine.execRsum cd t s
  | .rmax cd t => Sys2Proof.Machine.execRmax cd t s
  | .perm cd t => Sys2Proof.Machine.execPerm cd t s
  | .ticketRelease cd unit => Sys2Proof.Machine.execTicketRelease cd unit s
  | .resTile cd arr => Sys2Proof.Machine.execResTile cd arr s
  | .holdLoad cd arr => Sys2Proof.Machine.execHoldLoad cd arr s
  | .holdPass cd arr => Sys2Proof.Machine.execHoldPass cd arr s
  | .arrayCommandComplete cd arr load => Sys2Proof.Machine.execArrayCommandComplete cd arr load s
  | .arrAcbRgnBaseWrite acc cd arr q v => Sys2Proof.Machine.execArrAcbRgnBaseWrite acc cd arr q v s
  | .arrAcbRgnWgmWrite acc cd arr q v => Sys2Proof.Machine.execArrAcbRgnWgmWrite acc cd arr q v s
  | .arrLsSeedWrite acc cd arr v => Sys2Proof.Machine.execArrLsSeedWrite acc cd arr v s
  | .arrParkRequest acc cd arr v => Sys2Proof.Machine.execArrParkRequest acc cd arr v s
  | .arrayPark cd arr => Sys2Proof.Machine.execArrayPark cd arr s
  | .arrayWakeComplete cd arr => Sys2Proof.Machine.execArrayWakeComplete cd arr s
  | .arrFaultClear acc cd arr v => Sys2Proof.Machine.execArrFaultClear acc cd arr v s
  | .feedSub cd arr b => Sys2Proof.Machine.execFeedSub cd arr b s
  | .feedPriv cd arr b => Sys2Proof.Machine.execFeedPriv cd arr b s
  | .inject cd g => Sys2Proof.Machine.execInject cd g s
  | .capture cd g => Sys2Proof.Machine.execCapture cd g s
  | .tileDeclare cd st => Sys2Proof.Machine.execTileDeclare cd st s
  | .tileArm cd tk => Sys2Proof.Machine.execTileArm cd tk s
  | .flitInject cd st => Sys2Proof.Machine.execFlitInject cd st s
  | .slotReserve cd st => Sys2Proof.Machine.execSlotReserve cd st s
  | .tileRideEnd cd tk => Sys2Proof.Machine.execTileRideEnd cd tk s
  | .armStall cd tk => Sys2Proof.Machine.execArmStall cd tk s
  | .bobbinSlotReady cd arr b k => Sys2Proof.Machine.execBobbinSlotReady cd arr b k s
  | .bobbinPassEnd cd arr b => Sys2Proof.Machine.execBobbinPassEnd cd arr b s
  | .fdrFaultClear acc cd arr b v => Sys2Proof.Machine.execFdrFaultClear acc cd arr b v s
  | .carFaultClear acc cd v => Sys2Proof.Machine.execCarFaultClear acc cd v s
  | .vld cd ve => Sys2Proof.Machine.execVld cd ve s
  | .vst cd ve => Sys2Proof.Machine.execVst cd ve s
  | .scalePick cd ve => Sys2Proof.Machine.execScalePick cd ve s
  | .ftabLoad cd ve => Sys2Proof.Machine.execFtabLoad cd ve s
  | .vmemComplete cd ve => Sys2Proof.Machine.execVmemComplete cd ve s
  | .veSrSeedWrite acc cd ve v => Sys2Proof.Machine.execVeSrSeedWrite acc cd ve v s
  | .stashPurgeWrite acc cd v => Sys2Proof.Machine.execStashPurgeWrite acc cd v s
  | .numStepWrite acc slot v => Sys2Proof.Machine.execNumStepWrite acc slot v s
  | .voteLocalReady slot => Sys2Proof.Machine.execVoteLocalReady slot s
  | .voteGather => Sys2Proof.Machine.execVoteGather s
  | .voteResult => Sys2Proof.Machine.execVoteResult s
  | .voteTimeout slot => Sys2Proof.Machine.execVoteTimeout slot s
  | .updateComplete slot => Sys2Proof.Machine.execUpdateComplete slot s
  | .memRead req addr len => Sys2Proof.Machine.execMemRead req addr len s
  | .memWrite req addr data tag => Sys2Proof.Machine.execMemWrite req addr data tag s
  | .zeroingComplete tier cd index => Sys2Proof.Machine.execZeroingComplete tier cd index s
  | .scrubWord die => Sys2Proof.Machine.execScrubWord die s
  | .memFrameDataWrite acc v => Sys2Proof.Machine.execMemFrameDataWrite acc v s
  | .sramClassWrite acc cd k v => Sys2Proof.Machine.execSramClassWrite acc cd k v s
  | .rawRead acc ctl => Sys2Proof.Machine.execRawRead acc ctl s
  | .rawWrite acc ctl => Sys2Proof.Machine.execRawWrite acc ctl s
  | .stream cd se ch => Sys2Proof.Machine.execStream cd se ch s
  | .streamFault cd se ch => Sys2Proof.Machine.execStreamFault cd se ch s
  | .streamEnd cd se ch => Sys2Proof.Machine.execStreamEnd cd se ch s
  | .seChResume acc cd se ch => Sys2Proof.Machine.execSeChResume acc cd se ch s
  | .seChFail acc cd se ch => Sys2Proof.Machine.execSeChFail acc cd se ch s
  | .faultLimitExpiry cd se ch => Sys2Proof.Machine.execFaultLimitExpiry cd se ch s
  | .poolStall cd pool => Sys2Proof.Machine.execPoolStall cd pool s
  | .seSrSeedWrite acc cd se v => Sys2Proof.Machine.execSeSrSeedWrite acc cd se v s
  | .xltInvalWrite acc slot v => Sys2Proof.Machine.execXltInvalWrite acc slot v s
  | .xltInvalDone slot => Sys2Proof.Machine.execXltInvalDone slot s
  | .crossingError cd xing => Sys2Proof.Machine.execCrossingError cd xing s
  | .stretchPeriod die carousel => Sys2Proof.Machine.execStretchPeriod die carousel s
  | .clkStepWrite acc die v => Sys2Proof.Machine.execClkStepWrite acc die v s
  | .supplyChangeDone die => Sys2Proof.Machine.execSupplyChangeDone die s
  | .glideComplete die => Sys2Proof.Machine.execGlideComplete die s
  | .stopHalt die => Sys2Proof.Machine.execStopHalt die s
  | .stopRestart die => Sys2Proof.Machine.execStopRestart die s
  | .hlEnWrite acc port v => Sys2Proof.Machine.execHlEnWrite acc port v s
  | .hlRoleChange port role => Sys2Proof.Machine.execHlRoleChange port role s
  | .sealOkWrite acc port on => Sys2Proof.Machine.execSealOkWrite acc port on s
  | .hlRetrain acc port => Sys2Proof.Machine.execHlRetrain acc port s
  | .detectComplete port driven txGnd rxGnd txSup rxSup txOpen rxOpen => Sys2Proof.Machine.execDetectComplete port driven txGnd rxGnd txSup rxSup txOpen rxOpen s
  | .equalizeComplete port => Sys2Proof.Machine.execEqualizeComplete port s
  | .alignComplete port order inverted => Sys2Proof.Machine.execAlignComplete port order inverted s
  | .trainingTimeout port => Sys2Proof.Machine.execTrainingTimeout port s
  | .crossedRecheck port => Sys2Proof.Machine.execCrossedRecheck port s
  | .laneLossOfLock port lane => Sys2Proof.Machine.execLaneLossOfLock port lane s
  | .laneErrorRate port lane => Sys2Proof.Machine.execLaneErrorRate port lane s
  | .fastRetrainComplete port => Sys2Proof.Machine.execFastRetrainComplete port s
  | .flitReceive port flit corrected bad => Sys2Proof.Machine.execFlitReceive port flit corrected bad s
  | .frameReceive port => Sys2Proof.Machine.execFrameReceive port s
  | .holdLimitExpiry => Sys2Proof.Machine.execHoldLimitExpiry s
  | .heartbeatSend port => Sys2Proof.Machine.execHeartbeatSend port s
  | .heartbeat => Sys2Proof.Machine.execHeartbeat s
  | .heartbeatLoss port => Sys2Proof.Machine.execHeartbeatLoss port s
  | .aliveLimitExpiry => Sys2Proof.Machine.execAliveLimitExpiry s
  | .hlmAlive acc v => Sys2Proof.Machine.execHlmAlive acc v s
  | .ident => Sys2Proof.Machine.execIdent s
  | .doorbell => Sys2Proof.Machine.execDoorbell s
  | .peerCmdReply => Sys2Proof.Machine.execPeerCmdReply s
  | .allReduce re slot => Sys2Proof.Machine.execAllReduce re slot s
  | .reduceScatter re slot => Sys2Proof.Machine.execReduceScatter re slot s
  | .allGather re slot => Sys2Proof.Machine.execAllGather re slot s
  | .allToAll re slot => Sys2Proof.Machine.execAllToAll re slot s
  | .permute re slot => Sys2Proof.Machine.execPermute re slot s
  | .send re slot => Sys2Proof.Machine.execSend re slot s
  | .recv re slot => Sys2Proof.Machine.execRecv re slot s
  | .shift re slot => Sys2Proof.Machine.execShift re slot s
  | .barrier re slot => Sys2Proof.Machine.execBarrier re slot s
  | .reFrameConsume re slot => Sys2Proof.Machine.execReFrameConsume re slot s
  | .collectiveEnd re slot index => Sys2Proof.Machine.execCollectiveEnd re slot index s
  | .collectiveTimeout re slot => Sys2Proof.Machine.execCollectiveTimeout re slot s
  | .credit => Sys2Proof.Machine.execCredit s
  | .count => Sys2Proof.Machine.execCount s
  | .barrierGather => Sys2Proof.Machine.execBarrierGather s
  | .barrierResult => Sys2Proof.Machine.execBarrierResult s
  | .noiseGather => Sys2Proof.Machine.execNoiseGather s
  | .noiseResult => Sys2Proof.Machine.execNoiseResult s
  | .reListCtlWrite acc re slot v => Sys2Proof.Machine.execReListCtlWrite acc re slot v s
  | .reSrSeedWrite acc re v => Sys2Proof.Machine.execReSrSeedWrite acc re v s
  | .yieldForced cd => Sys2Proof.Machine.execYieldForced cd s
  | .claim => Sys2Proof.Machine.execClaim s
  | .claimWindowExpiry => Sys2Proof.Machine.execClaimWindowExpiry s
  | .accept => Sys2Proof.Machine.execAccept s
  | .declare => Sys2Proof.Machine.execDeclare s
  | .catchFence => Sys2Proof.Machine.execCatchFence s
  | .swingComplete => Sys2Proof.Machine.execSwingComplete s
  | .recover => Sys2Proof.Machine.execRecover s
  | .quietReached slot => Sys2Proof.Machine.execQuietReached slot s
  | .fillReq => Sys2Proof.Machine.execFillReq s
  | .fillFrame => Sys2Proof.Machine.execFillFrame s
  | .digest => Sys2Proof.Machine.execDigest s
  | .catchResume => Sys2Proof.Machine.execCatchResume s
  | .mirrorFrame => Sys2Proof.Machine.execMirrorFrame s
  | .mirrorDone => Sys2Proof.Machine.execMirrorDone s
  | .snapshotCopyComplete slot => Sys2Proof.Machine.execSnapshotCopyComplete slot s
  | .snapshotDrainComplete slot => Sys2Proof.Machine.execSnapshotDrainComplete slot s
  | .restoreComplete slot => Sys2Proof.Machine.execRestoreComplete slot s
  | .datagramDiscard => Sys2Proof.Machine.execDatagramDiscard s
  | .slqDb acc slot v => Sys2Proof.Machine.execSlqDb acc slot v s
  | .slotCreate arr => Sys2Proof.Machine.execSlotCreate arr s
  | .slotDisable arr => Sys2Proof.Machine.execSlotDisable arr s
  | .slotStatus arr => Sys2Proof.Machine.execSlotStatus arr s
  | .patLoad arr => Sys2Proof.Machine.execPatLoad arr s
  | .patUnload arr => Sys2Proof.Machine.execPatUnload arr s
  | .patLaunch arr => Sys2Proof.Machine.execPatLaunch arr s
  | .ctxResume arr => Sys2Proof.Machine.execCtxResume arr s
  | .frameGrant arr => Sys2Proof.Machine.execFrameGrant arr s
  | .frameRelease arr => Sys2Proof.Machine.execFrameRelease arr s
  | .quotaSet arr => Sys2Proof.Machine.execQuotaSet arr s
  | .slotRegWrite arr => Sys2Proof.Machine.execSlotRegWrite arr s
  | .stashPurge arr => Sys2Proof.Machine.execStashPurge arr s
  | .stepRate arr => Sys2Proof.Machine.execStepRate arr s
  | .groupWrite arr => Sys2Proof.Machine.execGroupWrite arr s
  | .lscaleSet arr => Sys2Proof.Machine.execLscaleSet arr s
  | .skipNext arr => Sys2Proof.Machine.execSkipNext arr s
  | .stepQuery arr => Sys2Proof.Machine.execStepQuery arr s
  | .snapTake arr => Sys2Proof.Machine.execSnapTake arr s
  | .snapConfig arr => Sys2Proof.Machine.execSnapConfig arr s
  | .snapStatus arr => Sys2Proof.Machine.execSnapStatus arr s
  | .ringForm arr => Sys2Proof.Machine.execRingForm arr s
  | .portRole arr => Sys2Proof.Machine.execPortRole arr s
  | .catchTable arr => Sys2Proof.Machine.execCatchTable arr s
  | .handback arr => Sys2Proof.Machine.execHandback arr s
  | .join arr => Sys2Proof.Machine.execJoin arr s
  | .ringStatus arr => Sys2Proof.Machine.execRingStatus arr s
  | .csrRead arr => Sys2Proof.Machine.execCsrRead arr s
  | .csrWrite arr => Sys2Proof.Machine.execCsrWrite arr s
  | .selftest arr pass => Sys2Proof.Machine.execSelftest arr pass s
  | .budgetSet arr => Sys2Proof.Machine.execBudgetSet arr s
  | .capSet arr => Sys2Proof.Machine.execCapSet arr s
  | .diePark arr => Sys2Proof.Machine.execDiePark arr s
  | .abortQueue arr => Sys2Proof.Machine.execAbortQueue arr s
  | .abortSlot arr => Sys2Proof.Machine.execAbortSlot arr s
  | .abortCmd arr => Sys2Proof.Machine.execAbortCmd arr s
  | .powerGood serving rec certs keys => Sys2Proof.Machine.execPowerGood serving rec certs keys s
  | .stageBoundExpiry => Sys2Proof.Machine.execStageBoundExpiry s
  | .stackRetrainComplete stack pass => Sys2Proof.Machine.execStackRetrainComplete stack pass s
  | .capRaise => Sys2Proof.Machine.execCapRaise s
  | .supCoreMark acc v => Sys2Proof.Machine.execSupCoreMark acc v s
  | .watchdogKick acc => Sys2Proof.Machine.execWatchdogKick acc s
  | .watchdogNmi => Sys2Proof.Machine.execWatchdogNmi s
  | .watchdogReset => Sys2Proof.Machine.execWatchdogReset s
  | .supSramUe => Sys2Proof.Machine.execSupSramUe s
  | .fwWrite acc => Sys2Proof.Machine.execFwWrite acc s
  | .fwWriteComplete readback => Sys2Proof.Machine.execFwWriteComplete readback s
  | .fwTrial acc => Sys2Proof.Machine.execFwTrial acc s
  | .fwReboot acc => Sys2Proof.Machine.execFwReboot acc s
  | .fwFloor acc => Sys2Proof.Machine.execFwFloor acc s
  | .trialConfirm => Sys2Proof.Machine.execTrialConfirm s
  | .sensorSample index value raw => Sys2Proof.Machine.execSensorSample index value raw s
  | .snsFaultClear acc v => Sys2Proof.Machine.execSnsFaultClear acc v s
  | .quote acc => Sys2Proof.Machine.execQuote acc s
  | .quoteComplete => Sys2Proof.Machine.execQuoteComplete s
  | .polInstall acc => Sys2Proof.Machine.execPolInstall acc s
  | .polReset acc => Sys2Proof.Machine.execPolReset acc s
  | .tsRelease acc slot => Sys2Proof.Machine.execTsRelease acc slot s
  | .tsReleaseComplete slot => Sys2Proof.Machine.execTsReleaseComplete slot s
  | .tsLogAck acc v => Sys2Proof.Machine.execTsLogAck acc v s
  | .eventRaise => Sys2Proof.Machine.execEventRaise s
  | .evrFlush acc => Sys2Proof.Machine.execEvrFlush acc s
  | .evrFlushComplete => Sys2Proof.Machine.execEvrFlushComplete s
  | .evrClear acc => Sys2Proof.Machine.execEvrClear acc s
  | .evrEraseComplete => Sys2Proof.Machine.execEvrEraseComplete s
  | .inputReversed input => Sys2Proof.Machine.execInputReversed input s
  | .inputOvervoltage input => Sys2Proof.Machine.execInputOvervoltage input s
  | .inputOvercurrent input => Sys2Proof.Machine.execInputOvercurrent input s
  | .stageReclose input => Sys2Proof.Machine.execStageReclose input s
  | .inputLost input => Sys2Proof.Machine.execInputLost input s
  | .inputRestored input => Sys2Proof.Machine.execInputRestored input s
  | .dieBootLockWrite acc die v => Sys2Proof.Machine.execDieBootLockWrite acc die v s
  | .csrRegisterWrite acc addr v => Sys2Proof.Machine.execCsrRegisterWrite acc addr v s
  | .moduleReset => Sys2Proof.Machine.execModuleReset s
  | .selfTestComplete die pass => Sys2Proof.Machine.execSelfTestComplete die pass s
  | .firstTrainingComplete stack pass => Sys2Proof.Machine.execFirstTrainingComplete stack pass s
  | .dataPortTransmit port addr len => Sys2Proof.Machine.execDataPortTransmit port addr len s
  | .operatingSecond => Sys2Proof.Machine.execOperatingSecond s

end Sys2Proof.Machine
end

