-- ==== Sys2Proof/Safety.lean ====
section
/-! DEFINITION. What claims call a safe step and a safe run: no step of it ends in a fault or a refusal; what every state that a run
reaches satisfies; and what claims say of a command that completes. -/

namespace Sys2Proof.Machine

/-- A step goes on. -/
def State.goesOn (s : State) : Prop := ∃ t, step s = .next t

/-- `n` steps, as long as they go on. -/
def State.after : Nat → State → Option State
  | 0, s => some s
  | n + 1, s =>
    match step s with
    | .next t => State.after n t
    | _ => none

/-- A run of `n` steps is safe. -/
def State.safeFor (n : Nat) (s : State) : Prop := (State.after n s).isSome

/-- The invariant of the module's storage: the register file, the memory and the side fields are in canonical form, and every
register field holds a value of its width (R15, R17). -/
structure State.Inv (s : State) : Prop where
  csr : Tbl.wf (fun k => Fld.resetOf k.f k.d) s.csr = true
  fits : ∀ (F : Fld) (d u i : Nat), s.fld F d u i < 2 ^ F.width
  mem : s.mem.wf = true
  side : Tbl.wf (fun _ => 0) s.side = true

/-- A command is executed, and the state after it is as `P` says. -/
def completes (c : Instr) (s : State) (P : State → Prop) : Prop := ∃ t, exec c s = .next t ∧ P t

/-! Frames: what a command leaves as it was. -/

/-- Every byte of memory reads as before. -/
def State.keepsMem (s t : State) : Prop := ∀ a, t.mem.read a = s.mem.read a

/-- Every register field reads as before, but for those listed as field, die, unit and index. -/
def State.keepsRegs (s t : State) (l : List (Fld × Nat × Nat × Nat)) : Prop :=
  ∀ (F : Fld) (d u i : Nat), (F, d, u, i) ∉ l → t.fld F d u i = s.fld F d u i

/-- Two states are the same but for the parts that `forget` blanks. -/
def State.sameBut (s t : State) (forget : State → State) : Prop := forget t = forget s

/-- Nothing changes but register fields, the answer to the register write and the events on their way. -/
def State.keepsRest (s t : State) : Prop := s.sameBut t fun x => { x with csr := [], resp := .none, events := [] }

/-- A register write is acknowledged, and nothing changes but the listed register fields. -/
def State.wrote (s t : State) (l : List (Fld × Nat × Nat × Nat)) : Prop :=
  s.keepsRegs t l ∧ t.resp = .written ∧ s.sameBut t fun x => { x with csr := [], resp := .none }

/-- A packet has crossed the mesh, and nothing else happened: the mesh counters and the crossings alone may have changed. -/
def State.onlyMesh (s t : State) : Prop :=
  (∀ (F : Fld) (d u i : Nat), F ≠ .MESH_CNT_FLITS_COUNT → F ≠ .MESH_PEAK_PEAK → t.fld F d u i = s.fld F d u i) ∧
  s.sameBut t fun x => { x with csr := [], crossings := [] }

/-- The array takes work, its die runs, and a command of this KIND stands at the head of its queue, with the given rest (R80, R85). -/
def State.arrHead (s : State) (cd n kind : Nat) (c : Cmd) (rest : List ArrEntry) : Prop :=
  s.halted cd = false ∧ s.arrAwake cd n = true ∧ (s.array cd n).queue = .cmd c :: rest ∧ (arrFields c).kind = kind

/-- The oldest events on their way are those of before, and one of this code and die follows them. -/
def State.raised (s t : State) (e : Ev) (die : Nat) : Prop := ∃ x, t.events = s.events ++ [x] ∧ x.code = e.code ∧ x.die = die

/-- A die's running context stands at an instruction of this OP, which may issue in beat `t` (R153, R162, R166). -/
def State.stands (s : State) (cd t op : Nat) (f : Fetch) : Prop :=
  s.halted cd = false ∧ s.fetchAt cd t = some (.inl f) ∧ f.op = op

/-- The register fields of a sequencer that an issue writes: the counters, the program counter and the states of its contexts. -/
def Fld.byIssue : Fld → Bool
  | .SEQ_CNT_ISSUE_COUNT | .SEQ_CNT_LATE_COUNT | .SEQ_CNT_LATE_STRETCH_COUNT | .SEQ_CNT_QFULL_COUNT | .SEQ_CNT_TKT_STALL_COUNT | .SEQ_CTX_PC_PC
  | .SEQ_CTX_STATE_STALL | .SEQ_CTX_STATE_STATE | .SEQ_STATUS_IDLE | .SEQ_STATUS_RUNNING => true
  | _ => false

/-- The context has issued its instruction, counted it and stands at `pc`; no other context's program counter or count moves, and
no register outside the sequencer changes. -/
def State.issuesTo (s u : State) (cd : Nat) (f : Fetch) (pc : Nat) : Prop :=
  u.fld .SEQ_CTX_PC_PC cd 0 f.c = pc % 2 ^ 32 ∧ u.fld .SEQ_CNT_ISSUE_COUNT cd 0 f.c = (s.fld .SEQ_CNT_ISSUE_COUNT cd 0 f.c + 1) % 2 ^ 64 ∧
  (∀ d x i, (d, x, i) ≠ (cd, 0, f.c) → u.fld .SEQ_CTX_PC_PC d x i = s.fld .SEQ_CTX_PC_PC d x i ∧
    u.fld .SEQ_CNT_ISSUE_COUNT d x i = s.fld .SEQ_CNT_ISSUE_COUNT d x i) ∧
  ∀ F : Fld, F.byIssue = false → ∀ d x i, u.fld F d x i = s.fld F d x i

/-- The row writes a register: the die of the register, and whether the accessor has the authority for it (R18). -/
def State.writeOf (s : State) : Instr → Option (Nat × Bool)
  | .arrAcbRgnBaseWrite acc cd _ _ _ => some (cd, isSup acc)
  | .arrAcbRgnWgmWrite acc cd _ _ _ => some (cd, isSup acc)
  | .arrLsSeedWrite acc cd _ _ => some (cd, isSup acc)
  | .arrParkRequest acc cd _ _ => some (cd, isSup acc)
  | .arrFaultClear acc cd _ _ => some (cd, isSup acc)
  | .fdrFaultClear acc cd _ _ _ => some (cd, isSup acc)
  | .carFaultClear acc cd _ => some (cd, isSup acc)
  | .clkStepWrite acc die _ => some (regionDie die, isSup acc)
  | .reListCtlWrite acc re _ _ => some (iodDie re, isSup acc)
  | .reSrSeedWrite acc re _ => some (iodDie re, s.seedAllowed acc re)
  | .slqDb acc slot _ => some (iod0, isSup acc || s.hostAuth acc slot)
  | .numStepWrite acc _ _ => some (mh0, isSup acc)
  | .dieBootLockWrite acc die _ => some (dieOf die, isSup acc)
  | .hlEnWrite acc port _ => some (portDie port, isSup acc)
  | .sealOkWrite acc port _ => some (portDie port, isSup acc)
  | .hlRetrain acc port => some (portDie port, isSup acc)
  | .hlmAlive acc _ => some (iod0, isSup acc)
  | .quote acc => some (iod0, isSup acc)
  | .polInstall acc => some (iod0, isSup acc)
  | .polReset acc => some (iod0, isSup acc)
  | .tsRelease acc slot => some (iod0, isSup acc || s.hostAuth acc slot)
  | .tsLogAck acc _ => some (iod0, isSup acc)
  | .memFrameDataWrite acc _ => some (mh0, isSup acc)
  | .sramClassWrite acc cd _ _ => some (cd, isSup acc)
  | .rawRead acc ctl => some ((rawBlock ctl).1, isSup acc)
  | .rawWrite acc ctl => some ((rawBlock ctl).1, isSup acc)
  | .snsFaultClear acc _ => some (iod0, isSup acc)
  | .evrFlush acc => some (iod0, isSup acc)
  | .evrClear acc => some (iod0, isSup acc)
  | .seChResume acc cd se ch => some (cd, s.chWriter acc cd se ch)
  | .seChFail acc cd se ch => some (cd, s.chWriter acc cd se ch)
  | .seSrSeedWrite acc cd _ _ => some (cd, isSup acc)
  | .xltInvalWrite acc slot _ => some (iod0, isSup acc || s.hostAuth acc slot)
  | .stashPurgeWrite acc cd _ => some (cd, isSup acc || (s.authSlot acc).isSome)
  | .supCoreMark acc _ => some (iod0, isMachine acc)
  | .watchdogKick acc => some (iod0, isSup acc)
  | .fwWrite acc => some (iod0, isSup acc)
  | .fwTrial acc => some (iod0, isSup acc)
  | .fwReboot acc => some (iod0, isSup acc)
  | .fwFloor acc => some (iod0, isSup acc)
  | .veSrSeedWrite acc cd _ _ => some (cd, isSup acc)
  | _ => none


/-- The row is an event inside a die, which does nothing while the islands of the die stand still (R332, R337). -/
def eventDie : Instr → Option Nat
  | .issue cd _ => some cd
  | .wait cd _ => some cd
  | .waitSatisfied cd _ _ => some cd
  | .salu cd _ => some cd
  | .br cd _ => some cd
  | .post cd _ => some cd
  | .fence cd _ => some cd
  | .fenceComplete cd _ _ => some cd
  | .signal cd _ => some cd
  | .cinc cd _ => some cd
  | .yield cd _ => some cd
  | .endContext cd _ => some cd
  | .cset cd _ => some cd
  | .csetEntryEffect cd _ => some cd
  | .add cd _ => some cd
  | .sub cd _ => some cd
  | .mul cd _ => some cd
  | .fma cd _ => some cd
  | .max cd _ => some cd
  | .min cd _ => some cd
  | .cmp cd _ => some cd
  | .sel cd _ => some cd
  | .cvt cd _ => some cd
  | .func cd _ => some cd
  | .rsum cd _ => some cd
  | .rmax cd _ => some cd
  | .perm cd _ => some cd
  | .ticketRelease cd _ => some cd
  | .resTile cd _ => some cd
  | .holdLoad cd _ => some cd
  | .holdPass cd _ => some cd
  | .arrayCommandComplete cd _ _ => some cd
  | .arrayPark cd _ => some cd
  | .arrayWakeComplete cd _ => some cd
  | .feedSub cd _ _ => some cd
  | .feedPriv cd _ _ => some cd
  | .inject cd _ => some cd
  | .capture cd _ => some cd
  | .tileDeclare cd _ => some cd
  | .tileArm cd _ => some cd
  | .flitInject cd _ => some cd
  | .slotReserve cd _ => some cd
  | .tileRideEnd cd _ => some cd
  | .bobbinSlotReady cd _ _ _ => some cd
  | .bobbinPassEnd cd _ _ => some cd
  | .vld cd _ => some cd
  | .vst cd _ => some cd
  | .scalePick cd _ => some cd
  | .ftabLoad cd _ => some cd
  | .vmemComplete cd _ => some cd
  | .stream cd _ _ => some cd
  | .streamFault cd _ _ => some cd
  | .streamEnd cd _ _ => some cd
  | .stretchPeriod die _ => some (regionDie die)
  | _ => none

/-- The row reads and writes no memory: it changes registers, queues and other state of the dies alone. -/
def touchesNoMemory : Instr → Bool
  | .waitSatisfied _ _ _ => true
  | .fenceComplete _ _ _ => true
  | .ticketRelease _ _ => true
  | .arrAcbRgnBaseWrite _ _ _ _ _ => true
  | .arrAcbRgnWgmWrite _ _ _ _ _ => true
  | .arrLsSeedWrite _ _ _ _ => true
  | .arrParkRequest _ _ _ _ => true
  | .arrayPark _ _ => true
  | .arrayWakeComplete _ _ => true
  | .arrFaultClear _ _ _ _ => true
  | .tileArm _ _ => true
  | .slotReserve _ _ => true
  | .tileRideEnd _ _ => true
  | .armStall _ _ => true
  | .fdrFaultClear _ _ _ _ _ => true
  | .carFaultClear _ _ _ => true
  | .veSrSeedWrite _ _ _ _ => true
  | .numStepWrite _ _ _ => true
  | .voteGather => true
  | .voteResult => true
  | .voteTimeout _ => true
  | .memFrameDataWrite _ _ => true
  | .sramClassWrite _ _ _ _ => true
  | .poolStall _ _ => true
  | .seSrSeedWrite _ _ _ _ => true
  | .xltInvalWrite _ _ _ => true
  | .xltInvalDone _ => true
  | .stretchPeriod _ _ => true
  | .clkStepWrite _ _ _ => true
  | .supplyChangeDone _ => true
  | .glideComplete _ => true
  | .stopHalt _ => true
  | .hlEnWrite _ _ _ => true
  | .hlRoleChange _ _ => true
  | .sealOkWrite _ _ _ => true
  | .hlRetrain _ _ => true
  | .detectComplete _ _ _ _ _ _ _ _ => true
  | .equalizeComplete _ => true
  | .alignComplete _ _ _ => true
  | .trainingTimeout _ => true
  | .crossedRecheck _ => true
  | .laneLossOfLock _ _ => true
  | .laneErrorRate _ _ => true
  | .fastRetrainComplete _ => true
  | .flitReceive _ _ _ _ => true
  | .holdLimitExpiry => true
  | .heartbeatSend _ => true
  | .heartbeat => true
  | .heartbeatLoss _ => true
  | .aliveLimitExpiry => true
  | .hlmAlive _ _ => true
  | .ident => true
  | .peerCmdReply => true
  | .collectiveTimeout _ _ => true
  | .reListCtlWrite _ _ _ _ => true
  | .reSrSeedWrite _ _ _ => true
  | .claim => true
  | .accept => true
  | .declare => true
  | .mirrorFrame => true
  | .mirrorDone => true
  | .datagramDiscard => true
  | .slqDb _ _ _ => true
  | .powerGood _ _ _ _ => true
  | .stageBoundExpiry => true
  | .stackRetrainComplete _ _ => true
  | .capRaise => true
  | .supCoreMark _ _ => true
  | .watchdogKick _ => true
  | .watchdogNmi => true
  | .fwWrite _ => true
  | .fwTrial _ => true
  | .fwFloor _ => true
  | .trialConfirm => true
  | .snsFaultClear _ _ => true
  | .quote _ => true
  | .quoteComplete => true
  | .polReset _ => true
  | .tsRelease _ _ => true
  | .tsLogAck _ _ => true
  | .eventRaise => true
  | .evrFlush _ => true
  | .evrFlushComplete => true
  | .evrClear _ => true
  | .evrEraseComplete => true
  | .inputReversed _ => true
  | .inputOvervoltage _ => true
  | .inputOvercurrent _ => true
  | .stageReclose _ => true
  | .inputLost _ => true
  | .inputRestored _ => true
  | .moduleReset => true
  | .selfTestComplete _ _ => true
  | .firstTrainingComplete _ _ => true
  | .operatingSecond => true
  | _ => false

/-! The command packets (R430 to R447). -/

/-- The command row of an arrival: its opcode and the arrival. -/
def commandRow : Instr → Option (Nat × Arrival)
  | .slotCreate a => some (0x0101, a) | .slotDisable a => some (0x0102, a) | .slotStatus a => some (0x0103, a)
  | .patLoad a => some (0x0201, a) | .patUnload a => some (0x0202, a) | .patLaunch a => some (0x0203, a) | .ctxResume a => some (0x0204, a)
  | .frameGrant a => some (0x0301, a) | .frameRelease a => some (0x0302, a) | .quotaSet a => some (0x0303, a)
  | .slotRegWrite a => some (0x0304, a) | .stashPurge a => some (0x0305, a)
  | .stepRate a => some (0x0401, a) | .groupWrite a => some (0x0402, a) | .lscaleSet a => some (0x0403, a)
  | .skipNext a => some (0x0404, a) | .stepQuery a => some (0x0405, a)
  | .snapTake a => some (0x0501, a) | .snapConfig a => some (0x0502, a) | .snapStatus a => some (0x0503, a)
  | .ringForm a => some (0x0601, a) | .portRole a => some (0x0602, a) | .catchTable a => some (0x0603, a)
  | .handback a => some (0x0604, a) | .join a => some (0x0605, a) | .ringStatus a => some (0x0606, a)
  | .csrRead a => some (0x0701, a) | .csrWrite a => some (0x0702, a) | .selftest a _ => some (0x0703, a)
  | .budgetSet a => some (0x0801, a) | .capSet a => some (0x0802, a) | .diePark a => some (0x0803, a)
  | .abortQueue a => some (0x0F01, a) | .abortSlot a => some (0x0F02, a) | .abortCmd a => some (0x0F03, a)
  | _ => none

/-- The kept reply that answers a retry of a management packet (R434). -/
def State.keptFor (s : State) (src tag : Nat) : Option KeptReply :=
  s.keptReplies.find? (fun k => k.src == src && k.tag == tag && decide (s.now ≤ k.sent + secTicks))

/-- A management datagram offers a packet of this opcode that no kept reply answers and that passes every check of R432 before the
opcode's own conditions (R433, R434). -/
def State.offers (s : State) (op src : Nat) (bs : List Byte) (p : Packet) : Prop :=
  s.mgmtUp = true ∧ bs.length = 64 ∧ p = packetOf bs (.mgmt src) ∧ p.op = op ∧ s.keptFor src p.tag = none ∧
  s.checkCmd p (headClean bs) true = none

/-- The replies that a management source gets for an executed packet, newest first: the final one, which is kept for a retry, and
before it ST_ACCEPTED where EARLY asks for it (R431, R434). -/
def State.answers (s u : State) (p : Packet) (src : Nat) (info : List Byte) : Prop :=
  u.out = .mgmt src (replyBytes p stOk info) :: ((if p.early then [.mgmt src (replyBytes p stAccepted [])] else []) ++ s.out) ∧
  u.keptReplies.head? = some ⟨src, p.tag, s.now, replyBytes p stOk info⟩

/-- A management packet has been executed: it is counted and answered ST_OK with `info`, no register field changes but the counter
and those listed, and nothing else of the state but the parts that `forget` blanks. -/
def State.fulfils (s u : State) (p : Packet) (src : Nat) (info : List Byte) (l : List (Fld × Nat × Nat × Nat)) (forget : State → State) : Prop :=
  s.answers u p src info ∧ u.fld .CMD_CNT_MGMT_COUNT iod0 = (s.fld .CMD_CNT_MGMT_COUNT iod0 + 1) % 2 ^ 64 ∧
  s.keepsRegs u ((.CMD_CNT_MGMT_COUNT, iod0, 0, 0) :: l) ∧ s.sameBut u fun x => forget { x with csr := [], out := [], keptReplies := [] }

/-- A management packet that its opcode's own conditions refuse: it is answered with the status and counted, and nothing else of the
state changes (R431, R432). -/
def State.refuses (s u : State) (p : Packet) (src st : Nat) : Prop :=
  u.out = .mgmt src (replyBytes p st []) :: s.out ∧ u.keptReplies.head? = some ⟨src, p.tag, s.now, replyBytes p st []⟩ ∧
  u.fld .CMD_CNT_REFUSED_COUNT iod0 = (s.fld .CMD_CNT_REFUSED_COUNT iod0 + 1) % 2 ^ 64 ∧
  s.keepsRegs u [(.CMD_CNT_REFUSED_COUNT, iod0, 0, 0)] ∧ s.sameBut u fun x => { x with csr := [], out := [], keptReplies := [] }

/-- The state once a packet whose effect is `t` has been counted and answered ST_OK. -/
def State.served (t : State) (p : Packet) (info : List Byte := []) : State := (t.acceptCmd p).reply p stOk info

/-- The oldest catch message of a SUB, the port by which it came, and the state that has taken it (R428). -/
def State.catchNext (s : State) (sub port : Nat) (m : List Byte) (t : State) : Prop :=
  s.inbox.find? (fun e => msgKind e.2 = 5 && field e.2 0x10 1 = sub) = some (port, m) ∧ t = { s with inbox := s.inbox.erase (port, m) }.freePicot port

end Sys2Proof.Machine
end

