-- ==== Sys2Proof/Certificates/Slice0/Obligations.lean ====
section
/-! DEFINITION. The statements about the model, for the provers: what every step does, what each family of commands does and leaves as
it was, and that each command completes under conditions on the state and its operands alone. -/

open Sys2Proof Sys2Proof.Machine

/-- For every command c and every state whose queue is c followed by rest, a step is exec of c on that state with the queue rest. -/
def Obligations.StepRunsFront : Prop :=
  ∀ (c : Instr) (rest : List Instr) (s : State), s.pending = c :: rest → step s = exec c { s with pending := rest }

/-- On an empty queue a step answers the state after one tick of the reference timer, whose queue is empty as before. This is the model's choice (log entry 5). -/
def Obligations.IdleStepTicks : Prop :=
  ∀ s : State, s.pending = [] → step s = .next s.tick ∧ s.tick.pending = []

/-- The register file, the memory and the side fields after reset are in canonical form, and every field holds a value of its width. -/
def Obligations.ResetKeepsInv : Prop :=
  State.reset.Inv

/-- From every state whose register file, memory and side fields are in canonical form and whose fields hold values of their widths, a step of any command, or of the timer, gives such a state. -/
def Obligations.StepKeepsInv : Prop :=
  ∀ s t : State, s.Inv → step s = .next t → t.Inv

/-- Every step of every state answers a next state: each command has its effect, or the answer that the manual gives a command that is turned away. -/
def Obligations.EveryStepGoesOn : Prop :=
  ∀ s : State, s.goesOn

/-- For every command and every state, the state after exec has the queue and the stepping of the state before: a command neither adds nor removes a command that waits, and the stepping is fixed when the die is made. -/
def Obligations.QueueAndSteppingKept : Prop :=
  ∀ (c : Instr) (s t : State), exec c s = .next t → t.pending = s.pending ∧ t.b0 = s.b0

/-- For every command that touchesNoMemory lists, in every state, every byte of memory reads after it as it read before. -/
def Obligations.MemoryUntouched : Prop :=
  ∀ (c : Instr) (s t : State), touchesNoMemory c = true → exec c s = .next t → s.keepsMem t

/-- For every row that eventDie lists and every state in which that die is stopped or has met a crossing error, exec leaves the state as it is. -/
def Obligations.HaltedDieDoesNothing : Prop :=
  ∀ (c : Instr) (s : State) (d : Nat), eventDie c = some d → s.halted d = true → exec c s = .next s

/-- For every row that writes one register and every state in which the accessor lacks the authority that the register requires, or the die of the register is not in service, exec answers a bus error and changes nothing else. -/
def Obligations.WriteWithoutAuthority : Prop :=
  ∀ (c : Instr) (s : State) (d : Nat) (allowed : Bool), s.writeOf c = some (d, allowed) → (s.dieUp d = false ∨ allowed = false) →
    exec c s = .next { s with resp := .busError }

/-- Writing bytes at an address makes those addresses read the bytes, and leaves every other address as it was; zeroing a range makes it read zero and leaves every other address as it was. -/
def Obligations.MemoryReadsBack : Prop :=
  ∀ (m : Memory) (a : Nat) (bs : List Byte) (n x : Nat),
    (m.writeBytes a bs).read x = (if a ≤ x ∧ x < a + bs.length then bs.getD (x - a) 0 else m.read x) ∧
    (m.zero a n).read x = (if a ≤ x ∧ x < a + n then 0 else m.read x)

/-- Setting a field makes that field of that die, unit and index read the value modulo its width, and leaves every other field, and everything but the register file, as it was. -/
def Obligations.RegisterReadsBack : Prop :=
  ∀ (s : State) (F : Fld) (d u i v : Nat),
    (s.setFld F d u i v).fld F d u i = v % 2 ^ F.width ∧ s.keepsRegs (s.setFld F d u i v) [(F, d, u, i)] ∧ s.keepsRest (s.setFld F d u i v)

/-- A supervisor write of ARR_ACB_RGN_BASE, ARR_ACB_RGN_WGM, ARR_LS_SEED or ARR_CTL of an array on a die in service gives the fields of the register the values of the written word, with what the write starts anew (the region's epoch, slot, adds and long-sum count; the generator), and changes nothing else. A region named by a queued or running command, or a value that the register refuses, is a bus error with no effect. Clearing ACB_RETAIN of a parked array takes its ACB's power (log entry 119). -/
def Obligations.ArrayRegisterWrites : Prop :=
  ∀ (s : State) (acc : Accessor) (cd : Fin 8) (arr : Fin 24) (q : Fin 8) (v : Word64), s.dieUp cd = true → isSup acc = true →
    (s.rgnNamed cd arr q = false → rgnBaseOk v = true → completes (.arrAcbRgnBaseWrite acc cd arr q v) s fun t =>
      t.fld .ARR_ACB_RGN_BASE_ROW0 cd arr q = fieldOf v 11 0 ∧ t.fld .ARR_ACB_RGN_BASE_ROWS cd arr q = fieldOf v 24 12 ∧
      t.fld .ARR_ACB_RGN_BASE_TIE cd arr q = fieldOf v 39 32 ∧ t.fld .ARR_ACB_RGN_BASE_USES cd arr q = fieldOf v 47 40 ∧
      t.fld .ARR_ACB_RGN_BASE_EPOCH cd arr q = s.fld .ARR_EPOCH_ACB_EPOCH cd arr % 2 ^ 16 ∧ t.fld .ARR_ACB_RGN_CNT_ADDS cd arr q = 0 ∧
      t.region cd arr q = ⟨none, 0, false⟩ ∧
      s.keepsRegs t [(.ARR_ACB_RGN_BASE_ROW0, cd, arr, q), (.ARR_ACB_RGN_BASE_ROWS, cd, arr, q), (.ARR_ACB_RGN_BASE_TIE, cd, arr, q),
        (.ARR_ACB_RGN_BASE_USES, cd, arr, q), (.ARR_ACB_RGN_BASE_EPOCH, cd, arr, q), (.ARR_ACB_RGN_CNT_ADDS, cd, arr, q)] ∧
      (∀ n k : Nat, (n, k) ≠ (arr.val, q.val) → t.region cd n k = s.region cd n k) ∧
      t.resp = .written ∧ s.sameBut t fun x => { x with csr := [], regions := [], resp := .none }) ∧
    (s.rgnNamed cd arr q = true ∨ rgnBaseOk v = false → exec (.arrAcbRgnBaseWrite acc cd arr q v) s = .next { s with resp := .busError }) ∧
    (s.rgnNamed cd arr q = false → wgmOk v = true → completes (.arrAcbRgnWgmWrite acc cd arr q v) s fun t =>
      t.fld .ARR_ACB_RGN_WGM_EN cd arr q = fieldOf v 0 0 ∧ t.fld .ARR_ACB_RGN_WGM_GRAN cd arr q = fieldOf v 1 1 ∧
      t.fld .ARR_ACB_RGN_WGM_COLS_T cd arr q = fieldOf v 9 2 ∧ t.fld .ARR_ACB_RGN_WGM_BITMAP cd arr q = fieldOf v 31 10 ∧
      t.fld .ARR_ACB_RGN_WGM_ROW_OFF cd arr q = fieldOf v 51 32 ∧
      s.wrote t [(.ARR_ACB_RGN_WGM_EN, cd, arr, q), (.ARR_ACB_RGN_WGM_GRAN, cd, arr, q), (.ARR_ACB_RGN_WGM_COLS_T, cd, arr, q),
        (.ARR_ACB_RGN_WGM_BITMAP, cd, arr, q), (.ARR_ACB_RGN_WGM_ROW_OFF, cd, arr, q)]) ∧
    (s.rgnNamed cd arr q = true ∨ wgmOk v = false → exec (.arrAcbRgnWgmWrite acc cd arr q v) s = .next { s with resp := .busError }) ∧
    completes (.arrLsSeedWrite acc cd arr v) s (fun t =>
      t.fld .ARR_LS_SEED_SEED cd arr = v.toNat ∧ t.array cd arr = { s.array cd arr with gen := if v = 0 then 1 else v.toNat } ∧
      s.keepsRegs t [(.ARR_LS_SEED_SEED, cd, arr, 0)] ∧ (∀ n : Nat, n ≠ arr → t.array cd n = s.array cd n) ∧
      t.resp = .written ∧ s.sameBut t fun x => { x with csr := [], arrays := [], resp := .none }) ∧
    completes (.arrParkRequest acc cd arr v) s (fun t =>
      t.fld .ARR_CTL_PARK cd arr = fieldOf v 0 0 ∧ t.fld .ARR_CTL_ACB_RETAIN cd arr = fieldOf v 1 1 ∧
      t.fld .ARR_CTL_LS_ENABLE cd arr = fieldOf v 2 2 ∧
      (s.fld .ARR_STATUS_STATE cd arr = 0 → fieldOf v 1 1 = 0 → (t.array cd arr).acbOff = true) ∧
      (s.fld .ARR_STATUS_STATE cd arr ≠ 0 ∨ fieldOf v 1 1 ≠ 0 → t.arrays = s.arrays ∧ t.acbSeed = s.acbSeed) ∧
      s.keepsRegs t [(.ARR_CTL_PARK, cd, arr, 0), (.ARR_CTL_ACB_RETAIN, cd, arr, 0), (.ARR_CTL_LS_ENABLE, cd, arr, 0)] ∧ t.resp = .written ∧
      s.sameBut t fun x => { x with csr := [], arrays := [], acbSeed := [], resp := .none })

/-- An idle array with PARK set whose queue and feeders are empty parks: its state is PARKED, and its ACB loses power unless ACB_RETAIN is set. A parked array whose wake is under way becomes idle with the next epoch, and with the next ACB epoch too if its ACB had lost power; a wrap sets EPOCH_WRAP and clears the tags. -/
def Obligations.ArrayParksAndWakes : Prop :=
  ∀ (s : State) (cd : Fin 8) (arr : Fin 24), s.halted cd = false →
    (s.flag .ARR_CTL_PARK cd arr = true → s.fld .ARR_STATUS_STATE cd arr = 1 → (s.array cd arr).queue = [] →
      (s.array cd arr).inflight = [] → (s.array cd arr).loading = none → s.feedersEmpty cd arr = true →
      completes (.arrayPark cd arr) s fun t =>
        t.fld .ARR_STATUS_STATE cd arr = 0 ∧ t.array cd arr = { s.array cd arr with acbOff := !s.flag .ARR_CTL_ACB_RETAIN cd arr } ∧
        t.acbSeed.get 0 (Key.at cd arr) = s.acbSeed.get 0 (Key.at cd arr) + (if s.flag .ARR_CTL_ACB_RETAIN cd arr then 0 else 1) ∧
        s.keepsRegs t [(.ARR_STATUS_STATE, cd, arr, 0)] ∧ s.sameBut t fun x => { x with csr := [], arrays := [], acbSeed := [] }) ∧
    (s.flag .ARR_CTL_PARK cd arr = false → exec (.arrayPark cd arr) s = .next s) ∧
    (s.fld .ARR_STATUS_STATE cd arr = 0 → (s.array cd arr).waking = true → completes (.arrayWakeComplete cd arr) s fun t =>
      t.fld .ARR_STATUS_STATE cd arr = 1 ∧ (t.array cd arr).waking = false ∧ (t.array cd arr).acbOff = false ∧
      t.fld .ARR_EPOCH_EPOCH cd arr = State.nextEpoch (s.fld .ARR_EPOCH_EPOCH cd arr) % 2 ^ 16 ∧
      t.fld .ARR_EPOCH_ACB_EPOCH cd arr =
        (if (s.array cd arr).acbOff then State.nextEpoch (s.fld .ARR_EPOCH_ACB_EPOCH cd arr) % 2 ^ 16
         else s.fld .ARR_EPOCH_ACB_EPOCH cd arr) ∧
      (s.fld .ARR_EPOCH_EPOCH cd arr = 0xFFFF → t.fld .ARR_EVENTS_EPOCH_WRAP cd arr = 1 ∧
        (t.array cd arr).bank0.epoch = 0 ∧ (t.array cd arr).bank1.epoch = 0) ∧
      ((s.array cd arr).acbOff = true → s.fld .ARR_EPOCH_ACB_EPOCH cd arr = 0xFFFF → t.fld .ARR_EVENTS_EPOCH_WRAP cd arr = 1 ∧
        ∀ q : Fin 8, t.fld .ARR_ACB_RGN_BASE_EPOCH cd arr q = 0) ∧
      s.keepsRegs t ([(.ARR_STATUS_STATE, cd.val, arr.val, 0), (.ARR_EPOCH_EPOCH, cd.val, arr.val, 0), (.ARR_EPOCH_ACB_EPOCH, cd.val, arr.val, 0),
        (.ARR_EVENTS_EPOCH_WRAP, cd.val, arr.val, 0)] ++ (List.range 8).map fun q => (.ARR_ACB_RGN_BASE_EPOCH, cd.val, arr.val, q)) ∧
      s.sameBut t fun x => { x with csr := [], arrays := [] }) ∧
    (s.fld .ARR_STATUS_STATE cd arr ≠ 0 ∨ (s.array cd arr).waking = false → exec (.arrayWakeComplete cd arr) s = .next s)

/-- A HOLD_LOAD that passes its checks, with its held-load path free and its charge granted, leaves the queue, charges the unit, and loads the back bank, or stalls while that bank is full. A HOLD_PASS in the same way joins the commands of the core, takes what its bank holds, and with SEAM = 1 the banks swap first; a seam before the back bank is full freezes the array until it is. -/
def Obligations.ArrayLoadsAndPassesIssue : Prop :=
  ∀ (s : State) (cd : Fin 8) (arr : Fin 24) (c : Cmd) (rest : List ArrEntry),
    let s0 := s.reach cd c.enters
    let s1 := s0.tktClose cd arr c.ctx
    s0.mayStart cd arr c.slot = true → s0.arrCheck cd arr c.slot (arrFields c) = none →
    (s.arrHead cd arr 2 c rest → (s1.array cd arr).loading = none → completes (.holdLoad cd arr) s fun t =>
      t.charged cd arr = some c.slot ∧ (t.array cd arr).queue = rest ∧ (t.array cd arr).issued = (s1.array cd arr).issued + 1 ∧
      (t.array cd arr).inflight = (s1.array cd arr).inflight ∧ t.fld .ARR_STATUS_STATE cd arr = 2 ∧
      (∃ r : Running, (t.array cd arr).loading = some r ∧ r.cmd = c ∧ r.aLines = [] ∧ r.bLines = [] ∧
        r.bank = if s1.flag .ARR_STATUS_BACK_FULL cd arr then 2 else (s1.fld .ARR_STATUS_FRONT cd arr + 1) % 2) ∧
      t.fld .ARR_STATUS_LOAD_STALL cd arr =
        (if s1.flag .ARR_STATUS_BACK_FULL cd arr then 1 else s1.fld .ARR_STATUS_LOAD_STALL cd arr) ∧
      s1.keepsRegs t [(.ARR_STATUS_STATE, cd, arr, 0), (.ARR_STATUS_LOAD_STALL, cd, arr, 0)] ∧
      s1.sameBut t fun x => { x with csr := [], arrays := [], charges := [] }) ∧
    (s.arrHead cd arr 3 c rest → State.arrCoreFree (s1.array cd arr) = true → completes (.holdPass cd arr) s fun t =>
      t.charged cd arr = some c.slot ∧ (t.array cd arr).queue = rest ∧ (t.array cd arr).issued = (s1.array cd arr).issued + 1 ∧
      t.fld .ARR_STATUS_STATE cd arr = 2 ∧
      (∃ r : Running, (t.array cd arr).inflight = (s1.array cd arr).inflight ++ [r] ∧ r.cmd = c ∧ r.order = (s1.array cd arr).issued + 1 ∧
        r.bank = (if (arrFields c).seam then s1.fld .ARR_STATUS_FRONT cd arr + 1 else s1.fld .ARR_STATUS_FRONT cd arr) % 2 ∧
        ((arrFields c).seam = false ∨ s1.flag .ARR_STATUS_BACK_FULL cd arr = true → r.seamWait = false ∧ r.held = (State.bankOf (s1.array cd arr) r.bank).chunks) ∧
        ((arrFields c).seam = true → s1.flag .ARR_STATUS_BACK_FULL cd arr = false → r.seamWait = true)) ∧
      ((arrFields c).seam = true → s1.flag .ARR_STATUS_BACK_FULL cd arr = true → t.fld .ARR_STATUS_FRONT cd arr = (s1.fld .ARR_STATUS_FRONT cd arr + 1) % 2 ∧
        t.fld .ARR_STATUS_BACK_FULL cd arr = 0) ∧
      ((arrFields c).seam = false ∨ s1.flag .ARR_STATUS_BACK_FULL cd arr = false → t.fld .ARR_STATUS_FRONT cd arr = s1.fld .ARR_STATUS_FRONT cd arr ∧
        t.fld .ARR_STATUS_BACK_FULL cd arr = s1.fld .ARR_STATUS_BACK_FULL cd arr) ∧
      s1.keepsRegs t [(.ARR_STATUS_STATE, cd, arr, 0), (.ARR_STATUS_FRONT, cd, arr, 0), (.ARR_STATUS_BACK_FULL, cd, arr, 0),
        (.ARR_STATUS_LOAD_STALL, cd, arr, 0), (.ARR_EVENTS_LS_ACTIVE, cd, arr, 0)] ∧
      s1.sameBut t fun x => { x with csr := [], arrays := [], charges := [], regions := [] })

/-- A RES_TILE that passes its checks, with the core free and its charge granted, leaves the queue, charges the unit and joins the commands of the core as the newest. Without an init and without a weight-gradient bitmap it reads no memory. -/
def Obligations.ArrayTileIssues : Prop :=
  ∀ (s : State) (cd : Fin 8) (arr : Fin 24) (c : Cmd) (rest : List ArrEntry),
    let s0 := s.reach cd c.enters
    let s1 := s0.tktClose cd arr c.ctx
    s0.mayStart cd arr c.slot = true → s0.arrCheck cd arr c.slot (arrFields c) = none → s.arrHead cd arr 1 c rest → State.arrCoreFree (s1.array cd arr) = true →
    completes (.resTile cd arr) s fun t =>
      t.charged cd arr = some c.slot ∧ (t.array cd arr).queue = rest ∧ (t.array cd arr).issued = (s1.array cd arr).issued + 1 ∧
      (∃ r : Running, (t.array cd arr).inflight = (s1.array cd arr).inflight ++ [r] ∧ r.cmd = c ∧ r.order = (s1.array cd arr).issued + 1 ∧
        r.aLeft = (arrFields c).count ∧ r.bLeft = (arrFields c).count) ∧
      ((arrFields c).init = false → s1.flag .ARR_ACB_RGN_WGM_EN cd arr (arrFields c).region = false →
        t.fld .ARR_STATUS_STATE cd arr = 2 ∧ s1.keepsRegs t [(.ARR_STATUS_STATE, cd, arr, 0), (.ARR_EVENTS_LS_ACTIVE, cd, arr, 0)] ∧
        s1.sameBut t fun x => { x with csr := [], arrays := [], charges := [], regions := [] })

/-- An array command that fails a check of R85 sets its fault bit, puts the array into FAULT with an empty queue, and counts as completed; nothing issues. -/
def Obligations.ArrayRefuses : Prop :=
  ∀ (s : State) (cd : Fin 8) (arr : Fin 24) (kind : Nat) (c : Cmd) (rest : List ArrEntry) (why : State.ArrRefusal) (i : Instr),
    s.arrHead cd arr kind c rest → (s.reach cd c.enters).arrCheck cd arr c.slot (arrFields c) = some why →
    (kind = 1 ∧ i = .resTile cd arr ∧ State.arrCoreFree (s.array cd arr) = true ∨
     kind = 2 ∧ i = .holdLoad cd arr ∧ (s.array cd arr).loading = none ∨
     kind = 3 ∧ i = .holdPass cd arr ∧ State.arrCoreFree (s.array cd arr) = true) →
    completes i s fun t =>
      t.fld .ARR_STATUS_STATE cd arr = 3 ∧ t.array cd arr = { s.array cd arr with queue := [] } ∧ t.arrHeld cd arr = true ∧
      t.fld .ARR_FAULT_INFO_KIND cd arr = c.kind ∧
      t.fld .ARR_DONE_DONE cd arr = (s.fld .ARR_DONE_DONE cd arr + 1) % 2 ^ 32 ∧
      t.fld .ARR_DONE_DISCARDED cd arr % 2 ^ 32 = (s.fld .ARR_DONE_DISCARDED cd arr + rest.length) % 2 ^ 32 ∧ t.charges = s.charges

/-- A load that has read its lines fills its bank, sets BACK_FULL, or lets the seam that waits for it go through, frees the held-load path and counts. The oldest command of the core that has read its lines leaves the core, and counts in ARR_DONE; with ACC = 1 it counts in ADDS of its region too, up to that counter's maximum. -/
def Obligations.ArrayCommandsComplete : Prop :=
  ∀ (s : State) (cd : Fin 8) (arr : Fin 24) (r : Running), s.halted cd = false → r.aLeft = 0 → r.bLeft = 0 →
    ((s.array cd arr).loading = some r → r.bank < 2 → completes (.arrayCommandComplete cd arr true) s fun t =>
      let seam := (s.array cd arr).inflight.any Running.seamWait
      (t.array cd arr).loading = none ∧ t.fld .ARR_STATUS_BACK_FULL cd arr = (if seam then 0 else 1) ∧
      t.fld .ARR_STATUS_FRONT cd arr = (if seam then (s.fld .ARR_STATUS_FRONT cd arr + 1) % 2 else s.fld .ARR_STATUS_FRONT cd arr) ∧
      (t.array cd arr).inflight.any Running.seamWait = false ∧
      (State.bankOf (t.array cd arr) r.bank).chunks =
        (if (arrFields r.cmd).heldB then r.bLines else r.aLines).map (heldLine (arrFields r.cmd).count) ∧
      t.fld .ARR_DONE_DONE cd arr = (s.fld .ARR_DONE_DONE cd arr + 1) % 2 ^ 32 ∧
      t.cnt cd r.cmd.ctx arr = (s.cnt cd r.cmd.ctx arr + 1) % 2 ^ 32 ∧
      s.keepsRegs t [(.ARR_STATUS_BACK_FULL, cd, arr, 0), (.ARR_STATUS_FRONT, cd, arr, 0), (.ARR_DONE_DONE, cd, arr, 0), (.ARR_STATUS_STATE, cd, arr, 0)] ∧
      s.sameBut t fun x => { x with csr := [], arrays := [], cnts := [], busyAt := [] }) ∧
    (∀ rest : List Running, (s.array cd arr).inflight = r :: rest → r.seamWait = false → completes (.arrayCommandComplete cd arr false) s fun t =>
      (t.array cd arr).inflight = rest ∧ (t.array cd arr).queue = (s.array cd arr).queue ∧
      t.fld .ARR_DONE_DONE cd arr = (s.fld .ARR_DONE_DONE cd arr + 1) % 2 ^ 32 ∧
      t.fld .ARR_ACB_RGN_CNT_ADDS cd arr (arrFields r.cmd).region =
        (if (arrFields r.cmd).acc then min (s.fld .ARR_ACB_RGN_CNT_ADDS cd arr (arrFields r.cmd).region + 1) (2 ^ 32 - 1)
         else s.fld .ARR_ACB_RGN_CNT_ADDS cd arr (arrFields r.cmd).region))

/-- A CSET entry at the head of the queue of an array whose core and held-load path are idle leaves the queue, writes the register that REG names, and counts for its context, after the results of earlier beats have landed; a value that the register refuses is BAD_CMD with field 0x9 and puts the array into FAULT. -/
def Obligations.ArrayRegisterEntries : Prop :=
  ∀ (s : State) (cd : Fin 8) (arr : Fin 24) (reg ctx slot enters : Nat) (v : Word64) (rest : List ArrEntry), s.halted cd = false →
    s.arrAwake cd arr = true → (s.array cd arr).inflight = [] → (s.array cd arr).loading = none →
    (s.array cd arr).queue = .cset reg v ctx slot enters :: rest →
    ((reg % 2 = 0 → 0x20 ≤ reg → reg < 0x30 → rgnBaseOk v = true) → (0x30 ≤ reg → reg < 0x38 → wgmOk v = true) →
      completes (.csetEntryEffect cd arr) s fun t =>
        (t.array cd arr).queue = rest ∧ t.cnt cd ctx arr = (s.cnt cd ctx arr + 1) % 2 ^ 32 ∧
        (reg = 2 → t.fld .ARR_CTL_PARK cd arr = fieldOf v 0 0 ∧ t.fld .ARR_CTL_ACB_RETAIN cd arr = fieldOf v 1 1 ∧
          t.fld .ARR_CTL_LS_ENABLE cd arr = fieldOf v 2 2) ∧
        (8 ≤ reg → reg < 12 → t.fld .ARR_ROWMASK_BITS cd arr (reg - 8) = v.toNat) ∧
        (12 ≤ reg → reg < 16 → t.fld .ARR_COLMASK_BITS cd arr (reg - 12) = v.toNat) ∧
        (reg = 0x10 → t.fld .ARR_LS_SEED_SEED cd arr = v.toNat ∧ (t.array cd arr).gen = if v = 0 then 1 else v.toNat) ∧
        (∀ q : Fin 8, reg = 0x20 + 2 * q → t.fld .ARR_ACB_RGN_BASE_ROW0 cd arr q = fieldOf v 11 0 ∧
          t.fld .ARR_ACB_RGN_BASE_ROWS cd arr q = fieldOf v 24 12 ∧ t.region cd arr q = ⟨some slot, 0, false⟩) ∧
        (∀ q : Fin 8, reg = 0x21 + 2 * q → t.fld .ARR_ACB_RGN_CNT_LS_THRESH cd arr q = fieldOf v 63 32) ∧
        (∀ q : Fin 8, reg = 0x30 + q → t.fld .ARR_ACB_RGN_WGM_EN cd arr q = fieldOf v 0 0 ∧
          t.fld .ARR_ACB_RGN_WGM_BITMAP cd arr q = fieldOf v 31 10) ∧
        (0x200 ≤ reg → reg < 0x280 → t.fld .ARR_SCALE_A_S_LO cd arr (reg - 0x200) = fieldOf v 31 0 ∧
          t.fld .ARR_SCALE_A_S_HI cd arr (reg - 0x200) = fieldOf v 63 32) ∧
        (0x280 ≤ reg → reg < 0x300 → t.fld .ARR_SCALE_B_S_LO cd arr (reg - 0x280) = fieldOf v 31 0 ∧
          t.fld .ARR_SCALE_B_S_HI cd arr (reg - 0x280) = fieldOf v 63 32) ∧
        (s.reach cd enters).sameBut t fun x => { x with csr := [], arrays := [], regions := [], cnts := [], busyAt := [] }) ∧
    (reg % 2 = 0 → 0x20 ≤ reg → reg < 0x30 → rgnBaseOk v = false → completes (.csetEntryEffect cd arr) s fun t =>
      t.fld .ARR_STATUS_STATE cd arr = 3 ∧ t.fld .ARR_FAULT_BAD_CMD cd arr = 1 ∧ t.fld .ARR_FAULT_INFO_FIELD cd arr = 9 ∧
      (t.array cd arr).queue = [])

/-- A supervisor write of ARR_FAULT clears each bit that is written as 1 and no other; an array in FAULT leaves it once its refusal bits read zero. -/
def Obligations.ArrayFaultClears : Prop :=
  ∀ (s : State) (acc : Accessor) (cd : Fin 8) (arr : Fin 24) (v : Word64), s.dieUp cd = true → isSup acc = true →
    completes (.arrFaultClear acc cd arr v) s fun t =>
      t.fld .ARR_FAULT_BAD_CMD cd arr = (if v.toNat.testBit 0 then 0 else s.fld .ARR_FAULT_BAD_CMD cd arr) ∧
      t.fld .ARR_FAULT_STALE_STATE cd arr = (if v.toNat.testBit 1 then 0 else s.fld .ARR_FAULT_STALE_STATE cd arr) ∧
      t.fld .ARR_FAULT_POISON cd arr = (if v.toNat.testBit 2 then 0 else s.fld .ARR_FAULT_POISON cd arr) ∧
      t.fld .ARR_FAULT_ACB_RANGE cd arr = (if v.toNat.testBit 3 then 0 else s.fld .ARR_FAULT_ACB_RANGE cd arr) ∧
      t.fld .ARR_FAULT_ACB_UE cd arr = (if v.toNat.testBit 4 then 0 else s.fld .ARR_FAULT_ACB_UE cd arr) ∧
      (s.fld .ARR_STATUS_STATE cd arr = 3 → t.arrHeld cd arr = true → t.fld .ARR_STATUS_STATE cd arr = 3) ∧
      (s.fld .ARR_STATUS_STATE cd arr = 3 → t.arrHeld cd arr = false → t.fld .ARR_STATUS_STATE cd arr =
        if (s.array cd arr).inflight = [] ∧ (s.array cd arr).loading = none then 1 else 2) ∧
      (s.fld .ARR_STATUS_STATE cd arr ≠ 3 → t.fld .ARR_STATUS_STATE cd arr = s.fld .ARR_STATUS_STATE cd arr) ∧
      s.wrote t [(.ARR_FAULT_BAD_CMD, cd, arr, 0), (.ARR_FAULT_STALE_STATE, cd, arr, 0), (.ARR_FAULT_POISON, cd, arr, 0),
        (.ARR_FAULT_ACB_RANGE, cd, arr, 0), (.ARR_FAULT_ACB_UE, cd, arr, 0), (.ARR_STATUS_STATE, cd, arr, 0)]

/-- A well-formed feed command at the head of its queue takes the lowest free slot of its bobbin, which then stands as the newest, RESERVED for it; a subscription registers the bobbin with its ticket. The results of earlier beats land first. A well-formed INJECT or CAPTURE at the head of a station's queue starts, and a CAPTURE registers the station. -/
def Obligations.CarouselCommandsTaken : Prop :=
  ∀ (s : State) (cd : Fin 8) (c : Cmd) (rest : List Cmd), s.halted cd = false →
    let s1 := s.reach cd c.enters;
    (∀ (arr : Fin 24) (b : Fin 2) (k : Nat), s.fld .ARR_STATUS_STATE cd arr ≠ 0 → (s.bobbin cd (2 * arr + b)).queue = c :: rest →
      badFeed c = false → s.freeSlot cd (2 * arr + b) = some k →
      (c.kind = 2 → addrOf c % 256 = 0 ∧ addrOf c / 2 ^ 25 = arrGroup arr ∧ (addrOf c + 65535) / 2 ^ 25 = arrGroup arr ∧
        s.sramOwned cd c.slot (addrOf c) 65536 = true) →
      completes (if c.kind = 1 then .feedSub cd arr b else .feedPriv cd arr b) s fun t =>
        t.bobbin cd (2 * arr + b) = ⟨rest, (s.bobbin cd (2 * arr + b)).order ++ [k]⟩ ∧ t.fills.get none ⟨0, cd, 2 * arr + b, k⟩ = some c ∧
        t.fld .FDR_SLOT_STATE cd (2 * arr + b) k = 1 ∧ t.fld .FDR_SLOT_SRC cd (2 * arr + b) k = (if c.kind = 1 then 0 else 1) ∧
        t.fld .FDR_SLOT_INT4 cd (2 * arr + b) k = fieldOf c.w0 4 4 ∧ t.fld .FDR_SLOT_PASSES cd (2 * arr + b) k = feedReuse c ∧
        t.fld .FDR_SLOT_TICKET cd (2 * arr + b) k = tkOf c ∧ t.fld .FDR_SLOT_FLITS cd (2 * arr + b) k = 0 ∧
        (c.kind = 1 → ∃ u ∈ t.tkUses cd (tkOf c), u.slot = c.slot ∧ u.regs.contains (2 * arr.val + b.val) = true) ∧
        (c.kind = 2 → t.uses = s.uses) ∧
        s1.sameBut t fun x => { x with csr := [], bobbins := [], fills := [], uses := [], useCount := 0 }) ∧
    (∀ g : Fin 4, (s.station cd g).queue = c :: rest → (s.station cd g).started = false → badStation c g = false →
      s.sramOwned cd c.slot (addrOf c) 65536 = true →
      (c.kind = 1 → s.ringOff cd (injRing c) = false → completes (.inject cd g) s fun t =>
        t.station cd g = { s.station cd g with started := true, useId := none, moved := 0 } ∧
        s1.sameBut t fun x => { x with stations := [] }) ∧
      (c.kind = 2 → completes (.capture cd g) s fun t =>
        t.station cd g = { s.station cd g with started := true, useId := none, moved := 0 } ∧
        (∃ u ∈ t.tkUses cd (tkOf c), u.slot = c.slot ∧ u.regs.contains (48 + g.val) = true) ∧
        s1.sameBut t fun x => { x with stations := [], uses := [], useCount := 0 }))

/-- The declaration of a started INJECT, or of the oldest tile of a gateway, takes effect on a FREE ticket with the station, ring, subscribers and source of the tile. A declared use arms when its registrations equal SUBS. When all 32 flits of an armed use have reached the drop station its ticket is FREE of it. A declared use that stays unarmed past the limit is reported once. -/
def Obligations.TilesAreDeclaredAndArm : Prop :=
  ∀ (s : State) (cd : Fin 8), s.halted cd = false →
    (∀ (g : Fin 4) (c : Cmd) (rest : List Cmd) (st : Fin 32), st.val = 8 * g + 4 → (s.station cd g).queue = c :: rest → c.kind = 1 →
      (s.station cd g).started = true → (s.station cd g).useId = none → s.tkFree cd (tkOf c) = true →
      completes (.tileDeclare cd st) s fun t =>
        (∃ u ∈ t.tkUses cd (tkOf c), u.declared = true ∧ u.slot = c.slot ∧ u.station = st ∧ u.ring = injRing c ∧ u.subs = injSubs c ∧
          u.src = .sram (addrOf c) ∧ u.since = s.now ∧ t.station cd g = { s.station cd g with useId := some u.id }) ∧
        s.sameBut t fun x => { x with stations := [], uses := [], useCount := 0 }) ∧
    (∀ (g : Fin 4) (x : GwTile) (st : Fin 32), st.val = 8 * g → (s.gateway cd g).find? (fun y => y.useId.isNone) = some x → x.got ≠ 0 →
      s.ringOff cd x.ring = false → s.tkFree cd x.ticket = true → completes (.tileDeclare cd st) s fun t =>
        (∃ u ∈ t.tkUses cd x.ticket, u.declared = true ∧ u.slot = x.slot ∧ u.station = st ∧ u.ring = x.ring ∧ u.subs = x.subs ∧
          u.src = .gateway ∧
          t.gateway cd g = (s.gateway cd g).map (fun y => if y = x then { y with useId := some u.id } else y)) ∧
        s.sameBut t fun y => { y with gateways := [], uses := [], useCount := 0 }) ∧
    (∀ (tk : Fin 64) (u : Use), (s.tkUses cd tk).find? (fun x => x.declared && !x.armed) = some u →
      (∀ ccw : Bool, u.regs.length = u.subs → s.pickRing cd u = some ccw → completes (.tileArm cd tk) s fun t =>
        t.tkUses cd tk = (s.tkUses cd tk).map (fun x => if x.id = u.id then
          { x with armed := true, ccw := ccw, drop := farthest ccw x.station (x.regs.map regStation), since := s.carBeat.get 0 (Key.at cd) }
          else x) ∧ s.sameBut t fun x => { x with uses := [] }) ∧
      (u.regs.length ≠ u.subs → exec (.tileArm cd tk) s = .next s)) ∧
    (∀ (tk : Fin 64) (u : Use), (s.tkUses cd tk).find? (fun x => x.armed) = some u → u.sent = 32 → s.ridingOn cd u = false →
      completes (.tileRideEnd cd tk) s fun t =>
        t.tkUses cd tk = (s.tkUses cd tk).filter (fun x => decide (x.id ≠ u.id)) ∧ s.sameBut t fun x => { x with uses := [] }) ∧
    (∀ (tk : Fin 64) (u : Use), (s.tkUses cd tk).find? (fun x => x.declared && !x.armed && !x.stalled) = some u →
      s.now - u.since > 100 * max 1 (s.fld .CAR_WDOG_LIMIT cd) → completes (.armStall cd tk) s fun t =>
        t.tkUses cd tk = (s.tkUses cd tk).map (fun x => if x.id = u.id then { x with stalled := true } else x) ∧
        t.fld .CAR_EVENTS_ARM_STALL cd = 1 ∧ s.raised t .EV_CAR_ARM_STALL cd ∧ s.keepsRegs t [(.CAR_EVENTS_ARM_STALL, cd, 0, 0)] ∧
        s.sameBut t fun x => { x with csr := [], uses := [], events := [] })

/-- A station whose next flit is ready puts it into the slot that stands at it, when that slot is empty and not reserved for another station and neither the use nor the station has sent a flit in this beat; the slot's reservation ends, and the flit counts. A station whose next flit has waited 32 beats, before an occupied, unreserved slot, and holds no reservation, reserves it. -/
def Obligations.FlitsEnterTheRing : Prop :=
  ∀ (s : State) (cd : Fin 8) (st : Fin 32) (tk : Nat) (u : Use), s.halted cd = false → s.sendingAt cd st = some (tk, u) →
    s.flitReady cd st tk u = true →
    ((s.ringSlot cd (if u.ccw then 1 else 0) (s.slotAt cd (if u.ccw then 1 else 0) st)).flit = none →
      ((s.ringSlot cd (if u.ccw then 1 else 0) (s.slotAt cd (if u.ccw then 1 else 0) st)).reserved = none ∨
        (s.ringSlot cd (if u.ccw then 1 else 0) (s.slotAt cd (if u.ccw then 1 else 0) st)).reserved = some st.val) →
      u.since < s.carBeat.get 0 (Key.at cd) → s.flitWaits cd u = false → s.injBeat.get 0 (Key.at cd st) ≠ s.carBeat.get 0 (Key.at cd) + 1 →
      completes (.flitInject cd st) s fun t =>
        t.ringSlot cd (if u.ccw then 1 else 0) (s.slotAt cd (if u.ccw then 1 else 0) st) = ⟨none, some (s.takeFlit cd st tk u).1⟩ ∧
        t.tkUses cd tk = (s.tkUses cd tk).map (fun x => if x.id = u.id then
          { x with sent := x.sent + 1, since := s.carBeat.get 0 (Key.at cd) } else x) ∧
        t.fld (if u.ccw then .CAR_CNT_FLIT_CCW_COUNT else .CAR_CNT_FLIT_CW_COUNT) cd =
          (s.fld (if u.ccw then .CAR_CNT_FLIT_CCW_COUNT else .CAR_CNT_FLIT_CW_COUNT) cd + 1) % 2 ^ 64) ∧
    ((s.ringSlot cd (if u.ccw then 1 else 0) (s.slotAt cd (if u.ccw then 1 else 0) st)).flit ≠ none →
      (s.ringSlot cd (if u.ccw then 1 else 0) (s.slotAt cd (if u.ccw then 1 else 0) st)).reserved = none →
      s.flitSince cd st u + 33 ≤ s.carBeat.get 0 (Key.at cd) → (∀ e ∈ s.rings, e.1.d = cd.val → e.2.reserved ≠ some st.val) →
      completes (.slotReserve cd st) s fun t =>
        (t.ringSlot cd (if u.ccw then 1 else 0) (s.slotAt cd (if u.ccw then 1 else 0) st)).reserved = some st.val ∧
        (t.ringSlot cd (if u.ccw then 1 else 0) (s.slotAt cd (if u.ccw then 1 else 0) st)).flit =
          (s.ringSlot cd (if u.ccw then 1 else 0) (s.slotAt cd (if u.ccw then 1 else 0) st)).flit ∧
        t.fld .CAR_CNT_RESV_COUNT cd = (s.fld .CAR_CNT_RESV_COUNT cd + 1) % 2 ^ 64 ∧ s.keepsRegs t [(.CAR_CNT_RESV_COUNT, cd, 0, 0)] ∧
        s.sameBut t fun x => { x with csr := [], rings := [] })

/-- A slot whose 32 flits have come, or that the private port may fill, becomes READY. At the end of a pass the lines read are counted, and the slot rewinds for its next pass, or is FREE and leaves the bobbin after its last. A plain read that follows a filling tile ends its pass when the tile is whole. -/
def Obligations.BobbinSlotsFillAndEnd : Prop :=
  ∀ (s : State) (cd : Fin 8) (arr : Fin 24) (b : Fin 2), s.halted cd = false →
    (∀ (k : Fin 4) (c : Cmd), s.fills.get none ⟨0, cd, 2 * arr.val + b.val, k⟩ = some c →
      (s.fld .FDR_SLOT_STATE cd (2 * arr.val + b.val) k = 1 ∨ s.fld .FDR_SLOT_STATE cd (2 * arr.val + b.val) k = 2) →
      (s.fld .FDR_SLOT_SRC cd (2 * arr.val + b.val) k = 0 → s.fld .FDR_SLOT_FLITS cd (2 * arr.val + b.val) k = 32 →
        s.earlyRead.get false ⟨0, cd, 2 * arr.val + b.val, k⟩ = false →
        completes (.bobbinSlotReady cd arr b k) s fun t =>
          t.fld .FDR_SLOT_STATE cd (2 * arr.val + b.val) k = 3 ∧
          t.cnt cd c.ctx (0x18 + (2 * arr.val + b.val)) = (s.cnt cd c.ctx (0x18 + (2 * arr.val + b.val)) + 1) % 2 ^ 32 ∧
          s.keepsRegs t [(.FDR_SLOT_STATE, cd.val, 2 * arr.val + b.val, k.val)] ∧ s.sameBut t fun x => { x with csr := [], cnts := [], busyAt := [] }) ∧
      (s.fld .FDR_SLOT_SRC cd (2 * arr.val + b.val) k ≠ 0 → s.sramZeroing cd (addrOf c) 65536 = false →
        s.earlyRead.get false ⟨0, cd, 2 * arr.val + b.val, k⟩ = false →
        completes (.bobbinSlotReady cd arr b k) s fun t =>
          t.fld .FDR_SLOT_STATE cd (2 * arr.val + b.val) k = 3 ∧ t.fld .FDR_SLOT_FLITS cd (2 * arr.val + b.val) k = 32)) ∧
    (∀ (isLoad : Bool) (r : Running) (k : Nat) (rest : List Nat), State.reader (s.array cd arr) b = some (isLoad, r) →
      let ra := State.readAs r.cmd b
      let int4 := s.flag .FDR_SLOT_INT4 cd (2 * arr.val + b.val) k
      let lines := min (s.passLines (tileBase cd (2 * arr.val + b.val) k) int4 ra) (if b.val = 0 then r.aLeft else r.bLeft)
      ¬(ra.xpose = true ∧ ra.w = 2) → ¬(ra.xpose = true ∧ int4 = true) → (s.bobbin cd (2 * arr.val + b.val)).order = k :: rest →
      s.slotReadable cd (2 * arr.val + b.val) k (lines * ra.n * ra.w) (!ra.xpose && !int4) = true → completes (.bobbinPassEnd cd arr b) s fun t =>
        t.fld .FDR_CNT_LINES_COUNT cd (2 * arr.val + b.val) = (s.fld .FDR_CNT_LINES_COUNT cd (2 * arr.val + b.val) + lines) % 2 ^ 64 ∧
        (s.fld .FDR_SLOT_STATE cd (2 * arr.val + b.val) k < 3 → t.earlyRead.get false ⟨0, cd, 2 * arr.val + b.val, k⟩ = true ∧
          t.fld .FDR_SLOT_PASSES cd (2 * arr.val + b.val) k = s.fld .FDR_SLOT_PASSES cd (2 * arr.val + b.val) k ∧
          t.bobbin cd (2 * arr.val + b.val) = s.bobbin cd (2 * arr.val + b.val)) ∧
        (3 ≤ s.fld .FDR_SLOT_STATE cd (2 * arr.val + b.val) k → 0 < s.fld .FDR_SLOT_PASSES cd (2 * arr.val + b.val) k →
          t.fld .FDR_SLOT_PASSES cd (2 * arr.val + b.val) k = (s.fld .FDR_SLOT_PASSES cd (2 * arr.val + b.val) k - 1) % 2 ^ 4 ∧
          t.fld .FDR_SLOT_STATE cd (2 * arr.val + b.val) k = 4 ∧ t.bobbin cd (2 * arr.val + b.val) = s.bobbin cd (2 * arr.val + b.val)) ∧
        (3 ≤ s.fld .FDR_SLOT_STATE cd (2 * arr.val + b.val) k → s.fld .FDR_SLOT_PASSES cd (2 * arr.val + b.val) k = 0 → t.fld .FDR_SLOT_STATE cd (2 * arr.val + b.val) k = 0 ∧
          t.bobbin cd (2 * arr.val + b.val) = ⟨(s.bobbin cd (2 * arr.val + b.val)).queue, rest⟩))

/-- A supervisor write of FDR_FAULT or CAR_FAULT clears each bit that is written as 1 and no other; once BAD_INJ and RING_OFF read zero, the station queues take commands again. -/
def Obligations.CarouselFaultClears : Prop :=
  ∀ (s : State) (acc : Accessor) (cd : Fin 8) (v : Word64), s.dieUp cd = true → isSup acc = true →
    (∀ (arr : Fin 24) (b : Fin 2), completes (.fdrFaultClear acc cd arr b v) s fun t =>
      t.fld .FDR_FAULT_BAD_FEED cd (2 * arr + b) = (if v.toNat.testBit 0 then 0 else s.fld .FDR_FAULT_BAD_FEED cd (2 * arr + b)) ∧
      t.fld .FDR_FAULT_GROUP cd (2 * arr + b) = (if v.toNat.testBit 1 then 0 else s.fld .FDR_FAULT_GROUP cd (2 * arr + b)) ∧
      t.fld .FDR_FAULT_UE cd (2 * arr + b) = (if v.toNat.testBit 2 then 0 else s.fld .FDR_FAULT_UE cd (2 * arr + b)) ∧
      s.wrote t [(.FDR_FAULT_BAD_FEED, cd, 2 * arr + b, 0), (.FDR_FAULT_GROUP, cd, 2 * arr + b, 0), (.FDR_FAULT_UE, cd, 2 * arr + b, 0)]) ∧
    completes (.carFaultClear acc cd v) s fun t =>
      t.fld .CAR_FAULT_BAD_INJ cd = (if v.toNat.testBit 0 then 0 else s.fld .CAR_FAULT_BAD_INJ cd) ∧
      t.fld .CAR_FAULT_RING_OFF cd = (if v.toNat.testBit 1 then 0 else s.fld .CAR_FAULT_RING_OFF cd) ∧
      t.fld .CAR_FAULT_TRANSIT_UE cd = (if v.toNat.testBit 2 then 0 else s.fld .CAR_FAULT_TRANSIT_UE cd) ∧
      (t.carHeld cd = false → ∀ g : Fin 4, (t.station cd g).held = false) ∧
      (t.carHeld cd = true → t.stations = s.stations) ∧
      t.resp = .written ∧ s.keepsRegs t [(.CAR_FAULT_BAD_INJ, cd, 0, 0), (.CAR_FAULT_RING_OFF, cd, 0, 0), (.CAR_FAULT_TRANSIT_UE, cd, 0, 0)] ∧
      s.sameBut t fun x => { x with csr := [], stations := [], resp := .none }

/-- A write of CLK_STEP sets TARGET and MODE, and CAP to no more than the written cap, and starts no other effect than the region's BUSY; a region with XERR set ignores it. A supply change that is done leaves the supply where it was headed. A glide that is done leaves CURRENT one step nearer to its goal and counts. A drained region halts with STOPPED set, and restarts at its new step with STOPPED clear and the crossings of a compute die empty, the accesses that waited go on, and the stop and its time in ns are counted. A lengthened period counts once, or once for each of the four carousel segments. -/
def Obligations.ClockRegionsChangeStep : Prop :=
  ∀ (s : State) (die : Fin 12),
    (∀ (acc : Accessor) (v : Word64), s.dieUp (regionDie die) = true → isSup acc = true →
      (s.flag .CLK_STATUS_XERR (regionDie die) = true → completes (.clkStepWrite acc die v) s fun t => s.wrote t []) ∧
      (s.flag .CLK_STATUS_XERR (regionDie die) = false → completes (.clkStepWrite acc die v) s fun t =>
        t.fld .CLK_STEP_TARGET (regionDie die) = fieldOf v 2 0 ∧ t.fld .CLK_STEP_MODE (regionDie die) = fieldOf v 3 3 ∧
        t.fld .CLK_STEP_CAP (regionDie die) ≤ fieldOf v 10 8 ∧ t.resp = .written ∧
        ((s.clk (regionDie die)).phase ≠ .idle → t.clocks = s.clocks) ∧
        s.keepsRegs t [(.CLK_STEP_TARGET, regionDie die, 0, 0), (.CLK_STEP_MODE, regionDie die, 0, 0), (.CLK_STEP_CAP, regionDie die, 0, 0),
          (.CLK_STEP_BUSY, regionDie die, 0, 0)] ∧
        s.sameBut t fun x => { x with csr := [], caps := [], clocks := [], resp := .none })) ∧
    (∀ carousel : Bool, s.halted (regionDie die) = false → s.dieUp (regionDie die) = true → s.flag .CLK_CTL_STRETCH_EN (regionDie die) = true →
      (carousel = true → die.val < 8) → completes (.stretchPeriod die carousel) s fun t =>
        t.fld .CLK_CNT_STRETCH_COUNT (regionDie die) =
          (s.fld .CLK_CNT_STRETCH_COUNT (regionDie die) + (if carousel then 4 else 1)) % 2 ^ 64 ∧
        s.keepsRegs t [(.CLK_CNT_STRETCH_COUNT, regionDie die, 0, 0)] ∧ (carousel = true ∨ 8 ≤ die.val → s.sameBut t fun x => { x with csr := [] }) ∧
        s.sameBut t fun x => { x with csr := [], pend := [], fresh := 0 }) ∧
    (∀ p : ClkPhase, (s.clk (regionDie die)).phase = p → p = .raising ∨ p = .lowering → completes (.supplyChangeDone die) s fun t =>
      (t.clk (regionDie die)).supply = (if p = .raising then (s.clk (regionDie die)).goal else s.fld .CLK_STEP_CURRENT (regionDie die)) ∧
      s.keepsRegs t [(.CLK_STEP_BUSY, regionDie die, 0, 0)] ∧ s.sameBut t fun x => { x with csr := [], clocks := [] }) ∧
    ((s.clk (regionDie die)).phase = .gliding → completes (.glideComplete die) s fun t =>
      t.fld .CLK_STEP_CURRENT (regionDie die) = (if s.fld .CLK_STEP_CURRENT (regionDie die) < (s.clk (regionDie die)).goal
        then s.fld .CLK_STEP_CURRENT (regionDie die) + 1 else s.fld .CLK_STEP_CURRENT (regionDie die) - 1) % 8 ∧
      t.fld .CLK_CNT_GLIDE_COUNT (regionDie die) = (s.fld .CLK_CNT_GLIDE_COUNT (regionDie die) + 1) % 2 ^ 64 ∧
      s.keepsRegs t [(.CLK_STEP_CURRENT, regionDie die, 0, 0), (.CLK_CNT_GLIDE_COUNT, regionDie die, 0, 0), (.CLK_STEP_BUSY, regionDie die, 0, 0)] ∧
      s.sameBut t fun x => { x with csr := [], clocks := [] }) ∧
    ((s.clk (regionDie die)).phase = .draining → completes (.stopHalt die) s fun t =>
      t.fld .CLK_STEP_STOPPED (regionDie die) = 1 ∧ t.halted (regionDie die) = true ∧
      t.clk (regionDie die) = { s.clk (regionDie die) with phase := .halted, haltedAt := s.now } ∧
      s.keepsRegs t [(.CLK_STEP_STOPPED, regionDie die, 0, 0)] ∧ s.sameBut t fun x => { x with csr := [], clocks := [] }) ∧
    ((s.clk (regionDie die)).phase = .halted → ∃ t, exec (.stopRestart die) s = .next t.accessesProceed ∧
      t.fld .CLK_STEP_CURRENT (regionDie die) = (s.clk (regionDie die)).goal % 8 ∧ t.fld .CLK_STEP_STOPPED (regionDie die) = 0 ∧
      t.fld .CLK_CNT_STOP_COUNT (regionDie die) = (s.fld .CLK_CNT_STOP_COUNT (regionDie die) + 1) % 2 ^ 64 ∧
      t.fld .CLK_CNT_STOP_TIME_COUNT (regionDie die) =
        (s.fld .CLK_CNT_STOP_TIME_COUNT (regionDie die) + 10 * (s.now - (s.clk (regionDie die)).haltedAt)) % 2 ^ 64 ∧
      s.keepsRegs t [(.CLK_STEP_CURRENT, regionDie die, 0, 0), (.CLK_STEP_STOPPED, regionDie die, 0, 0), (.CLK_CNT_STOP_COUNT, regionDie die, 0, 0),
        (.CLK_CNT_STOP_TIME_COUNT, regionDie die, 0, 0), (.CLK_STEP_BUSY, regionDie die, 0, 0)] ∧
      (die.val < 8 → t.crossings = s.crossings.clear (fun k => k.d == regionDie die)) ∧ (8 ≤ die.val → t.crossings = s.crossings) ∧
      s.sameBut t fun x => { x with csr := [], clocks := [], crossings := [] })

/-- A crossing that fails on a running die sets XERR and XING of that die, ends its change of step, takes the die out of service in DIE_STATUS and SVC_STATUS, and makes the module unfit. The crossings of a die have the numbers 0 to 79; no crossing is recorded on a die that has one recorded, or that is out of service. -/
def Obligations.CrossingErrorTakesTheDieOut : Prop :=
  ∀ (s : State) (cd : Fin 8) (xing : BitVec 7),
    (xing.toNat < 80 → s.flag .CLK_STATUS_XERR cd = false → s.dieUp cd = true → completes (.crossingError cd xing) s fun t =>
      t.unfit = true ∧ t.fld .CLK_STATUS_XERR cd = 1 ∧ t.fld .CLK_STATUS_XING cd = xing.toNat ∧ t.halted cd = true ∧
      t.dieUp cd = false ∧ t.flagBit .SVC_STATUS_DIES iod0 0 0 cd = false ∧ (t.clk cd).phase = .idle ∧ t.fld .CLK_STEP_BUSY cd = 0 ∧
      t.fld .CLK_STEP_CURRENT cd = s.fld .CLK_STEP_CURRENT cd) ∧
    (80 ≤ xing.toNat ∨ s.flag .CLK_STATUS_XERR cd = true ∨ s.dieUp cd = false → exec (.crossingError cd xing) s = .next s)

/-- For each of the nine operations: where the entry at POS of a slot's list names the operation, every participating die has issued its CINC and the checks of the start pass, the collective joins the running ones, POS moves on, its instance count rises and each die's oldest CINC is consumed. A descriptor of a wrong form sets BAD_DESC and puts the list into FAULT with POS on the entry. -/
def Obligations.CollectivesStart : Prop :=
  ∀ (s : State) (re : Fin 2) (slot : Fin 4) (op : Nat) (i : Instr) (bs : List MByte) (s1 : State),
    (op, i) ∈ [(1, Instr.allReduce re slot), (2, .reduceScatter re slot), (3, .allGather re slot), (4, .allToAll re slot), (5, .permute re slot),
      (6, .send re slot), (7, .recv re slot), (8, .shift re slot), (9, .barrier re slot)] →
    s.fld .RE_LIST_CTL_CNT (iodDie re) 0 slot ≠ 0 → s.fld .RE_LIST_CTL_STATE (iodDie re) 0 slot ≠ 2 → (s.reColls re slot).length < 4 →
    s.vaRead (unitReq slot) slot (s.fld .RE_LIST_BASE_BASE (iodDie re) 0 slot * 64 + 64 * s.fld .RE_LIST_CTL_POS (iodDie re) 0 slot) 64 = (.ok bs, s1) →
    mPoison bs = false →
    let d := bs.map MByte.b
    let k := field d 3 1 % 8
    let dies := (List.range 8).filter (fun cd => (kDies d).testBit cd)
    let ctxs := dies.map (fun cd => (cd, (s1.reQueue re cd slot k).headD 0))
    let s2 := dies.foldl (fun s cd => s.reConsume re cd slot k) s1
    let inst := s.insts.get 0 (Key.at re slot (kTag d)) % 256
    kOp d = op → (∀ cd ∈ dies, s1.reQueue re cd slot k ≠ []) →
    (s2.collShape d = false → completes i s fun t =>
      t.fld .RE_FAULT_BAD_DESC (iodDie re) = 1 ∧ t.fld .RE_FAULT_INFO_CODE (iodDie re) = 1 ∧ t.fld .RE_FAULT_INFO_SLOT (iodDie re) = slot ∧
      t.fld .RE_FAULT_INFO_ENTRY (iodDie re) = s.fld .RE_LIST_CTL_POS (iodDie re) 0 slot % 2 ^ 16 ∧
      t.fld .RE_LIST_CTL_STATE (iodDie re) 0 slot = 2 ∧ t.fld .RE_LIST_CTL_POS (iodDie re) 0 slot = s.fld .RE_LIST_CTL_POS (iodDie re) 0 slot ∧
      t.colls = s.colls) ∧
    (∀ (table : List MByte) (s3 s4 : State) (c : Coll), s2.collShape d = true →
      s2.collInside slot (kAux d) (if op = 4 then 8 * kSize d else if op = 5 then 16 * (kArg d).toNat else 0) false = true →
      s2.collTable slot d = some (table, s3) → (op = 5 → (State.moveTable d (kArg d).toNat table).isSome) →
      (State.collRegions d table).all (fun r => s3.collInside slot r.1 r.2.1 r.2.2) = true →
      (if op = 4 then kSize d - 1 else (s3.collSenders d (State.collPieces d table)).length) ≤ s3.fld .RE_LAND_SLOTS_SLOTS (iodDie re) 0 slot →
      (op = 5 → ((State.collPieces d table).map Piece.bytes).foldl (· + ·) 0 ≤ s3.fld .RE_LAND_SLOTS_SLOTS (iodDie re) 0 slot * 4096) →
      s3.collBegin slot (s3.collNew slot d (s.fld .RE_LIST_CTL_POS (iodDie re) 0 slot) inst ctxs) table = some (c, s4) → completes i s fun t =>
        (t.reColls re slot).length = (s.reColls re slot).length + 1 ∧
        t.fld .RE_LIST_CTL_POS (iodDie re) 0 slot = (if s.fld .RE_LIST_CTL_POS (iodDie re) 0 slot + 1 < s.fld .RE_LIST_CTL_CNT (iodDie re) 0 slot
          then s.fld .RE_LIST_CTL_POS (iodDie re) 0 slot + 1 else 0) % 2 ^ 16 ∧
        t.insts.get 0 (Key.at re slot (kTag d)) = s.insts.get 0 (Key.at re slot (kTag d)) + 1 ∧
        (∀ cd : Fin 8, t.reQueue re cd slot k = if (kDies d).testBit cd then (s.reQueue re cd slot k).drop 1 else s.reQueue re cd slot k) ∧
        t.fld .RE_FAULT_BAD_DESC (iodDie re) = s.fld .RE_FAULT_BAD_DESC (iodDie re) ∧ t.fld .RE_FAULT_LAND (iodDie re) = s.fld .RE_FAULT_LAND (iodDie re) ∧
        s.sameBut t fun x => { x with
          csr := [], mem := [], side := [], acbAge := [], blocks := [], colls := [], events := [], frames := [], hcClock := 0, hcLines := [],
          held := [], inbox := [], insts := [], landed := [], merges := [], out := [], ports := [], reGen := [], recIn := [], syncs := [],
          logTold := [], fresh := 0 })

/-- A copy of an ALL_GATHER and a segment of a SEND, RECV or SHIFT whose frame stands first are consumed, and their bytes count in RE_CNT_RX_BYTES. A collective of which everything has happened ends: it leaves the running ones, each of its contexts counts in counter 0x61, and RE_CNT_DONE counts it, or RE_CNT_ERR where a word was poisoned or data were cut off. One that runs past the limit sets TIMEOUT once and stays. -/
def Obligations.CollectivesReceiveAndEnd : Prop :=
  ∀ (s : State) (re : Fin 2) (slot : Fin 4),
    (∀ (l : Landed) (rest : List Landed) (k : Nat) (c : Coll), s.reLanded re slot = l :: rest →
      (s.reColls re slot).findIdx? (fun c => State.landedOf l c) = some k → (s.reColls re slot)[k]? = some c →
      (kOp c.desc = 3 → bits l.frame.flow 7 6 = 1 → kScaled c.desc = false →
        let w := 64 * kWire c.desc
        let n := min (128 * l.frame.data.length) (min (State.copyEnd c.desc (bits l.frame.flow 5 5) (l.frame.offset / w) * w) (kCount c.desc * kWire c.desc) - l.frame.offset)
        s.collRoom slot (kDst c.desc + l.frame.offset) n = true → s.collRoom slot (kDstScale c.desc + l.frame.offset / w) 0 = true →
        completes (.reFrameConsume re slot) s fun t =>
          t.fld .RE_CNT_RX_BYTES_COUNT (iodDie re) = (s.fld .RE_CNT_RX_BYTES_COUNT (iodDie re) + n) % 2 ^ 64 ∧
          (t.reColls re slot).length = (s.reColls re slot).length) ∧
      (∀ (j : Nat) (x : Piece), 6 ≤ kOp c.desc → c.placed = true → State.pieceOf c.pieces l.peer l.frame.offset = (some j, none) →
        c.pieces[j]? = some x →
        let bs := (frameBytes l.frame).take (min (128 * l.frame.data.length) (x.bytes - x.buf.length))
        s.collRoom slot (x.va + x.buf.length) (bs.take (x.keep - x.buf.length)).length = true →
        completes (.reFrameConsume re slot) s fun t =>
          t.fld .RE_CNT_RX_BYTES_COUNT (iodDie re) = (s.fld .RE_CNT_RX_BYTES_COUNT (iodDie re) + bs.length) % 2 ^ 64 ∧
          (t.reColls re slot).length = (s.reColls re slot).length)) ∧
    (∀ (k : Fin 4) (c : Coll) (cd ctx : Nat), (s.reColls re slot)[k.val]? = some c → s.collDone re slot c = true → kCen c.desc = false → c.ctxs = [(cd, ctx)] →
      completes (.collectiveEnd re slot k) s fun t =>
        (t.reColls re slot).length + 1 = (s.reColls re slot).length ∧ t.cnt cd ctx 0x61 = (s.cnt cd ctx 0x61 + 1) % 2 ^ 32 ∧
        (c.poison = false → c.trunc = false →
          t.fld .RE_CNT_DONE_COUNT (iodDie re) = (s.fld .RE_CNT_DONE_COUNT (iodDie re) + 1) % 2 ^ 64 ∧
          t.fld .RE_CNT_ERR_COUNT (iodDie re) = s.fld .RE_CNT_ERR_COUNT (iodDie re)) ∧
        (c.poison = true ∨ c.trunc = true →
          t.fld .RE_CNT_ERR_COUNT (iodDie re) = (s.fld .RE_CNT_ERR_COUNT (iodDie re) + 1) % 2 ^ 64 ∧
          t.fld .RE_CNT_DONE_COUNT (iodDie re) = s.fld .RE_CNT_DONE_COUNT (iodDie re) ∧
          (c.poison = true → t.fld .RE_FAULT_POISON (iodDie re) = 1) ∧ (c.trunc = true → t.fld .RE_FAULT_TRUNC (iodDie re) = 1))) ∧
    (∀ (k : Fin 4) (c : Coll), (s.reColls re slot)[k.val]? = some c → s.collDone re slot c = false → exec (.collectiveEnd re slot k) s = .next s) ∧
    (∀ (k : Nat) (c : Coll), (s.reColls re slot)[k]? = some c →
      (s.reColls re slot).findIdx? (fun c => !c.timedOut && decide (c.started + max (s.fld .RE_CTL_LIMIT (iodDie re)) 1 * 1000 * usTicks ≤ s.now)) = some k →
      completes (.collectiveTimeout re slot) s fun t =>
        t.fld .RE_FAULT_TIMEOUT (iodDie re) = 1 ∧ t.fld .RE_FAULT_INFO_CODE (iodDie re) = 5 ∧ t.fld .RE_FAULT_INFO_SLOT (iodDie re) = slot ∧
        t.fld .RE_FAULT_INFO_TAG (iodDie re) = kTag c.desc % 2 ^ 16 ∧ t.fld .RE_FAULT_INFO_INST (iodDie re) = c.inst % 2 ^ 8 ∧
        t.reColls re slot = (s.reColls re slot).modify k (fun c => { c with timedOut := true }) ∧ s.raised t .EV_RE_TIMEOUT (iodDie re) ∧
        s.keepsRegs t [(.RE_FAULT_TIMEOUT, iodDie re, 0, 0), (.RE_FAULT_INFO_TAG, iodDie re, 0, 0), (.RE_FAULT_INFO_INST, iodDie re, 0, 0),
          (.RE_FAULT_INFO_SLOT, iodDie re, 0, 0), (.RE_FAULT_INFO_CODE, iodDie re, 0, 0), (.RE_FAULT_INFO_ENTRY, iodDie re, 0, 0)] ∧
        s.sameBut t fun x => { x with csr := [], colls := [], events := [] })

/-- A CREDIT message gives its collective credits toward the sender. A COUNT message writes the RECV count of the sender into the count table and keeps it. A GATHER that passes a member of a ring or chain is sent on; a RESULT that passes it completes the collective's circuit, with the totals that it carries. -/
def Obligations.CollectiveMessages : Prop :=
  ∀ (s : State) (m : List Byte) (slot re k : Nat) (c : Coll) (s1 : State),
    (s.reMsg 3 (fun _ _ => true) = some (m, slot, some (re, k, c), s1) → ∃ credits : List (Nat × Nat) → List (Nat × Nat), exec .credit s =
      .next (State.collPump re slot 8 (s1.modColl re slot k fun x => { x with credits := credits x.credits })) ∧
      (∀ cs, (∀ e ∈ cs, e.1 ≠ s1.msgPeer c m) → credits cs = cs ++ [(s1.msgPeer c m, field m 0x18 4)]) ∧
      (∀ cs, (∃ e ∈ cs, e.1 = s1.msgPeer c m) →
        credits cs = cs.map fun e => if e.1 = s1.msgPeer c m then (s1.msgPeer c m, e.2 + field m 0x18 4) else e)) ∧
    (s.reMsg 4 (fun _ _ => true) = some (m, slot, some (re, k, c), s1) → s1.collRoom slot (kAux c.desc + 8 * s1.msgPeer c m + 4) 4 = true →
      kOp c.desc = 4 → s1.msgPeer c m < kSize c.desc → (∀ e ∈ c.counts, e.1 ≠ s1.msgPeer c m) → exec .count s = .next (State.collPump re slot 8
        ((s1.vaWrite (unitReq slot) slot (kAux c.desc + 8 * s1.msgPeer c m + 4) (leBytes 4 (field m 0x18 4)) false false).modColl re slot k
          fun x => { x with counts := x.counts ++ [(s1.msgPeer c m, field m 0x18 4)] }))) ∧
    (∀ i sub, (i, sub) ∈ [(Instr.barrierGather, 1), (.noiseGather, 5)] → s.reMsg sub (fun _ c => s.tasksDone c) = some (m, slot, some (re, k, c), s1) →
      State.kCircuit c.desc = true → State.kGatherSub c.desc = sub → kTree c.desc = false → kRank c.desc ≠ 0 → completes i s fun t =>
        t.reColls re slot = (s1.reColls re slot).modify k (fun c => { c with gathered := true }) ∧ t.mem = s1.mem ∧
        s1.sameBut t fun x => { x with csr := [], colls := [], ports := [], out := [], inbox := [], events := [] }) ∧
    (∀ i sub, (i, sub) ∈ [(Instr.barrierResult, 2), (.noiseResult, 6)] →
      s.reMsg sub (fun slot c => sub = 2 || s.collRoom slot (kAux c.desc) 64) = some (m, slot, some (re, k, c), s1) →
      State.kCircuit c.desc = true → State.kGatherSub c.desc + 1 = sub → kTree c.desc = false → c.passed = false → completes i s fun t =>
        t.reColls re slot = (s1.reColls re slot).modify k (fun c => { c with passed := true, totals := (field m 0x18 8, field m 0x20 8) }) ∧
        (sub = 2 → t.mem = s1.mem) ∧ t.landed = s1.landed ∧ t.insts = s1.insts)

/-- A supervisor write of RE_LIST_CTL of a slot without running collectives sets CNT, clears POS and STATE, and leaves the instance counts as they are; with one running it is refused. A write of RE_SR_SEED seeds the generator. Sideshow work left on a die 20 us after its yield started is abandoned: FORCED is set and SEQ_CNT_SS_FORCED counts. -/
def Obligations.RingEngineRegistersAndYield : Prop :=
  ∀ (s : State) (acc : Accessor) (re : Fin 2) (slot : Fin 4) (v : Word64),
    (s.dieUp (iodDie re) = true → isSup acc = true →
      (s.reColls re slot = [] → completes (.reListCtlWrite acc re slot v) s fun t =>
        t.fld .RE_LIST_CTL_CNT (iodDie re) 0 slot = fieldOf v 15 0 ∧ t.fld .RE_LIST_CTL_POS (iodDie re) 0 slot = 0 ∧
        t.fld .RE_LIST_CTL_STATE (iodDie re) 0 slot = 0 ∧ t.resp = .written ∧
        s.keepsRegs t [(.RE_LIST_CTL_CNT, iodDie re, 0, slot), (.RE_LIST_CTL_POS, iodDie re, 0, slot), (.RE_LIST_CTL_STATE, iodDie re, 0, slot)] ∧
        s.sameBut t fun x => { x with csr := [], resp := .none }) ∧
      (s.reColls re slot ≠ [] → exec (.reListCtlWrite acc re slot v) s = .next { s with resp := .busError })) ∧
    (s.dieUp (iodDie re) = true → s.seedAllowed acc re = true → completes (.reSrSeedWrite acc re v) s fun t =>
      t.fld .RE_SR_SEED_SEED (iodDie re) = v.toNat ∧ t.reGen.get 1 (Key.at re) = (if v = 0 then 1 else v.toNat) ∧ t.resp = .written ∧
      s.keepsRegs t [(.RE_SR_SEED_SEED, iodDie re, 0, 0)] ∧ s.sameBut t fun x => { x with csr := [], reGen := [], resp := .none }) ∧
    (∀ cd : Fin 8, s.flag .SEQ_SS_STATUS_YIELDING cd = true → s.yieldAt.get 0 (Key.at cd) + 20 * usTicks ≤ s.now → s.isSideshow slot = true →
      completes (.yieldForced cd) s fun t =>
        t.fld .SEQ_SS_STATUS_FORCED cd = 1 ∧ t.fld .SEQ_CNT_SS_FORCED_COUNT cd = (s.fld .SEQ_CNT_SS_FORCED_COUNT cd + 1) % 2 ^ 64 ∧
        t.patterns = s.patterns ∧ t.syncs = s.syncs ∧ t.colls = s.colls ∧ t.votes = s.votes)

/-- For every instruction of the sequencer: where the context stands at it and a bit of its first word that its OP does not define is set, it does not issue, and the context faults with BAD_INST, its FAULT_PC the word that it stands at (UNIT reads 0, the model's choice of log entry 125). The results of earlier beats land, and a context that has not faulted before becomes FAULTED. -/
def Obligations.ReservedBitsFaultTheContext : Prop :=
  ∀ (s : State) (cd : Fin 8) (t op : Nat) (i : Instr) (f : Fetch), (op, i) ∈ [(1, Instr.issue cd t), (3, .wait cd t), (4, .salu cd t), (5, .br cd t),
      (6, .post cd t), (7, .fence cd t), (8, .signal cd t), (9, .cinc cd t), (10, .yield cd t), (11, .endContext cd t), (12, .cset cd t)] →
    s.stands cd t op f → f.clean = false → completes i s fun u =>
      u.fld .SEQ_CTX_STATE_STATE cd 0 f.c = 5 ∧ u.fld .SEQ_CTX_FAULT_CAUSE cd 0 f.c = 1 ∧ u.fld .SEQ_CTX_FAULT_UNIT cd 0 f.c = 0 ∧
      u.fld .SEQ_CTX_FAULT_PC cd 0 f.c = s.fld .SEQ_CTX_PC_PC cd 0 f.c % 2 ^ 32 ∧
      u.fld .SEQ_CTX_PC_PC cd 0 f.c = s.fld .SEQ_CTX_PC_PC cd 0 f.c ∧ u.fld .SEQ_CNT_ISSUE_COUNT cd 0 f.c = s.fld .SEQ_CNT_ISSUE_COUNT cd 0 f.c ∧
      u.sregs = (s.reach cd t).sregs ∧ u.vreg = (s.reach cd t).vreg ∧ u.pend = (s.reach cd t).pend ∧
      u.arrays = s.arrays ∧ u.colls = s.colls

/-- Each instruction of the sequencer that may issue counts in SEQ_CNT_ISSUE and moves the program counter of its context, after the results of earlier beats have landed, and no other context's. SALU puts its result in flight, to be read one beat later, or three beats later for MUL and KONST. BR goes to its target where its condition holds, and to the next word where it does not. WAIT and FENCE go on where they need not block; CINC counts on its synchronisation counter; SIGNAL posts a notice; POST writes its words and counts in counter 0x60; CSET of a seed puts the seed in flight, to take effect two beats later, and CSET of an array register enters the queue of the array; END makes the context DONE. -/
def Obligations.SequencerInstructionsIssue : Prop :=
  ∀ (s : State) (cd : Fin 8) (t : Nat) (f : Fetch), f.clean = true →
    let s1 := s.reach cd t
    let pc := s.fld .SEQ_CTX_PC_PC cd 0 f.c
    let own := fun x : State => { x with csr := [], ctxs := [], lastRan := [], yieldHold := [] }
    (s.stands cd t 10 f → completes (.yield cd t) s fun u => s1.issuesTo u cd f (pc + 1) ∧ s1.sameBut u own) ∧
    (∀ (v : Word64), s.stands cd t 4 f →
      let fn := fieldOf f.w 19 16
      let a := s1.sreg cd f.c (fieldOf f.w 29 25)
      let b := s1.sreg cd f.c (fieldOf f.w 34 30)
      let imm := fieldOf f.w 63 40
      (fn, v) ∈ [(0, a + b), (1, a - b), (2, a &&& b), (3, a ||| b), (4, a ^^^ b), (5, a <<< (b.toNat % 64)), (6, a >>> (b.toNat % 64)), (7, a * b),
        (8, BitVec.ofNat 64 imm), (9, BitVec.ofNat 64 (s1.konstWord cd f.slot imm))] →
      (fn = 9 → imm < (s.pattern cd f.slot).constWords) → completes (.salu cd t) s fun u =>
        s1.issuesTo u cd f (pc + 1) ∧
        u.pend = s1.pend ++ [Pending.scalar cd f.c (fieldOf f.w 24 20) v (t + if fn = 7 ∨ fn = 9 then 3 else 1)] ∧
        s1.sameBut u fun x => { own x with pend := [] }) ∧
    (∀ (taken : Bool), s.stands cd t 5 f →
      let a := (s1.sreg cd f.c (fieldOf f.w 24 20)).toInt
      let b := (s1.sreg cd f.c (fieldOf f.w 29 25)).toInt
      let dest : Int := (pc : Int) + toSigned 32 (fieldOf f.w 63 32)
      (fieldOf f.w 19 16, taken) ∈ [(0, true), (1, decide (a = b)), (2, decide (a ≠ b)), (3, decide (a < b)), (4, decide (b ≤ a))] →
      (taken = true → 0 ≤ dest ∧ dest < (s.pattern cd f.slot).codeWords) → completes (.br cd t) s fun u =>
        s1.issuesTo u cd f (if taken then dest.toNat else pc + 1) ∧ s1.sameBut u own) ∧
    (s.stands cd t 3 f → cntValid (fieldOf f.w 23 16) = true → reached (s1.waitValue cd f.c (fieldOf f.w 23 16))
        ((fieldOf f.w 63 32 + (s1.sreg cd f.c (fieldOf f.w 28 24)).toNat) % 2 ^ 32) = true →
      completes (.wait cd t) s fun u => s1.issuesTo u cd f (pc + 1) ∧ s1.sameBut u own) ∧
    (s.stands cd t 7 f → s1.fenceDone cd f.c = true → completes (.fence cd t) s fun u => s1.issuesTo u cd f (pc + 1) ∧ s1.sameBut u own) ∧
    (s.stands cd t 9 f → completes (.cinc cd t) s fun u =>
        let k := fieldOf f.w 18 16
        u.fld .SEQ_CTX_PC_PC cd 0 f.c = (pc + 1) % 2 ^ 32 ∧
        (u.sync cd f.slot k).count = ((s.sync cd f.slot k).count + 1) % 2 ^ 32 ∧
        (∀ d x j, (d, x, j) ≠ (cd.val, f.slot, k) → (u.sync d x j).count = (s.sync d x j).count) ∧
        s1.sameBut u fun x => { own x with syncs := [], votes := [] }) ∧
    (s.stands cd t 8 f →
      let held := s.notices.get [] (Key.at 0 f.slot)
      held ≠ [] → completes (.signal cd t) s fun u =>
        u.fld .SEQ_CTX_PC_PC cd 0 f.c = (pc + 1) % 2 ^ 32 ∧
        (held.length < 64 → ∃ e, u.notices.get [] (Key.at 0 f.slot) = held ++ [e] ∧ field e 4 2 = 1 ∧ field e 6 1 = f.slot % 2 ^ 8 ∧ field e 8 1 = cd ∧
          field e 12 4 = (s1.sreg cd f.c (fieldOf f.w 24 20)).toNat % 2 ^ 32 ∧ s1.issuesTo u cd f (pc + 1) ∧ s1.sameBut u fun x => { own x with notices := [] }) ∧
        (64 ≤ held.length → u.notices = s.notices ∧ u.fld .SLQ_EVENTS_OVERFLOW iod0 f.slot = 1 ∧
          u.fld .SLQ_CNT_DROP_COUNT iod0 f.slot = (s.fld .SLQ_CNT_DROP_COUNT iod0 f.slot + 1) % 2 ^ 64)) ∧
    (s.stands cd t 6 f →
      let n := fieldOf f.w 21 16
      let va := (s1.sreg cd f.c (fieldOf f.w 26 22)).toNat
      let k := fieldOf f.w 63 32
      let s2 := s1.step1 cd f t
      n ≠ 0 → n ≤ 32 → k + n ≤ (s.pattern cd f.slot).constWords → va < 2 ^ 48 → va % 8 = 0 → va / 256 = (va + 8 * n - 1) / 256 →
      s1.vaAdmit (unitReq f.slot) f.slot va (8 * n) true = some true → s1.issuesTo s2 cd f (pc + 1) ∧
        let s3 := s2.vaWrite (unitReq f.slot) f.slot va ((List.range n).flatMap fun j => leBytes 8 (s1.konstWord cd f.slot (k + j))) false false
        (∀ a, s3.translate f.slot va true = .pa a → exec (.post cd t) s = .next ((s3.meshPosted cd a (8 * n)).bumpCnt cd f.c 0x60)) ∧
        (∀ e, s3.translate f.slot va true = .fault e → exec (.post cd t) s = .next (s3.bumpCnt cd f.c 0x60))) ∧
    (s.stands cd t 12 f →
      let unit := fieldOf f.w 23 16
      let reg := fieldOf f.w 36 24
      let v := s1.sreg cd f.c (fieldOf f.w 41 37)
      ((0x50 ≤ unit ∧ unit < 0x58 ∧ reg = 0x101 ∧ (s1.ctxVes cd f.c).testBit (unit - 0x50) = true) ∨ (0x58 ≤ unit ∧ unit < 0x60 ∧ reg = 2) →
        completes (.cset cd t) s fun u => s1.issuesTo u cd f (pc + 1) ∧ u.pend = s1.pend ++ [Pending.seed cd unit v (t + 2)] ∧
          s1.sameBut u fun x => { own x with pend := [] }) ∧
      (unit < 0x18 → csetArrReg reg = true → (s.array cd unit).queue.length < 16 → s.fld .ARR_STATUS_STATE cd unit ≠ 3 →
        completes (.cset cd t) s fun u => s1.issuesTo u cd f (pc + 1) ∧
          u.array cd unit = { s.array cd unit with
            queue := (s.array cd unit).queue ++ [.cset reg v f.c f.slot (t + 2)], waking := (s.array cd unit).waking || s.fld .ARR_STATUS_STATE cd unit = 0 } ∧
          s1.sameBut u fun x => { own x with arrays := [] })) ∧
    (s.stands cd t 11 f → f.c < 4 → completes (.endContext cd t) s fun u =>
        u.fld .SEQ_CTX_STATE_STATE cd 0 f.c = 6 ∧ u.fld .SEQ_CTX_PC_PC cd 0 f.c = pc ∧
        u.fld .SEQ_CNT_ISSUE_COUNT cd 0 f.c = (s.fld .SEQ_CNT_ISSUE_COUNT cd 0 f.c + 1) % 2 ^ 64 ∧ s1.sameBut u own)

/-- A WAIT whose counter has not reached its target, and a FENCE before the last write of the context, leave the context WAITING with its program counter on the instruction; WAIT_CNT names the counter. Once the counter has reached the target, or the last write is visible, the program counter moves past the instruction, WAIT_CNT reads zero and the beats of the wait count in SEQ_CNT_WAIT; until then nothing happens. -/
def Obligations.ContextsBlockAndGoOn : Prop :=
  ∀ (s : State) (cd : Fin 8) (t : Nat),
    (∀ f : Fetch, f.clean = true →
      let s1 := s.reach cd t
      let own := fun x : State => { x with csr := [], ctxs := [], lastRan := [], yieldHold := [] }
      let blocks := fun (u : State) (n target : Nat) (fenced : Bool) =>
        u.fld .SEQ_CTX_STATE_STATE cd 0 f.c = 3 ∧ u.fld .SEQ_CTX_STATE_WAIT_CNT cd 0 f.c = n ∧
        u.fld .SEQ_CTX_PC_PC cd 0 f.c = s.fld .SEQ_CTX_PC_PC cd 0 f.c ∧
        u.fld .SEQ_CNT_ISSUE_COUNT cd 0 f.c = (s.fld .SEQ_CNT_ISSUE_COUNT cd 0 f.c + 1) % 2 ^ 64 ∧
        u.ctx cd f.c = { s1.ctx cd f.c with target := target, fenced := fenced, since := t } ∧ s1.sameBut u own
      (s.stands cd t 3 f →
        let target := (fieldOf f.w 63 32 + (s1.sreg cd f.c (fieldOf f.w 28 24)).toNat) % 2 ^ 32
        cntValid (fieldOf f.w 23 16) = true → reached (s1.waitValue cd f.c (fieldOf f.w 23 16)) target = false →
        completes (.wait cd t) s fun u => blocks u (fieldOf f.w 23 16) target false) ∧
      (s.stands cd t 7 f → s1.fenceDone cd f.c = false → completes (.fence cd t) s fun u => blocks u 0 0 true)) ∧
    (∀ (ctx : Fin 4) (i : Instr) (fenced done : Bool), s.halted cd = false → s.ctxState cd ctx = 3 → (s.ctx cd ctx).since ≤ t →
      (s.ctx cd ctx).fenced = fenced →
      (i, fenced, done) ∈ [(Instr.waitSatisfied cd ctx t, false, reached (s.waitValue cd ctx (s.fld .SEQ_CTX_STATE_WAIT_CNT cd 0 ctx)) (s.ctx cd ctx).target),
        (.fenceComplete cd ctx t, true, s.fenceDone cd ctx)] →
      (done = false → exec i s = .next s) ∧
      (done = true → completes i s fun u =>
        u.fld .SEQ_CTX_PC_PC cd 0 ctx = (s.fld .SEQ_CTX_PC_PC cd 0 ctx + 1) % 2 ^ 32 ∧ u.fld .SEQ_CTX_STATE_WAIT_CNT cd 0 ctx = 0 ∧
        u.fld .SEQ_CNT_WAIT_COUNT cd 0 ctx = (s.fld .SEQ_CNT_WAIT_COUNT cd 0 ctx + (t - (s.ctx cd ctx).since)) % 2 ^ 64 ∧
        (u.fld .SEQ_CTX_STATE_STATE cd 0 ctx = 1 ∨ u.fld .SEQ_CTX_STATE_STATE cd 0 ctx = 2) ∧ (u.ctx cd ctx).fenced = false ∧
        s.sameBut u fun x => { x with csr := [], ctxs := [], lastRan := [], yieldHold := [], yieldAt := [] }))

/-- An ISSUE to an array, a bobbin, a station, a vector engine of the context or a stream engine whose queue has room puts the 16-byte command last in that queue and issues; the queues of every other unit stay. Where the queue is full the context is held, with STALL naming the cause, and nothing is queued. -/
def Obligations.CommandsEnterUnitQueues : Prop :=
  ∀ (s : State) (cd : Fin 8) (t : Nat) (f : Fetch), f.clean = true → s.stands cd t 1 f →
    let s1 := s.reach cd t
    let u := fieldOf f.w 23 16
    let c : Cmd := ⟨f.w1, f.w2, f.c, f.slot, t + 2⟩
    let pc := s.fld .SEQ_CTX_PC_PC cd 0 f.c + 3
    (u < 0x18 → (s.array cd u).queue.length < 16 → s.fld .ARR_STATUS_STATE cd u ≠ 3 → completes (.issue cd t) s fun v =>
      s1.issuesTo v cd f pc ∧ v.array cd u = { s.array cd u with
        queue := (s.array cd u).queue ++ [.cmd c], waking := (s.array cd u).waking || s.fld .ARR_STATUS_STATE cd u = 0 } ∧
      s1.sameBut v fun x => { x with csr := [], ctxs := [], lastRan := [], yieldHold := [], arrays := [] }) ∧
    (∀ b : Nat, u = 0x18 + b → b < 0x30 → (s.bobbin cd b).queue.length < 8 → s.fdrHeld cd b = false → completes (.issue cd t) s fun v =>
      s1.issuesTo v cd f pc ∧ (v.bobbin cd b).queue = (s.bobbin cd b).queue ++ [c] ∧
      s1.sameBut v fun x => { x with csr := [], ctxs := [], lastRan := [], yieldHold := [], arrays := [], bobbins := [] }) ∧
    (∀ g : Nat, u = 0x48 + g → g < 4 → (s.station cd g).queue.length < 8 → (s.station cd g).held = false → completes (.issue cd t) s fun v =>
      s1.issuesTo v cd f pc ∧ (v.station cd g).queue = (s.station cd g).queue ++ [c] ∧
      s1.sameBut v fun x => { x with csr := [], ctxs := [], lastRan := [], yieldHold := [], stations := [] }) ∧
    (∀ n : Nat, u = 0x50 + n → n < 8 → (s1.ctxVes cd f.c).testBit n = true → (s.ve cd n).queue.length < 8 →
      (c.kind = 0xD → s1.lateHold cd n t [fieldOf f.w1 8 4] [] = false) → completes (.issue cd t) s fun v =>
      s1.issuesTo v cd f pc ∧ (∃ x, (v.ve cd n).queue = (s.ve cd n).queue ++ [x] ∧ x.cmd = c) ∧
      s1.sameBut v fun x => { x with csr := [], ctxs := [], lastRan := [], yieldHold := [], ves := [] }) ∧
    (∀ n : Nat, u = 0x58 + n → n < 8 → (s.seUnit cd n).queue.length < 8 → completes (.issue cd t) s fun v =>
      s1.issuesTo v cd f pc ∧ (v.seUnit cd n).queue = (s.seUnit cd n).queue ++ [c] ∧
      s1.sameBut v fun x => { x with csr := [], ctxs := [], lastRan := [], yieldHold := [], ses := [] }) ∧
    (u < 0x18 → 16 ≤ (s.array cd u).queue.length → s.ctxState cd f.c = 2 → s.flag .SEQ_CTX_STATE_SIDESHOW cd 0 f.c = false → completes (.issue cd t) s fun v =>
      v.fld .SEQ_CTX_STATE_STATE cd 0 f.c = 4 ∧ v.fld .SEQ_CTX_STATE_STALL cd 0 f.c = 1 ∧
      s1.keepsRegs v [(.SEQ_CTX_STATE_STATE, cd, 0, f.c), (.SEQ_CTX_STATE_STALL, cd, 0, f.c)] ∧ s1.sameBut v fun x => { x with csr := [], ctxs := [] })

/-- Each of the thirteen vector operations whose checks pass, whose registers hold no late result and whose engine accepts it takes the charge of the engine, issues, keeps the engine for its repeats, and puts its results in flight: for one repeat, those of its lanes, to be read after the latency of its function. A unit without work returns its charge in the beat after its last idle one. -/
def Obligations.VectorOperationsStart : Prop :=
  ∀ (s : State) (cd : Fin 8) (t : Nat),
    (∀ (fn : Nat) (i : Instr) (f : Fetch), (fn, i) ∈ [(1, Instr.add cd t), (2, .sub cd t), (3, .mul cd t), (4, .fma cd t), (5, .max cd t), (6, .min cd t),
        (7, .cmp cd t), (8, .sel cd t), (9, .cvt cd t), (10, .func cd t), (11, .rsum cd t), (12, .rmax cd t), (13, .perm cd t)] →
      let s1 := s.reach cd t
      let v := vopOf f.w1
      let ve := fieldOf f.w 18 16
      s.stands cd t 2 f → f.clean = true → v.fn = fn → (s1.ctxVes cd f.c).testBit ve = true → v.badInst = false → v.badFmt = false →
      s1.funcRefused cd ve v = false →
      s1.lateHold cd ve t v.allReads v.allWrites = false →
      (s.ve cd ve).acceptFrom ≤ t → s1.mayStart cd (unitVe ve) f.slot = true → completes i s fun u =>
        s1.issuesTo u cd f (s.fld .SEQ_CTX_PC_PC cd 0 f.c + 2) ∧ u.charged cd (unitVe ve) = some f.slot ∧ (u.ve cd ve).acceptFrom = t + v.rep + 1 ∧
        (v.rep = 0 → ((s.ve cd ve).queue.all fun x => decide (x.cmd.kind ≠ 1)) = true → u.pend = s1.pend ++ ((v.run (s1.ve cd ve).gen (s1.ftab.slice (ftabBase cd ve v.table) 32832) (s1.vregAt cd ve v.va t).1
            (s1.vregAt cd ve v.vb t).1 (s1.vregAt cd ve v.vc t).1).1.map fun w => Pending.vector cd ve w.1 w.2
              ((v.fn = 10 && s.pairSealed.get false (Key.at cd ve v.table)) || (s1.vregAt cd ve v.va t).2 ||
                (v.reads.length ≥ 2 && (s1.vregAt cd ve v.vb t).2) || (v.reads.length ≥ 3 && (s1.vregAt cd ve v.vc t).2))
              (t + v.latency) (v.late s.b0) 0)) ∧
        s1.sameBut u fun x => { x with csr := [], ctxs := [], lastRan := [], yieldHold := [], charges := [], ves := [], pend := [], fresh := 0 }) ∧
    (∀ (unit : Fin 96), s.halted cd = false → ∀ slot, s.charged cd unit = some slot → s.unitIdle cd unit slot = true →
      let s1 := s.reach cd (s.unitQuiet cd unit + s.idleBeats cd slot + 1)
      completes (.ticketRelease cd unit) s fun u => u.charged cd unit = none ∧ (∀ d x, (d, x) ≠ (cd.val, unit.val) → u.charged d x = s.charged d x) ∧
        s1.keepsRegs u [(.SEQ_SS_STATUS_YIELDING, cd, 0, 0)] ∧ s1.sameBut u fun x => { x with csr := [], charges := [] })

/-- A VLD, VST, SCALE_PICK or FTAB_LOAD at the head of a vector engine's memory queue whose checks pass starts: it takes the charge of its engine, and a table load clears VALID of its pair. When its words have moved it leaves the queue and counts for its context: a table load whose header is good stores the pair with the epoch of the moment and sets VALID; a SCALE_PICK writes its record and, with VD_EN, every lane of VD. A write of VE_SR_SEED seeds the generator. -/
def Obligations.VectorMemoryCommands : Prop :=
  ∀ (s : State) (cd ve : Fin 8),
    (∀ (kind : Nat) (i : Instr) (bad : Bool) (x : VeCmd) (rest : List VeCmd),
      (kind, i, bad) ∈ [(1, Instr.vld cd ve, vmBad x.cmd), (2, .vst cd ve, vmBad x.cmd), (0xD, .scalePick cd ve, spBad x.cmd), (0xE, .ftabLoad cd ve, ftBad x.cmd)] →
      s.halted cd = false → s.dieUp cd = true → (s.ve cd ve).started = false → (s.ve cd ve).queue = x :: rest → x.cmd.kind = kind → bad = false →
      (s.reach cd x.cmd.enters).mayStart cd (unitVe ve) x.cmd.slot = true →
      let s1 := (s.reach cd x.cmd.enters).tktClose cd (unitVe ve) x.cmd.ctx
      completes i s fun u =>
        u.ve cd ve = { s1.ve cd ve with started := true } ∧ u.charged cd (unitVe ve) = some x.cmd.slot ∧
        (kind = 0xE → u.flagBit .VE_FTAB_STATUS_VALID cd ve 0 (ftPair x.cmd) = false) ∧ (kind ≠ 0xE → u.csr = s1.csr) ∧
        s1.keepsRegs u [(.VE_FTAB_STATUS_VALID, cd, ve, 0)] ∧ s1.sameBut u fun y => { y with csr := [], ves := [], charges := [] }) ∧
    (∀ (x : VeCmd) (rest : List VeCmd), s.halted cd = false → (s.ve cd ve).started = true → (s.ve cd ve).queue = x :: rest →
      let c := x.cmd
      let done := fun (a u : State) =>
        u.ve cd ve = { a.ve cd ve with queue := (a.ve cd ve).queue.tail, started := false, pins := if c.kind = 2 then [] else (a.ve cd ve).pins } ∧
        u.cnt cd c.ctx (unitVe ve) = (a.cnt cd c.ctx (unitVe ve) + 1) % 2 ^ 32 ∧
        a.keepsRegs u [(.MESH_CNT_FLITS_COUNT, cd, 0, 0), (.MESH_PEAK_PEAK, cd, 0, 0)] ∧
        a.sameBut u fun y => { y with csr := [], ves := [], cnts := [], crossings := [], busyAt := [] }
      (∀ t : State, c.kind = 1 → State.vldRun cd ve c (vmRep c + 1) 0 (s.reachVe cd ve (vmRegs c)) = (0, t) → completes (.vmemComplete cd ve) s (done t)) ∧
      (∀ t : State, c.kind = 2 → State.vstRun cd ve c (vmRep c + 1) 0 s = (0, t) → completes (.vmemComplete cd ve) s (done t)) ∧
      let s1 := if spVdEn c then s.reachVe cd ve [spVd c] else s
      (c.kind = 0xD → s1.judge (unitReq c.slot) (sramAddr cd (vmAddr c)) = .ok →
        let r := (s1.writeWord (unitReq c.slot) (sramAddr cd (vmAddr c)) (leNat (spRecord c x.lane0 (s.fld .NUM_STEP_STEP mh0 c.slot)))
          false x.laneSealed).meshWrite cd (.ve ve) (sramAddr cd (vmAddr c))
        (spVdEn c = false → completes (.vmemComplete cd ve) s (done r)) ∧
        (spVdEn c = true → completes (.vmemComplete cd ve) s (done
          (r.setVreg cd ve (spVd c) (unchunks 4 (List.replicate 2048 (pow2Pat (spK c (spAmax c x.lane0))))) x.laneSealed)))) ∧
      (∀ (bs : List Byte) (sl : Bool) (t : State), c.kind = 0xE → State.vmRead cd ve (unitReq c.slot) 1026 (sramAddr cd (vmAddr c)) [] false s = (bs, sl, 0, t) →
        (ftGood bs = true → completes (.vmemComplete cd ve) s fun u =>
          u.flagBit .VE_FTAB_STATUS_VALID cd ve 0 (ftPair c) = true ∧ u.pairEpoch.get 0 (Key.at cd ve (ftPair c)) = t.fld .VE_FTAB_STATUS_EPOCH cd ve ∧
          u.pairSealed.get false (Key.at cd ve (ftPair c)) = sl ∧ u.ftab = t.ftab.splice (ftabBase cd ve (ftPair c)) bs ∧
          (u.ve cd ve).started = false ∧ u.cnt cd c.ctx (unitVe ve) = (t.cnt cd c.ctx (unitVe ve) + 1) % 2 ^ 32 ∧
          t.keepsRegs u [(.VE_FTAB_STATUS_VALID, cd, ve, 0), (.MESH_CNT_FLITS_COUNT, cd, 0, 0), (.MESH_PEAK_PEAK, cd, 0, 0)] ∧
          t.sameBut u fun y => { y with
            csr := [], ves := [], cnts := [], ftab := [], pairEpoch := [], pairSealed := [], crossings := [], busyAt := [] }) ∧
        (ftGood bs = false → exec (.vmemComplete cd ve) s = .next (t.vmError cd ve c causeBadFmt)))) ∧
    (∀ (acc : Accessor) (v : Word64), s.dieUp cd = true → isSup acc = true → completes (.veSrSeedWrite acc cd ve v) s fun u =>
      u.fld .VE_SR_SEED_SEED cd ve = v.toNat ∧ (u.ve cd ve).gen = (if v = 0 then 1 else v.toNat) ∧ u.resp = .written ∧
      s.keepsRegs u [(.VE_SR_SEED_SEED, cd, ve, 0)] ∧ s.sameBut u fun y => { y with csr := [], ves := [], resp := .none })

/-- A stream whose checks pass starts on a free channel: RUNNING, with its slot, context, descriptor and tag in SE_CH_STATUS and its watermark at 0. A running stream that has delivered every element ends: its channel is IDLE, SE_CNT_STREAMS counts it and its context counts it. One that meets a translation fault is suspended with the fault in SE_CH_FAULT. RESUME lets a suspended stream run on; FAIL of a channel that is not suspended does nothing; a suspension past its limit is reported. -/
def Obligations.StreamsStartAndEnd : Prop :=
  ∀ (s : State) (cd se : Fin 8) (ch : Fin 4), s.halted cd = false →
    (∀ (c : Cmd) (rest : List Cmd) (x : StreamRun) (s1 : State), (s.seUnit cd se).queue = c :: rest → s.stream cd se ch = none →
      (s.reach cd c.enters).mayStart cd (unitSe se) c.slot = true →
      ((s.reach cd c.enters).tktClose cd (unitSe se) c.ctx).streamChecks cd se c = (.run x, s1) → completes (.stream cd se ch) s fun u =>
        u.stream cd se ch = some x ∧ (u.seUnit cd se).queue = rest ∧ u.charged cd (unitSe se) = some c.slot ∧
        u.fld .SE_CH_STATUS_STATE cd se ch = 1 ∧ u.fld .SE_CH_STATUS_SLOT cd se ch = c.slot % 4 ∧ u.fld .SE_CH_STATUS_CTX cd se ch = c.ctx % 4 ∧
        u.fld .SE_CH_STATUS_DESC cd se ch = fieldOf c.w0 30 16 ∧ u.fld .SE_CH_STATUS_TAG cd se ch = c.tag % 2 ^ 16 ∧ u.fld .SE_CH_WMARK_WMARK cd se ch = 0 ∧
        s1.keepsRegs u [(.SE_CH_STATUS_STATE, cd, se, ch), (.SE_CH_STATUS_SLOT, cd, se, ch), (.SE_CH_STATUS_CTX, cd, se, ch),
          (.SE_CH_STATUS_DESC, cd, se, ch), (.SE_CH_STATUS_TAG, cd, se, ch), (.SE_CH_WMARK_WMARK, cd, se, ch)] ∧
        s1.sameBut u fun y => { y with csr := [], ses := [], streams := [], charges := [] }) ∧
    (∀ r : StreamRun, s.stream cd se ch = some r → s.fld .SE_CH_STATUS_STATE cd se ch = 1 → r.ending = none →
      let m := s.streamMove cd se ch r
      let k := State.keepMove m cd se ch r
      (m.stop = none → exec (.streamEnd cd se ch) s = .next (k.2.endStream cd se ch k.1 0)) ∧
      (m.stop = none → dCen r.desc = false → State.isStash r.desc = false → r.source = none → r.entry = none → completes (.streamEnd cd se ch) s fun u =>
        u.stream cd se ch = none ∧ u.fld .SE_CH_STATUS_STATE cd se ch = 0 ∧ u.fld .SE_CH_WMARK_WMARK cd se ch = m.w % 2 ^ 41 ∧
        u.fld .SE_CNT_STREAMS_COUNT cd se = (m.st.fld .SE_CNT_STREAMS_COUNT cd se + 1) % 2 ^ 64 ∧
        u.cnt cd r.cmd.ctx (unitSe se) = (m.st.cnt cd r.cmd.ctx (unitSe se) + 1) % 2 ^ 32 ∧ u.mem = m.st.mem) ∧
      (∀ (cause va : Nat) (dst : Bool), m.stop = some (.fault cause va dst) → va < 2 ^ 48 → cause < 8 → completes (.streamFault cd se ch) s fun u =>
        u.fld .SE_CH_STATUS_STATE cd se ch = 2 ∧ u.fld .SE_CH_FAULT_VA cd se ch = va ∧ u.fld .SE_CH_FAULT_CAUSE cd se ch = cause ∧
        u.fld .SE_CH_FAULT_SIDE cd se ch = (if dst then 1 else 0) ∧ u.fld .SE_EVENTS_FAULT cd se = 1 ∧
        u.fld .SE_CNT_FAULT_COUNT cd se = (m.st.fld .SE_CNT_FAULT_COUNT cd se + 1) % 2 ^ 64 ∧ u.fld .SE_CH_WMARK_WMARK cd se ch = m.w % 2 ^ 41 ∧
        (u.stream cd se ch).isSome = true)) ∧
    (∀ acc : Accessor, s.dieUp cd = true → s.chWriter acc cd se ch = true →
      (s.fld .SE_CH_STATUS_STATE cd se ch = 2 → completes (.seChResume acc cd se ch) s fun u =>
        u.fld .SE_CH_STATUS_STATE cd se ch = 1 ∧ s.wrote u [(.SE_CH_STATUS_STATE, cd, se, ch)]) ∧
      (s.fld .SE_CH_STATUS_STATE cd se ch ≠ 2 → ∀ i ∈ [Instr.seChResume acc cd se ch, .seChFail acc cd se ch], exec i s = .next { s with resp := .written }) ∧
      (∀ r : StreamRun, s.fld .SE_CH_STATUS_STATE cd se ch = 2 → s.stream cd se ch = some r →
        exec (.seChFail acc cd se ch) s = .next { s.endStream cd se ch r errXlate with resp := .written })) ∧
    (∀ r : StreamRun, s.stream cd se ch = some r → s.fld .SE_CH_STATUS_STATE cd se ch = 2 →
      r.since + 100000 * max 1 (s.fld .SE_CTL_FAULT_LIMIT cd se) < s.now → let v := s.endStream cd se ch r errXlate
      completes (.faultLimitExpiry cd se ch) s fun u =>
        u.fld .SE_EVENTS_LIMIT cd se = 1 ∧ v.raised u .EV_SE_FAULT_LIMIT cd ∧ v.keepsRegs u [(.SE_EVENTS_LIMIT, cd, se, 0)] ∧
        v.sameBut u fun y => { y with csr := [], events := [] })

/-- A pool that holds data and that no byte has left for 1 ms sets POOL_STALL once and raises its event. A write of SE_SR_SEED seeds the generator. A write of XLT_INVAL starts an invalidation, is refused while one is BUSY, and BUSY clears when it is done. A write of STASH_PURGE frees every stash entry of the named slots of the die. -/
def Obligations.StreamEngineRegisters : Prop :=
  ∀ (s : State) (cd : Fin 8),
    (∀ pool : Fin 12, s.poolTold.get false (Key.at cd pool) = false → s.poolMoved.get 0 (Key.at cd pool) + 100000 ≤ s.now → (pool.val < 8 → s.poolHeld cd pool ≠ 0 → completes (.poolStall cd pool) s fun u =>
        u.fld .SE_EVENTS_POOL_STALL cd pool = 1 ∧ s.raised u .EV_SE_POOL_STALL cd ∧ s.keepsRegs u [(.SE_EVENTS_POOL_STALL, cd, pool, 0)] ∧
        u.poolTold.get false (Key.at cd pool) = true ∧ s.sameBut u fun y => { y with csr := [], events := [], poolTold := [] }) ∧
      (8 ≤ pool.val → s.gatewayHeld cd (pool.val - 8) (fun _ => true) ≠ 0 → completes (.poolStall cd pool) s fun u =>
        u.fld .CAR_EVENTS_GW_STALL cd = 1 ∧ u.flagBit .CAR_EVENTS_GW cd 0 0 (pool.val - 8) = true ∧ s.raised u .EV_SE_POOL_STALL cd ∧
        s.keepsRegs u [(.CAR_EVENTS_GW_STALL, cd, 0, 0), (.CAR_EVENTS_GW, cd, 0, 0)] ∧ u.poolTold.get false (Key.at cd pool) = true ∧
        s.sameBut u fun y => { y with csr := [], events := [], poolTold := [] })) ∧
    (∀ (acc : Accessor) (se : Fin 8) (v : Word64), s.dieUp cd = true → isSup acc = true → completes (.seSrSeedWrite acc cd se v) s fun u =>
      u.fld .SE_SR_SEED_SEED cd se = v.toNat ∧ (u.seUnit cd se).gen = (if v = 0 then 1 else v.toNat) ∧ u.resp = .written ∧
      s.keepsRegs u [(.SE_SR_SEED_SEED, cd, se, 0)] ∧ s.sameBut u fun y => { y with csr := [], ses := [], resp := .none }) ∧
    (∀ (acc : Accessor) (slot : Fin 4) (v : Word64), s.dieUp iod0 = true → isSup acc = true ∨ s.hostAuth acc slot = true →
      (s.flag .XLT_INVAL_BUSY iod0 slot = false → completes (.xltInvalWrite acc slot v) s fun u =>
        u.fld .XLT_INVAL_BUSY iod0 slot = 1 ∧ s.wrote u [(.XLT_INVAL_BUSY, iod0, slot, 0)]) ∧
      (s.flag .XLT_INVAL_BUSY iod0 slot = true → exec (.xltInvalWrite acc slot v) s = .next { s with resp := .busError })) ∧
    (∀ slot : Fin 4, completes (.xltInvalDone slot) s fun u => u.fld .XLT_INVAL_BUSY iod0 slot = 0 ∧ s.keepsRegs u [(.XLT_INVAL_BUSY, iod0, slot, 0)] ∧
      s.sameBut u fun y => { y with csr := [] }) ∧
    (∀ (acc : Accessor) (v : Word64), s.dieUp cd = true → isSup acc = true → s.dieStreams cd = [] → completes (.stashPurgeWrite acc cd v) s fun u =>
      u.stash = s.stash.filter (fun e => !(e.1.d == cd.val && (match e.2 with | some x => decide (x.slot < 4) && v.toNat.testBit x.slot | none => false))) ∧
      u.resp = .written ∧ s.sameBut u fun y => { y with stash := [], resp := .none })

/-- A local vote is ready once, with its reasons, and the vote is yes where there are none; elsewhere than at the root it waits for the GATHER. A RESULT that belongs to the open vote resolves it: NUM_STEP moves past the step, CMT_LAST holds the result, and the commit or skip is counted; one of another job generation is discarded and counted. A GATHER that comes before the local vote is held; at the root it resolves the vote. A vote unresolved past its limit sets TIMEOUT, raises its event and stays open. A write of NUM_STEP sets the step, and OVF falls where the step changes. An update whose engines are done leaves the running ones and counts in counter 0x62; while a block waits or a hub with a list stands still it goes on. -/
def Obligations.VotesAreFormedAndResolved : Prop :=
  ∀ (s : State),
    let stepped := fun (a u : State) (slot : Nat) (v : Vote) (commit : Bool) (reasons : Nat) =>
      u.fld .NUM_STEP_STEP mh0 slot = (v.step + 1) % 2 ^ 32 ∧ u.fld .NUM_STEP_RESOLVED mh0 slot = v.step % 2 ^ 32 ∧
      u.fld .CMT_LAST_COMMIT mh0 slot = (if commit then 1 else 0) ∧ u.fld .CMT_LAST_REASONS mh0 slot = reasons % 16 ∧
      u.fld .CMT_LAST_STEP mh0 slot = v.step % 2 ^ 32 ∧ u.fld .CMT_CFG_SKIP_NEXT mh0 slot = 0 ∧
      u.fld .CMT_CNT_COMMIT_COUNT mh0 slot = (if commit then (a.fld .CMT_CNT_COMMIT_COUNT mh0 slot + 1) % 2 ^ 64 else a.fld .CMT_CNT_COMMIT_COUNT mh0 slot) ∧
      u.fld .CMT_CNT_SKIP_COUNT mh0 slot = (if commit then a.fld .CMT_CNT_SKIP_COUNT mh0 slot else (a.fld .CMT_CNT_SKIP_COUNT mh0 slot + 1) % 2 ^ 64) ∧
      u.mem = a.mem ∧ u.patterns = a.patterns ∧ u.colls = a.colls
    (∀ (slot : Fin 4) (v : Vote), s.vote slot = some v → v.ready = none → s.segmentsWait slot = false →
      let s1 := (s.checkSegments slot v.table).2
      let reasons := (if s1.flag .NUM_OVF_OVF mh0 slot then 1 else 0) + (if (List.range 256).any (fun g => grpStale v.table slot g v.step) then 2 else 0) +
        (if (s.checkSegments slot v.table).1 then 4 else 0) + (if s1.flag .CMT_CFG_SKIP_NEXT mh0 slot then 8 else 0)
      (s1.flag .CMT_CFG_ROOT mh0 slot = false → s1.gathers.get none (Key.at slot) = none → completes (.voteLocalReady slot) s fun u =>
        u.vote slot = some { v with ready := some s1.now } ∧ u.fld .CMT_STATUS_STATE mh0 slot = 2 ∧
        u.fld .CMT_STATUS_LOCAL mh0 slot = (if reasons = 0 then 1 else 0) ∧ u.fld .CMT_STATUS_REASONS mh0 slot = reasons ∧
        s1.keepsRegs u [(.CMT_STATUS_STATE, mh0, slot, 0), (.CMT_STATUS_LOCAL, mh0, slot, 0), (.CMT_STATUS_REASONS, mh0, slot, 0)] ∧
        s1.sameBut u fun x => { x with csr := [], votes := [] }) ∧
      (s1.flag .CMT_CFG_ROOT mh0 slot = true → s1.fld .CMT_CFG_NEXT_POS mh0 slot = s1.myPos → completes (.voteLocalReady slot) s fun u =>
        stepped s1 u slot v (decide (reasons = 0)) reasons)) ∧
    (∀ (p : Nat) (m : List Byte) (s1 : State) (v : Vote), s1.vote (msgSlot m) = some v →
      (s.takeMsg (fun m => msgKind m = 3 && field m 0x10 1 = 2) = some (p, m, s1) →
        (s1.voteGenOk m = true → field m 0x14 4 = v.step → s1.flag .CMT_CFG_ROOT mh0 (msgSlot m) = false →
          completes .voteResult s fun u => stepped s1 u (msgSlot m) v (decide (field m 0x11 1 = 1)) (field m 0x12 1)) ∧
        (s1.voteGenOk m = false → completes .voteResult s fun u =>
          u.fld .CMT_CNT_DISCARD_COUNT mh0 (msgSlot m) = (s1.fld .CMT_CNT_DISCARD_COUNT mh0 (msgSlot m) + 1) % 2 ^ 64 ∧
          s1.keepsRegs u [(.CMT_CNT_DISCARD_COUNT, mh0, msgSlot m, 0)] ∧ s1.sameBut u fun x => { x with csr := [] })) ∧
      (s.takeMsg (fun m => msgKind m = 3 && field m 0x10 1 = 1) = some (p, m, s1) → s1.voteGenOk m = true → field m 0x14 4 = v.step →
        (s1.flag .CMT_CFG_ROOT mh0 (msgSlot m) = true → completes .voteGather s fun u =>
          stepped s1 u (msgSlot m) v (decide (field m 0x11 1 = 1)) (field m 0x12 1) ∧ u.awaited (msgSlot m) = some v.step) ∧
        (s1.flag .CMT_CFG_ROOT mh0 (msgSlot m) = false → v.ready = none → completes .voteGather s fun u =>
          u.gathers.get none (Key.at (msgSlot m)) = some m ∧ s1.sameBut u fun x => { x with gathers := [] }))) ∧
    (∀ (slot : Fin 4) (v : Vote) (t : Nat), s.vote slot = some v → v.ready = some t →
      (v.timedOut = false → t + max (s.fld .CMT_CFG_LIMIT mh0 slot) 1 * 1000 * usTicks ≤ s.now → completes (.voteTimeout slot) s fun u =>
        u.fld .CMT_STATUS_TIMEOUT mh0 slot = 1 ∧ u.vote slot = some { v with timedOut := true } ∧ s.raised u .EV_CMT_TIMEOUT mh0 ∧
        s.keepsRegs u [(.CMT_STATUS_TIMEOUT, mh0, slot, 0)] ∧ s.sameBut u fun x => { x with csr := [], votes := [], events := [] }) ∧
      (s.now < t + max (s.fld .CMT_CFG_LIMIT mh0 slot) 1 * 1000 * usTicks → exec (.voteTimeout slot) s = .next s)) ∧
    (∀ (acc : Accessor) (slot : Fin 4) (v : Word64), s.dieUp mh0 = true → isSup acc = true → completes (.numStepWrite acc slot v) s fun u =>
      u.fld .NUM_STEP_STEP mh0 slot = fieldOf v 31 0 ∧ u.fld .NUM_OVF_STEP mh0 slot = fieldOf v 31 0 ∧
      u.fld .NUM_OVF_OVF mh0 slot = (if s.fld .NUM_STEP_STEP mh0 slot = fieldOf v 31 0 then s.fld .NUM_OVF_OVF mh0 slot else 0) ∧
      s.wrote u [(.NUM_STEP_STEP, mh0, slot, 0), (.NUM_OVF_STEP, mh0, slot, 0), (.NUM_OVF_OVF, mh0, slot, 0)]) ∧
    (∀ (slot : Fin 4) (v : Update) (rest : List Update), s.updatesOf slot = v :: rest →
      let r := s.applyUpdate v
      let stands := ueAll.any fun e => s.halted (mhDie e.1) && s.fld .UE_SEG_CNT_COUNT (mhDie e.1) e.2 slot != 0
      (r.1 = false ∨ stands = true → exec (.updateComplete slot) s = .next s) ∧
      (r.1 = true → stands = false → completes (.updateComplete slot) s fun u =>
        u.updates = r.2.updates.erase v ∧ u.votes = r.2.votes ∧ u.mem = r.2.mem ∧ u.groups = r.2.groups ∧ u.cnts = (r.2.bumpSlot slot 0x62).cnts))

/-- An access to a register window that is not a naturally aligned 64-bit read or write is answered with a bus error and changes nothing but what its packets on the mesh count, whatever the register and the authority; one that is answered with data gives 64 bits. -/
def Obligations.RegisterAccessWidth : Prop :=
  ∀ (s : State) (a : Nat), inCsr a = true →
    let refused := fun i : Instr => ∃ t, s.onlyMesh t ∧ exec i s = .next { t with resp := .busError }
    (∀ (acc : Accessor) (v : Word64), a % 8 ≠ 0 → refused (.csrRegisterWrite acc a v)) ∧
    (∀ (req : Requester) (n : Nat), a % 8 ≠ 0 ∨ n ≠ 8 → refused (.memRead req a n)) ∧
    (∀ (req : Requester) (bs : List Byte) (tag : Byte), a % 8 ≠ 0 ∨ bs.length ≠ 8 → refused (.memWrite req a bs tag)) ∧
    (∀ (req : Requester) (acc : Accessor), accessorOf req = some acc →
      let s1 := s.csrEnter a
      (∀ v, s1.csrRead acc a = some v → exec (.memRead req a 8) s = .next { s1.csrLeave a with resp := .reg (BitVec.ofNat 64 v) }) ∧
      (∀ (bs : List Byte) (tag : Byte) (t : State), bs.length = 8 → s1.csrWrite acc a (leNat bs) = some t →
        exec (.memWrite req a bs tag) s = .next { t.csrLeave a with resp := .written }))

/-- While a die is not in service, reads of its DIE_IDENT and DIE_STATUS are answered, writes to them are ignored, and every other access to its register window is answered with a bus error and has no effect. While it is in service, a supervisor sets DIE_BOOT_LOCK with a 1 and nothing else in it, and a register that an address holds is written where the accessor may write it. -/
def Obligations.DieOutOfServiceAnswers : Prop :=
  ∀ (s : State) (acc : Accessor) (a die off : Nat), a % 8 = 0 → a < 2 ^ 52 → State.csrPlace a = some (die, off) →
    (s.dieUp die = false →
      (∀ (x : RegAt), locate die off = some x → x.reg = .DIE_IDENT ∨ x.reg = .DIE_STATUS →
        (∀ v : Word64, exec (.csrRegisterWrite acc a v) s = .next { s with resp := .written }) ∧
        (∀ (req : Requester), accessorOf req = some acc → s.mayRead acc x.reg x.u = true → inCsr a = true → ∃ v, exec (.memRead req a 8) s = .next { s with resp := .reg v })) ∧
      ((∀ x, locate die off = some x → x.reg ≠ .DIE_IDENT ∧ x.reg ≠ .DIE_STATUS) →
        (∀ v : Word64, exec (.csrRegisterWrite acc a v) s = .next { s with resp := .busError }) ∧
        (∀ (req : Requester) (n : Nat), inCsr a = true → exec (.memRead req a n) s = .next { s with resp := .busError }) ∧
        (∀ (req : Requester) (bs : List Byte) (tag : Byte), inCsr a = true → exec (.memWrite req a bs tag) s = .next { s with resp := .busError }))) ∧
    (∀ (x : RegAt) (v : Word64) (t : State), s.dieUp die = true → locate die off = some x → (s.csrEnter a).mayWrite acc x.reg x.d x.u x.i = true →
      (s.csrEnter a).regStore acc x.reg x.d x.u x.i v.toNat = some t → exec (.csrRegisterWrite acc a v) s = .next { t.csrLeave a with resp := .written }) ∧
    (∀ (k : Fin 14) (v : Word64), s.dieUp (dieOf k) = true → isSup acc = true → completes (.dieBootLockWrite acc k v) s fun u =>
      u.fld .DIE_BOOT_LOCK_LOCK (dieOf k) = (if v.toNat.testBit 0 then 1 else s.fld .DIE_BOOT_LOCK_LOCK (dieOf k)) ∧ s.wrote u [(.DIE_BOOT_LOCK_LOCK, dieOf k, 0, 0)])

/-- An access that touches a word being zeroed waits. A read or write within one word is answered with that word's outcome, and a write stores its bytes there, with its marks; a core's store into part of a poisoned word takes an access fault. A transmit of one word puts its bytes on the port; one that reads a sealed word is not sent, is counted and raises its event; one that reads a poisoned word is not sent. -/
def Obligations.MemoryAccessesAnswer : Prop :=
  ∀ (s : State),
    (∀ (req : Requester) (a n : Nat) (bs : List Byte) (tag : Byte), inCsr a = false → a < 2 ^ 52 →
      ((wordsOf a n).any (fun w => s.judge req w = .wait) = true → exec (.memRead req a n) s =
        .next { s with memWait := s.memWait ++ [.read req a n], resp := .waits }) ∧
      ((wordsOf a bs.length).any (fun w => s.judge req w = .wait) = true → exec (.memWrite req a bs tag) s =
        .next { s with memWait := s.memWait ++ [.write req a bs tag.toNat], resp := .waits }) ∧
      (0 < n → a % 32 + n ≤ 32 → s.judge req (a / 32 * 32) ≠ .wait → exec (.memRead req a n) s =
        .next { (s.readPiece req a n).2 with resp := .words [(s.readPiece req a n).1] }) ∧
      (bs ≠ [] → a % 32 + bs.length ≤ 32 → s.judge req (a / 32 * 32) = .ok →
        let s1 := s.meshOuter (a / 32 * 32) true
        let r := s1.storeMeetsPoison req (a / 32 * 32, a % 32, bs)
        (s.windowLets req (a / 32 * 32) = true → r.1 = false → exec (.memWrite req a bs tag) s =
          .next { r.2.mergeWord req (a / 32 * 32) (a % 32) bs (tagPoison tag.toNat) (tagSealed tag.toNat) with resp := .words [.written] }) ∧
        (s.windowLets req (a / 32 * 32) = true → r.1 = true → exec (.memWrite req a bs tag) s = .next { r.2 with resp := .words [.accessFault] }) ∧
        (s.windowLets req (a / 32 * 32) = false → exec (.memWrite req a bs tag) s = .next { s1 with resp := .words [.busError] }))) ∧
    (∀ (port : Fin 2) (a n : Nat), s.dieUp (iodDie port) = true → 0 < n → a % 32 + n ≤ 32 → s.judge .supervisor (a / 32 * 32) = .ok →
      let r := s.fetchWord .supervisor (a / 32 * 32)
      (tagSealed r.1.tag = false → tagPoison r.1.tag = false → exec (.dataPortTransmit port a n) s =
        .next { r.2 with out := .dataPort port (((leBytes 32 r.1.data).drop (a % 32)).take n) :: r.2.out }) ∧
      (tagSealed r.1.tag = true → completes (.dataPortTransmit port a n) s fun u =>
        u.fld .TS_CNT_BLOCK_COUNT iod0 = (r.2.fld .TS_CNT_BLOCK_COUNT iod0 + 1) % 2 ^ 64 ∧ r.2.raised u .EV_TS_BLOCK iod0 ∧ u.out = r.2.out ∧
        r.2.keepsRegs u [(.TS_CNT_BLOCK_COUNT, iod0, 0, 0)] ∧ r.2.sameBut u fun x => { x with csr := [], events := [] }) ∧
      (tagSealed r.1.tag = false → tagPoison r.1.tag = true → exec (.dataPortTransmit port a n) s = .next r.2))

/-- A block or frame whose zeroing ends reads zero and is no longer being zeroed, and the accesses that waited go on. A scrubber that meets a clean word moves on and changes nothing else. A write of MEM_FRAME_DATA that is allowed changes the frame that MEM_FRAME_IDX names, and starts its zeroing where its owner or class changes. A write of SRAM_CLASS zeroes the blocks whose class changes. A raw read shows the stored bits and a raw write stores them, and one that is refused sets REFUSED and moves nothing. -/
def Obligations.MemoryControllersAct : Prop :=
  ∀ (s : State),
    (∀ (cd : Fin 8) (k : Nat), s.halted cd = false → (s.block cd k).zeroing = true → ∃ u, exec (.zeroingComplete 2 cd k) s = .next u.accessesProceed ∧
      u.block cd k = { s.block cd k with zeroing := false, moved := false } ∧ (∀ x, sramAddr cd (2 ^ 16 * k) ≤ x → x < sramAddr cd (2 ^ 16 * k) + 2 ^ 16 → u.mem.read x = 0) ∧
      (∀ x, x < sramAddr cd (2 ^ 16 * k) ∨ sramAddr cd (2 ^ 16 * k) + 2 ^ 16 ≤ x → u.mem.read x = s.mem.read x) ∧
      s.sameBut u fun y => { y with mem := [], side := [], hcLines := [], blocks := [] }) ∧
    (∀ (tier : Fin 3) (cd : Fin 8) (n : Nat), tier.val < 2 → (s.frame tier n).zeroing = true → (s.frame tier n).first = true → (tier.val = 0 → s.frameHalted n = false) →
      ∃ u, exec (.zeroingComplete tier cd n) s = .next u.accessesProceed ∧
        u.frame tier n = { s.frame tier n with zeroing := false, batch := 0, first := false } ∧
        (∀ x, State.frameAddr tier n ≤ x → x < State.frameAddr tier n + 2 ^ 21 → u.mem.read x = 0) ∧
        (∀ x, x < State.frameAddr tier n ∨ State.frameAddr tier n + 2 ^ 21 ≤ x → u.mem.read x = s.mem.read x) ∧
        s.sameBut u fun y => { y with mem := [], side := [], hcLines := [], frames := [] }) ∧
    (∀ (k : Fin 6) (a d t : Nat), let die := if k.val < 4 then mhDie k else iodDie (k - 4)
      s.dieUp die = true → s.halted die = false → s.flag .SCRUB_CTL_EN die = true → s.scrubs.get 0 (Key.at die) + 1 < (if k.val < 4 then 384 else 192) →
      a = (if k.val < 4 then s.hbmUnmap (6 * k + s.scrubs.get 0 (Key.at die) / 64) (s.fld .SCRUB_STATUS_POS die)
        else State.t2Unmap (3 * (k - 4) + s.scrubs.get 0 (Key.at die) / 64) (s.fld .SCRUB_STATUS_POS die)) + 32 * (s.scrubs.get 0 (Key.at die) % 64) →
      (s.serves a = false ∨ s.zeroingAt a = true ∨ decodeWord (s.strongAt a) (s.rawData a) (s.rawSide a) = .clean d t) →
      exec (.scrubWord k) s = .next { s with scrubs := s.scrubs.set 0 (Key.at die) (s.scrubs.get 0 (Key.at die) + 1) }) ∧
    (∀ (acc : Accessor) (v : Word64) (o : Owner), s.dieUp mh0 = true → isSup acc = true →
      let tier := s.fld .MEM_FRAME_IDX_TIER mh0
      let n := s.fld .MEM_FRAME_IDX_FRAME mh0
      let new : Frame := { s.frame tier n with owner := o, use := frameUseOf (fieldOf v 4 3), strong := v.toNat.testBit 5, isSealed := v.toNat.testBit 6 }
      ownerOf (fieldOf v 2 0) = some o → n < frameCount tier → (s.frame tier n).zeroing = false → s.entryFits tier n o (frameUseOf (fieldOf v 4 3)) = true →
      (v.toNat.testBit 6 = true → s.sealAllowed = true) →
      (new.owner = (s.frame tier n).owner → new.strong = (s.frame tier n).strong → exec (.memFrameDataWrite acc v) s = .next { s.setFrame tier n new with resp := .written }) ∧
      (new.owner ≠ (s.frame tier n).owner ∨ new.strong ≠ (s.frame tier n).strong → completes (.memFrameDataWrite acc v) s fun u =>
        (u.frame tier n).owner = o ∧ (u.frame tier n).use = frameUseOf (fieldOf v 4 3) ∧ (u.frame tier n).strong = v.toNat.testBit 5 ∧
        (u.frame tier n).isSealed = v.toNat.testBit 6 ∧ (u.frame tier n).zeroing = true ∧ u.resp = .written ∧
        s.sameBut u fun y => { y with frames := [], zeroBatch := 0, resp := .none })) ∧
    (∀ (acc : Accessor) (cd : Fin 8) (k : Fin 32) (v : Word64), s.dieUp cd = true → isSup acc = true →
      (∀ b < 64, (s.block cd (64 * k + b)).zeroing = false) → completes (.sramClassWrite acc cd k v) s fun u =>
        u.fld .SRAM_CLASS_STRONG cd 0 k = v.toNat ∧
        (∀ b < 64, (u.block cd (64 * k + b)).owner = (s.block cd (64 * k + b)).owner) ∧
        (∀ b < 64, (u.block cd (64 * k + b)).zeroing = ((s.fld .SRAM_CLASS_STRONG cd 0 k).testBit b != v.toNat.testBit b)) ∧ u.resp = .written ∧
        s.keepsRegs u [(.SRAM_CLASS_STRONG, cd, 0, k)] ∧ s.sameBut u fun y => { y with csr := [], blocks := [], resp := .none }) ∧
    (∀ (acc : Accessor) (ctl : Fin 62), let d := (rawBlock ctl).1
      let n := (rawBlock ctl).2
      let a := s.fld .ERR_RAW_ADDR_ADDR d n * 32
      s.dieUp d = true → isSup acc = true →
      (s.errBlock a ≠ some (d, n) → ∀ i ∈ [Instr.rawRead acc ctl, .rawWrite acc ctl], completes i s fun u =>
        u.fld .ERR_RAW_CMD_REFUSED d n = 1 ∧ s.wrote u [(.ERR_RAW_CMD_REFUSED, d, n, 0)]) ∧
      (s.errBlock a = some (d, n) → (s.rawSide a).testBit 1 = false →
        (completes (.rawRead acc ctl) s fun u =>
          (∀ j : Fin 4, u.fld .ERR_RAW_DATA_DATA d n j = s.rawData a / 2 ^ (64 * j.val) % 2 ^ 64) ∧ u.fld .ERR_RAW_SIDE_SIDE d n = s.rawSide a % 2 ^ 32 ∧
          s.wrote u [(.ERR_RAW_DATA_DATA, d, n, 0), (.ERR_RAW_DATA_DATA, d, n, 1), (.ERR_RAW_DATA_DATA, d, n, 2), (.ERR_RAW_DATA_DATA, d, n, 3),
            (.ERR_RAW_SIDE_SIDE, d, n, 0)]) ∧
        ((s.fld .ERR_RAW_SIDE_SIDE d n).testBit 1 = false → ∃ t : State, exec (.rawWrite acc ctl) s = .next { t.storeRaw a
            (((List.range 4).map fun j => s.fld .ERR_RAW_DATA_DATA d n j * 2 ^ (64 * j)).foldl (· + ·) 0) (s.fld .ERR_RAW_SIDE_SIDE d n) with resp := .written } ∧
          t.hcLines = (s.closeMerge a).hcLines.clear (fun k => decide (k.i = a / 256) && decide (a < hbmEnd)) ∧
          (s.closeMerge a).sameBut t fun y => { y with hcLines := [] })))

/-- The oldest event on its way reaches the recorder. One that gets a token and finds room goes into staging as a 32-byte record under the next sequence number; one without a token is counted as suppressed; with a full log it is counted and LOG_FULL is set; with a full staging SRAM it is counted. An event of class F starts a flush of all that is staged. A flush that ends moves the records of the flush into the log, in order. A clear empties log and staging, restarts the log at the next sequence number and erases; records raised meanwhile are flushed when the erase ends. -/
def Obligations.RecorderKeepsRecords : Prop :=
  ∀ (s : State),
    (∀ (e : Event) (rest : List Event), s.events = e :: rest →
      let s0 := { s with events := rest }
      (s0.bucketTake e.code = none → completes .eventRaise s fun u =>
        u.fld .EVR_CNT_SUPPR_COUNT iod0 = (s.fld .EVR_CNT_SUPPR_COUNT iod0 + 1) % 2 ^ 64 ∧
        u.fld .EVR_RATE_DATA_SUPPR iod0 0 e.code = min (s.fld .EVR_RATE_DATA_SUPPR iod0 0 e.code + 1) (2 ^ 16 - 1) % 2 ^ 16 ∧
        s.keepsRegs u [(.EVR_CNT_SUPPR_COUNT, iod0, 0, 0), (.EVR_RATE_DATA_SUPPR, iod0, 0, e.code)] ∧ s0.sameBut u fun x => { x with csr := [] }) ∧
      (∀ s1, s0.bucketTake e.code = some s1 →
        (65536 ≤ s.evLog.length + s.staged.length → completes .eventRaise s fun u =>
          u.fld .EVR_STATUS_LOG_FULL iod0 = 1 ∧ u.fld .EVR_DROPPED_FULL iod0 = min (s.fld .EVR_DROPPED_FULL iod0 + 1) (2 ^ 32 - 1) % 2 ^ 32 ∧
          s.keepsRegs u [(.EVR_STATUS_LOG_FULL, iod0, 0, 0), (.EVR_DROPPED_FULL, iod0, 0, 0)] ∧ s1.sameBut u fun x => { x with csr := [] }) ∧
        (s.evLog.length + s.staged.length < 65536 → 1024 ≤ s.staged.length → completes .eventRaise s fun u =>
          u.fld .EVR_DROPPED_STAGE iod0 = min (s.fld .EVR_DROPPED_STAGE iod0 + 1) (2 ^ 32 - 1) % 2 ^ 32 ∧
          s.keepsRegs u [(.EVR_DROPPED_STAGE, iod0, 0, 0)] ∧ s1.sameBut u fun x => { x with csr := [] }) ∧
        (s.evLog.length + s.staged.length < 65535 → s.staged.length < 1024 →
          let seq := (s.fld .EVR_SEQ_LAST_SEQ iod0 + 1) % 2 ^ 32
          let staged := s.staged ++ [eventRecord seq e (s.fld .SUP_CYCLES_POWER iod0) (s.fld .EVR_RATE_DATA_SUPPR iod0 0 e.code)]
          (evClassF e.code = false → s.staged.length < 255 → completes .eventRaise s fun u =>
            u.staged = staged ∧ u.fld .EVR_SEQ_LAST_SEQ iod0 = seq ∧ u.fld .EVR_RATE_DATA_SUPPR iod0 0 e.code = 0 ∧
            s.keepsRegs u [(.EVR_SEQ_LAST_SEQ, iod0, 0, 0), (.EVR_RATE_DATA_SUPPR, iod0, 0, e.code)] ∧ s1.sameBut u fun x => { x with csr := [], staged := [] }) ∧
          (evClassF e.code = true → s.flag .EVR_STATUS_CLEARING iod0 = false → s.flushN = none → completes .eventRaise s fun u =>
            u.staged = staged ∧ u.flushN = some (s.staged.length + 1) ∧ u.flushDue = false ∧ u.fld .EVR_STATUS_FLUSHING iod0 = 1 ∧
            u.fld .EVR_SEQ_LAST_SEQ iod0 = seq ∧
            s.keepsRegs u [(.EVR_SEQ_LAST_SEQ, iod0, 0, 0), (.EVR_RATE_DATA_SUPPR, iod0, 0, e.code), (.EVR_STATUS_FLUSHING, iod0, 0, 0)] ∧
            s1.sameBut u fun x => { x with csr := [], staged := [], flushN := none, flushDue := false })))) ∧
    (s.events = [] → exec .eventRaise s = .next s) ∧
    (∀ (acc : Accessor), s.dieUp iod0 = true → isSup acc = true →
      (s.flag .EVR_STATUS_CLEARING iod0 = true ∨ s.flushN.isSome = true → exec (.evrFlush acc) s = .next { s with flushDue := true, resp := .written }) ∧
      (s.flag .EVR_STATUS_CLEARING iod0 = false → s.flushN = none → s.staged ≠ [] → completes (.evrFlush acc) s fun u =>
        u.flushN = some s.staged.length ∧ u.flushDue = false ∧ u.fld .EVR_STATUS_FLUSHING iod0 = 1 ∧ u.resp = .written ∧
        s.keepsRegs u [(.EVR_STATUS_FLUSHING, iod0, 0, 0)] ∧ s.sameBut u fun x => { x with csr := [], flushN := none, flushDue := false, resp := .none }) ∧
      (s.flag .EVR_STATUS_CLEARING iod0 = true → exec (.evrClear acc) s = .next { s with resp := .written }) ∧
      (s.flag .EVR_STATUS_CLEARING iod0 = false → completes (.evrClear acc) s fun u =>
        let seq := (s.fld .EVR_SEQ_LAST_SEQ iod0 + 1) % 2 ^ 32
        u.evLog = [] ∧ (∃ a, u.staged = [eventRecord seq ⟨s.fld .SUP_OPSEC_SECONDS iod0, Ev.code .EV_EVR_CLEARED, iod0, 0, a, none⟩ (s.fld .SUP_CYCLES_POWER iod0) 0]) ∧
        u.flushN = none ∧ u.flushDue = true ∧ u.fld .EVR_STATUS_CLEARING iod0 = 1 ∧ u.fld .EVR_STATUS_FLUSHING iod0 = 0 ∧ u.fld .EVR_STATUS_LOG_FULL iod0 = 0 ∧
        u.fld .EVR_SEQ_FIRST_SEQ iod0 = seq ∧ u.fld .EVR_SEQ_LAST_SEQ iod0 = seq ∧
        u.fld .EVR_DROPPED_FULL iod0 = 0 ∧ u.fld .EVR_DROPPED_STAGE iod0 = 0 ∧ u.fld .EVR_CNT_SUPPR_COUNT iod0 = 0 ∧
        s.keepsRegs u [(.EVR_STATUS_CLEARING, iod0, 0, 0), (.EVR_STATUS_FLUSHING, iod0, 0, 0), (.EVR_STATUS_LOG_FULL, iod0, 0, 0), (.EVR_SEQ_FIRST_SEQ, iod0, 0, 0),
          (.EVR_SEQ_LAST_SEQ, iod0, 0, 0), (.EVR_DROPPED_FULL, iod0, 0, 0), (.EVR_DROPPED_STAGE, iod0, 0, 0), (.EVR_CNT_SUPPR_COUNT, iod0, 0, 0)] ∧
        s.sameBut u fun x => { x with csr := [], staged := [], evLog := [], flushN := none, flushDue := false, resp := .none })) ∧
    (∀ n, s.flushN = some n → s.flushDue = false → (s.staged.drop n).length < 256 → s.resetDue = false → completes .evrFlushComplete s fun u =>
      u.evLog = s.evLog ++ s.staged.take n ∧ u.staged = s.staged.drop n ∧ u.flushN = none ∧ u.flushDue = false ∧ u.fld .EVR_STATUS_FLUSHING iod0 = 0 ∧
      s.keepsRegs u [(.EVR_STATUS_FLUSHING, iod0, 0, 0)] ∧ s.sameBut u fun x => { x with csr := [], evLog := [], staged := [], flushN := none, flushDue := false }) ∧
    (s.flag .EVR_STATUS_CLEARING iod0 = true → s.flushN = none → s.staged ≠ [] → completes .evrEraseComplete s fun u =>
      u.fld .EVR_STATUS_CLEARING iod0 = 0 ∧ u.fld .EVR_STATUS_FLUSHING iod0 = 1 ∧ u.flushN = some s.staged.length ∧ u.flushDue = false ∧
      s.keepsRegs u [(.EVR_STATUS_CLEARING, iod0, 0, 0), (.EVR_STATUS_FLUSHING, iod0, 0, 0)] ∧
      s.sameBut u fun x => { x with csr := [], flushN := none, flushDue := false })

/-- An input that is reversed, over its voltage, over its current or lost opens its stage, with the reason and the time, and raises its event. Where the other input goes on serving, the module runs on one input: SINGLE is set and every region is capped at step 3. Where it was the last one, LOST is set and a module reset is due. The third trip for current in 60 s latches the stage. A stage that opened for voltage or current closes again after 1 s unless it is latched, and an input that has served again for 1 s beside the other ends single-input mode and lifts its cap. A latched stage stays open. -/
def Obligations.InputStagesOpenAndClose : Prop :=
  ∀ (s : State) (i : Fin 2), let p := 2 ^ i.val
    let n := s.fld .PWR_STATUS_SERVING iod0
    let status := [Fld.PWR_STATUS_SERVING, .PWR_STATUS_SINGLE, .PWR_STATUS_LOST, .PWR_STATUS_REVERSED, .PWR_STATUS_OVERVOLT, .PWR_STATUS_LATCHED, .PWR_CNT_TRIP_COUNT]
    let clocks := [Fld.CLK_STEP_CAP, .CLK_STEP_BUSY]
    let trips := s.now :: (s.stage i).trips.filter fun t => s.now < t + 60 * secTicks
    (∀ (c : Instr) (e : Ev) (why : Nat) (ts : List Nat), (c, e, why, ts) ∈ [(Instr.inputReversed i, Ev.EV_PWR_IN_REVERSED, 4, (s.stage i).trips),
        (.inputOvervoltage i, .EV_PWR_OVERVOLT, 1, (s.stage i).trips), (.inputOvercurrent i, .EV_PWR_OVERCURRENT, 2, trips), (.inputLost i, .EV_PWR_IN_LOST, 3, (s.stage i).trips)] →
      (n = 0 ∨ n = 3 - p → completes c s fun u =>
        u.stage i = { why := why, since := s.now, trips := ts } ∧ (∀ j, j ≠ i.val → u.stage j = s.stage j) ∧ s.raised u e carrierDie ∧ u.fld .PWR_STATUS_SERVING iod0 = n ∧
        u.fld .PWR_STATUS_SINGLE iod0 = s.fld .PWR_STATUS_SINGLE iod0 ∧ u.fld .PWR_STATUS_LOST iod0 = s.fld .PWR_STATUS_LOST iod0 ∧
        (∀ F, F ∉ status → ∀ d x k, u.fld F d x k = s.fld F d x k) ∧ s.sameBut u fun x => { x with csr := [], stages := [], events := [] }) ∧
      (n = 3 → s.flag .PWR_STATUS_LOST iod0 = false → completes c s fun u =>
        u.stage i = { why := why, since := s.now, trips := ts } ∧ (∀ j, j ≠ i.val → u.stage j = s.stage j) ∧ s.raised u e carrierDie ∧
        u.fld .PWR_STATUS_SERVING iod0 = 3 - p ∧ u.fld .PWR_STATUS_SINGLE iod0 = 1 ∧ u.fld .PWR_STATUS_LOST iod0 = 0 ∧
        (∀ k < 12, u.capBy .single k = 3) ∧ (∀ x k, x ≠ .single → u.capBy x k = s.capBy x k) ∧
        (∀ F, F ∉ status ++ clocks → ∀ d x k, u.fld F d x k = s.fld F d x k) ∧
        s.sameBut u fun x => { x with csr := [], stages := [], events := [], caps := [], clocks := [] }) ∧
      (n = p → s.flag .PWR_STATUS_LOST iod0 = false → completes c s fun u =>
        u.stage i = { why := why, since := s.now, trips := ts } ∧ (∀ j, j ≠ i.val → u.stage j = s.stage j) ∧
        u.fld .PWR_STATUS_SERVING iod0 = 0 ∧ u.fld .PWR_STATUS_LOST iod0 = 1 ∧ u.resetDue = true ∧ u.mem = s.mem ∧ u.evLog = s.evLog)) ∧
    (n = 0 ∨ n = 3 - p → completes (.inputOvercurrent i) s fun u =>
      u.fld .PWR_CNT_TRIP_COUNT iod0 = (s.fld .PWR_CNT_TRIP_COUNT iod0 + 1) % 2 ^ 64 ∧
      (3 ≤ trips.length → u.flagBit .PWR_STATUS_LATCHED iod0 0 0 i = true) ∧ (trips.length < 3 → u.fld .PWR_STATUS_LATCHED iod0 = s.fld .PWR_STATUS_LATCHED iod0)) ∧
    (n = 0 ∨ n = 3 - p → completes (.inputReversed i) s fun u => u.flagBit .PWR_STATUS_REVERSED iod0 0 0 i = true) ∧
    (n = 0 ∨ n = 3 - p → completes (.inputOvervoltage i) s fun u => u.flagBit .PWR_STATUS_OVERVOLT iod0 0 0 i = true) ∧
    ((s.stage i).why = 1 ∨ (s.stage i).why = 2 → n = 0 ∨ n = 3 - p → s.flagBit .PWR_STATUS_LATCHED iod0 0 0 i = false → (s.stage i).since + secTicks ≤ s.now →
      completes (.stageReclose i) s fun u =>
        u.stage i = { s.stage i with why := 0, since := s.now } ∧ u.fld .PWR_STATUS_SERVING iod0 = n + p ∧ u.flagBit .PWR_STATUS_OVERVOLT iod0 0 0 i = false ∧
        s.keepsRegs u [(.PWR_STATUS_SERVING, iod0, 0, 0), (.PWR_STATUS_OVERVOLT, iod0, 0, 0)] ∧ s.sameBut u fun x => { x with csr := [], stages := [] }) ∧
    (s.flagBit .PWR_STATUS_LATCHED iod0 0 0 i = true → exec (.stageReclose i) s = .next s ∧ exec (.inputRestored i) s = .next s) ∧
    (s.flagBit .PWR_STATUS_LATCHED iod0 0 0 i = false → s.flag .PWR_STATUS_SINGLE iod0 = true → n = 3 - p → completes (.inputRestored i) s fun u =>
      u.fld .PWR_STATUS_SERVING iod0 = 3 ∧ u.fld .PWR_STATUS_SINGLE iod0 = 0 ∧ u.flagBit .PWR_STATUS_REVERSED iod0 0 0 i = false ∧
      (∀ k < 12, u.capBy .single k = 7) ∧ (∀ x k, x ≠ .single → u.capBy x k = s.capBy x k) ∧ s.raised u .EV_PWR_IN_RESTORED carrierDie ∧
      u.stage i = { s.stage i with why := 0, since := s.now } ∧
      (∀ F, F ∉ status ++ clocks → ∀ d x k, u.fld F d x k = s.fld F d x k) ∧
      s.sameBut u fun x => { x with csr := [], stages := [], events := [], caps := [], clocks := [] })

/-- A write of SNS_FAULT with the bit of one coolant sensor clears its fault once the sensor has read within its limits for 10 s; with no other wiring fault the wiring cap is lifted from every region. Before the 10 s have passed the write is ignored. -/
def Obligations.CoolantFaultClears : Prop :=
  ∀ (s : State) (acc : Accessor) (b i : Nat), s.dieUp iod0 = true → isSup acc = true → (b, i) ∈ [(0, snInlet), (1, snOutlet), (2, snFlow), (3, snLeak)] →
    s.flag (State.wiringFld i) iod0 = true →
    (s.steady i = true → (∀ j ∈ [snInlet, snOutlet, snFlow, snLeak], j ≠ i → s.flag (State.wiringFld j) iod0 = false) →
      completes (.snsFaultClear acc (BitVec.ofNat 64 (2 ^ b))) s fun u =>
        u.fld (State.wiringFld i) iod0 = 0 ∧ (∀ x, s.sensor i = some x → u.sensor i = some { x with state := 0 }) ∧ (∀ j, j ≠ i → u.sensor j = s.sensor j) ∧
        (∀ k < 12, u.capBy .wiring k = 7) ∧ (∀ x k, x ≠ .wiring → u.capBy x k = s.capBy x k) ∧ u.resp = .written ∧
        (∀ F, F ∉ [State.wiringFld i, .CLK_STEP_CAP, .CLK_STEP_BUSY] → ∀ d x k, u.fld F d x k = s.fld F d x k) ∧
        s.sameBut u fun x => { x with csr := [], sensors := [], caps := [], clocks := [], resp := .none }) ∧
    (s.steady i = false → exec (.snsFaultClear acc (BitVec.ofNat 64 (2 ^ b))) s = .next { s with resp := .written })

/-- Every row of a command opcode takes the next packet of its arrival. While the management channel is down a datagram does nothing; one that is not 64 bytes long is dropped and counted; one whose TAG has a kept reply gets that reply again and is counted as a duplicate; a packet of the opcode, or of no listed opcode, that fails a check of R432 is answered with that status, which is kept and counted, and nothing else changes. An empty command queue, an empty abort window and an inbox without a PEER_CMD command leave the state as it is. A datagram that is no command is dropped and counted. A write of SLQ_DB moves the tail of the command queue, or sets BAD_DB where it is outside the queue. A DOORBELL message for a running slot of its generation becomes a notice of that slot, and another one is dropped and counted; a reply of a peer is taken. -/
def Obligations.CommandPacketsAreTaken : Prop :=
  ∀ (s : State),
    (∀ (c : Instr) (op : Nat) (a : Arrival), commandRow c = some (op, a) →
      (∀ (src : Nat) (bs : List Byte), a = .mgmt src bs →
        let p := State.packetOf bs (.mgmt src)
        (s.mgmtUp = false → exec c s = .next s) ∧
        (s.mgmtUp = true → bs.length ≠ 64 → completes c s fun u =>
          u.fld .CMD_CNT_DROP_COUNT iod0 = (s.fld .CMD_CNT_DROP_COUNT iod0 + 1) % 2 ^ 64 ∧
          s.keepsRegs u [(.CMD_CNT_DROP_COUNT, iod0, 0, 0)] ∧ s.sameBut u fun x => { x with csr := [] }) ∧
        (∀ k, s.mgmtUp = true → bs.length = 64 → s.keptFor src p.tag = some k → completes c s fun u =>
          u.out = .mgmt src k.reply :: s.out ∧ u.fld .CMD_CNT_DUP_COUNT iod0 = (s.fld .CMD_CNT_DUP_COUNT iod0 + 1) % 2 ^ 64 ∧
          s.keepsRegs u [(.CMD_CNT_DUP_COUNT, iod0, 0, 0)] ∧ s.sameBut u fun x => { x with csr := [], out := [] }) ∧
        (∀ st, s.mgmtUp = true → bs.length = 64 → s.keptFor src p.tag = none → p.op = op ∨ p.op ∉ opcodes →
          s.checkCmd p (headClean bs) true = some st → completes c s fun u => s.refuses u p src st)) ∧
      (∀ slot, a = .host slot → s.queueLeft slot = 0 → exec c s = .next s) ∧
      (∀ slot : Fin 4, a = .window slot → s.windows.get none (Key.at 0 slot) = none → exec c s = .next s) ∧
      (a = .peer → (∀ e ∈ s.inbox, msgKind e.2 ≠ 7 ∨ (field e.2 0x14 1).testBit 0 = true) → exec c s = .next s)) ∧
    (s.mgmtUp = true → completes .datagramDiscard s fun u =>
      u.fld .CMD_CNT_DROP_COUNT iod0 = (s.fld .CMD_CNT_DROP_COUNT iod0 + 1) % 2 ^ 64 ∧
      s.keepsRegs u [(.CMD_CNT_DROP_COUNT, iod0, 0, 0)] ∧ s.sameBut u fun x => { x with csr := [] }) ∧
    (∀ (acc : Accessor) (slot : Fin 4) (v : Word64), s.dieUp iod0 = true → isSup acc = true ∨ s.hostAuth acc slot = true →
      (v.toNat % 256 < s.fld .SLQ_CMD_CTL_SIZE iod0 slot → completes (.slqDb acc slot v) s fun u =>
        u.fld .SLQ_CMD_CTL_TAIL iod0 slot = v.toNat % 256 ∧ s.wrote u [(.SLQ_CMD_CTL_TAIL, iod0, slot, 0)]) ∧
      (s.fld .SLQ_CMD_CTL_SIZE iod0 slot ≤ v.toNat % 256 → completes (.slqDb acc slot v) s fun u =>
        u.fld .SLQ_EVENTS_BAD_DB iod0 slot = 1 ∧ s.wrote u [(.SLQ_EVENTS_BAD_DB, iod0, slot, 0)])) ∧
    (∀ (port : Nat) (m : List Byte) (t : State), s.takeMsg (fun m => msgKind m = 6) = some (port, m, t) →
      (t.slotState (msgSlot m) = slotRunning → msgGen m = t.fld .REC_JOB_GEN_GEN iod0 (msgSlot m) →
        exec .doorbell s = .next (t.notice (msgSlot m) 3 (leBytes 2 (msgSrc m) ++ leBytes 2 0 ++ leBytes 4 (field m 0x10 4)))) ∧
      (t.slotState (msgSlot m) ≠ slotRunning ∨ msgGen m ≠ t.fld .REC_JOB_GEN_GEN iod0 (msgSlot m) → completes .doorbell s fun u =>
        u.fld .CMD_CNT_DROP_COUNT iod0 = (t.fld .CMD_CNT_DROP_COUNT iod0 + 1) % 2 ^ 64 ∧
        t.keepsRegs u [(.CMD_CNT_DROP_COUNT, iod0, 0, 0)] ∧ t.sameBut u fun x => { x with csr := [] })) ∧
    (∀ (port : Nat) (m : List Byte) (t : State), s.takeMsg (fun m => msgKind m = 7 && (field m 0x14 1).testBit 0) = some (port, m, t) →
      exec .peerCmdReply s = .next t ∧ t.inbox = s.inbox.erase (port, m) ∧ t.mem = s.mem ∧ (∀ F d x k, t.fld F d x k = s.fld F d x k))

/-- SLOT_STATUS, STEP_QUERY, SNAP_STATUS and RING_STATUS answer ST_OK with the registers that R438 names and change nothing else. CSR_READ answers with the value of a register under supervisor authority, or with eight aligned bytes of memory; CSR_WRITE has the effect of the write; the packets of the access cross the mesh. A register that refuses the access is answered ST_REFUSED. -/
def Obligations.QueriesAndRegisterCommandsAnswer : Prop :=
  ∀ (s : State) (src : Nat) (bs : List Byte) (p : Packet),
    (s.offers 0x0103 src bs p → completes (.slotStatus (.mgmt src bs)) s fun u => s.fulfils u p src
      (leBytes 8 (s.regWord .SLQ_STATE iod0 p.slot) ++ (List.range 8).flatMap (fun cd => leBytes 1 (s.fld .SEQ_TKT_GRANT_GRANT cd 0 p.slot)) ++
        State.padTo 8 (Config.quotaInfo ((List.range 5).map (s.quotaUsed p.slot)))) [] id) ∧
    (s.offers 0x0405 src bs p → completes (.stepQuery (.mgmt src bs)) s fun u => s.fulfils u p src
      (leBytes 8 (s.regWord .NUM_STEP mh0 p.slot) ++ leBytes 8 (s.regWord .CMT_LAST mh0 p.slot) ++ leBytes 8 (s.regWord .NUM_LSCALE mh0 p.slot)) [] id) ∧
    (s.offers 0x0503 src bs p → completes (.snapStatus (.mgmt src bs)) s fun u => s.fulfils u p src (leBytes 8 (s.regWord .SNAP_STATUS iod0 p.slot)) [] id) ∧
    (s.offers 0x0606 src bs p → completes (.ringStatus (.mgmt src bs)) s fun u => s.fulfils u p src
      (leBytes 8 (s.regWord .HLM_POS iod0) ++ (List.range 8).flatMap (fun k => leBytes 1 (s.hlState k)) ++ leBytes 8 (s.regWord .REC_STATUS iod0)) [] id) ∧
    (s.offers 0x0701 src bs p → let a := p.fld 0 8
      (csrBase ≤ a → ∀ v, (s.csrEnter a).csrRead .supervisor a = some v → completes (.csrRead (.mgmt src bs)) s fun u =>
        s.answers u p src (leBytes 8 v) ∧
        (∀ F, F ∉ [Fld.CMD_CNT_MGMT_COUNT, .MESH_CNT_FLITS_COUNT, .MESH_PEAK_PEAK] → ∀ d x k, u.fld F d x k = s.fld F d x k) ∧
        s.sameBut u fun x => { x with csr := [], out := [], keptReplies := [], crossings := [] }) ∧
      (csrBase ≤ a → (s.csrEnter a).csrRead .supervisor a = none → completes (.csrRead (.mgmt src bs)) s fun u =>
        u.out = .mgmt src (replyBytes p stRefused []) :: s.out ∧
        (∀ F, F ∉ [Fld.CMD_CNT_REFUSED_COUNT, .MESH_CNT_FLITS_COUNT, .MESH_PEAK_PEAK] → ∀ d x k, u.fld F d x k = s.fld F d x k)) ∧
      (a < csrBase → a % 8 = 0 → s.judge .supervisor a ≠ .wait → ∀ d sealing t, s.readPiece .supervisor a 8 = (.data d sealing, t) →
        exec (.csrRead (.mgmt src bs)) s = .next (t.served p d))) ∧
    (s.offers 0x0702 src bs p → let a := p.fld 0 8
      let v := p.fld 8 8
      (csrBase ≤ a → ∀ e r t, State.csrPlace a = some e → locate e.1 e.2 = some r → r.reg ≠ .SUP_WDOG → r.reg ≠ .MEM_FRAME_DATA →
        (s.csrEnter a).csrWrite .supervisor a v = some t → exec (.csrWrite (.mgmt src bs)) s = .next ((t.csrLeave a).served p)) ∧
      (a < csrBase → a % 8 = 0 → s.judge .supervisor a = .ok → s.windowAt a = none →
        exec (.csrWrite (.mgmt src bs)) s = .next ((s.writePieces .supervisor a (leBytes 8 v) 0).2.served p)))

/-- SLOT_CREATE makes a slot READY with its two queues. SLOT_DISABLE aborts the slot, ends its translation, clears its quotas and releases its frames and blocks; its reply waits for their zeroing. FRAME_GRANT gives the frames or blocks of its range to the slot, in their class, and zeroes them; it waits while one of them is being zeroed, and a condition of R527 that fails is its status. FRAME_RELEASE frees them. QUOTA_SET writes a limit and raises an event where the use exceeds it. SLOT_REG_WRITE writes the register that it names; STASH_PURGE purges the dies of its mask. ABORT_QUEUE, ABORT_SLOT and ABORT_CMD answer with the number of commands that they have ended. -/
def Obligations.SlotAndMemoryCommands : Prop :=
  ∀ (s : State) (src : Nat) (bs : List Byte) (p : Packet), let slot := p.slot
    (s.offers 0x0101 src bs p → (p.fld 0 1 = 1 → ∀ x < 4, x ≠ slot → s.isSideshow x = false) →
      s.systemRange (p.fld 8 8) (64 * p.fld 0x10 2) = true → s.systemRange (p.fld 0x18 8) (32 * p.fld 0x20 2) = true →
      (1 ≤ s.fld .SVC_STATUS_LEVEL iod0 → completes (.slotCreate (.mgmt src bs)) s fun u =>
        u.fld .SLQ_STATE_STATE iod0 slot = slotReady ∧ u.fld .SLQ_STATE_SIDESHOW iod0 slot = p.fld 0 1 ∧
        u.fld .SLQ_CMD_BASE_BASE iod0 slot = p.fld 8 8 / 32 ∧ u.fld .SLQ_CMD_CTL_SIZE iod0 slot = p.fld 0x10 2 ∧
        u.fld .SLQ_CPL_BASE_BASE iod0 slot = p.fld 0x18 8 / 32 ∧ u.fld .SLQ_CPL_CTL_SIZE iod0 slot = p.fld 0x20 2 ∧
        s.fulfils u p src [] [(.SLQ_STATE_STATE, iod0, slot, 0), (.SLQ_STATE_SIDESHOW, iod0, slot, 0), (.SLQ_CMD_BASE_BASE, iod0, slot, 0),
          (.SLQ_CMD_CTL_SIZE, iod0, slot, 0), (.SLQ_CPL_BASE_BASE, iod0, slot, 0), (.SLQ_CPL_CTL_SIZE, iod0, slot, 0)] id) ∧
      (s.fld .SVC_STATUS_LEVEL iod0 = 0 → completes (.slotCreate (.mgmt src bs)) s fun u => s.refuses u p src stServiceLevel)) ∧
    (s.offers 0x0102 src bs p → let r := s.disableSlot slot
      let waits := { r.2.acceptCmd p with cmdRuns := (r.2.acceptCmd p).cmdRuns ++ [⟨p, r.1⟩] }
      (r.1.any waits.beingZeroed = true → exec (.slotDisable (.mgmt src bs)) s = .next waits) ∧
      (r.1.any waits.beingZeroed = false → exec (.slotDisable (.mgmt src bs)) s =
        .next (({ waits with cmdRuns := waits.cmdRuns.erase ⟨p, r.1⟩ }.reply p stOk []).freeSlotPage slot)) ∧
      waits.fld .XLT_ROOT_EN iod0 slot = 0 ∧ (∀ q, waits.fld (State.quotaFld q) mh0 slot = 0)) ∧
    (s.offers 0x0301 src bs p → let ws := rangeOf p
      (∀ st, s.grantCheck p = some st → completes (.frameGrant (.mgmt src bs)) s fun u => s.refuses u p src st) ∧
      (s.grantCheck p = none → (∃ w ∈ ws, s.beingZeroed w = true) →
        exec (.frameGrant (.mgmt src bs)) s = .next { s.acceptCmd p with cmdRuns := s.cmdRuns ++ [⟨p, ws.filter s.beingZeroed⟩] }) ∧
      (s.grantCheck p = none → (∀ w ∈ ws, s.beingZeroed w = false) → p.fld 0 1 ≠ 2 → completes (.frameGrant (.mgmt src bs)) s fun u =>
        (∀ w ∈ ws, u.frame w.1 w.2.2 = { s.frame w.1 w.2.2 with owner := .slot slot, use := frameUseOf (p.fld 1 1), strong := decide (p.fld 2 1 = 1), isSealed := decide (p.fld 3 1 = 1), zeroing := true, batch := s.zeroBatch + 1, first := (s.frame w.1 w.2.2).isSealed || decide (p.fld 3 1 = 1) }) ∧
        (∀ t n, (∀ w ∈ ws, (w.1, w.2.2) ≠ (t, n)) → u.frame t n = s.frame t n) ∧
        s.fulfils u p src [] [] fun x => { x with frames := [], zeroBatch := 0 }) ∧
      (s.grantCheck p = none → (∀ w ∈ ws, s.beingZeroed w = false) → p.fld 0 1 = 2 → completes (.frameGrant (.mgmt src bs)) s fun u =>
        (∀ w ∈ ws, u.block w.2.1 w.2.2 = ⟨some slot, true, true⟩ ∧ u.flagBit .SRAM_CLASS_STRONG w.2.1 0 (w.2.2 / 64) (w.2.2 % 64) = decide (p.fld 2 1 = 1)) ∧
        (∀ cd n, (∀ w ∈ ws, w.2 ≠ (cd, n)) → u.block cd n = s.block cd n) ∧ s.answers u p src [])) ∧
    (s.offers 0x0302 src bs p → let ws := rangeOf p
      p.fld 8 4 + p.fld 0xC 4 ≤ unitCount (p.fld 0 1) → (∀ w ∈ ws, s.rangeOwned slot w = true) →
      (p.fld 0 1 ≠ 2 → completes (.frameRelease (.mgmt src bs)) s fun u =>
        (∀ w ∈ ws, u.frame w.1 w.2.2 = { s.frame w.1 w.2.2 with owner := .free, use := .ordinary, isSealed := false, zeroing := true, batch := s.zeroBatch + 1, first := (s.frame w.1 w.2.2).isSealed }) ∧
        (∀ t n, (∀ w ∈ ws, (w.1, w.2.2) ≠ (t, n)) → u.frame t n = s.frame t n) ∧
        s.fulfils u p src [] [] fun x => { x with frames := [], zeroBatch := 0 }) ∧
      (p.fld 0 1 = 2 → completes (.frameRelease (.mgmt src bs)) s fun u =>
        (∀ w ∈ ws, u.block w.2.1 w.2.2 = ⟨none, true, true⟩ ∧ u.flagBit .SRAM_CLASS_STRONG w.2.1 0 (w.2.2 / 64) (w.2.2 % 64) = false) ∧
        (∀ cd n, (∀ w ∈ ws, w.2 ≠ (cd, n)) → u.block cd n = s.block cd n) ∧ s.answers u p src [])) ∧
    (s.offers 0x0303 src bs p → completes (.quotaSet (.mgmt src bs)) s fun u =>
      u.fld (State.quotaFld (p.fld 0 1)) mh0 slot = p.fld 8 4 ∧
      (p.fld 8 4 < s.quotaUsed slot (p.fld 0 1) → s.raised u .EV_QUOTA_OVERSUBSCRIBED mh0) ∧
      (s.quotaUsed slot (p.fld 0 1) ≤ p.fld 8 4 → u.events = s.events) ∧
      s.fulfils u p src [] [(State.quotaFld (p.fld 0 1), mh0, slot, 0)] fun x => { x with events := [] }) ∧
    (s.offers 0x0304 src bs p → p.fld 0 1 ≠ 5 → p.fld 0 1 ≠ 0xD ∨ s.slotState slot ≠ slotRunning →
      let r := State.slotReg slot (p.fld 0 1) (p.fld 1 1)
      s.dieUp r.d = true → ∀ t, s.regStore .supervisor r.reg r.d r.u r.i (p.fld 8 8) = some t →
        exec (.slotRegWrite (.mgmt src bs)) s = .next (t.served p)) ∧
    (s.offers 0x0305 src bs p → exec (.stashPurge (.mgmt src bs)) s =
      .next (((State.maskDies (p.fld 0 1)).foldl (fun s cd => s.purgeStash cd slot) s).served p)) ∧
    (s.offers 0x0F01 src bs p → let cd := p.fld 0 1
      let c := s.cutUnit cd (p.fld 1 1) slot
      exec (.abortQueue (.mgmt src bs)) s =
        .next ((((c.ctxs.eraseDups).foldl (fun s x => s.faultCtx cd x causeAborted (p.fld 1 1)) c.st).yieldSettle cd).served p (leBytes 4 c.n ++ leBytes 4 0))) ∧
    (s.offers 0x0F02 src bs p → exec (.abortSlot (.mgmt src bs)) s =
      .next ((s.abortSlot slot).2.served p (leBytes 4 (s.abortSlot slot).1 ++ leBytes 4 0))) ∧
    (s.offers 0x0F03 src bs p → (∀ r ∈ s.slotRuns slot, r.pkt.tag ≠ p.fld 0 2) → (∀ e ∈ s.queuedCmds slot, e.2.tag ≠ p.fld 0 2) →
      completes (.abortCmd (.mgmt src bs)) s fun u => s.fulfils u p src (leBytes 4 0 ++ leBytes 4 0) [] fun x => { x with qSkip := [] })

/-- PAT_LOAD of a file that is readable and passes the checks of R151 loads it on each die of the file; one that fails a check is answered with its number. PAT_UNLOAD unloads the dies of its mask. PAT_LAUNCH at service level 2, with no torn update and with the pattern loaded on every die of its mask, makes the slot RUNNING and starts its contexts at their program counters. CTX_RESUME of a FAULTED context of the slot puts its program counter back to the faulting instruction, clears its record and the refusal, and makes it READY. -/
def Obligations.PatternCommands : Prop :=
  ∀ (s : State) (src : Nat) (bs : List Byte) (p : Packet), let slot := p.slot
    (s.offers 0x0201 src bs p → ∀ file t, s.patFile slot (p.fld 0 8) (p.fld 8 4) (decide (p.fld 0xC 1 = 1)) = (some file, t) →
      (t.patCheck slot file = 0 → exec (.patLoad (.mgmt src bs)) s = .next (((patFileDies file).foldl (State.loadDie slot file) t).served p)) ∧
      (∀ k, t.patCheck slot file = k → k ≠ 0 → k ≠ 8 → completes (.patLoad (.mgmt src bs)) s fun u => t.refuses u p src (stPat k)) ∧
      (t.patCheck slot file = 8 → completes (.patLoad (.mgmt src bs)) s fun u => t.refuses u p src stSealed)) ∧
    (∀ (file : List Byte) (cd : Nat), cd < 8 → let u := State.loadDie slot file s cd
      u.loaded cd slot = true ∧ u.flagBit .SLQ_STATE_DIES iod0 slot 0 cd = true) ∧
    (s.offers 0x0202 src bs p → exec (.patUnload (.mgmt src bs)) s =
      .next (((State.maskDies (p.fld 0 1)).foldl (fun s cd => s.unload cd slot) (s.disarm slot)).served p)) ∧
    (s.offers 0x0203 src bs p → 2 ≤ s.fld .SVC_STATUS_LEVEL iod0 → s.slotTorn slot = false → (∀ cd ∈ State.maskDies (p.fld 0 1), s.loaded cd slot = true) →
      exec (.patLaunch (.mgmt src bs)) s = .next ((((State.maskDies (p.fld 0 1)).foldl (State.launchDie slot (p.fld 8 8) ((List.range 4).map (fun c => p.fld (0x10 + 4 * c) 4)))
        ((s.setSlotState slot slotRunning).armWindow slot)).slotDone slot).served p)) ∧
    (s.offers 0x0203 src bs p → s.fld .SVC_STATUS_LEVEL iod0 < 2 → completes (.patLaunch (.mgmt src bs)) s fun u => s.refuses u p src stServiceLevel) ∧
    (s.offers 0x0203 src bs p → 2 ≤ s.fld .SVC_STATUS_LEVEL iod0 → s.slotTorn slot = true →
      completes (.patLaunch (.mgmt src bs)) s fun u => s.refuses u p src stTorn) ∧
    (s.offers 0x0204 src bs p → let cd := p.fld 0 1
      let c := p.fld 1 1
      s.ctxState cd c = ctxFaulted → s.ctxSlot cd c = slot → completes (.ctxResume (.mgmt src bs)) s fun u =>
        u.fld .SEQ_CTX_PC_PC cd 0 c = s.fld .SEQ_CTX_FAULT_PC cd 0 c % 2 ^ 32 ∧ u.fld .SEQ_CTX_FAULT_CAUSE cd 0 c = 0 ∧ u.fld .SEQ_CTX_FAULT_UNIT cd 0 c = 0 ∧
        u.fld .SEQ_CTX_FAULT_PC cd 0 c = 0 ∧ u.fld .SEQ_CTX_FAULT_TAG cd 0 c = 0 ∧
        (u.ctxState cd c = ctxReady ∨ u.ctxState cd c = ctxRunning) ∧ u.mem = s.mem ∧ s.answers u p src [])

/-- STEP_RATE writes the learning rate and step of its groups in the word of the step parity. GROUP_WRITE writes five words of its group. Both leave the group number in CMT_GRP_IDX. LSCALE_SET makes an exponent pending, or sets the least exponent and raises the exponent in force to it. SKIP_NEXT marks the next step. SNAP_TAKE begins a snapshot of the slot, at once where no vote, update or other snapshot stands in its way. SNAP_CONFIG writes the register that it names. -/
def Obligations.UpdateAndSnapshotCommands : Prop :=
  ∀ (s : State) (src : Nat) (bs : List Byte) (p : Packet), let slot := p.slot
    (s.offers 0x0401 src bs p → let step := p.fld 4 4
      completes (.stepRate (.mgmt src bs)) s fun u =>
        (∀ k < p.fld 2 2, p.fld 0 1 + k < 256 → u.groups.get 0 (Key.at slot (p.fld 0 1 + k) (4 + step % 2)) = p.fld 8 4 + step * 2 ^ 32) ∧
        (∀ g w, g < p.fld 0 1 ∨ p.fld 0 1 + p.fld 2 2 ≤ g ∨ w ≠ 4 + step % 2 → u.groups.get 0 (Key.at slot g w) = s.groups.get 0 (Key.at slot g w)) ∧
        u.fld .CMT_GRP_IDX_GROUP mh0 slot = min (p.fld 0 1 + p.fld 2 2 - 1) 255 ∧
        s.fulfils u p src [] [(.CMT_GRP_IDX_GROUP, mh0, slot, 0)] fun x => { x with groups := [] }) ∧
    (s.offers 0x0402 src bs p → let g := p.fld 0 1
      completes (.groupWrite (.mgmt src bs)) s fun u =>
        (∀ w ∈ groupWords, u.groups.get 0 (Key.at slot g w.1) = p.fld w.2 8) ∧
        (∀ x w, x ≠ g ∨ w ∉ groupWords.map Prod.fst → u.groups.get 0 (Key.at slot x w) = s.groups.get 0 (Key.at slot x w)) ∧
        u.fld .CMT_GRP_IDX_GROUP mh0 slot = g ∧
        s.fulfils u p src [] [(.CMT_GRP_IDX_GROUP, mh0, slot, 0)] fun x => { x with groups := [] }) ∧
    (s.offers 0x0403 src bs p → p.fld 0 1 = 0 → completes (.lscaleSet (.mgmt src bs)) s fun u =>
      u.fld .NUM_LSCALE_PEND mh0 slot = p.fld 1 1 ∧ u.fld .NUM_LSCALE_PEND_VALID mh0 slot = 1 ∧
      s.fulfils u p src [] [(.NUM_LSCALE_PEND, mh0, slot, 0), (.NUM_LSCALE_PEND_VALID, mh0, slot, 0)] id) ∧
    (s.offers 0x0403 src bs p → p.fld 0 1 = 1 → completes (.lscaleSet (.mgmt src bs)) s fun u =>
      u.fld .NUM_LSCALE_E_MIN mh0 slot = p.fld 1 1 ∧ u.lscale slot = max (s.lscale slot) (s8 (p.fld 1 1)) ∧
      s.fulfils u p src [] [(.NUM_LSCALE_E_MIN, mh0, slot, 0), (.NUM_LSCALE_E, mh0, slot, 0)] id) ∧
    (s.offers 0x0404 src bs p → completes (.skipNext (.mgmt src bs)) s fun u =>
      u.fld .CMT_CFG_SKIP_NEXT mh0 slot = 1 ∧ s.fulfils u p src [] [(.CMT_CFG_SKIP_NEXT, mh0, slot, 0)] id) ∧
    (s.offers 0x0501 src bs p → ∀ l t, s.stateList slot = (some l, t) → t.voteClosed slot = true →
      (∀ x < 4, x ≠ slot → t.snap x = none) → completes (.snapTake (.mgmt src bs)) s fun u =>
        u.slotPause.get false (Key.at 0 slot) = true ∧ u.cmdRuns = t.cmdRuns ++ [⟨p, []⟩] ∧
        (∃ r, u.snap slot = some r ∧ r.phase = .copying ∧ r.step = t.fld .NUM_STEP_STEP mh0 slot) ∧
        u.fld .CMD_CNT_MGMT_COUNT iod0 = (t.fld .CMD_CNT_MGMT_COUNT iod0 + 1) % 2 ^ 64) ∧
    (s.offers 0x0502 src bs p → let r : RegAt := if p.fld 0 1 = 0 then ⟨.SNAP_CFG, iod0, 0, 0⟩ else if p.fld 0 1 = 1 then ⟨.SNAP_SHADOW, iod0, 0, 0⟩
        else ⟨.SNAP_SLOT, iod0, p.fld 1 1, 0⟩
      s.dieUp iod0 = true → ∀ t, s.regStore .supervisor r.reg r.d r.u r.i (p.fld 8 8) = some t → exec (.snapConfig (.mgmt src bs)) s = .next (t.served p))

/-- RING_FORM with no pattern loaded and no job state under a raised generation writes the position, the generation, the catcher mark and the dateline marks. PORT_ROLE gives a port its role. CATCH_TABLE writes the register that it names. HANDBACK of the position that the module holds for another starts a handback. JOIN without job state takes the generation. SELFTEST without a pattern on its dies resets and tests them. BUDGET_SET applies a budget that every die can meet, and answers once the dies run at their steps. CAP_SET sets the command cap of its regions, and DIE_PARK sends them to step 0; neither acts on a region under a crossing error. -/
def Obligations.ModuleCommands : Prop :=
  ∀ (s : State) (src : Nat) (bs : List Byte) (p : Packet),
    (s.offers 0x0601 src bs p → (∀ cd < 8, s.dieSlots cd = []) → p.fld 2 2 ≤ s.myGen ∨ (s.ownsFrames = false ∧ s.holdsImages = false) →
      let f := p.fld 4 1
      let t := (((s.setFld .HLM_POS_POS iod0 0 0 (p.fld 0 2)).setFld .HLM_POS_GEN iod0 0 0 (p.fld 2 2)).setFld .HLM_POS_CATCHER iod0 0 0 (bits f 0 0)).setFld
        .HLM_CTL_DATELINE1 iod0 0 0 (bits f 1 1)
      exec (.ringForm (.mgmt src bs)) s = .next ((t.setFld .HLM_CTL_DATELINE2 iod0 0 0 (bits f 2 2)).evalAll.pump.enablePorts.served p)) ∧
    (s.offers 0x0601 src bs p → (∃ cd < 8, s.dieSlots cd ≠ []) → completes (.ringForm (.mgmt src bs)) s fun u => s.refuses u p src stGen) ∧
    (s.offers 0x0602 src bs p → s.dieUp (portDie (p.fld 0 1)) = true → exec (.portRole (.mgmt src bs)) s =
      .next ((s.setEnRole (p.fld 0 1) (s.hl .HL_CTL_EN (p.fld 0 1)) (p.fld 1 1)).pump.enablePorts.served p)) ∧
    (s.offers 0x0603 src bs p → let r : RegAt := if p.fld 0 1 = 0 then ⟨.REC_CFG, iod0, 0, 0⟩ else if p.fld 0 1 = 1 then ⟨.REC_GROUP, iod0, 0, 0⟩
        else ⟨.REC_SRC, iod0, 0, p.fld 0 1 - 2⟩
      s.dieUp iod0 = true → ∀ t, s.regStore .supervisor r.reg r.d r.u r.i (p.fld 8 8) = some t → exec (.catchTable (.mgmt src bs)) s = .next (t.served p)) ∧
    (s.offers 0x0604 src bs p → s.myPos = p.fld 0 2 → s.flag .HLM_POS_CATCHER iod0 = false → (s.groupIdx (p.fld 0 2)).isSome = true →
      s.fld .REC_STATUS_STATE iod0 = 0 → s.handback = none → completes (.handback (.mgmt src bs)) s fun u =>
        u.handback = some (p.fld 0 2, p.fld 2 2, false) ∧ u.fld .REC_STATUS_STATE iod0 = 5 ∧ u.cmdRuns = s.cmdRuns ++ [⟨p, []⟩] ∧
        u.fld .CMD_CNT_MGMT_COUNT iod0 = (s.fld .CMD_CNT_MGMT_COUNT iod0 + 1) % 2 ^ 64 ∧
        s.keepsRegs u [(.CMD_CNT_MGMT_COUNT, iod0, 0, 0), (.REC_STATUS_STATE, iod0, 0, 0)] ∧
        s.sameBut u fun x => { x with csr := [], out := [], keptReplies := [], cmdRuns := [], handback := none }) ∧
    (s.offers 0x0605 src bs p → s.ownsFrames = false → s.holdsImages = false → exec (.join (.mgmt src bs)) s =
      .next ((s.setFld .HLM_POS_GEN iod0 0 0 (p.fld 0 2)).evalAll.pump.served p)) ∧
    (s.offers 0x0703 src bs p → ∀ pass : BitVec 12, s.maskLoaded (p.fld 0 2) = false → s.mayBringUp = false → completes (.selftest (.mgmt src bs) pass) s fun u =>
      (∀ k ∈ State.maskRegions (p.fld 0 2), u.selfTests.get 0 (Key.at (regionDie k)) = (if pass.toNat.testBit k then 1 else 2) ∧
        u.fld .DIE_STATUS_IN_SERVICE (regionDie k) = 0) ∧ u.mem = s.mem ∧ s.answers u p src []) ∧
    (s.offers 0x0703 src bs p → ∀ pass : BitVec 12, s.maskLoaded (p.fld 0 2) = true →
      completes (.selftest (.mgmt src bs) pass) s fun u => s.refuses u p src stBadParam) ∧
    (s.offers 0x0801 src bs p → let b := p.fld 1 1
      let t := (State.maskDies (p.fld 0 1)).foldl (fun s cd => s.applyBudget cd b) s
      (∀ cd ∈ State.maskDies (p.fld 0 1), (budgetStep (s.grantSum cd) b).isSome = true ∨ s.grantSum cd ≤ b) →
      (t.budgetMet (p.fld 0 1) = true → exec (.budgetSet (.mgmt src bs)) s = .next (t.served p)) ∧
      (t.budgetMet (p.fld 0 1) = false → exec (.budgetSet (.mgmt src bs)) s = .next { t.acceptCmd p with cmdRuns := t.cmdRuns ++ [⟨p, []⟩] })) ∧
    (s.offers 0x0802 src bs p → completes (.capSet (.mgmt src bs)) s fun u =>
      (∀ k ∈ State.maskRegions (p.fld 0 2), s.flag .CLK_STATUS_XERR (regionDie k) = false → u.capBy .command k = p.fld 2 1) ∧
      (∀ x k, x ≠ .command ∨ k ∉ State.maskRegions (p.fld 0 2) ∨ s.flag .CLK_STATUS_XERR (regionDie k) = true → u.capBy x k = s.capBy x k) ∧
      (∀ F, F ∉ [Fld.CMD_CNT_MGMT_COUNT, .CLK_STEP_CAP, .CLK_STEP_BUSY] → ∀ d x k, u.fld F d x k = s.fld F d x k) ∧ s.answers u p src [] ∧
      s.sameBut u fun x => { x with csr := [], out := [], keptReplies := [], caps := [], clocks := [] }) ∧
    (s.offers 0x0803 src bs p → s.maskLoaded (p.fld 0 2) = false → completes (.diePark (.mgmt src bs)) s fun u =>
      (∀ k ∈ State.maskRegions (p.fld 0 2), s.flag .CLK_STATUS_XERR (regionDie k) = false → u.fld .CLK_STEP_TARGET (regionDie k) = 0) ∧
      (∀ F, F ∉ [Fld.CMD_CNT_MGMT_COUNT, .CLK_STEP_TARGET, .CLK_STEP_BUSY] → ∀ d x k, u.fld F d x k = s.fld F d x k) ∧ s.answers u p src [] ∧
      s.sameBut u fun x => { x with csr := [], out := [], keptReplies := [], clocks := [] })

/-- A write of HL_CTL that enables a port with a role starts its training; one that disables a port in traffic takes it DOWN. A new role starts the training of an enabled port that is DOWN, and a port in traffic then tells its peer by IDENT. RETRAIN, a training state over its limit and a crossed port after a second start training afresh. DETECT finds a crossed cable, which holds the port, or the lanes to leave out; EQUALIZE follows it. ALIGN takes the lane order and the widths of R346, or holds a port with fewer than four good lanes. An IDENT gives the peer and takes the port into traffic. A lane that loses its lock or exceeds its error rate in traffic is left out and starts a fast retrain, which ends in traffic again. -/
def Obligations.PortsTrain : Prop :=
  ∀ (s : State) (port : Fin 8), let p := port.val
    let width (u : State) := if u.hl .HL_STATUS_TX_WIDTH p = 12 ∧ u.hl .HL_STATUS_RX_WIDTH p = 12 then 5 else 6
    let counted (u : State) := u.hl .HL_CNT_RETRAIN_COUNT p = (s.hl .HL_CNT_RETRAIN_COUNT p + 1) % 2 ^ 64
    let trains := s.hl .HL_CTL_EN p = 1 ∧ s.hlRole p ≠ 0
    (∀ (acc : Accessor) (v : Word64), s.dieUp (portDie p) = true → isSup acc = true → bits v.toNat 5 5 = 0 →
      (s.hlState p = 0 → bits v.toNat 0 0 = 1 → bits v.toNat 3 1 ≠ 0 → completes (.hlEnWrite acc port v) s fun u =>
        u.hlState p = 1 ∧ u.hl .HL_CTL_EN p = 1 ∧ u.hlRole p = bits v.toNat 3 1 ∧ (u.port p).since = s.now ∧ u.resp = .written) ∧
      (s.inTraffic p = true → bits v.toNat 0 0 = 0 → completes (.hlEnWrite acc port v) s fun u =>
        u.hlState p = 0 ∧ u.hl .HL_CTL_EN p = 0 ∧ u.hl .HL_STATUS_TX_WIDTH p = 0 ∧ u.hl .HL_STATUS_RX_WIDTH p = 0 ∧ u.hl .HL_PEER_VALID p = 0 ∧
        u.hl .HL_FAULT_DOWN p = 1 ∧ u.resp = .written)) ∧
    (∀ role : Fin 8,
      (s.hlState p = 0 → s.hl .HL_CTL_EN p = 1 → role.val ≠ 0 → completes (.hlRoleChange port role) s fun u =>
        u.hlState p = 1 ∧ u.hlRole p = role ∧ (u.port p).since = s.now) ∧
      (s.inTraffic p = true → s.hl .HL_CTL_EN p = 1 → role.val ≠ 0 → role.val ≠ s.hlRole p → completes (.hlRoleChange port role) s fun u =>
        u.hlState p = s.hlState p ∧ u.hlRole p = role ∧ u.hl .HL_STATUS_COMPAT p = 0 ∧ (u.port p).identDue = true)) ∧
    (∀ acc : Accessor, s.dieUp (portDie p) = true → isSup acc = true →
      (trains → completes (.hlRetrain acc port) s fun u => u.hlState p = 1 ∧ counted u ∧ u.resp = .written) ∧
      (¬ trains → completes (.hlRetrain acc port) s fun u => u.hlState p = 0 ∧ u.resp = .written)) ∧
    (let st := s.hlState p
      let limit := if st = 1 then 1000 else if st = 2 then 60000 else if st = 3 then 1000 else 100
      1 ≤ st → st ≤ 4 → (s.port p).since + limit * usTicks < s.now → trains →
        completes (.trainingTimeout port) s fun u => u.hlState p = 1 ∧ counted u ∧ (u.port p).since = s.now) ∧
    (s.hlState p = 7 → (s.port p).crossed = true → (s.port p).since + 1000000 * usTicks ≤ s.now → completes (.crossedRecheck port) s fun u =>
      u.hlState p = 1 ∧ (u.port p).crossed = false ∧ (u.port p).since = s.now) ∧
    (∀ driven a b c d e f : BitVec 12, s.hlState p = 1 →
      (7 ≤ pop12 driven.toNat → completes (.detectComplete port driven a b c d e f) s fun u =>
        u.hlState p = 7 ∧ u.hl .HL_FAULT_LINK_CROSSED p = 1 ∧ (u.port p).crossed = true ∧ ∃ x ∈ u.events, x.code = Ev.code .EV_HL_CROSSED) ∧
      (pop12 driven.toNat < 7 → completes (.detectComplete port driven a b c d e f) s fun u =>
        u.hlState p = 2 ∧ (u.port p).since = s.now ∧ (u.port p).crossed = false ∧
        ∀ i < 12, (a.toNat.testBit i = true ∨ c.toNat.testBit i = true ∨ e.toNat.testBit i = true → u.hl .HL_LANE_TX_OUT p i = 1) ∧
          (b.toNat.testBit i = true ∨ d.toNat.testBit i = true ∨ f.toNat.testBit i = true → u.hl .HL_LANE_RX_OUT p i = 1) ∧
          (a.toNat.testBit i = true ∨ b.toNat.testBit i = true → u.hl .HL_LANE_CAUSE p i = 1))) ∧
    (s.hlState p = 2 → completes (.equalizeComplete port) s fun u =>
      u.hlState p = 3 ∧ u.port p = { s.port p with since := s.now } ∧ s.keepsRegs u [(.HL_STATUS_STATE, portDie p, portUnit p, 0)] ∧
      s.sameBut u fun x => { x with csr := [], ports := [] }) ∧
    (∀ (order : BitVec 48) (inverted : BitVec 12), s.hlState p = 3 →
      (4 ≤ s.txGood p → 4 ≤ s.rxGood p → completes (.alignComplete port order inverted) s fun u =>
        u.hlState p = 4 ∧ u.hl .HL_STATUS_TX_WIDTH p = widthFor (s.txGood p) ∧ u.hl .HL_STATUS_RX_WIDTH p = widthFor (s.rxGood p) ∧
        (u.port p).identDue = true ∧ ∀ i < 12, u.hl .HL_LANE_PEER p i = bits order.toNat (4 * i + 3) (4 * i) ∧
          u.hl .HL_LANE_RX_INV p i = (if inverted.toNat.testBit i then 1 else 0)) ∧
      (s.txGood p < 4 ∨ s.rxGood p < 4 → completes (.alignComplete port order inverted) s fun u => u.hlState p = 7 ∧ u.hl .HL_FAULT_LANE_FAIL p = 1)) ∧
    (∀ (i : Fin 12) (c : Instr) (cause : Nat), (c, cause) ∈ [(Instr.laneLossOfLock port i, 4), (.laneErrorRate port i, 5)] → s.inTraffic p = true →
      completes c s fun u =>
        u.hlState p = 3 ∧ u.port p = { s.port p with fast := true, since := s.now } ∧ u.hl .HL_LANE_CAUSE p i = cause ∧ u.hl .HL_LANE_RX_OUT p i = 1 ∧
        u.flagBit .HL_STATUS_RX_OUT (portDie p) (portUnit p) 0 i = true ∧ u.hl .HL_STATUS_COMPAT p = 0 ∧ counted u ∧ s.raised u .EV_HL_LANE (portDie p) ∧
        s.keepsRegs u ([(Fld.HL_LANE_CAUSE, i.val), (.HL_LANE_RX_OUT, i.val), (.HL_STATUS_RX_OUT, 0), (.HL_STATUS_COMPAT, 0), (.HL_CNT_RETRAIN_COUNT, 0),
          (.HL_STATUS_STATE, 0)].map fun x => (x.1, portDie p, portUnit p, x.2)) ∧
        s.sameBut u fun x => { x with csr := [], ports := [], events := [] }) ∧
    (s.hlState p = 4 → (s.port p).fast = true → (s.port p).identDue = false → completes (.fastRetrainComplete port) s fun u =>
      u.hlState p = width s ∧ (u.port p).fast = false) ∧
    (∀ (m : List Byte) (t : State), s.takeMsg (fun m => msgKind m = 2) = some (p, m, t) →
      (s.hlState p < 4 ∨ s.hlState p = 7 → exec .ident s = .next t) ∧
      (s.hlState p = 4 → (s.port p).fast = false → 4 ≤ min (s.txGood p) (pop12 (field m 0x16 2)) → 4 ≤ min (s.rxGood p) (pop12 (field m 0x14 2)) →
        completes .ident s fun u =>
          u.hlState p = width u ∧ u.hl .HL_PEER_POS p = msgSrc m ∧ u.hl .HL_PEER_GEN p = msgGen m ∧ u.hl .HL_PEER_VALID p = 1 ∧
          u.hl .HL_STATUS_TX_WIDTH p = widthFor (min (s.txGood p) (pop12 (field m 0x16 2))) ∧
          u.hl .HL_STATUS_RX_WIDTH p = widthFor (min (s.rxGood p) (pop12 (field m 0x14 2)))))

/-- A flit that comes to a port which is not in ALIGN or beyond does nothing. One with an uncorrectable codeword, or with a wrong CRC of its control bytes, is counted and makes the port ask for a replay. A control flit is applied. A picot flit in order is counted and its message is routed. The oldest whole frame of a port is routed, or discarded and counted where it is malformed, and its credits return. A frame that has waited HOLD_LIMIT for a route is discarded and counted. -/
def Obligations.FlitsAndFramesArrive : Prop :=
  ∀ (s : State) (port : Fin 8), let p := port.val
    (∀ (flit : List Byte) (corrected : Nat) (bad : Bool), let w := leNat (((State.padTo 144 flit).drop 0x88).take 6)
      let ok := crc16 (((State.padTo 144 flit).drop 0x88).take 6) = field ((State.padTo 144 flit).drop 0x88) 6 2
      (s.hlState p < 3 ∨ s.hlState p = 7 → exec (.flitReceive port flit corrected bad) s = .next s) ∧
      (3 ≤ s.hlState p → s.hlState p ≠ 7 →
        (bad = true → completes (.flitReceive port flit corrected bad) s fun u =>
          u.hl .HL_CNT_FEC_CW_COUNT p = (s.hl .HL_CNT_FEC_CW_COUNT p + corrected) % 2 ^ 64 ∧
          u.hl .HL_CNT_FEC_UNC_COUNT p = (s.hl .HL_CNT_FEC_UNC_COUNT p + 1) % 2 ^ 64 ∧ (u.port p).discarding = true ∧ u.mem = s.mem) ∧
        (bad = false → ¬ ok → completes (.flitReceive port flit corrected bad) s fun u =>
          u.hl .HL_CNT_FEC_CW_COUNT p = (s.hl .HL_CNT_FEC_CW_COUNT p + corrected) % 2 ^ 64 ∧
          u.hl .HL_CNT_CRC_COUNT p = (s.hl .HL_CNT_CRC_COUNT p + 1) % 2 ^ 64 ∧ (u.port p).discarding = true ∧ u.mem = s.mem) ∧
        (bad = false → ok → bits w 1 0 = 0 →
          exec (.flitReceive port flit corrected bad) s = .next ((s.hlInc .HL_CNT_FEC_CW_COUNT p corrected).applyControl p w).pump) ∧
        (bad = false → ok → bits w 1 0 ≠ 0 →
          let t := (s.hlInc .HL_CNT_FEC_CW_COUNT p corrected).applyControl p w
          bits w 14 3 = (t.port p).rxNext →
          exec (.flitReceive port flit corrected bad) s = .next (t.acceptFlit p (bits w 1 0) (bits w 2 2) (bits w 14 3) ((State.padTo 144 flit).take 0x88)).pump))) ∧
    ((s.port p).frames = [] → exec (.frameReceive port) s = .next s) ∧
    (∀ f rest, (s.port p).frames = f :: rest →
      (f.malformed = true → completes (.frameReceive port) s fun u =>
        u.fld .HLM_CNT_MISROUTE_COUNT iod0 = (s.fld .HLM_CNT_MISROUTE_COUNT iod0 + 1) % 2 ^ 64 ∧ (u.port p).frames = rest ∧
        s.keepsRegs u [(.HLM_CNT_MISROUTE_COUNT, iod0, 0, 0)] ∧ s.sameBut u fun x => { x with csr := [], ports := [] }) ∧
      (f.malformed = false → exec (.frameReceive port) s = .next ((s.modPort p fun x => { x with frames := rest }).routeFrame f).pump)) ∧
    (let limit := max (s.fld .HLM_CTL_HOLD_LIMIT iod0) 1 * usTicks;
      ((∀ h ∈ s.held, s.now < h.since + limit) → exec .holdLimitExpiry s = .next s) ∧
      (∀ h, s.held.find? (fun h => h.since + limit ≤ s.now) = some h → completes .holdLimitExpiry s fun u =>
        u.held = s.held.erase h ∧ u.fld .HLM_CNT_NOROUTE_COUNT iod0 = (s.fld .HLM_CNT_NOROUTE_COUNT iod0 + 1) % 2 ^ 64 ∧
        s.keepsRegs u [(.HLM_CNT_NOROUTE_COUNT, iod0, 0, 0)] ∧ s.sameBut u fun x => { x with csr := [], ports := [], held := [], events := [] }))

/-- HLM_ALIVE renews the permission to send heartbeats on a module that is fit; it ends ALIVE_LIMIT after the last renewal. A heartbeat is sent on a port in traffic a period after the last one while the permission lasts. A heartbeat that arrives is copied into HL_PEER. Its loss for HL_HB.LIMIT sets HB_LOSS and raises its event. SEAL_OK is set only while the port passes its seal check, and cleared at any time. -/
def Obligations.HeartbeatsAndSeals : Prop :=
  ∀ (s : State) (port : Fin 8), let p := port.val
    (∀ (acc : Accessor) (v : Word64), s.dieUp iod0 = true → isSup acc = true →
      (v.toNat % 2 = 1 → s.unfit = false → exec (.hlmAlive acc v) s = .next { s with aliveAt := s.now, hbAllowed := true, resp := .written }) ∧
      (v.toNat % 2 = 0 ∨ s.unfit = true → exec (.hlmAlive acc v) s = .next { s with resp := .written })) ∧
    (let limit := max (s.fld .HLM_CTL_ALIVE_LIMIT iod0) 1 * usTicks;
      (s.hbAllowed = true → s.aliveAt + limit ≤ s.now → exec .aliveLimitExpiry s = .next { s with hbAllowed := false }) ∧
      (s.hbAllowed = false ∨ s.now < s.aliveAt + limit → exec .aliveLimitExpiry s = .next s) ∧
      (s.inTraffic p = true → s.hbAllowed = true → s.now < s.aliveAt + limit → (s.port p).hbSent + max (s.hl .HL_HB_PERIOD p) 1 * usTicks ≤ s.now →
        exec (.heartbeatSend port) s = .next
          ((s.setPort p { s.port p with hbCount := ((s.port p).hbCount + 1) % 2 ^ 32, hbSent := s.now }).sendPicotOn p (s.heartbeatMsg p))) ∧
      (s.inTraffic p = false ∨ s.hbAllowed = false ∨ s.aliveAt + limit ≤ s.now → exec (.heartbeatSend port) s = .next s)) ∧
    (∀ (m : List Byte) (t : State), s.takeMsg (fun m => msgKind m = 1) = some (p, m, t) → completes .heartbeat s fun u =>
      u.hl .HL_PEER_POS p = msgSrc m ∧ u.hl .HL_PEER_GEN p = msgGen m ∧ u.hl .HL_PEER_PORT p = field m 0x10 1 % 2 ^ Fld.HL_PEER_PORT.width ∧
      u.hl .HL_PEER_CATCHER p = field m 0x11 1 % 2 ^ Fld.HL_PEER_CATCHER.width ∧ (u.port p).hbSeen = s.now ∧ u.mem = s.mem) ∧
    (let limit := max (s.hl .HL_HB_LIMIT p) (2 * max (s.hl .HL_HB_PERIOD p) 1) * usTicks;
      (s.inTraffic p = true → s.hl .HL_FAULT_HB_LOSS p = 0 → (s.port p).hbSeen + limit ≤ s.now → completes (.heartbeatLoss port) s fun u =>
        u.hl .HL_FAULT_HB_LOSS p = 1 ∧ (u.port p).hbOk = false ∧ (∃ x ∈ u.events, x.code = Ev.code .EV_HL_HB_LOSS ∧ x.die = portDie p) ∧
        u.hlState p = s.hlState p ∧ u.mem = s.mem) ∧
      (s.now < (s.port p).hbSeen + limit → exec (.heartbeatLoss port) s = .next s)) ∧
    (∀ (acc : Accessor), s.dieUp (portDie p) = true → isSup acc = true →
      (completes (.sealOkWrite acc port false) s fun u =>
        u.hl .HL_CTL_SEAL_OK p = 0 ∧ s.wrote u [(.HL_CTL_SEAL_OK, portDie p, portUnit p, 0)]) ∧
      (s.sealCheck p = true → completes (.sealOkWrite acc port true) s fun u =>
        u.hl .HL_CTL_SEAL_OK p = 1 ∧ s.wrote u [(.HL_CTL_SEAL_OK, portDie p, portUnit p, 0)]) ∧
      (s.sealCheck p = false → exec (.sealOkWrite acc port true) s = .next { s with resp := .written }))

/-- A row of a catch message takes the oldest message of its kind, and without one leaves the state as it is; a message of a lower module generation is discarded and counted. A claim that reaches a module which is no standing catcher is kept. On a standing catcher a claim that completes the rule of R413 makes the catcher take the position: ACCEPT and FENCE go out, and the module leaves standby. A DECLARE is evidence for a catcher, and the loss of its sender for a ring neighbour. An ACCEPT leaves the ring ports toward the position IDLE. A FENCE disables every port with a role. Claims older than the claim window are discarded and counted. MIRROR_DONE records the step of the mirror. -/
def Obligations.CatchMessagesAreTaken : Prop :=
  ∀ (s : State),
    (∀ (c : Instr) (sub : Nat), (c, sub) ∈ [(Instr.claim, 1), (.accept, 2), (.declare, 3), (.catchFence, 4), (.recover, 5), (.catchResume, 6), (.fillReq, 7),
        (.digest, 8), (.mirrorDone, 9)] →
      ((∀ e ∈ s.inbox, ¬ (msgKind e.2 = 5 ∧ field e.2 0x10 1 = sub)) → exec c s = .next s) ∧
      (∀ port m t, s.catchNext sub port m t → msgGen m < s.myGen → completes c s fun u =>
        u.fld .REC_CNT_STALE_COUNT iod0 = (s.fld .REC_CNT_STALE_COUNT iod0 + 1) % 2 ^ 64 ∧ s.keepsRegs u [(.REC_CNT_STALE_COUNT, iod0, 0, 0)] ∧
        t.sameBut u fun x => { x with csr := [] })) ∧
    (∀ (port : Nat) (m : List Byte) (t : State),
      (s.catchNext 1 port m t → s.myGen ≤ msgGen m → let k := field m 0x12 2
        let t1 : State := { t with claims := t.claims ++ [⟨k, msgSrc m, s.now⟩] }
        (s.flag .HLM_POS_CATCHER iod0 = false ∨ s.groupIdx k = none → exec .claim s = .next t1) ∧
        (∀ i, s.flag .HLM_POS_CATCHER iod0 = true → s.groupIdx k = some i → s.wiredSides i ≠ [] →
          (∀ q ∈ s.wiredSides i, ∃ c ∈ t1.claims, c.pos = k ∧ s.now ≤ c.since + s.claimWindow ∧ c.sender = s.hl .HL_PEER_POS q.1) →
          completes .claim s fun u => u.myPos = k ∧ u.flag .HLM_POS_CATCHER iod0 = false ∧ u.fld .REC_STATUS_STATE iod0 = 1 ∧
            u.fld .REC_CNT_CATCH_COUNT iod0 = (s.fld .REC_CNT_CATCH_COUNT iod0 + 1) % 2 ^ 64 ∧ u.mem = s.mem)) ∧
      (s.catchNext 3 port m t → s.myGen ≤ msgGen m →
        (s.flag .HLM_POS_CATCHER iod0 = true → exec .declare s =
          .next (State.tryAccept { t with claims := t.claims ++ [⟨msgSrc m, msgSrc m, s.now⟩] } (msgSrc m))) ∧
        (s.flag .HLM_POS_CATCHER iod0 = false → roleDim (s.hlRole port) = 1 → exec .declare s = .next (t.lossDetected port)) ∧
        (s.flag .HLM_POS_CATCHER iod0 = false → roleDim (s.hlRole port) ≠ 1 → exec .declare s = .next t)) ∧
      (s.catchNext 2 port m t → s.myGen ≤ msgGen m → let k := field m 0x12 2
        let ring := (List.range 8).filter (fun q => roleDim (s.hlRole q) = 1 && s.hl .HL_PEER_POS q = k && q != port)
        (ring = [] → exec .accept s = .next t) ∧
        (ring ≠ [] → completes .accept s fun u => (∀ q ∈ ring, u.hlRole q = 0) ∧ (∀ c ∈ u.claims, c.pos ≠ k) ∧ u.mem = s.mem)) ∧
      (s.catchNext 4 port m t → s.myGen ≤ msgGen m → completes .catchFence s fun u =>
        (∀ p < 8, roleDim (s.hlRole p) ≠ 0 → u.hl .HL_CTL_EN p = 0)) ∧
      (s.catchNext 9 port m t → s.myGen ≤ msgGen m → completes .mirrorDone s fun u =>
        u.fld .SNAP_STATUS_MIRROR_STEP iod0 (msgSlot m) = field m 0x18 4 ∧ s.keepsRegs u [(.SNAP_STATUS_MIRROR_STEP, iod0, msgSlot m, 0)] ∧
        t.sameBut u fun x => { x with csr := [] })) ∧
    (let dead := s.claims.filter (fun c => decide (c.since + s.claimWindow < s.now))
     s.lost = [] → (∀ c ∈ dead, c.sender ≠ s.myPos) → completes .claimWindowExpiry s fun u =>
      u.claims = s.claims.filter (fun c => decide (s.now ≤ c.since + s.claimWindow)) ∧
      u.fld .REC_CNT_CLAIM_DROP_COUNT iod0 = (s.fld .REC_CNT_CLAIM_DROP_COUNT iod0 + dead.length) % 2 ^ 64 ∧
      s.keepsRegs u [(.REC_CNT_CLAIM_DROP_COUNT, iod0, 0, 0)] ∧ s.sameBut u fun x => { x with csr := [], claims := [] })

/-- The swing is complete once the ring ports of the catcher carry bulk frames: RECOVER goes out. A RECOVER of a lower generation is discarded; one of another position is acted on and sent on with the candidates that this module has. A stopped slot with no update left is QUIET, and its waiting fill requests are answered; one that is not QUIET keeps a request waiting. FILL frames of the running fill are stored, and others are discarded. A DIGEST of the source of the running fill is judged. A RESUME waits until the slot is QUIET and restored; one that returns to its sender ends the circuit, and another one is sent on and passed. A restore of a QUIET slot ends, in the normal state or with no common step. The copy of a snapshot ends once the slot is idle, and its drain ends with the commit record and its step in SNAP_STATUS. -/
def Obligations.RecoveriesAndSnapshotsGoOn : Prop :=
  ∀ (s : State),
    (let ports := s.rolePorts 1 ++ s.rolePorts 2
     (s.fld .REC_STATUS_STATE iod0 = 1 → ports ≠ [] → (∀ p ∈ ports, s.carriesBulk p = true) → exec .swingComplete s = .next (s.recState 2).startCatch) ∧
     (s.fld .REC_STATUS_STATE iod0 ≠ 1 ∨ ports = [] ∨ (∃ p ∈ ports, s.carriesBulk p = false) → exec .swingComplete s = .next s)) ∧
    (∀ (port : Nat) (m : List Byte) (t : State), s.myGen ≤ msgGen m → let slot := msgSlot m
      let cpos := field m 0x12 2
      let rgen := field m 0x14 2
      let jgen := field m 0x16 2
      let target := field m 0x18 4
      let c0 := field m 0x1C 4
      let c1 := field m 0x20 4
      (s.catchNext 5 port m t →
        (rgen < s.myGen ∨ jgen < s.fld .REC_JOB_GEN_GEN iod0 slot → exec .recover s = .next t) ∧
        (s.myGen ≤ rgen → s.fld .REC_JOB_GEN_GEN iod0 slot ≤ jgen → s.originOf slot = 0 → cpos ≠ s.myPos →
          let k (c : Nat) := if target ≠ noStep ∨ (t.imageSteps slot).contains c = true then c else noStep
          exec .recover s = .next ((((t.supersede slot cpos).takeRecover slot cpos rgen jgen target c0 c1).sendPath slot (circuitBody 5 cpos rgen jgen target (k c0) (k c1))).fillAgain slot cpos))) ∧
      (s.catchNext 7 port m t → let q : FillReq := ⟨slot, msgSrc m, cpos, target⟩
        (s.isQuiet slot = false → s.isRecovering slot = true → exec .fillReq s = .next { t with fillReqs := t.fillReqs ++ [q] }) ∧
        (s.isQuiet slot = true ∨ s.isRecovering slot = false → exec .fillReq s = .next (State.answerFills { t with fillReqs := t.fillReqs ++ [q] } slot))) ∧
      (s.catchNext 8 port m t → s.fillWaits slot (msgSrc m) = false →
        (s.fillOf slot = none → exec .digest s = .next t) ∧
        (∀ f, s.fillOf slot = some f → f.source ≠ msgSrc m → exec .digest s = .next t) ∧
        (∀ f, s.fillOf slot = some f → f.source = msgSrc m → exec .digest s = .next (t.takeDigest slot f m))) ∧
      (s.catchNext 6 port m t → s.isRecovering slot = false ∨ (s.isQuiet slot = true ∧ s.restoreOf slot = none) →
        (s.originOf slot = originCircling → cpos = s.myPos ∨ cpos ∈ s.lost → exec .catchResume s = .next (((t.setOrigin slot 0).recState 0).endLoss cpos)) ∧
        (s.originOf slot ≠ originCircling → cpos ≠ s.myPos → exec .catchResume s =
          .next ((t.sendPath slot (circuitBody 6 cpos rgen jgen target 0 0)).passResume slot cpos)))) ∧
    (∀ slot : Fin 4,
      (s.isRecovering slot = true → s.isQuiet slot = false → s.updatesOf slot = [] → let t := s.setQuiet slot true
        exec (.quietReached slot) s = .next ((if s.fld .REC_STATUS_STATE iod0 = 0 then t.recState 2 else t).answerFills slot)) ∧
      (s.isRecovering slot = false ∨ s.isQuiet slot = true ∨ s.updatesOf slot ≠ [] → exec (.quietReached slot) s = .next s) ∧
      (s.restoreOf slot = none ∨ s.isQuiet slot = false → exec (.restoreComplete slot) s = .next s) ∧
      (∀ step, s.restoreOf slot = some step → s.isQuiet slot = true →
        (∀ t, s.restoreStep slot step = (true, t) → completes (.restoreComplete slot) s fun u =>
          u.restoreOf slot = none ∧ u.fld .REC_STATUS_STATE iod0 = 2 ∧ t.keepsRegs u [(.REC_STATUS_STATE, iod0, 0, 0)] ∧
          t.sameBut u fun x => { x with csr := [], restores := [] }) ∧
        (∀ t, s.restoreStep slot step = (false, t) → completes (.restoreComplete slot) s fun u =>
          u.fld .REC_STATUS_FAILED iod0 = 1 ∧ t.raised u .EV_REC_NO_COMMON iod0 ∧ t.keepsRegs u [(.REC_STATUS_FAILED, iod0, 0, 0)] ∧
          t.sameBut u fun x => { x with csr := [], events := [] })) ∧
      (∀ r, s.snap slot = some r →
        (r.phase = .copying → s.slotIdle slot = true → ∀ t, s.readCommitted slot = (none, t) → exec (.snapshotCopyComplete slot) s = .next (t.endSnap slot stBadParam)) ∧
        (r.phase = .copying → s.slotIdle slot = true → ∀ k t, s.readCommitted slot = (some k, t) → (∀ e ∈ t.frames, e.2.isSealed = false) →
          t.flag .SLQ_STATE_SEALED_RUN iod0 slot = false → completes (.snapshotCopyComplete slot) s fun u =>
            (∃ x, u.snap slot = some x ∧ x.phase = .draining ∧ x.place = r.place ∧ x.step = r.step) ∧ u.now = s.now) ∧
        (r.phase ≠ .copying ∨ s.slotIdle slot = false → exec (.snapshotCopyComplete slot) s = .next s) ∧
        (r.phase = .draining → completes (.snapshotDrainComplete slot) s fun u =>
          u.snap slot = none ∧ u.slotPause.get false (Key.at 0 slot) = false ∧ u.fld .SNAP_STATUS_STEP iod0 slot = r.step % 2 ^ 32 ∧
          (∀ x ∈ u.cmdRuns, ¬ (x.pkt.op = 0x0501 ∧ x.pkt.slot = slot))) ∧
        (r.phase ≠ .draining → exec (.snapshotDrainComplete slot) s = .next s))) ∧
    (∀ (kind : Nat) (c : Instr), (kind, c) ∈ [(2, Instr.fillFrame), (3, .mirrorFrame)] → (∀ f ∈ s.recIn, f.kind ≠ kind) → exec c s = .next s) ∧
    (∀ f, s.recIn.find? (fun f => f.kind == 2) = some f → let t := { s with recIn := s.recIn.erase f }.freeFrame f
      (s.fillOf f.slot = none → s.flag .HLM_POS_CATCHER iod0 = false → exec .fillFrame s = .next t) ∧
      (∀ x, s.fillOf f.slot = some x → x.source = f.src → x.inst ≤ bits f.flow 31 16 →
        exec .fillFrame s = .next (t.fillWords f.slot x (bits f.flow 15 0) f.offset (frameWords f))) ∧
      (∀ x, s.fillOf f.slot = some x → x.source ≠ f.src ∨ bits f.flow 31 16 < x.inst → exec .fillFrame s = .next t)) ∧
    (∀ f, s.recIn.find? (fun f => f.kind == 3) = some f → completes .mirrorFrame s fun u =>
      ({ s with recIn := s.recIn.erase f }.freeFrame f).recIn = u.recIn ∧
      ∃ x ∈ u.mirrors, x.pos = f.src ∧ x.slot = f.slot ∧ x.step = field f.hdr 0x28 4)

/-- POWER_GOOD with an input that serves starts the module once: firmware boots, IOD0 enters service and the management port answers. While bring-up may go on, the end of a self-test, of the first training of a stack and of a retraining are recorded and bring-up settles; a second end of the same test does nothing. A bound of bring-up that has passed raises the late level. The cap of bring-up rises 20 s after it last rose, unless a wiring fault or a coolant cap holds. A sample of a sensor is kept and judged. An operating second is counted. A module reset leaves memory, and happens at once where no record waits. -/
def Obligations.BringUpGoesOn : Prop :=
  ∀ (s : State),
    (∀ (serving : BitVec 2) (rec : List Byte) (certs keys : Bool),
      (s.booted = true ∨ serving = 0 → exec (.powerGood serving rec certs keys) s = .next s) ∧
      (s.booted = false → serving ≠ 0 → completes (.powerGood serving rec certs keys) s fun u =>
        u.booted = true ∧ u.bootAt = s.now ∧ u.mgmtUp = true ∧ u.record = rec ∧ u.fld .PWR_STATUS_SERVING iod0 = serving.toNat ∧ u.fld .PWR_STATUS_LOST iod0 = 0 ∧
        u.fld .SUP_CYCLES_POWER iod0 = (s.fld .SUP_CYCLES_POWER iod0 + 1) % 2 ^ Fld.SUP_CYCLES_POWER.width ∧ u.fld .DIE_STATUS_IN_SERVICE iod0 = 1 ∧ u.mem = s.mem)) ∧
    (∀ (die : Fin 14) (pass : Bool), let d := dieOf die
      (s.mayBringUp = true → s.stage1 = true → s.selfTest d = 0 → let t := { s with selfTests := s.selfTests.set 0 (Key.at d) (if pass then 1 else 2) }
        exec (.selfTestComplete die pass) s = .next (if pass && decide (0x20 ≤ d) then t.setFld .DIE_STATUS_IN_SERVICE d 0 0 1 else t).svcSettle) ∧
      (s.mayBringUp = false ∨ s.stage1 = false ∨ s.selfTest d ≠ 0 → exec (.selfTestComplete die pass) s = .next s)) ∧
    (∀ (k : Fin 24) (pass : Bool), let test := s.selfTest (mhDie (k / 6))
      (s.mayBringUp = true → s.stage1 = true → s.training k = none → test ≠ 0 → test ≠ 2 → let t := s.setTraining k ⟨pass, if pass then 0 else 1, false⟩
        exec (.firstTrainingComplete k pass) s = .next (if pass || t.locked mh0 then t else t.setFld .MEM_HBM_SPLIT_HL_GIB mh0 0 0 48).svcSettle) ∧
      (s.training k ≠ none ∨ test = 0 ∨ test = 2 → exec (.firstTrainingComplete k pass) s = .next s) ∧
      (∀ x, s.training k = some x → s.mayBringUp = true → x.passed = false → x.excluded = false → x.failed < 4 →
        exec (.stackRetrainComplete k true) s =
          .next ((s.setTraining k { x with passed := true }).setBit .DIE_STATUS_UNITS_OUT (mhDie (k / 6)) 0 0 (k % 6) false).svcSettle ∧
        exec (.stackRetrainComplete k false) s = .next (s.setTraining k { x with failed := x.failed + 1 }).svcSettle) ∧
      (s.training k = none → exec (.stackRetrainComplete k pass) s = .next s)) ∧
    (s.boundDue = false → exec .stageBoundExpiry s = .next s) ∧
    (s.boundDue = true → completes .stageBoundExpiry s fun u => u.lateLevel = s.lateLevel + 1 ∧ u.mem = s.mem) ∧
    (s.mayBringUp = true → 2 ≤ s.fld .SVC_STATUS_LEVEL iod0 → s.capRaised + 20 * secTicks ≤ s.now → s.capBy .wiring 0 = 7 → s.capBy .coolant 0 = 7 →
      (∃ k < 12, s.capBy .service k < 7) → exec .capRaise s = .next (({ s with capRaised := s.now } : State).raiseCaps .service (List.range 12)).svcSettle) ∧
    (s.now < s.capRaised + 20 * secTicks ∨ s.capBy .wiring 0 ≠ 7 ∨ s.capBy .coolant 0 ≠ 7 → exec .capRaise s = .next s) ∧
    (∀ (i : Fin 420) (value : BitVec 16) (raw : Nat),
      (s.booted = false ∨ s.fwRuns = false → exec (.sensorSample i value raw) s = .next s) ∧
      (s.booted = true → s.fwRuns = true → sensorDie i = none → 312 ≤ i.val → i.val < snInlet →
        i.val ≠ snVolt 0 → i.val ≠ snVolt 1 → i.val ≠ snAmp 0 → i.val ≠ snAmp 1 →
        exec (.sensorSample i value raw) s = .next (s.takeSample i value.toInt).svcSettle) ∧
      (s.booted = true → s.fwRuns = true → sensorDie i = none → i.val < 312 → exec (.sensorSample i value raw) s = .next (s.takeSample i value.toInt).judgeCarrier.svcSettle) ∧
      (∀ die, s.booted = true → s.fwRuns = true → sensorDie i = some die → let t := s.takeSample i value.toInt
        exec (.sensorSample i value raw) s = .next (((t.judgeDie i die).throttle die).critical i die).svcSettle)) ∧
    (s.booted = true → completes .operatingSecond s fun u =>
      u.fld .SUP_OPSEC_SECONDS iod0 = (s.fld .SUP_OPSEC_SECONDS iod0 + 1) % 2 ^ Fld.SUP_OPSEC_SECONDS.width ∧ s.keepsRegs u [(.SUP_OPSEC_SECONDS, iod0, 0, 0)] ∧
      s.sameBut u fun x => { x with csr := [] }) ∧
    (s.booted = false → exec .operatingSecond s = .next s) ∧
    (s.events = [] → s.staged = [] → s.flushN = none → s.flushDue = false → s.flag .EVR_STATUS_CLEARING iod0 = false → completes .moduleReset s fun u =>
      u.resetDue = false ∧ u.mem = s.mem ∧ u.flash = s.flash ∧ u.pending = s.pending ∧ u.now = s.now ∧ u.polHash = s.polHash ∧
      u.fld .FW_STATUS_FLOOR iod0 = s.fld .FW_STATUS_FLOOR iod0 % 2 ^ Fld.FW_STATUS_FLOOR.width ∧
      (∀ slot < 4, u.slotState slot = slotFree) ∧ ∀ d < 8, u.fld .DIE_STATUS_IN_SERVICE d = 0) ∧
    (s.flag .EVR_STATUS_CLEARING iod0 = true ∨ s.flushN ≠ none → completes .moduleReset s fun u => u.resetDue = true ∧ u.mem = s.mem)

/-- A core mark lets bring-up go on. A kick puts off the watchdog, whose first limit sets NMI_SEEN and whose second resets the supervisor, as an uncorrectable error of the supervisor SRAM does; a supervisor reset is counted and has its cause. FW_CTL.WRITE of SYSTEM frames marks the other slot invalid and is BUSY until it ends with the result of the checks of R470. TRIAL boots a verified other slot at the next reset, REBOOT resets the supervisor while every slot is FREE, and FLOOR raises the least rollback number outside a trial; each is otherwise refused. A trial that has run 60 s is confirmed. -/
def Obligations.FirmwareAndWatchdogAct : Prop :=
  ∀ (s : State),
    (∀ (acc : Accessor) (v : Word64), s.dieUp iod0 = true → isMachine acc = true →
      (v.toNat % 2 = 1 → exec (.supCoreMark acc v) s = .next { ({ s with coreMark := true } : State).svcSettle with resp := .written }) ∧
      (v.toNat % 2 = 0 → exec (.supCoreMark acc v) s = .next { s with resp := .written })) ∧
    (s.fwRuns = true →
      (s.wdogNmi = false → s.wdogAt + s.wdogLimit ≤ s.now → completes .watchdogNmi s fun u =>
        u.wdogNmi = true ∧ u.fld .SUP_WDOG_NMI_SEEN iod0 = 1 ∧ s.keepsRegs u [(.SUP_WDOG_NMI_SEEN, iod0, 0, 0)] ∧
        s.sameBut u fun x => { x with csr := [], wdogNmi := false }) ∧
      (s.now < s.wdogAt + s.wdogLimit → exec .watchdogNmi s = .next s ∧ exec .watchdogReset s = .next s) ∧
      (∀ (c : Instr) (cause : Nat), (c, cause) ∈ [(Instr.watchdogReset, 1), (.supSramUe, 2)] →
        (c = .watchdogReset → s.wdogAt + 2 * s.wdogLimit ≤ s.now) → completes c s fun u =>
          u.fld .SUP_CYCLES_RESETS iod0 = (s.fld .SUP_CYCLES_RESETS iod0 + 1) % 2 ^ Fld.SUP_CYCLES_RESETS.width ∧
          u.fld .SUP_STATUS_CAUSE iod0 = cause ∧ u.policy = none ∧ u.quoting = none ∧ u.fwJob = none ∧ u.fwTrial = 0 ∧ u.supBootAt = s.now)) ∧
    (s.fwRuns = false → exec .watchdogNmi s = .next s ∧ exec .watchdogReset s = .next s ∧ exec .supSramUe s = .next s) ∧
    (∀ acc : Accessor, s.dieUp iod0 = true → isSup acc = true →
      exec (.watchdogKick acc) s = .next { s with wdogAt := s.now, wdogNmi := false, resp := .written } ∧
      (s.systemRange (s.fld .FW_UPD_ADDR_ADDR iod0) (s.fld .FW_UPD_LEN_LEN iod0) = true → s.fwTrial = 0 → s.fwJob = none → completes (.fwWrite acc) s fun u =>
        u.fwSlot (!s.fwRunning) = ⟨false, 0, 0, []⟩ ∧ u.fwSlot s.fwRunning = s.fwSlot s.fwRunning ∧
        u.fwJob = some (s.fld .FW_UPD_ADDR_ADDR iod0, s.fld .FW_UPD_LEN_LEN iod0) ∧ u.fld .FW_STATUS_BUSY iod0 = 1 ∧ u.resp = .written ∧
        s.keepsRegs u [(.FW_STATUS_BUSY, iod0, 0, 0)] ∧ s.sameBut u fun x => { x with csr := [], fwA := ⟨false, 0, 0, []⟩, fwB := ⟨false, 0, 0, []⟩, fwJob := none, resp := .none }) ∧
      (s.systemRange (s.fld .FW_UPD_ADDR_ADDR iod0) (s.fld .FW_UPD_LEN_LEN iod0) = false ∨ s.fwTrial ≠ 0 ∨ s.fwJob ≠ none →
        exec (.fwWrite acc) s = .next { s.fwRefuse with resp := .written }) ∧
      (s.fwVerifies (!s.fwRunning) = true → exec (.fwTrial acc) s = .next { s with fwTrial := if s.fwRunning then 1 else 2, resp := .written }) ∧
      (s.fwVerifies (!s.fwRunning) = false → exec (.fwTrial acc) s = .next { s.fwRefuse with resp := .written }) ∧
      ((∀ slot < 4, s.slotState slot = slotFree) → completes (.fwReboot acc) s fun u =>
        u.fld .SUP_CYCLES_RESETS iod0 = (s.fld .SUP_CYCLES_RESETS iod0 + 1) % 2 ^ Fld.SUP_CYCLES_RESETS.width ∧ u.fld .SUP_STATUS_CAUSE iod0 = 3 ∧
        u.policy = none ∧ u.fwTrial = 0 ∧ u.resp = .written) ∧
      ((∃ slot < 4, s.slotState slot ≠ slotFree) → exec (.fwReboot acc) s = .next { s.fwRefuse with resp := .written }) ∧
      (s.flag .SUP_STATUS_TRIAL iod0 = false → completes (.fwFloor acc) s fun u =>
        u.fld .FW_STATUS_FLOOR iod0 = max (s.fld .FW_STATUS_FLOOR iod0) s.runImage.rollback % 2 ^ Fld.FW_STATUS_FLOOR.width ∧
        s.wrote u [(.FW_STATUS_FLOOR, iod0, 0, 0)]) ∧
      (s.flag .SUP_STATUS_TRIAL iod0 = true → exec (.fwFloor acc) s = .next { s.fwRefuse with resp := .written })) ∧
    (∀ readback : Bool,
      (s.fwJob = none → exec (.fwWriteComplete readback) s = .next s) ∧
      (∀ a n r, s.fwJob = some (a, n) → s.supRead a (min n fwSlotBytes) = r →
        let v := match r.1 with
          | some img => fwVerify img (s.fld .FW_STATUS_FLOOR iod0) (readback && decide (n ≤ fwSlotBytes))
          | none => (5, ⟨false, 0, 0, []⟩)
        completes (.fwWriteComplete readback) s fun u =>
          u.fwSlot (!s.fwRunning) = v.2 ∧ u.fwJob = none ∧ u.fld .FW_STATUS_BUSY iod0 = 0 ∧ u.fld .FW_STATUS_RESULT iod0 = v.1 ∧
          r.2.keepsRegs u [(.FW_STATUS_BUSY, iod0, 0, 0), (.FW_STATUS_RESULT, iod0, 0, 0)])) ∧
    (s.fwRuns = true → s.flag .SUP_STATUS_TRIAL iod0 = true → s.supBootAt + 60 * secTicks ≤ s.now → completes .trialConfirm s fun u =>
      u.fld .FW_STATUS_PREF iod0 = (if s.fwRunning then 1 else 0) ∧ u.fld .SUP_STATUS_TRIAL iod0 = 0 ∧ s.raised u .EV_FW_UPDATE carrierDie ∧
      s.keepsRegs u [(.FW_STATUS_PREF, iod0, 0, 0), (.SUP_STATUS_TRIAL, iod0, 0, 0)] ∧ s.sameBut u fun x => { x with csr := [], events := [] }) ∧
    (s.flag .SUP_STATUS_TRIAL iod0 = false ∨ s.now < s.supBootAt + 60 * secTicks → exec .trialConfirm s = .next s)

/-- A quote is signed once it is asked for, and lies in ATT_QUOTE when it is complete. POL_CTL.INSTALL of a policy that passes the checks of R483 installs it; one that fails a check sets RESULT and raises its event. POL_CTL.RESET forgets the policy while no sealed state remains. A release that passes the checks of R496 takes its rates and is BUSY; one that fails is counted with its RESULT. A release that ends appends its record, counts it and is no longer BUSY; it waits while a word of its window is being zeroed. TS_LOG_ACK acknowledges records that exist. -/
def Obligations.QuotesPoliciesAndReleases : Prop :=
  ∀ (s : State),
    (∀ acc : Accessor, s.dieUp iod0 = true → isSup acc = true →
      (s.quoting = none → completes (.quote acc) s fun u =>
        u.quoting = some s.quoteBody ∧ u.fld .ATT_CTL_BUSY iod0 = 1 ∧ u.resp = .written ∧ s.keepsRegs u [(.ATT_CTL_BUSY, iod0, 0, 0)] ∧
        s.sameBut u fun x => { x with csr := [], quoting := none, resp := .none }) ∧
      (s.quoting ≠ none → exec (.quote acc) s = .next { s with resp := .written }) ∧
      (let a := s.fld .POL_ADDR_ADDR iod0
       let n := s.fld .POL_LEN_LEN iod0
       n ≤ 2 ^ 20 → s.systemRange a n = true → ∀ p t, s.supRead a n = (some p, t) →
        (∀ key, t.polCheck (some p) = (1, key) → t.policy = none → completes (.polInstall acc) s fun u =>
          (∃ q, u.policy = some q ∧ q.version = polVersion p ∧ q.ring = polRing p ∧ q.ringKey = key ∧ q.allow = polAllow p) ∧
          u.polFloor = polVersion p ∧ u.polHash = sha256 (polKey p) ∧ u.fld .ID_STATUS_POLICY iod0 = 1 ∧ u.fld .POL_CTL_RESULT iod0 = 1 ∧ u.resp = .written) ∧
        (∀ k key, t.polCheck (some p) = (k, key) → k ≠ 1 → completes (.polInstall acc) s fun u =>
          u.fld .POL_CTL_RESULT iod0 = k ∧ t.raised u .EV_POL_REFUSED carrierDie ∧ u.policy = t.policy ∧ u.resp = .written ∧
          t.keepsRegs u [(.POL_CTL_RESULT, iod0, 0, 0)] ∧ t.sameBut u fun x => { x with csr := [], events := [], resp := .none })) ∧
      (s.sealedState = true → completes (.polReset acc) s fun u => u.fld .POL_CTL_RESULT iod0 = 8 ∧ s.wrote u [(.POL_CTL_RESULT, iod0, 0, 0)]) ∧
      (s.sealedState = false → completes (.polReset acc) s fun u =>
        u.policy = none ∧ u.polHash = [] ∧ u.polFloor = 0 ∧ u.fld .ID_STATUS_POLICY iod0 = 0 ∧ u.fld .ID_STATUS_POL_VER iod0 = 0 ∧ u.fld .POL_CTL_RESULT iod0 = 1 ∧
        u.resp = .written ∧ s.keepsRegs u [(.ID_STATUS_POLICY, iod0, 0, 0), (.ID_STATUS_POL_VER, iod0, 0, 0), (.POL_CTL_RESULT, iod0, 0, 0)] ∧
        s.sameBut u fun x => { x with csr := [], policy := none, polHash := [], polFloor := 0, resp := .none }) ∧
      (∀ v : Word64, let q := v.toNat % 2 ^ 32
        exec (.tsLogAck acc v) s = .next { s with relAck := max s.relAck (min q (s.fld .TS_STATUS_SEQ iod0)), resp := .written })) ∧
    (∀ q, s.quoting = some q → completes .quoteComplete s fun u =>
      u.quoting = none ∧ (∀ i < 48, u.fld .ATT_QUOTE_Q iod0 0 i = field (State.signed q) (8 * i) 8) ∧ u.fld .ATT_CTL_BUSY iod0 = 0 ∧ u.fld .ATT_CTL_DONE iod0 = 1 ∧
      s.sameBut u fun x => { x with csr := [], quoting := none }) ∧
    (s.quoting = none → exec .quoteComplete s = .next s) ∧
    (∀ (acc : Accessor) (slot : Fin 4), s.dieUp iod0 = true → isSup acc = true ∨ s.hostAuth acc slot = true → let t := s.refill
      (∀ k, t.relCheck slot = k → k ≠ 0 → completes (.tsRelease acc slot) s fun u =>
        u.fld .TS_REL_CTL_RESULT iod0 slot = k ∧ u.fld .TS_CNT_REFUSED_COUNT iod0 = (s.fld .TS_CNT_REFUSED_COUNT iod0 + 1) % 2 ^ Fld.TS_CNT_REFUSED_COUNT.width ∧
        t.raised u .EV_TS_REFUSED iod0 ∧ u.resp = .written ∧ s.keepsRegs u [(.TS_REL_CTL_RESULT, iod0, slot, 0), (.TS_CNT_REFUSED_COUNT, iod0, 0, 0)] ∧
        t.sameBut u fun x => { x with csr := [], events := [], resp := .none }) ∧
      (t.relCheck slot = 0 → completes (.tsRelease acc slot) s fun u =>
        (∃ r, u.releases.get none (Key.at 0 slot) = some r ∧ r.len = s.fld .TS_REL_LEN_LEN iod0 slot ∧ r.dst = s.fld .TS_REL_DST_DST iod0 slot ∧
          r.src = 2 ^ 21 * s.fld .TS_WIN_BASE_BASE iod0 slot + s.fld .TS_REL_OFF_OFF iod0 slot) ∧
        u.fld .TS_REL_CTL_BUSY iod0 slot = 1 ∧ u.fld .TS_REL_CTL_RESULT iod0 slot = 0 ∧ u.flagBit .TS_STATUS_RUNNING iod0 0 0 slot = true ∧ u.resp = .written ∧
        u.mem = s.mem)) ∧
    (∀ slot : Fin 4,
      (s.releases.get none (Key.at 0 slot) = none → exec (.tsReleaseComplete slot) s = .next s) ∧
      (∀ r, s.releases.get none (Key.at 0 slot) = some r →
        ((∃ w ∈ wordsOf r.src r.len ++ wordsOf r.dst r.len, s.zeroingAt w = true) → exec (.tsReleaseComplete slot) s = .next s) ∧
        ((∀ w ∈ wordsOf r.src r.len ++ wordsOf r.dst r.len, s.zeroingAt w = false) → let c := State.relCopy (r.len / 32) r.src r.dst s
          let result := if c.2.1 then 7 else 1
          completes (.tsReleaseComplete slot) s fun u =>
            u.releases.get none (Key.at 0 slot) = none ∧ u.relLog.getLast? = some (c.2.2.relRecord slot result r c.1) ∧
            u.fld .TS_STATUS_SEQ iod0 = (c.2.2.fld .TS_STATUS_SEQ iod0 + 1) % 2 ^ Fld.TS_STATUS_SEQ.width ∧
            u.fld .TS_REL_CTL_BUSY iod0 slot = 0 ∧ u.fld .TS_REL_CTL_RESULT iod0 slot = result ∧
            u.fld .TS_CNT_RELEASE_COUNT iod0 = (c.2.2.fld .TS_CNT_RELEASE_COUNT iod0 + 1) % 2 ^ Fld.TS_CNT_RELEASE_COUNT.width ∧
            c.2.2.raised u .EV_TS_RELEASE iod0 ∧ u.mem = c.2.2.mem)))
end

