-- ==== Sys2Proof/Laws/Table.lean ====
section
/-! SUPPORT. What the operations of tables and byte memories do: a read after a write, and that every operation keeps the
canonical form. -/

namespace Sys2Proof.Machine

/-! Keys are strictly ordered. -/

theorem Key.lt_irrefl (a : Key) : a.lt a = false := by simp [Key.lt]

theorem Key.lt_iff (a b : Key) : a.lt b = true ↔
    a.f < b.f ∨ (a.f = b.f ∧ (a.d < b.d ∨ (a.d = b.d ∧ (a.u < b.u ∨ (a.u = b.u ∧ a.i < b.i))))) := by
  simp [Key.lt]

theorem Key.lt_trans {a b c : Key} (h : a.lt b = true) (g : b.lt c = true) : a.lt c = true := by
  rw [Key.lt_iff] at *; omega

theorem Key.lt_of_not {a b : Key} (h : a ≠ b) (g : a.lt b = false) : b.lt a = true := by
  have h' : ¬(a.f = b.f ∧ a.d = b.d ∧ a.u = b.u ∧ a.i = b.i) := by
    rintro ⟨h1, h2, h3, h4⟩; apply h; cases a; cases b; simp_all
  have g' : ¬(a.lt b = true) := by simp [g]
  rw [Key.lt_iff] at g' ⊢; omega

theorem Key.ne_of_lt {a b : Key} (h : a.lt b = true) : a ≠ b := by
  rintro rfl; simp [Key.lt_irrefl] at h

namespace Tbl

variable {α : Type}

theorem find?_put (t : Tbl α) (k k' : Key) (v : α) : (t.put k v).find? k' = if k = k' then some v else t.find? k' := by
  induction t with
  | nil => simp [put, find?]
  | cons e t ih =>
    obtain ⟨k0, v0⟩ := e
    simp only [put]
    split
    · next h => subst h; simp only [find?]; split <;> simp_all
    · split
      · simp only [find?, ih]; grind
      · simp only [find?]

theorem find?_erase (t : Tbl α) (k k' : Key) : (t.erase k).find? k' = if k = k' then none else t.find? k' := by
  induction t with
  | nil => simp [erase, find?]
  | cons e t ih =>
    obtain ⟨k0, v0⟩ := e
    simp only [erase]
    split
    · next h => subst h; rw [ih]; simp only [find?]; split <;> simp_all
    · simp only [find?, ih]; grind

theorem find?_clear (t : Tbl α) (p : Key → Bool) (k : Key) : (t.clear p).find? k = if p k then none else t.find? k := by
  induction t with
  | nil => simp [clear, find?]
  | cons e t ih =>
    obtain ⟨k0, v0⟩ := e
    simp only [clear, List.filter_cons] at *
    by_cases h : p k0
    · by_cases hk : k0 = k
      · subst hk; simp_all
      · simp_all [find?]
    · by_cases hk : k0 = k
      · subst hk; simp_all [find?]
      · simp_all [find?]

/-- A read after a write. -/
theorem get_set [DecidableEq α] (d : α) (t : Tbl α) (k k' : Key) (v : α) :
    (t.set d k v).get d k' = if k = k' then v else t.get d k' := by
  simp only [get, set]
  split
  · next h => subst h; rw [find?_erase]; split <;> simp
  · rw [find?_put]; split <;> simp

@[simp] theorem get_set_self [DecidableEq α] (d : α) (t : Tbl α) (k : Key) (v : α) : (t.set d k v).get d k = v := by
  simp [get_set]

theorem get_set_ne [DecidableEq α] (d d' : α) (t : Tbl α) {k k' : Key} (v : α) (h : k ≠ k') :
    (t.set d k v).get d' k' = t.get d' k' := by
  simp only [get, set]
  split
  · rw [find?_erase, if_neg h]
  · rw [find?_put, if_neg h]

theorem get_clear (d : α) (t : Tbl α) (p : Key → Bool) (k : Key) : (t.clear p).get d k = if p k then d else t.get d k := by
  simp only [get, find?_clear]; split <;> simp

/-! The canonical form. -/

theorem sorted_iff (t : Tbl α) : t.Sorted = true ↔ t.Pairwise (fun a b => a.1.lt b.1 = true) := by
  induction t with
  | nil => simp [Sorted]
  | cons e t ih =>
    cases t with
    | nil => simp [Sorted]
    | cons e' t =>
      obtain ⟨k, v⟩ := e; obtain ⟨k', v'⟩ := e'
      simp only [Sorted, Bool.and_eq_true, ih]
      constructor
      · rintro ⟨h, g⟩
        refine List.Pairwise.cons ?_ g
        intro x hx
        rcases List.mem_cons.mp hx with rfl | hx
        · exact h
        · exact Key.lt_trans h ((List.pairwise_cons.mp g).1 x hx)
      · intro h
        exact ⟨(List.pairwise_cons.mp h).1 (k', v') (by simp), (List.pairwise_cons.mp h).2⟩

theorem mem_erase_sub {t : Tbl α} {k : Key} {x : Key × α} (h : x ∈ t.erase k) : x ∈ t := by
  induction t with
  | nil => simp [erase] at h
  | cons e t ih =>
    obtain ⟨k0, v0⟩ := e
    simp only [erase] at h
    split at h
    · exact List.mem_cons_of_mem _ (ih h)
    · rcases List.mem_cons.mp h with rfl | h
      · simp
      · exact List.mem_cons_of_mem _ (ih h)

theorem mem_put {t : Tbl α} {k : Key} {v : α} {x : Key × α} (h : x ∈ t.put k v) : x = (k, v) ∨ x ∈ t := by
  induction t with
  | nil => simp [put] at h; exact .inl h
  | cons e t ih =>
    obtain ⟨k0, v0⟩ := e
    simp only [put] at h
    split at h
    · rcases List.mem_cons.mp h with rfl | h
      · exact .inl rfl
      · exact .inr (List.mem_cons_of_mem _ h)
    · split at h
      · rcases List.mem_cons.mp h with rfl | h
        · exact .inr (by simp)
        · rcases ih h with h | h
          · exact .inl h
          · exact .inr (List.mem_cons_of_mem _ h)
      · rcases List.mem_cons.mp h with rfl | h
        · exact .inl rfl
        · exact .inr h

theorem sorted_erase {t : Tbl α} (k : Key) (h : t.Sorted = true) : (t.erase k).Sorted = true := by
  rw [sorted_iff] at *
  induction t with
  | nil => simp [erase]
  | cons e t ih =>
    obtain ⟨k0, v0⟩ := e
    obtain ⟨h1, h2⟩ := List.pairwise_cons.mp h
    simp only [erase]
    split
    · exact ih h2
    · exact List.Pairwise.cons (fun x hx => h1 x (mem_erase_sub hx)) (ih h2)

theorem sorted_put {t : Tbl α} (k : Key) (v : α) (h : t.Sorted = true) : (t.put k v).Sorted = true := by
  rw [sorted_iff] at *
  induction t with
  | nil => simp [put]
  | cons e t ih =>
    obtain ⟨k0, v0⟩ := e
    obtain ⟨h1, h2⟩ := List.pairwise_cons.mp h
    simp only [put]
    split
    · next hk => subst hk; exact List.Pairwise.cons h1 h2
    · next hk =>
      split
      · next hl =>
        refine List.Pairwise.cons ?_ (ih h2)
        intro x hx
        rcases mem_put hx with rfl | hx
        · exact hl
        · exact h1 x hx
      · next hl =>
        have hl' : k.lt k0 = true := Key.lt_of_not hk (by simpa using hl)
        refine List.Pairwise.cons ?_ h
        intro x hx
        rcases List.mem_cons.mp hx with rfl | hx
        · exact hl'
        · exact Key.lt_trans hl' (h1 x hx)

theorem wf_iff [DecidableEq α] (d : Key → α) (t : Tbl α) : t.wf d = true ↔ t.Sorted = true ∧ ∀ x ∈ t, x.2 ≠ d x.1 := by
  simp [wf]

theorem wf_nil [DecidableEq α] (d : Key → α) : wf d ([] : Tbl α) = true := rfl

/-- A write keeps the canonical form. -/
theorem wf_set [DecidableEq α] {d : Key → α} {t : Tbl α} (k : Key) (v : α) (h : t.wf d = true) :
    (t.set (d k) k v).wf d = true := by
  rw [wf_iff] at *
  simp only [set]
  split
  · exact ⟨sorted_erase k h.1, fun x hx => h.2 x (mem_erase_sub hx)⟩
  · next hv =>
    refine ⟨sorted_put k v h.1, fun x hx => ?_⟩
    rcases mem_put hx with rfl | hx
    · exact hv
    · exact h.2 x hx

/-- Dropping entries keeps the canonical form. -/
theorem wf_clear [DecidableEq α] {d : Key → α} {t : Tbl α} (p : Key → Bool) (h : t.wf d = true) : (t.clear p).wf d = true := by
  rw [wf_iff] at *
  refine ⟨?_, fun x hx => h.2 x (List.mem_filter.mp hx).1⟩
  rw [sorted_iff] at *
  exact h.1.filter _

end Tbl

namespace Memory

theorem read_put (m : Memory) (a x : Nat) (b : Byte) : (m.put a b).read x = if a = x then b else m.read x := by
  induction m with
  | nil => simp [put, read]
  | cons e m ih =>
    obtain ⟨a0, b0⟩ := e
    simp only [put]
    split
    · next h => subst h; simp only [read]; split <;> simp_all
    · split
      · simp only [read, ih]; grind
      · simp only [read]

theorem read_erase (m : Memory) (a x : Nat) : (m.erase a).read x = if a = x then 0 else m.read x := by
  induction m with
  | nil => simp [erase, read]
  | cons e m ih =>
    obtain ⟨a0, b0⟩ := e
    simp only [erase]
    split
    · next h => subst h; rw [ih]; simp only [read]; split <;> simp_all
    · simp only [read, ih]; grind

/-- A read after a write of one byte. -/
theorem read_write (m : Memory) (a x : Nat) (b : Byte) : (m.write a b).read x = if a = x then b else m.read x := by
  simp only [write]
  split
  · next h => subst h; exact read_erase m a x
  · exact read_put m a x b

/-- A read after a write of several bytes. -/
theorem read_writeBytes (bs : List Byte) (m : Memory) (a x : Nat) :
    (m.writeBytes a bs).read x = if a ≤ x ∧ x < a + bs.length then bs.getD (x - a) 0 else m.read x := by
  induction bs generalizing m a with
  | nil => simp only [writeBytes, List.length_nil]; rw [if_neg (by omega)]
  | cons b bs ih =>
    simp only [writeBytes, ih, read_write, List.length_cons]
    by_cases hx : a = x
    · subst hx; rw [if_neg (by omega), if_pos rfl, if_pos (by omega)]; simp
    · by_cases h1 : a + 1 ≤ x ∧ x < a + 1 + bs.length
      · rw [if_pos h1, if_pos (by omega)]
        obtain ⟨n, hn⟩ : ∃ n, x - a = n + 1 := ⟨x - a - 1, by omega⟩
        rw [hn, show x - (a + 1) = n by omega]; simp
      · rw [if_neg h1, if_neg hx, if_neg (by omega)]

/-- A read after zeroing a range. -/
theorem read_zero (m : Memory) (a n x : Nat) : (m.zero a n).read x = if a ≤ x ∧ x < a + n then 0 else m.read x := by
  induction m with
  | nil => simp [zero, read]
  | cons e m ih =>
    obtain ⟨a0, b0⟩ := e
    simp only [zero, List.filter_cons] at *
    by_cases h : a ≤ a0 ∧ a0 < a + n
    · rw [if_neg (by simp; omega), ih]; simp only [read]; grind
    · rw [if_pos (by simp; omega)]; simp only [read, ih]; grind

/-! The canonical form. -/

theorem wf_iff (m : Memory) : m.wf = true ↔ m.Pairwise (fun a b => a.1 < b.1) ∧ ∀ c ∈ m, c.2 ≠ 0 := by
  induction m with
  | nil => simp [wf]
  | cons e m ih =>
    cases m with
    | nil => obtain ⟨a, b⟩ := e; simp [wf]
    | cons e' m =>
      obtain ⟨a, b⟩ := e; obtain ⟨a', b'⟩ := e'
      simp only [wf, Bool.and_eq_true, ih, decide_eq_true_eq]
      constructor
      · rintro ⟨⟨hb, ha⟩, hp, hz⟩
        refine ⟨List.Pairwise.cons ?_ hp, ?_⟩
        · intro x hx
          rcases List.mem_cons.mp hx with rfl | hx
          · exact ha
          · exact Nat.lt_trans ha ((List.pairwise_cons.mp hp).1 x hx)
        · intro x hx
          rcases List.mem_cons.mp hx with rfl | hx
          · simpa using hb
          · exact hz x hx
      · rintro ⟨hp, hz⟩
        refine ⟨⟨by simpa using hz (a, b) (by simp), (List.pairwise_cons.mp hp).1 (a', b') (by simp)⟩, (List.pairwise_cons.mp hp).2, ?_⟩
        exact fun x hx => hz x (List.mem_cons_of_mem _ hx)

theorem mem_erase_sub {m : Memory} {a : Nat} {x : Host.Cell} (h : x ∈ m.erase a) : x ∈ m := by
  induction m with
  | nil => simp [erase] at h
  | cons e m ih =>
    obtain ⟨a0, b0⟩ := e
    simp only [erase] at h
    split at h
    · exact List.mem_cons_of_mem _ (ih h)
    · rcases List.mem_cons.mp h with rfl | h
      · simp
      · exact List.mem_cons_of_mem _ (ih h)

theorem mem_put {m : Memory} {a : Nat} {b : Byte} {x : Host.Cell} (h : x ∈ m.put a b) : x = (a, b) ∨ x ∈ m := by
  induction m with
  | nil => simp [put] at h; exact .inl h
  | cons e m ih =>
    obtain ⟨a0, b0⟩ := e
    simp only [put] at h
    split at h
    · rcases List.mem_cons.mp h with rfl | h
      · exact .inl rfl
      · exact .inr (List.mem_cons_of_mem _ h)
    · split at h
      · rcases List.mem_cons.mp h with rfl | h
        · exact .inr (by simp)
        · rcases ih h with h | h
          · exact .inl h
          · exact .inr (List.mem_cons_of_mem _ h)
      · rcases List.mem_cons.mp h with rfl | h
        · exact .inl rfl
        · exact .inr h

/-- A write of one byte keeps the canonical form. -/
theorem wf_write {m : Memory} (a : Nat) (b : Byte) (h : m.wf = true) : (m.write a b).wf = true := by
  rw [wf_iff] at *
  obtain ⟨hp, hz⟩ := h
  simp only [write]
  split
  · refine ⟨?_, fun x hx => hz x (mem_erase_sub hx)⟩
    clear hz
    induction m with
    | nil => simp [erase]
    | cons e m ih =>
      obtain ⟨a0, b0⟩ := e
      obtain ⟨h1, h2⟩ := List.pairwise_cons.mp hp
      simp only [erase]
      split
      · exact ih h2
      · exact List.Pairwise.cons (fun x hx => h1 x (mem_erase_sub hx)) (ih h2)
  · next hb =>
    refine ⟨?_, fun x hx => ?_⟩
    · clear hz
      induction m with
      | nil => simp [put]
      | cons e m ih =>
        obtain ⟨a0, b0⟩ := e
        obtain ⟨h1, h2⟩ := List.pairwise_cons.mp hp
        simp only [put]
        split
        · next hk => subst hk; exact List.Pairwise.cons h1 h2
        · next hk =>
          split
          · next hl =>
            refine List.Pairwise.cons ?_ (ih h2)
            intro x hx
            rcases mem_put hx with rfl | hx
            · exact hl
            · exact h1 x hx
          · next hl =>
            refine List.Pairwise.cons ?_ hp
            intro x hx
            rcases List.mem_cons.mp hx with rfl | hx
            · show a < a0; omega
            · have := h1 x hx
              show a < x.1
              simp only at this; omega
    · rcases mem_put hx with rfl | hx
      · exact hb
      · exact hz x hx

theorem wf_writeBytes (bs : List Byte) {m : Memory} (a : Nat) (h : m.wf = true) : (m.writeBytes a bs).wf = true := by
  induction bs generalizing m a with
  | nil => exact h
  | cons b bs ih => exact ih _ (wf_write a b h)

theorem wf_filter {m : Memory} (p : Host.Cell → Bool) (h : m.wf = true) : wf (m.filter p) = true := by
  rw [wf_iff] at *
  exact ⟨h.1.filter _, fun x hx => h.2 x (List.mem_filter.mp hx).1⟩

theorem wf_zero {m : Memory} (a n : Nat) (h : m.wf = true) : (m.zero a n).wf = true := wf_filter _ h

/-- A copy of a range keeps the canonical form. -/
theorem wf_blit {dst src : Memory} (da sa n : Nat) (hd : dst.wf = true) (hs : src.wf = true) :
    (dst.blit da src sa n).wf = true := by
  rw [wf_iff] at *
  simp only [blit]
  refine ⟨?_, ?_⟩
  · rw [List.pairwise_append, List.pairwise_append]
    refine ⟨⟨hd.1.filter _, ?_, ?_⟩, hd.1.filter _, ?_⟩
    · rw [List.pairwise_map]
      refine (hs.1.filter (fun c => decide (sa ≤ c.1) && decide (c.1 < sa + n))).imp_of_mem ?_
      intro x y hx hy hxy
      simp only [List.mem_filter, Bool.and_eq_true, decide_eq_true_eq] at hx hy
      show x.1 - sa + da < y.1 - sa + da
      omega
    · intro x hx y hy
      simp only [List.mem_filter, List.mem_map, Bool.and_eq_true, decide_eq_true_eq] at hx hy
      obtain ⟨z, hz, rfl⟩ := hy
      show x.1 < z.1 - sa + da
      omega
    · intro x hx y hy
      simp only [List.mem_append, List.mem_filter, List.mem_map, Bool.and_eq_true, decide_eq_true_eq] at hx hy
      rcases hx with hx | ⟨z, hz, rfl⟩
      · omega
      · show z.1 - sa + da < y.1
        omega
  · intro x hx
    simp only [List.mem_append, List.mem_filter, List.mem_map] at hx
    rcases hx with (hx | ⟨z, hz, rfl⟩) | hx
    · exact hd.2 x hx.1
    · exact hs.2 z hz.1
    · exact hd.2 x hx.1

end Memory

end Sys2Proof.Machine
end

