-- ==== Sys2Proof/Laws/State.lean ====
section
/-! SUPPORT. What the operations on the register file and the event queue do to each field of State, and a field read after a write.
One lemma per state field and update, so that no proof unfolds a record update. -/

namespace Sys2Proof.Machine

/-- Fields have different numbers. -/
theorem Fld.id_inj {f g : Fld} : f.id = g.id ↔ f = g := by
  constructor
  · intro h
    have h' := congrArg Fld.ofNat h
    simpa [Fld.id, Fld.ofNat_ctorIdx] using h'
  · rintro rfl; rfl

namespace State

@[simp] theorem setFld_b0 (s : State) (F : Fld) (d u i v : Nat) : (s.setFld F d u i v).b0 = s.b0 := rfl
@[simp] theorem setFld_mem (s : State) (F : Fld) (d u i v : Nat) : (s.setFld F d u i v).mem = s.mem := rfl
@[simp] theorem setFld_side (s : State) (F : Fld) (d u i v : Nat) : (s.setFld F d u i v).side = s.side := rfl
@[simp] theorem setFld_frames (s : State) (F : Fld) (d u i v : Nat) : (s.setFld F d u i v).frames = s.frames := rfl
@[simp] theorem setFld_blocks (s : State) (F : Fld) (d u i v : Nat) : (s.setFld F d u i v).blocks = s.blocks := rfl
@[simp] theorem setFld_hcLines (s : State) (F : Fld) (d u i v : Nat) : (s.setFld F d u i v).hcLines = s.hcLines := rfl
@[simp] theorem setFld_hcClock (s : State) (F : Fld) (d u i v : Nat) : (s.setFld F d u i v).hcClock = s.hcClock := rfl
@[simp] theorem setFld_merges (s : State) (F : Fld) (d u i v : Nat) : (s.setFld F d u i v).merges = s.merges := rfl
@[simp] theorem setFld_memWait (s : State) (F : Fld) (d u i v : Nat) : (s.setFld F d u i v).memWait = s.memWait := rfl
@[simp] theorem setFld_zeroBatch (s : State) (F : Fld) (d u i v : Nat) : (s.setFld F d u i v).zeroBatch = s.zeroBatch := rfl
@[simp] theorem setFld_scrubs (s : State) (F : Fld) (d u i v : Nat) : (s.setFld F d u i v).scrubs = s.scrubs := rfl
@[simp] theorem setFld_crossings (s : State) (F : Fld) (d u i v : Nat) : (s.setFld F d u i v).crossings = s.crossings := rfl
@[simp] theorem setFld_logTold (s : State) (F : Fld) (d u i v : Nat) : (s.setFld F d u i v).logTold = s.logTold := rfl
@[simp] theorem setFld_arrays (s : State) (F : Fld) (d u i v : Nat) : (s.setFld F d u i v).arrays = s.arrays := rfl
@[simp] theorem setFld_acbSeed (s : State) (F : Fld) (d u i v : Nat) : (s.setFld F d u i v).acbSeed = s.acbSeed := rfl
@[simp] theorem setFld_acbAge (s : State) (F : Fld) (d u i v : Nat) : (s.setFld F d u i v).acbAge = s.acbAge := rfl
@[simp] theorem setFld_regions (s : State) (F : Fld) (d u i v : Nat) : (s.setFld F d u i v).regions = s.regions := rfl
@[simp] theorem setFld_bobbins (s : State) (F : Fld) (d u i v : Nat) : (s.setFld F d u i v).bobbins = s.bobbins := rfl
@[simp] theorem setFld_fills (s : State) (F : Fld) (d u i v : Nat) : (s.setFld F d u i v).fills = s.fills := rfl
@[simp] theorem setFld_earlyRead (s : State) (F : Fld) (d u i v : Nat) : (s.setFld F d u i v).earlyRead = s.earlyRead := rfl
@[simp] theorem setFld_tile (s : State) (F : Fld) (d u i v : Nat) : (s.setFld F d u i v).tile = s.tile := rfl
@[simp] theorem setFld_tileTag (s : State) (F : Fld) (d u i v : Nat) : (s.setFld F d u i v).tileTag = s.tileTag := rfl
@[simp] theorem setFld_tileErr (s : State) (F : Fld) (d u i v : Nat) : (s.setFld F d u i v).tileErr = s.tileErr := rfl
@[simp] theorem setFld_uses (s : State) (F : Fld) (d u i v : Nat) : (s.setFld F d u i v).uses = s.uses := rfl
@[simp] theorem setFld_useCount (s : State) (F : Fld) (d u i v : Nat) : (s.setFld F d u i v).useCount = s.useCount := rfl
@[simp] theorem setFld_stations (s : State) (F : Fld) (d u i v : Nat) : (s.setFld F d u i v).stations = s.stations := rfl
@[simp] theorem setFld_gateways (s : State) (F : Fld) (d u i v : Nat) : (s.setFld F d u i v).gateways = s.gateways := rfl
@[simp] theorem setFld_rings (s : State) (F : Fld) (d u i v : Nat) : (s.setFld F d u i v).rings = s.rings := rfl
@[simp] theorem setFld_carBeat (s : State) (F : Fld) (d u i v : Nat) : (s.setFld F d u i v).carBeat = s.carBeat := rfl
@[simp] theorem setFld_halves (s : State) (F : Fld) (d u i v : Nat) : (s.setFld F d u i v).halves = s.halves := rfl
@[simp] theorem setFld_injBeat (s : State) (F : Fld) (d u i v : Nat) : (s.setFld F d u i v).injBeat = s.injBeat := rfl
@[simp] theorem setFld_ctxs (s : State) (F : Fld) (d u i v : Nat) : (s.setFld F d u i v).ctxs = s.ctxs := rfl
@[simp] theorem setFld_sregs (s : State) (F : Fld) (d u i v : Nat) : (s.setFld F d u i v).sregs = s.sregs := rfl
@[simp] theorem setFld_cnts (s : State) (F : Fld) (d u i v : Nat) : (s.setFld F d u i v).cnts = s.cnts := rfl
@[simp] theorem setFld_syncs (s : State) (F : Fld) (d u i v : Nat) : (s.setFld F d u i v).syncs = s.syncs := rfl
@[simp] theorem setFld_beat (s : State) (F : Fld) (d u i v : Nat) : (s.setFld F d u i v).beat = s.beat := rfl
@[simp] theorem setFld_busyAt (s : State) (F : Fld) (d u i v : Nat) : (s.setFld F d u i v).busyAt = s.busyAt := rfl
@[simp] theorem setFld_tktWait (s : State) (F : Fld) (d u i v : Nat) : (s.setFld F d u i v).tktWait = s.tktWait := rfl
@[simp] theorem setFld_lastRan (s : State) (F : Fld) (d u i v : Nat) : (s.setFld F d u i v).lastRan = s.lastRan := rfl
@[simp] theorem setFld_pend (s : State) (F : Fld) (d u i v : Nat) : (s.setFld F d u i v).pend = s.pend := rfl
@[simp] theorem setFld_patterns (s : State) (F : Fld) (d u i v : Nat) : (s.setFld F d u i v).patterns = s.patterns := rfl
@[simp] theorem setFld_patLoaded (s : State) (F : Fld) (d u i v : Nat) : (s.setFld F d u i v).patLoaded = s.patLoaded := rfl
@[simp] theorem setFld_code (s : State) (F : Fld) (d u i v : Nat) : (s.setFld F d u i v).code = s.code := rfl
@[simp] theorem setFld_konst (s : State) (F : Fld) (d u i v : Nat) : (s.setFld F d u i v).konst = s.konst := rfl
@[simp] theorem setFld_charges (s : State) (F : Fld) (d u i v : Nat) : (s.setFld F d u i v).charges = s.charges := rfl
@[simp] theorem setFld_slotPause (s : State) (F : Fld) (d u i v : Nat) : (s.setFld F d u i v).slotPause = s.slotPause := rfl
@[simp] theorem setFld_yieldAt (s : State) (F : Fld) (d u i v : Nat) : (s.setFld F d u i v).yieldAt = s.yieldAt := rfl
@[simp] theorem setFld_yieldHold (s : State) (F : Fld) (d u i v : Nat) : (s.setFld F d u i v).yieldHold = s.yieldHold := rfl
@[simp] theorem setFld_heldBy (s : State) (F : Fld) (d u i v : Nat) : (s.setFld F d u i v).heldBy = s.heldBy := rfl
@[simp] theorem setFld_ves (s : State) (F : Fld) (d u i v : Nat) : (s.setFld F d u i v).ves = s.ves := rfl
@[simp] theorem setFld_vreg (s : State) (F : Fld) (d u i v : Nat) : (s.setFld F d u i v).vreg = s.vreg := rfl
@[simp] theorem setFld_vsealed (s : State) (F : Fld) (d u i v : Nat) : (s.setFld F d u i v).vsealed = s.vsealed := rfl
@[simp] theorem setFld_ftab (s : State) (F : Fld) (d u i v : Nat) : (s.setFld F d u i v).ftab = s.ftab := rfl
@[simp] theorem setFld_pairEpoch (s : State) (F : Fld) (d u i v : Nat) : (s.setFld F d u i v).pairEpoch = s.pairEpoch := rfl
@[simp] theorem setFld_pairSealed (s : State) (F : Fld) (d u i v : Nat) : (s.setFld F d u i v).pairSealed = s.pairSealed := rfl
@[simp] theorem setFld_ses (s : State) (F : Fld) (d u i v : Nat) : (s.setFld F d u i v).ses = s.ses := rfl
@[simp] theorem setFld_streams (s : State) (F : Fld) (d u i v : Nat) : (s.setFld F d u i v).streams = s.streams := rfl
@[simp] theorem setFld_poolMoved (s : State) (F : Fld) (d u i v : Nat) : (s.setFld F d u i v).poolMoved = s.poolMoved := rfl
@[simp] theorem setFld_poolTold (s : State) (F : Fld) (d u i v : Nat) : (s.setFld F d u i v).poolTold = s.poolTold := rfl
@[simp] theorem setFld_stash (s : State) (F : Fld) (d u i v : Nat) : (s.setFld F d u i v).stash = s.stash := rfl
@[simp] theorem setFld_groups (s : State) (F : Fld) (d u i v : Nat) : (s.setFld F d u i v).groups = s.groups := rfl
@[simp] theorem setFld_votes (s : State) (F : Fld) (d u i v : Nat) : (s.setFld F d u i v).votes = s.votes := rfl
@[simp] theorem setFld_updates (s : State) (F : Fld) (d u i v : Nat) : (s.setFld F d u i v).updates = s.updates := rfl
@[simp] theorem setFld_awaiting (s : State) (F : Fld) (d u i v : Nat) : (s.setFld F d u i v).awaiting = s.awaiting := rfl
@[simp] theorem setFld_torn (s : State) (F : Fld) (d u i v : Nat) : (s.setFld F d u i v).torn = s.torn := rfl
@[simp] theorem setFld_gathers (s : State) (F : Fld) (d u i v : Nat) : (s.setFld F d u i v).gathers = s.gathers := rfl
@[simp] theorem setFld_ports (s : State) (F : Fld) (d u i v : Nat) : (s.setFld F d u i v).ports = s.ports := rfl
@[simp] theorem setFld_held (s : State) (F : Fld) (d u i v : Nat) : (s.setFld F d u i v).held = s.held := rfl
@[simp] theorem setFld_inbox (s : State) (F : Fld) (d u i v : Nat) : (s.setFld F d u i v).inbox = s.inbox := rfl
@[simp] theorem setFld_recIn (s : State) (F : Fld) (d u i v : Nat) : (s.setFld F d u i v).recIn = s.recIn := rfl
@[simp] theorem setFld_aliveAt (s : State) (F : Fld) (d u i v : Nat) : (s.setFld F d u i v).aliveAt = s.aliveAt := rfl
@[simp] theorem setFld_hbAllowed (s : State) (F : Fld) (d u i v : Nat) : (s.setFld F d u i v).hbAllowed = s.hbAllowed := rfl
@[simp] theorem setFld_unfit (s : State) (F : Fld) (d u i v : Nat) : (s.setFld F d u i v).unfit = s.unfit := rfl
@[simp] theorem setFld_colls (s : State) (F : Fld) (d u i v : Nat) : (s.setFld F d u i v).colls = s.colls := rfl
@[simp] theorem setFld_insts (s : State) (F : Fld) (d u i v : Nat) : (s.setFld F d u i v).insts = s.insts := rfl
@[simp] theorem setFld_landed (s : State) (F : Fld) (d u i v : Nat) : (s.setFld F d u i v).landed = s.landed := rfl
@[simp] theorem setFld_reGen (s : State) (F : Fld) (d u i v : Nat) : (s.setFld F d u i v).reGen = s.reGen := rfl
@[simp] theorem setFld_policy (s : State) (F : Fld) (d u i v : Nat) : (s.setFld F d u i v).policy = s.policy := rfl
@[simp] theorem setFld_rates (s : State) (F : Fld) (d u i v : Nat) : (s.setFld F d u i v).rates = s.rates := rfl
@[simp] theorem setFld_rateAt (s : State) (F : Fld) (d u i v : Nat) : (s.setFld F d u i v).rateAt = s.rateAt := rfl
@[simp] theorem setFld_polHash (s : State) (F : Fld) (d u i v : Nat) : (s.setFld F d u i v).polHash = s.polHash := rfl
@[simp] theorem setFld_polFloor (s : State) (F : Fld) (d u i v : Nat) : (s.setFld F d u i v).polFloor = s.polFloor := rfl
@[simp] theorem setFld_quoting (s : State) (F : Fld) (d u i v : Nat) : (s.setFld F d u i v).quoting = s.quoting := rfl
@[simp] theorem setFld_releases (s : State) (F : Fld) (d u i v : Nat) : (s.setFld F d u i v).releases = s.releases := rfl
@[simp] theorem setFld_relLog (s : State) (F : Fld) (d u i v : Nat) : (s.setFld F d u i v).relLog = s.relLog := rfl
@[simp] theorem setFld_relAck (s : State) (F : Fld) (d u i v : Nat) : (s.setFld F d u i v).relAck = s.relAck := rfl
@[simp] theorem setFld_clocks (s : State) (F : Fld) (d u i v : Nat) : (s.setFld F d u i v).clocks = s.clocks := rfl
@[simp] theorem setFld_snaps (s : State) (F : Fld) (d u i v : Nat) : (s.setFld F d u i v).snaps = s.snaps := rfl
@[simp] theorem setFld_flash (s : State) (F : Fld) (d u i v : Nat) : (s.setFld F d u i v).flash = s.flash := rfl
@[simp] theorem setFld_mirrors (s : State) (F : Fld) (d u i v : Nat) : (s.setFld F d u i v).mirrors = s.mirrors := rfl
@[simp] theorem setFld_claims (s : State) (F : Fld) (d u i v : Nat) : (s.setFld F d u i v).claims = s.claims := rfl
@[simp] theorem setFld_lost (s : State) (F : Fld) (d u i v : Nat) : (s.setFld F d u i v).lost = s.lost := rfl
@[simp] theorem setFld_quiet (s : State) (F : Fld) (d u i v : Nat) : (s.setFld F d u i v).quiet = s.quiet := rfl
@[simp] theorem setFld_recovering (s : State) (F : Fld) (d u i v : Nat) : (s.setFld F d u i v).recovering = s.recovering := rfl
@[simp] theorem setFld_origin (s : State) (F : Fld) (d u i v : Nat) : (s.setFld F d u i v).origin = s.origin := rfl
@[simp] theorem setFld_restores (s : State) (F : Fld) (d u i v : Nat) : (s.setFld F d u i v).restores = s.restores := rfl
@[simp] theorem setFld_resumed (s : State) (F : Fld) (d u i v : Nat) : (s.setFld F d u i v).resumed = s.resumed := rfl
@[simp] theorem setFld_swung (s : State) (F : Fld) (d u i v : Nat) : (s.setFld F d u i v).swung = s.swung := rfl
@[simp] theorem setFld_handback (s : State) (F : Fld) (d u i v : Nat) : (s.setFld F d u i v).handback = s.handback := rfl
@[simp] theorem setFld_recFills (s : State) (F : Fld) (d u i v : Nat) : (s.setFld F d u i v).recFills = s.recFills := rfl
@[simp] theorem setFld_fillReqs (s : State) (F : Fld) (d u i v : Nat) : (s.setFld F d u i v).fillReqs = s.fillReqs := rfl
@[simp] theorem setFld_digests (s : State) (F : Fld) (d u i v : Nat) : (s.setFld F d u i v).digests = s.digests := rfl
@[simp] theorem setFld_events (s : State) (F : Fld) (d u i v : Nat) : (s.setFld F d u i v).events = s.events := rfl
@[simp] theorem setFld_staged (s : State) (F : Fld) (d u i v : Nat) : (s.setFld F d u i v).staged = s.staged := rfl
@[simp] theorem setFld_evLog (s : State) (F : Fld) (d u i v : Nat) : (s.setFld F d u i v).evLog = s.evLog := rfl
@[simp] theorem setFld_flushN (s : State) (F : Fld) (d u i v : Nat) : (s.setFld F d u i v).flushN = s.flushN := rfl
@[simp] theorem setFld_flushDue (s : State) (F : Fld) (d u i v : Nat) : (s.setFld F d u i v).flushDue = s.flushDue := rfl
@[simp] theorem setFld_buckets (s : State) (F : Fld) (d u i v : Nat) : (s.setFld F d u i v).buckets = s.buckets := rfl
@[simp] theorem setFld_out (s : State) (F : Fld) (d u i v : Nat) : (s.setFld F d u i v).out = s.out := rfl
@[simp] theorem setFld_resp (s : State) (F : Fld) (d u i v : Nat) : (s.setFld F d u i v).resp = s.resp := rfl
@[simp] theorem setFld_irq (s : State) (F : Fld) (d u i v : Nat) : (s.setFld F d u i v).irq = s.irq := rfl
@[simp] theorem setFld_notices (s : State) (F : Fld) (d u i v : Nat) : (s.setFld F d u i v).notices = s.notices := rfl
@[simp] theorem setFld_fresh (s : State) (F : Fld) (d u i v : Nat) : (s.setFld F d u i v).fresh = s.fresh := rfl
@[simp] theorem setFld_replies (s : State) (F : Fld) (d u i v : Nat) : (s.setFld F d u i v).replies = s.replies := rfl
@[simp] theorem setFld_cplOwed (s : State) (F : Fld) (d u i v : Nat) : (s.setFld F d u i v).cplOwed = s.cplOwed := rfl
@[simp] theorem setFld_now (s : State) (F : Fld) (d u i v : Nat) : (s.setFld F d u i v).now = s.now := rfl
@[simp] theorem setFld_caps (s : State) (F : Fld) (d u i v : Nat) : (s.setFld F d u i v).caps = s.caps := rfl
@[simp] theorem setFld_sensors (s : State) (F : Fld) (d u i v : Nat) : (s.setFld F d u i v).sensors = s.sensors := rfl
@[simp] theorem setFld_powerRun (s : State) (F : Fld) (d u i v : Nat) : (s.setFld F d u i v).powerRun = s.powerRun := rfl
@[simp] theorem setFld_powerRamp (s : State) (F : Fld) (d u i v : Nat) : (s.setFld F d u i v).powerRamp = s.powerRamp := rfl
@[simp] theorem setFld_ramps (s : State) (F : Fld) (d u i v : Nat) : (s.setFld F d u i v).ramps = s.ramps := rfl
@[simp] theorem setFld_stages (s : State) (F : Fld) (d u i v : Nat) : (s.setFld F d u i v).stages = s.stages := rfl
@[simp] theorem setFld_booted (s : State) (F : Fld) (d u i v : Nat) : (s.setFld F d u i v).booted = s.booted := rfl
@[simp] theorem setFld_bootAt (s : State) (F : Fld) (d u i v : Nat) : (s.setFld F d u i v).bootAt = s.bootAt := rfl
@[simp] theorem setFld_coolWait (s : State) (F : Fld) (d u i v : Nat) : (s.setFld F d u i v).coolWait = s.coolWait := rfl
@[simp] theorem setFld_stage1 (s : State) (F : Fld) (d u i v : Nat) : (s.setFld F d u i v).stage1 = s.stage1 := rfl
@[simp] theorem setFld_selfTests (s : State) (F : Fld) (d u i v : Nat) : (s.setFld F d u i v).selfTests = s.selfTests := rfl
@[simp] theorem setFld_trainings (s : State) (F : Fld) (d u i v : Nat) : (s.setFld F d u i v).trainings = s.trainings := rfl
@[simp] theorem setFld_coreMark (s : State) (F : Fld) (d u i v : Nat) : (s.setFld F d u i v).coreMark = s.coreMark := rfl
@[simp] theorem setFld_lateLevel (s : State) (F : Fld) (d u i v : Nat) : (s.setFld F d u i v).lateLevel = s.lateLevel := rfl
@[simp] theorem setFld_capRaised (s : State) (F : Fld) (d u i v : Nat) : (s.setFld F d u i v).capRaised = s.capRaised := rfl
@[simp] theorem setFld_resetDue (s : State) (F : Fld) (d u i v : Nat) : (s.setFld F d u i v).resetDue = s.resetDue := rfl
@[simp] theorem setFld_fwA (s : State) (F : Fld) (d u i v : Nat) : (s.setFld F d u i v).fwA = s.fwA := rfl
@[simp] theorem setFld_fwB (s : State) (F : Fld) (d u i v : Nat) : (s.setFld F d u i v).fwB = s.fwB := rfl
@[simp] theorem setFld_fwRuns (s : State) (F : Fld) (d u i v : Nat) : (s.setFld F d u i v).fwRuns = s.fwRuns := rfl
@[simp] theorem setFld_fwJob (s : State) (F : Fld) (d u i v : Nat) : (s.setFld F d u i v).fwJob = s.fwJob := rfl
@[simp] theorem setFld_fwTrial (s : State) (F : Fld) (d u i v : Nat) : (s.setFld F d u i v).fwTrial = s.fwTrial := rfl
@[simp] theorem setFld_supBootAt (s : State) (F : Fld) (d u i v : Nat) : (s.setFld F d u i v).supBootAt = s.supBootAt := rfl
@[simp] theorem setFld_wdogAt (s : State) (F : Fld) (d u i v : Nat) : (s.setFld F d u i v).wdogAt = s.wdogAt := rfl
@[simp] theorem setFld_wdogNmi (s : State) (F : Fld) (d u i v : Nat) : (s.setFld F d u i v).wdogNmi = s.wdogNmi := rfl
@[simp] theorem setFld_record (s : State) (F : Fld) (d u i v : Nat) : (s.setFld F d u i v).record = s.record := rfl
@[simp] theorem setFld_recordSigned (s : State) (F : Fld) (d u i v : Nat) : (s.setFld F d u i v).recordSigned = s.recordSigned := rfl
@[simp] theorem setFld_recordKeys (s : State) (F : Fld) (d u i v : Nat) : (s.setFld F d u i v).recordKeys = s.recordKeys := rfl
@[simp] theorem setFld_mgmtUp (s : State) (F : Fld) (d u i v : Nat) : (s.setFld F d u i v).mgmtUp = s.mgmtUp := rfl
@[simp] theorem setFld_cmdRuns (s : State) (F : Fld) (d u i v : Nat) : (s.setFld F d u i v).cmdRuns = s.cmdRuns := rfl
@[simp] theorem setFld_keptReplies (s : State) (F : Fld) (d u i v : Nat) : (s.setFld F d u i v).keptReplies = s.keptReplies := rfl
@[simp] theorem setFld_windows (s : State) (F : Fld) (d u i v : Nat) : (s.setFld F d u i v).windows = s.windows := rfl
@[simp] theorem setFld_qSkip (s : State) (F : Fld) (d u i v : Nat) : (s.setFld F d u i v).qSkip = s.qSkip := rfl
@[simp] theorem setFld_pending (s : State) (F : Fld) (d u i v : Nat) : (s.setFld F d u i v).pending = s.pending := rfl
@[simp] theorem resetFields_b0 (s : State) (p : Key → Bool) : (s.resetFields p).b0 = s.b0 := rfl
@[simp] theorem resetFields_mem (s : State) (p : Key → Bool) : (s.resetFields p).mem = s.mem := rfl
@[simp] theorem resetFields_side (s : State) (p : Key → Bool) : (s.resetFields p).side = s.side := rfl
@[simp] theorem resetFields_frames (s : State) (p : Key → Bool) : (s.resetFields p).frames = s.frames := rfl
@[simp] theorem resetFields_blocks (s : State) (p : Key → Bool) : (s.resetFields p).blocks = s.blocks := rfl
@[simp] theorem resetFields_hcLines (s : State) (p : Key → Bool) : (s.resetFields p).hcLines = s.hcLines := rfl
@[simp] theorem resetFields_hcClock (s : State) (p : Key → Bool) : (s.resetFields p).hcClock = s.hcClock := rfl
@[simp] theorem resetFields_merges (s : State) (p : Key → Bool) : (s.resetFields p).merges = s.merges := rfl
@[simp] theorem resetFields_memWait (s : State) (p : Key → Bool) : (s.resetFields p).memWait = s.memWait := rfl
@[simp] theorem resetFields_zeroBatch (s : State) (p : Key → Bool) : (s.resetFields p).zeroBatch = s.zeroBatch := rfl
@[simp] theorem resetFields_scrubs (s : State) (p : Key → Bool) : (s.resetFields p).scrubs = s.scrubs := rfl
@[simp] theorem resetFields_crossings (s : State) (p : Key → Bool) : (s.resetFields p).crossings = s.crossings := rfl
@[simp] theorem resetFields_logTold (s : State) (p : Key → Bool) : (s.resetFields p).logTold = s.logTold := rfl
@[simp] theorem resetFields_arrays (s : State) (p : Key → Bool) : (s.resetFields p).arrays = s.arrays := rfl
@[simp] theorem resetFields_acbSeed (s : State) (p : Key → Bool) : (s.resetFields p).acbSeed = s.acbSeed := rfl
@[simp] theorem resetFields_acbAge (s : State) (p : Key → Bool) : (s.resetFields p).acbAge = s.acbAge := rfl
@[simp] theorem resetFields_regions (s : State) (p : Key → Bool) : (s.resetFields p).regions = s.regions := rfl
@[simp] theorem resetFields_bobbins (s : State) (p : Key → Bool) : (s.resetFields p).bobbins = s.bobbins := rfl
@[simp] theorem resetFields_fills (s : State) (p : Key → Bool) : (s.resetFields p).fills = s.fills := rfl
@[simp] theorem resetFields_earlyRead (s : State) (p : Key → Bool) : (s.resetFields p).earlyRead = s.earlyRead := rfl
@[simp] theorem resetFields_tile (s : State) (p : Key → Bool) : (s.resetFields p).tile = s.tile := rfl
@[simp] theorem resetFields_tileTag (s : State) (p : Key → Bool) : (s.resetFields p).tileTag = s.tileTag := rfl
@[simp] theorem resetFields_tileErr (s : State) (p : Key → Bool) : (s.resetFields p).tileErr = s.tileErr := rfl
@[simp] theorem resetFields_uses (s : State) (p : Key → Bool) : (s.resetFields p).uses = s.uses := rfl
@[simp] theorem resetFields_useCount (s : State) (p : Key → Bool) : (s.resetFields p).useCount = s.useCount := rfl
@[simp] theorem resetFields_stations (s : State) (p : Key → Bool) : (s.resetFields p).stations = s.stations := rfl
@[simp] theorem resetFields_gateways (s : State) (p : Key → Bool) : (s.resetFields p).gateways = s.gateways := rfl
@[simp] theorem resetFields_rings (s : State) (p : Key → Bool) : (s.resetFields p).rings = s.rings := rfl
@[simp] theorem resetFields_carBeat (s : State) (p : Key → Bool) : (s.resetFields p).carBeat = s.carBeat := rfl
@[simp] theorem resetFields_halves (s : State) (p : Key → Bool) : (s.resetFields p).halves = s.halves := rfl
@[simp] theorem resetFields_injBeat (s : State) (p : Key → Bool) : (s.resetFields p).injBeat = s.injBeat := rfl
@[simp] theorem resetFields_ctxs (s : State) (p : Key → Bool) : (s.resetFields p).ctxs = s.ctxs := rfl
@[simp] theorem resetFields_sregs (s : State) (p : Key → Bool) : (s.resetFields p).sregs = s.sregs := rfl
@[simp] theorem resetFields_cnts (s : State) (p : Key → Bool) : (s.resetFields p).cnts = s.cnts := rfl
@[simp] theorem resetFields_syncs (s : State) (p : Key → Bool) : (s.resetFields p).syncs = s.syncs := rfl
@[simp] theorem resetFields_beat (s : State) (p : Key → Bool) : (s.resetFields p).beat = s.beat := rfl
@[simp] theorem resetFields_busyAt (s : State) (p : Key → Bool) : (s.resetFields p).busyAt = s.busyAt := rfl
@[simp] theorem resetFields_tktWait (s : State) (p : Key → Bool) : (s.resetFields p).tktWait = s.tktWait := rfl
@[simp] theorem resetFields_lastRan (s : State) (p : Key → Bool) : (s.resetFields p).lastRan = s.lastRan := rfl
@[simp] theorem resetFields_pend (s : State) (p : Key → Bool) : (s.resetFields p).pend = s.pend := rfl
@[simp] theorem resetFields_patterns (s : State) (p : Key → Bool) : (s.resetFields p).patterns = s.patterns := rfl
@[simp] theorem resetFields_patLoaded (s : State) (p : Key → Bool) : (s.resetFields p).patLoaded = s.patLoaded := rfl
@[simp] theorem resetFields_code (s : State) (p : Key → Bool) : (s.resetFields p).code = s.code := rfl
@[simp] theorem resetFields_konst (s : State) (p : Key → Bool) : (s.resetFields p).konst = s.konst := rfl
@[simp] theorem resetFields_charges (s : State) (p : Key → Bool) : (s.resetFields p).charges = s.charges := rfl
@[simp] theorem resetFields_slotPause (s : State) (p : Key → Bool) : (s.resetFields p).slotPause = s.slotPause := rfl
@[simp] theorem resetFields_yieldAt (s : State) (p : Key → Bool) : (s.resetFields p).yieldAt = s.yieldAt := rfl
@[simp] theorem resetFields_yieldHold (s : State) (p : Key → Bool) : (s.resetFields p).yieldHold = s.yieldHold := rfl
@[simp] theorem resetFields_heldBy (s : State) (p : Key → Bool) : (s.resetFields p).heldBy = s.heldBy := rfl
@[simp] theorem resetFields_ves (s : State) (p : Key → Bool) : (s.resetFields p).ves = s.ves := rfl
@[simp] theorem resetFields_vreg (s : State) (p : Key → Bool) : (s.resetFields p).vreg = s.vreg := rfl
@[simp] theorem resetFields_vsealed (s : State) (p : Key → Bool) : (s.resetFields p).vsealed = s.vsealed := rfl
@[simp] theorem resetFields_ftab (s : State) (p : Key → Bool) : (s.resetFields p).ftab = s.ftab := rfl
@[simp] theorem resetFields_pairEpoch (s : State) (p : Key → Bool) : (s.resetFields p).pairEpoch = s.pairEpoch := rfl
@[simp] theorem resetFields_pairSealed (s : State) (p : Key → Bool) : (s.resetFields p).pairSealed = s.pairSealed := rfl
@[simp] theorem resetFields_ses (s : State) (p : Key → Bool) : (s.resetFields p).ses = s.ses := rfl
@[simp] theorem resetFields_streams (s : State) (p : Key → Bool) : (s.resetFields p).streams = s.streams := rfl
@[simp] theorem resetFields_poolMoved (s : State) (p : Key → Bool) : (s.resetFields p).poolMoved = s.poolMoved := rfl
@[simp] theorem resetFields_poolTold (s : State) (p : Key → Bool) : (s.resetFields p).poolTold = s.poolTold := rfl
@[simp] theorem resetFields_stash (s : State) (p : Key → Bool) : (s.resetFields p).stash = s.stash := rfl
@[simp] theorem resetFields_groups (s : State) (p : Key → Bool) : (s.resetFields p).groups = s.groups := rfl
@[simp] theorem resetFields_votes (s : State) (p : Key → Bool) : (s.resetFields p).votes = s.votes := rfl
@[simp] theorem resetFields_updates (s : State) (p : Key → Bool) : (s.resetFields p).updates = s.updates := rfl
@[simp] theorem resetFields_awaiting (s : State) (p : Key → Bool) : (s.resetFields p).awaiting = s.awaiting := rfl
@[simp] theorem resetFields_torn (s : State) (p : Key → Bool) : (s.resetFields p).torn = s.torn := rfl
@[simp] theorem resetFields_gathers (s : State) (p : Key → Bool) : (s.resetFields p).gathers = s.gathers := rfl
@[simp] theorem resetFields_ports (s : State) (p : Key → Bool) : (s.resetFields p).ports = s.ports := rfl
@[simp] theorem resetFields_held (s : State) (p : Key → Bool) : (s.resetFields p).held = s.held := rfl
@[simp] theorem resetFields_inbox (s : State) (p : Key → Bool) : (s.resetFields p).inbox = s.inbox := rfl
@[simp] theorem resetFields_recIn (s : State) (p : Key → Bool) : (s.resetFields p).recIn = s.recIn := rfl
@[simp] theorem resetFields_aliveAt (s : State) (p : Key → Bool) : (s.resetFields p).aliveAt = s.aliveAt := rfl
@[simp] theorem resetFields_hbAllowed (s : State) (p : Key → Bool) : (s.resetFields p).hbAllowed = s.hbAllowed := rfl
@[simp] theorem resetFields_unfit (s : State) (p : Key → Bool) : (s.resetFields p).unfit = s.unfit := rfl
@[simp] theorem resetFields_colls (s : State) (p : Key → Bool) : (s.resetFields p).colls = s.colls := rfl
@[simp] theorem resetFields_insts (s : State) (p : Key → Bool) : (s.resetFields p).insts = s.insts := rfl
@[simp] theorem resetFields_landed (s : State) (p : Key → Bool) : (s.resetFields p).landed = s.landed := rfl
@[simp] theorem resetFields_reGen (s : State) (p : Key → Bool) : (s.resetFields p).reGen = s.reGen := rfl
@[simp] theorem resetFields_policy (s : State) (p : Key → Bool) : (s.resetFields p).policy = s.policy := rfl
@[simp] theorem resetFields_rates (s : State) (p : Key → Bool) : (s.resetFields p).rates = s.rates := rfl
@[simp] theorem resetFields_rateAt (s : State) (p : Key → Bool) : (s.resetFields p).rateAt = s.rateAt := rfl
@[simp] theorem resetFields_polHash (s : State) (p : Key → Bool) : (s.resetFields p).polHash = s.polHash := rfl
@[simp] theorem resetFields_polFloor (s : State) (p : Key → Bool) : (s.resetFields p).polFloor = s.polFloor := rfl
@[simp] theorem resetFields_quoting (s : State) (p : Key → Bool) : (s.resetFields p).quoting = s.quoting := rfl
@[simp] theorem resetFields_releases (s : State) (p : Key → Bool) : (s.resetFields p).releases = s.releases := rfl
@[simp] theorem resetFields_relLog (s : State) (p : Key → Bool) : (s.resetFields p).relLog = s.relLog := rfl
@[simp] theorem resetFields_relAck (s : State) (p : Key → Bool) : (s.resetFields p).relAck = s.relAck := rfl
@[simp] theorem resetFields_clocks (s : State) (p : Key → Bool) : (s.resetFields p).clocks = s.clocks := rfl
@[simp] theorem resetFields_snaps (s : State) (p : Key → Bool) : (s.resetFields p).snaps = s.snaps := rfl
@[simp] theorem resetFields_flash (s : State) (p : Key → Bool) : (s.resetFields p).flash = s.flash := rfl
@[simp] theorem resetFields_mirrors (s : State) (p : Key → Bool) : (s.resetFields p).mirrors = s.mirrors := rfl
@[simp] theorem resetFields_claims (s : State) (p : Key → Bool) : (s.resetFields p).claims = s.claims := rfl
@[simp] theorem resetFields_lost (s : State) (p : Key → Bool) : (s.resetFields p).lost = s.lost := rfl
@[simp] theorem resetFields_quiet (s : State) (p : Key → Bool) : (s.resetFields p).quiet = s.quiet := rfl
@[simp] theorem resetFields_recovering (s : State) (p : Key → Bool) : (s.resetFields p).recovering = s.recovering := rfl
@[simp] theorem resetFields_origin (s : State) (p : Key → Bool) : (s.resetFields p).origin = s.origin := rfl
@[simp] theorem resetFields_restores (s : State) (p : Key → Bool) : (s.resetFields p).restores = s.restores := rfl
@[simp] theorem resetFields_resumed (s : State) (p : Key → Bool) : (s.resetFields p).resumed = s.resumed := rfl
@[simp] theorem resetFields_swung (s : State) (p : Key → Bool) : (s.resetFields p).swung = s.swung := rfl
@[simp] theorem resetFields_handback (s : State) (p : Key → Bool) : (s.resetFields p).handback = s.handback := rfl
@[simp] theorem resetFields_recFills (s : State) (p : Key → Bool) : (s.resetFields p).recFills = s.recFills := rfl
@[simp] theorem resetFields_fillReqs (s : State) (p : Key → Bool) : (s.resetFields p).fillReqs = s.fillReqs := rfl
@[simp] theorem resetFields_digests (s : State) (p : Key → Bool) : (s.resetFields p).digests = s.digests := rfl
@[simp] theorem resetFields_events (s : State) (p : Key → Bool) : (s.resetFields p).events = s.events := rfl
@[simp] theorem resetFields_staged (s : State) (p : Key → Bool) : (s.resetFields p).staged = s.staged := rfl
@[simp] theorem resetFields_evLog (s : State) (p : Key → Bool) : (s.resetFields p).evLog = s.evLog := rfl
@[simp] theorem resetFields_flushN (s : State) (p : Key → Bool) : (s.resetFields p).flushN = s.flushN := rfl
@[simp] theorem resetFields_flushDue (s : State) (p : Key → Bool) : (s.resetFields p).flushDue = s.flushDue := rfl
@[simp] theorem resetFields_buckets (s : State) (p : Key → Bool) : (s.resetFields p).buckets = s.buckets := rfl
@[simp] theorem resetFields_out (s : State) (p : Key → Bool) : (s.resetFields p).out = s.out := rfl
@[simp] theorem resetFields_resp (s : State) (p : Key → Bool) : (s.resetFields p).resp = s.resp := rfl
@[simp] theorem resetFields_irq (s : State) (p : Key → Bool) : (s.resetFields p).irq = s.irq := rfl
@[simp] theorem resetFields_notices (s : State) (p : Key → Bool) : (s.resetFields p).notices = s.notices := rfl
@[simp] theorem resetFields_fresh (s : State) (p : Key → Bool) : (s.resetFields p).fresh = s.fresh := rfl
@[simp] theorem resetFields_replies (s : State) (p : Key → Bool) : (s.resetFields p).replies = s.replies := rfl
@[simp] theorem resetFields_cplOwed (s : State) (p : Key → Bool) : (s.resetFields p).cplOwed = s.cplOwed := rfl
@[simp] theorem resetFields_now (s : State) (p : Key → Bool) : (s.resetFields p).now = s.now := rfl
@[simp] theorem resetFields_caps (s : State) (p : Key → Bool) : (s.resetFields p).caps = s.caps := rfl
@[simp] theorem resetFields_sensors (s : State) (p : Key → Bool) : (s.resetFields p).sensors = s.sensors := rfl
@[simp] theorem resetFields_powerRun (s : State) (p : Key → Bool) : (s.resetFields p).powerRun = s.powerRun := rfl
@[simp] theorem resetFields_powerRamp (s : State) (p : Key → Bool) : (s.resetFields p).powerRamp = s.powerRamp := rfl
@[simp] theorem resetFields_ramps (s : State) (p : Key → Bool) : (s.resetFields p).ramps = s.ramps := rfl
@[simp] theorem resetFields_stages (s : State) (p : Key → Bool) : (s.resetFields p).stages = s.stages := rfl
@[simp] theorem resetFields_booted (s : State) (p : Key → Bool) : (s.resetFields p).booted = s.booted := rfl
@[simp] theorem resetFields_bootAt (s : State) (p : Key → Bool) : (s.resetFields p).bootAt = s.bootAt := rfl
@[simp] theorem resetFields_coolWait (s : State) (p : Key → Bool) : (s.resetFields p).coolWait = s.coolWait := rfl
@[simp] theorem resetFields_stage1 (s : State) (p : Key → Bool) : (s.resetFields p).stage1 = s.stage1 := rfl
@[simp] theorem resetFields_selfTests (s : State) (p : Key → Bool) : (s.resetFields p).selfTests = s.selfTests := rfl
@[simp] theorem resetFields_trainings (s : State) (p : Key → Bool) : (s.resetFields p).trainings = s.trainings := rfl
@[simp] theorem resetFields_coreMark (s : State) (p : Key → Bool) : (s.resetFields p).coreMark = s.coreMark := rfl
@[simp] theorem resetFields_lateLevel (s : State) (p : Key → Bool) : (s.resetFields p).lateLevel = s.lateLevel := rfl
@[simp] theorem resetFields_capRaised (s : State) (p : Key → Bool) : (s.resetFields p).capRaised = s.capRaised := rfl
@[simp] theorem resetFields_resetDue (s : State) (p : Key → Bool) : (s.resetFields p).resetDue = s.resetDue := rfl
@[simp] theorem resetFields_fwA (s : State) (p : Key → Bool) : (s.resetFields p).fwA = s.fwA := rfl
@[simp] theorem resetFields_fwB (s : State) (p : Key → Bool) : (s.resetFields p).fwB = s.fwB := rfl
@[simp] theorem resetFields_fwRuns (s : State) (p : Key → Bool) : (s.resetFields p).fwRuns = s.fwRuns := rfl
@[simp] theorem resetFields_fwJob (s : State) (p : Key → Bool) : (s.resetFields p).fwJob = s.fwJob := rfl
@[simp] theorem resetFields_fwTrial (s : State) (p : Key → Bool) : (s.resetFields p).fwTrial = s.fwTrial := rfl
@[simp] theorem resetFields_supBootAt (s : State) (p : Key → Bool) : (s.resetFields p).supBootAt = s.supBootAt := rfl
@[simp] theorem resetFields_wdogAt (s : State) (p : Key → Bool) : (s.resetFields p).wdogAt = s.wdogAt := rfl
@[simp] theorem resetFields_wdogNmi (s : State) (p : Key → Bool) : (s.resetFields p).wdogNmi = s.wdogNmi := rfl
@[simp] theorem resetFields_record (s : State) (p : Key → Bool) : (s.resetFields p).record = s.record := rfl
@[simp] theorem resetFields_recordSigned (s : State) (p : Key → Bool) : (s.resetFields p).recordSigned = s.recordSigned := rfl
@[simp] theorem resetFields_recordKeys (s : State) (p : Key → Bool) : (s.resetFields p).recordKeys = s.recordKeys := rfl
@[simp] theorem resetFields_mgmtUp (s : State) (p : Key → Bool) : (s.resetFields p).mgmtUp = s.mgmtUp := rfl
@[simp] theorem resetFields_cmdRuns (s : State) (p : Key → Bool) : (s.resetFields p).cmdRuns = s.cmdRuns := rfl
@[simp] theorem resetFields_keptReplies (s : State) (p : Key → Bool) : (s.resetFields p).keptReplies = s.keptReplies := rfl
@[simp] theorem resetFields_windows (s : State) (p : Key → Bool) : (s.resetFields p).windows = s.windows := rfl
@[simp] theorem resetFields_qSkip (s : State) (p : Key → Bool) : (s.resetFields p).qSkip = s.qSkip := rfl
@[simp] theorem resetFields_pending (s : State) (p : Key → Bool) : (s.resetFields p).pending = s.pending := rfl
@[simp] theorem raise_csr (s : State) (e : Ev) (d u a : Nat) (x : Option Nat) : (s.raise e d u a x).csr = s.csr := rfl
@[simp] theorem raise_b0 (s : State) (e : Ev) (d u a : Nat) (x : Option Nat) : (s.raise e d u a x).b0 = s.b0 := rfl
@[simp] theorem raise_mem (s : State) (e : Ev) (d u a : Nat) (x : Option Nat) : (s.raise e d u a x).mem = s.mem := rfl
@[simp] theorem raise_side (s : State) (e : Ev) (d u a : Nat) (x : Option Nat) : (s.raise e d u a x).side = s.side := rfl
@[simp] theorem raise_frames (s : State) (e : Ev) (d u a : Nat) (x : Option Nat) : (s.raise e d u a x).frames = s.frames := rfl
@[simp] theorem raise_blocks (s : State) (e : Ev) (d u a : Nat) (x : Option Nat) : (s.raise e d u a x).blocks = s.blocks := rfl
@[simp] theorem raise_hcLines (s : State) (e : Ev) (d u a : Nat) (x : Option Nat) : (s.raise e d u a x).hcLines = s.hcLines := rfl
@[simp] theorem raise_hcClock (s : State) (e : Ev) (d u a : Nat) (x : Option Nat) : (s.raise e d u a x).hcClock = s.hcClock := rfl
@[simp] theorem raise_merges (s : State) (e : Ev) (d u a : Nat) (x : Option Nat) : (s.raise e d u a x).merges = s.merges := rfl
@[simp] theorem raise_memWait (s : State) (e : Ev) (d u a : Nat) (x : Option Nat) : (s.raise e d u a x).memWait = s.memWait := rfl
@[simp] theorem raise_zeroBatch (s : State) (e : Ev) (d u a : Nat) (x : Option Nat) : (s.raise e d u a x).zeroBatch = s.zeroBatch := rfl
@[simp] theorem raise_scrubs (s : State) (e : Ev) (d u a : Nat) (x : Option Nat) : (s.raise e d u a x).scrubs = s.scrubs := rfl
@[simp] theorem raise_crossings (s : State) (e : Ev) (d u a : Nat) (x : Option Nat) : (s.raise e d u a x).crossings = s.crossings := rfl
@[simp] theorem raise_logTold (s : State) (e : Ev) (d u a : Nat) (x : Option Nat) : (s.raise e d u a x).logTold = s.logTold := rfl
@[simp] theorem raise_arrays (s : State) (e : Ev) (d u a : Nat) (x : Option Nat) : (s.raise e d u a x).arrays = s.arrays := rfl
@[simp] theorem raise_acbSeed (s : State) (e : Ev) (d u a : Nat) (x : Option Nat) : (s.raise e d u a x).acbSeed = s.acbSeed := rfl
@[simp] theorem raise_acbAge (s : State) (e : Ev) (d u a : Nat) (x : Option Nat) : (s.raise e d u a x).acbAge = s.acbAge := rfl
@[simp] theorem raise_regions (s : State) (e : Ev) (d u a : Nat) (x : Option Nat) : (s.raise e d u a x).regions = s.regions := rfl
@[simp] theorem raise_bobbins (s : State) (e : Ev) (d u a : Nat) (x : Option Nat) : (s.raise e d u a x).bobbins = s.bobbins := rfl
@[simp] theorem raise_fills (s : State) (e : Ev) (d u a : Nat) (x : Option Nat) : (s.raise e d u a x).fills = s.fills := rfl
@[simp] theorem raise_earlyRead (s : State) (e : Ev) (d u a : Nat) (x : Option Nat) : (s.raise e d u a x).earlyRead = s.earlyRead := rfl
@[simp] theorem raise_tile (s : State) (e : Ev) (d u a : Nat) (x : Option Nat) : (s.raise e d u a x).tile = s.tile := rfl
@[simp] theorem raise_tileTag (s : State) (e : Ev) (d u a : Nat) (x : Option Nat) : (s.raise e d u a x).tileTag = s.tileTag := rfl
@[simp] theorem raise_tileErr (s : State) (e : Ev) (d u a : Nat) (x : Option Nat) : (s.raise e d u a x).tileErr = s.tileErr := rfl
@[simp] theorem raise_uses (s : State) (e : Ev) (d u a : Nat) (x : Option Nat) : (s.raise e d u a x).uses = s.uses := rfl
@[simp] theorem raise_useCount (s : State) (e : Ev) (d u a : Nat) (x : Option Nat) : (s.raise e d u a x).useCount = s.useCount := rfl
@[simp] theorem raise_stations (s : State) (e : Ev) (d u a : Nat) (x : Option Nat) : (s.raise e d u a x).stations = s.stations := rfl
@[simp] theorem raise_gateways (s : State) (e : Ev) (d u a : Nat) (x : Option Nat) : (s.raise e d u a x).gateways = s.gateways := rfl
@[simp] theorem raise_rings (s : State) (e : Ev) (d u a : Nat) (x : Option Nat) : (s.raise e d u a x).rings = s.rings := rfl
@[simp] theorem raise_carBeat (s : State) (e : Ev) (d u a : Nat) (x : Option Nat) : (s.raise e d u a x).carBeat = s.carBeat := rfl
@[simp] theorem raise_halves (s : State) (e : Ev) (d u a : Nat) (x : Option Nat) : (s.raise e d u a x).halves = s.halves := rfl
@[simp] theorem raise_injBeat (s : State) (e : Ev) (d u a : Nat) (x : Option Nat) : (s.raise e d u a x).injBeat = s.injBeat := rfl
@[simp] theorem raise_ctxs (s : State) (e : Ev) (d u a : Nat) (x : Option Nat) : (s.raise e d u a x).ctxs = s.ctxs := rfl
@[simp] theorem raise_sregs (s : State) (e : Ev) (d u a : Nat) (x : Option Nat) : (s.raise e d u a x).sregs = s.sregs := rfl
@[simp] theorem raise_cnts (s : State) (e : Ev) (d u a : Nat) (x : Option Nat) : (s.raise e d u a x).cnts = s.cnts := rfl
@[simp] theorem raise_syncs (s : State) (e : Ev) (d u a : Nat) (x : Option Nat) : (s.raise e d u a x).syncs = s.syncs := rfl
@[simp] theorem raise_beat (s : State) (e : Ev) (d u a : Nat) (x : Option Nat) : (s.raise e d u a x).beat = s.beat := rfl
@[simp] theorem raise_busyAt (s : State) (e : Ev) (d u a : Nat) (x : Option Nat) : (s.raise e d u a x).busyAt = s.busyAt := rfl
@[simp] theorem raise_tktWait (s : State) (e : Ev) (d u a : Nat) (x : Option Nat) : (s.raise e d u a x).tktWait = s.tktWait := rfl
@[simp] theorem raise_lastRan (s : State) (e : Ev) (d u a : Nat) (x : Option Nat) : (s.raise e d u a x).lastRan = s.lastRan := rfl
@[simp] theorem raise_pend (s : State) (e : Ev) (d u a : Nat) (x : Option Nat) : (s.raise e d u a x).pend = s.pend := rfl
@[simp] theorem raise_patterns (s : State) (e : Ev) (d u a : Nat) (x : Option Nat) : (s.raise e d u a x).patterns = s.patterns := rfl
@[simp] theorem raise_patLoaded (s : State) (e : Ev) (d u a : Nat) (x : Option Nat) : (s.raise e d u a x).patLoaded = s.patLoaded := rfl
@[simp] theorem raise_code (s : State) (e : Ev) (d u a : Nat) (x : Option Nat) : (s.raise e d u a x).code = s.code := rfl
@[simp] theorem raise_konst (s : State) (e : Ev) (d u a : Nat) (x : Option Nat) : (s.raise e d u a x).konst = s.konst := rfl
@[simp] theorem raise_charges (s : State) (e : Ev) (d u a : Nat) (x : Option Nat) : (s.raise e d u a x).charges = s.charges := rfl
@[simp] theorem raise_slotPause (s : State) (e : Ev) (d u a : Nat) (x : Option Nat) : (s.raise e d u a x).slotPause = s.slotPause := rfl
@[simp] theorem raise_yieldAt (s : State) (e : Ev) (d u a : Nat) (x : Option Nat) : (s.raise e d u a x).yieldAt = s.yieldAt := rfl
@[simp] theorem raise_yieldHold (s : State) (e : Ev) (d u a : Nat) (x : Option Nat) : (s.raise e d u a x).yieldHold = s.yieldHold := rfl
@[simp] theorem raise_heldBy (s : State) (e : Ev) (d u a : Nat) (x : Option Nat) : (s.raise e d u a x).heldBy = s.heldBy := rfl
@[simp] theorem raise_ves (s : State) (e : Ev) (d u a : Nat) (x : Option Nat) : (s.raise e d u a x).ves = s.ves := rfl
@[simp] theorem raise_vreg (s : State) (e : Ev) (d u a : Nat) (x : Option Nat) : (s.raise e d u a x).vreg = s.vreg := rfl
@[simp] theorem raise_vsealed (s : State) (e : Ev) (d u a : Nat) (x : Option Nat) : (s.raise e d u a x).vsealed = s.vsealed := rfl
@[simp] theorem raise_ftab (s : State) (e : Ev) (d u a : Nat) (x : Option Nat) : (s.raise e d u a x).ftab = s.ftab := rfl
@[simp] theorem raise_pairEpoch (s : State) (e : Ev) (d u a : Nat) (x : Option Nat) : (s.raise e d u a x).pairEpoch = s.pairEpoch := rfl
@[simp] theorem raise_pairSealed (s : State) (e : Ev) (d u a : Nat) (x : Option Nat) : (s.raise e d u a x).pairSealed = s.pairSealed := rfl
@[simp] theorem raise_ses (s : State) (e : Ev) (d u a : Nat) (x : Option Nat) : (s.raise e d u a x).ses = s.ses := rfl
@[simp] theorem raise_streams (s : State) (e : Ev) (d u a : Nat) (x : Option Nat) : (s.raise e d u a x).streams = s.streams := rfl
@[simp] theorem raise_poolMoved (s : State) (e : Ev) (d u a : Nat) (x : Option Nat) : (s.raise e d u a x).poolMoved = s.poolMoved := rfl
@[simp] theorem raise_poolTold (s : State) (e : Ev) (d u a : Nat) (x : Option Nat) : (s.raise e d u a x).poolTold = s.poolTold := rfl
@[simp] theorem raise_stash (s : State) (e : Ev) (d u a : Nat) (x : Option Nat) : (s.raise e d u a x).stash = s.stash := rfl
@[simp] theorem raise_groups (s : State) (e : Ev) (d u a : Nat) (x : Option Nat) : (s.raise e d u a x).groups = s.groups := rfl
@[simp] theorem raise_votes (s : State) (e : Ev) (d u a : Nat) (x : Option Nat) : (s.raise e d u a x).votes = s.votes := rfl
@[simp] theorem raise_updates (s : State) (e : Ev) (d u a : Nat) (x : Option Nat) : (s.raise e d u a x).updates = s.updates := rfl
@[simp] theorem raise_awaiting (s : State) (e : Ev) (d u a : Nat) (x : Option Nat) : (s.raise e d u a x).awaiting = s.awaiting := rfl
@[simp] theorem raise_torn (s : State) (e : Ev) (d u a : Nat) (x : Option Nat) : (s.raise e d u a x).torn = s.torn := rfl
@[simp] theorem raise_gathers (s : State) (e : Ev) (d u a : Nat) (x : Option Nat) : (s.raise e d u a x).gathers = s.gathers := rfl
@[simp] theorem raise_ports (s : State) (e : Ev) (d u a : Nat) (x : Option Nat) : (s.raise e d u a x).ports = s.ports := rfl
@[simp] theorem raise_held (s : State) (e : Ev) (d u a : Nat) (x : Option Nat) : (s.raise e d u a x).held = s.held := rfl
@[simp] theorem raise_inbox (s : State) (e : Ev) (d u a : Nat) (x : Option Nat) : (s.raise e d u a x).inbox = s.inbox := rfl
@[simp] theorem raise_recIn (s : State) (e : Ev) (d u a : Nat) (x : Option Nat) : (s.raise e d u a x).recIn = s.recIn := rfl
@[simp] theorem raise_aliveAt (s : State) (e : Ev) (d u a : Nat) (x : Option Nat) : (s.raise e d u a x).aliveAt = s.aliveAt := rfl
@[simp] theorem raise_hbAllowed (s : State) (e : Ev) (d u a : Nat) (x : Option Nat) : (s.raise e d u a x).hbAllowed = s.hbAllowed := rfl
@[simp] theorem raise_unfit (s : State) (e : Ev) (d u a : Nat) (x : Option Nat) : (s.raise e d u a x).unfit = s.unfit := rfl
@[simp] theorem raise_colls (s : State) (e : Ev) (d u a : Nat) (x : Option Nat) : (s.raise e d u a x).colls = s.colls := rfl
@[simp] theorem raise_insts (s : State) (e : Ev) (d u a : Nat) (x : Option Nat) : (s.raise e d u a x).insts = s.insts := rfl
@[simp] theorem raise_landed (s : State) (e : Ev) (d u a : Nat) (x : Option Nat) : (s.raise e d u a x).landed = s.landed := rfl
@[simp] theorem raise_reGen (s : State) (e : Ev) (d u a : Nat) (x : Option Nat) : (s.raise e d u a x).reGen = s.reGen := rfl
@[simp] theorem raise_policy (s : State) (e : Ev) (d u a : Nat) (x : Option Nat) : (s.raise e d u a x).policy = s.policy := rfl
@[simp] theorem raise_rates (s : State) (e : Ev) (d u a : Nat) (x : Option Nat) : (s.raise e d u a x).rates = s.rates := rfl
@[simp] theorem raise_rateAt (s : State) (e : Ev) (d u a : Nat) (x : Option Nat) : (s.raise e d u a x).rateAt = s.rateAt := rfl
@[simp] theorem raise_polHash (s : State) (e : Ev) (d u a : Nat) (x : Option Nat) : (s.raise e d u a x).polHash = s.polHash := rfl
@[simp] theorem raise_polFloor (s : State) (e : Ev) (d u a : Nat) (x : Option Nat) : (s.raise e d u a x).polFloor = s.polFloor := rfl
@[simp] theorem raise_quoting (s : State) (e : Ev) (d u a : Nat) (x : Option Nat) : (s.raise e d u a x).quoting = s.quoting := rfl
@[simp] theorem raise_releases (s : State) (e : Ev) (d u a : Nat) (x : Option Nat) : (s.raise e d u a x).releases = s.releases := rfl
@[simp] theorem raise_relLog (s : State) (e : Ev) (d u a : Nat) (x : Option Nat) : (s.raise e d u a x).relLog = s.relLog := rfl
@[simp] theorem raise_relAck (s : State) (e : Ev) (d u a : Nat) (x : Option Nat) : (s.raise e d u a x).relAck = s.relAck := rfl
@[simp] theorem raise_clocks (s : State) (e : Ev) (d u a : Nat) (x : Option Nat) : (s.raise e d u a x).clocks = s.clocks := rfl
@[simp] theorem raise_snaps (s : State) (e : Ev) (d u a : Nat) (x : Option Nat) : (s.raise e d u a x).snaps = s.snaps := rfl
@[simp] theorem raise_flash (s : State) (e : Ev) (d u a : Nat) (x : Option Nat) : (s.raise e d u a x).flash = s.flash := rfl
@[simp] theorem raise_mirrors (s : State) (e : Ev) (d u a : Nat) (x : Option Nat) : (s.raise e d u a x).mirrors = s.mirrors := rfl
@[simp] theorem raise_claims (s : State) (e : Ev) (d u a : Nat) (x : Option Nat) : (s.raise e d u a x).claims = s.claims := rfl
@[simp] theorem raise_lost (s : State) (e : Ev) (d u a : Nat) (x : Option Nat) : (s.raise e d u a x).lost = s.lost := rfl
@[simp] theorem raise_quiet (s : State) (e : Ev) (d u a : Nat) (x : Option Nat) : (s.raise e d u a x).quiet = s.quiet := rfl
@[simp] theorem raise_recovering (s : State) (e : Ev) (d u a : Nat) (x : Option Nat) : (s.raise e d u a x).recovering = s.recovering := rfl
@[simp] theorem raise_origin (s : State) (e : Ev) (d u a : Nat) (x : Option Nat) : (s.raise e d u a x).origin = s.origin := rfl
@[simp] theorem raise_restores (s : State) (e : Ev) (d u a : Nat) (x : Option Nat) : (s.raise e d u a x).restores = s.restores := rfl
@[simp] theorem raise_resumed (s : State) (e : Ev) (d u a : Nat) (x : Option Nat) : (s.raise e d u a x).resumed = s.resumed := rfl
@[simp] theorem raise_swung (s : State) (e : Ev) (d u a : Nat) (x : Option Nat) : (s.raise e d u a x).swung = s.swung := rfl
@[simp] theorem raise_handback (s : State) (e : Ev) (d u a : Nat) (x : Option Nat) : (s.raise e d u a x).handback = s.handback := rfl
@[simp] theorem raise_recFills (s : State) (e : Ev) (d u a : Nat) (x : Option Nat) : (s.raise e d u a x).recFills = s.recFills := rfl
@[simp] theorem raise_fillReqs (s : State) (e : Ev) (d u a : Nat) (x : Option Nat) : (s.raise e d u a x).fillReqs = s.fillReqs := rfl
@[simp] theorem raise_digests (s : State) (e : Ev) (d u a : Nat) (x : Option Nat) : (s.raise e d u a x).digests = s.digests := rfl
@[simp] theorem raise_staged (s : State) (e : Ev) (d u a : Nat) (x : Option Nat) : (s.raise e d u a x).staged = s.staged := rfl
@[simp] theorem raise_evLog (s : State) (e : Ev) (d u a : Nat) (x : Option Nat) : (s.raise e d u a x).evLog = s.evLog := rfl
@[simp] theorem raise_flushN (s : State) (e : Ev) (d u a : Nat) (x : Option Nat) : (s.raise e d u a x).flushN = s.flushN := rfl
@[simp] theorem raise_flushDue (s : State) (e : Ev) (d u a : Nat) (x : Option Nat) : (s.raise e d u a x).flushDue = s.flushDue := rfl
@[simp] theorem raise_buckets (s : State) (e : Ev) (d u a : Nat) (x : Option Nat) : (s.raise e d u a x).buckets = s.buckets := rfl
@[simp] theorem raise_out (s : State) (e : Ev) (d u a : Nat) (x : Option Nat) : (s.raise e d u a x).out = s.out := rfl
@[simp] theorem raise_resp (s : State) (e : Ev) (d u a : Nat) (x : Option Nat) : (s.raise e d u a x).resp = s.resp := rfl
@[simp] theorem raise_irq (s : State) (e : Ev) (d u a : Nat) (x : Option Nat) : (s.raise e d u a x).irq = s.irq := rfl
@[simp] theorem raise_notices (s : State) (e : Ev) (d u a : Nat) (x : Option Nat) : (s.raise e d u a x).notices = s.notices := rfl
@[simp] theorem raise_fresh (s : State) (e : Ev) (d u a : Nat) (x : Option Nat) : (s.raise e d u a x).fresh = s.fresh := rfl
@[simp] theorem raise_replies (s : State) (e : Ev) (d u a : Nat) (x : Option Nat) : (s.raise e d u a x).replies = s.replies := rfl
@[simp] theorem raise_cplOwed (s : State) (e : Ev) (d u a : Nat) (x : Option Nat) : (s.raise e d u a x).cplOwed = s.cplOwed := rfl
@[simp] theorem raise_now (s : State) (e : Ev) (d u a : Nat) (x : Option Nat) : (s.raise e d u a x).now = s.now := rfl
@[simp] theorem raise_caps (s : State) (e : Ev) (d u a : Nat) (x : Option Nat) : (s.raise e d u a x).caps = s.caps := rfl
@[simp] theorem raise_sensors (s : State) (e : Ev) (d u a : Nat) (x : Option Nat) : (s.raise e d u a x).sensors = s.sensors := rfl
@[simp] theorem raise_powerRun (s : State) (e : Ev) (d u a : Nat) (x : Option Nat) : (s.raise e d u a x).powerRun = s.powerRun := rfl
@[simp] theorem raise_powerRamp (s : State) (e : Ev) (d u a : Nat) (x : Option Nat) : (s.raise e d u a x).powerRamp = s.powerRamp := rfl
@[simp] theorem raise_ramps (s : State) (e : Ev) (d u a : Nat) (x : Option Nat) : (s.raise e d u a x).ramps = s.ramps := rfl
@[simp] theorem raise_stages (s : State) (e : Ev) (d u a : Nat) (x : Option Nat) : (s.raise e d u a x).stages = s.stages := rfl
@[simp] theorem raise_booted (s : State) (e : Ev) (d u a : Nat) (x : Option Nat) : (s.raise e d u a x).booted = s.booted := rfl
@[simp] theorem raise_bootAt (s : State) (e : Ev) (d u a : Nat) (x : Option Nat) : (s.raise e d u a x).bootAt = s.bootAt := rfl
@[simp] theorem raise_coolWait (s : State) (e : Ev) (d u a : Nat) (x : Option Nat) : (s.raise e d u a x).coolWait = s.coolWait := rfl
@[simp] theorem raise_stage1 (s : State) (e : Ev) (d u a : Nat) (x : Option Nat) : (s.raise e d u a x).stage1 = s.stage1 := rfl
@[simp] theorem raise_selfTests (s : State) (e : Ev) (d u a : Nat) (x : Option Nat) : (s.raise e d u a x).selfTests = s.selfTests := rfl
@[simp] theorem raise_trainings (s : State) (e : Ev) (d u a : Nat) (x : Option Nat) : (s.raise e d u a x).trainings = s.trainings := rfl
@[simp] theorem raise_coreMark (s : State) (e : Ev) (d u a : Nat) (x : Option Nat) : (s.raise e d u a x).coreMark = s.coreMark := rfl
@[simp] theorem raise_lateLevel (s : State) (e : Ev) (d u a : Nat) (x : Option Nat) : (s.raise e d u a x).lateLevel = s.lateLevel := rfl
@[simp] theorem raise_capRaised (s : State) (e : Ev) (d u a : Nat) (x : Option Nat) : (s.raise e d u a x).capRaised = s.capRaised := rfl
@[simp] theorem raise_resetDue (s : State) (e : Ev) (d u a : Nat) (x : Option Nat) : (s.raise e d u a x).resetDue = s.resetDue := rfl
@[simp] theorem raise_fwA (s : State) (e : Ev) (d u a : Nat) (x : Option Nat) : (s.raise e d u a x).fwA = s.fwA := rfl
@[simp] theorem raise_fwB (s : State) (e : Ev) (d u a : Nat) (x : Option Nat) : (s.raise e d u a x).fwB = s.fwB := rfl
@[simp] theorem raise_fwRuns (s : State) (e : Ev) (d u a : Nat) (x : Option Nat) : (s.raise e d u a x).fwRuns = s.fwRuns := rfl
@[simp] theorem raise_fwJob (s : State) (e : Ev) (d u a : Nat) (x : Option Nat) : (s.raise e d u a x).fwJob = s.fwJob := rfl
@[simp] theorem raise_fwTrial (s : State) (e : Ev) (d u a : Nat) (x : Option Nat) : (s.raise e d u a x).fwTrial = s.fwTrial := rfl
@[simp] theorem raise_supBootAt (s : State) (e : Ev) (d u a : Nat) (x : Option Nat) : (s.raise e d u a x).supBootAt = s.supBootAt := rfl
@[simp] theorem raise_wdogAt (s : State) (e : Ev) (d u a : Nat) (x : Option Nat) : (s.raise e d u a x).wdogAt = s.wdogAt := rfl
@[simp] theorem raise_wdogNmi (s : State) (e : Ev) (d u a : Nat) (x : Option Nat) : (s.raise e d u a x).wdogNmi = s.wdogNmi := rfl
@[simp] theorem raise_record (s : State) (e : Ev) (d u a : Nat) (x : Option Nat) : (s.raise e d u a x).record = s.record := rfl
@[simp] theorem raise_recordSigned (s : State) (e : Ev) (d u a : Nat) (x : Option Nat) : (s.raise e d u a x).recordSigned = s.recordSigned := rfl
@[simp] theorem raise_recordKeys (s : State) (e : Ev) (d u a : Nat) (x : Option Nat) : (s.raise e d u a x).recordKeys = s.recordKeys := rfl
@[simp] theorem raise_mgmtUp (s : State) (e : Ev) (d u a : Nat) (x : Option Nat) : (s.raise e d u a x).mgmtUp = s.mgmtUp := rfl
@[simp] theorem raise_cmdRuns (s : State) (e : Ev) (d u a : Nat) (x : Option Nat) : (s.raise e d u a x).cmdRuns = s.cmdRuns := rfl
@[simp] theorem raise_keptReplies (s : State) (e : Ev) (d u a : Nat) (x : Option Nat) : (s.raise e d u a x).keptReplies = s.keptReplies := rfl
@[simp] theorem raise_windows (s : State) (e : Ev) (d u a : Nat) (x : Option Nat) : (s.raise e d u a x).windows = s.windows := rfl
@[simp] theorem raise_qSkip (s : State) (e : Ev) (d u a : Nat) (x : Option Nat) : (s.raise e d u a x).qSkip = s.qSkip := rfl
@[simp] theorem raise_pending (s : State) (e : Ev) (d u a : Nat) (x : Option Nat) : (s.raise e d u a x).pending = s.pending := rfl

theorem csrKey_inj {F G : Fld} {d u i d' u' i' : Nat} : csrKey F d u i = csrKey G d' u' i' ↔ F = G ∧ d = d' ∧ u = u' ∧ i = i' := by
  simp [csrKey, Fld.id_inj]

/-- A field read after a write. -/
theorem fld_setFld (s : State) (F G : Fld) (d u i v d' u' i' : Nat) :
    (s.setFld F d u i v).fld G d' u' i' = if F = G ∧ d = d' ∧ u = u' ∧ i = i' then v % 2 ^ F.width else s.fld G d' u' i' := by
  simp only [fld, setFld]
  split
  · next h => obtain ⟨rfl, rfl, rfl, rfl⟩ := h; exact Tbl.get_set_self ..
  · next h => exact Tbl.get_set_ne _ _ _ _ (fun hk => h (csrKey_inj.mp hk))

@[simp] theorem fld_setFld_self (s : State) (F : Fld) (d u i v : Nat) : (s.setFld F d u i v).fld F d u i = v % 2 ^ F.width := by
  simp [fld_setFld]

/-- Another field, or the field of another unit, keeps its value. -/
theorem fld_setFld_ne (s : State) {F G : Fld} {d u i d' u' i' : Nat} (v : Nat) (h : ¬(F = G ∧ d = d' ∧ u = u' ∧ i = i')) :
    (s.setFld F d u i v).fld G d' u' i' = s.fld G d' u' i' := by
  rw [fld_setFld, if_neg h]

theorem fld_setFld_other (s : State) {F G : Fld} (h : F ≠ G) (d u i v d' u' i' : Nat) :
    (s.setFld F d u i v).fld G d' u' i' = s.fld G d' u' i' := fld_setFld_ne s v (fun g => h g.1)

/-- Fields that a reset of fields drops read their reset value. -/
theorem fld_resetFields (s : State) (p : Key → Bool) (G : Fld) (d u i : Nat) :
    (s.resetFields p).fld G d u i = if p (csrKey G d u i) then Fld.resetOf G.id d else s.fld G d u i := by
  simp only [fld, resetFields, Tbl.get_clear]

@[simp] theorem fld_raise (s : State) (e : Ev) (a b c : Nat) (x : Option Nat) (G : Fld) (d u i : Nat) :
    (s.raise e a b c x).fld G d u i = s.fld G d u i := rfl

/-- A write stores no more than the field's width. -/
theorem fld_setFld_lt (s : State) (F : Fld) (d u i v : Nat) : (s.setFld F d u i v).fld F d u i < 2 ^ F.width := by
  rw [fld_setFld_self]; exact Nat.mod_lt _ (Nat.two_pow_pos _)

/-- The events after one more is raised. -/
theorem raise_events (s : State) (e : Ev) (d u a : Nat) (x : Option Nat) :
    (s.raise e d u a x).events = s.events ++ [⟨s.fld .SUP_OPSEC_SECONDS iod0, e.code, d, u, a, x⟩] := rfl

end State

end Sys2Proof.Machine
end

