-- ==== Sys2Proof/Laws/Mesh.lean ====
section
/-! SUPPORT. What a packet on the mesh of a die changes: MESH_CNT_FLITS, MESH_PEAK and the crossings, and nothing else (R322 to R324,
R331). -/

namespace Sys2Proof.Machine

/-- A state differs from another in registers and crossings alone, and in no register but MESH_CNT_FLITS and MESH_PEAK. -/
structure MeshOnly (s t : State) : Prop where
  rest : t = { s with csr := t.csr, crossings := t.crossings }
  fld : ∀ (G : Fld) (d u i : Nat), G ≠ .MESH_CNT_FLITS_COUNT → G ≠ .MESH_PEAK_PEAK → t.fld G d u i = s.fld G d u i

namespace MeshOnly

theorem refl (s : State) : MeshOnly s s := ⟨rfl, fun _ _ _ _ _ _ => rfl⟩

theorem trans {s t u : State} (h : MeshOnly s t) (g : MeshOnly t u) : MeshOnly s u :=
  ⟨g.rest.trans (congrArg (fun x : State => { x with csr := u.csr, crossings := u.crossings }) h.rest),
    fun G d u i hF hP => (g.fld G d u i hF hP).trans (h.fld G d u i hF hP)⟩

theorem incFlits {s t : State} (h : MeshOnly s t) (cd n : Nat) : MeshOnly s (t.incFld .MESH_CNT_FLITS_COUNT cd 0 0 n) :=
  h.trans ⟨rfl, fun _ _ _ _ hF _ => State.fld_setFld_other _ (Ne.symm hF) _ _ _ _ _ _ _⟩

theorem setPeak {s t : State} (h : MeshOnly s t) (cd n : Nat) : MeshOnly s (t.setFld .MESH_PEAK_PEAK cd 0 0 n) :=
  h.trans ⟨rfl, fun _ _ _ _ _ hP => State.fld_setFld_other _ (Ne.symm hP) _ _ _ _ _ _ _⟩

theorem cross {s t : State} (h : MeshOnly s t) (cd k n : Nat) : MeshOnly s (t.crossEntries cd k n) :=
  h.trans ⟨rfl, fun _ _ _ _ _ _ => rfl⟩

theorem crossAll {s t : State} (h : MeshOnly s t) (cd n : Nat) (l : List Nat) :
    MeshOnly s (l.foldl (fun s k => s.crossEntries cd k n) t) := by
  induction l generalizing t with
  | nil => exact h
  | cons k l ih => exact ih (h.cross cd k n)

theorem send (s : State) (cd : Nat) (p : MeshPacket) (x y : MeshEnd) : MeshOnly s (s.meshSend cd p x y) := by
  unfold State.meshSend
  refine crossAll ?_ _ _ _
  split
  · exact ((refl s).incFlits _ _).setPeak _ _
  · exact (refl s).incFlits _ _

theorem read (s : State) (cd : Nat) (x : MeshEnd) (a : Nat) : MeshOnly s (s.meshRead cd x a) := (send ..).trans (send ..)
theorem write (s : State) (cd : Nat) (x : MeshEnd) (a : Nat) : MeshOnly s (s.meshWrite cd x a) := (send ..).trans (send ..)
theorem posted (s : State) (cd a n : Nat) : MeshOnly s (s.meshPosted cd a n) := (send ..).trans (send ..)

theorem notice (s : State) (cd n : Nat) : MeshOnly s (s.meshNotice cd n) := by
  unfold State.meshNotice
  repeat' split
  all_goals first | exact send .. | exact refl s

theorem outer (s : State) (a : Nat) (w : Bool) : MeshOnly s (s.meshOuter a w) := by
  unfold State.meshOuter
  dsimp only
  repeat' split
  all_goals first | exact write .. | exact read .. | exact refl s

end MeshOnly

namespace State

/-- The counters of R154 below 0x50 are counted where they stand: no packet carries them. -/
@[simp] theorem meshNotice_low (s : State) (cd : Nat) {n : Nat} (h : n < 0x50) : s.meshNotice cd n = s := by
  unfold meshNotice
  simp [show ¬0x50 ≤ n by omega, show ¬0x58 ≤ n by omega, show n ≠ 0x60 by omega, show n ≠ 0x61 by omega, show n ≠ 0x62 by omega]

@[simp] theorem fld_meshSend (s : State) (cd : Nat) (p : MeshPacket) (x y : MeshEnd) {G : Fld} (d u i : Nat) (hF : G ≠ .MESH_CNT_FLITS_COUNT) (hP : G ≠ .MESH_PEAK_PEAK) :
    (s.meshSend cd p x y).fld G d u i = s.fld G d u i := (MeshOnly.send ..).fld G d u i hF hP
@[simp] theorem meshSend_b0 (s : State) (cd : Nat) (p : MeshPacket) (x y : MeshEnd) : (s.meshSend cd p x y).b0 = s.b0 := (congrArg State.b0 (MeshOnly.send s cd p x y).rest :)
@[simp] theorem meshSend_mem (s : State) (cd : Nat) (p : MeshPacket) (x y : MeshEnd) : (s.meshSend cd p x y).mem = s.mem := (congrArg State.mem (MeshOnly.send s cd p x y).rest :)
@[simp] theorem meshSend_side (s : State) (cd : Nat) (p : MeshPacket) (x y : MeshEnd) : (s.meshSend cd p x y).side = s.side := (congrArg State.side (MeshOnly.send s cd p x y).rest :)
@[simp] theorem meshSend_frames (s : State) (cd : Nat) (p : MeshPacket) (x y : MeshEnd) : (s.meshSend cd p x y).frames = s.frames := (congrArg State.frames (MeshOnly.send s cd p x y).rest :)
@[simp] theorem meshSend_blocks (s : State) (cd : Nat) (p : MeshPacket) (x y : MeshEnd) : (s.meshSend cd p x y).blocks = s.blocks := (congrArg State.blocks (MeshOnly.send s cd p x y).rest :)
@[simp] theorem meshSend_hcLines (s : State) (cd : Nat) (p : MeshPacket) (x y : MeshEnd) : (s.meshSend cd p x y).hcLines = s.hcLines := (congrArg State.hcLines (MeshOnly.send s cd p x y).rest :)
@[simp] theorem meshSend_hcClock (s : State) (cd : Nat) (p : MeshPacket) (x y : MeshEnd) : (s.meshSend cd p x y).hcClock = s.hcClock := (congrArg State.hcClock (MeshOnly.send s cd p x y).rest :)
@[simp] theorem meshSend_merges (s : State) (cd : Nat) (p : MeshPacket) (x y : MeshEnd) : (s.meshSend cd p x y).merges = s.merges := (congrArg State.merges (MeshOnly.send s cd p x y).rest :)
@[simp] theorem meshSend_memWait (s : State) (cd : Nat) (p : MeshPacket) (x y : MeshEnd) : (s.meshSend cd p x y).memWait = s.memWait := (congrArg State.memWait (MeshOnly.send s cd p x y).rest :)
@[simp] theorem meshSend_zeroBatch (s : State) (cd : Nat) (p : MeshPacket) (x y : MeshEnd) : (s.meshSend cd p x y).zeroBatch = s.zeroBatch := (congrArg State.zeroBatch (MeshOnly.send s cd p x y).rest :)
@[simp] theorem meshSend_scrubs (s : State) (cd : Nat) (p : MeshPacket) (x y : MeshEnd) : (s.meshSend cd p x y).scrubs = s.scrubs := (congrArg State.scrubs (MeshOnly.send s cd p x y).rest :)
@[simp] theorem meshSend_logTold (s : State) (cd : Nat) (p : MeshPacket) (x y : MeshEnd) : (s.meshSend cd p x y).logTold = s.logTold := (congrArg State.logTold (MeshOnly.send s cd p x y).rest :)
@[simp] theorem meshSend_arrays (s : State) (cd : Nat) (p : MeshPacket) (x y : MeshEnd) : (s.meshSend cd p x y).arrays = s.arrays := (congrArg State.arrays (MeshOnly.send s cd p x y).rest :)
@[simp] theorem meshSend_acbSeed (s : State) (cd : Nat) (p : MeshPacket) (x y : MeshEnd) : (s.meshSend cd p x y).acbSeed = s.acbSeed := (congrArg State.acbSeed (MeshOnly.send s cd p x y).rest :)
@[simp] theorem meshSend_acbAge (s : State) (cd : Nat) (p : MeshPacket) (x y : MeshEnd) : (s.meshSend cd p x y).acbAge = s.acbAge := (congrArg State.acbAge (MeshOnly.send s cd p x y).rest :)
@[simp] theorem meshSend_regions (s : State) (cd : Nat) (p : MeshPacket) (x y : MeshEnd) : (s.meshSend cd p x y).regions = s.regions := (congrArg State.regions (MeshOnly.send s cd p x y).rest :)
@[simp] theorem meshSend_bobbins (s : State) (cd : Nat) (p : MeshPacket) (x y : MeshEnd) : (s.meshSend cd p x y).bobbins = s.bobbins := (congrArg State.bobbins (MeshOnly.send s cd p x y).rest :)
@[simp] theorem meshSend_fills (s : State) (cd : Nat) (p : MeshPacket) (x y : MeshEnd) : (s.meshSend cd p x y).fills = s.fills := (congrArg State.fills (MeshOnly.send s cd p x y).rest :)
@[simp] theorem meshSend_earlyRead (s : State) (cd : Nat) (p : MeshPacket) (x y : MeshEnd) : (s.meshSend cd p x y).earlyRead = s.earlyRead := (congrArg State.earlyRead (MeshOnly.send s cd p x y).rest :)
@[simp] theorem meshSend_tile (s : State) (cd : Nat) (p : MeshPacket) (x y : MeshEnd) : (s.meshSend cd p x y).tile = s.tile := (congrArg State.tile (MeshOnly.send s cd p x y).rest :)
@[simp] theorem meshSend_tileTag (s : State) (cd : Nat) (p : MeshPacket) (x y : MeshEnd) : (s.meshSend cd p x y).tileTag = s.tileTag := (congrArg State.tileTag (MeshOnly.send s cd p x y).rest :)
@[simp] theorem meshSend_tileErr (s : State) (cd : Nat) (p : MeshPacket) (x y : MeshEnd) : (s.meshSend cd p x y).tileErr = s.tileErr := (congrArg State.tileErr (MeshOnly.send s cd p x y).rest :)
@[simp] theorem meshSend_uses (s : State) (cd : Nat) (p : MeshPacket) (x y : MeshEnd) : (s.meshSend cd p x y).uses = s.uses := (congrArg State.uses (MeshOnly.send s cd p x y).rest :)
@[simp] theorem meshSend_useCount (s : State) (cd : Nat) (p : MeshPacket) (x y : MeshEnd) : (s.meshSend cd p x y).useCount = s.useCount := (congrArg State.useCount (MeshOnly.send s cd p x y).rest :)
@[simp] theorem meshSend_stations (s : State) (cd : Nat) (p : MeshPacket) (x y : MeshEnd) : (s.meshSend cd p x y).stations = s.stations := (congrArg State.stations (MeshOnly.send s cd p x y).rest :)
@[simp] theorem meshSend_gateways (s : State) (cd : Nat) (p : MeshPacket) (x y : MeshEnd) : (s.meshSend cd p x y).gateways = s.gateways := (congrArg State.gateways (MeshOnly.send s cd p x y).rest :)
@[simp] theorem meshSend_rings (s : State) (cd : Nat) (p : MeshPacket) (x y : MeshEnd) : (s.meshSend cd p x y).rings = s.rings := (congrArg State.rings (MeshOnly.send s cd p x y).rest :)
@[simp] theorem meshSend_carBeat (s : State) (cd : Nat) (p : MeshPacket) (x y : MeshEnd) : (s.meshSend cd p x y).carBeat = s.carBeat := (congrArg State.carBeat (MeshOnly.send s cd p x y).rest :)
@[simp] theorem meshSend_halves (s : State) (cd : Nat) (p : MeshPacket) (x y : MeshEnd) : (s.meshSend cd p x y).halves = s.halves := (congrArg State.halves (MeshOnly.send s cd p x y).rest :)
@[simp] theorem meshSend_injBeat (s : State) (cd : Nat) (p : MeshPacket) (x y : MeshEnd) : (s.meshSend cd p x y).injBeat = s.injBeat := (congrArg State.injBeat (MeshOnly.send s cd p x y).rest :)
@[simp] theorem meshSend_ctxs (s : State) (cd : Nat) (p : MeshPacket) (x y : MeshEnd) : (s.meshSend cd p x y).ctxs = s.ctxs := (congrArg State.ctxs (MeshOnly.send s cd p x y).rest :)
@[simp] theorem meshSend_sregs (s : State) (cd : Nat) (p : MeshPacket) (x y : MeshEnd) : (s.meshSend cd p x y).sregs = s.sregs := (congrArg State.sregs (MeshOnly.send s cd p x y).rest :)
@[simp] theorem meshSend_cnts (s : State) (cd : Nat) (p : MeshPacket) (x y : MeshEnd) : (s.meshSend cd p x y).cnts = s.cnts := (congrArg State.cnts (MeshOnly.send s cd p x y).rest :)
@[simp] theorem meshSend_syncs (s : State) (cd : Nat) (p : MeshPacket) (x y : MeshEnd) : (s.meshSend cd p x y).syncs = s.syncs := (congrArg State.syncs (MeshOnly.send s cd p x y).rest :)
@[simp] theorem meshSend_beat (s : State) (cd : Nat) (p : MeshPacket) (x y : MeshEnd) : (s.meshSend cd p x y).beat = s.beat := (congrArg State.beat (MeshOnly.send s cd p x y).rest :)
@[simp] theorem meshSend_busyAt (s : State) (cd : Nat) (p : MeshPacket) (x y : MeshEnd) : (s.meshSend cd p x y).busyAt = s.busyAt := (congrArg State.busyAt (MeshOnly.send s cd p x y).rest :)
@[simp] theorem meshSend_tktWait (s : State) (cd : Nat) (p : MeshPacket) (x y : MeshEnd) : (s.meshSend cd p x y).tktWait = s.tktWait := (congrArg State.tktWait (MeshOnly.send s cd p x y).rest :)
@[simp] theorem meshSend_lastRan (s : State) (cd : Nat) (p : MeshPacket) (x y : MeshEnd) : (s.meshSend cd p x y).lastRan = s.lastRan := (congrArg State.lastRan (MeshOnly.send s cd p x y).rest :)
@[simp] theorem meshSend_pend (s : State) (cd : Nat) (p : MeshPacket) (x y : MeshEnd) : (s.meshSend cd p x y).pend = s.pend := (congrArg State.pend (MeshOnly.send s cd p x y).rest :)
@[simp] theorem meshSend_patterns (s : State) (cd : Nat) (p : MeshPacket) (x y : MeshEnd) : (s.meshSend cd p x y).patterns = s.patterns := (congrArg State.patterns (MeshOnly.send s cd p x y).rest :)
@[simp] theorem meshSend_patLoaded (s : State) (cd : Nat) (p : MeshPacket) (x y : MeshEnd) : (s.meshSend cd p x y).patLoaded = s.patLoaded := (congrArg State.patLoaded (MeshOnly.send s cd p x y).rest :)
@[simp] theorem meshSend_code (s : State) (cd : Nat) (p : MeshPacket) (x y : MeshEnd) : (s.meshSend cd p x y).code = s.code := (congrArg State.code (MeshOnly.send s cd p x y).rest :)
@[simp] theorem meshSend_konst (s : State) (cd : Nat) (p : MeshPacket) (x y : MeshEnd) : (s.meshSend cd p x y).konst = s.konst := (congrArg State.konst (MeshOnly.send s cd p x y).rest :)
@[simp] theorem meshSend_charges (s : State) (cd : Nat) (p : MeshPacket) (x y : MeshEnd) : (s.meshSend cd p x y).charges = s.charges := (congrArg State.charges (MeshOnly.send s cd p x y).rest :)
@[simp] theorem meshSend_slotPause (s : State) (cd : Nat) (p : MeshPacket) (x y : MeshEnd) : (s.meshSend cd p x y).slotPause = s.slotPause := (congrArg State.slotPause (MeshOnly.send s cd p x y).rest :)
@[simp] theorem meshSend_yieldAt (s : State) (cd : Nat) (p : MeshPacket) (x y : MeshEnd) : (s.meshSend cd p x y).yieldAt = s.yieldAt := (congrArg State.yieldAt (MeshOnly.send s cd p x y).rest :)
@[simp] theorem meshSend_yieldHold (s : State) (cd : Nat) (p : MeshPacket) (x y : MeshEnd) : (s.meshSend cd p x y).yieldHold = s.yieldHold := (congrArg State.yieldHold (MeshOnly.send s cd p x y).rest :)
@[simp] theorem meshSend_heldBy (s : State) (cd : Nat) (p : MeshPacket) (x y : MeshEnd) : (s.meshSend cd p x y).heldBy = s.heldBy := (congrArg State.heldBy (MeshOnly.send s cd p x y).rest :)
@[simp] theorem meshSend_ves (s : State) (cd : Nat) (p : MeshPacket) (x y : MeshEnd) : (s.meshSend cd p x y).ves = s.ves := (congrArg State.ves (MeshOnly.send s cd p x y).rest :)
@[simp] theorem meshSend_vreg (s : State) (cd : Nat) (p : MeshPacket) (x y : MeshEnd) : (s.meshSend cd p x y).vreg = s.vreg := (congrArg State.vreg (MeshOnly.send s cd p x y).rest :)
@[simp] theorem meshSend_vsealed (s : State) (cd : Nat) (p : MeshPacket) (x y : MeshEnd) : (s.meshSend cd p x y).vsealed = s.vsealed := (congrArg State.vsealed (MeshOnly.send s cd p x y).rest :)
@[simp] theorem meshSend_ftab (s : State) (cd : Nat) (p : MeshPacket) (x y : MeshEnd) : (s.meshSend cd p x y).ftab = s.ftab := (congrArg State.ftab (MeshOnly.send s cd p x y).rest :)
@[simp] theorem meshSend_pairEpoch (s : State) (cd : Nat) (p : MeshPacket) (x y : MeshEnd) : (s.meshSend cd p x y).pairEpoch = s.pairEpoch := (congrArg State.pairEpoch (MeshOnly.send s cd p x y).rest :)
@[simp] theorem meshSend_pairSealed (s : State) (cd : Nat) (p : MeshPacket) (x y : MeshEnd) : (s.meshSend cd p x y).pairSealed = s.pairSealed := (congrArg State.pairSealed (MeshOnly.send s cd p x y).rest :)
@[simp] theorem meshSend_ses (s : State) (cd : Nat) (p : MeshPacket) (x y : MeshEnd) : (s.meshSend cd p x y).ses = s.ses := (congrArg State.ses (MeshOnly.send s cd p x y).rest :)
@[simp] theorem meshSend_streams (s : State) (cd : Nat) (p : MeshPacket) (x y : MeshEnd) : (s.meshSend cd p x y).streams = s.streams := (congrArg State.streams (MeshOnly.send s cd p x y).rest :)
@[simp] theorem meshSend_poolMoved (s : State) (cd : Nat) (p : MeshPacket) (x y : MeshEnd) : (s.meshSend cd p x y).poolMoved = s.poolMoved := (congrArg State.poolMoved (MeshOnly.send s cd p x y).rest :)
@[simp] theorem meshSend_poolTold (s : State) (cd : Nat) (p : MeshPacket) (x y : MeshEnd) : (s.meshSend cd p x y).poolTold = s.poolTold := (congrArg State.poolTold (MeshOnly.send s cd p x y).rest :)
@[simp] theorem meshSend_stash (s : State) (cd : Nat) (p : MeshPacket) (x y : MeshEnd) : (s.meshSend cd p x y).stash = s.stash := (congrArg State.stash (MeshOnly.send s cd p x y).rest :)
@[simp] theorem meshSend_groups (s : State) (cd : Nat) (p : MeshPacket) (x y : MeshEnd) : (s.meshSend cd p x y).groups = s.groups := (congrArg State.groups (MeshOnly.send s cd p x y).rest :)
@[simp] theorem meshSend_votes (s : State) (cd : Nat) (p : MeshPacket) (x y : MeshEnd) : (s.meshSend cd p x y).votes = s.votes := (congrArg State.votes (MeshOnly.send s cd p x y).rest :)
@[simp] theorem meshSend_updates (s : State) (cd : Nat) (p : MeshPacket) (x y : MeshEnd) : (s.meshSend cd p x y).updates = s.updates := (congrArg State.updates (MeshOnly.send s cd p x y).rest :)
@[simp] theorem meshSend_awaiting (s : State) (cd : Nat) (p : MeshPacket) (x y : MeshEnd) : (s.meshSend cd p x y).awaiting = s.awaiting := (congrArg State.awaiting (MeshOnly.send s cd p x y).rest :)
@[simp] theorem meshSend_torn (s : State) (cd : Nat) (p : MeshPacket) (x y : MeshEnd) : (s.meshSend cd p x y).torn = s.torn := (congrArg State.torn (MeshOnly.send s cd p x y).rest :)
@[simp] theorem meshSend_gathers (s : State) (cd : Nat) (p : MeshPacket) (x y : MeshEnd) : (s.meshSend cd p x y).gathers = s.gathers := (congrArg State.gathers (MeshOnly.send s cd p x y).rest :)
@[simp] theorem meshSend_ports (s : State) (cd : Nat) (p : MeshPacket) (x y : MeshEnd) : (s.meshSend cd p x y).ports = s.ports := (congrArg State.ports (MeshOnly.send s cd p x y).rest :)
@[simp] theorem meshSend_held (s : State) (cd : Nat) (p : MeshPacket) (x y : MeshEnd) : (s.meshSend cd p x y).held = s.held := (congrArg State.held (MeshOnly.send s cd p x y).rest :)
@[simp] theorem meshSend_inbox (s : State) (cd : Nat) (p : MeshPacket) (x y : MeshEnd) : (s.meshSend cd p x y).inbox = s.inbox := (congrArg State.inbox (MeshOnly.send s cd p x y).rest :)
@[simp] theorem meshSend_recIn (s : State) (cd : Nat) (p : MeshPacket) (x y : MeshEnd) : (s.meshSend cd p x y).recIn = s.recIn := (congrArg State.recIn (MeshOnly.send s cd p x y).rest :)
@[simp] theorem meshSend_aliveAt (s : State) (cd : Nat) (p : MeshPacket) (x y : MeshEnd) : (s.meshSend cd p x y).aliveAt = s.aliveAt := (congrArg State.aliveAt (MeshOnly.send s cd p x y).rest :)
@[simp] theorem meshSend_hbAllowed (s : State) (cd : Nat) (p : MeshPacket) (x y : MeshEnd) : (s.meshSend cd p x y).hbAllowed = s.hbAllowed := (congrArg State.hbAllowed (MeshOnly.send s cd p x y).rest :)
@[simp] theorem meshSend_unfit (s : State) (cd : Nat) (p : MeshPacket) (x y : MeshEnd) : (s.meshSend cd p x y).unfit = s.unfit := (congrArg State.unfit (MeshOnly.send s cd p x y).rest :)
@[simp] theorem meshSend_colls (s : State) (cd : Nat) (p : MeshPacket) (x y : MeshEnd) : (s.meshSend cd p x y).colls = s.colls := (congrArg State.colls (MeshOnly.send s cd p x y).rest :)
@[simp] theorem meshSend_insts (s : State) (cd : Nat) (p : MeshPacket) (x y : MeshEnd) : (s.meshSend cd p x y).insts = s.insts := (congrArg State.insts (MeshOnly.send s cd p x y).rest :)
@[simp] theorem meshSend_landed (s : State) (cd : Nat) (p : MeshPacket) (x y : MeshEnd) : (s.meshSend cd p x y).landed = s.landed := (congrArg State.landed (MeshOnly.send s cd p x y).rest :)
@[simp] theorem meshSend_reGen (s : State) (cd : Nat) (p : MeshPacket) (x y : MeshEnd) : (s.meshSend cd p x y).reGen = s.reGen := (congrArg State.reGen (MeshOnly.send s cd p x y).rest :)
@[simp] theorem meshSend_policy (s : State) (cd : Nat) (p : MeshPacket) (x y : MeshEnd) : (s.meshSend cd p x y).policy = s.policy := (congrArg State.policy (MeshOnly.send s cd p x y).rest :)
@[simp] theorem meshSend_rates (s : State) (cd : Nat) (p : MeshPacket) (x y : MeshEnd) : (s.meshSend cd p x y).rates = s.rates := (congrArg State.rates (MeshOnly.send s cd p x y).rest :)
@[simp] theorem meshSend_rateAt (s : State) (cd : Nat) (p : MeshPacket) (x y : MeshEnd) : (s.meshSend cd p x y).rateAt = s.rateAt := (congrArg State.rateAt (MeshOnly.send s cd p x y).rest :)
@[simp] theorem meshSend_polHash (s : State) (cd : Nat) (p : MeshPacket) (x y : MeshEnd) : (s.meshSend cd p x y).polHash = s.polHash := (congrArg State.polHash (MeshOnly.send s cd p x y).rest :)
@[simp] theorem meshSend_polFloor (s : State) (cd : Nat) (p : MeshPacket) (x y : MeshEnd) : (s.meshSend cd p x y).polFloor = s.polFloor := (congrArg State.polFloor (MeshOnly.send s cd p x y).rest :)
@[simp] theorem meshSend_quoting (s : State) (cd : Nat) (p : MeshPacket) (x y : MeshEnd) : (s.meshSend cd p x y).quoting = s.quoting := (congrArg State.quoting (MeshOnly.send s cd p x y).rest :)
@[simp] theorem meshSend_releases (s : State) (cd : Nat) (p : MeshPacket) (x y : MeshEnd) : (s.meshSend cd p x y).releases = s.releases := (congrArg State.releases (MeshOnly.send s cd p x y).rest :)
@[simp] theorem meshSend_relLog (s : State) (cd : Nat) (p : MeshPacket) (x y : MeshEnd) : (s.meshSend cd p x y).relLog = s.relLog := (congrArg State.relLog (MeshOnly.send s cd p x y).rest :)
@[simp] theorem meshSend_relAck (s : State) (cd : Nat) (p : MeshPacket) (x y : MeshEnd) : (s.meshSend cd p x y).relAck = s.relAck := (congrArg State.relAck (MeshOnly.send s cd p x y).rest :)
@[simp] theorem meshSend_clocks (s : State) (cd : Nat) (p : MeshPacket) (x y : MeshEnd) : (s.meshSend cd p x y).clocks = s.clocks := (congrArg State.clocks (MeshOnly.send s cd p x y).rest :)
@[simp] theorem meshSend_snaps (s : State) (cd : Nat) (p : MeshPacket) (x y : MeshEnd) : (s.meshSend cd p x y).snaps = s.snaps := (congrArg State.snaps (MeshOnly.send s cd p x y).rest :)
@[simp] theorem meshSend_flash (s : State) (cd : Nat) (p : MeshPacket) (x y : MeshEnd) : (s.meshSend cd p x y).flash = s.flash := (congrArg State.flash (MeshOnly.send s cd p x y).rest :)
@[simp] theorem meshSend_mirrors (s : State) (cd : Nat) (p : MeshPacket) (x y : MeshEnd) : (s.meshSend cd p x y).mirrors = s.mirrors := (congrArg State.mirrors (MeshOnly.send s cd p x y).rest :)
@[simp] theorem meshSend_claims (s : State) (cd : Nat) (p : MeshPacket) (x y : MeshEnd) : (s.meshSend cd p x y).claims = s.claims := (congrArg State.claims (MeshOnly.send s cd p x y).rest :)
@[simp] theorem meshSend_lost (s : State) (cd : Nat) (p : MeshPacket) (x y : MeshEnd) : (s.meshSend cd p x y).lost = s.lost := (congrArg State.lost (MeshOnly.send s cd p x y).rest :)
@[simp] theorem meshSend_quiet (s : State) (cd : Nat) (p : MeshPacket) (x y : MeshEnd) : (s.meshSend cd p x y).quiet = s.quiet := (congrArg State.quiet (MeshOnly.send s cd p x y).rest :)
@[simp] theorem meshSend_recovering (s : State) (cd : Nat) (p : MeshPacket) (x y : MeshEnd) : (s.meshSend cd p x y).recovering = s.recovering := (congrArg State.recovering (MeshOnly.send s cd p x y).rest :)
@[simp] theorem meshSend_origin (s : State) (cd : Nat) (p : MeshPacket) (x y : MeshEnd) : (s.meshSend cd p x y).origin = s.origin := (congrArg State.origin (MeshOnly.send s cd p x y).rest :)
@[simp] theorem meshSend_restores (s : State) (cd : Nat) (p : MeshPacket) (x y : MeshEnd) : (s.meshSend cd p x y).restores = s.restores := (congrArg State.restores (MeshOnly.send s cd p x y).rest :)
@[simp] theorem meshSend_resumed (s : State) (cd : Nat) (p : MeshPacket) (x y : MeshEnd) : (s.meshSend cd p x y).resumed = s.resumed := (congrArg State.resumed (MeshOnly.send s cd p x y).rest :)
@[simp] theorem meshSend_swung (s : State) (cd : Nat) (p : MeshPacket) (x y : MeshEnd) : (s.meshSend cd p x y).swung = s.swung := (congrArg State.swung (MeshOnly.send s cd p x y).rest :)
@[simp] theorem meshSend_handback (s : State) (cd : Nat) (p : MeshPacket) (x y : MeshEnd) : (s.meshSend cd p x y).handback = s.handback := (congrArg State.handback (MeshOnly.send s cd p x y).rest :)
@[simp] theorem meshSend_recFills (s : State) (cd : Nat) (p : MeshPacket) (x y : MeshEnd) : (s.meshSend cd p x y).recFills = s.recFills := (congrArg State.recFills (MeshOnly.send s cd p x y).rest :)
@[simp] theorem meshSend_fillReqs (s : State) (cd : Nat) (p : MeshPacket) (x y : MeshEnd) : (s.meshSend cd p x y).fillReqs = s.fillReqs := (congrArg State.fillReqs (MeshOnly.send s cd p x y).rest :)
@[simp] theorem meshSend_digests (s : State) (cd : Nat) (p : MeshPacket) (x y : MeshEnd) : (s.meshSend cd p x y).digests = s.digests := (congrArg State.digests (MeshOnly.send s cd p x y).rest :)
@[simp] theorem meshSend_events (s : State) (cd : Nat) (p : MeshPacket) (x y : MeshEnd) : (s.meshSend cd p x y).events = s.events := (congrArg State.events (MeshOnly.send s cd p x y).rest :)
@[simp] theorem meshSend_staged (s : State) (cd : Nat) (p : MeshPacket) (x y : MeshEnd) : (s.meshSend cd p x y).staged = s.staged := (congrArg State.staged (MeshOnly.send s cd p x y).rest :)
@[simp] theorem meshSend_evLog (s : State) (cd : Nat) (p : MeshPacket) (x y : MeshEnd) : (s.meshSend cd p x y).evLog = s.evLog := (congrArg State.evLog (MeshOnly.send s cd p x y).rest :)
@[simp] theorem meshSend_flushN (s : State) (cd : Nat) (p : MeshPacket) (x y : MeshEnd) : (s.meshSend cd p x y).flushN = s.flushN := (congrArg State.flushN (MeshOnly.send s cd p x y).rest :)
@[simp] theorem meshSend_flushDue (s : State) (cd : Nat) (p : MeshPacket) (x y : MeshEnd) : (s.meshSend cd p x y).flushDue = s.flushDue := (congrArg State.flushDue (MeshOnly.send s cd p x y).rest :)
@[simp] theorem meshSend_buckets (s : State) (cd : Nat) (p : MeshPacket) (x y : MeshEnd) : (s.meshSend cd p x y).buckets = s.buckets := (congrArg State.buckets (MeshOnly.send s cd p x y).rest :)
@[simp] theorem meshSend_out (s : State) (cd : Nat) (p : MeshPacket) (x y : MeshEnd) : (s.meshSend cd p x y).out = s.out := (congrArg State.out (MeshOnly.send s cd p x y).rest :)
@[simp] theorem meshSend_resp (s : State) (cd : Nat) (p : MeshPacket) (x y : MeshEnd) : (s.meshSend cd p x y).resp = s.resp := (congrArg State.resp (MeshOnly.send s cd p x y).rest :)
@[simp] theorem meshSend_irq (s : State) (cd : Nat) (p : MeshPacket) (x y : MeshEnd) : (s.meshSend cd p x y).irq = s.irq := (congrArg State.irq (MeshOnly.send s cd p x y).rest :)
@[simp] theorem meshSend_notices (s : State) (cd : Nat) (p : MeshPacket) (x y : MeshEnd) : (s.meshSend cd p x y).notices = s.notices := (congrArg State.notices (MeshOnly.send s cd p x y).rest :)
@[simp] theorem meshSend_fresh (s : State) (cd : Nat) (p : MeshPacket) (x y : MeshEnd) : (s.meshSend cd p x y).fresh = s.fresh := (congrArg State.fresh (MeshOnly.send s cd p x y).rest :)
@[simp] theorem meshSend_replies (s : State) (cd : Nat) (p : MeshPacket) (x y : MeshEnd) : (s.meshSend cd p x y).replies = s.replies := (congrArg State.replies (MeshOnly.send s cd p x y).rest :)
@[simp] theorem meshSend_cplOwed (s : State) (cd : Nat) (p : MeshPacket) (x y : MeshEnd) : (s.meshSend cd p x y).cplOwed = s.cplOwed := (congrArg State.cplOwed (MeshOnly.send s cd p x y).rest :)
@[simp] theorem meshSend_now (s : State) (cd : Nat) (p : MeshPacket) (x y : MeshEnd) : (s.meshSend cd p x y).now = s.now := (congrArg State.now (MeshOnly.send s cd p x y).rest :)
@[simp] theorem meshSend_caps (s : State) (cd : Nat) (p : MeshPacket) (x y : MeshEnd) : (s.meshSend cd p x y).caps = s.caps := (congrArg State.caps (MeshOnly.send s cd p x y).rest :)
@[simp] theorem meshSend_sensors (s : State) (cd : Nat) (p : MeshPacket) (x y : MeshEnd) : (s.meshSend cd p x y).sensors = s.sensors := (congrArg State.sensors (MeshOnly.send s cd p x y).rest :)
@[simp] theorem meshSend_powerRun (s : State) (cd : Nat) (p : MeshPacket) (x y : MeshEnd) : (s.meshSend cd p x y).powerRun = s.powerRun := (congrArg State.powerRun (MeshOnly.send s cd p x y).rest :)
@[simp] theorem meshSend_powerRamp (s : State) (cd : Nat) (p : MeshPacket) (x y : MeshEnd) : (s.meshSend cd p x y).powerRamp = s.powerRamp := (congrArg State.powerRamp (MeshOnly.send s cd p x y).rest :)
@[simp] theorem meshSend_ramps (s : State) (cd : Nat) (p : MeshPacket) (x y : MeshEnd) : (s.meshSend cd p x y).ramps = s.ramps := (congrArg State.ramps (MeshOnly.send s cd p x y).rest :)
@[simp] theorem meshSend_stages (s : State) (cd : Nat) (p : MeshPacket) (x y : MeshEnd) : (s.meshSend cd p x y).stages = s.stages := (congrArg State.stages (MeshOnly.send s cd p x y).rest :)
@[simp] theorem meshSend_booted (s : State) (cd : Nat) (p : MeshPacket) (x y : MeshEnd) : (s.meshSend cd p x y).booted = s.booted := (congrArg State.booted (MeshOnly.send s cd p x y).rest :)
@[simp] theorem meshSend_bootAt (s : State) (cd : Nat) (p : MeshPacket) (x y : MeshEnd) : (s.meshSend cd p x y).bootAt = s.bootAt := (congrArg State.bootAt (MeshOnly.send s cd p x y).rest :)
@[simp] theorem meshSend_coolWait (s : State) (cd : Nat) (p : MeshPacket) (x y : MeshEnd) : (s.meshSend cd p x y).coolWait = s.coolWait := (congrArg State.coolWait (MeshOnly.send s cd p x y).rest :)
@[simp] theorem meshSend_stage1 (s : State) (cd : Nat) (p : MeshPacket) (x y : MeshEnd) : (s.meshSend cd p x y).stage1 = s.stage1 := (congrArg State.stage1 (MeshOnly.send s cd p x y).rest :)
@[simp] theorem meshSend_selfTests (s : State) (cd : Nat) (p : MeshPacket) (x y : MeshEnd) : (s.meshSend cd p x y).selfTests = s.selfTests := (congrArg State.selfTests (MeshOnly.send s cd p x y).rest :)
@[simp] theorem meshSend_trainings (s : State) (cd : Nat) (p : MeshPacket) (x y : MeshEnd) : (s.meshSend cd p x y).trainings = s.trainings := (congrArg State.trainings (MeshOnly.send s cd p x y).rest :)
@[simp] theorem meshSend_coreMark (s : State) (cd : Nat) (p : MeshPacket) (x y : MeshEnd) : (s.meshSend cd p x y).coreMark = s.coreMark := (congrArg State.coreMark (MeshOnly.send s cd p x y).rest :)
@[simp] theorem meshSend_lateLevel (s : State) (cd : Nat) (p : MeshPacket) (x y : MeshEnd) : (s.meshSend cd p x y).lateLevel = s.lateLevel := (congrArg State.lateLevel (MeshOnly.send s cd p x y).rest :)
@[simp] theorem meshSend_capRaised (s : State) (cd : Nat) (p : MeshPacket) (x y : MeshEnd) : (s.meshSend cd p x y).capRaised = s.capRaised := (congrArg State.capRaised (MeshOnly.send s cd p x y).rest :)
@[simp] theorem meshSend_resetDue (s : State) (cd : Nat) (p : MeshPacket) (x y : MeshEnd) : (s.meshSend cd p x y).resetDue = s.resetDue := (congrArg State.resetDue (MeshOnly.send s cd p x y).rest :)
@[simp] theorem meshSend_fwA (s : State) (cd : Nat) (p : MeshPacket) (x y : MeshEnd) : (s.meshSend cd p x y).fwA = s.fwA := (congrArg State.fwA (MeshOnly.send s cd p x y).rest :)
@[simp] theorem meshSend_fwB (s : State) (cd : Nat) (p : MeshPacket) (x y : MeshEnd) : (s.meshSend cd p x y).fwB = s.fwB := (congrArg State.fwB (MeshOnly.send s cd p x y).rest :)
@[simp] theorem meshSend_fwRuns (s : State) (cd : Nat) (p : MeshPacket) (x y : MeshEnd) : (s.meshSend cd p x y).fwRuns = s.fwRuns := (congrArg State.fwRuns (MeshOnly.send s cd p x y).rest :)
@[simp] theorem meshSend_fwJob (s : State) (cd : Nat) (p : MeshPacket) (x y : MeshEnd) : (s.meshSend cd p x y).fwJob = s.fwJob := (congrArg State.fwJob (MeshOnly.send s cd p x y).rest :)
@[simp] theorem meshSend_fwTrial (s : State) (cd : Nat) (p : MeshPacket) (x y : MeshEnd) : (s.meshSend cd p x y).fwTrial = s.fwTrial := (congrArg State.fwTrial (MeshOnly.send s cd p x y).rest :)
@[simp] theorem meshSend_supBootAt (s : State) (cd : Nat) (p : MeshPacket) (x y : MeshEnd) : (s.meshSend cd p x y).supBootAt = s.supBootAt := (congrArg State.supBootAt (MeshOnly.send s cd p x y).rest :)
@[simp] theorem meshSend_wdogAt (s : State) (cd : Nat) (p : MeshPacket) (x y : MeshEnd) : (s.meshSend cd p x y).wdogAt = s.wdogAt := (congrArg State.wdogAt (MeshOnly.send s cd p x y).rest :)
@[simp] theorem meshSend_wdogNmi (s : State) (cd : Nat) (p : MeshPacket) (x y : MeshEnd) : (s.meshSend cd p x y).wdogNmi = s.wdogNmi := (congrArg State.wdogNmi (MeshOnly.send s cd p x y).rest :)
@[simp] theorem meshSend_record (s : State) (cd : Nat) (p : MeshPacket) (x y : MeshEnd) : (s.meshSend cd p x y).record = s.record := (congrArg State.record (MeshOnly.send s cd p x y).rest :)
@[simp] theorem meshSend_recordSigned (s : State) (cd : Nat) (p : MeshPacket) (x y : MeshEnd) : (s.meshSend cd p x y).recordSigned = s.recordSigned := (congrArg State.recordSigned (MeshOnly.send s cd p x y).rest :)
@[simp] theorem meshSend_recordKeys (s : State) (cd : Nat) (p : MeshPacket) (x y : MeshEnd) : (s.meshSend cd p x y).recordKeys = s.recordKeys := (congrArg State.recordKeys (MeshOnly.send s cd p x y).rest :)
@[simp] theorem meshSend_mgmtUp (s : State) (cd : Nat) (p : MeshPacket) (x y : MeshEnd) : (s.meshSend cd p x y).mgmtUp = s.mgmtUp := (congrArg State.mgmtUp (MeshOnly.send s cd p x y).rest :)
@[simp] theorem meshSend_cmdRuns (s : State) (cd : Nat) (p : MeshPacket) (x y : MeshEnd) : (s.meshSend cd p x y).cmdRuns = s.cmdRuns := (congrArg State.cmdRuns (MeshOnly.send s cd p x y).rest :)
@[simp] theorem meshSend_keptReplies (s : State) (cd : Nat) (p : MeshPacket) (x y : MeshEnd) : (s.meshSend cd p x y).keptReplies = s.keptReplies := (congrArg State.keptReplies (MeshOnly.send s cd p x y).rest :)
@[simp] theorem meshSend_windows (s : State) (cd : Nat) (p : MeshPacket) (x y : MeshEnd) : (s.meshSend cd p x y).windows = s.windows := (congrArg State.windows (MeshOnly.send s cd p x y).rest :)
@[simp] theorem meshSend_qSkip (s : State) (cd : Nat) (p : MeshPacket) (x y : MeshEnd) : (s.meshSend cd p x y).qSkip = s.qSkip := (congrArg State.qSkip (MeshOnly.send s cd p x y).rest :)
@[simp] theorem meshSend_pending (s : State) (cd : Nat) (p : MeshPacket) (x y : MeshEnd) : (s.meshSend cd p x y).pending = s.pending := (congrArg State.pending (MeshOnly.send s cd p x y).rest :)
@[simp] theorem fld_meshRead (s : State) (cd : Nat) (x : MeshEnd) (a : Nat) {G : Fld} (d u i : Nat) (hF : G ≠ .MESH_CNT_FLITS_COUNT) (hP : G ≠ .MESH_PEAK_PEAK) :
    (s.meshRead cd x a).fld G d u i = s.fld G d u i := (MeshOnly.read ..).fld G d u i hF hP
@[simp] theorem meshRead_b0 (s : State) (cd : Nat) (x : MeshEnd) (a : Nat) : (s.meshRead cd x a).b0 = s.b0 := (congrArg State.b0 (MeshOnly.read s cd x a).rest :)
@[simp] theorem meshRead_mem (s : State) (cd : Nat) (x : MeshEnd) (a : Nat) : (s.meshRead cd x a).mem = s.mem := (congrArg State.mem (MeshOnly.read s cd x a).rest :)
@[simp] theorem meshRead_side (s : State) (cd : Nat) (x : MeshEnd) (a : Nat) : (s.meshRead cd x a).side = s.side := (congrArg State.side (MeshOnly.read s cd x a).rest :)
@[simp] theorem meshRead_frames (s : State) (cd : Nat) (x : MeshEnd) (a : Nat) : (s.meshRead cd x a).frames = s.frames := (congrArg State.frames (MeshOnly.read s cd x a).rest :)
@[simp] theorem meshRead_blocks (s : State) (cd : Nat) (x : MeshEnd) (a : Nat) : (s.meshRead cd x a).blocks = s.blocks := (congrArg State.blocks (MeshOnly.read s cd x a).rest :)
@[simp] theorem meshRead_hcLines (s : State) (cd : Nat) (x : MeshEnd) (a : Nat) : (s.meshRead cd x a).hcLines = s.hcLines := (congrArg State.hcLines (MeshOnly.read s cd x a).rest :)
@[simp] theorem meshRead_hcClock (s : State) (cd : Nat) (x : MeshEnd) (a : Nat) : (s.meshRead cd x a).hcClock = s.hcClock := (congrArg State.hcClock (MeshOnly.read s cd x a).rest :)
@[simp] theorem meshRead_merges (s : State) (cd : Nat) (x : MeshEnd) (a : Nat) : (s.meshRead cd x a).merges = s.merges := (congrArg State.merges (MeshOnly.read s cd x a).rest :)
@[simp] theorem meshRead_memWait (s : State) (cd : Nat) (x : MeshEnd) (a : Nat) : (s.meshRead cd x a).memWait = s.memWait := (congrArg State.memWait (MeshOnly.read s cd x a).rest :)
@[simp] theorem meshRead_zeroBatch (s : State) (cd : Nat) (x : MeshEnd) (a : Nat) : (s.meshRead cd x a).zeroBatch = s.zeroBatch := (congrArg State.zeroBatch (MeshOnly.read s cd x a).rest :)
@[simp] theorem meshRead_scrubs (s : State) (cd : Nat) (x : MeshEnd) (a : Nat) : (s.meshRead cd x a).scrubs = s.scrubs := (congrArg State.scrubs (MeshOnly.read s cd x a).rest :)
@[simp] theorem meshRead_logTold (s : State) (cd : Nat) (x : MeshEnd) (a : Nat) : (s.meshRead cd x a).logTold = s.logTold := (congrArg State.logTold (MeshOnly.read s cd x a).rest :)
@[simp] theorem meshRead_arrays (s : State) (cd : Nat) (x : MeshEnd) (a : Nat) : (s.meshRead cd x a).arrays = s.arrays := (congrArg State.arrays (MeshOnly.read s cd x a).rest :)
@[simp] theorem meshRead_acbSeed (s : State) (cd : Nat) (x : MeshEnd) (a : Nat) : (s.meshRead cd x a).acbSeed = s.acbSeed := (congrArg State.acbSeed (MeshOnly.read s cd x a).rest :)
@[simp] theorem meshRead_acbAge (s : State) (cd : Nat) (x : MeshEnd) (a : Nat) : (s.meshRead cd x a).acbAge = s.acbAge := (congrArg State.acbAge (MeshOnly.read s cd x a).rest :)
@[simp] theorem meshRead_regions (s : State) (cd : Nat) (x : MeshEnd) (a : Nat) : (s.meshRead cd x a).regions = s.regions := (congrArg State.regions (MeshOnly.read s cd x a).rest :)
@[simp] theorem meshRead_bobbins (s : State) (cd : Nat) (x : MeshEnd) (a : Nat) : (s.meshRead cd x a).bobbins = s.bobbins := (congrArg State.bobbins (MeshOnly.read s cd x a).rest :)
@[simp] theorem meshRead_fills (s : State) (cd : Nat) (x : MeshEnd) (a : Nat) : (s.meshRead cd x a).fills = s.fills := (congrArg State.fills (MeshOnly.read s cd x a).rest :)
@[simp] theorem meshRead_earlyRead (s : State) (cd : Nat) (x : MeshEnd) (a : Nat) : (s.meshRead cd x a).earlyRead = s.earlyRead := (congrArg State.earlyRead (MeshOnly.read s cd x a).rest :)
@[simp] theorem meshRead_tile (s : State) (cd : Nat) (x : MeshEnd) (a : Nat) : (s.meshRead cd x a).tile = s.tile := (congrArg State.tile (MeshOnly.read s cd x a).rest :)
@[simp] theorem meshRead_tileTag (s : State) (cd : Nat) (x : MeshEnd) (a : Nat) : (s.meshRead cd x a).tileTag = s.tileTag := (congrArg State.tileTag (MeshOnly.read s cd x a).rest :)
@[simp] theorem meshRead_tileErr (s : State) (cd : Nat) (x : MeshEnd) (a : Nat) : (s.meshRead cd x a).tileErr = s.tileErr := (congrArg State.tileErr (MeshOnly.read s cd x a).rest :)
@[simp] theorem meshRead_uses (s : State) (cd : Nat) (x : MeshEnd) (a : Nat) : (s.meshRead cd x a).uses = s.uses := (congrArg State.uses (MeshOnly.read s cd x a).rest :)
@[simp] theorem meshRead_useCount (s : State) (cd : Nat) (x : MeshEnd) (a : Nat) : (s.meshRead cd x a).useCount = s.useCount := (congrArg State.useCount (MeshOnly.read s cd x a).rest :)
@[simp] theorem meshRead_stations (s : State) (cd : Nat) (x : MeshEnd) (a : Nat) : (s.meshRead cd x a).stations = s.stations := (congrArg State.stations (MeshOnly.read s cd x a).rest :)
@[simp] theorem meshRead_gateways (s : State) (cd : Nat) (x : MeshEnd) (a : Nat) : (s.meshRead cd x a).gateways = s.gateways := (congrArg State.gateways (MeshOnly.read s cd x a).rest :)
@[simp] theorem meshRead_rings (s : State) (cd : Nat) (x : MeshEnd) (a : Nat) : (s.meshRead cd x a).rings = s.rings := (congrArg State.rings (MeshOnly.read s cd x a).rest :)
@[simp] theorem meshRead_carBeat (s : State) (cd : Nat) (x : MeshEnd) (a : Nat) : (s.meshRead cd x a).carBeat = s.carBeat := (congrArg State.carBeat (MeshOnly.read s cd x a).rest :)
@[simp] theorem meshRead_halves (s : State) (cd : Nat) (x : MeshEnd) (a : Nat) : (s.meshRead cd x a).halves = s.halves := (congrArg State.halves (MeshOnly.read s cd x a).rest :)
@[simp] theorem meshRead_injBeat (s : State) (cd : Nat) (x : MeshEnd) (a : Nat) : (s.meshRead cd x a).injBeat = s.injBeat := (congrArg State.injBeat (MeshOnly.read s cd x a).rest :)
@[simp] theorem meshRead_ctxs (s : State) (cd : Nat) (x : MeshEnd) (a : Nat) : (s.meshRead cd x a).ctxs = s.ctxs := (congrArg State.ctxs (MeshOnly.read s cd x a).rest :)
@[simp] theorem meshRead_sregs (s : State) (cd : Nat) (x : MeshEnd) (a : Nat) : (s.meshRead cd x a).sregs = s.sregs := (congrArg State.sregs (MeshOnly.read s cd x a).rest :)
@[simp] theorem meshRead_cnts (s : State) (cd : Nat) (x : MeshEnd) (a : Nat) : (s.meshRead cd x a).cnts = s.cnts := (congrArg State.cnts (MeshOnly.read s cd x a).rest :)
@[simp] theorem meshRead_syncs (s : State) (cd : Nat) (x : MeshEnd) (a : Nat) : (s.meshRead cd x a).syncs = s.syncs := (congrArg State.syncs (MeshOnly.read s cd x a).rest :)
@[simp] theorem meshRead_beat (s : State) (cd : Nat) (x : MeshEnd) (a : Nat) : (s.meshRead cd x a).beat = s.beat := (congrArg State.beat (MeshOnly.read s cd x a).rest :)
@[simp] theorem meshRead_busyAt (s : State) (cd : Nat) (x : MeshEnd) (a : Nat) : (s.meshRead cd x a).busyAt = s.busyAt := (congrArg State.busyAt (MeshOnly.read s cd x a).rest :)
@[simp] theorem meshRead_tktWait (s : State) (cd : Nat) (x : MeshEnd) (a : Nat) : (s.meshRead cd x a).tktWait = s.tktWait := (congrArg State.tktWait (MeshOnly.read s cd x a).rest :)
@[simp] theorem meshRead_lastRan (s : State) (cd : Nat) (x : MeshEnd) (a : Nat) : (s.meshRead cd x a).lastRan = s.lastRan := (congrArg State.lastRan (MeshOnly.read s cd x a).rest :)
@[simp] theorem meshRead_pend (s : State) (cd : Nat) (x : MeshEnd) (a : Nat) : (s.meshRead cd x a).pend = s.pend := (congrArg State.pend (MeshOnly.read s cd x a).rest :)
@[simp] theorem meshRead_patterns (s : State) (cd : Nat) (x : MeshEnd) (a : Nat) : (s.meshRead cd x a).patterns = s.patterns := (congrArg State.patterns (MeshOnly.read s cd x a).rest :)
@[simp] theorem meshRead_patLoaded (s : State) (cd : Nat) (x : MeshEnd) (a : Nat) : (s.meshRead cd x a).patLoaded = s.patLoaded := (congrArg State.patLoaded (MeshOnly.read s cd x a).rest :)
@[simp] theorem meshRead_code (s : State) (cd : Nat) (x : MeshEnd) (a : Nat) : (s.meshRead cd x a).code = s.code := (congrArg State.code (MeshOnly.read s cd x a).rest :)
@[simp] theorem meshRead_konst (s : State) (cd : Nat) (x : MeshEnd) (a : Nat) : (s.meshRead cd x a).konst = s.konst := (congrArg State.konst (MeshOnly.read s cd x a).rest :)
@[simp] theorem meshRead_charges (s : State) (cd : Nat) (x : MeshEnd) (a : Nat) : (s.meshRead cd x a).charges = s.charges := (congrArg State.charges (MeshOnly.read s cd x a).rest :)
@[simp] theorem meshRead_slotPause (s : State) (cd : Nat) (x : MeshEnd) (a : Nat) : (s.meshRead cd x a).slotPause = s.slotPause := (congrArg State.slotPause (MeshOnly.read s cd x a).rest :)
@[simp] theorem meshRead_yieldAt (s : State) (cd : Nat) (x : MeshEnd) (a : Nat) : (s.meshRead cd x a).yieldAt = s.yieldAt := (congrArg State.yieldAt (MeshOnly.read s cd x a).rest :)
@[simp] theorem meshRead_yieldHold (s : State) (cd : Nat) (x : MeshEnd) (a : Nat) : (s.meshRead cd x a).yieldHold = s.yieldHold := (congrArg State.yieldHold (MeshOnly.read s cd x a).rest :)
@[simp] theorem meshRead_heldBy (s : State) (cd : Nat) (x : MeshEnd) (a : Nat) : (s.meshRead cd x a).heldBy = s.heldBy := (congrArg State.heldBy (MeshOnly.read s cd x a).rest :)
@[simp] theorem meshRead_ves (s : State) (cd : Nat) (x : MeshEnd) (a : Nat) : (s.meshRead cd x a).ves = s.ves := (congrArg State.ves (MeshOnly.read s cd x a).rest :)
@[simp] theorem meshRead_vreg (s : State) (cd : Nat) (x : MeshEnd) (a : Nat) : (s.meshRead cd x a).vreg = s.vreg := (congrArg State.vreg (MeshOnly.read s cd x a).rest :)
@[simp] theorem meshRead_vsealed (s : State) (cd : Nat) (x : MeshEnd) (a : Nat) : (s.meshRead cd x a).vsealed = s.vsealed := (congrArg State.vsealed (MeshOnly.read s cd x a).rest :)
@[simp] theorem meshRead_ftab (s : State) (cd : Nat) (x : MeshEnd) (a : Nat) : (s.meshRead cd x a).ftab = s.ftab := (congrArg State.ftab (MeshOnly.read s cd x a).rest :)
@[simp] theorem meshRead_pairEpoch (s : State) (cd : Nat) (x : MeshEnd) (a : Nat) : (s.meshRead cd x a).pairEpoch = s.pairEpoch := (congrArg State.pairEpoch (MeshOnly.read s cd x a).rest :)
@[simp] theorem meshRead_pairSealed (s : State) (cd : Nat) (x : MeshEnd) (a : Nat) : (s.meshRead cd x a).pairSealed = s.pairSealed := (congrArg State.pairSealed (MeshOnly.read s cd x a).rest :)
@[simp] theorem meshRead_ses (s : State) (cd : Nat) (x : MeshEnd) (a : Nat) : (s.meshRead cd x a).ses = s.ses := (congrArg State.ses (MeshOnly.read s cd x a).rest :)
@[simp] theorem meshRead_streams (s : State) (cd : Nat) (x : MeshEnd) (a : Nat) : (s.meshRead cd x a).streams = s.streams := (congrArg State.streams (MeshOnly.read s cd x a).rest :)
@[simp] theorem meshRead_poolMoved (s : State) (cd : Nat) (x : MeshEnd) (a : Nat) : (s.meshRead cd x a).poolMoved = s.poolMoved := (congrArg State.poolMoved (MeshOnly.read s cd x a).rest :)
@[simp] theorem meshRead_poolTold (s : State) (cd : Nat) (x : MeshEnd) (a : Nat) : (s.meshRead cd x a).poolTold = s.poolTold := (congrArg State.poolTold (MeshOnly.read s cd x a).rest :)
@[simp] theorem meshRead_stash (s : State) (cd : Nat) (x : MeshEnd) (a : Nat) : (s.meshRead cd x a).stash = s.stash := (congrArg State.stash (MeshOnly.read s cd x a).rest :)
@[simp] theorem meshRead_groups (s : State) (cd : Nat) (x : MeshEnd) (a : Nat) : (s.meshRead cd x a).groups = s.groups := (congrArg State.groups (MeshOnly.read s cd x a).rest :)
@[simp] theorem meshRead_votes (s : State) (cd : Nat) (x : MeshEnd) (a : Nat) : (s.meshRead cd x a).votes = s.votes := (congrArg State.votes (MeshOnly.read s cd x a).rest :)
@[simp] theorem meshRead_updates (s : State) (cd : Nat) (x : MeshEnd) (a : Nat) : (s.meshRead cd x a).updates = s.updates := (congrArg State.updates (MeshOnly.read s cd x a).rest :)
@[simp] theorem meshRead_awaiting (s : State) (cd : Nat) (x : MeshEnd) (a : Nat) : (s.meshRead cd x a).awaiting = s.awaiting := (congrArg State.awaiting (MeshOnly.read s cd x a).rest :)
@[simp] theorem meshRead_torn (s : State) (cd : Nat) (x : MeshEnd) (a : Nat) : (s.meshRead cd x a).torn = s.torn := (congrArg State.torn (MeshOnly.read s cd x a).rest :)
@[simp] theorem meshRead_gathers (s : State) (cd : Nat) (x : MeshEnd) (a : Nat) : (s.meshRead cd x a).gathers = s.gathers := (congrArg State.gathers (MeshOnly.read s cd x a).rest :)
@[simp] theorem meshRead_ports (s : State) (cd : Nat) (x : MeshEnd) (a : Nat) : (s.meshRead cd x a).ports = s.ports := (congrArg State.ports (MeshOnly.read s cd x a).rest :)
@[simp] theorem meshRead_held (s : State) (cd : Nat) (x : MeshEnd) (a : Nat) : (s.meshRead cd x a).held = s.held := (congrArg State.held (MeshOnly.read s cd x a).rest :)
@[simp] theorem meshRead_inbox (s : State) (cd : Nat) (x : MeshEnd) (a : Nat) : (s.meshRead cd x a).inbox = s.inbox := (congrArg State.inbox (MeshOnly.read s cd x a).rest :)
@[simp] theorem meshRead_recIn (s : State) (cd : Nat) (x : MeshEnd) (a : Nat) : (s.meshRead cd x a).recIn = s.recIn := (congrArg State.recIn (MeshOnly.read s cd x a).rest :)
@[simp] theorem meshRead_aliveAt (s : State) (cd : Nat) (x : MeshEnd) (a : Nat) : (s.meshRead cd x a).aliveAt = s.aliveAt := (congrArg State.aliveAt (MeshOnly.read s cd x a).rest :)
@[simp] theorem meshRead_hbAllowed (s : State) (cd : Nat) (x : MeshEnd) (a : Nat) : (s.meshRead cd x a).hbAllowed = s.hbAllowed := (congrArg State.hbAllowed (MeshOnly.read s cd x a).rest :)
@[simp] theorem meshRead_unfit (s : State) (cd : Nat) (x : MeshEnd) (a : Nat) : (s.meshRead cd x a).unfit = s.unfit := (congrArg State.unfit (MeshOnly.read s cd x a).rest :)
@[simp] theorem meshRead_colls (s : State) (cd : Nat) (x : MeshEnd) (a : Nat) : (s.meshRead cd x a).colls = s.colls := (congrArg State.colls (MeshOnly.read s cd x a).rest :)
@[simp] theorem meshRead_insts (s : State) (cd : Nat) (x : MeshEnd) (a : Nat) : (s.meshRead cd x a).insts = s.insts := (congrArg State.insts (MeshOnly.read s cd x a).rest :)
@[simp] theorem meshRead_landed (s : State) (cd : Nat) (x : MeshEnd) (a : Nat) : (s.meshRead cd x a).landed = s.landed := (congrArg State.landed (MeshOnly.read s cd x a).rest :)
@[simp] theorem meshRead_reGen (s : State) (cd : Nat) (x : MeshEnd) (a : Nat) : (s.meshRead cd x a).reGen = s.reGen := (congrArg State.reGen (MeshOnly.read s cd x a).rest :)
@[simp] theorem meshRead_policy (s : State) (cd : Nat) (x : MeshEnd) (a : Nat) : (s.meshRead cd x a).policy = s.policy := (congrArg State.policy (MeshOnly.read s cd x a).rest :)
@[simp] theorem meshRead_rates (s : State) (cd : Nat) (x : MeshEnd) (a : Nat) : (s.meshRead cd x a).rates = s.rates := (congrArg State.rates (MeshOnly.read s cd x a).rest :)
@[simp] theorem meshRead_rateAt (s : State) (cd : Nat) (x : MeshEnd) (a : Nat) : (s.meshRead cd x a).rateAt = s.rateAt := (congrArg State.rateAt (MeshOnly.read s cd x a).rest :)
@[simp] theorem meshRead_polHash (s : State) (cd : Nat) (x : MeshEnd) (a : Nat) : (s.meshRead cd x a).polHash = s.polHash := (congrArg State.polHash (MeshOnly.read s cd x a).rest :)
@[simp] theorem meshRead_polFloor (s : State) (cd : Nat) (x : MeshEnd) (a : Nat) : (s.meshRead cd x a).polFloor = s.polFloor := (congrArg State.polFloor (MeshOnly.read s cd x a).rest :)
@[simp] theorem meshRead_quoting (s : State) (cd : Nat) (x : MeshEnd) (a : Nat) : (s.meshRead cd x a).quoting = s.quoting := (congrArg State.quoting (MeshOnly.read s cd x a).rest :)
@[simp] theorem meshRead_releases (s : State) (cd : Nat) (x : MeshEnd) (a : Nat) : (s.meshRead cd x a).releases = s.releases := (congrArg State.releases (MeshOnly.read s cd x a).rest :)
@[simp] theorem meshRead_relLog (s : State) (cd : Nat) (x : MeshEnd) (a : Nat) : (s.meshRead cd x a).relLog = s.relLog := (congrArg State.relLog (MeshOnly.read s cd x a).rest :)
@[simp] theorem meshRead_relAck (s : State) (cd : Nat) (x : MeshEnd) (a : Nat) : (s.meshRead cd x a).relAck = s.relAck := (congrArg State.relAck (MeshOnly.read s cd x a).rest :)
@[simp] theorem meshRead_clocks (s : State) (cd : Nat) (x : MeshEnd) (a : Nat) : (s.meshRead cd x a).clocks = s.clocks := (congrArg State.clocks (MeshOnly.read s cd x a).rest :)
@[simp] theorem meshRead_snaps (s : State) (cd : Nat) (x : MeshEnd) (a : Nat) : (s.meshRead cd x a).snaps = s.snaps := (congrArg State.snaps (MeshOnly.read s cd x a).rest :)
@[simp] theorem meshRead_flash (s : State) (cd : Nat) (x : MeshEnd) (a : Nat) : (s.meshRead cd x a).flash = s.flash := (congrArg State.flash (MeshOnly.read s cd x a).rest :)
@[simp] theorem meshRead_mirrors (s : State) (cd : Nat) (x : MeshEnd) (a : Nat) : (s.meshRead cd x a).mirrors = s.mirrors := (congrArg State.mirrors (MeshOnly.read s cd x a).rest :)
@[simp] theorem meshRead_claims (s : State) (cd : Nat) (x : MeshEnd) (a : Nat) : (s.meshRead cd x a).claims = s.claims := (congrArg State.claims (MeshOnly.read s cd x a).rest :)
@[simp] theorem meshRead_lost (s : State) (cd : Nat) (x : MeshEnd) (a : Nat) : (s.meshRead cd x a).lost = s.lost := (congrArg State.lost (MeshOnly.read s cd x a).rest :)
@[simp] theorem meshRead_quiet (s : State) (cd : Nat) (x : MeshEnd) (a : Nat) : (s.meshRead cd x a).quiet = s.quiet := (congrArg State.quiet (MeshOnly.read s cd x a).rest :)
@[simp] theorem meshRead_recovering (s : State) (cd : Nat) (x : MeshEnd) (a : Nat) : (s.meshRead cd x a).recovering = s.recovering := (congrArg State.recovering (MeshOnly.read s cd x a).rest :)
@[simp] theorem meshRead_origin (s : State) (cd : Nat) (x : MeshEnd) (a : Nat) : (s.meshRead cd x a).origin = s.origin := (congrArg State.origin (MeshOnly.read s cd x a).rest :)
@[simp] theorem meshRead_restores (s : State) (cd : Nat) (x : MeshEnd) (a : Nat) : (s.meshRead cd x a).restores = s.restores := (congrArg State.restores (MeshOnly.read s cd x a).rest :)
@[simp] theorem meshRead_resumed (s : State) (cd : Nat) (x : MeshEnd) (a : Nat) : (s.meshRead cd x a).resumed = s.resumed := (congrArg State.resumed (MeshOnly.read s cd x a).rest :)
@[simp] theorem meshRead_swung (s : State) (cd : Nat) (x : MeshEnd) (a : Nat) : (s.meshRead cd x a).swung = s.swung := (congrArg State.swung (MeshOnly.read s cd x a).rest :)
@[simp] theorem meshRead_handback (s : State) (cd : Nat) (x : MeshEnd) (a : Nat) : (s.meshRead cd x a).handback = s.handback := (congrArg State.handback (MeshOnly.read s cd x a).rest :)
@[simp] theorem meshRead_recFills (s : State) (cd : Nat) (x : MeshEnd) (a : Nat) : (s.meshRead cd x a).recFills = s.recFills := (congrArg State.recFills (MeshOnly.read s cd x a).rest :)
@[simp] theorem meshRead_fillReqs (s : State) (cd : Nat) (x : MeshEnd) (a : Nat) : (s.meshRead cd x a).fillReqs = s.fillReqs := (congrArg State.fillReqs (MeshOnly.read s cd x a).rest :)
@[simp] theorem meshRead_digests (s : State) (cd : Nat) (x : MeshEnd) (a : Nat) : (s.meshRead cd x a).digests = s.digests := (congrArg State.digests (MeshOnly.read s cd x a).rest :)
@[simp] theorem meshRead_events (s : State) (cd : Nat) (x : MeshEnd) (a : Nat) : (s.meshRead cd x a).events = s.events := (congrArg State.events (MeshOnly.read s cd x a).rest :)
@[simp] theorem meshRead_staged (s : State) (cd : Nat) (x : MeshEnd) (a : Nat) : (s.meshRead cd x a).staged = s.staged := (congrArg State.staged (MeshOnly.read s cd x a).rest :)
@[simp] theorem meshRead_evLog (s : State) (cd : Nat) (x : MeshEnd) (a : Nat) : (s.meshRead cd x a).evLog = s.evLog := (congrArg State.evLog (MeshOnly.read s cd x a).rest :)
@[simp] theorem meshRead_flushN (s : State) (cd : Nat) (x : MeshEnd) (a : Nat) : (s.meshRead cd x a).flushN = s.flushN := (congrArg State.flushN (MeshOnly.read s cd x a).rest :)
@[simp] theorem meshRead_flushDue (s : State) (cd : Nat) (x : MeshEnd) (a : Nat) : (s.meshRead cd x a).flushDue = s.flushDue := (congrArg State.flushDue (MeshOnly.read s cd x a).rest :)
@[simp] theorem meshRead_buckets (s : State) (cd : Nat) (x : MeshEnd) (a : Nat) : (s.meshRead cd x a).buckets = s.buckets := (congrArg State.buckets (MeshOnly.read s cd x a).rest :)
@[simp] theorem meshRead_out (s : State) (cd : Nat) (x : MeshEnd) (a : Nat) : (s.meshRead cd x a).out = s.out := (congrArg State.out (MeshOnly.read s cd x a).rest :)
@[simp] theorem meshRead_resp (s : State) (cd : Nat) (x : MeshEnd) (a : Nat) : (s.meshRead cd x a).resp = s.resp := (congrArg State.resp (MeshOnly.read s cd x a).rest :)
@[simp] theorem meshRead_irq (s : State) (cd : Nat) (x : MeshEnd) (a : Nat) : (s.meshRead cd x a).irq = s.irq := (congrArg State.irq (MeshOnly.read s cd x a).rest :)
@[simp] theorem meshRead_notices (s : State) (cd : Nat) (x : MeshEnd) (a : Nat) : (s.meshRead cd x a).notices = s.notices := (congrArg State.notices (MeshOnly.read s cd x a).rest :)
@[simp] theorem meshRead_fresh (s : State) (cd : Nat) (x : MeshEnd) (a : Nat) : (s.meshRead cd x a).fresh = s.fresh := (congrArg State.fresh (MeshOnly.read s cd x a).rest :)
@[simp] theorem meshRead_replies (s : State) (cd : Nat) (x : MeshEnd) (a : Nat) : (s.meshRead cd x a).replies = s.replies := (congrArg State.replies (MeshOnly.read s cd x a).rest :)
@[simp] theorem meshRead_cplOwed (s : State) (cd : Nat) (x : MeshEnd) (a : Nat) : (s.meshRead cd x a).cplOwed = s.cplOwed := (congrArg State.cplOwed (MeshOnly.read s cd x a).rest :)
@[simp] theorem meshRead_now (s : State) (cd : Nat) (x : MeshEnd) (a : Nat) : (s.meshRead cd x a).now = s.now := (congrArg State.now (MeshOnly.read s cd x a).rest :)
@[simp] theorem meshRead_caps (s : State) (cd : Nat) (x : MeshEnd) (a : Nat) : (s.meshRead cd x a).caps = s.caps := (congrArg State.caps (MeshOnly.read s cd x a).rest :)
@[simp] theorem meshRead_sensors (s : State) (cd : Nat) (x : MeshEnd) (a : Nat) : (s.meshRead cd x a).sensors = s.sensors := (congrArg State.sensors (MeshOnly.read s cd x a).rest :)
@[simp] theorem meshRead_powerRun (s : State) (cd : Nat) (x : MeshEnd) (a : Nat) : (s.meshRead cd x a).powerRun = s.powerRun := (congrArg State.powerRun (MeshOnly.read s cd x a).rest :)
@[simp] theorem meshRead_powerRamp (s : State) (cd : Nat) (x : MeshEnd) (a : Nat) : (s.meshRead cd x a).powerRamp = s.powerRamp := (congrArg State.powerRamp (MeshOnly.read s cd x a).rest :)
@[simp] theorem meshRead_ramps (s : State) (cd : Nat) (x : MeshEnd) (a : Nat) : (s.meshRead cd x a).ramps = s.ramps := (congrArg State.ramps (MeshOnly.read s cd x a).rest :)
@[simp] theorem meshRead_stages (s : State) (cd : Nat) (x : MeshEnd) (a : Nat) : (s.meshRead cd x a).stages = s.stages := (congrArg State.stages (MeshOnly.read s cd x a).rest :)
@[simp] theorem meshRead_booted (s : State) (cd : Nat) (x : MeshEnd) (a : Nat) : (s.meshRead cd x a).booted = s.booted := (congrArg State.booted (MeshOnly.read s cd x a).rest :)
@[simp] theorem meshRead_bootAt (s : State) (cd : Nat) (x : MeshEnd) (a : Nat) : (s.meshRead cd x a).bootAt = s.bootAt := (congrArg State.bootAt (MeshOnly.read s cd x a).rest :)
@[simp] theorem meshRead_coolWait (s : State) (cd : Nat) (x : MeshEnd) (a : Nat) : (s.meshRead cd x a).coolWait = s.coolWait := (congrArg State.coolWait (MeshOnly.read s cd x a).rest :)
@[simp] theorem meshRead_stage1 (s : State) (cd : Nat) (x : MeshEnd) (a : Nat) : (s.meshRead cd x a).stage1 = s.stage1 := (congrArg State.stage1 (MeshOnly.read s cd x a).rest :)
@[simp] theorem meshRead_selfTests (s : State) (cd : Nat) (x : MeshEnd) (a : Nat) : (s.meshRead cd x a).selfTests = s.selfTests := (congrArg State.selfTests (MeshOnly.read s cd x a).rest :)
@[simp] theorem meshRead_trainings (s : State) (cd : Nat) (x : MeshEnd) (a : Nat) : (s.meshRead cd x a).trainings = s.trainings := (congrArg State.trainings (MeshOnly.read s cd x a).rest :)
@[simp] theorem meshRead_coreMark (s : State) (cd : Nat) (x : MeshEnd) (a : Nat) : (s.meshRead cd x a).coreMark = s.coreMark := (congrArg State.coreMark (MeshOnly.read s cd x a).rest :)
@[simp] theorem meshRead_lateLevel (s : State) (cd : Nat) (x : MeshEnd) (a : Nat) : (s.meshRead cd x a).lateLevel = s.lateLevel := (congrArg State.lateLevel (MeshOnly.read s cd x a).rest :)
@[simp] theorem meshRead_capRaised (s : State) (cd : Nat) (x : MeshEnd) (a : Nat) : (s.meshRead cd x a).capRaised = s.capRaised := (congrArg State.capRaised (MeshOnly.read s cd x a).rest :)
@[simp] theorem meshRead_resetDue (s : State) (cd : Nat) (x : MeshEnd) (a : Nat) : (s.meshRead cd x a).resetDue = s.resetDue := (congrArg State.resetDue (MeshOnly.read s cd x a).rest :)
@[simp] theorem meshRead_fwA (s : State) (cd : Nat) (x : MeshEnd) (a : Nat) : (s.meshRead cd x a).fwA = s.fwA := (congrArg State.fwA (MeshOnly.read s cd x a).rest :)
@[simp] theorem meshRead_fwB (s : State) (cd : Nat) (x : MeshEnd) (a : Nat) : (s.meshRead cd x a).fwB = s.fwB := (congrArg State.fwB (MeshOnly.read s cd x a).rest :)
@[simp] theorem meshRead_fwRuns (s : State) (cd : Nat) (x : MeshEnd) (a : Nat) : (s.meshRead cd x a).fwRuns = s.fwRuns := (congrArg State.fwRuns (MeshOnly.read s cd x a).rest :)
@[simp] theorem meshRead_fwJob (s : State) (cd : Nat) (x : MeshEnd) (a : Nat) : (s.meshRead cd x a).fwJob = s.fwJob := (congrArg State.fwJob (MeshOnly.read s cd x a).rest :)
@[simp] theorem meshRead_fwTrial (s : State) (cd : Nat) (x : MeshEnd) (a : Nat) : (s.meshRead cd x a).fwTrial = s.fwTrial := (congrArg State.fwTrial (MeshOnly.read s cd x a).rest :)
@[simp] theorem meshRead_supBootAt (s : State) (cd : Nat) (x : MeshEnd) (a : Nat) : (s.meshRead cd x a).supBootAt = s.supBootAt := (congrArg State.supBootAt (MeshOnly.read s cd x a).rest :)
@[simp] theorem meshRead_wdogAt (s : State) (cd : Nat) (x : MeshEnd) (a : Nat) : (s.meshRead cd x a).wdogAt = s.wdogAt := (congrArg State.wdogAt (MeshOnly.read s cd x a).rest :)
@[simp] theorem meshRead_wdogNmi (s : State) (cd : Nat) (x : MeshEnd) (a : Nat) : (s.meshRead cd x a).wdogNmi = s.wdogNmi := (congrArg State.wdogNmi (MeshOnly.read s cd x a).rest :)
@[simp] theorem meshRead_record (s : State) (cd : Nat) (x : MeshEnd) (a : Nat) : (s.meshRead cd x a).record = s.record := (congrArg State.record (MeshOnly.read s cd x a).rest :)
@[simp] theorem meshRead_recordSigned (s : State) (cd : Nat) (x : MeshEnd) (a : Nat) : (s.meshRead cd x a).recordSigned = s.recordSigned := (congrArg State.recordSigned (MeshOnly.read s cd x a).rest :)
@[simp] theorem meshRead_recordKeys (s : State) (cd : Nat) (x : MeshEnd) (a : Nat) : (s.meshRead cd x a).recordKeys = s.recordKeys := (congrArg State.recordKeys (MeshOnly.read s cd x a).rest :)
@[simp] theorem meshRead_mgmtUp (s : State) (cd : Nat) (x : MeshEnd) (a : Nat) : (s.meshRead cd x a).mgmtUp = s.mgmtUp := (congrArg State.mgmtUp (MeshOnly.read s cd x a).rest :)
@[simp] theorem meshRead_cmdRuns (s : State) (cd : Nat) (x : MeshEnd) (a : Nat) : (s.meshRead cd x a).cmdRuns = s.cmdRuns := (congrArg State.cmdRuns (MeshOnly.read s cd x a).rest :)
@[simp] theorem meshRead_keptReplies (s : State) (cd : Nat) (x : MeshEnd) (a : Nat) : (s.meshRead cd x a).keptReplies = s.keptReplies := (congrArg State.keptReplies (MeshOnly.read s cd x a).rest :)
@[simp] theorem meshRead_windows (s : State) (cd : Nat) (x : MeshEnd) (a : Nat) : (s.meshRead cd x a).windows = s.windows := (congrArg State.windows (MeshOnly.read s cd x a).rest :)
@[simp] theorem meshRead_qSkip (s : State) (cd : Nat) (x : MeshEnd) (a : Nat) : (s.meshRead cd x a).qSkip = s.qSkip := (congrArg State.qSkip (MeshOnly.read s cd x a).rest :)
@[simp] theorem meshRead_pending (s : State) (cd : Nat) (x : MeshEnd) (a : Nat) : (s.meshRead cd x a).pending = s.pending := (congrArg State.pending (MeshOnly.read s cd x a).rest :)
@[simp] theorem fld_meshWrite (s : State) (cd : Nat) (x : MeshEnd) (a : Nat) {G : Fld} (d u i : Nat) (hF : G ≠ .MESH_CNT_FLITS_COUNT) (hP : G ≠ .MESH_PEAK_PEAK) :
    (s.meshWrite cd x a).fld G d u i = s.fld G d u i := (MeshOnly.write ..).fld G d u i hF hP
@[simp] theorem meshWrite_b0 (s : State) (cd : Nat) (x : MeshEnd) (a : Nat) : (s.meshWrite cd x a).b0 = s.b0 := (congrArg State.b0 (MeshOnly.write s cd x a).rest :)
@[simp] theorem meshWrite_mem (s : State) (cd : Nat) (x : MeshEnd) (a : Nat) : (s.meshWrite cd x a).mem = s.mem := (congrArg State.mem (MeshOnly.write s cd x a).rest :)
@[simp] theorem meshWrite_side (s : State) (cd : Nat) (x : MeshEnd) (a : Nat) : (s.meshWrite cd x a).side = s.side := (congrArg State.side (MeshOnly.write s cd x a).rest :)
@[simp] theorem meshWrite_frames (s : State) (cd : Nat) (x : MeshEnd) (a : Nat) : (s.meshWrite cd x a).frames = s.frames := (congrArg State.frames (MeshOnly.write s cd x a).rest :)
@[simp] theorem meshWrite_blocks (s : State) (cd : Nat) (x : MeshEnd) (a : Nat) : (s.meshWrite cd x a).blocks = s.blocks := (congrArg State.blocks (MeshOnly.write s cd x a).rest :)
@[simp] theorem meshWrite_hcLines (s : State) (cd : Nat) (x : MeshEnd) (a : Nat) : (s.meshWrite cd x a).hcLines = s.hcLines := (congrArg State.hcLines (MeshOnly.write s cd x a).rest :)
@[simp] theorem meshWrite_hcClock (s : State) (cd : Nat) (x : MeshEnd) (a : Nat) : (s.meshWrite cd x a).hcClock = s.hcClock := (congrArg State.hcClock (MeshOnly.write s cd x a).rest :)
@[simp] theorem meshWrite_merges (s : State) (cd : Nat) (x : MeshEnd) (a : Nat) : (s.meshWrite cd x a).merges = s.merges := (congrArg State.merges (MeshOnly.write s cd x a).rest :)
@[simp] theorem meshWrite_memWait (s : State) (cd : Nat) (x : MeshEnd) (a : Nat) : (s.meshWrite cd x a).memWait = s.memWait := (congrArg State.memWait (MeshOnly.write s cd x a).rest :)
@[simp] theorem meshWrite_zeroBatch (s : State) (cd : Nat) (x : MeshEnd) (a : Nat) : (s.meshWrite cd x a).zeroBatch = s.zeroBatch := (congrArg State.zeroBatch (MeshOnly.write s cd x a).rest :)
@[simp] theorem meshWrite_scrubs (s : State) (cd : Nat) (x : MeshEnd) (a : Nat) : (s.meshWrite cd x a).scrubs = s.scrubs := (congrArg State.scrubs (MeshOnly.write s cd x a).rest :)
@[simp] theorem meshWrite_logTold (s : State) (cd : Nat) (x : MeshEnd) (a : Nat) : (s.meshWrite cd x a).logTold = s.logTold := (congrArg State.logTold (MeshOnly.write s cd x a).rest :)
@[simp] theorem meshWrite_arrays (s : State) (cd : Nat) (x : MeshEnd) (a : Nat) : (s.meshWrite cd x a).arrays = s.arrays := (congrArg State.arrays (MeshOnly.write s cd x a).rest :)
@[simp] theorem meshWrite_acbSeed (s : State) (cd : Nat) (x : MeshEnd) (a : Nat) : (s.meshWrite cd x a).acbSeed = s.acbSeed := (congrArg State.acbSeed (MeshOnly.write s cd x a).rest :)
@[simp] theorem meshWrite_acbAge (s : State) (cd : Nat) (x : MeshEnd) (a : Nat) : (s.meshWrite cd x a).acbAge = s.acbAge := (congrArg State.acbAge (MeshOnly.write s cd x a).rest :)
@[simp] theorem meshWrite_regions (s : State) (cd : Nat) (x : MeshEnd) (a : Nat) : (s.meshWrite cd x a).regions = s.regions := (congrArg State.regions (MeshOnly.write s cd x a).rest :)
@[simp] theorem meshWrite_bobbins (s : State) (cd : Nat) (x : MeshEnd) (a : Nat) : (s.meshWrite cd x a).bobbins = s.bobbins := (congrArg State.bobbins (MeshOnly.write s cd x a).rest :)
@[simp] theorem meshWrite_fills (s : State) (cd : Nat) (x : MeshEnd) (a : Nat) : (s.meshWrite cd x a).fills = s.fills := (congrArg State.fills (MeshOnly.write s cd x a).rest :)
@[simp] theorem meshWrite_earlyRead (s : State) (cd : Nat) (x : MeshEnd) (a : Nat) : (s.meshWrite cd x a).earlyRead = s.earlyRead := (congrArg State.earlyRead (MeshOnly.write s cd x a).rest :)
@[simp] theorem meshWrite_tile (s : State) (cd : Nat) (x : MeshEnd) (a : Nat) : (s.meshWrite cd x a).tile = s.tile := (congrArg State.tile (MeshOnly.write s cd x a).rest :)
@[simp] theorem meshWrite_tileTag (s : State) (cd : Nat) (x : MeshEnd) (a : Nat) : (s.meshWrite cd x a).tileTag = s.tileTag := (congrArg State.tileTag (MeshOnly.write s cd x a).rest :)
@[simp] theorem meshWrite_tileErr (s : State) (cd : Nat) (x : MeshEnd) (a : Nat) : (s.meshWrite cd x a).tileErr = s.tileErr := (congrArg State.tileErr (MeshOnly.write s cd x a).rest :)
@[simp] theorem meshWrite_uses (s : State) (cd : Nat) (x : MeshEnd) (a : Nat) : (s.meshWrite cd x a).uses = s.uses := (congrArg State.uses (MeshOnly.write s cd x a).rest :)
@[simp] theorem meshWrite_useCount (s : State) (cd : Nat) (x : MeshEnd) (a : Nat) : (s.meshWrite cd x a).useCount = s.useCount := (congrArg State.useCount (MeshOnly.write s cd x a).rest :)
@[simp] theorem meshWrite_stations (s : State) (cd : Nat) (x : MeshEnd) (a : Nat) : (s.meshWrite cd x a).stations = s.stations := (congrArg State.stations (MeshOnly.write s cd x a).rest :)
@[simp] theorem meshWrite_gateways (s : State) (cd : Nat) (x : MeshEnd) (a : Nat) : (s.meshWrite cd x a).gateways = s.gateways := (congrArg State.gateways (MeshOnly.write s cd x a).rest :)
@[simp] theorem meshWrite_rings (s : State) (cd : Nat) (x : MeshEnd) (a : Nat) : (s.meshWrite cd x a).rings = s.rings := (congrArg State.rings (MeshOnly.write s cd x a).rest :)
@[simp] theorem meshWrite_carBeat (s : State) (cd : Nat) (x : MeshEnd) (a : Nat) : (s.meshWrite cd x a).carBeat = s.carBeat := (congrArg State.carBeat (MeshOnly.write s cd x a).rest :)
@[simp] theorem meshWrite_halves (s : State) (cd : Nat) (x : MeshEnd) (a : Nat) : (s.meshWrite cd x a).halves = s.halves := (congrArg State.halves (MeshOnly.write s cd x a).rest :)
@[simp] theorem meshWrite_injBeat (s : State) (cd : Nat) (x : MeshEnd) (a : Nat) : (s.meshWrite cd x a).injBeat = s.injBeat := (congrArg State.injBeat (MeshOnly.write s cd x a).rest :)
@[simp] theorem meshWrite_ctxs (s : State) (cd : Nat) (x : MeshEnd) (a : Nat) : (s.meshWrite cd x a).ctxs = s.ctxs := (congrArg State.ctxs (MeshOnly.write s cd x a).rest :)
@[simp] theorem meshWrite_sregs (s : State) (cd : Nat) (x : MeshEnd) (a : Nat) : (s.meshWrite cd x a).sregs = s.sregs := (congrArg State.sregs (MeshOnly.write s cd x a).rest :)
@[simp] theorem meshWrite_cnts (s : State) (cd : Nat) (x : MeshEnd) (a : Nat) : (s.meshWrite cd x a).cnts = s.cnts := (congrArg State.cnts (MeshOnly.write s cd x a).rest :)
@[simp] theorem meshWrite_syncs (s : State) (cd : Nat) (x : MeshEnd) (a : Nat) : (s.meshWrite cd x a).syncs = s.syncs := (congrArg State.syncs (MeshOnly.write s cd x a).rest :)
@[simp] theorem meshWrite_beat (s : State) (cd : Nat) (x : MeshEnd) (a : Nat) : (s.meshWrite cd x a).beat = s.beat := (congrArg State.beat (MeshOnly.write s cd x a).rest :)
@[simp] theorem meshWrite_busyAt (s : State) (cd : Nat) (x : MeshEnd) (a : Nat) : (s.meshWrite cd x a).busyAt = s.busyAt := (congrArg State.busyAt (MeshOnly.write s cd x a).rest :)
@[simp] theorem meshWrite_tktWait (s : State) (cd : Nat) (x : MeshEnd) (a : Nat) : (s.meshWrite cd x a).tktWait = s.tktWait := (congrArg State.tktWait (MeshOnly.write s cd x a).rest :)
@[simp] theorem meshWrite_lastRan (s : State) (cd : Nat) (x : MeshEnd) (a : Nat) : (s.meshWrite cd x a).lastRan = s.lastRan := (congrArg State.lastRan (MeshOnly.write s cd x a).rest :)
@[simp] theorem meshWrite_pend (s : State) (cd : Nat) (x : MeshEnd) (a : Nat) : (s.meshWrite cd x a).pend = s.pend := (congrArg State.pend (MeshOnly.write s cd x a).rest :)
@[simp] theorem meshWrite_patterns (s : State) (cd : Nat) (x : MeshEnd) (a : Nat) : (s.meshWrite cd x a).patterns = s.patterns := (congrArg State.patterns (MeshOnly.write s cd x a).rest :)
@[simp] theorem meshWrite_patLoaded (s : State) (cd : Nat) (x : MeshEnd) (a : Nat) : (s.meshWrite cd x a).patLoaded = s.patLoaded := (congrArg State.patLoaded (MeshOnly.write s cd x a).rest :)
@[simp] theorem meshWrite_code (s : State) (cd : Nat) (x : MeshEnd) (a : Nat) : (s.meshWrite cd x a).code = s.code := (congrArg State.code (MeshOnly.write s cd x a).rest :)
@[simp] theorem meshWrite_konst (s : State) (cd : Nat) (x : MeshEnd) (a : Nat) : (s.meshWrite cd x a).konst = s.konst := (congrArg State.konst (MeshOnly.write s cd x a).rest :)
@[simp] theorem meshWrite_charges (s : State) (cd : Nat) (x : MeshEnd) (a : Nat) : (s.meshWrite cd x a).charges = s.charges := (congrArg State.charges (MeshOnly.write s cd x a).rest :)
@[simp] theorem meshWrite_slotPause (s : State) (cd : Nat) (x : MeshEnd) (a : Nat) : (s.meshWrite cd x a).slotPause = s.slotPause := (congrArg State.slotPause (MeshOnly.write s cd x a).rest :)
@[simp] theorem meshWrite_yieldAt (s : State) (cd : Nat) (x : MeshEnd) (a : Nat) : (s.meshWrite cd x a).yieldAt = s.yieldAt := (congrArg State.yieldAt (MeshOnly.write s cd x a).rest :)
@[simp] theorem meshWrite_yieldHold (s : State) (cd : Nat) (x : MeshEnd) (a : Nat) : (s.meshWrite cd x a).yieldHold = s.yieldHold := (congrArg State.yieldHold (MeshOnly.write s cd x a).rest :)
@[simp] theorem meshWrite_heldBy (s : State) (cd : Nat) (x : MeshEnd) (a : Nat) : (s.meshWrite cd x a).heldBy = s.heldBy := (congrArg State.heldBy (MeshOnly.write s cd x a).rest :)
@[simp] theorem meshWrite_ves (s : State) (cd : Nat) (x : MeshEnd) (a : Nat) : (s.meshWrite cd x a).ves = s.ves := (congrArg State.ves (MeshOnly.write s cd x a).rest :)
@[simp] theorem meshWrite_vreg (s : State) (cd : Nat) (x : MeshEnd) (a : Nat) : (s.meshWrite cd x a).vreg = s.vreg := (congrArg State.vreg (MeshOnly.write s cd x a).rest :)
@[simp] theorem meshWrite_vsealed (s : State) (cd : Nat) (x : MeshEnd) (a : Nat) : (s.meshWrite cd x a).vsealed = s.vsealed := (congrArg State.vsealed (MeshOnly.write s cd x a).rest :)
@[simp] theorem meshWrite_ftab (s : State) (cd : Nat) (x : MeshEnd) (a : Nat) : (s.meshWrite cd x a).ftab = s.ftab := (congrArg State.ftab (MeshOnly.write s cd x a).rest :)
@[simp] theorem meshWrite_pairEpoch (s : State) (cd : Nat) (x : MeshEnd) (a : Nat) : (s.meshWrite cd x a).pairEpoch = s.pairEpoch := (congrArg State.pairEpoch (MeshOnly.write s cd x a).rest :)
@[simp] theorem meshWrite_pairSealed (s : State) (cd : Nat) (x : MeshEnd) (a : Nat) : (s.meshWrite cd x a).pairSealed = s.pairSealed := (congrArg State.pairSealed (MeshOnly.write s cd x a).rest :)
@[simp] theorem meshWrite_ses (s : State) (cd : Nat) (x : MeshEnd) (a : Nat) : (s.meshWrite cd x a).ses = s.ses := (congrArg State.ses (MeshOnly.write s cd x a).rest :)
@[simp] theorem meshWrite_streams (s : State) (cd : Nat) (x : MeshEnd) (a : Nat) : (s.meshWrite cd x a).streams = s.streams := (congrArg State.streams (MeshOnly.write s cd x a).rest :)
@[simp] theorem meshWrite_poolMoved (s : State) (cd : Nat) (x : MeshEnd) (a : Nat) : (s.meshWrite cd x a).poolMoved = s.poolMoved := (congrArg State.poolMoved (MeshOnly.write s cd x a).rest :)
@[simp] theorem meshWrite_poolTold (s : State) (cd : Nat) (x : MeshEnd) (a : Nat) : (s.meshWrite cd x a).poolTold = s.poolTold := (congrArg State.poolTold (MeshOnly.write s cd x a).rest :)
@[simp] theorem meshWrite_stash (s : State) (cd : Nat) (x : MeshEnd) (a : Nat) : (s.meshWrite cd x a).stash = s.stash := (congrArg State.stash (MeshOnly.write s cd x a).rest :)
@[simp] theorem meshWrite_groups (s : State) (cd : Nat) (x : MeshEnd) (a : Nat) : (s.meshWrite cd x a).groups = s.groups := (congrArg State.groups (MeshOnly.write s cd x a).rest :)
@[simp] theorem meshWrite_votes (s : State) (cd : Nat) (x : MeshEnd) (a : Nat) : (s.meshWrite cd x a).votes = s.votes := (congrArg State.votes (MeshOnly.write s cd x a).rest :)
@[simp] theorem meshWrite_updates (s : State) (cd : Nat) (x : MeshEnd) (a : Nat) : (s.meshWrite cd x a).updates = s.updates := (congrArg State.updates (MeshOnly.write s cd x a).rest :)
@[simp] theorem meshWrite_awaiting (s : State) (cd : Nat) (x : MeshEnd) (a : Nat) : (s.meshWrite cd x a).awaiting = s.awaiting := (congrArg State.awaiting (MeshOnly.write s cd x a).rest :)
@[simp] theorem meshWrite_torn (s : State) (cd : Nat) (x : MeshEnd) (a : Nat) : (s.meshWrite cd x a).torn = s.torn := (congrArg State.torn (MeshOnly.write s cd x a).rest :)
@[simp] theorem meshWrite_gathers (s : State) (cd : Nat) (x : MeshEnd) (a : Nat) : (s.meshWrite cd x a).gathers = s.gathers := (congrArg State.gathers (MeshOnly.write s cd x a).rest :)
@[simp] theorem meshWrite_ports (s : State) (cd : Nat) (x : MeshEnd) (a : Nat) : (s.meshWrite cd x a).ports = s.ports := (congrArg State.ports (MeshOnly.write s cd x a).rest :)
@[simp] theorem meshWrite_held (s : State) (cd : Nat) (x : MeshEnd) (a : Nat) : (s.meshWrite cd x a).held = s.held := (congrArg State.held (MeshOnly.write s cd x a).rest :)
@[simp] theorem meshWrite_inbox (s : State) (cd : Nat) (x : MeshEnd) (a : Nat) : (s.meshWrite cd x a).inbox = s.inbox := (congrArg State.inbox (MeshOnly.write s cd x a).rest :)
@[simp] theorem meshWrite_recIn (s : State) (cd : Nat) (x : MeshEnd) (a : Nat) : (s.meshWrite cd x a).recIn = s.recIn := (congrArg State.recIn (MeshOnly.write s cd x a).rest :)
@[simp] theorem meshWrite_aliveAt (s : State) (cd : Nat) (x : MeshEnd) (a : Nat) : (s.meshWrite cd x a).aliveAt = s.aliveAt := (congrArg State.aliveAt (MeshOnly.write s cd x a).rest :)
@[simp] theorem meshWrite_hbAllowed (s : State) (cd : Nat) (x : MeshEnd) (a : Nat) : (s.meshWrite cd x a).hbAllowed = s.hbAllowed := (congrArg State.hbAllowed (MeshOnly.write s cd x a).rest :)
@[simp] theorem meshWrite_unfit (s : State) (cd : Nat) (x : MeshEnd) (a : Nat) : (s.meshWrite cd x a).unfit = s.unfit := (congrArg State.unfit (MeshOnly.write s cd x a).rest :)
@[simp] theorem meshWrite_colls (s : State) (cd : Nat) (x : MeshEnd) (a : Nat) : (s.meshWrite cd x a).colls = s.colls := (congrArg State.colls (MeshOnly.write s cd x a).rest :)
@[simp] theorem meshWrite_insts (s : State) (cd : Nat) (x : MeshEnd) (a : Nat) : (s.meshWrite cd x a).insts = s.insts := (congrArg State.insts (MeshOnly.write s cd x a).rest :)
@[simp] theorem meshWrite_landed (s : State) (cd : Nat) (x : MeshEnd) (a : Nat) : (s.meshWrite cd x a).landed = s.landed := (congrArg State.landed (MeshOnly.write s cd x a).rest :)
@[simp] theorem meshWrite_reGen (s : State) (cd : Nat) (x : MeshEnd) (a : Nat) : (s.meshWrite cd x a).reGen = s.reGen := (congrArg State.reGen (MeshOnly.write s cd x a).rest :)
@[simp] theorem meshWrite_policy (s : State) (cd : Nat) (x : MeshEnd) (a : Nat) : (s.meshWrite cd x a).policy = s.policy := (congrArg State.policy (MeshOnly.write s cd x a).rest :)
@[simp] theorem meshWrite_rates (s : State) (cd : Nat) (x : MeshEnd) (a : Nat) : (s.meshWrite cd x a).rates = s.rates := (congrArg State.rates (MeshOnly.write s cd x a).rest :)
@[simp] theorem meshWrite_rateAt (s : State) (cd : Nat) (x : MeshEnd) (a : Nat) : (s.meshWrite cd x a).rateAt = s.rateAt := (congrArg State.rateAt (MeshOnly.write s cd x a).rest :)
@[simp] theorem meshWrite_polHash (s : State) (cd : Nat) (x : MeshEnd) (a : Nat) : (s.meshWrite cd x a).polHash = s.polHash := (congrArg State.polHash (MeshOnly.write s cd x a).rest :)
@[simp] theorem meshWrite_polFloor (s : State) (cd : Nat) (x : MeshEnd) (a : Nat) : (s.meshWrite cd x a).polFloor = s.polFloor := (congrArg State.polFloor (MeshOnly.write s cd x a).rest :)
@[simp] theorem meshWrite_quoting (s : State) (cd : Nat) (x : MeshEnd) (a : Nat) : (s.meshWrite cd x a).quoting = s.quoting := (congrArg State.quoting (MeshOnly.write s cd x a).rest :)
@[simp] theorem meshWrite_releases (s : State) (cd : Nat) (x : MeshEnd) (a : Nat) : (s.meshWrite cd x a).releases = s.releases := (congrArg State.releases (MeshOnly.write s cd x a).rest :)
@[simp] theorem meshWrite_relLog (s : State) (cd : Nat) (x : MeshEnd) (a : Nat) : (s.meshWrite cd x a).relLog = s.relLog := (congrArg State.relLog (MeshOnly.write s cd x a).rest :)
@[simp] theorem meshWrite_relAck (s : State) (cd : Nat) (x : MeshEnd) (a : Nat) : (s.meshWrite cd x a).relAck = s.relAck := (congrArg State.relAck (MeshOnly.write s cd x a).rest :)
@[simp] theorem meshWrite_clocks (s : State) (cd : Nat) (x : MeshEnd) (a : Nat) : (s.meshWrite cd x a).clocks = s.clocks := (congrArg State.clocks (MeshOnly.write s cd x a).rest :)
@[simp] theorem meshWrite_snaps (s : State) (cd : Nat) (x : MeshEnd) (a : Nat) : (s.meshWrite cd x a).snaps = s.snaps := (congrArg State.snaps (MeshOnly.write s cd x a).rest :)
@[simp] theorem meshWrite_flash (s : State) (cd : Nat) (x : MeshEnd) (a : Nat) : (s.meshWrite cd x a).flash = s.flash := (congrArg State.flash (MeshOnly.write s cd x a).rest :)
@[simp] theorem meshWrite_mirrors (s : State) (cd : Nat) (x : MeshEnd) (a : Nat) : (s.meshWrite cd x a).mirrors = s.mirrors := (congrArg State.mirrors (MeshOnly.write s cd x a).rest :)
@[simp] theorem meshWrite_claims (s : State) (cd : Nat) (x : MeshEnd) (a : Nat) : (s.meshWrite cd x a).claims = s.claims := (congrArg State.claims (MeshOnly.write s cd x a).rest :)
@[simp] theorem meshWrite_lost (s : State) (cd : Nat) (x : MeshEnd) (a : Nat) : (s.meshWrite cd x a).lost = s.lost := (congrArg State.lost (MeshOnly.write s cd x a).rest :)
@[simp] theorem meshWrite_quiet (s : State) (cd : Nat) (x : MeshEnd) (a : Nat) : (s.meshWrite cd x a).quiet = s.quiet := (congrArg State.quiet (MeshOnly.write s cd x a).rest :)
@[simp] theorem meshWrite_recovering (s : State) (cd : Nat) (x : MeshEnd) (a : Nat) : (s.meshWrite cd x a).recovering = s.recovering := (congrArg State.recovering (MeshOnly.write s cd x a).rest :)
@[simp] theorem meshWrite_origin (s : State) (cd : Nat) (x : MeshEnd) (a : Nat) : (s.meshWrite cd x a).origin = s.origin := (congrArg State.origin (MeshOnly.write s cd x a).rest :)
@[simp] theorem meshWrite_restores (s : State) (cd : Nat) (x : MeshEnd) (a : Nat) : (s.meshWrite cd x a).restores = s.restores := (congrArg State.restores (MeshOnly.write s cd x a).rest :)
@[simp] theorem meshWrite_resumed (s : State) (cd : Nat) (x : MeshEnd) (a : Nat) : (s.meshWrite cd x a).resumed = s.resumed := (congrArg State.resumed (MeshOnly.write s cd x a).rest :)
@[simp] theorem meshWrite_swung (s : State) (cd : Nat) (x : MeshEnd) (a : Nat) : (s.meshWrite cd x a).swung = s.swung := (congrArg State.swung (MeshOnly.write s cd x a).rest :)
@[simp] theorem meshWrite_handback (s : State) (cd : Nat) (x : MeshEnd) (a : Nat) : (s.meshWrite cd x a).handback = s.handback := (congrArg State.handback (MeshOnly.write s cd x a).rest :)
@[simp] theorem meshWrite_recFills (s : State) (cd : Nat) (x : MeshEnd) (a : Nat) : (s.meshWrite cd x a).recFills = s.recFills := (congrArg State.recFills (MeshOnly.write s cd x a).rest :)
@[simp] theorem meshWrite_fillReqs (s : State) (cd : Nat) (x : MeshEnd) (a : Nat) : (s.meshWrite cd x a).fillReqs = s.fillReqs := (congrArg State.fillReqs (MeshOnly.write s cd x a).rest :)
@[simp] theorem meshWrite_digests (s : State) (cd : Nat) (x : MeshEnd) (a : Nat) : (s.meshWrite cd x a).digests = s.digests := (congrArg State.digests (MeshOnly.write s cd x a).rest :)
@[simp] theorem meshWrite_events (s : State) (cd : Nat) (x : MeshEnd) (a : Nat) : (s.meshWrite cd x a).events = s.events := (congrArg State.events (MeshOnly.write s cd x a).rest :)
@[simp] theorem meshWrite_staged (s : State) (cd : Nat) (x : MeshEnd) (a : Nat) : (s.meshWrite cd x a).staged = s.staged := (congrArg State.staged (MeshOnly.write s cd x a).rest :)
@[simp] theorem meshWrite_evLog (s : State) (cd : Nat) (x : MeshEnd) (a : Nat) : (s.meshWrite cd x a).evLog = s.evLog := (congrArg State.evLog (MeshOnly.write s cd x a).rest :)
@[simp] theorem meshWrite_flushN (s : State) (cd : Nat) (x : MeshEnd) (a : Nat) : (s.meshWrite cd x a).flushN = s.flushN := (congrArg State.flushN (MeshOnly.write s cd x a).rest :)
@[simp] theorem meshWrite_flushDue (s : State) (cd : Nat) (x : MeshEnd) (a : Nat) : (s.meshWrite cd x a).flushDue = s.flushDue := (congrArg State.flushDue (MeshOnly.write s cd x a).rest :)
@[simp] theorem meshWrite_buckets (s : State) (cd : Nat) (x : MeshEnd) (a : Nat) : (s.meshWrite cd x a).buckets = s.buckets := (congrArg State.buckets (MeshOnly.write s cd x a).rest :)
@[simp] theorem meshWrite_out (s : State) (cd : Nat) (x : MeshEnd) (a : Nat) : (s.meshWrite cd x a).out = s.out := (congrArg State.out (MeshOnly.write s cd x a).rest :)
@[simp] theorem meshWrite_resp (s : State) (cd : Nat) (x : MeshEnd) (a : Nat) : (s.meshWrite cd x a).resp = s.resp := (congrArg State.resp (MeshOnly.write s cd x a).rest :)
@[simp] theorem meshWrite_irq (s : State) (cd : Nat) (x : MeshEnd) (a : Nat) : (s.meshWrite cd x a).irq = s.irq := (congrArg State.irq (MeshOnly.write s cd x a).rest :)
@[simp] theorem meshWrite_notices (s : State) (cd : Nat) (x : MeshEnd) (a : Nat) : (s.meshWrite cd x a).notices = s.notices := (congrArg State.notices (MeshOnly.write s cd x a).rest :)
@[simp] theorem meshWrite_fresh (s : State) (cd : Nat) (x : MeshEnd) (a : Nat) : (s.meshWrite cd x a).fresh = s.fresh := (congrArg State.fresh (MeshOnly.write s cd x a).rest :)
@[simp] theorem meshWrite_replies (s : State) (cd : Nat) (x : MeshEnd) (a : Nat) : (s.meshWrite cd x a).replies = s.replies := (congrArg State.replies (MeshOnly.write s cd x a).rest :)
@[simp] theorem meshWrite_cplOwed (s : State) (cd : Nat) (x : MeshEnd) (a : Nat) : (s.meshWrite cd x a).cplOwed = s.cplOwed := (congrArg State.cplOwed (MeshOnly.write s cd x a).rest :)
@[simp] theorem meshWrite_now (s : State) (cd : Nat) (x : MeshEnd) (a : Nat) : (s.meshWrite cd x a).now = s.now := (congrArg State.now (MeshOnly.write s cd x a).rest :)
@[simp] theorem meshWrite_caps (s : State) (cd : Nat) (x : MeshEnd) (a : Nat) : (s.meshWrite cd x a).caps = s.caps := (congrArg State.caps (MeshOnly.write s cd x a).rest :)
@[simp] theorem meshWrite_sensors (s : State) (cd : Nat) (x : MeshEnd) (a : Nat) : (s.meshWrite cd x a).sensors = s.sensors := (congrArg State.sensors (MeshOnly.write s cd x a).rest :)
@[simp] theorem meshWrite_powerRun (s : State) (cd : Nat) (x : MeshEnd) (a : Nat) : (s.meshWrite cd x a).powerRun = s.powerRun := (congrArg State.powerRun (MeshOnly.write s cd x a).rest :)
@[simp] theorem meshWrite_powerRamp (s : State) (cd : Nat) (x : MeshEnd) (a : Nat) : (s.meshWrite cd x a).powerRamp = s.powerRamp := (congrArg State.powerRamp (MeshOnly.write s cd x a).rest :)
@[simp] theorem meshWrite_ramps (s : State) (cd : Nat) (x : MeshEnd) (a : Nat) : (s.meshWrite cd x a).ramps = s.ramps := (congrArg State.ramps (MeshOnly.write s cd x a).rest :)
@[simp] theorem meshWrite_stages (s : State) (cd : Nat) (x : MeshEnd) (a : Nat) : (s.meshWrite cd x a).stages = s.stages := (congrArg State.stages (MeshOnly.write s cd x a).rest :)
@[simp] theorem meshWrite_booted (s : State) (cd : Nat) (x : MeshEnd) (a : Nat) : (s.meshWrite cd x a).booted = s.booted := (congrArg State.booted (MeshOnly.write s cd x a).rest :)
@[simp] theorem meshWrite_bootAt (s : State) (cd : Nat) (x : MeshEnd) (a : Nat) : (s.meshWrite cd x a).bootAt = s.bootAt := (congrArg State.bootAt (MeshOnly.write s cd x a).rest :)
@[simp] theorem meshWrite_coolWait (s : State) (cd : Nat) (x : MeshEnd) (a : Nat) : (s.meshWrite cd x a).coolWait = s.coolWait := (congrArg State.coolWait (MeshOnly.write s cd x a).rest :)
@[simp] theorem meshWrite_stage1 (s : State) (cd : Nat) (x : MeshEnd) (a : Nat) : (s.meshWrite cd x a).stage1 = s.stage1 := (congrArg State.stage1 (MeshOnly.write s cd x a).rest :)
@[simp] theorem meshWrite_selfTests (s : State) (cd : Nat) (x : MeshEnd) (a : Nat) : (s.meshWrite cd x a).selfTests = s.selfTests := (congrArg State.selfTests (MeshOnly.write s cd x a).rest :)
@[simp] theorem meshWrite_trainings (s : State) (cd : Nat) (x : MeshEnd) (a : Nat) : (s.meshWrite cd x a).trainings = s.trainings := (congrArg State.trainings (MeshOnly.write s cd x a).rest :)
@[simp] theorem meshWrite_coreMark (s : State) (cd : Nat) (x : MeshEnd) (a : Nat) : (s.meshWrite cd x a).coreMark = s.coreMark := (congrArg State.coreMark (MeshOnly.write s cd x a).rest :)
@[simp] theorem meshWrite_lateLevel (s : State) (cd : Nat) (x : MeshEnd) (a : Nat) : (s.meshWrite cd x a).lateLevel = s.lateLevel := (congrArg State.lateLevel (MeshOnly.write s cd x a).rest :)
@[simp] theorem meshWrite_capRaised (s : State) (cd : Nat) (x : MeshEnd) (a : Nat) : (s.meshWrite cd x a).capRaised = s.capRaised := (congrArg State.capRaised (MeshOnly.write s cd x a).rest :)
@[simp] theorem meshWrite_resetDue (s : State) (cd : Nat) (x : MeshEnd) (a : Nat) : (s.meshWrite cd x a).resetDue = s.resetDue := (congrArg State.resetDue (MeshOnly.write s cd x a).rest :)
@[simp] theorem meshWrite_fwA (s : State) (cd : Nat) (x : MeshEnd) (a : Nat) : (s.meshWrite cd x a).fwA = s.fwA := (congrArg State.fwA (MeshOnly.write s cd x a).rest :)
@[simp] theorem meshWrite_fwB (s : State) (cd : Nat) (x : MeshEnd) (a : Nat) : (s.meshWrite cd x a).fwB = s.fwB := (congrArg State.fwB (MeshOnly.write s cd x a).rest :)
@[simp] theorem meshWrite_fwRuns (s : State) (cd : Nat) (x : MeshEnd) (a : Nat) : (s.meshWrite cd x a).fwRuns = s.fwRuns := (congrArg State.fwRuns (MeshOnly.write s cd x a).rest :)
@[simp] theorem meshWrite_fwJob (s : State) (cd : Nat) (x : MeshEnd) (a : Nat) : (s.meshWrite cd x a).fwJob = s.fwJob := (congrArg State.fwJob (MeshOnly.write s cd x a).rest :)
@[simp] theorem meshWrite_fwTrial (s : State) (cd : Nat) (x : MeshEnd) (a : Nat) : (s.meshWrite cd x a).fwTrial = s.fwTrial := (congrArg State.fwTrial (MeshOnly.write s cd x a).rest :)
@[simp] theorem meshWrite_supBootAt (s : State) (cd : Nat) (x : MeshEnd) (a : Nat) : (s.meshWrite cd x a).supBootAt = s.supBootAt := (congrArg State.supBootAt (MeshOnly.write s cd x a).rest :)
@[simp] theorem meshWrite_wdogAt (s : State) (cd : Nat) (x : MeshEnd) (a : Nat) : (s.meshWrite cd x a).wdogAt = s.wdogAt := (congrArg State.wdogAt (MeshOnly.write s cd x a).rest :)
@[simp] theorem meshWrite_wdogNmi (s : State) (cd : Nat) (x : MeshEnd) (a : Nat) : (s.meshWrite cd x a).wdogNmi = s.wdogNmi := (congrArg State.wdogNmi (MeshOnly.write s cd x a).rest :)
@[simp] theorem meshWrite_record (s : State) (cd : Nat) (x : MeshEnd) (a : Nat) : (s.meshWrite cd x a).record = s.record := (congrArg State.record (MeshOnly.write s cd x a).rest :)
@[simp] theorem meshWrite_recordSigned (s : State) (cd : Nat) (x : MeshEnd) (a : Nat) : (s.meshWrite cd x a).recordSigned = s.recordSigned := (congrArg State.recordSigned (MeshOnly.write s cd x a).rest :)
@[simp] theorem meshWrite_recordKeys (s : State) (cd : Nat) (x : MeshEnd) (a : Nat) : (s.meshWrite cd x a).recordKeys = s.recordKeys := (congrArg State.recordKeys (MeshOnly.write s cd x a).rest :)
@[simp] theorem meshWrite_mgmtUp (s : State) (cd : Nat) (x : MeshEnd) (a : Nat) : (s.meshWrite cd x a).mgmtUp = s.mgmtUp := (congrArg State.mgmtUp (MeshOnly.write s cd x a).rest :)
@[simp] theorem meshWrite_cmdRuns (s : State) (cd : Nat) (x : MeshEnd) (a : Nat) : (s.meshWrite cd x a).cmdRuns = s.cmdRuns := (congrArg State.cmdRuns (MeshOnly.write s cd x a).rest :)
@[simp] theorem meshWrite_keptReplies (s : State) (cd : Nat) (x : MeshEnd) (a : Nat) : (s.meshWrite cd x a).keptReplies = s.keptReplies := (congrArg State.keptReplies (MeshOnly.write s cd x a).rest :)
@[simp] theorem meshWrite_windows (s : State) (cd : Nat) (x : MeshEnd) (a : Nat) : (s.meshWrite cd x a).windows = s.windows := (congrArg State.windows (MeshOnly.write s cd x a).rest :)
@[simp] theorem meshWrite_qSkip (s : State) (cd : Nat) (x : MeshEnd) (a : Nat) : (s.meshWrite cd x a).qSkip = s.qSkip := (congrArg State.qSkip (MeshOnly.write s cd x a).rest :)
@[simp] theorem meshWrite_pending (s : State) (cd : Nat) (x : MeshEnd) (a : Nat) : (s.meshWrite cd x a).pending = s.pending := (congrArg State.pending (MeshOnly.write s cd x a).rest :)
@[simp] theorem fld_meshPosted (s : State) (cd a n : Nat) {G : Fld} (d u i : Nat) (hF : G ≠ .MESH_CNT_FLITS_COUNT) (hP : G ≠ .MESH_PEAK_PEAK) :
    (s.meshPosted cd a n).fld G d u i = s.fld G d u i := (MeshOnly.posted ..).fld G d u i hF hP
@[simp] theorem meshPosted_b0 (s : State) (cd a n : Nat) : (s.meshPosted cd a n).b0 = s.b0 := (congrArg State.b0 (MeshOnly.posted s cd a n).rest :)
@[simp] theorem meshPosted_mem (s : State) (cd a n : Nat) : (s.meshPosted cd a n).mem = s.mem := (congrArg State.mem (MeshOnly.posted s cd a n).rest :)
@[simp] theorem meshPosted_side (s : State) (cd a n : Nat) : (s.meshPosted cd a n).side = s.side := (congrArg State.side (MeshOnly.posted s cd a n).rest :)
@[simp] theorem meshPosted_frames (s : State) (cd a n : Nat) : (s.meshPosted cd a n).frames = s.frames := (congrArg State.frames (MeshOnly.posted s cd a n).rest :)
@[simp] theorem meshPosted_blocks (s : State) (cd a n : Nat) : (s.meshPosted cd a n).blocks = s.blocks := (congrArg State.blocks (MeshOnly.posted s cd a n).rest :)
@[simp] theorem meshPosted_hcLines (s : State) (cd a n : Nat) : (s.meshPosted cd a n).hcLines = s.hcLines := (congrArg State.hcLines (MeshOnly.posted s cd a n).rest :)
@[simp] theorem meshPosted_hcClock (s : State) (cd a n : Nat) : (s.meshPosted cd a n).hcClock = s.hcClock := (congrArg State.hcClock (MeshOnly.posted s cd a n).rest :)
@[simp] theorem meshPosted_merges (s : State) (cd a n : Nat) : (s.meshPosted cd a n).merges = s.merges := (congrArg State.merges (MeshOnly.posted s cd a n).rest :)
@[simp] theorem meshPosted_memWait (s : State) (cd a n : Nat) : (s.meshPosted cd a n).memWait = s.memWait := (congrArg State.memWait (MeshOnly.posted s cd a n).rest :)
@[simp] theorem meshPosted_zeroBatch (s : State) (cd a n : Nat) : (s.meshPosted cd a n).zeroBatch = s.zeroBatch := (congrArg State.zeroBatch (MeshOnly.posted s cd a n).rest :)
@[simp] theorem meshPosted_scrubs (s : State) (cd a n : Nat) : (s.meshPosted cd a n).scrubs = s.scrubs := (congrArg State.scrubs (MeshOnly.posted s cd a n).rest :)
@[simp] theorem meshPosted_logTold (s : State) (cd a n : Nat) : (s.meshPosted cd a n).logTold = s.logTold := (congrArg State.logTold (MeshOnly.posted s cd a n).rest :)
@[simp] theorem meshPosted_arrays (s : State) (cd a n : Nat) : (s.meshPosted cd a n).arrays = s.arrays := (congrArg State.arrays (MeshOnly.posted s cd a n).rest :)
@[simp] theorem meshPosted_acbSeed (s : State) (cd a n : Nat) : (s.meshPosted cd a n).acbSeed = s.acbSeed := (congrArg State.acbSeed (MeshOnly.posted s cd a n).rest :)
@[simp] theorem meshPosted_acbAge (s : State) (cd a n : Nat) : (s.meshPosted cd a n).acbAge = s.acbAge := (congrArg State.acbAge (MeshOnly.posted s cd a n).rest :)
@[simp] theorem meshPosted_regions (s : State) (cd a n : Nat) : (s.meshPosted cd a n).regions = s.regions := (congrArg State.regions (MeshOnly.posted s cd a n).rest :)
@[simp] theorem meshPosted_bobbins (s : State) (cd a n : Nat) : (s.meshPosted cd a n).bobbins = s.bobbins := (congrArg State.bobbins (MeshOnly.posted s cd a n).rest :)
@[simp] theorem meshPosted_fills (s : State) (cd a n : Nat) : (s.meshPosted cd a n).fills = s.fills := (congrArg State.fills (MeshOnly.posted s cd a n).rest :)
@[simp] theorem meshPosted_earlyRead (s : State) (cd a n : Nat) : (s.meshPosted cd a n).earlyRead = s.earlyRead := (congrArg State.earlyRead (MeshOnly.posted s cd a n).rest :)
@[simp] theorem meshPosted_tile (s : State) (cd a n : Nat) : (s.meshPosted cd a n).tile = s.tile := (congrArg State.tile (MeshOnly.posted s cd a n).rest :)
@[simp] theorem meshPosted_tileTag (s : State) (cd a n : Nat) : (s.meshPosted cd a n).tileTag = s.tileTag := (congrArg State.tileTag (MeshOnly.posted s cd a n).rest :)
@[simp] theorem meshPosted_tileErr (s : State) (cd a n : Nat) : (s.meshPosted cd a n).tileErr = s.tileErr := (congrArg State.tileErr (MeshOnly.posted s cd a n).rest :)
@[simp] theorem meshPosted_uses (s : State) (cd a n : Nat) : (s.meshPosted cd a n).uses = s.uses := (congrArg State.uses (MeshOnly.posted s cd a n).rest :)
@[simp] theorem meshPosted_useCount (s : State) (cd a n : Nat) : (s.meshPosted cd a n).useCount = s.useCount := (congrArg State.useCount (MeshOnly.posted s cd a n).rest :)
@[simp] theorem meshPosted_stations (s : State) (cd a n : Nat) : (s.meshPosted cd a n).stations = s.stations := (congrArg State.stations (MeshOnly.posted s cd a n).rest :)
@[simp] theorem meshPosted_gateways (s : State) (cd a n : Nat) : (s.meshPosted cd a n).gateways = s.gateways := (congrArg State.gateways (MeshOnly.posted s cd a n).rest :)
@[simp] theorem meshPosted_rings (s : State) (cd a n : Nat) : (s.meshPosted cd a n).rings = s.rings := (congrArg State.rings (MeshOnly.posted s cd a n).rest :)
@[simp] theorem meshPosted_carBeat (s : State) (cd a n : Nat) : (s.meshPosted cd a n).carBeat = s.carBeat := (congrArg State.carBeat (MeshOnly.posted s cd a n).rest :)
@[simp] theorem meshPosted_halves (s : State) (cd a n : Nat) : (s.meshPosted cd a n).halves = s.halves := (congrArg State.halves (MeshOnly.posted s cd a n).rest :)
@[simp] theorem meshPosted_injBeat (s : State) (cd a n : Nat) : (s.meshPosted cd a n).injBeat = s.injBeat := (congrArg State.injBeat (MeshOnly.posted s cd a n).rest :)
@[simp] theorem meshPosted_ctxs (s : State) (cd a n : Nat) : (s.meshPosted cd a n).ctxs = s.ctxs := (congrArg State.ctxs (MeshOnly.posted s cd a n).rest :)
@[simp] theorem meshPosted_sregs (s : State) (cd a n : Nat) : (s.meshPosted cd a n).sregs = s.sregs := (congrArg State.sregs (MeshOnly.posted s cd a n).rest :)
@[simp] theorem meshPosted_cnts (s : State) (cd a n : Nat) : (s.meshPosted cd a n).cnts = s.cnts := (congrArg State.cnts (MeshOnly.posted s cd a n).rest :)
@[simp] theorem meshPosted_syncs (s : State) (cd a n : Nat) : (s.meshPosted cd a n).syncs = s.syncs := (congrArg State.syncs (MeshOnly.posted s cd a n).rest :)
@[simp] theorem meshPosted_beat (s : State) (cd a n : Nat) : (s.meshPosted cd a n).beat = s.beat := (congrArg State.beat (MeshOnly.posted s cd a n).rest :)
@[simp] theorem meshPosted_busyAt (s : State) (cd a n : Nat) : (s.meshPosted cd a n).busyAt = s.busyAt := (congrArg State.busyAt (MeshOnly.posted s cd a n).rest :)
@[simp] theorem meshPosted_tktWait (s : State) (cd a n : Nat) : (s.meshPosted cd a n).tktWait = s.tktWait := (congrArg State.tktWait (MeshOnly.posted s cd a n).rest :)
@[simp] theorem meshPosted_lastRan (s : State) (cd a n : Nat) : (s.meshPosted cd a n).lastRan = s.lastRan := (congrArg State.lastRan (MeshOnly.posted s cd a n).rest :)
@[simp] theorem meshPosted_pend (s : State) (cd a n : Nat) : (s.meshPosted cd a n).pend = s.pend := (congrArg State.pend (MeshOnly.posted s cd a n).rest :)
@[simp] theorem meshPosted_patterns (s : State) (cd a n : Nat) : (s.meshPosted cd a n).patterns = s.patterns := (congrArg State.patterns (MeshOnly.posted s cd a n).rest :)
@[simp] theorem meshPosted_patLoaded (s : State) (cd a n : Nat) : (s.meshPosted cd a n).patLoaded = s.patLoaded := (congrArg State.patLoaded (MeshOnly.posted s cd a n).rest :)
@[simp] theorem meshPosted_code (s : State) (cd a n : Nat) : (s.meshPosted cd a n).code = s.code := (congrArg State.code (MeshOnly.posted s cd a n).rest :)
@[simp] theorem meshPosted_konst (s : State) (cd a n : Nat) : (s.meshPosted cd a n).konst = s.konst := (congrArg State.konst (MeshOnly.posted s cd a n).rest :)
@[simp] theorem meshPosted_charges (s : State) (cd a n : Nat) : (s.meshPosted cd a n).charges = s.charges := (congrArg State.charges (MeshOnly.posted s cd a n).rest :)
@[simp] theorem meshPosted_slotPause (s : State) (cd a n : Nat) : (s.meshPosted cd a n).slotPause = s.slotPause := (congrArg State.slotPause (MeshOnly.posted s cd a n).rest :)
@[simp] theorem meshPosted_yieldAt (s : State) (cd a n : Nat) : (s.meshPosted cd a n).yieldAt = s.yieldAt := (congrArg State.yieldAt (MeshOnly.posted s cd a n).rest :)
@[simp] theorem meshPosted_yieldHold (s : State) (cd a n : Nat) : (s.meshPosted cd a n).yieldHold = s.yieldHold := (congrArg State.yieldHold (MeshOnly.posted s cd a n).rest :)
@[simp] theorem meshPosted_heldBy (s : State) (cd a n : Nat) : (s.meshPosted cd a n).heldBy = s.heldBy := (congrArg State.heldBy (MeshOnly.posted s cd a n).rest :)
@[simp] theorem meshPosted_ves (s : State) (cd a n : Nat) : (s.meshPosted cd a n).ves = s.ves := (congrArg State.ves (MeshOnly.posted s cd a n).rest :)
@[simp] theorem meshPosted_vreg (s : State) (cd a n : Nat) : (s.meshPosted cd a n).vreg = s.vreg := (congrArg State.vreg (MeshOnly.posted s cd a n).rest :)
@[simp] theorem meshPosted_vsealed (s : State) (cd a n : Nat) : (s.meshPosted cd a n).vsealed = s.vsealed := (congrArg State.vsealed (MeshOnly.posted s cd a n).rest :)
@[simp] theorem meshPosted_ftab (s : State) (cd a n : Nat) : (s.meshPosted cd a n).ftab = s.ftab := (congrArg State.ftab (MeshOnly.posted s cd a n).rest :)
@[simp] theorem meshPosted_pairEpoch (s : State) (cd a n : Nat) : (s.meshPosted cd a n).pairEpoch = s.pairEpoch := (congrArg State.pairEpoch (MeshOnly.posted s cd a n).rest :)
@[simp] theorem meshPosted_pairSealed (s : State) (cd a n : Nat) : (s.meshPosted cd a n).pairSealed = s.pairSealed := (congrArg State.pairSealed (MeshOnly.posted s cd a n).rest :)
@[simp] theorem meshPosted_ses (s : State) (cd a n : Nat) : (s.meshPosted cd a n).ses = s.ses := (congrArg State.ses (MeshOnly.posted s cd a n).rest :)
@[simp] theorem meshPosted_streams (s : State) (cd a n : Nat) : (s.meshPosted cd a n).streams = s.streams := (congrArg State.streams (MeshOnly.posted s cd a n).rest :)
@[simp] theorem meshPosted_poolMoved (s : State) (cd a n : Nat) : (s.meshPosted cd a n).poolMoved = s.poolMoved := (congrArg State.poolMoved (MeshOnly.posted s cd a n).rest :)
@[simp] theorem meshPosted_poolTold (s : State) (cd a n : Nat) : (s.meshPosted cd a n).poolTold = s.poolTold := (congrArg State.poolTold (MeshOnly.posted s cd a n).rest :)
@[simp] theorem meshPosted_stash (s : State) (cd a n : Nat) : (s.meshPosted cd a n).stash = s.stash := (congrArg State.stash (MeshOnly.posted s cd a n).rest :)
@[simp] theorem meshPosted_groups (s : State) (cd a n : Nat) : (s.meshPosted cd a n).groups = s.groups := (congrArg State.groups (MeshOnly.posted s cd a n).rest :)
@[simp] theorem meshPosted_votes (s : State) (cd a n : Nat) : (s.meshPosted cd a n).votes = s.votes := (congrArg State.votes (MeshOnly.posted s cd a n).rest :)
@[simp] theorem meshPosted_updates (s : State) (cd a n : Nat) : (s.meshPosted cd a n).updates = s.updates := (congrArg State.updates (MeshOnly.posted s cd a n).rest :)
@[simp] theorem meshPosted_awaiting (s : State) (cd a n : Nat) : (s.meshPosted cd a n).awaiting = s.awaiting := (congrArg State.awaiting (MeshOnly.posted s cd a n).rest :)
@[simp] theorem meshPosted_torn (s : State) (cd a n : Nat) : (s.meshPosted cd a n).torn = s.torn := (congrArg State.torn (MeshOnly.posted s cd a n).rest :)
@[simp] theorem meshPosted_gathers (s : State) (cd a n : Nat) : (s.meshPosted cd a n).gathers = s.gathers := (congrArg State.gathers (MeshOnly.posted s cd a n).rest :)
@[simp] theorem meshPosted_ports (s : State) (cd a n : Nat) : (s.meshPosted cd a n).ports = s.ports := (congrArg State.ports (MeshOnly.posted s cd a n).rest :)
@[simp] theorem meshPosted_held (s : State) (cd a n : Nat) : (s.meshPosted cd a n).held = s.held := (congrArg State.held (MeshOnly.posted s cd a n).rest :)
@[simp] theorem meshPosted_inbox (s : State) (cd a n : Nat) : (s.meshPosted cd a n).inbox = s.inbox := (congrArg State.inbox (MeshOnly.posted s cd a n).rest :)
@[simp] theorem meshPosted_recIn (s : State) (cd a n : Nat) : (s.meshPosted cd a n).recIn = s.recIn := (congrArg State.recIn (MeshOnly.posted s cd a n).rest :)
@[simp] theorem meshPosted_aliveAt (s : State) (cd a n : Nat) : (s.meshPosted cd a n).aliveAt = s.aliveAt := (congrArg State.aliveAt (MeshOnly.posted s cd a n).rest :)
@[simp] theorem meshPosted_hbAllowed (s : State) (cd a n : Nat) : (s.meshPosted cd a n).hbAllowed = s.hbAllowed := (congrArg State.hbAllowed (MeshOnly.posted s cd a n).rest :)
@[simp] theorem meshPosted_unfit (s : State) (cd a n : Nat) : (s.meshPosted cd a n).unfit = s.unfit := (congrArg State.unfit (MeshOnly.posted s cd a n).rest :)
@[simp] theorem meshPosted_colls (s : State) (cd a n : Nat) : (s.meshPosted cd a n).colls = s.colls := (congrArg State.colls (MeshOnly.posted s cd a n).rest :)
@[simp] theorem meshPosted_insts (s : State) (cd a n : Nat) : (s.meshPosted cd a n).insts = s.insts := (congrArg State.insts (MeshOnly.posted s cd a n).rest :)
@[simp] theorem meshPosted_landed (s : State) (cd a n : Nat) : (s.meshPosted cd a n).landed = s.landed := (congrArg State.landed (MeshOnly.posted s cd a n).rest :)
@[simp] theorem meshPosted_reGen (s : State) (cd a n : Nat) : (s.meshPosted cd a n).reGen = s.reGen := (congrArg State.reGen (MeshOnly.posted s cd a n).rest :)
@[simp] theorem meshPosted_policy (s : State) (cd a n : Nat) : (s.meshPosted cd a n).policy = s.policy := (congrArg State.policy (MeshOnly.posted s cd a n).rest :)
@[simp] theorem meshPosted_rates (s : State) (cd a n : Nat) : (s.meshPosted cd a n).rates = s.rates := (congrArg State.rates (MeshOnly.posted s cd a n).rest :)
@[simp] theorem meshPosted_rateAt (s : State) (cd a n : Nat) : (s.meshPosted cd a n).rateAt = s.rateAt := (congrArg State.rateAt (MeshOnly.posted s cd a n).rest :)
@[simp] theorem meshPosted_polHash (s : State) (cd a n : Nat) : (s.meshPosted cd a n).polHash = s.polHash := (congrArg State.polHash (MeshOnly.posted s cd a n).rest :)
@[simp] theorem meshPosted_polFloor (s : State) (cd a n : Nat) : (s.meshPosted cd a n).polFloor = s.polFloor := (congrArg State.polFloor (MeshOnly.posted s cd a n).rest :)
@[simp] theorem meshPosted_quoting (s : State) (cd a n : Nat) : (s.meshPosted cd a n).quoting = s.quoting := (congrArg State.quoting (MeshOnly.posted s cd a n).rest :)
@[simp] theorem meshPosted_releases (s : State) (cd a n : Nat) : (s.meshPosted cd a n).releases = s.releases := (congrArg State.releases (MeshOnly.posted s cd a n).rest :)
@[simp] theorem meshPosted_relLog (s : State) (cd a n : Nat) : (s.meshPosted cd a n).relLog = s.relLog := (congrArg State.relLog (MeshOnly.posted s cd a n).rest :)
@[simp] theorem meshPosted_relAck (s : State) (cd a n : Nat) : (s.meshPosted cd a n).relAck = s.relAck := (congrArg State.relAck (MeshOnly.posted s cd a n).rest :)
@[simp] theorem meshPosted_clocks (s : State) (cd a n : Nat) : (s.meshPosted cd a n).clocks = s.clocks := (congrArg State.clocks (MeshOnly.posted s cd a n).rest :)
@[simp] theorem meshPosted_snaps (s : State) (cd a n : Nat) : (s.meshPosted cd a n).snaps = s.snaps := (congrArg State.snaps (MeshOnly.posted s cd a n).rest :)
@[simp] theorem meshPosted_flash (s : State) (cd a n : Nat) : (s.meshPosted cd a n).flash = s.flash := (congrArg State.flash (MeshOnly.posted s cd a n).rest :)
@[simp] theorem meshPosted_mirrors (s : State) (cd a n : Nat) : (s.meshPosted cd a n).mirrors = s.mirrors := (congrArg State.mirrors (MeshOnly.posted s cd a n).rest :)
@[simp] theorem meshPosted_claims (s : State) (cd a n : Nat) : (s.meshPosted cd a n).claims = s.claims := (congrArg State.claims (MeshOnly.posted s cd a n).rest :)
@[simp] theorem meshPosted_lost (s : State) (cd a n : Nat) : (s.meshPosted cd a n).lost = s.lost := (congrArg State.lost (MeshOnly.posted s cd a n).rest :)
@[simp] theorem meshPosted_quiet (s : State) (cd a n : Nat) : (s.meshPosted cd a n).quiet = s.quiet := (congrArg State.quiet (MeshOnly.posted s cd a n).rest :)
@[simp] theorem meshPosted_recovering (s : State) (cd a n : Nat) : (s.meshPosted cd a n).recovering = s.recovering := (congrArg State.recovering (MeshOnly.posted s cd a n).rest :)
@[simp] theorem meshPosted_origin (s : State) (cd a n : Nat) : (s.meshPosted cd a n).origin = s.origin := (congrArg State.origin (MeshOnly.posted s cd a n).rest :)
@[simp] theorem meshPosted_restores (s : State) (cd a n : Nat) : (s.meshPosted cd a n).restores = s.restores := (congrArg State.restores (MeshOnly.posted s cd a n).rest :)
@[simp] theorem meshPosted_resumed (s : State) (cd a n : Nat) : (s.meshPosted cd a n).resumed = s.resumed := (congrArg State.resumed (MeshOnly.posted s cd a n).rest :)
@[simp] theorem meshPosted_swung (s : State) (cd a n : Nat) : (s.meshPosted cd a n).swung = s.swung := (congrArg State.swung (MeshOnly.posted s cd a n).rest :)
@[simp] theorem meshPosted_handback (s : State) (cd a n : Nat) : (s.meshPosted cd a n).handback = s.handback := (congrArg State.handback (MeshOnly.posted s cd a n).rest :)
@[simp] theorem meshPosted_recFills (s : State) (cd a n : Nat) : (s.meshPosted cd a n).recFills = s.recFills := (congrArg State.recFills (MeshOnly.posted s cd a n).rest :)
@[simp] theorem meshPosted_fillReqs (s : State) (cd a n : Nat) : (s.meshPosted cd a n).fillReqs = s.fillReqs := (congrArg State.fillReqs (MeshOnly.posted s cd a n).rest :)
@[simp] theorem meshPosted_digests (s : State) (cd a n : Nat) : (s.meshPosted cd a n).digests = s.digests := (congrArg State.digests (MeshOnly.posted s cd a n).rest :)
@[simp] theorem meshPosted_events (s : State) (cd a n : Nat) : (s.meshPosted cd a n).events = s.events := (congrArg State.events (MeshOnly.posted s cd a n).rest :)
@[simp] theorem meshPosted_staged (s : State) (cd a n : Nat) : (s.meshPosted cd a n).staged = s.staged := (congrArg State.staged (MeshOnly.posted s cd a n).rest :)
@[simp] theorem meshPosted_evLog (s : State) (cd a n : Nat) : (s.meshPosted cd a n).evLog = s.evLog := (congrArg State.evLog (MeshOnly.posted s cd a n).rest :)
@[simp] theorem meshPosted_flushN (s : State) (cd a n : Nat) : (s.meshPosted cd a n).flushN = s.flushN := (congrArg State.flushN (MeshOnly.posted s cd a n).rest :)
@[simp] theorem meshPosted_flushDue (s : State) (cd a n : Nat) : (s.meshPosted cd a n).flushDue = s.flushDue := (congrArg State.flushDue (MeshOnly.posted s cd a n).rest :)
@[simp] theorem meshPosted_buckets (s : State) (cd a n : Nat) : (s.meshPosted cd a n).buckets = s.buckets := (congrArg State.buckets (MeshOnly.posted s cd a n).rest :)
@[simp] theorem meshPosted_out (s : State) (cd a n : Nat) : (s.meshPosted cd a n).out = s.out := (congrArg State.out (MeshOnly.posted s cd a n).rest :)
@[simp] theorem meshPosted_resp (s : State) (cd a n : Nat) : (s.meshPosted cd a n).resp = s.resp := (congrArg State.resp (MeshOnly.posted s cd a n).rest :)
@[simp] theorem meshPosted_irq (s : State) (cd a n : Nat) : (s.meshPosted cd a n).irq = s.irq := (congrArg State.irq (MeshOnly.posted s cd a n).rest :)
@[simp] theorem meshPosted_notices (s : State) (cd a n : Nat) : (s.meshPosted cd a n).notices = s.notices := (congrArg State.notices (MeshOnly.posted s cd a n).rest :)
@[simp] theorem meshPosted_fresh (s : State) (cd a n : Nat) : (s.meshPosted cd a n).fresh = s.fresh := (congrArg State.fresh (MeshOnly.posted s cd a n).rest :)
@[simp] theorem meshPosted_replies (s : State) (cd a n : Nat) : (s.meshPosted cd a n).replies = s.replies := (congrArg State.replies (MeshOnly.posted s cd a n).rest :)
@[simp] theorem meshPosted_cplOwed (s : State) (cd a n : Nat) : (s.meshPosted cd a n).cplOwed = s.cplOwed := (congrArg State.cplOwed (MeshOnly.posted s cd a n).rest :)
@[simp] theorem meshPosted_now (s : State) (cd a n : Nat) : (s.meshPosted cd a n).now = s.now := (congrArg State.now (MeshOnly.posted s cd a n).rest :)
@[simp] theorem meshPosted_caps (s : State) (cd a n : Nat) : (s.meshPosted cd a n).caps = s.caps := (congrArg State.caps (MeshOnly.posted s cd a n).rest :)
@[simp] theorem meshPosted_sensors (s : State) (cd a n : Nat) : (s.meshPosted cd a n).sensors = s.sensors := (congrArg State.sensors (MeshOnly.posted s cd a n).rest :)
@[simp] theorem meshPosted_powerRun (s : State) (cd a n : Nat) : (s.meshPosted cd a n).powerRun = s.powerRun := (congrArg State.powerRun (MeshOnly.posted s cd a n).rest :)
@[simp] theorem meshPosted_powerRamp (s : State) (cd a n : Nat) : (s.meshPosted cd a n).powerRamp = s.powerRamp := (congrArg State.powerRamp (MeshOnly.posted s cd a n).rest :)
@[simp] theorem meshPosted_ramps (s : State) (cd a n : Nat) : (s.meshPosted cd a n).ramps = s.ramps := (congrArg State.ramps (MeshOnly.posted s cd a n).rest :)
@[simp] theorem meshPosted_stages (s : State) (cd a n : Nat) : (s.meshPosted cd a n).stages = s.stages := (congrArg State.stages (MeshOnly.posted s cd a n).rest :)
@[simp] theorem meshPosted_booted (s : State) (cd a n : Nat) : (s.meshPosted cd a n).booted = s.booted := (congrArg State.booted (MeshOnly.posted s cd a n).rest :)
@[simp] theorem meshPosted_bootAt (s : State) (cd a n : Nat) : (s.meshPosted cd a n).bootAt = s.bootAt := (congrArg State.bootAt (MeshOnly.posted s cd a n).rest :)
@[simp] theorem meshPosted_coolWait (s : State) (cd a n : Nat) : (s.meshPosted cd a n).coolWait = s.coolWait := (congrArg State.coolWait (MeshOnly.posted s cd a n).rest :)
@[simp] theorem meshPosted_stage1 (s : State) (cd a n : Nat) : (s.meshPosted cd a n).stage1 = s.stage1 := (congrArg State.stage1 (MeshOnly.posted s cd a n).rest :)
@[simp] theorem meshPosted_selfTests (s : State) (cd a n : Nat) : (s.meshPosted cd a n).selfTests = s.selfTests := (congrArg State.selfTests (MeshOnly.posted s cd a n).rest :)
@[simp] theorem meshPosted_trainings (s : State) (cd a n : Nat) : (s.meshPosted cd a n).trainings = s.trainings := (congrArg State.trainings (MeshOnly.posted s cd a n).rest :)
@[simp] theorem meshPosted_coreMark (s : State) (cd a n : Nat) : (s.meshPosted cd a n).coreMark = s.coreMark := (congrArg State.coreMark (MeshOnly.posted s cd a n).rest :)
@[simp] theorem meshPosted_lateLevel (s : State) (cd a n : Nat) : (s.meshPosted cd a n).lateLevel = s.lateLevel := (congrArg State.lateLevel (MeshOnly.posted s cd a n).rest :)
@[simp] theorem meshPosted_capRaised (s : State) (cd a n : Nat) : (s.meshPosted cd a n).capRaised = s.capRaised := (congrArg State.capRaised (MeshOnly.posted s cd a n).rest :)
@[simp] theorem meshPosted_resetDue (s : State) (cd a n : Nat) : (s.meshPosted cd a n).resetDue = s.resetDue := (congrArg State.resetDue (MeshOnly.posted s cd a n).rest :)
@[simp] theorem meshPosted_fwA (s : State) (cd a n : Nat) : (s.meshPosted cd a n).fwA = s.fwA := (congrArg State.fwA (MeshOnly.posted s cd a n).rest :)
@[simp] theorem meshPosted_fwB (s : State) (cd a n : Nat) : (s.meshPosted cd a n).fwB = s.fwB := (congrArg State.fwB (MeshOnly.posted s cd a n).rest :)
@[simp] theorem meshPosted_fwRuns (s : State) (cd a n : Nat) : (s.meshPosted cd a n).fwRuns = s.fwRuns := (congrArg State.fwRuns (MeshOnly.posted s cd a n).rest :)
@[simp] theorem meshPosted_fwJob (s : State) (cd a n : Nat) : (s.meshPosted cd a n).fwJob = s.fwJob := (congrArg State.fwJob (MeshOnly.posted s cd a n).rest :)
@[simp] theorem meshPosted_fwTrial (s : State) (cd a n : Nat) : (s.meshPosted cd a n).fwTrial = s.fwTrial := (congrArg State.fwTrial (MeshOnly.posted s cd a n).rest :)
@[simp] theorem meshPosted_supBootAt (s : State) (cd a n : Nat) : (s.meshPosted cd a n).supBootAt = s.supBootAt := (congrArg State.supBootAt (MeshOnly.posted s cd a n).rest :)
@[simp] theorem meshPosted_wdogAt (s : State) (cd a n : Nat) : (s.meshPosted cd a n).wdogAt = s.wdogAt := (congrArg State.wdogAt (MeshOnly.posted s cd a n).rest :)
@[simp] theorem meshPosted_wdogNmi (s : State) (cd a n : Nat) : (s.meshPosted cd a n).wdogNmi = s.wdogNmi := (congrArg State.wdogNmi (MeshOnly.posted s cd a n).rest :)
@[simp] theorem meshPosted_record (s : State) (cd a n : Nat) : (s.meshPosted cd a n).record = s.record := (congrArg State.record (MeshOnly.posted s cd a n).rest :)
@[simp] theorem meshPosted_recordSigned (s : State) (cd a n : Nat) : (s.meshPosted cd a n).recordSigned = s.recordSigned := (congrArg State.recordSigned (MeshOnly.posted s cd a n).rest :)
@[simp] theorem meshPosted_recordKeys (s : State) (cd a n : Nat) : (s.meshPosted cd a n).recordKeys = s.recordKeys := (congrArg State.recordKeys (MeshOnly.posted s cd a n).rest :)
@[simp] theorem meshPosted_mgmtUp (s : State) (cd a n : Nat) : (s.meshPosted cd a n).mgmtUp = s.mgmtUp := (congrArg State.mgmtUp (MeshOnly.posted s cd a n).rest :)
@[simp] theorem meshPosted_cmdRuns (s : State) (cd a n : Nat) : (s.meshPosted cd a n).cmdRuns = s.cmdRuns := (congrArg State.cmdRuns (MeshOnly.posted s cd a n).rest :)
@[simp] theorem meshPosted_keptReplies (s : State) (cd a n : Nat) : (s.meshPosted cd a n).keptReplies = s.keptReplies := (congrArg State.keptReplies (MeshOnly.posted s cd a n).rest :)
@[simp] theorem meshPosted_windows (s : State) (cd a n : Nat) : (s.meshPosted cd a n).windows = s.windows := (congrArg State.windows (MeshOnly.posted s cd a n).rest :)
@[simp] theorem meshPosted_qSkip (s : State) (cd a n : Nat) : (s.meshPosted cd a n).qSkip = s.qSkip := (congrArg State.qSkip (MeshOnly.posted s cd a n).rest :)
@[simp] theorem meshPosted_pending (s : State) (cd a n : Nat) : (s.meshPosted cd a n).pending = s.pending := (congrArg State.pending (MeshOnly.posted s cd a n).rest :)
@[simp] theorem fld_meshNotice (s : State) (cd n : Nat) {G : Fld} (d u i : Nat) (hF : G ≠ .MESH_CNT_FLITS_COUNT) (hP : G ≠ .MESH_PEAK_PEAK) :
    (s.meshNotice cd n).fld G d u i = s.fld G d u i := (MeshOnly.notice ..).fld G d u i hF hP
@[simp] theorem meshNotice_b0 (s : State) (cd n : Nat) : (s.meshNotice cd n).b0 = s.b0 := (congrArg State.b0 (MeshOnly.notice s cd n).rest :)
@[simp] theorem meshNotice_mem (s : State) (cd n : Nat) : (s.meshNotice cd n).mem = s.mem := (congrArg State.mem (MeshOnly.notice s cd n).rest :)
@[simp] theorem meshNotice_side (s : State) (cd n : Nat) : (s.meshNotice cd n).side = s.side := (congrArg State.side (MeshOnly.notice s cd n).rest :)
@[simp] theorem meshNotice_frames (s : State) (cd n : Nat) : (s.meshNotice cd n).frames = s.frames := (congrArg State.frames (MeshOnly.notice s cd n).rest :)
@[simp] theorem meshNotice_blocks (s : State) (cd n : Nat) : (s.meshNotice cd n).blocks = s.blocks := (congrArg State.blocks (MeshOnly.notice s cd n).rest :)
@[simp] theorem meshNotice_hcLines (s : State) (cd n : Nat) : (s.meshNotice cd n).hcLines = s.hcLines := (congrArg State.hcLines (MeshOnly.notice s cd n).rest :)
@[simp] theorem meshNotice_hcClock (s : State) (cd n : Nat) : (s.meshNotice cd n).hcClock = s.hcClock := (congrArg State.hcClock (MeshOnly.notice s cd n).rest :)
@[simp] theorem meshNotice_merges (s : State) (cd n : Nat) : (s.meshNotice cd n).merges = s.merges := (congrArg State.merges (MeshOnly.notice s cd n).rest :)
@[simp] theorem meshNotice_memWait (s : State) (cd n : Nat) : (s.meshNotice cd n).memWait = s.memWait := (congrArg State.memWait (MeshOnly.notice s cd n).rest :)
@[simp] theorem meshNotice_zeroBatch (s : State) (cd n : Nat) : (s.meshNotice cd n).zeroBatch = s.zeroBatch := (congrArg State.zeroBatch (MeshOnly.notice s cd n).rest :)
@[simp] theorem meshNotice_scrubs (s : State) (cd n : Nat) : (s.meshNotice cd n).scrubs = s.scrubs := (congrArg State.scrubs (MeshOnly.notice s cd n).rest :)
@[simp] theorem meshNotice_logTold (s : State) (cd n : Nat) : (s.meshNotice cd n).logTold = s.logTold := (congrArg State.logTold (MeshOnly.notice s cd n).rest :)
@[simp] theorem meshNotice_arrays (s : State) (cd n : Nat) : (s.meshNotice cd n).arrays = s.arrays := (congrArg State.arrays (MeshOnly.notice s cd n).rest :)
@[simp] theorem meshNotice_acbSeed (s : State) (cd n : Nat) : (s.meshNotice cd n).acbSeed = s.acbSeed := (congrArg State.acbSeed (MeshOnly.notice s cd n).rest :)
@[simp] theorem meshNotice_acbAge (s : State) (cd n : Nat) : (s.meshNotice cd n).acbAge = s.acbAge := (congrArg State.acbAge (MeshOnly.notice s cd n).rest :)
@[simp] theorem meshNotice_regions (s : State) (cd n : Nat) : (s.meshNotice cd n).regions = s.regions := (congrArg State.regions (MeshOnly.notice s cd n).rest :)
@[simp] theorem meshNotice_bobbins (s : State) (cd n : Nat) : (s.meshNotice cd n).bobbins = s.bobbins := (congrArg State.bobbins (MeshOnly.notice s cd n).rest :)
@[simp] theorem meshNotice_fills (s : State) (cd n : Nat) : (s.meshNotice cd n).fills = s.fills := (congrArg State.fills (MeshOnly.notice s cd n).rest :)
@[simp] theorem meshNotice_earlyRead (s : State) (cd n : Nat) : (s.meshNotice cd n).earlyRead = s.earlyRead := (congrArg State.earlyRead (MeshOnly.notice s cd n).rest :)
@[simp] theorem meshNotice_tile (s : State) (cd n : Nat) : (s.meshNotice cd n).tile = s.tile := (congrArg State.tile (MeshOnly.notice s cd n).rest :)
@[simp] theorem meshNotice_tileTag (s : State) (cd n : Nat) : (s.meshNotice cd n).tileTag = s.tileTag := (congrArg State.tileTag (MeshOnly.notice s cd n).rest :)
@[simp] theorem meshNotice_tileErr (s : State) (cd n : Nat) : (s.meshNotice cd n).tileErr = s.tileErr := (congrArg State.tileErr (MeshOnly.notice s cd n).rest :)
@[simp] theorem meshNotice_uses (s : State) (cd n : Nat) : (s.meshNotice cd n).uses = s.uses := (congrArg State.uses (MeshOnly.notice s cd n).rest :)
@[simp] theorem meshNotice_useCount (s : State) (cd n : Nat) : (s.meshNotice cd n).useCount = s.useCount := (congrArg State.useCount (MeshOnly.notice s cd n).rest :)
@[simp] theorem meshNotice_stations (s : State) (cd n : Nat) : (s.meshNotice cd n).stations = s.stations := (congrArg State.stations (MeshOnly.notice s cd n).rest :)
@[simp] theorem meshNotice_gateways (s : State) (cd n : Nat) : (s.meshNotice cd n).gateways = s.gateways := (congrArg State.gateways (MeshOnly.notice s cd n).rest :)
@[simp] theorem meshNotice_rings (s : State) (cd n : Nat) : (s.meshNotice cd n).rings = s.rings := (congrArg State.rings (MeshOnly.notice s cd n).rest :)
@[simp] theorem meshNotice_carBeat (s : State) (cd n : Nat) : (s.meshNotice cd n).carBeat = s.carBeat := (congrArg State.carBeat (MeshOnly.notice s cd n).rest :)
@[simp] theorem meshNotice_halves (s : State) (cd n : Nat) : (s.meshNotice cd n).halves = s.halves := (congrArg State.halves (MeshOnly.notice s cd n).rest :)
@[simp] theorem meshNotice_injBeat (s : State) (cd n : Nat) : (s.meshNotice cd n).injBeat = s.injBeat := (congrArg State.injBeat (MeshOnly.notice s cd n).rest :)
@[simp] theorem meshNotice_ctxs (s : State) (cd n : Nat) : (s.meshNotice cd n).ctxs = s.ctxs := (congrArg State.ctxs (MeshOnly.notice s cd n).rest :)
@[simp] theorem meshNotice_sregs (s : State) (cd n : Nat) : (s.meshNotice cd n).sregs = s.sregs := (congrArg State.sregs (MeshOnly.notice s cd n).rest :)
@[simp] theorem meshNotice_cnts (s : State) (cd n : Nat) : (s.meshNotice cd n).cnts = s.cnts := (congrArg State.cnts (MeshOnly.notice s cd n).rest :)
@[simp] theorem meshNotice_syncs (s : State) (cd n : Nat) : (s.meshNotice cd n).syncs = s.syncs := (congrArg State.syncs (MeshOnly.notice s cd n).rest :)
@[simp] theorem meshNotice_beat (s : State) (cd n : Nat) : (s.meshNotice cd n).beat = s.beat := (congrArg State.beat (MeshOnly.notice s cd n).rest :)
@[simp] theorem meshNotice_busyAt (s : State) (cd n : Nat) : (s.meshNotice cd n).busyAt = s.busyAt := (congrArg State.busyAt (MeshOnly.notice s cd n).rest :)
@[simp] theorem meshNotice_tktWait (s : State) (cd n : Nat) : (s.meshNotice cd n).tktWait = s.tktWait := (congrArg State.tktWait (MeshOnly.notice s cd n).rest :)
@[simp] theorem meshNotice_lastRan (s : State) (cd n : Nat) : (s.meshNotice cd n).lastRan = s.lastRan := (congrArg State.lastRan (MeshOnly.notice s cd n).rest :)
@[simp] theorem meshNotice_pend (s : State) (cd n : Nat) : (s.meshNotice cd n).pend = s.pend := (congrArg State.pend (MeshOnly.notice s cd n).rest :)
@[simp] theorem meshNotice_patterns (s : State) (cd n : Nat) : (s.meshNotice cd n).patterns = s.patterns := (congrArg State.patterns (MeshOnly.notice s cd n).rest :)
@[simp] theorem meshNotice_patLoaded (s : State) (cd n : Nat) : (s.meshNotice cd n).patLoaded = s.patLoaded := (congrArg State.patLoaded (MeshOnly.notice s cd n).rest :)
@[simp] theorem meshNotice_code (s : State) (cd n : Nat) : (s.meshNotice cd n).code = s.code := (congrArg State.code (MeshOnly.notice s cd n).rest :)
@[simp] theorem meshNotice_konst (s : State) (cd n : Nat) : (s.meshNotice cd n).konst = s.konst := (congrArg State.konst (MeshOnly.notice s cd n).rest :)
@[simp] theorem meshNotice_charges (s : State) (cd n : Nat) : (s.meshNotice cd n).charges = s.charges := (congrArg State.charges (MeshOnly.notice s cd n).rest :)
@[simp] theorem meshNotice_slotPause (s : State) (cd n : Nat) : (s.meshNotice cd n).slotPause = s.slotPause := (congrArg State.slotPause (MeshOnly.notice s cd n).rest :)
@[simp] theorem meshNotice_yieldAt (s : State) (cd n : Nat) : (s.meshNotice cd n).yieldAt = s.yieldAt := (congrArg State.yieldAt (MeshOnly.notice s cd n).rest :)
@[simp] theorem meshNotice_yieldHold (s : State) (cd n : Nat) : (s.meshNotice cd n).yieldHold = s.yieldHold := (congrArg State.yieldHold (MeshOnly.notice s cd n).rest :)
@[simp] theorem meshNotice_heldBy (s : State) (cd n : Nat) : (s.meshNotice cd n).heldBy = s.heldBy := (congrArg State.heldBy (MeshOnly.notice s cd n).rest :)
@[simp] theorem meshNotice_ves (s : State) (cd n : Nat) : (s.meshNotice cd n).ves = s.ves := (congrArg State.ves (MeshOnly.notice s cd n).rest :)
@[simp] theorem meshNotice_vreg (s : State) (cd n : Nat) : (s.meshNotice cd n).vreg = s.vreg := (congrArg State.vreg (MeshOnly.notice s cd n).rest :)
@[simp] theorem meshNotice_vsealed (s : State) (cd n : Nat) : (s.meshNotice cd n).vsealed = s.vsealed := (congrArg State.vsealed (MeshOnly.notice s cd n).rest :)
@[simp] theorem meshNotice_ftab (s : State) (cd n : Nat) : (s.meshNotice cd n).ftab = s.ftab := (congrArg State.ftab (MeshOnly.notice s cd n).rest :)
@[simp] theorem meshNotice_pairEpoch (s : State) (cd n : Nat) : (s.meshNotice cd n).pairEpoch = s.pairEpoch := (congrArg State.pairEpoch (MeshOnly.notice s cd n).rest :)
@[simp] theorem meshNotice_pairSealed (s : State) (cd n : Nat) : (s.meshNotice cd n).pairSealed = s.pairSealed := (congrArg State.pairSealed (MeshOnly.notice s cd n).rest :)
@[simp] theorem meshNotice_ses (s : State) (cd n : Nat) : (s.meshNotice cd n).ses = s.ses := (congrArg State.ses (MeshOnly.notice s cd n).rest :)
@[simp] theorem meshNotice_streams (s : State) (cd n : Nat) : (s.meshNotice cd n).streams = s.streams := (congrArg State.streams (MeshOnly.notice s cd n).rest :)
@[simp] theorem meshNotice_poolMoved (s : State) (cd n : Nat) : (s.meshNotice cd n).poolMoved = s.poolMoved := (congrArg State.poolMoved (MeshOnly.notice s cd n).rest :)
@[simp] theorem meshNotice_poolTold (s : State) (cd n : Nat) : (s.meshNotice cd n).poolTold = s.poolTold := (congrArg State.poolTold (MeshOnly.notice s cd n).rest :)
@[simp] theorem meshNotice_stash (s : State) (cd n : Nat) : (s.meshNotice cd n).stash = s.stash := (congrArg State.stash (MeshOnly.notice s cd n).rest :)
@[simp] theorem meshNotice_groups (s : State) (cd n : Nat) : (s.meshNotice cd n).groups = s.groups := (congrArg State.groups (MeshOnly.notice s cd n).rest :)
@[simp] theorem meshNotice_votes (s : State) (cd n : Nat) : (s.meshNotice cd n).votes = s.votes := (congrArg State.votes (MeshOnly.notice s cd n).rest :)
@[simp] theorem meshNotice_updates (s : State) (cd n : Nat) : (s.meshNotice cd n).updates = s.updates := (congrArg State.updates (MeshOnly.notice s cd n).rest :)
@[simp] theorem meshNotice_awaiting (s : State) (cd n : Nat) : (s.meshNotice cd n).awaiting = s.awaiting := (congrArg State.awaiting (MeshOnly.notice s cd n).rest :)
@[simp] theorem meshNotice_torn (s : State) (cd n : Nat) : (s.meshNotice cd n).torn = s.torn := (congrArg State.torn (MeshOnly.notice s cd n).rest :)
@[simp] theorem meshNotice_gathers (s : State) (cd n : Nat) : (s.meshNotice cd n).gathers = s.gathers := (congrArg State.gathers (MeshOnly.notice s cd n).rest :)
@[simp] theorem meshNotice_ports (s : State) (cd n : Nat) : (s.meshNotice cd n).ports = s.ports := (congrArg State.ports (MeshOnly.notice s cd n).rest :)
@[simp] theorem meshNotice_held (s : State) (cd n : Nat) : (s.meshNotice cd n).held = s.held := (congrArg State.held (MeshOnly.notice s cd n).rest :)
@[simp] theorem meshNotice_inbox (s : State) (cd n : Nat) : (s.meshNotice cd n).inbox = s.inbox := (congrArg State.inbox (MeshOnly.notice s cd n).rest :)
@[simp] theorem meshNotice_recIn (s : State) (cd n : Nat) : (s.meshNotice cd n).recIn = s.recIn := (congrArg State.recIn (MeshOnly.notice s cd n).rest :)
@[simp] theorem meshNotice_aliveAt (s : State) (cd n : Nat) : (s.meshNotice cd n).aliveAt = s.aliveAt := (congrArg State.aliveAt (MeshOnly.notice s cd n).rest :)
@[simp] theorem meshNotice_hbAllowed (s : State) (cd n : Nat) : (s.meshNotice cd n).hbAllowed = s.hbAllowed := (congrArg State.hbAllowed (MeshOnly.notice s cd n).rest :)
@[simp] theorem meshNotice_unfit (s : State) (cd n : Nat) : (s.meshNotice cd n).unfit = s.unfit := (congrArg State.unfit (MeshOnly.notice s cd n).rest :)
@[simp] theorem meshNotice_colls (s : State) (cd n : Nat) : (s.meshNotice cd n).colls = s.colls := (congrArg State.colls (MeshOnly.notice s cd n).rest :)
@[simp] theorem meshNotice_insts (s : State) (cd n : Nat) : (s.meshNotice cd n).insts = s.insts := (congrArg State.insts (MeshOnly.notice s cd n).rest :)
@[simp] theorem meshNotice_landed (s : State) (cd n : Nat) : (s.meshNotice cd n).landed = s.landed := (congrArg State.landed (MeshOnly.notice s cd n).rest :)
@[simp] theorem meshNotice_reGen (s : State) (cd n : Nat) : (s.meshNotice cd n).reGen = s.reGen := (congrArg State.reGen (MeshOnly.notice s cd n).rest :)
@[simp] theorem meshNotice_policy (s : State) (cd n : Nat) : (s.meshNotice cd n).policy = s.policy := (congrArg State.policy (MeshOnly.notice s cd n).rest :)
@[simp] theorem meshNotice_rates (s : State) (cd n : Nat) : (s.meshNotice cd n).rates = s.rates := (congrArg State.rates (MeshOnly.notice s cd n).rest :)
@[simp] theorem meshNotice_rateAt (s : State) (cd n : Nat) : (s.meshNotice cd n).rateAt = s.rateAt := (congrArg State.rateAt (MeshOnly.notice s cd n).rest :)
@[simp] theorem meshNotice_polHash (s : State) (cd n : Nat) : (s.meshNotice cd n).polHash = s.polHash := (congrArg State.polHash (MeshOnly.notice s cd n).rest :)
@[simp] theorem meshNotice_polFloor (s : State) (cd n : Nat) : (s.meshNotice cd n).polFloor = s.polFloor := (congrArg State.polFloor (MeshOnly.notice s cd n).rest :)
@[simp] theorem meshNotice_quoting (s : State) (cd n : Nat) : (s.meshNotice cd n).quoting = s.quoting := (congrArg State.quoting (MeshOnly.notice s cd n).rest :)
@[simp] theorem meshNotice_releases (s : State) (cd n : Nat) : (s.meshNotice cd n).releases = s.releases := (congrArg State.releases (MeshOnly.notice s cd n).rest :)
@[simp] theorem meshNotice_relLog (s : State) (cd n : Nat) : (s.meshNotice cd n).relLog = s.relLog := (congrArg State.relLog (MeshOnly.notice s cd n).rest :)
@[simp] theorem meshNotice_relAck (s : State) (cd n : Nat) : (s.meshNotice cd n).relAck = s.relAck := (congrArg State.relAck (MeshOnly.notice s cd n).rest :)
@[simp] theorem meshNotice_clocks (s : State) (cd n : Nat) : (s.meshNotice cd n).clocks = s.clocks := (congrArg State.clocks (MeshOnly.notice s cd n).rest :)
@[simp] theorem meshNotice_snaps (s : State) (cd n : Nat) : (s.meshNotice cd n).snaps = s.snaps := (congrArg State.snaps (MeshOnly.notice s cd n).rest :)
@[simp] theorem meshNotice_flash (s : State) (cd n : Nat) : (s.meshNotice cd n).flash = s.flash := (congrArg State.flash (MeshOnly.notice s cd n).rest :)
@[simp] theorem meshNotice_mirrors (s : State) (cd n : Nat) : (s.meshNotice cd n).mirrors = s.mirrors := (congrArg State.mirrors (MeshOnly.notice s cd n).rest :)
@[simp] theorem meshNotice_claims (s : State) (cd n : Nat) : (s.meshNotice cd n).claims = s.claims := (congrArg State.claims (MeshOnly.notice s cd n).rest :)
@[simp] theorem meshNotice_lost (s : State) (cd n : Nat) : (s.meshNotice cd n).lost = s.lost := (congrArg State.lost (MeshOnly.notice s cd n).rest :)
@[simp] theorem meshNotice_quiet (s : State) (cd n : Nat) : (s.meshNotice cd n).quiet = s.quiet := (congrArg State.quiet (MeshOnly.notice s cd n).rest :)
@[simp] theorem meshNotice_recovering (s : State) (cd n : Nat) : (s.meshNotice cd n).recovering = s.recovering := (congrArg State.recovering (MeshOnly.notice s cd n).rest :)
@[simp] theorem meshNotice_origin (s : State) (cd n : Nat) : (s.meshNotice cd n).origin = s.origin := (congrArg State.origin (MeshOnly.notice s cd n).rest :)
@[simp] theorem meshNotice_restores (s : State) (cd n : Nat) : (s.meshNotice cd n).restores = s.restores := (congrArg State.restores (MeshOnly.notice s cd n).rest :)
@[simp] theorem meshNotice_resumed (s : State) (cd n : Nat) : (s.meshNotice cd n).resumed = s.resumed := (congrArg State.resumed (MeshOnly.notice s cd n).rest :)
@[simp] theorem meshNotice_swung (s : State) (cd n : Nat) : (s.meshNotice cd n).swung = s.swung := (congrArg State.swung (MeshOnly.notice s cd n).rest :)
@[simp] theorem meshNotice_handback (s : State) (cd n : Nat) : (s.meshNotice cd n).handback = s.handback := (congrArg State.handback (MeshOnly.notice s cd n).rest :)
@[simp] theorem meshNotice_recFills (s : State) (cd n : Nat) : (s.meshNotice cd n).recFills = s.recFills := (congrArg State.recFills (MeshOnly.notice s cd n).rest :)
@[simp] theorem meshNotice_fillReqs (s : State) (cd n : Nat) : (s.meshNotice cd n).fillReqs = s.fillReqs := (congrArg State.fillReqs (MeshOnly.notice s cd n).rest :)
@[simp] theorem meshNotice_digests (s : State) (cd n : Nat) : (s.meshNotice cd n).digests = s.digests := (congrArg State.digests (MeshOnly.notice s cd n).rest :)
@[simp] theorem meshNotice_events (s : State) (cd n : Nat) : (s.meshNotice cd n).events = s.events := (congrArg State.events (MeshOnly.notice s cd n).rest :)
@[simp] theorem meshNotice_staged (s : State) (cd n : Nat) : (s.meshNotice cd n).staged = s.staged := (congrArg State.staged (MeshOnly.notice s cd n).rest :)
@[simp] theorem meshNotice_evLog (s : State) (cd n : Nat) : (s.meshNotice cd n).evLog = s.evLog := (congrArg State.evLog (MeshOnly.notice s cd n).rest :)
@[simp] theorem meshNotice_flushN (s : State) (cd n : Nat) : (s.meshNotice cd n).flushN = s.flushN := (congrArg State.flushN (MeshOnly.notice s cd n).rest :)
@[simp] theorem meshNotice_flushDue (s : State) (cd n : Nat) : (s.meshNotice cd n).flushDue = s.flushDue := (congrArg State.flushDue (MeshOnly.notice s cd n).rest :)
@[simp] theorem meshNotice_buckets (s : State) (cd n : Nat) : (s.meshNotice cd n).buckets = s.buckets := (congrArg State.buckets (MeshOnly.notice s cd n).rest :)
@[simp] theorem meshNotice_out (s : State) (cd n : Nat) : (s.meshNotice cd n).out = s.out := (congrArg State.out (MeshOnly.notice s cd n).rest :)
@[simp] theorem meshNotice_resp (s : State) (cd n : Nat) : (s.meshNotice cd n).resp = s.resp := (congrArg State.resp (MeshOnly.notice s cd n).rest :)
@[simp] theorem meshNotice_irq (s : State) (cd n : Nat) : (s.meshNotice cd n).irq = s.irq := (congrArg State.irq (MeshOnly.notice s cd n).rest :)
@[simp] theorem meshNotice_notices (s : State) (cd n : Nat) : (s.meshNotice cd n).notices = s.notices := (congrArg State.notices (MeshOnly.notice s cd n).rest :)
@[simp] theorem meshNotice_fresh (s : State) (cd n : Nat) : (s.meshNotice cd n).fresh = s.fresh := (congrArg State.fresh (MeshOnly.notice s cd n).rest :)
@[simp] theorem meshNotice_replies (s : State) (cd n : Nat) : (s.meshNotice cd n).replies = s.replies := (congrArg State.replies (MeshOnly.notice s cd n).rest :)
@[simp] theorem meshNotice_cplOwed (s : State) (cd n : Nat) : (s.meshNotice cd n).cplOwed = s.cplOwed := (congrArg State.cplOwed (MeshOnly.notice s cd n).rest :)
@[simp] theorem meshNotice_now (s : State) (cd n : Nat) : (s.meshNotice cd n).now = s.now := (congrArg State.now (MeshOnly.notice s cd n).rest :)
@[simp] theorem meshNotice_caps (s : State) (cd n : Nat) : (s.meshNotice cd n).caps = s.caps := (congrArg State.caps (MeshOnly.notice s cd n).rest :)
@[simp] theorem meshNotice_sensors (s : State) (cd n : Nat) : (s.meshNotice cd n).sensors = s.sensors := (congrArg State.sensors (MeshOnly.notice s cd n).rest :)
@[simp] theorem meshNotice_powerRun (s : State) (cd n : Nat) : (s.meshNotice cd n).powerRun = s.powerRun := (congrArg State.powerRun (MeshOnly.notice s cd n).rest :)
@[simp] theorem meshNotice_powerRamp (s : State) (cd n : Nat) : (s.meshNotice cd n).powerRamp = s.powerRamp := (congrArg State.powerRamp (MeshOnly.notice s cd n).rest :)
@[simp] theorem meshNotice_ramps (s : State) (cd n : Nat) : (s.meshNotice cd n).ramps = s.ramps := (congrArg State.ramps (MeshOnly.notice s cd n).rest :)
@[simp] theorem meshNotice_stages (s : State) (cd n : Nat) : (s.meshNotice cd n).stages = s.stages := (congrArg State.stages (MeshOnly.notice s cd n).rest :)
@[simp] theorem meshNotice_booted (s : State) (cd n : Nat) : (s.meshNotice cd n).booted = s.booted := (congrArg State.booted (MeshOnly.notice s cd n).rest :)
@[simp] theorem meshNotice_bootAt (s : State) (cd n : Nat) : (s.meshNotice cd n).bootAt = s.bootAt := (congrArg State.bootAt (MeshOnly.notice s cd n).rest :)
@[simp] theorem meshNotice_coolWait (s : State) (cd n : Nat) : (s.meshNotice cd n).coolWait = s.coolWait := (congrArg State.coolWait (MeshOnly.notice s cd n).rest :)
@[simp] theorem meshNotice_stage1 (s : State) (cd n : Nat) : (s.meshNotice cd n).stage1 = s.stage1 := (congrArg State.stage1 (MeshOnly.notice s cd n).rest :)
@[simp] theorem meshNotice_selfTests (s : State) (cd n : Nat) : (s.meshNotice cd n).selfTests = s.selfTests := (congrArg State.selfTests (MeshOnly.notice s cd n).rest :)
@[simp] theorem meshNotice_trainings (s : State) (cd n : Nat) : (s.meshNotice cd n).trainings = s.trainings := (congrArg State.trainings (MeshOnly.notice s cd n).rest :)
@[simp] theorem meshNotice_coreMark (s : State) (cd n : Nat) : (s.meshNotice cd n).coreMark = s.coreMark := (congrArg State.coreMark (MeshOnly.notice s cd n).rest :)
@[simp] theorem meshNotice_lateLevel (s : State) (cd n : Nat) : (s.meshNotice cd n).lateLevel = s.lateLevel := (congrArg State.lateLevel (MeshOnly.notice s cd n).rest :)
@[simp] theorem meshNotice_capRaised (s : State) (cd n : Nat) : (s.meshNotice cd n).capRaised = s.capRaised := (congrArg State.capRaised (MeshOnly.notice s cd n).rest :)
@[simp] theorem meshNotice_resetDue (s : State) (cd n : Nat) : (s.meshNotice cd n).resetDue = s.resetDue := (congrArg State.resetDue (MeshOnly.notice s cd n).rest :)
@[simp] theorem meshNotice_fwA (s : State) (cd n : Nat) : (s.meshNotice cd n).fwA = s.fwA := (congrArg State.fwA (MeshOnly.notice s cd n).rest :)
@[simp] theorem meshNotice_fwB (s : State) (cd n : Nat) : (s.meshNotice cd n).fwB = s.fwB := (congrArg State.fwB (MeshOnly.notice s cd n).rest :)
@[simp] theorem meshNotice_fwRuns (s : State) (cd n : Nat) : (s.meshNotice cd n).fwRuns = s.fwRuns := (congrArg State.fwRuns (MeshOnly.notice s cd n).rest :)
@[simp] theorem meshNotice_fwJob (s : State) (cd n : Nat) : (s.meshNotice cd n).fwJob = s.fwJob := (congrArg State.fwJob (MeshOnly.notice s cd n).rest :)
@[simp] theorem meshNotice_fwTrial (s : State) (cd n : Nat) : (s.meshNotice cd n).fwTrial = s.fwTrial := (congrArg State.fwTrial (MeshOnly.notice s cd n).rest :)
@[simp] theorem meshNotice_supBootAt (s : State) (cd n : Nat) : (s.meshNotice cd n).supBootAt = s.supBootAt := (congrArg State.supBootAt (MeshOnly.notice s cd n).rest :)
@[simp] theorem meshNotice_wdogAt (s : State) (cd n : Nat) : (s.meshNotice cd n).wdogAt = s.wdogAt := (congrArg State.wdogAt (MeshOnly.notice s cd n).rest :)
@[simp] theorem meshNotice_wdogNmi (s : State) (cd n : Nat) : (s.meshNotice cd n).wdogNmi = s.wdogNmi := (congrArg State.wdogNmi (MeshOnly.notice s cd n).rest :)
@[simp] theorem meshNotice_record (s : State) (cd n : Nat) : (s.meshNotice cd n).record = s.record := (congrArg State.record (MeshOnly.notice s cd n).rest :)
@[simp] theorem meshNotice_recordSigned (s : State) (cd n : Nat) : (s.meshNotice cd n).recordSigned = s.recordSigned := (congrArg State.recordSigned (MeshOnly.notice s cd n).rest :)
@[simp] theorem meshNotice_recordKeys (s : State) (cd n : Nat) : (s.meshNotice cd n).recordKeys = s.recordKeys := (congrArg State.recordKeys (MeshOnly.notice s cd n).rest :)
@[simp] theorem meshNotice_mgmtUp (s : State) (cd n : Nat) : (s.meshNotice cd n).mgmtUp = s.mgmtUp := (congrArg State.mgmtUp (MeshOnly.notice s cd n).rest :)
@[simp] theorem meshNotice_cmdRuns (s : State) (cd n : Nat) : (s.meshNotice cd n).cmdRuns = s.cmdRuns := (congrArg State.cmdRuns (MeshOnly.notice s cd n).rest :)
@[simp] theorem meshNotice_keptReplies (s : State) (cd n : Nat) : (s.meshNotice cd n).keptReplies = s.keptReplies := (congrArg State.keptReplies (MeshOnly.notice s cd n).rest :)
@[simp] theorem meshNotice_windows (s : State) (cd n : Nat) : (s.meshNotice cd n).windows = s.windows := (congrArg State.windows (MeshOnly.notice s cd n).rest :)
@[simp] theorem meshNotice_qSkip (s : State) (cd n : Nat) : (s.meshNotice cd n).qSkip = s.qSkip := (congrArg State.qSkip (MeshOnly.notice s cd n).rest :)
@[simp] theorem meshNotice_pending (s : State) (cd n : Nat) : (s.meshNotice cd n).pending = s.pending := (congrArg State.pending (MeshOnly.notice s cd n).rest :)
@[simp] theorem fld_meshOuter (s : State) (a : Nat) (w : Bool) {G : Fld} (d u i : Nat) (hF : G ≠ .MESH_CNT_FLITS_COUNT) (hP : G ≠ .MESH_PEAK_PEAK) :
    (s.meshOuter a w).fld G d u i = s.fld G d u i := (MeshOnly.outer ..).fld G d u i hF hP
@[simp] theorem meshOuter_b0 (s : State) (a : Nat) (w : Bool) : (s.meshOuter a w).b0 = s.b0 := (congrArg State.b0 (MeshOnly.outer s a w).rest :)
@[simp] theorem meshOuter_mem (s : State) (a : Nat) (w : Bool) : (s.meshOuter a w).mem = s.mem := (congrArg State.mem (MeshOnly.outer s a w).rest :)
@[simp] theorem meshOuter_side (s : State) (a : Nat) (w : Bool) : (s.meshOuter a w).side = s.side := (congrArg State.side (MeshOnly.outer s a w).rest :)
@[simp] theorem meshOuter_frames (s : State) (a : Nat) (w : Bool) : (s.meshOuter a w).frames = s.frames := (congrArg State.frames (MeshOnly.outer s a w).rest :)
@[simp] theorem meshOuter_blocks (s : State) (a : Nat) (w : Bool) : (s.meshOuter a w).blocks = s.blocks := (congrArg State.blocks (MeshOnly.outer s a w).rest :)
@[simp] theorem meshOuter_hcLines (s : State) (a : Nat) (w : Bool) : (s.meshOuter a w).hcLines = s.hcLines := (congrArg State.hcLines (MeshOnly.outer s a w).rest :)
@[simp] theorem meshOuter_hcClock (s : State) (a : Nat) (w : Bool) : (s.meshOuter a w).hcClock = s.hcClock := (congrArg State.hcClock (MeshOnly.outer s a w).rest :)
@[simp] theorem meshOuter_merges (s : State) (a : Nat) (w : Bool) : (s.meshOuter a w).merges = s.merges := (congrArg State.merges (MeshOnly.outer s a w).rest :)
@[simp] theorem meshOuter_memWait (s : State) (a : Nat) (w : Bool) : (s.meshOuter a w).memWait = s.memWait := (congrArg State.memWait (MeshOnly.outer s a w).rest :)
@[simp] theorem meshOuter_zeroBatch (s : State) (a : Nat) (w : Bool) : (s.meshOuter a w).zeroBatch = s.zeroBatch := (congrArg State.zeroBatch (MeshOnly.outer s a w).rest :)
@[simp] theorem meshOuter_scrubs (s : State) (a : Nat) (w : Bool) : (s.meshOuter a w).scrubs = s.scrubs := (congrArg State.scrubs (MeshOnly.outer s a w).rest :)
@[simp] theorem meshOuter_logTold (s : State) (a : Nat) (w : Bool) : (s.meshOuter a w).logTold = s.logTold := (congrArg State.logTold (MeshOnly.outer s a w).rest :)
@[simp] theorem meshOuter_arrays (s : State) (a : Nat) (w : Bool) : (s.meshOuter a w).arrays = s.arrays := (congrArg State.arrays (MeshOnly.outer s a w).rest :)
@[simp] theorem meshOuter_acbSeed (s : State) (a : Nat) (w : Bool) : (s.meshOuter a w).acbSeed = s.acbSeed := (congrArg State.acbSeed (MeshOnly.outer s a w).rest :)
@[simp] theorem meshOuter_acbAge (s : State) (a : Nat) (w : Bool) : (s.meshOuter a w).acbAge = s.acbAge := (congrArg State.acbAge (MeshOnly.outer s a w).rest :)
@[simp] theorem meshOuter_regions (s : State) (a : Nat) (w : Bool) : (s.meshOuter a w).regions = s.regions := (congrArg State.regions (MeshOnly.outer s a w).rest :)
@[simp] theorem meshOuter_bobbins (s : State) (a : Nat) (w : Bool) : (s.meshOuter a w).bobbins = s.bobbins := (congrArg State.bobbins (MeshOnly.outer s a w).rest :)
@[simp] theorem meshOuter_fills (s : State) (a : Nat) (w : Bool) : (s.meshOuter a w).fills = s.fills := (congrArg State.fills (MeshOnly.outer s a w).rest :)
@[simp] theorem meshOuter_earlyRead (s : State) (a : Nat) (w : Bool) : (s.meshOuter a w).earlyRead = s.earlyRead := (congrArg State.earlyRead (MeshOnly.outer s a w).rest :)
@[simp] theorem meshOuter_tile (s : State) (a : Nat) (w : Bool) : (s.meshOuter a w).tile = s.tile := (congrArg State.tile (MeshOnly.outer s a w).rest :)
@[simp] theorem meshOuter_tileTag (s : State) (a : Nat) (w : Bool) : (s.meshOuter a w).tileTag = s.tileTag := (congrArg State.tileTag (MeshOnly.outer s a w).rest :)
@[simp] theorem meshOuter_tileErr (s : State) (a : Nat) (w : Bool) : (s.meshOuter a w).tileErr = s.tileErr := (congrArg State.tileErr (MeshOnly.outer s a w).rest :)
@[simp] theorem meshOuter_uses (s : State) (a : Nat) (w : Bool) : (s.meshOuter a w).uses = s.uses := (congrArg State.uses (MeshOnly.outer s a w).rest :)
@[simp] theorem meshOuter_useCount (s : State) (a : Nat) (w : Bool) : (s.meshOuter a w).useCount = s.useCount := (congrArg State.useCount (MeshOnly.outer s a w).rest :)
@[simp] theorem meshOuter_stations (s : State) (a : Nat) (w : Bool) : (s.meshOuter a w).stations = s.stations := (congrArg State.stations (MeshOnly.outer s a w).rest :)
@[simp] theorem meshOuter_gateways (s : State) (a : Nat) (w : Bool) : (s.meshOuter a w).gateways = s.gateways := (congrArg State.gateways (MeshOnly.outer s a w).rest :)
@[simp] theorem meshOuter_rings (s : State) (a : Nat) (w : Bool) : (s.meshOuter a w).rings = s.rings := (congrArg State.rings (MeshOnly.outer s a w).rest :)
@[simp] theorem meshOuter_carBeat (s : State) (a : Nat) (w : Bool) : (s.meshOuter a w).carBeat = s.carBeat := (congrArg State.carBeat (MeshOnly.outer s a w).rest :)
@[simp] theorem meshOuter_halves (s : State) (a : Nat) (w : Bool) : (s.meshOuter a w).halves = s.halves := (congrArg State.halves (MeshOnly.outer s a w).rest :)
@[simp] theorem meshOuter_injBeat (s : State) (a : Nat) (w : Bool) : (s.meshOuter a w).injBeat = s.injBeat := (congrArg State.injBeat (MeshOnly.outer s a w).rest :)
@[simp] theorem meshOuter_ctxs (s : State) (a : Nat) (w : Bool) : (s.meshOuter a w).ctxs = s.ctxs := (congrArg State.ctxs (MeshOnly.outer s a w).rest :)
@[simp] theorem meshOuter_sregs (s : State) (a : Nat) (w : Bool) : (s.meshOuter a w).sregs = s.sregs := (congrArg State.sregs (MeshOnly.outer s a w).rest :)
@[simp] theorem meshOuter_cnts (s : State) (a : Nat) (w : Bool) : (s.meshOuter a w).cnts = s.cnts := (congrArg State.cnts (MeshOnly.outer s a w).rest :)
@[simp] theorem meshOuter_syncs (s : State) (a : Nat) (w : Bool) : (s.meshOuter a w).syncs = s.syncs := (congrArg State.syncs (MeshOnly.outer s a w).rest :)
@[simp] theorem meshOuter_beat (s : State) (a : Nat) (w : Bool) : (s.meshOuter a w).beat = s.beat := (congrArg State.beat (MeshOnly.outer s a w).rest :)
@[simp] theorem meshOuter_busyAt (s : State) (a : Nat) (w : Bool) : (s.meshOuter a w).busyAt = s.busyAt := (congrArg State.busyAt (MeshOnly.outer s a w).rest :)
@[simp] theorem meshOuter_tktWait (s : State) (a : Nat) (w : Bool) : (s.meshOuter a w).tktWait = s.tktWait := (congrArg State.tktWait (MeshOnly.outer s a w).rest :)
@[simp] theorem meshOuter_lastRan (s : State) (a : Nat) (w : Bool) : (s.meshOuter a w).lastRan = s.lastRan := (congrArg State.lastRan (MeshOnly.outer s a w).rest :)
@[simp] theorem meshOuter_pend (s : State) (a : Nat) (w : Bool) : (s.meshOuter a w).pend = s.pend := (congrArg State.pend (MeshOnly.outer s a w).rest :)
@[simp] theorem meshOuter_patterns (s : State) (a : Nat) (w : Bool) : (s.meshOuter a w).patterns = s.patterns := (congrArg State.patterns (MeshOnly.outer s a w).rest :)
@[simp] theorem meshOuter_patLoaded (s : State) (a : Nat) (w : Bool) : (s.meshOuter a w).patLoaded = s.patLoaded := (congrArg State.patLoaded (MeshOnly.outer s a w).rest :)
@[simp] theorem meshOuter_code (s : State) (a : Nat) (w : Bool) : (s.meshOuter a w).code = s.code := (congrArg State.code (MeshOnly.outer s a w).rest :)
@[simp] theorem meshOuter_konst (s : State) (a : Nat) (w : Bool) : (s.meshOuter a w).konst = s.konst := (congrArg State.konst (MeshOnly.outer s a w).rest :)
@[simp] theorem meshOuter_charges (s : State) (a : Nat) (w : Bool) : (s.meshOuter a w).charges = s.charges := (congrArg State.charges (MeshOnly.outer s a w).rest :)
@[simp] theorem meshOuter_slotPause (s : State) (a : Nat) (w : Bool) : (s.meshOuter a w).slotPause = s.slotPause := (congrArg State.slotPause (MeshOnly.outer s a w).rest :)
@[simp] theorem meshOuter_yieldAt (s : State) (a : Nat) (w : Bool) : (s.meshOuter a w).yieldAt = s.yieldAt := (congrArg State.yieldAt (MeshOnly.outer s a w).rest :)
@[simp] theorem meshOuter_yieldHold (s : State) (a : Nat) (w : Bool) : (s.meshOuter a w).yieldHold = s.yieldHold := (congrArg State.yieldHold (MeshOnly.outer s a w).rest :)
@[simp] theorem meshOuter_heldBy (s : State) (a : Nat) (w : Bool) : (s.meshOuter a w).heldBy = s.heldBy := (congrArg State.heldBy (MeshOnly.outer s a w).rest :)
@[simp] theorem meshOuter_ves (s : State) (a : Nat) (w : Bool) : (s.meshOuter a w).ves = s.ves := (congrArg State.ves (MeshOnly.outer s a w).rest :)
@[simp] theorem meshOuter_vreg (s : State) (a : Nat) (w : Bool) : (s.meshOuter a w).vreg = s.vreg := (congrArg State.vreg (MeshOnly.outer s a w).rest :)
@[simp] theorem meshOuter_vsealed (s : State) (a : Nat) (w : Bool) : (s.meshOuter a w).vsealed = s.vsealed := (congrArg State.vsealed (MeshOnly.outer s a w).rest :)
@[simp] theorem meshOuter_ftab (s : State) (a : Nat) (w : Bool) : (s.meshOuter a w).ftab = s.ftab := (congrArg State.ftab (MeshOnly.outer s a w).rest :)
@[simp] theorem meshOuter_pairEpoch (s : State) (a : Nat) (w : Bool) : (s.meshOuter a w).pairEpoch = s.pairEpoch := (congrArg State.pairEpoch (MeshOnly.outer s a w).rest :)
@[simp] theorem meshOuter_pairSealed (s : State) (a : Nat) (w : Bool) : (s.meshOuter a w).pairSealed = s.pairSealed := (congrArg State.pairSealed (MeshOnly.outer s a w).rest :)
@[simp] theorem meshOuter_ses (s : State) (a : Nat) (w : Bool) : (s.meshOuter a w).ses = s.ses := (congrArg State.ses (MeshOnly.outer s a w).rest :)
@[simp] theorem meshOuter_streams (s : State) (a : Nat) (w : Bool) : (s.meshOuter a w).streams = s.streams := (congrArg State.streams (MeshOnly.outer s a w).rest :)
@[simp] theorem meshOuter_poolMoved (s : State) (a : Nat) (w : Bool) : (s.meshOuter a w).poolMoved = s.poolMoved := (congrArg State.poolMoved (MeshOnly.outer s a w).rest :)
@[simp] theorem meshOuter_poolTold (s : State) (a : Nat) (w : Bool) : (s.meshOuter a w).poolTold = s.poolTold := (congrArg State.poolTold (MeshOnly.outer s a w).rest :)
@[simp] theorem meshOuter_stash (s : State) (a : Nat) (w : Bool) : (s.meshOuter a w).stash = s.stash := (congrArg State.stash (MeshOnly.outer s a w).rest :)
@[simp] theorem meshOuter_groups (s : State) (a : Nat) (w : Bool) : (s.meshOuter a w).groups = s.groups := (congrArg State.groups (MeshOnly.outer s a w).rest :)
@[simp] theorem meshOuter_votes (s : State) (a : Nat) (w : Bool) : (s.meshOuter a w).votes = s.votes := (congrArg State.votes (MeshOnly.outer s a w).rest :)
@[simp] theorem meshOuter_updates (s : State) (a : Nat) (w : Bool) : (s.meshOuter a w).updates = s.updates := (congrArg State.updates (MeshOnly.outer s a w).rest :)
@[simp] theorem meshOuter_awaiting (s : State) (a : Nat) (w : Bool) : (s.meshOuter a w).awaiting = s.awaiting := (congrArg State.awaiting (MeshOnly.outer s a w).rest :)
@[simp] theorem meshOuter_torn (s : State) (a : Nat) (w : Bool) : (s.meshOuter a w).torn = s.torn := (congrArg State.torn (MeshOnly.outer s a w).rest :)
@[simp] theorem meshOuter_gathers (s : State) (a : Nat) (w : Bool) : (s.meshOuter a w).gathers = s.gathers := (congrArg State.gathers (MeshOnly.outer s a w).rest :)
@[simp] theorem meshOuter_ports (s : State) (a : Nat) (w : Bool) : (s.meshOuter a w).ports = s.ports := (congrArg State.ports (MeshOnly.outer s a w).rest :)
@[simp] theorem meshOuter_held (s : State) (a : Nat) (w : Bool) : (s.meshOuter a w).held = s.held := (congrArg State.held (MeshOnly.outer s a w).rest :)
@[simp] theorem meshOuter_inbox (s : State) (a : Nat) (w : Bool) : (s.meshOuter a w).inbox = s.inbox := (congrArg State.inbox (MeshOnly.outer s a w).rest :)
@[simp] theorem meshOuter_recIn (s : State) (a : Nat) (w : Bool) : (s.meshOuter a w).recIn = s.recIn := (congrArg State.recIn (MeshOnly.outer s a w).rest :)
@[simp] theorem meshOuter_aliveAt (s : State) (a : Nat) (w : Bool) : (s.meshOuter a w).aliveAt = s.aliveAt := (congrArg State.aliveAt (MeshOnly.outer s a w).rest :)
@[simp] theorem meshOuter_hbAllowed (s : State) (a : Nat) (w : Bool) : (s.meshOuter a w).hbAllowed = s.hbAllowed := (congrArg State.hbAllowed (MeshOnly.outer s a w).rest :)
@[simp] theorem meshOuter_unfit (s : State) (a : Nat) (w : Bool) : (s.meshOuter a w).unfit = s.unfit := (congrArg State.unfit (MeshOnly.outer s a w).rest :)
@[simp] theorem meshOuter_colls (s : State) (a : Nat) (w : Bool) : (s.meshOuter a w).colls = s.colls := (congrArg State.colls (MeshOnly.outer s a w).rest :)
@[simp] theorem meshOuter_insts (s : State) (a : Nat) (w : Bool) : (s.meshOuter a w).insts = s.insts := (congrArg State.insts (MeshOnly.outer s a w).rest :)
@[simp] theorem meshOuter_landed (s : State) (a : Nat) (w : Bool) : (s.meshOuter a w).landed = s.landed := (congrArg State.landed (MeshOnly.outer s a w).rest :)
@[simp] theorem meshOuter_reGen (s : State) (a : Nat) (w : Bool) : (s.meshOuter a w).reGen = s.reGen := (congrArg State.reGen (MeshOnly.outer s a w).rest :)
@[simp] theorem meshOuter_policy (s : State) (a : Nat) (w : Bool) : (s.meshOuter a w).policy = s.policy := (congrArg State.policy (MeshOnly.outer s a w).rest :)
@[simp] theorem meshOuter_rates (s : State) (a : Nat) (w : Bool) : (s.meshOuter a w).rates = s.rates := (congrArg State.rates (MeshOnly.outer s a w).rest :)
@[simp] theorem meshOuter_rateAt (s : State) (a : Nat) (w : Bool) : (s.meshOuter a w).rateAt = s.rateAt := (congrArg State.rateAt (MeshOnly.outer s a w).rest :)
@[simp] theorem meshOuter_polHash (s : State) (a : Nat) (w : Bool) : (s.meshOuter a w).polHash = s.polHash := (congrArg State.polHash (MeshOnly.outer s a w).rest :)
@[simp] theorem meshOuter_polFloor (s : State) (a : Nat) (w : Bool) : (s.meshOuter a w).polFloor = s.polFloor := (congrArg State.polFloor (MeshOnly.outer s a w).rest :)
@[simp] theorem meshOuter_quoting (s : State) (a : Nat) (w : Bool) : (s.meshOuter a w).quoting = s.quoting := (congrArg State.quoting (MeshOnly.outer s a w).rest :)
@[simp] theorem meshOuter_releases (s : State) (a : Nat) (w : Bool) : (s.meshOuter a w).releases = s.releases := (congrArg State.releases (MeshOnly.outer s a w).rest :)
@[simp] theorem meshOuter_relLog (s : State) (a : Nat) (w : Bool) : (s.meshOuter a w).relLog = s.relLog := (congrArg State.relLog (MeshOnly.outer s a w).rest :)
@[simp] theorem meshOuter_relAck (s : State) (a : Nat) (w : Bool) : (s.meshOuter a w).relAck = s.relAck := (congrArg State.relAck (MeshOnly.outer s a w).rest :)
@[simp] theorem meshOuter_clocks (s : State) (a : Nat) (w : Bool) : (s.meshOuter a w).clocks = s.clocks := (congrArg State.clocks (MeshOnly.outer s a w).rest :)
@[simp] theorem meshOuter_snaps (s : State) (a : Nat) (w : Bool) : (s.meshOuter a w).snaps = s.snaps := (congrArg State.snaps (MeshOnly.outer s a w).rest :)
@[simp] theorem meshOuter_flash (s : State) (a : Nat) (w : Bool) : (s.meshOuter a w).flash = s.flash := (congrArg State.flash (MeshOnly.outer s a w).rest :)
@[simp] theorem meshOuter_mirrors (s : State) (a : Nat) (w : Bool) : (s.meshOuter a w).mirrors = s.mirrors := (congrArg State.mirrors (MeshOnly.outer s a w).rest :)
@[simp] theorem meshOuter_claims (s : State) (a : Nat) (w : Bool) : (s.meshOuter a w).claims = s.claims := (congrArg State.claims (MeshOnly.outer s a w).rest :)
@[simp] theorem meshOuter_lost (s : State) (a : Nat) (w : Bool) : (s.meshOuter a w).lost = s.lost := (congrArg State.lost (MeshOnly.outer s a w).rest :)
@[simp] theorem meshOuter_quiet (s : State) (a : Nat) (w : Bool) : (s.meshOuter a w).quiet = s.quiet := (congrArg State.quiet (MeshOnly.outer s a w).rest :)
@[simp] theorem meshOuter_recovering (s : State) (a : Nat) (w : Bool) : (s.meshOuter a w).recovering = s.recovering := (congrArg State.recovering (MeshOnly.outer s a w).rest :)
@[simp] theorem meshOuter_origin (s : State) (a : Nat) (w : Bool) : (s.meshOuter a w).origin = s.origin := (congrArg State.origin (MeshOnly.outer s a w).rest :)
@[simp] theorem meshOuter_restores (s : State) (a : Nat) (w : Bool) : (s.meshOuter a w).restores = s.restores := (congrArg State.restores (MeshOnly.outer s a w).rest :)
@[simp] theorem meshOuter_resumed (s : State) (a : Nat) (w : Bool) : (s.meshOuter a w).resumed = s.resumed := (congrArg State.resumed (MeshOnly.outer s a w).rest :)
@[simp] theorem meshOuter_swung (s : State) (a : Nat) (w : Bool) : (s.meshOuter a w).swung = s.swung := (congrArg State.swung (MeshOnly.outer s a w).rest :)
@[simp] theorem meshOuter_handback (s : State) (a : Nat) (w : Bool) : (s.meshOuter a w).handback = s.handback := (congrArg State.handback (MeshOnly.outer s a w).rest :)
@[simp] theorem meshOuter_recFills (s : State) (a : Nat) (w : Bool) : (s.meshOuter a w).recFills = s.recFills := (congrArg State.recFills (MeshOnly.outer s a w).rest :)
@[simp] theorem meshOuter_fillReqs (s : State) (a : Nat) (w : Bool) : (s.meshOuter a w).fillReqs = s.fillReqs := (congrArg State.fillReqs (MeshOnly.outer s a w).rest :)
@[simp] theorem meshOuter_digests (s : State) (a : Nat) (w : Bool) : (s.meshOuter a w).digests = s.digests := (congrArg State.digests (MeshOnly.outer s a w).rest :)
@[simp] theorem meshOuter_events (s : State) (a : Nat) (w : Bool) : (s.meshOuter a w).events = s.events := (congrArg State.events (MeshOnly.outer s a w).rest :)
@[simp] theorem meshOuter_staged (s : State) (a : Nat) (w : Bool) : (s.meshOuter a w).staged = s.staged := (congrArg State.staged (MeshOnly.outer s a w).rest :)
@[simp] theorem meshOuter_evLog (s : State) (a : Nat) (w : Bool) : (s.meshOuter a w).evLog = s.evLog := (congrArg State.evLog (MeshOnly.outer s a w).rest :)
@[simp] theorem meshOuter_flushN (s : State) (a : Nat) (w : Bool) : (s.meshOuter a w).flushN = s.flushN := (congrArg State.flushN (MeshOnly.outer s a w).rest :)
@[simp] theorem meshOuter_flushDue (s : State) (a : Nat) (w : Bool) : (s.meshOuter a w).flushDue = s.flushDue := (congrArg State.flushDue (MeshOnly.outer s a w).rest :)
@[simp] theorem meshOuter_buckets (s : State) (a : Nat) (w : Bool) : (s.meshOuter a w).buckets = s.buckets := (congrArg State.buckets (MeshOnly.outer s a w).rest :)
@[simp] theorem meshOuter_out (s : State) (a : Nat) (w : Bool) : (s.meshOuter a w).out = s.out := (congrArg State.out (MeshOnly.outer s a w).rest :)
@[simp] theorem meshOuter_resp (s : State) (a : Nat) (w : Bool) : (s.meshOuter a w).resp = s.resp := (congrArg State.resp (MeshOnly.outer s a w).rest :)
@[simp] theorem meshOuter_irq (s : State) (a : Nat) (w : Bool) : (s.meshOuter a w).irq = s.irq := (congrArg State.irq (MeshOnly.outer s a w).rest :)
@[simp] theorem meshOuter_notices (s : State) (a : Nat) (w : Bool) : (s.meshOuter a w).notices = s.notices := (congrArg State.notices (MeshOnly.outer s a w).rest :)
@[simp] theorem meshOuter_fresh (s : State) (a : Nat) (w : Bool) : (s.meshOuter a w).fresh = s.fresh := (congrArg State.fresh (MeshOnly.outer s a w).rest :)
@[simp] theorem meshOuter_replies (s : State) (a : Nat) (w : Bool) : (s.meshOuter a w).replies = s.replies := (congrArg State.replies (MeshOnly.outer s a w).rest :)
@[simp] theorem meshOuter_cplOwed (s : State) (a : Nat) (w : Bool) : (s.meshOuter a w).cplOwed = s.cplOwed := (congrArg State.cplOwed (MeshOnly.outer s a w).rest :)
@[simp] theorem meshOuter_now (s : State) (a : Nat) (w : Bool) : (s.meshOuter a w).now = s.now := (congrArg State.now (MeshOnly.outer s a w).rest :)
@[simp] theorem meshOuter_caps (s : State) (a : Nat) (w : Bool) : (s.meshOuter a w).caps = s.caps := (congrArg State.caps (MeshOnly.outer s a w).rest :)
@[simp] theorem meshOuter_sensors (s : State) (a : Nat) (w : Bool) : (s.meshOuter a w).sensors = s.sensors := (congrArg State.sensors (MeshOnly.outer s a w).rest :)
@[simp] theorem meshOuter_powerRun (s : State) (a : Nat) (w : Bool) : (s.meshOuter a w).powerRun = s.powerRun := (congrArg State.powerRun (MeshOnly.outer s a w).rest :)
@[simp] theorem meshOuter_powerRamp (s : State) (a : Nat) (w : Bool) : (s.meshOuter a w).powerRamp = s.powerRamp := (congrArg State.powerRamp (MeshOnly.outer s a w).rest :)
@[simp] theorem meshOuter_ramps (s : State) (a : Nat) (w : Bool) : (s.meshOuter a w).ramps = s.ramps := (congrArg State.ramps (MeshOnly.outer s a w).rest :)
@[simp] theorem meshOuter_stages (s : State) (a : Nat) (w : Bool) : (s.meshOuter a w).stages = s.stages := (congrArg State.stages (MeshOnly.outer s a w).rest :)
@[simp] theorem meshOuter_booted (s : State) (a : Nat) (w : Bool) : (s.meshOuter a w).booted = s.booted := (congrArg State.booted (MeshOnly.outer s a w).rest :)
@[simp] theorem meshOuter_bootAt (s : State) (a : Nat) (w : Bool) : (s.meshOuter a w).bootAt = s.bootAt := (congrArg State.bootAt (MeshOnly.outer s a w).rest :)
@[simp] theorem meshOuter_coolWait (s : State) (a : Nat) (w : Bool) : (s.meshOuter a w).coolWait = s.coolWait := (congrArg State.coolWait (MeshOnly.outer s a w).rest :)
@[simp] theorem meshOuter_stage1 (s : State) (a : Nat) (w : Bool) : (s.meshOuter a w).stage1 = s.stage1 := (congrArg State.stage1 (MeshOnly.outer s a w).rest :)
@[simp] theorem meshOuter_selfTests (s : State) (a : Nat) (w : Bool) : (s.meshOuter a w).selfTests = s.selfTests := (congrArg State.selfTests (MeshOnly.outer s a w).rest :)
@[simp] theorem meshOuter_trainings (s : State) (a : Nat) (w : Bool) : (s.meshOuter a w).trainings = s.trainings := (congrArg State.trainings (MeshOnly.outer s a w).rest :)
@[simp] theorem meshOuter_coreMark (s : State) (a : Nat) (w : Bool) : (s.meshOuter a w).coreMark = s.coreMark := (congrArg State.coreMark (MeshOnly.outer s a w).rest :)
@[simp] theorem meshOuter_lateLevel (s : State) (a : Nat) (w : Bool) : (s.meshOuter a w).lateLevel = s.lateLevel := (congrArg State.lateLevel (MeshOnly.outer s a w).rest :)
@[simp] theorem meshOuter_capRaised (s : State) (a : Nat) (w : Bool) : (s.meshOuter a w).capRaised = s.capRaised := (congrArg State.capRaised (MeshOnly.outer s a w).rest :)
@[simp] theorem meshOuter_resetDue (s : State) (a : Nat) (w : Bool) : (s.meshOuter a w).resetDue = s.resetDue := (congrArg State.resetDue (MeshOnly.outer s a w).rest :)
@[simp] theorem meshOuter_fwA (s : State) (a : Nat) (w : Bool) : (s.meshOuter a w).fwA = s.fwA := (congrArg State.fwA (MeshOnly.outer s a w).rest :)
@[simp] theorem meshOuter_fwB (s : State) (a : Nat) (w : Bool) : (s.meshOuter a w).fwB = s.fwB := (congrArg State.fwB (MeshOnly.outer s a w).rest :)
@[simp] theorem meshOuter_fwRuns (s : State) (a : Nat) (w : Bool) : (s.meshOuter a w).fwRuns = s.fwRuns := (congrArg State.fwRuns (MeshOnly.outer s a w).rest :)
@[simp] theorem meshOuter_fwJob (s : State) (a : Nat) (w : Bool) : (s.meshOuter a w).fwJob = s.fwJob := (congrArg State.fwJob (MeshOnly.outer s a w).rest :)
@[simp] theorem meshOuter_fwTrial (s : State) (a : Nat) (w : Bool) : (s.meshOuter a w).fwTrial = s.fwTrial := (congrArg State.fwTrial (MeshOnly.outer s a w).rest :)
@[simp] theorem meshOuter_supBootAt (s : State) (a : Nat) (w : Bool) : (s.meshOuter a w).supBootAt = s.supBootAt := (congrArg State.supBootAt (MeshOnly.outer s a w).rest :)
@[simp] theorem meshOuter_wdogAt (s : State) (a : Nat) (w : Bool) : (s.meshOuter a w).wdogAt = s.wdogAt := (congrArg State.wdogAt (MeshOnly.outer s a w).rest :)
@[simp] theorem meshOuter_wdogNmi (s : State) (a : Nat) (w : Bool) : (s.meshOuter a w).wdogNmi = s.wdogNmi := (congrArg State.wdogNmi (MeshOnly.outer s a w).rest :)
@[simp] theorem meshOuter_record (s : State) (a : Nat) (w : Bool) : (s.meshOuter a w).record = s.record := (congrArg State.record (MeshOnly.outer s a w).rest :)
@[simp] theorem meshOuter_recordSigned (s : State) (a : Nat) (w : Bool) : (s.meshOuter a w).recordSigned = s.recordSigned := (congrArg State.recordSigned (MeshOnly.outer s a w).rest :)
@[simp] theorem meshOuter_recordKeys (s : State) (a : Nat) (w : Bool) : (s.meshOuter a w).recordKeys = s.recordKeys := (congrArg State.recordKeys (MeshOnly.outer s a w).rest :)
@[simp] theorem meshOuter_mgmtUp (s : State) (a : Nat) (w : Bool) : (s.meshOuter a w).mgmtUp = s.mgmtUp := (congrArg State.mgmtUp (MeshOnly.outer s a w).rest :)
@[simp] theorem meshOuter_cmdRuns (s : State) (a : Nat) (w : Bool) : (s.meshOuter a w).cmdRuns = s.cmdRuns := (congrArg State.cmdRuns (MeshOnly.outer s a w).rest :)
@[simp] theorem meshOuter_keptReplies (s : State) (a : Nat) (w : Bool) : (s.meshOuter a w).keptReplies = s.keptReplies := (congrArg State.keptReplies (MeshOnly.outer s a w).rest :)
@[simp] theorem meshOuter_windows (s : State) (a : Nat) (w : Bool) : (s.meshOuter a w).windows = s.windows := (congrArg State.windows (MeshOnly.outer s a w).rest :)
@[simp] theorem meshOuter_qSkip (s : State) (a : Nat) (w : Bool) : (s.meshOuter a w).qSkip = s.qSkip := (congrArg State.qSkip (MeshOnly.outer s a w).rest :)
@[simp] theorem meshOuter_pending (s : State) (a : Nat) (w : Bool) : (s.meshOuter a w).pending = s.pending := (congrArg State.pending (MeshOnly.outer s a w).rest :)
@[simp] theorem crossEntries_csr (s : State) (cd k n : Nat) : (s.crossEntries cd k n).csr = s.csr := rfl
@[simp] theorem crossEntries_b0 (s : State) (cd k n : Nat) : (s.crossEntries cd k n).b0 = s.b0 := rfl
@[simp] theorem crossEntries_mem (s : State) (cd k n : Nat) : (s.crossEntries cd k n).mem = s.mem := rfl
@[simp] theorem crossEntries_side (s : State) (cd k n : Nat) : (s.crossEntries cd k n).side = s.side := rfl
@[simp] theorem crossEntries_frames (s : State) (cd k n : Nat) : (s.crossEntries cd k n).frames = s.frames := rfl
@[simp] theorem crossEntries_blocks (s : State) (cd k n : Nat) : (s.crossEntries cd k n).blocks = s.blocks := rfl
@[simp] theorem crossEntries_hcLines (s : State) (cd k n : Nat) : (s.crossEntries cd k n).hcLines = s.hcLines := rfl
@[simp] theorem crossEntries_hcClock (s : State) (cd k n : Nat) : (s.crossEntries cd k n).hcClock = s.hcClock := rfl
@[simp] theorem crossEntries_merges (s : State) (cd k n : Nat) : (s.crossEntries cd k n).merges = s.merges := rfl
@[simp] theorem crossEntries_memWait (s : State) (cd k n : Nat) : (s.crossEntries cd k n).memWait = s.memWait := rfl
@[simp] theorem crossEntries_zeroBatch (s : State) (cd k n : Nat) : (s.crossEntries cd k n).zeroBatch = s.zeroBatch := rfl
@[simp] theorem crossEntries_scrubs (s : State) (cd k n : Nat) : (s.crossEntries cd k n).scrubs = s.scrubs := rfl
@[simp] theorem crossEntries_logTold (s : State) (cd k n : Nat) : (s.crossEntries cd k n).logTold = s.logTold := rfl
@[simp] theorem crossEntries_arrays (s : State) (cd k n : Nat) : (s.crossEntries cd k n).arrays = s.arrays := rfl
@[simp] theorem crossEntries_acbSeed (s : State) (cd k n : Nat) : (s.crossEntries cd k n).acbSeed = s.acbSeed := rfl
@[simp] theorem crossEntries_acbAge (s : State) (cd k n : Nat) : (s.crossEntries cd k n).acbAge = s.acbAge := rfl
@[simp] theorem crossEntries_regions (s : State) (cd k n : Nat) : (s.crossEntries cd k n).regions = s.regions := rfl
@[simp] theorem crossEntries_bobbins (s : State) (cd k n : Nat) : (s.crossEntries cd k n).bobbins = s.bobbins := rfl
@[simp] theorem crossEntries_fills (s : State) (cd k n : Nat) : (s.crossEntries cd k n).fills = s.fills := rfl
@[simp] theorem crossEntries_earlyRead (s : State) (cd k n : Nat) : (s.crossEntries cd k n).earlyRead = s.earlyRead := rfl
@[simp] theorem crossEntries_tile (s : State) (cd k n : Nat) : (s.crossEntries cd k n).tile = s.tile := rfl
@[simp] theorem crossEntries_tileTag (s : State) (cd k n : Nat) : (s.crossEntries cd k n).tileTag = s.tileTag := rfl
@[simp] theorem crossEntries_tileErr (s : State) (cd k n : Nat) : (s.crossEntries cd k n).tileErr = s.tileErr := rfl
@[simp] theorem crossEntries_uses (s : State) (cd k n : Nat) : (s.crossEntries cd k n).uses = s.uses := rfl
@[simp] theorem crossEntries_useCount (s : State) (cd k n : Nat) : (s.crossEntries cd k n).useCount = s.useCount := rfl
@[simp] theorem crossEntries_stations (s : State) (cd k n : Nat) : (s.crossEntries cd k n).stations = s.stations := rfl
@[simp] theorem crossEntries_gateways (s : State) (cd k n : Nat) : (s.crossEntries cd k n).gateways = s.gateways := rfl
@[simp] theorem crossEntries_rings (s : State) (cd k n : Nat) : (s.crossEntries cd k n).rings = s.rings := rfl
@[simp] theorem crossEntries_carBeat (s : State) (cd k n : Nat) : (s.crossEntries cd k n).carBeat = s.carBeat := rfl
@[simp] theorem crossEntries_halves (s : State) (cd k n : Nat) : (s.crossEntries cd k n).halves = s.halves := rfl
@[simp] theorem crossEntries_injBeat (s : State) (cd k n : Nat) : (s.crossEntries cd k n).injBeat = s.injBeat := rfl
@[simp] theorem crossEntries_ctxs (s : State) (cd k n : Nat) : (s.crossEntries cd k n).ctxs = s.ctxs := rfl
@[simp] theorem crossEntries_sregs (s : State) (cd k n : Nat) : (s.crossEntries cd k n).sregs = s.sregs := rfl
@[simp] theorem crossEntries_cnts (s : State) (cd k n : Nat) : (s.crossEntries cd k n).cnts = s.cnts := rfl
@[simp] theorem crossEntries_syncs (s : State) (cd k n : Nat) : (s.crossEntries cd k n).syncs = s.syncs := rfl
@[simp] theorem crossEntries_beat (s : State) (cd k n : Nat) : (s.crossEntries cd k n).beat = s.beat := rfl
@[simp] theorem crossEntries_busyAt (s : State) (cd k n : Nat) : (s.crossEntries cd k n).busyAt = s.busyAt := rfl
@[simp] theorem crossEntries_tktWait (s : State) (cd k n : Nat) : (s.crossEntries cd k n).tktWait = s.tktWait := rfl
@[simp] theorem crossEntries_lastRan (s : State) (cd k n : Nat) : (s.crossEntries cd k n).lastRan = s.lastRan := rfl
@[simp] theorem crossEntries_pend (s : State) (cd k n : Nat) : (s.crossEntries cd k n).pend = s.pend := rfl
@[simp] theorem crossEntries_patterns (s : State) (cd k n : Nat) : (s.crossEntries cd k n).patterns = s.patterns := rfl
@[simp] theorem crossEntries_patLoaded (s : State) (cd k n : Nat) : (s.crossEntries cd k n).patLoaded = s.patLoaded := rfl
@[simp] theorem crossEntries_code (s : State) (cd k n : Nat) : (s.crossEntries cd k n).code = s.code := rfl
@[simp] theorem crossEntries_konst (s : State) (cd k n : Nat) : (s.crossEntries cd k n).konst = s.konst := rfl
@[simp] theorem crossEntries_charges (s : State) (cd k n : Nat) : (s.crossEntries cd k n).charges = s.charges := rfl
@[simp] theorem crossEntries_slotPause (s : State) (cd k n : Nat) : (s.crossEntries cd k n).slotPause = s.slotPause := rfl
@[simp] theorem crossEntries_yieldAt (s : State) (cd k n : Nat) : (s.crossEntries cd k n).yieldAt = s.yieldAt := rfl
@[simp] theorem crossEntries_yieldHold (s : State) (cd k n : Nat) : (s.crossEntries cd k n).yieldHold = s.yieldHold := rfl
@[simp] theorem crossEntries_heldBy (s : State) (cd k n : Nat) : (s.crossEntries cd k n).heldBy = s.heldBy := rfl
@[simp] theorem crossEntries_ves (s : State) (cd k n : Nat) : (s.crossEntries cd k n).ves = s.ves := rfl
@[simp] theorem crossEntries_vreg (s : State) (cd k n : Nat) : (s.crossEntries cd k n).vreg = s.vreg := rfl
@[simp] theorem crossEntries_vsealed (s : State) (cd k n : Nat) : (s.crossEntries cd k n).vsealed = s.vsealed := rfl
@[simp] theorem crossEntries_ftab (s : State) (cd k n : Nat) : (s.crossEntries cd k n).ftab = s.ftab := rfl
@[simp] theorem crossEntries_pairEpoch (s : State) (cd k n : Nat) : (s.crossEntries cd k n).pairEpoch = s.pairEpoch := rfl
@[simp] theorem crossEntries_pairSealed (s : State) (cd k n : Nat) : (s.crossEntries cd k n).pairSealed = s.pairSealed := rfl
@[simp] theorem crossEntries_ses (s : State) (cd k n : Nat) : (s.crossEntries cd k n).ses = s.ses := rfl
@[simp] theorem crossEntries_streams (s : State) (cd k n : Nat) : (s.crossEntries cd k n).streams = s.streams := rfl
@[simp] theorem crossEntries_poolMoved (s : State) (cd k n : Nat) : (s.crossEntries cd k n).poolMoved = s.poolMoved := rfl
@[simp] theorem crossEntries_poolTold (s : State) (cd k n : Nat) : (s.crossEntries cd k n).poolTold = s.poolTold := rfl
@[simp] theorem crossEntries_stash (s : State) (cd k n : Nat) : (s.crossEntries cd k n).stash = s.stash := rfl
@[simp] theorem crossEntries_groups (s : State) (cd k n : Nat) : (s.crossEntries cd k n).groups = s.groups := rfl
@[simp] theorem crossEntries_votes (s : State) (cd k n : Nat) : (s.crossEntries cd k n).votes = s.votes := rfl
@[simp] theorem crossEntries_updates (s : State) (cd k n : Nat) : (s.crossEntries cd k n).updates = s.updates := rfl
@[simp] theorem crossEntries_awaiting (s : State) (cd k n : Nat) : (s.crossEntries cd k n).awaiting = s.awaiting := rfl
@[simp] theorem crossEntries_torn (s : State) (cd k n : Nat) : (s.crossEntries cd k n).torn = s.torn := rfl
@[simp] theorem crossEntries_gathers (s : State) (cd k n : Nat) : (s.crossEntries cd k n).gathers = s.gathers := rfl
@[simp] theorem crossEntries_ports (s : State) (cd k n : Nat) : (s.crossEntries cd k n).ports = s.ports := rfl
@[simp] theorem crossEntries_held (s : State) (cd k n : Nat) : (s.crossEntries cd k n).held = s.held := rfl
@[simp] theorem crossEntries_inbox (s : State) (cd k n : Nat) : (s.crossEntries cd k n).inbox = s.inbox := rfl
@[simp] theorem crossEntries_recIn (s : State) (cd k n : Nat) : (s.crossEntries cd k n).recIn = s.recIn := rfl
@[simp] theorem crossEntries_aliveAt (s : State) (cd k n : Nat) : (s.crossEntries cd k n).aliveAt = s.aliveAt := rfl
@[simp] theorem crossEntries_hbAllowed (s : State) (cd k n : Nat) : (s.crossEntries cd k n).hbAllowed = s.hbAllowed := rfl
@[simp] theorem crossEntries_unfit (s : State) (cd k n : Nat) : (s.crossEntries cd k n).unfit = s.unfit := rfl
@[simp] theorem crossEntries_colls (s : State) (cd k n : Nat) : (s.crossEntries cd k n).colls = s.colls := rfl
@[simp] theorem crossEntries_insts (s : State) (cd k n : Nat) : (s.crossEntries cd k n).insts = s.insts := rfl
@[simp] theorem crossEntries_landed (s : State) (cd k n : Nat) : (s.crossEntries cd k n).landed = s.landed := rfl
@[simp] theorem crossEntries_reGen (s : State) (cd k n : Nat) : (s.crossEntries cd k n).reGen = s.reGen := rfl
@[simp] theorem crossEntries_policy (s : State) (cd k n : Nat) : (s.crossEntries cd k n).policy = s.policy := rfl
@[simp] theorem crossEntries_rates (s : State) (cd k n : Nat) : (s.crossEntries cd k n).rates = s.rates := rfl
@[simp] theorem crossEntries_rateAt (s : State) (cd k n : Nat) : (s.crossEntries cd k n).rateAt = s.rateAt := rfl
@[simp] theorem crossEntries_polHash (s : State) (cd k n : Nat) : (s.crossEntries cd k n).polHash = s.polHash := rfl
@[simp] theorem crossEntries_polFloor (s : State) (cd k n : Nat) : (s.crossEntries cd k n).polFloor = s.polFloor := rfl
@[simp] theorem crossEntries_quoting (s : State) (cd k n : Nat) : (s.crossEntries cd k n).quoting = s.quoting := rfl
@[simp] theorem crossEntries_releases (s : State) (cd k n : Nat) : (s.crossEntries cd k n).releases = s.releases := rfl
@[simp] theorem crossEntries_relLog (s : State) (cd k n : Nat) : (s.crossEntries cd k n).relLog = s.relLog := rfl
@[simp] theorem crossEntries_relAck (s : State) (cd k n : Nat) : (s.crossEntries cd k n).relAck = s.relAck := rfl
@[simp] theorem crossEntries_clocks (s : State) (cd k n : Nat) : (s.crossEntries cd k n).clocks = s.clocks := rfl
@[simp] theorem crossEntries_snaps (s : State) (cd k n : Nat) : (s.crossEntries cd k n).snaps = s.snaps := rfl
@[simp] theorem crossEntries_flash (s : State) (cd k n : Nat) : (s.crossEntries cd k n).flash = s.flash := rfl
@[simp] theorem crossEntries_mirrors (s : State) (cd k n : Nat) : (s.crossEntries cd k n).mirrors = s.mirrors := rfl
@[simp] theorem crossEntries_claims (s : State) (cd k n : Nat) : (s.crossEntries cd k n).claims = s.claims := rfl
@[simp] theorem crossEntries_lost (s : State) (cd k n : Nat) : (s.crossEntries cd k n).lost = s.lost := rfl
@[simp] theorem crossEntries_quiet (s : State) (cd k n : Nat) : (s.crossEntries cd k n).quiet = s.quiet := rfl
@[simp] theorem crossEntries_recovering (s : State) (cd k n : Nat) : (s.crossEntries cd k n).recovering = s.recovering := rfl
@[simp] theorem crossEntries_origin (s : State) (cd k n : Nat) : (s.crossEntries cd k n).origin = s.origin := rfl
@[simp] theorem crossEntries_restores (s : State) (cd k n : Nat) : (s.crossEntries cd k n).restores = s.restores := rfl
@[simp] theorem crossEntries_resumed (s : State) (cd k n : Nat) : (s.crossEntries cd k n).resumed = s.resumed := rfl
@[simp] theorem crossEntries_swung (s : State) (cd k n : Nat) : (s.crossEntries cd k n).swung = s.swung := rfl
@[simp] theorem crossEntries_handback (s : State) (cd k n : Nat) : (s.crossEntries cd k n).handback = s.handback := rfl
@[simp] theorem crossEntries_recFills (s : State) (cd k n : Nat) : (s.crossEntries cd k n).recFills = s.recFills := rfl
@[simp] theorem crossEntries_fillReqs (s : State) (cd k n : Nat) : (s.crossEntries cd k n).fillReqs = s.fillReqs := rfl
@[simp] theorem crossEntries_digests (s : State) (cd k n : Nat) : (s.crossEntries cd k n).digests = s.digests := rfl
@[simp] theorem crossEntries_events (s : State) (cd k n : Nat) : (s.crossEntries cd k n).events = s.events := rfl
@[simp] theorem crossEntries_staged (s : State) (cd k n : Nat) : (s.crossEntries cd k n).staged = s.staged := rfl
@[simp] theorem crossEntries_evLog (s : State) (cd k n : Nat) : (s.crossEntries cd k n).evLog = s.evLog := rfl
@[simp] theorem crossEntries_flushN (s : State) (cd k n : Nat) : (s.crossEntries cd k n).flushN = s.flushN := rfl
@[simp] theorem crossEntries_flushDue (s : State) (cd k n : Nat) : (s.crossEntries cd k n).flushDue = s.flushDue := rfl
@[simp] theorem crossEntries_buckets (s : State) (cd k n : Nat) : (s.crossEntries cd k n).buckets = s.buckets := rfl
@[simp] theorem crossEntries_out (s : State) (cd k n : Nat) : (s.crossEntries cd k n).out = s.out := rfl
@[simp] theorem crossEntries_resp (s : State) (cd k n : Nat) : (s.crossEntries cd k n).resp = s.resp := rfl
@[simp] theorem crossEntries_irq (s : State) (cd k n : Nat) : (s.crossEntries cd k n).irq = s.irq := rfl
@[simp] theorem crossEntries_notices (s : State) (cd k n : Nat) : (s.crossEntries cd k n).notices = s.notices := rfl
@[simp] theorem crossEntries_fresh (s : State) (cd k n : Nat) : (s.crossEntries cd k n).fresh = s.fresh := rfl
@[simp] theorem crossEntries_replies (s : State) (cd k n : Nat) : (s.crossEntries cd k n).replies = s.replies := rfl
@[simp] theorem crossEntries_cplOwed (s : State) (cd k n : Nat) : (s.crossEntries cd k n).cplOwed = s.cplOwed := rfl
@[simp] theorem crossEntries_now (s : State) (cd k n : Nat) : (s.crossEntries cd k n).now = s.now := rfl
@[simp] theorem crossEntries_caps (s : State) (cd k n : Nat) : (s.crossEntries cd k n).caps = s.caps := rfl
@[simp] theorem crossEntries_sensors (s : State) (cd k n : Nat) : (s.crossEntries cd k n).sensors = s.sensors := rfl
@[simp] theorem crossEntries_powerRun (s : State) (cd k n : Nat) : (s.crossEntries cd k n).powerRun = s.powerRun := rfl
@[simp] theorem crossEntries_powerRamp (s : State) (cd k n : Nat) : (s.crossEntries cd k n).powerRamp = s.powerRamp := rfl
@[simp] theorem crossEntries_ramps (s : State) (cd k n : Nat) : (s.crossEntries cd k n).ramps = s.ramps := rfl
@[simp] theorem crossEntries_stages (s : State) (cd k n : Nat) : (s.crossEntries cd k n).stages = s.stages := rfl
@[simp] theorem crossEntries_booted (s : State) (cd k n : Nat) : (s.crossEntries cd k n).booted = s.booted := rfl
@[simp] theorem crossEntries_bootAt (s : State) (cd k n : Nat) : (s.crossEntries cd k n).bootAt = s.bootAt := rfl
@[simp] theorem crossEntries_coolWait (s : State) (cd k n : Nat) : (s.crossEntries cd k n).coolWait = s.coolWait := rfl
@[simp] theorem crossEntries_stage1 (s : State) (cd k n : Nat) : (s.crossEntries cd k n).stage1 = s.stage1 := rfl
@[simp] theorem crossEntries_selfTests (s : State) (cd k n : Nat) : (s.crossEntries cd k n).selfTests = s.selfTests := rfl
@[simp] theorem crossEntries_trainings (s : State) (cd k n : Nat) : (s.crossEntries cd k n).trainings = s.trainings := rfl
@[simp] theorem crossEntries_coreMark (s : State) (cd k n : Nat) : (s.crossEntries cd k n).coreMark = s.coreMark := rfl
@[simp] theorem crossEntries_lateLevel (s : State) (cd k n : Nat) : (s.crossEntries cd k n).lateLevel = s.lateLevel := rfl
@[simp] theorem crossEntries_capRaised (s : State) (cd k n : Nat) : (s.crossEntries cd k n).capRaised = s.capRaised := rfl
@[simp] theorem crossEntries_resetDue (s : State) (cd k n : Nat) : (s.crossEntries cd k n).resetDue = s.resetDue := rfl
@[simp] theorem crossEntries_fwA (s : State) (cd k n : Nat) : (s.crossEntries cd k n).fwA = s.fwA := rfl
@[simp] theorem crossEntries_fwB (s : State) (cd k n : Nat) : (s.crossEntries cd k n).fwB = s.fwB := rfl
@[simp] theorem crossEntries_fwRuns (s : State) (cd k n : Nat) : (s.crossEntries cd k n).fwRuns = s.fwRuns := rfl
@[simp] theorem crossEntries_fwJob (s : State) (cd k n : Nat) : (s.crossEntries cd k n).fwJob = s.fwJob := rfl
@[simp] theorem crossEntries_fwTrial (s : State) (cd k n : Nat) : (s.crossEntries cd k n).fwTrial = s.fwTrial := rfl
@[simp] theorem crossEntries_supBootAt (s : State) (cd k n : Nat) : (s.crossEntries cd k n).supBootAt = s.supBootAt := rfl
@[simp] theorem crossEntries_wdogAt (s : State) (cd k n : Nat) : (s.crossEntries cd k n).wdogAt = s.wdogAt := rfl
@[simp] theorem crossEntries_wdogNmi (s : State) (cd k n : Nat) : (s.crossEntries cd k n).wdogNmi = s.wdogNmi := rfl
@[simp] theorem crossEntries_record (s : State) (cd k n : Nat) : (s.crossEntries cd k n).record = s.record := rfl
@[simp] theorem crossEntries_recordSigned (s : State) (cd k n : Nat) : (s.crossEntries cd k n).recordSigned = s.recordSigned := rfl
@[simp] theorem crossEntries_recordKeys (s : State) (cd k n : Nat) : (s.crossEntries cd k n).recordKeys = s.recordKeys := rfl
@[simp] theorem crossEntries_mgmtUp (s : State) (cd k n : Nat) : (s.crossEntries cd k n).mgmtUp = s.mgmtUp := rfl
@[simp] theorem crossEntries_cmdRuns (s : State) (cd k n : Nat) : (s.crossEntries cd k n).cmdRuns = s.cmdRuns := rfl
@[simp] theorem crossEntries_keptReplies (s : State) (cd k n : Nat) : (s.crossEntries cd k n).keptReplies = s.keptReplies := rfl
@[simp] theorem crossEntries_windows (s : State) (cd k n : Nat) : (s.crossEntries cd k n).windows = s.windows := rfl
@[simp] theorem crossEntries_qSkip (s : State) (cd k n : Nat) : (s.crossEntries cd k n).qSkip = s.qSkip := rfl
@[simp] theorem crossEntries_pending (s : State) (cd k n : Nat) : (s.crossEntries cd k n).pending = s.pending := rfl
@[simp] theorem fld_crossEntries (s : State) (cd k n : Nat) (G : Fld) (d u i : Nat) : (s.crossEntries cd k n).fld G d u i = s.fld G d u i := rfl

end State

end Sys2Proof.Machine
end

