-- ==== Sys2Proof/Laws/Frame.lean ====
section
/-! SUPPORT. Register fields and frames: the setters of the units leave every register field as it was, and a chain of field writes
changes the fields that it names. -/

namespace Sys2Proof.Machine

namespace State
@[simp] theorem fld_setClk (s : State) (die : Nat) (c : Clk) (G : Fld) (d' u' i' : Nat) :
    (s.setClk die c).fld G d' u' i' = s.fld G d' u' i' := rfl
@[simp] theorem fld_setGroupWord (s : State) (slot g w v : Nat) {G : Fld} (d' u' i' : Nat) (h : G ≠ .CMT_GRP_IDX_GROUP) :
    (s.setGroupWord slot g w v).fld G d' u' i' = s.fld G d' u' i' := fld_setFld_other _ (Ne.symm h) _ _ _ _ _ _ _
@[simp] theorem fld_setVote (s : State) (slot : Nat) (v : Option Vote) (G : Fld) (d' u' i' : Nat) :
    (s.setVote slot v).fld G d' u' i' = s.fld G d' u' i' := rfl
@[simp] theorem fld_setPort (s : State) (p : Nat) (x : Port) (G : Fld) (d' u' i' : Nat) :
    (s.setPort p x).fld G d' u' i' = s.fld G d' u' i' := rfl
@[simp] theorem fld_setColls (s : State) (re slot : Nat) (cs : List Coll) (G : Fld) (d' u' i' : Nat) :
    (s.setColls re slot cs).fld G d' u' i' = s.fld G d' u' i' := rfl
@[simp] theorem fld_setLanded (s : State) (re slot : Nat) (ls : List Landed) (G : Fld) (d' u' i' : Nat) :
    (s.setLanded re slot ls).fld G d' u' i' = s.fld G d' u' i' := rfl
@[simp] theorem fld_setFrame (s : State) (tier n : Nat) (f : Frame) (G : Fld) (d' u' i' : Nat) :
    (s.setFrame tier n f).fld G d' u' i' = s.fld G d' u' i' := rfl
@[simp] theorem fld_setBlock (s : State) (cd n : Nat) (b : SramBlock) (G : Fld) (d' u' i' : Nat) :
    (s.setBlock cd n b).fld G d' u' i' = s.fld G d' u' i' := rfl
@[simp] theorem fld_setSensor (s : State) (i : Nat) (x : Sensor) (G : Fld) (d' u' i' : Nat) :
    (s.setSensor i x).fld G d' u' i' = s.fld G d' u' i' := rfl
@[simp] theorem fld_setRamp (s : State) (d : Nat) (r : Ramp) (G : Fld) (d' u' i' : Nat) :
    (s.setRamp d r).fld G d' u' i' = s.fld G d' u' i' := rfl
@[simp] theorem fld_setStage (s : State) (i : Nat) (x : Stage) (G : Fld) (d' u' i' : Nat) :
    (s.setStage i x).fld G d' u' i' = s.fld G d' u' i' := rfl
@[simp] theorem fld_bumpCnt (s : State) (cd c n : Nat) (k : Nat) {G : Fld} (d' u' i' : Nat) (hF : G ≠ .MESH_CNT_FLITS_COUNT)
    (hP : G ≠ .MESH_PEAK_PEAK) : (s.bumpCnt cd c n k).fld G d' u' i' = s.fld G d' u' i' := fld_meshNotice s cd n d' u' i' hF hP
@[simp] theorem fld_setQuiet (s : State) (slot : Nat) (b : Bool) (G : Fld) (d' u' i' : Nat) :
    (s.setQuiet slot b).fld G d' u' i' = s.fld G d' u' i' := rfl
@[simp] theorem fld_setRecovering (s : State) (slot : Nat) (b : Bool) (G : Fld) (d' u' i' : Nat) :
    (s.setRecovering slot b).fld G d' u' i' = s.fld G d' u' i' := rfl
@[simp] theorem fld_setOrigin (s : State) (slot v : Nat) (G : Fld) (d' u' i' : Nat) :
    (s.setOrigin slot v).fld G d' u' i' = s.fld G d' u' i' := rfl
@[simp] theorem fld_setRestore (s : State) (slot : Nat) (v : Option Nat) (G : Fld) (d' u' i' : Nat) :
    (s.setRestore slot v).fld G d' u' i' = s.fld G d' u' i' := rfl
@[simp] theorem fld_setFill (s : State) (slot : Nat) (v : Option Fill) (G : Fld) (d' u' i' : Nat) :
    (s.setFill slot v).fld G d' u' i' = s.fld G d' u' i' := rfl
@[simp] theorem fld_setSnap (s : State) (slot : Nat) (x : Option SnapRun) (G : Fld) (d' u' i' : Nat) :
    (s.setSnap slot x).fld G d' u' i' = s.fld G d' u' i' := rfl
@[simp] theorem fld_setPause (s : State) (slot : Nat) (b : Bool) (G : Fld) (d' u' i' : Nat) :
    (s.setPause slot b).fld G d' u' i' = s.fld G d' u' i' := rfl
@[simp] theorem fld_setSeUnit (s : State) (cd se : Nat) (x : SeUnit) (G : Fld) (d' u' i' : Nat) :
    (s.setSeUnit cd se x).fld G d' u' i' = s.fld G d' u' i' := rfl
@[simp] theorem fld_setStream (s : State) (cd se ch : Nat) (x : Option StreamRun) (G : Fld) (d' u' i' : Nat) :
    (s.setStream cd se ch x).fld G d' u' i' = s.fld G d' u' i' := rfl
@[simp] theorem fld_setTraining (s : State) (n : Nat) (t : Training) (G : Fld) (d' u' i' : Nat) :
    (s.setTraining n t).fld G d' u' i' = s.fld G d' u' i' := rfl
@[simp] theorem fld_setStashEntry (s : State) (cd i : Nat) (e : Option StashEntry) (G : Fld) (d' u' i' : Nat) :
    (s.setStashEntry cd i e).fld G d' u' i' = s.fld G d' u' i' := rfl
@[simp] theorem fld_setArray (s : State) (cd n : Nat) (a : ArrayUnit) (G : Fld) (d' u' i' : Nat) :
    (s.setArray cd n a).fld G d' u' i' = s.fld G d' u' i' := rfl
@[simp] theorem fld_setRegion (s : State) (cd n q : Nat) (r : Region) (G : Fld) (d' u' i' : Nat) :
    (s.setRegion cd n q r).fld G d' u' i' = s.fld G d' u' i' := rfl
@[simp] theorem fld_setBobbin (s : State) (cd bob : Nat) (b : Bobbin) (G : Fld) (d' u' i' : Nat) :
    (s.setBobbin cd bob b).fld G d' u' i' = s.fld G d' u' i' := rfl
@[simp] theorem fld_setStation (s : State) (cd g : Nat) (x : Station) (G : Fld) (d' u' i' : Nat) :
    (s.setStation cd g x).fld G d' u' i' = s.fld G d' u' i' := rfl
@[simp] theorem fld_setGateway (s : State) (cd g : Nat) (x : List GwTile) (G : Fld) (d' u' i' : Nat) :
    (s.setGateway cd g x).fld G d' u' i' = s.fld G d' u' i' := rfl
@[simp] theorem fld_setUses (s : State) (cd tk : Nat) (us : List Use) (G : Fld) (d' u' i' : Nat) :
    (s.setUses cd tk us).fld G d' u' i' = s.fld G d' u' i' := rfl
@[simp] theorem fld_setRingSlot (s : State) (cd ring k : Nat) (x : RingSlot) (G : Fld) (d' u' i' : Nat) :
    (s.setRingSlot cd ring k x).fld G d' u' i' = s.fld G d' u' i' := rfl
@[simp] theorem fld_setVe (s : State) (cd v : Nat) (x : VeUnit) (G : Fld) (d' u' i' : Nat) :
    (s.setVe cd v x).fld G d' u' i' = s.fld G d' u' i' := rfl
@[simp] theorem fld_setCtx (s : State) (cd c : Nat) (x : Ctx) (G : Fld) (d' u' i' : Nat) :
    (s.setCtx cd c x).fld G d' u' i' = s.fld G d' u' i' := rfl
@[simp] theorem fld_setSync (s : State) (cd slot k : Nat) (x : SyncCtr) (G : Fld) (d' u' i' : Nat) :
    (s.setSync cd slot k x).fld G d' u' i' = s.fld G d' u' i' := rfl
@[simp] theorem fld_charge (s : State) (cd u slot : Nat) (G : Fld) (d' u' i' : Nat) :
    (s.charge cd u slot).fld G d' u' i' = s.fld G d' u' i' := rfl
@[simp] theorem fld_release (s : State) (cd u : Nat) (G : Fld) (d' u' i' : Nat) :
    (s.release cd u).fld G d' u' i' = s.fld G d' u' i' := rfl
@[simp] theorem fld_setHeldBy (s : State) (cd u : Nat) (slot : Option Nat) (G : Fld) (d' u' i' : Nat) :
    (s.setHeldBy cd u slot).fld G d' u' i' = s.fld G d' u' i' := rfl

/-! What a unit accessor reads after a write. -/

@[simp] theorem clk_setFld (s : State) (die₀ : Nat) (F : Fld) (d u i v : Nat) :
    (s.setFld F d u i v).clk die₀ = s.clk die₀ := rfl
@[simp] theorem clk_setClk (s : State) (die₁ : Nat) (c₁ : Clk) :
    (s.setClk die₁ c₁).clk die₁ = c₁ := by simp [clk, setClk]
@[simp] theorem vote_setFld (s : State) (slot₀ : Nat) (F : Fld) (d u i v : Nat) :
    (s.setFld F d u i v).vote slot₀ = s.vote slot₀ := rfl
@[simp] theorem vote_setVote (s : State) (slot₁ : Nat) (v₁ : Option Vote) :
    (s.setVote slot₁ v₁).vote slot₁ = v₁ := by simp [vote, setVote]
@[simp] theorem skipped_setFld (s : State) (slot₀ : Nat) (F : Fld) (d u i v : Nat) :
    (s.setFld F d u i v).skipped slot₀ = s.skipped slot₀ := rfl
@[simp] theorem port_setFld (s : State) (p₀ : Nat) (F : Fld) (d u i v : Nat) :
    (s.setFld F d u i v).port p₀ = s.port p₀ := rfl
@[simp] theorem port_setPort (s : State) (p₁ : Nat) (x₁ : Port) :
    (s.setPort p₁ x₁).port p₁ = x₁ := by simp [port, setPort]
@[simp] theorem reColls_setFld (s : State) (re₀ slot₀ : Nat) (F : Fld) (d u i v : Nat) :
    (s.setFld F d u i v).reColls re₀ slot₀ = s.reColls re₀ slot₀ := rfl
@[simp] theorem reColls_setColls (s : State) (re₁ slot₁ : Nat) (cs₁ : List Coll) :
    (s.setColls re₁ slot₁ cs₁).reColls re₁ slot₁ = cs₁ := by simp [reColls, setColls]
@[simp] theorem reLanded_setFld (s : State) (re₀ slot₀ : Nat) (F : Fld) (d u i v : Nat) :
    (s.setFld F d u i v).reLanded re₀ slot₀ = s.reLanded re₀ slot₀ := rfl
@[simp] theorem reLanded_setLanded (s : State) (re₁ slot₁ : Nat) (ls₁ : List Landed) :
    (s.setLanded re₁ slot₁ ls₁).reLanded re₁ slot₁ = ls₁ := by simp [reLanded, setLanded]
@[simp] theorem frame_setFld (s : State) (tier₀ n₀ : Nat) (F : Fld) (d u i v : Nat) :
    (s.setFld F d u i v).frame tier₀ n₀ = s.frame tier₀ n₀ := rfl
@[simp] theorem frame_setFrame (s : State) (tier₁ n₁ : Nat) (f₁ : Frame) :
    (s.setFrame tier₁ n₁ f₁).frame tier₁ n₁ = f₁ := by simp [frame, setFrame]
@[simp] theorem block_setFld (s : State) (cd₀ n₀ : Nat) (F : Fld) (d u i v : Nat) :
    (s.setFld F d u i v).block cd₀ n₀ = s.block cd₀ n₀ := rfl
@[simp] theorem block_setBlock (s : State) (cd₁ n₁ : Nat) (b₁ : SramBlock) :
    (s.setBlock cd₁ n₁ b₁).block cd₁ n₁ = b₁ := by simp [block, setBlock]
@[simp] theorem region_setFld (s : State) (cd₀ arr₀ q₀ : Nat) (F : Fld) (d u i v : Nat) :
    (s.setFld F d u i v).region cd₀ arr₀ q₀ = s.region cd₀ arr₀ q₀ := rfl
@[simp] theorem region_setRegion (s : State) (cd₁ n₁ q₁ : Nat) (r₁ : Region) :
    (s.setRegion cd₁ n₁ q₁ r₁).region cd₁ n₁ q₁ = r₁ := by simp [region, setRegion]
@[simp] theorem sensor_setFld (s : State) (i₀ : Nat) (F : Fld) (d u i v : Nat) :
    (s.setFld F d u i v).sensor i₀ = s.sensor i₀ := rfl
@[simp] theorem sensor_setSensor (s : State) (i₁ : Nat) (x₁ : Sensor) :
    (s.setSensor i₁ x₁).sensor i₁ = x₁ := by simp [sensor, setSensor]
@[simp] theorem ramp_setFld (s : State) (d₀ : Nat) (F : Fld) (d u i v : Nat) :
    (s.setFld F d u i v).ramp d₀ = s.ramp d₀ := rfl
@[simp] theorem ramp_setRamp (s : State) (d₁ : Nat) (r₁ : Ramp) :
    (s.setRamp d₁ r₁).ramp d₁ = r₁ := by simp [ramp, setRamp]
@[simp] theorem stage_setFld (s : State) (i₀ : Nat) (F : Fld) (d u i v : Nat) :
    (s.setFld F d u i v).stage i₀ = s.stage i₀ := rfl
@[simp] theorem stage_setStage (s : State) (i₁ : Nat) (x₁ : Stage) :
    (s.setStage i₁ x₁).stage i₁ = x₁ := by simp [stage, setStage]
@[simp] theorem cnt_setFld (s : State) (cd₀ c₀ n₀ : Nat) (F : Fld) (d u i v : Nat) :
    (s.setFld F d u i v).cnt cd₀ c₀ n₀ = s.cnt cd₀ c₀ n₀ := rfl
@[simp] theorem isQuiet_setFld (s : State) (slot₀ : Nat) (F : Fld) (d u i v : Nat) :
    (s.setFld F d u i v).isQuiet slot₀ = s.isQuiet slot₀ := rfl
@[simp] theorem isQuiet_setQuiet (s : State) (slot₁ : Nat) (b₁ : Bool) :
    (s.setQuiet slot₁ b₁).isQuiet slot₁ = b₁ := by simp [isQuiet, setQuiet]
@[simp] theorem isRecovering_setFld (s : State) (slot₀ : Nat) (F : Fld) (d u i v : Nat) :
    (s.setFld F d u i v).isRecovering slot₀ = s.isRecovering slot₀ := rfl
@[simp] theorem isRecovering_setRecovering (s : State) (slot₁ : Nat) (b₁ : Bool) :
    (s.setRecovering slot₁ b₁).isRecovering slot₁ = b₁ := by simp [isRecovering, setRecovering]
@[simp] theorem originOf_setFld (s : State) (slot₀ : Nat) (F : Fld) (d u i v : Nat) :
    (s.setFld F d u i v).originOf slot₀ = s.originOf slot₀ := rfl
@[simp] theorem originOf_setOrigin (s : State) (slot₁ v₁ : Nat) :
    (s.setOrigin slot₁ v₁).originOf slot₁ = v₁ := by simp [originOf, setOrigin]
@[simp] theorem restoreOf_setFld (s : State) (slot₀ : Nat) (F : Fld) (d u i v : Nat) :
    (s.setFld F d u i v).restoreOf slot₀ = s.restoreOf slot₀ := rfl
@[simp] theorem restoreOf_setRestore (s : State) (slot₁ : Nat) (v₁ : Option Nat) :
    (s.setRestore slot₁ v₁).restoreOf slot₁ = v₁ := by simp [restoreOf, setRestore]
@[simp] theorem fillOf_setFld (s : State) (slot₀ : Nat) (F : Fld) (d u i v : Nat) :
    (s.setFld F d u i v).fillOf slot₀ = s.fillOf slot₀ := rfl
@[simp] theorem fillOf_setFill (s : State) (slot₁ : Nat) (v₁ : Option Fill) :
    (s.setFill slot₁ v₁).fillOf slot₁ = v₁ := by simp [fillOf, setFill]
@[simp] theorem pattern_setFld (s : State) (cd₀ slot₀ : Nat) (F : Fld) (d u i v : Nat) :
    (s.setFld F d u i v).pattern cd₀ slot₀ = s.pattern cd₀ slot₀ := rfl
@[simp] theorem snap_setFld (s : State) (slot₀ : Nat) (F : Fld) (d u i v : Nat) :
    (s.setFld F d u i v).snap slot₀ = s.snap slot₀ := rfl
@[simp] theorem snap_setSnap (s : State) (slot₁ : Nat) (x₁ : Option SnapRun) :
    (s.setSnap slot₁ x₁).snap slot₁ = x₁ := by simp [snap, setSnap]
@[simp] theorem seUnit_setFld (s : State) (cd₀ se₀ : Nat) (F : Fld) (d u i v : Nat) :
    (s.setFld F d u i v).seUnit cd₀ se₀ = s.seUnit cd₀ se₀ := rfl
@[simp] theorem seUnit_setSeUnit (s : State) (cd₁ se₁ : Nat) (x₁ : SeUnit) :
    (s.setSeUnit cd₁ se₁ x₁).seUnit cd₁ se₁ = x₁ := by simp [seUnit, setSeUnit]
@[simp] theorem stream_setFld (s : State) (cd₀ se₀ ch₀ : Nat) (F : Fld) (d u i v : Nat) :
    (s.setFld F d u i v).stream cd₀ se₀ ch₀ = s.stream cd₀ se₀ ch₀ := rfl
@[simp] theorem stream_setStream (s : State) (cd₁ se₁ ch₁ : Nat) (x₁ : Option StreamRun) :
    (s.setStream cd₁ se₁ ch₁ x₁).stream cd₁ se₁ ch₁ = x₁ := by simp [stream, setStream]
@[simp] theorem selfTest_setFld (s : State) (die₀ : Nat) (F : Fld) (d u i v : Nat) :
    (s.setFld F d u i v).selfTest die₀ = s.selfTest die₀ := rfl
@[simp] theorem training_setFld (s : State) (n₀ : Nat) (F : Fld) (d u i v : Nat) :
    (s.setFld F d u i v).training n₀ = s.training n₀ := rfl
@[simp] theorem training_setTraining (s : State) (n₁ : Nat) (t₁ : Training) :
    (s.setTraining n₁ t₁).training n₁ = t₁ := by simp [training, setTraining]
@[simp] theorem stashEntry_setFld (s : State) (cd₀ i₀ : Nat) (F : Fld) (d u i v : Nat) :
    (s.setFld F d u i v).stashEntry cd₀ i₀ = s.stashEntry cd₀ i₀ := rfl
@[simp] theorem stashEntry_setStashEntry (s : State) (cd₁ i₁ : Nat) (e₁ : Option StashEntry) :
    (s.setStashEntry cd₁ i₁ e₁).stashEntry cd₁ i₁ = e₁ := by simp [stashEntry, setStashEntry]
@[simp] theorem array_setFld (s : State) (cd₀ n₀ : Nat) (F : Fld) (d u i v : Nat) :
    (s.setFld F d u i v).array cd₀ n₀ = s.array cd₀ n₀ := rfl
@[simp] theorem array_setArray (s : State) (cd₁ n₁ : Nat) (a₁ : ArrayUnit) :
    (s.setArray cd₁ n₁ a₁).array cd₁ n₁ = a₁ := by simp [array, setArray]
@[simp] theorem bobbin_setFld (s : State) (cd₀ bob₀ : Nat) (F : Fld) (d u i v : Nat) :
    (s.setFld F d u i v).bobbin cd₀ bob₀ = s.bobbin cd₀ bob₀ := rfl
@[simp] theorem bobbin_setBobbin (s : State) (cd₁ bob₁ : Nat) (b₁ : Bobbin) :
    (s.setBobbin cd₁ bob₁ b₁).bobbin cd₁ bob₁ = b₁ := by simp [bobbin, setBobbin]
@[simp] theorem station_setFld (s : State) (cd₀ g₀ : Nat) (F : Fld) (d u i v : Nat) :
    (s.setFld F d u i v).station cd₀ g₀ = s.station cd₀ g₀ := rfl
@[simp] theorem station_setStation (s : State) (cd₁ g₁ : Nat) (x₁ : Station) :
    (s.setStation cd₁ g₁ x₁).station cd₁ g₁ = x₁ := by simp [station, setStation]
@[simp] theorem gateway_setFld (s : State) (cd₀ g₀ : Nat) (F : Fld) (d u i v : Nat) :
    (s.setFld F d u i v).gateway cd₀ g₀ = s.gateway cd₀ g₀ := rfl
@[simp] theorem gateway_setGateway (s : State) (cd₁ g₁ : Nat) (x₁ : List GwTile) :
    (s.setGateway cd₁ g₁ x₁).gateway cd₁ g₁ = x₁ := by simp [gateway, setGateway]
@[simp] theorem tkUses_setFld (s : State) (cd₀ tk₀ : Nat) (F : Fld) (d u i v : Nat) :
    (s.setFld F d u i v).tkUses cd₀ tk₀ = s.tkUses cd₀ tk₀ := rfl
@[simp] theorem tkUses_setUses (s : State) (cd₁ tk₁ : Nat) (us₁ : List Use) :
    (s.setUses cd₁ tk₁ us₁).tkUses cd₁ tk₁ = us₁ := by simp [tkUses, setUses]
@[simp] theorem ringSlot_setFld (s : State) (cd₀ ring₀ k₀ : Nat) (F : Fld) (d u i v : Nat) :
    (s.setFld F d u i v).ringSlot cd₀ ring₀ k₀ = s.ringSlot cd₀ ring₀ k₀ := rfl
@[simp] theorem ringSlot_setRingSlot (s : State) (cd₁ ring₁ k₁ : Nat) (x₁ : RingSlot) :
    (s.setRingSlot cd₁ ring₁ k₁ x₁).ringSlot cd₁ ring₁ k₁ = x₁ := by simp [ringSlot, setRingSlot]
@[simp] theorem ve_setFld (s : State) (cd₀ v₀ : Nat) (F : Fld) (d u i v : Nat) :
    (s.setFld F d u i v).ve cd₀ v₀ = s.ve cd₀ v₀ := rfl
@[simp] theorem ve_setVe (s : State) (cd₁ v₁ : Nat) (x₁ : VeUnit) :
    (s.setVe cd₁ v₁ x₁).ve cd₁ v₁ = x₁ := by simp [ve, setVe]
@[simp] theorem ctx_setFld (s : State) (cd₀ c₀ : Nat) (F : Fld) (d u i v : Nat) :
    (s.setFld F d u i v).ctx cd₀ c₀ = s.ctx cd₀ c₀ := rfl
@[simp] theorem ctx_setCtx (s : State) (cd₁ c₁ : Nat) (x₁ : Ctx) :
    (s.setCtx cd₁ c₁ x₁).ctx cd₁ c₁ = x₁ := by simp [ctx, setCtx]
@[simp] theorem sync_setFld (s : State) (cd₀ slot₀ k₀ : Nat) (F : Fld) (d u i v : Nat) :
    (s.setFld F d u i v).sync cd₀ slot₀ k₀ = s.sync cd₀ slot₀ k₀ := rfl
@[simp] theorem sync_setSync (s : State) (cd₁ slot₁ k₁ : Nat) (x₁ : SyncCtr) :
    (s.setSync cd₁ slot₁ k₁ x₁).sync cd₁ slot₁ k₁ = x₁ := by simp [sync, setSync]
@[simp] theorem charged_setFld (s : State) (cd₀ u₀ : Nat) (F : Fld) (d u i v : Nat) :
    (s.setFld F d u i v).charged cd₀ u₀ = s.charged cd₀ u₀ := rfl
@[simp] theorem charged_charge (s : State) (cd₁ u₁ slot₁ : Nat) :
    (s.charge cd₁ u₁ slot₁).charged cd₁ u₁ = slot₁ := by simp [charged, charge]
@[simp] theorem heldFor_setFld (s : State) (cd₀ u₀ : Nat) (F : Fld) (d u i v : Nat) :
    (s.setFld F d u i v).heldFor cd₀ u₀ = s.heldFor cd₀ u₀ := rfl
@[simp] theorem heldFor_setHeldBy (s : State) (cd₁ u₁ : Nat) (slot₁ : Option Nat) :
    (s.setHeldBy cd₁ u₁ slot₁).heldFor cd₁ u₁ = slot₁ := by simp [heldFor, setHeldBy]


@[simp] theorem bumpCnt_b0 (s : State) (cd c n k : Nat) : (s.bumpCnt cd c n k).b0 = s.b0 := meshNotice_b0 s cd n
@[simp] theorem bumpCnt_mem (s : State) (cd c n k : Nat) : (s.bumpCnt cd c n k).mem = s.mem := meshNotice_mem s cd n
@[simp] theorem bumpCnt_side (s : State) (cd c n k : Nat) : (s.bumpCnt cd c n k).side = s.side := meshNotice_side s cd n
@[simp] theorem bumpCnt_frames (s : State) (cd c n k : Nat) : (s.bumpCnt cd c n k).frames = s.frames := meshNotice_frames s cd n
@[simp] theorem bumpCnt_blocks (s : State) (cd c n k : Nat) : (s.bumpCnt cd c n k).blocks = s.blocks := meshNotice_blocks s cd n
@[simp] theorem bumpCnt_hcLines (s : State) (cd c n k : Nat) : (s.bumpCnt cd c n k).hcLines = s.hcLines := meshNotice_hcLines s cd n
@[simp] theorem bumpCnt_hcClock (s : State) (cd c n k : Nat) : (s.bumpCnt cd c n k).hcClock = s.hcClock := meshNotice_hcClock s cd n
@[simp] theorem bumpCnt_merges (s : State) (cd c n k : Nat) : (s.bumpCnt cd c n k).merges = s.merges := meshNotice_merges s cd n
@[simp] theorem bumpCnt_memWait (s : State) (cd c n k : Nat) : (s.bumpCnt cd c n k).memWait = s.memWait := meshNotice_memWait s cd n
@[simp] theorem bumpCnt_zeroBatch (s : State) (cd c n k : Nat) : (s.bumpCnt cd c n k).zeroBatch = s.zeroBatch := meshNotice_zeroBatch s cd n
@[simp] theorem bumpCnt_scrubs (s : State) (cd c n k : Nat) : (s.bumpCnt cd c n k).scrubs = s.scrubs := meshNotice_scrubs s cd n
@[simp] theorem bumpCnt_logTold (s : State) (cd c n k : Nat) : (s.bumpCnt cd c n k).logTold = s.logTold := meshNotice_logTold s cd n
@[simp] theorem bumpCnt_arrays (s : State) (cd c n k : Nat) : (s.bumpCnt cd c n k).arrays = s.arrays := meshNotice_arrays s cd n
@[simp] theorem bumpCnt_acbSeed (s : State) (cd c n k : Nat) : (s.bumpCnt cd c n k).acbSeed = s.acbSeed := meshNotice_acbSeed s cd n
@[simp] theorem bumpCnt_acbAge (s : State) (cd c n k : Nat) : (s.bumpCnt cd c n k).acbAge = s.acbAge := meshNotice_acbAge s cd n
@[simp] theorem bumpCnt_regions (s : State) (cd c n k : Nat) : (s.bumpCnt cd c n k).regions = s.regions := meshNotice_regions s cd n
@[simp] theorem bumpCnt_bobbins (s : State) (cd c n k : Nat) : (s.bumpCnt cd c n k).bobbins = s.bobbins := meshNotice_bobbins s cd n
@[simp] theorem bumpCnt_fills (s : State) (cd c n k : Nat) : (s.bumpCnt cd c n k).fills = s.fills := meshNotice_fills s cd n
@[simp] theorem bumpCnt_earlyRead (s : State) (cd c n k : Nat) : (s.bumpCnt cd c n k).earlyRead = s.earlyRead := meshNotice_earlyRead s cd n
@[simp] theorem bumpCnt_tile (s : State) (cd c n k : Nat) : (s.bumpCnt cd c n k).tile = s.tile := meshNotice_tile s cd n
@[simp] theorem bumpCnt_tileTag (s : State) (cd c n k : Nat) : (s.bumpCnt cd c n k).tileTag = s.tileTag := meshNotice_tileTag s cd n
@[simp] theorem bumpCnt_tileErr (s : State) (cd c n k : Nat) : (s.bumpCnt cd c n k).tileErr = s.tileErr := meshNotice_tileErr s cd n
@[simp] theorem bumpCnt_uses (s : State) (cd c n k : Nat) : (s.bumpCnt cd c n k).uses = s.uses := meshNotice_uses s cd n
@[simp] theorem bumpCnt_useCount (s : State) (cd c n k : Nat) : (s.bumpCnt cd c n k).useCount = s.useCount := meshNotice_useCount s cd n
@[simp] theorem bumpCnt_stations (s : State) (cd c n k : Nat) : (s.bumpCnt cd c n k).stations = s.stations := meshNotice_stations s cd n
@[simp] theorem bumpCnt_gateways (s : State) (cd c n k : Nat) : (s.bumpCnt cd c n k).gateways = s.gateways := meshNotice_gateways s cd n
@[simp] theorem bumpCnt_rings (s : State) (cd c n k : Nat) : (s.bumpCnt cd c n k).rings = s.rings := meshNotice_rings s cd n
@[simp] theorem bumpCnt_carBeat (s : State) (cd c n k : Nat) : (s.bumpCnt cd c n k).carBeat = s.carBeat := meshNotice_carBeat s cd n
@[simp] theorem bumpCnt_halves (s : State) (cd c n k : Nat) : (s.bumpCnt cd c n k).halves = s.halves := meshNotice_halves s cd n
@[simp] theorem bumpCnt_injBeat (s : State) (cd c n k : Nat) : (s.bumpCnt cd c n k).injBeat = s.injBeat := meshNotice_injBeat s cd n
@[simp] theorem bumpCnt_ctxs (s : State) (cd c n k : Nat) : (s.bumpCnt cd c n k).ctxs = s.ctxs := meshNotice_ctxs s cd n
@[simp] theorem bumpCnt_sregs (s : State) (cd c n k : Nat) : (s.bumpCnt cd c n k).sregs = s.sregs := meshNotice_sregs s cd n
@[simp] theorem bumpCnt_syncs (s : State) (cd c n k : Nat) : (s.bumpCnt cd c n k).syncs = s.syncs := meshNotice_syncs s cd n
@[simp] theorem bumpCnt_beat (s : State) (cd c n k : Nat) : (s.bumpCnt cd c n k).beat = s.beat := meshNotice_beat s cd n
@[simp] theorem bumpCnt_tktWait (s : State) (cd c n k : Nat) : (s.bumpCnt cd c n k).tktWait = s.tktWait := meshNotice_tktWait s cd n
@[simp] theorem bumpCnt_lastRan (s : State) (cd c n k : Nat) : (s.bumpCnt cd c n k).lastRan = s.lastRan := meshNotice_lastRan s cd n
@[simp] theorem bumpCnt_pend (s : State) (cd c n k : Nat) : (s.bumpCnt cd c n k).pend = s.pend := meshNotice_pend s cd n
@[simp] theorem bumpCnt_patterns (s : State) (cd c n k : Nat) : (s.bumpCnt cd c n k).patterns = s.patterns := meshNotice_patterns s cd n
@[simp] theorem bumpCnt_patLoaded (s : State) (cd c n k : Nat) : (s.bumpCnt cd c n k).patLoaded = s.patLoaded := meshNotice_patLoaded s cd n
@[simp] theorem bumpCnt_code (s : State) (cd c n k : Nat) : (s.bumpCnt cd c n k).code = s.code := meshNotice_code s cd n
@[simp] theorem bumpCnt_konst (s : State) (cd c n k : Nat) : (s.bumpCnt cd c n k).konst = s.konst := meshNotice_konst s cd n
@[simp] theorem bumpCnt_charges (s : State) (cd c n k : Nat) : (s.bumpCnt cd c n k).charges = s.charges := meshNotice_charges s cd n
@[simp] theorem bumpCnt_slotPause (s : State) (cd c n k : Nat) : (s.bumpCnt cd c n k).slotPause = s.slotPause := meshNotice_slotPause s cd n
@[simp] theorem bumpCnt_yieldAt (s : State) (cd c n k : Nat) : (s.bumpCnt cd c n k).yieldAt = s.yieldAt := meshNotice_yieldAt s cd n
@[simp] theorem bumpCnt_yieldHold (s : State) (cd c n k : Nat) : (s.bumpCnt cd c n k).yieldHold = s.yieldHold := meshNotice_yieldHold s cd n
@[simp] theorem bumpCnt_heldBy (s : State) (cd c n k : Nat) : (s.bumpCnt cd c n k).heldBy = s.heldBy := meshNotice_heldBy s cd n
@[simp] theorem bumpCnt_ves (s : State) (cd c n k : Nat) : (s.bumpCnt cd c n k).ves = s.ves := meshNotice_ves s cd n
@[simp] theorem bumpCnt_vreg (s : State) (cd c n k : Nat) : (s.bumpCnt cd c n k).vreg = s.vreg := meshNotice_vreg s cd n
@[simp] theorem bumpCnt_vsealed (s : State) (cd c n k : Nat) : (s.bumpCnt cd c n k).vsealed = s.vsealed := meshNotice_vsealed s cd n
@[simp] theorem bumpCnt_ftab (s : State) (cd c n k : Nat) : (s.bumpCnt cd c n k).ftab = s.ftab := meshNotice_ftab s cd n
@[simp] theorem bumpCnt_pairEpoch (s : State) (cd c n k : Nat) : (s.bumpCnt cd c n k).pairEpoch = s.pairEpoch := meshNotice_pairEpoch s cd n
@[simp] theorem bumpCnt_pairSealed (s : State) (cd c n k : Nat) : (s.bumpCnt cd c n k).pairSealed = s.pairSealed := meshNotice_pairSealed s cd n
@[simp] theorem bumpCnt_ses (s : State) (cd c n k : Nat) : (s.bumpCnt cd c n k).ses = s.ses := meshNotice_ses s cd n
@[simp] theorem bumpCnt_streams (s : State) (cd c n k : Nat) : (s.bumpCnt cd c n k).streams = s.streams := meshNotice_streams s cd n
@[simp] theorem bumpCnt_poolMoved (s : State) (cd c n k : Nat) : (s.bumpCnt cd c n k).poolMoved = s.poolMoved := meshNotice_poolMoved s cd n
@[simp] theorem bumpCnt_poolTold (s : State) (cd c n k : Nat) : (s.bumpCnt cd c n k).poolTold = s.poolTold := meshNotice_poolTold s cd n
@[simp] theorem bumpCnt_stash (s : State) (cd c n k : Nat) : (s.bumpCnt cd c n k).stash = s.stash := meshNotice_stash s cd n
@[simp] theorem bumpCnt_groups (s : State) (cd c n k : Nat) : (s.bumpCnt cd c n k).groups = s.groups := meshNotice_groups s cd n
@[simp] theorem bumpCnt_votes (s : State) (cd c n k : Nat) : (s.bumpCnt cd c n k).votes = s.votes := meshNotice_votes s cd n
@[simp] theorem bumpCnt_updates (s : State) (cd c n k : Nat) : (s.bumpCnt cd c n k).updates = s.updates := meshNotice_updates s cd n
@[simp] theorem bumpCnt_awaiting (s : State) (cd c n k : Nat) : (s.bumpCnt cd c n k).awaiting = s.awaiting := meshNotice_awaiting s cd n
@[simp] theorem bumpCnt_torn (s : State) (cd c n k : Nat) : (s.bumpCnt cd c n k).torn = s.torn := meshNotice_torn s cd n
@[simp] theorem bumpCnt_gathers (s : State) (cd c n k : Nat) : (s.bumpCnt cd c n k).gathers = s.gathers := meshNotice_gathers s cd n
@[simp] theorem bumpCnt_ports (s : State) (cd c n k : Nat) : (s.bumpCnt cd c n k).ports = s.ports := meshNotice_ports s cd n
@[simp] theorem bumpCnt_held (s : State) (cd c n k : Nat) : (s.bumpCnt cd c n k).held = s.held := meshNotice_held s cd n
@[simp] theorem bumpCnt_inbox (s : State) (cd c n k : Nat) : (s.bumpCnt cd c n k).inbox = s.inbox := meshNotice_inbox s cd n
@[simp] theorem bumpCnt_recIn (s : State) (cd c n k : Nat) : (s.bumpCnt cd c n k).recIn = s.recIn := meshNotice_recIn s cd n
@[simp] theorem bumpCnt_aliveAt (s : State) (cd c n k : Nat) : (s.bumpCnt cd c n k).aliveAt = s.aliveAt := meshNotice_aliveAt s cd n
@[simp] theorem bumpCnt_hbAllowed (s : State) (cd c n k : Nat) : (s.bumpCnt cd c n k).hbAllowed = s.hbAllowed := meshNotice_hbAllowed s cd n
@[simp] theorem bumpCnt_unfit (s : State) (cd c n k : Nat) : (s.bumpCnt cd c n k).unfit = s.unfit := meshNotice_unfit s cd n
@[simp] theorem bumpCnt_colls (s : State) (cd c n k : Nat) : (s.bumpCnt cd c n k).colls = s.colls := meshNotice_colls s cd n
@[simp] theorem bumpCnt_insts (s : State) (cd c n k : Nat) : (s.bumpCnt cd c n k).insts = s.insts := meshNotice_insts s cd n
@[simp] theorem bumpCnt_landed (s : State) (cd c n k : Nat) : (s.bumpCnt cd c n k).landed = s.landed := meshNotice_landed s cd n
@[simp] theorem bumpCnt_reGen (s : State) (cd c n k : Nat) : (s.bumpCnt cd c n k).reGen = s.reGen := meshNotice_reGen s cd n
@[simp] theorem bumpCnt_policy (s : State) (cd c n k : Nat) : (s.bumpCnt cd c n k).policy = s.policy := meshNotice_policy s cd n
@[simp] theorem bumpCnt_rates (s : State) (cd c n k : Nat) : (s.bumpCnt cd c n k).rates = s.rates := meshNotice_rates s cd n
@[simp] theorem bumpCnt_rateAt (s : State) (cd c n k : Nat) : (s.bumpCnt cd c n k).rateAt = s.rateAt := meshNotice_rateAt s cd n
@[simp] theorem bumpCnt_polHash (s : State) (cd c n k : Nat) : (s.bumpCnt cd c n k).polHash = s.polHash := meshNotice_polHash s cd n
@[simp] theorem bumpCnt_polFloor (s : State) (cd c n k : Nat) : (s.bumpCnt cd c n k).polFloor = s.polFloor := meshNotice_polFloor s cd n
@[simp] theorem bumpCnt_quoting (s : State) (cd c n k : Nat) : (s.bumpCnt cd c n k).quoting = s.quoting := meshNotice_quoting s cd n
@[simp] theorem bumpCnt_releases (s : State) (cd c n k : Nat) : (s.bumpCnt cd c n k).releases = s.releases := meshNotice_releases s cd n
@[simp] theorem bumpCnt_relLog (s : State) (cd c n k : Nat) : (s.bumpCnt cd c n k).relLog = s.relLog := meshNotice_relLog s cd n
@[simp] theorem bumpCnt_relAck (s : State) (cd c n k : Nat) : (s.bumpCnt cd c n k).relAck = s.relAck := meshNotice_relAck s cd n
@[simp] theorem bumpCnt_clocks (s : State) (cd c n k : Nat) : (s.bumpCnt cd c n k).clocks = s.clocks := meshNotice_clocks s cd n
@[simp] theorem bumpCnt_snaps (s : State) (cd c n k : Nat) : (s.bumpCnt cd c n k).snaps = s.snaps := meshNotice_snaps s cd n
@[simp] theorem bumpCnt_flash (s : State) (cd c n k : Nat) : (s.bumpCnt cd c n k).flash = s.flash := meshNotice_flash s cd n
@[simp] theorem bumpCnt_mirrors (s : State) (cd c n k : Nat) : (s.bumpCnt cd c n k).mirrors = s.mirrors := meshNotice_mirrors s cd n
@[simp] theorem bumpCnt_claims (s : State) (cd c n k : Nat) : (s.bumpCnt cd c n k).claims = s.claims := meshNotice_claims s cd n
@[simp] theorem bumpCnt_lost (s : State) (cd c n k : Nat) : (s.bumpCnt cd c n k).lost = s.lost := meshNotice_lost s cd n
@[simp] theorem bumpCnt_quiet (s : State) (cd c n k : Nat) : (s.bumpCnt cd c n k).quiet = s.quiet := meshNotice_quiet s cd n
@[simp] theorem bumpCnt_recovering (s : State) (cd c n k : Nat) : (s.bumpCnt cd c n k).recovering = s.recovering := meshNotice_recovering s cd n
@[simp] theorem bumpCnt_origin (s : State) (cd c n k : Nat) : (s.bumpCnt cd c n k).origin = s.origin := meshNotice_origin s cd n
@[simp] theorem bumpCnt_restores (s : State) (cd c n k : Nat) : (s.bumpCnt cd c n k).restores = s.restores := meshNotice_restores s cd n
@[simp] theorem bumpCnt_resumed (s : State) (cd c n k : Nat) : (s.bumpCnt cd c n k).resumed = s.resumed := meshNotice_resumed s cd n
@[simp] theorem bumpCnt_swung (s : State) (cd c n k : Nat) : (s.bumpCnt cd c n k).swung = s.swung := meshNotice_swung s cd n
@[simp] theorem bumpCnt_handback (s : State) (cd c n k : Nat) : (s.bumpCnt cd c n k).handback = s.handback := meshNotice_handback s cd n
@[simp] theorem bumpCnt_recFills (s : State) (cd c n k : Nat) : (s.bumpCnt cd c n k).recFills = s.recFills := meshNotice_recFills s cd n
@[simp] theorem bumpCnt_fillReqs (s : State) (cd c n k : Nat) : (s.bumpCnt cd c n k).fillReqs = s.fillReqs := meshNotice_fillReqs s cd n
@[simp] theorem bumpCnt_digests (s : State) (cd c n k : Nat) : (s.bumpCnt cd c n k).digests = s.digests := meshNotice_digests s cd n
@[simp] theorem bumpCnt_events (s : State) (cd c n k : Nat) : (s.bumpCnt cd c n k).events = s.events := meshNotice_events s cd n
@[simp] theorem bumpCnt_staged (s : State) (cd c n k : Nat) : (s.bumpCnt cd c n k).staged = s.staged := meshNotice_staged s cd n
@[simp] theorem bumpCnt_evLog (s : State) (cd c n k : Nat) : (s.bumpCnt cd c n k).evLog = s.evLog := meshNotice_evLog s cd n
@[simp] theorem bumpCnt_flushN (s : State) (cd c n k : Nat) : (s.bumpCnt cd c n k).flushN = s.flushN := meshNotice_flushN s cd n
@[simp] theorem bumpCnt_flushDue (s : State) (cd c n k : Nat) : (s.bumpCnt cd c n k).flushDue = s.flushDue := meshNotice_flushDue s cd n
@[simp] theorem bumpCnt_buckets (s : State) (cd c n k : Nat) : (s.bumpCnt cd c n k).buckets = s.buckets := meshNotice_buckets s cd n
@[simp] theorem bumpCnt_out (s : State) (cd c n k : Nat) : (s.bumpCnt cd c n k).out = s.out := meshNotice_out s cd n
@[simp] theorem bumpCnt_resp (s : State) (cd c n k : Nat) : (s.bumpCnt cd c n k).resp = s.resp := meshNotice_resp s cd n
@[simp] theorem bumpCnt_irq (s : State) (cd c n k : Nat) : (s.bumpCnt cd c n k).irq = s.irq := meshNotice_irq s cd n
@[simp] theorem bumpCnt_notices (s : State) (cd c n k : Nat) : (s.bumpCnt cd c n k).notices = s.notices := meshNotice_notices s cd n
@[simp] theorem bumpCnt_fresh (s : State) (cd c n k : Nat) : (s.bumpCnt cd c n k).fresh = s.fresh := meshNotice_fresh s cd n
@[simp] theorem bumpCnt_replies (s : State) (cd c n k : Nat) : (s.bumpCnt cd c n k).replies = s.replies := meshNotice_replies s cd n
@[simp] theorem bumpCnt_cplOwed (s : State) (cd c n k : Nat) : (s.bumpCnt cd c n k).cplOwed = s.cplOwed := meshNotice_cplOwed s cd n
@[simp] theorem bumpCnt_now (s : State) (cd c n k : Nat) : (s.bumpCnt cd c n k).now = s.now := meshNotice_now s cd n
@[simp] theorem bumpCnt_caps (s : State) (cd c n k : Nat) : (s.bumpCnt cd c n k).caps = s.caps := meshNotice_caps s cd n
@[simp] theorem bumpCnt_sensors (s : State) (cd c n k : Nat) : (s.bumpCnt cd c n k).sensors = s.sensors := meshNotice_sensors s cd n
@[simp] theorem bumpCnt_powerRun (s : State) (cd c n k : Nat) : (s.bumpCnt cd c n k).powerRun = s.powerRun := meshNotice_powerRun s cd n
@[simp] theorem bumpCnt_powerRamp (s : State) (cd c n k : Nat) : (s.bumpCnt cd c n k).powerRamp = s.powerRamp := meshNotice_powerRamp s cd n
@[simp] theorem bumpCnt_ramps (s : State) (cd c n k : Nat) : (s.bumpCnt cd c n k).ramps = s.ramps := meshNotice_ramps s cd n
@[simp] theorem bumpCnt_stages (s : State) (cd c n k : Nat) : (s.bumpCnt cd c n k).stages = s.stages := meshNotice_stages s cd n
@[simp] theorem bumpCnt_booted (s : State) (cd c n k : Nat) : (s.bumpCnt cd c n k).booted = s.booted := meshNotice_booted s cd n
@[simp] theorem bumpCnt_bootAt (s : State) (cd c n k : Nat) : (s.bumpCnt cd c n k).bootAt = s.bootAt := meshNotice_bootAt s cd n
@[simp] theorem bumpCnt_coolWait (s : State) (cd c n k : Nat) : (s.bumpCnt cd c n k).coolWait = s.coolWait := meshNotice_coolWait s cd n
@[simp] theorem bumpCnt_stage1 (s : State) (cd c n k : Nat) : (s.bumpCnt cd c n k).stage1 = s.stage1 := meshNotice_stage1 s cd n
@[simp] theorem bumpCnt_selfTests (s : State) (cd c n k : Nat) : (s.bumpCnt cd c n k).selfTests = s.selfTests := meshNotice_selfTests s cd n
@[simp] theorem bumpCnt_trainings (s : State) (cd c n k : Nat) : (s.bumpCnt cd c n k).trainings = s.trainings := meshNotice_trainings s cd n
@[simp] theorem bumpCnt_coreMark (s : State) (cd c n k : Nat) : (s.bumpCnt cd c n k).coreMark = s.coreMark := meshNotice_coreMark s cd n
@[simp] theorem bumpCnt_lateLevel (s : State) (cd c n k : Nat) : (s.bumpCnt cd c n k).lateLevel = s.lateLevel := meshNotice_lateLevel s cd n
@[simp] theorem bumpCnt_capRaised (s : State) (cd c n k : Nat) : (s.bumpCnt cd c n k).capRaised = s.capRaised := meshNotice_capRaised s cd n
@[simp] theorem bumpCnt_resetDue (s : State) (cd c n k : Nat) : (s.bumpCnt cd c n k).resetDue = s.resetDue := meshNotice_resetDue s cd n
@[simp] theorem bumpCnt_fwA (s : State) (cd c n k : Nat) : (s.bumpCnt cd c n k).fwA = s.fwA := meshNotice_fwA s cd n
@[simp] theorem bumpCnt_fwB (s : State) (cd c n k : Nat) : (s.bumpCnt cd c n k).fwB = s.fwB := meshNotice_fwB s cd n
@[simp] theorem bumpCnt_fwRuns (s : State) (cd c n k : Nat) : (s.bumpCnt cd c n k).fwRuns = s.fwRuns := meshNotice_fwRuns s cd n
@[simp] theorem bumpCnt_fwJob (s : State) (cd c n k : Nat) : (s.bumpCnt cd c n k).fwJob = s.fwJob := meshNotice_fwJob s cd n
@[simp] theorem bumpCnt_fwTrial (s : State) (cd c n k : Nat) : (s.bumpCnt cd c n k).fwTrial = s.fwTrial := meshNotice_fwTrial s cd n
@[simp] theorem bumpCnt_supBootAt (s : State) (cd c n k : Nat) : (s.bumpCnt cd c n k).supBootAt = s.supBootAt := meshNotice_supBootAt s cd n
@[simp] theorem bumpCnt_wdogAt (s : State) (cd c n k : Nat) : (s.bumpCnt cd c n k).wdogAt = s.wdogAt := meshNotice_wdogAt s cd n
@[simp] theorem bumpCnt_wdogNmi (s : State) (cd c n k : Nat) : (s.bumpCnt cd c n k).wdogNmi = s.wdogNmi := meshNotice_wdogNmi s cd n
@[simp] theorem bumpCnt_record (s : State) (cd c n k : Nat) : (s.bumpCnt cd c n k).record = s.record := meshNotice_record s cd n
@[simp] theorem bumpCnt_recordSigned (s : State) (cd c n k : Nat) : (s.bumpCnt cd c n k).recordSigned = s.recordSigned := meshNotice_recordSigned s cd n
@[simp] theorem bumpCnt_recordKeys (s : State) (cd c n k : Nat) : (s.bumpCnt cd c n k).recordKeys = s.recordKeys := meshNotice_recordKeys s cd n
@[simp] theorem bumpCnt_mgmtUp (s : State) (cd c n k : Nat) : (s.bumpCnt cd c n k).mgmtUp = s.mgmtUp := meshNotice_mgmtUp s cd n
@[simp] theorem bumpCnt_cmdRuns (s : State) (cd c n k : Nat) : (s.bumpCnt cd c n k).cmdRuns = s.cmdRuns := meshNotice_cmdRuns s cd n
@[simp] theorem bumpCnt_keptReplies (s : State) (cd c n k : Nat) : (s.bumpCnt cd c n k).keptReplies = s.keptReplies := meshNotice_keptReplies s cd n
@[simp] theorem bumpCnt_windows (s : State) (cd c n k : Nat) : (s.bumpCnt cd c n k).windows = s.windows := meshNotice_windows s cd n
@[simp] theorem bumpCnt_qSkip (s : State) (cd c n k : Nat) : (s.bumpCnt cd c n k).qSkip = s.qSkip := meshNotice_qSkip s cd n
@[simp] theorem bumpCnt_pending (s : State) (cd c n k : Nat) : (s.bumpCnt cd c n k).pending = s.pending := meshNotice_pending s cd n
@[simp] theorem vote_bumpCnt (s : State) (slot₀ : Nat) (cd c n k : Nat) : (s.bumpCnt cd c n k).vote slot₀ = s.vote slot₀ := by
  simp [vote]
@[simp] theorem awaited_bumpCnt (s : State) (slot₀ : Nat) (cd c n k : Nat) : (s.bumpCnt cd c n k).awaited slot₀ = s.awaited slot₀ := by
  simp [awaited]
@[simp] theorem loaded_bumpCnt (s : State) (cd₀ slot₀ : Nat) (cd c n k : Nat) : (s.bumpCnt cd c n k).loaded cd₀ slot₀ = s.loaded cd₀ slot₀ := by
  simp [loaded]
@[simp] theorem skipped_bumpCnt (s : State) (slot₀ : Nat) (cd c n k : Nat) : (s.bumpCnt cd c n k).skipped slot₀ = s.skipped slot₀ := by
  simp [skipped]
@[simp] theorem port_bumpCnt (s : State) (p₀ : Nat) (cd c n k : Nat) : (s.bumpCnt cd c n k).port p₀ = s.port p₀ := by
  simp [port]
@[simp] theorem reColls_bumpCnt (s : State) (re₀ slot₀ : Nat) (cd c n k : Nat) : (s.bumpCnt cd c n k).reColls re₀ slot₀ = s.reColls re₀ slot₀ := by
  simp [reColls]
@[simp] theorem reLanded_bumpCnt (s : State) (re₀ slot₀ : Nat) (cd c n k : Nat) : (s.bumpCnt cd c n k).reLanded re₀ slot₀ = s.reLanded re₀ slot₀ := by
  simp [reLanded]
@[simp] theorem clk_bumpCnt (s : State) (die₀ : Nat) (cd c n k : Nat) : (s.bumpCnt cd c n k).clk die₀ = s.clk die₀ := by
  simp [clk]
@[simp] theorem capBy_bumpCnt (s : State) (cause₀ : CapCause) (k₀ : Nat) (cd c n k : Nat) : (s.bumpCnt cd c n k).capBy cause₀ k₀ = s.capBy cause₀ k₀ := by
  simp [capBy]
@[simp] theorem seUnit_bumpCnt (s : State) (cd₀ se₀ : Nat) (cd c n k : Nat) : (s.bumpCnt cd c n k).seUnit cd₀ se₀ = s.seUnit cd₀ se₀ := by
  simp [seUnit]
@[simp] theorem array_bumpCnt (s : State) (cd₀ n₀ : Nat) (cd c n k : Nat) : (s.bumpCnt cd c n k).array cd₀ n₀ = s.array cd₀ n₀ := by
  simp [array]
@[simp] theorem bobbin_bumpCnt (s : State) (cd₀ bob₀ : Nat) (cd c n k : Nat) : (s.bumpCnt cd c n k).bobbin cd₀ bob₀ = s.bobbin cd₀ bob₀ := by
  simp [bobbin]
@[simp] theorem station_bumpCnt (s : State) (cd₀ g₀ : Nat) (cd c n k : Nat) : (s.bumpCnt cd c n k).station cd₀ g₀ = s.station cd₀ g₀ := by
  simp [station]
@[simp] theorem gateway_bumpCnt (s : State) (cd₀ g₀ : Nat) (cd c n k : Nat) : (s.bumpCnt cd c n k).gateway cd₀ g₀ = s.gateway cd₀ g₀ := by
  simp [gateway]
@[simp] theorem tkUses_bumpCnt (s : State) (cd₀ tk₀ : Nat) (cd c n k : Nat) : (s.bumpCnt cd c n k).tkUses cd₀ tk₀ = s.tkUses cd₀ tk₀ := by
  simp [tkUses]
@[simp] theorem ringSlot_bumpCnt (s : State) (cd₀ ring₀ k₀ : Nat) (cd c n k : Nat) : (s.bumpCnt cd c n k).ringSlot cd₀ ring₀ k₀ = s.ringSlot cd₀ ring₀ k₀ := by
  simp [ringSlot]
@[simp] theorem ve_bumpCnt (s : State) (cd₀ v₀ : Nat) (cd c n k : Nat) : (s.bumpCnt cd c n k).ve cd₀ v₀ = s.ve cd₀ v₀ := by
  simp [ve]
@[simp] theorem ctx_bumpCnt (s : State) (cd₀ c₀ : Nat) (cd c n k : Nat) : (s.bumpCnt cd c n k).ctx cd₀ c₀ = s.ctx cd₀ c₀ := by
  simp [ctx]
@[simp] theorem sync_bumpCnt (s : State) (cd₀ slot₀ k₀ : Nat) (cd c n k : Nat) : (s.bumpCnt cd c n k).sync cd₀ slot₀ k₀ = s.sync cd₀ slot₀ k₀ := by
  simp [sync]
@[simp] theorem charged_bumpCnt (s : State) (cd₀ u₀ : Nat) (cd c n k : Nat) : (s.bumpCnt cd c n k).charged cd₀ u₀ = s.charged cd₀ u₀ := by
  simp [charged]
@[simp] theorem heldFor_bumpCnt (s : State) (cd₀ u₀ : Nat) (cd c n k : Nat) : (s.bumpCnt cd c n k).heldFor cd₀ u₀ = s.heldFor cd₀ u₀ := by
  simp [heldFor]
@[simp] theorem sensor_bumpCnt (s : State) (i₀ : Nat) (cd c n k : Nat) : (s.bumpCnt cd c n k).sensor i₀ = s.sensor i₀ := by
  simp [sensor]
@[simp] theorem ramp_bumpCnt (s : State) (d₀ : Nat) (cd c n k : Nat) : (s.bumpCnt cd c n k).ramp d₀ = s.ramp d₀ := by
  simp [ramp]
@[simp] theorem stage_bumpCnt (s : State) (i₀ : Nat) (cd c n k : Nat) : (s.bumpCnt cd c n k).stage i₀ = s.stage i₀ := by
  simp [stage]
@[simp] theorem snap_bumpCnt (s : State) (slot₀ : Nat) (cd c n k : Nat) : (s.bumpCnt cd c n k).snap slot₀ = s.snap slot₀ := by
  simp [snap]
@[simp] theorem stashEntry_bumpCnt (s : State) (cd₀ i₀ : Nat) (cd c n k : Nat) : (s.bumpCnt cd c n k).stashEntry cd₀ i₀ = s.stashEntry cd₀ i₀ := by
  simp [stashEntry]
@[simp] theorem pattern_bumpCnt (s : State) (cd₀ slot₀ : Nat) (cd c n k : Nat) : (s.bumpCnt cd c n k).pattern cd₀ slot₀ = s.pattern cd₀ slot₀ := by
  simp [pattern]
@[simp] theorem isQuiet_bumpCnt (s : State) (slot₀ : Nat) (cd c n k : Nat) : (s.bumpCnt cd c n k).isQuiet slot₀ = s.isQuiet slot₀ := by
  simp [isQuiet]
@[simp] theorem isRecovering_bumpCnt (s : State) (slot₀ : Nat) (cd c n k : Nat) : (s.bumpCnt cd c n k).isRecovering slot₀ = s.isRecovering slot₀ := by
  simp [isRecovering]
@[simp] theorem originOf_bumpCnt (s : State) (slot₀ : Nat) (cd c n k : Nat) : (s.bumpCnt cd c n k).originOf slot₀ = s.originOf slot₀ := by
  simp [originOf]
@[simp] theorem restoreOf_bumpCnt (s : State) (slot₀ : Nat) (cd c n k : Nat) : (s.bumpCnt cd c n k).restoreOf slot₀ = s.restoreOf slot₀ := by
  simp [restoreOf]
@[simp] theorem fillOf_bumpCnt (s : State) (slot₀ : Nat) (cd c n k : Nat) : (s.bumpCnt cd c n k).fillOf slot₀ = s.fillOf slot₀ := by
  simp [fillOf]
@[simp] theorem stream_bumpCnt (s : State) (cd₀ se₀ ch₀ : Nat) (cd c n k : Nat) : (s.bumpCnt cd c n k).stream cd₀ se₀ ch₀ = s.stream cd₀ se₀ ch₀ := by
  simp [stream]
@[simp] theorem beatOf_bumpCnt (s : State) (cd₀ : Nat) (cd c n k : Nat) : (s.bumpCnt cd c n k).beatOf cd₀ = s.beatOf cd₀ := by
  simp [beatOf]
@[simp] theorem selfTest_bumpCnt (s : State) (die₀ : Nat) (cd c n k : Nat) : (s.bumpCnt cd c n k).selfTest die₀ = s.selfTest die₀ := by
  simp [selfTest]
@[simp] theorem training_bumpCnt (s : State) (n₀ : Nat) (cd c n k : Nat) : (s.bumpCnt cd c n k).training n₀ = s.training n₀ := by
  simp [training]
@[simp] theorem frame_bumpCnt (s : State) (tier₀ n₀ : Nat) (cd c n k : Nat) : (s.bumpCnt cd c n k).frame tier₀ n₀ = s.frame tier₀ n₀ := by
  simp [frame]
@[simp] theorem block_bumpCnt (s : State) (cd₀ n₀ : Nat) (cd c n k : Nat) : (s.bumpCnt cd c n k).block cd₀ n₀ = s.block cd₀ n₀ := by
  simp [block]
@[simp] theorem region_bumpCnt (s : State) (cd₀ arr₀ q₀ : Nat) (cd c n k : Nat) : (s.bumpCnt cd c n k).region cd₀ arr₀ q₀ = s.region cd₀ arr₀ q₀ := by
  simp [region]
@[simp] theorem cnt_bumpCnt (s : State) (cd c n k : Nat) : (s.bumpCnt cd c n k).cnt cd c n = (s.cnt cd c n + k) % 2 ^ 32 := by
  simp [cnt, bumpCnt]
@[simp] theorem cnt_incFld (s : State) (cd c n : Nat) (F : Fld) (d u i k : Nat) : (s.incFld F d u i k).cnt cd c n = s.cnt cd c n := rfl

@[simp] theorem fld_resp (s : State) (r : Response) (G : Fld) (x y z : Nat) : ({ s with resp := r } : State).fld G x y z = s.fld G x y z := rfl
@[simp] theorem fld_pend (s : State) (r : List Pending) (G : Fld) (x y z : Nat) : ({ s with pend := r } : State).fld G x y z = s.fld G x y z := rfl
@[simp] theorem fld_out (s : State) (r : List Output) (G : Fld) (x y z : Nat) : ({ s with out := r } : State).fld G x y z = s.fld G x y z := rfl

/-- Field writes with other effects between them. -/
theorem keepsRegs_refl {s t : State} (l : List (Fld × Nat × Nat × Nat)) (h : t.csr = s.csr) : s.keepsRegs t l := by
  intro F d u i _; simp [fld, h]

theorem keepsRegs_mono {s t : State} {l m : List (Fld × Nat × Nat × Nat)} (h : s.keepsRegs t l) (g : ∀ x ∈ l, x ∈ m) : s.keepsRegs t m :=
  fun F d u i hx => h F d u i (fun hl => hx (g _ hl))

theorem keepsRegs_setFld {s t : State} {l : List (Fld × Nat × Nat × Nat)} (h : s.keepsRegs t l) (F : Fld) (d u i v : Nat)
    (g : (F, d, u, i) ∈ l) : s.keepsRegs (t.setFld F d u i v) l := by
  intro G d' u' i' hx
  rw [fld_setFld_ne]
  · exact h G d' u' i' hx
  · rintro ⟨rfl, rfl, rfl, rfl⟩; exact hx g

theorem keepsRegs_csr {s t u : State} {l : List (Fld × Nat × Nat × Nat)} (h : s.keepsRegs t l) (g : u.csr = t.csr) : s.keepsRegs u l := by
  intro F d u i hx; rw [← h F d u i hx]; simp [fld, g]

/-- What changes the mesh alone keeps every register but the flit count and the peak of a die. -/
theorem keepsRegs_mesh {s t u : State} {l : List (Fld × Nat × Nat × Nat)} (h : s.keepsRegs t l) (cd : Nat)
    (g : t.keepsRegs u [(.MESH_CNT_FLITS_COUNT, cd, 0, 0), (.MESH_PEAK_PEAK, cd, 0, 0)])
    (hF : (.MESH_CNT_FLITS_COUNT, cd, 0, 0) ∈ l) (hP : (.MESH_PEAK_PEAK, cd, 0, 0) ∈ l) : s.keepsRegs u l := by
  intro F d x i hx
  refine (g F d x i ?_).trans (h F d x i hx)
  intro hm
  rcases List.mem_cons.mp hm with e | e
  · exact hx (e ▸ hF)
  · exact hx (List.mem_singleton.mp e ▸ hP)

/-- The state after an acknowledged register write. -/
def ack (s : State) : State := { s with resp := .written }
@[simp] theorem fld_ack (s : State) (G : Fld) (x y z : Nat) : s.ack.fld G x y z = s.fld G x y z := rfl

theorem keepsRegs_self {s : State} (l : List (Fld × Nat × Nat × Nat)) : s.keepsRegs s l := fun _ _ _ _ _ => rfl

theorem keepsRegs_incFld {s t : State} {l : List (Fld × Nat × Nat × Nat)} (h : s.keepsRegs t l) (F : Fld) (d u i n : Nat)
    (g : (F, d, u, i) ∈ l) : s.keepsRegs (t.incFld F d u i n) l := keepsRegs_setFld h _ _ _ _ _ g

theorem keepsRegs_incSat {s t : State} {l : List (Fld × Nat × Nat × Nat)} (h : s.keepsRegs t l) (F : Fld) (d u i n : Nat)
    (g : (F, d, u, i) ∈ l) : s.keepsRegs (t.incSat F d u i n) l := keepsRegs_setFld h _ _ _ _ _ g

theorem keepsRegs_step {s t : State} {l : List (Fld × Nat × Nat × Nat)} {f : State → State} (h : s.keepsRegs t l)
    (g : ∀ x, (f x).csr = x.csr) : s.keepsRegs (f t) l := keepsRegs_csr h (g t)

theorem keepsRegs_ack {s t : State} {l : List (Fld × Nat × Nat × Nat)} (h : s.keepsRegs t l) : s.keepsRegs t.ack l := h

theorem keepsRegs_raise {s t : State} {l : List (Fld × Nat × Nat × Nat)} (h : s.keepsRegs t l) (e : Ev) (d u a : Nat) (x : Option Nat) :
    s.keepsRegs (t.raise e d u a x) l := h

theorem keepsRegs_ite {s t u : State} {l : List (Fld × Nat × Nat × Nat)} {c : Prop} [Decidable c] (h : s.keepsRegs t l)
    (g : s.keepsRegs u l) : s.keepsRegs (if c then t else u) l := by split <;> assumption

/-- A field that is cleared under a condition. -/
theorem fld_clear (s : State) (c : Prop) [Decidable c] (F G : Fld) (d u i d' u' i' : Nat) :
    (if c then s.setFld F d u i 0 else s).fld G d' u' i' =
      if c ∧ F = G ∧ d = d' ∧ u = u' ∧ i = i' then 0 else s.fld G d' u' i' := by
  by_cases h : c <;> simp [h, fld_setFld]

/-! Frames of a chain of writes. -/

theorem sameBut_refl {s : State} {e : State → State} : s.sameBut s e := rfl

theorem sameBut_step {s t : State} {e f : State → State} (h : s.sameBut t e) (g : ∀ x, e (f x) = e x) : s.sameBut (f t) e :=
  (g t).trans h

theorem sameBut_ite {s t u : State} {e : State → State} {c : Prop} [Decidable c] (h : s.sameBut t e) (g : s.sameBut u e) :
    s.sameBut (if c then t else u) e := by split <;> assumption

theorem sameBut_mono {s t : State} {e f : State → State} (h : s.sameBut t e) (g : ∀ x, f (e x) = f x) : s.sameBut t f :=
  (g t).symm.trans ((congrArg f h).trans (g s))
theorem sameBut_trans {s t u : State} {e : State → State} (h : s.sameBut t e) (g : t.sameBut u e) : s.sameBut u e := g.trans h

/-- A register write with its authority, to a die in service. -/
theorem regWrite_some {s t : State} {die : Nat} {allowed : Bool} {f : State → Option State} (hd : s.dieUp die = true)
    (ha : allowed = true) (hf : f s = some t) : s.regWrite die allowed f = t.ack := by
  simp [regWrite, hd, ha, hf, ack]

theorem regWrite_none {s : State} {die : Nat} {allowed : Bool} {f : State → Option State} (hf : f s = none) :
    s.regWrite die allowed f = { s with resp := .busError } := by
  unfold regWrite; split <;> simp [hf]

end State

/-- A field of a word fits its width. -/
theorem fieldOf_mod {v : Word64} {hi lo n : Nat} (h : hi + 1 - lo ≤ n) : fieldOf v hi lo % 2 ^ n = fieldOf v hi lo :=
  Nat.mod_eq_of_lt (Nat.lt_of_lt_of_le (Nat.mod_lt _ (Nat.two_pow_pos _)) (Nat.pow_le_pow_right (by decide) h))

theorem toNat_mod {v : Word64} {n : Nat} (h : 64 ≤ n) : v.toNat % 2 ^ n = v.toNat :=
  Nat.mod_eq_of_lt (Nat.lt_of_lt_of_le v.isLt (Nat.pow_le_pow_right (by decide) h))

end Sys2Proof.Machine
end

