-- ==== Sys2Proof/Laws/Keeps.lean ====
section
/-! SUPPORT. What every operation of the module keeps, said once: a property that the writes of registers and memory keep (Writes)
is kept by every operation, and one that the writes of registers alone keep (Stable) by every operation that touches no memory. The
files Keeps<Module>.lean say so operation by operation; the invariant of the storage (State.Inv), the command queue, the stepping and
the contents of memory are such properties. -/

namespace Sys2Proof.Machine

/-- A property of states that is about the registers, the memory, the stepping and the queue alone, and that register writes keep. -/
structure Stable (P : State → Prop) : Prop where
  other : ∀ {s t : State}, P s → t.csr = s.csr → t.b0 = s.b0 → t.mem = s.mem → t.side = s.side → t.pending = s.pending → P t
  setFld : ∀ {s : State} {F : Fld} {d u i v : Nat}, P s → P (s.setFld F d u i v)
  clear : ∀ {s : State} {p : Key → Bool}, P s → P (s.resetFields p)
  fresh : ∀ {s t : State}, P s → t.csr = [] → t.b0 = s.b0 → t.mem = s.mem → t.side = s.side → t.pending = s.pending → P t
  both : ∀ {s t : State}, P s → P t → P { s with mem := t.mem, side := t.side }

/-- A stable property that writes of memory keep too. -/
structure Writes (P : State → Prop) : Prop extends Stable P where
  raw : ∀ {s : State} {a data side : Nat}, P s →
    P { s with mem := s.mem.writeBytes (a / 32 * 32) (leBytes 32 data), side := s.side.set 0 (Key.at 0 0 (a / 32)) (side % 2 ^ 32) }
  zero : ∀ {s : State} {a n : Nat}, P s → P (s.zeroRange a n)

/-- A record update of other fields. -/
theorem keep_mk {P : State → Prop} (hS : Stable P) {s : State} {x_frames : Tbl Frame} {x_blocks : Tbl SramBlock} {x_hcLines : Tbl HcLine} {x_hcClock : Nat} {x_merges : List MergeEntry} {x_memWait : List MemAccess} {x_zeroBatch : Nat} {x_scrubs : Tbl Nat} {x_crossings : Tbl Nat} {x_logTold : Tbl Bool} {x_arrays : Tbl ArrayUnit} {x_acbSeed : Tbl Nat} {x_acbAge : Tbl Nat} {x_regions : Tbl Region} {x_bobbins : Tbl Bobbin} {x_fills : Tbl (Option Cmd)} {x_earlyRead : Tbl Bool} {x_tile : Memory} {x_tileTag : Memory} {x_tileErr : Tbl Nat} {x_uses : Tbl (List Use)} {x_useCount : Nat} {x_stations : Tbl Station} {x_gateways : Tbl (List GwTile)} {x_rings : Tbl RingSlot} {x_carBeat : Tbl Nat} {x_halves : Tbl Nat} {x_injBeat : Tbl Nat} {x_ctxs : Tbl Ctx} {x_sregs : Tbl Word64} {x_cnts : Tbl Nat} {x_syncs : Tbl SyncCtr} {x_beat : Tbl Nat} {x_busyAt : Tbl Nat} {x_tktWait : Tbl Nat} {x_lastRan : Tbl Nat} {x_pend : List Pending} {x_patterns : Tbl Pattern} {x_patLoaded : Tbl Bool} {x_code : Memory} {x_konst : Memory} {x_charges : Tbl (Option Nat)} {x_slotPause : Tbl Bool} {x_yieldAt : Tbl Nat} {x_yieldHold : Tbl Bool} {x_heldBy : Tbl (Option Nat)} {x_ves : Tbl VeUnit} {x_vreg : Memory} {x_vsealed : Tbl Bool} {x_ftab : Memory} {x_pairEpoch : Tbl Nat} {x_pairSealed : Tbl Bool} {x_ses : Tbl SeUnit} {x_streams : Tbl (Option StreamRun)} {x_poolMoved : Tbl Nat} {x_poolTold : Tbl Bool} {x_stash : Tbl (Option StashEntry)} {x_groups : Tbl Nat} {x_votes : Tbl (Option Vote)} {x_updates : List Update} {x_awaiting : Tbl (Option Nat)} {x_torn : Tbl Bool} {x_gathers : Tbl (Option (List Byte))} {x_ports : Tbl Port} {x_held : List HeldFrame} {x_inbox : List (Nat × List Byte)} {x_recIn : List LinkFrame} {x_aliveAt : Nat} {x_hbAllowed : Bool} {x_unfit : Bool} {x_colls : Tbl (List Coll)} {x_insts : Tbl Nat} {x_landed : Tbl (List Landed)} {x_reGen : Tbl Nat} {x_policy : Option Policy} {x_rates : List Rate} {x_rateAt : Nat} {x_polHash : List Byte} {x_polFloor : Nat} {x_quoting : Option (List Byte)} {x_releases : Tbl (Option Release)} {x_relLog : List (List Byte)} {x_relAck : Nat} {x_clocks : Tbl Clk} {x_snaps : Tbl (Option SnapRun)} {x_flash : Memory} {x_mirrors : List Mirror} {x_claims : List Claim} {x_lost : List Nat} {x_quiet : Tbl Bool} {x_recovering : Tbl Bool} {x_origin : Tbl Nat} {x_restores : Tbl (Option Nat)} {x_resumed : Tbl (List Nat)} {x_swung : List (Nat × Nat)} {x_handback : Option (Nat × Nat × Bool)} {x_recFills : Tbl (Option Fill)} {x_fillReqs : List FillReq} {x_digests : List (Nat × Nat × List Byte)} {x_events : List Event} {x_staged : List (List Byte)} {x_evLog : List (List Byte)} {x_flushN : Option Nat} {x_flushDue : Bool} {x_buckets : Tbl Bucket} {x_out : List Output} {x_resp : Response} {x_irq : Tbl Nat} {x_notices : Tbl (List (List Byte))} {x_fresh : Nat} {x_replies : Tbl (List (List Byte))} {x_cplOwed : Tbl Nat} {x_now : Nat} {x_caps : Tbl Nat} {x_sensors : Tbl (Option Sensor)} {x_powerRun : Nat} {x_powerRamp : Ramp} {x_ramps : Tbl Ramp} {x_stages : Tbl Stage} {x_booted : Bool} {x_bootAt : Nat} {x_coolWait : Nat} {x_stage1 : Bool} {x_selfTests : Tbl Nat} {x_trainings : Tbl (Option Training)} {x_coreMark : Bool} {x_lateLevel : Nat} {x_capRaised : Nat} {x_resetDue : Bool} {x_fwA : FwImage} {x_fwB : FwImage} {x_fwRuns : Bool} {x_fwJob : Option (Nat × Nat)} {x_fwTrial : Nat} {x_supBootAt : Nat} {x_wdogAt : Nat} {x_wdogNmi : Bool} {x_record : List Byte} {x_recordSigned : Bool} {x_recordKeys : Bool} {x_mgmtUp : Bool} {x_cmdRuns : List CmdRun} {x_keptReplies : List KeptReply} {x_windows : Tbl (Option (List Byte))} {x_qSkip : Tbl (List Nat)} :
    P (State.mk s.csr s.b0 s.mem s.side x_frames x_blocks x_hcLines x_hcClock x_merges x_memWait x_zeroBatch x_scrubs x_crossings x_logTold x_arrays x_acbSeed x_acbAge x_regions x_bobbins x_fills x_earlyRead x_tile x_tileTag x_tileErr x_uses x_useCount x_stations x_gateways x_rings x_carBeat x_halves x_injBeat x_ctxs x_sregs x_cnts x_syncs x_beat x_busyAt x_tktWait x_lastRan x_pend x_patterns x_patLoaded x_code x_konst x_charges x_slotPause x_yieldAt x_yieldHold x_heldBy x_ves x_vreg x_vsealed x_ftab x_pairEpoch x_pairSealed x_ses x_streams x_poolMoved x_poolTold x_stash x_groups x_votes x_updates x_awaiting x_torn x_gathers x_ports x_held x_inbox x_recIn x_aliveAt x_hbAllowed x_unfit x_colls x_insts x_landed x_reGen x_policy x_rates x_rateAt x_polHash x_polFloor x_quoting x_releases x_relLog x_relAck x_clocks x_snaps x_flash x_mirrors x_claims x_lost x_quiet x_recovering x_origin x_restores x_resumed x_swung x_handback x_recFills x_fillReqs x_digests x_events x_staged x_evLog x_flushN x_flushDue x_buckets x_out x_resp x_irq x_notices x_fresh x_replies x_cplOwed x_now x_caps x_sensors x_powerRun x_powerRamp x_ramps x_stages x_booted x_bootAt x_coolWait x_stage1 x_selfTests x_trainings x_coreMark x_lateLevel x_capRaised x_resetDue x_fwA x_fwB x_fwRuns x_fwJob x_fwTrial x_supBootAt x_wdogAt x_wdogNmi x_record x_recordSigned x_recordKeys x_mgmtUp x_cmdRuns x_keptReplies x_windows x_qSkip s.pending) ↔ P s :=
  ⟨fun h => hS.other h rfl rfl rfl rfl rfl, fun h => hS.other h rfl rfl rfl rfl rfl⟩

theorem State.setFld_keeps {P : State → Prop} (hS : Stable P) {s : State} {F : Fld} {d u i v : Nat} (h : P s) :
    P (s.setFld F d u i v) := hS.setFld h

theorem State.resetFields_keeps {P : State → Prop} (hS : Stable P) {s : State} {p : Key → Bool} (h : P s) :
    P (s.resetFields p) := hS.clear h

theorem keep_ite {β : Type} {Q : β → Prop} {c : Prop} [Decidable c] {a b : β} (ha : Q a) (hb : Q b) :
    Q (if c then a else b) := by
  split
  · exact ha
  · exact hb

theorem keep_foldl {α β : Type} {Q : β → Prop} {f : β → α → β} {l : List α} {r : β} (h : Q r)
    (hf : ∀ (r : β) (x : α), Q r → Q (f r x)) : Q (l.foldl f r) := by
  induction l generalizing r with
  | nil => exact h
  | cons x l ih => exact ih (hf r x h)

theorem keep_foldr {α : Type} {P : State → Prop} {f : α → State → State} {l : List α} {s : State} (h : P s)
    (hf : ∀ (t : State) (x : α), P t → P (f x t)) : P (l.foldr f s) := by
  induction l with
  | nil => exact h
  | cons x l ih => exact hf _ x ih

/-! Answers that hold a state beside other values. The predicates are opaque to unfolding, so that no proof compares the parts of an
answer. -/

/-- The state of a pair. -/
@[irreducible] def Inv2 (P : State → Prop) {α : Type} (r : α × State) : Prop := P r.2

theorem Inv2.mk {P : State → Prop} {α : Type} {a : α} {s : State} (h : P s) : Inv2 P (a, s) := by unfold Inv2; exact h
theorem Inv2.get {P : State → Prop} {α : Type} {r : α × State} (h : Inv2 P r) : P r.2 := by unfold Inv2 at h; exact h
theorem Inv2.unmk {P : State → Prop} {α : Type} {a : α} {s : State} (h : Inv2 P (a, s)) : P s := h.get
theorem Inv2.iff {P : State → Prop} {α : Type} {a : α} {s : State} : Inv2 P (a, s) ↔ P s := ⟨Inv2.unmk, Inv2.mk⟩
theorem Inv2.of_eq {P : State → Prop} {α : Type} {r : α × State} (h : Inv2 P r) {a : α} {s : State} (e : r = (a, s)) : P s := by
  subst e; exact h.get

/-- The state of a triple. -/
@[irreducible] def Inv3 (P : State → Prop) {α β : Type} (r : α × β × State) : Prop := P r.2.2

theorem Inv3.mk {P : State → Prop} {α β : Type} {a : α} {b : β} {s : State} (h : P s) : Inv3 P (a, b, s) := by unfold Inv3; exact h
theorem Inv3.get {P : State → Prop} {α β : Type} {r : α × β × State} (h : Inv3 P r) : P r.2.2 := by unfold Inv3 at h; exact h
theorem Inv3.unmk {P : State → Prop} {α β : Type} {a : α} {b : β} {s : State} (h : Inv3 P (a, b, s)) : P s := h.get
theorem Inv3.iff {P : State → Prop} {α β : Type} {a : α} {b : β} {s : State} : Inv3 P (a, b, s) ↔ P s := ⟨Inv3.unmk, Inv3.mk⟩
theorem Inv3.of_eq {P : State → Prop} {α β : Type} {r : α × β × State} (h : Inv3 P r) {a : α} {b : β} {s : State} (e : r = (a, b, s)) : P s := by
  subst e; exact h.get

/-- The state of a quadruple. -/
@[irreducible] def Inv4 (P : State → Prop) {α β γ : Type} (r : α × β × γ × State) : Prop := P r.2.2.2

theorem Inv4.mk {P : State → Prop} {α β γ : Type} {a : α} {b : β} {c : γ} {s : State} (h : P s) : Inv4 P (a, b, c, s) := by unfold Inv4; exact h
theorem Inv4.get {P : State → Prop} {α β γ : Type} {r : α × β × γ × State} (h : Inv4 P r) : P r.2.2.2 := by unfold Inv4 at h; exact h
theorem Inv4.unmk {P : State → Prop} {α β γ : Type} {a : α} {b : β} {c : γ} {s : State} (h : Inv4 P (a, b, c, s)) : P s := h.get
theorem Inv4.iff {P : State → Prop} {α β γ : Type} {a : α} {b : β} {c : γ} {s : State} : Inv4 P (a, b, c, s) ↔ P s := ⟨Inv4.unmk, Inv4.mk⟩
theorem Inv4.of_eq {P : State → Prop} {α β γ : Type} {r : α × β × γ × State} (h : Inv4 P r) {a : α} {b : β} {c : γ} {s : State} (e : r = (a, b, c, s)) : P s := by
  subst e; exact h.get

/-- The state that stands first in a pair. -/
@[irreducible] def InvL (P : State → Prop) {α : Type} (r : State × α) : Prop := P r.1

theorem InvL.mk {P : State → Prop} {α : Type} {a : α} {s : State} (h : P s) : InvL P (s, a) := by unfold InvL; exact h
theorem InvL.get {P : State → Prop} {α : Type} {r : State × α} (h : InvL P r) : P r.1 := by unfold InvL at h; exact h
theorem InvL.unmk {P : State → Prop} {α : Type} {a : α} {s : State} (h : InvL P (s, a)) : P s := h.get
theorem InvL.iff {P : State → Prop} {α : Type} {a : α} {s : State} : InvL P (s, a) ↔ P s := ⟨InvL.unmk, InvL.mk⟩
theorem InvL.of_eq {P : State → Prop} {α : Type} {r : State × α} (h : InvL P r) {a : α} {s : State} (e : r = (s, a)) : P s := by
  subst e; exact h.get

theorem Inv3.iff2 {P : State → Prop} {α β : Type} {a : α} {r : β × State} : Inv3 P (a, r) ↔ Inv2 P r := by
  unfold Inv2 Inv3; exact Iff.rfl
theorem Inv2.snd {P : State → Prop} {α β : Type} {r : α × β × State} (h : Inv3 P r) : Inv2 P r.2 := by unfold Inv2; exact h.get
theorem Inv3.snd {P : State → Prop} {α β γ : Type} {r : α × β × γ × State} (h : Inv4 P r) : Inv3 P r.2 := by unfold Inv3; exact h.get

/-- What an optional answer holds satisfies `Q`. -/
@[irreducible] def OptInv {α : Type} (Q : α → Prop) (o : Option α) : Prop := ∀ t, o = some t → Q t

theorem OptInv.none {α : Type} {Q : α → Prop} : OptInv Q .none := by unfold OptInv; intro t h; cases h
theorem OptInv.some {α : Type} {Q : α → Prop} {t : α} (h : Q t) : OptInv Q (.some t) := by unfold OptInv; intro u hu; cases hu; exact h
theorem OptInv.get {α : Type} {Q : α → Prop} {o : Option α} (h : OptInv Q o) {t : α} (e : o = Option.some t) : Q t := by
  unfold OptInv at h; exact h t e

theorem OptInv.getD {α : Type} {Q : α → Prop} {o : Option α} {s : α} (ho : OptInv Q o) (h : Q s) : Q (o.getD s) := by
  cases o with
  | none => exact h
  | some t => exact ho.get rfl

theorem OptInv.findSome {α β : Type} {Q : β → Prop} {f : α → Option β} {l : List α} (h : ∀ x, OptInv Q (f x)) :
    OptInv Q (l.findSome? f) := by
  unfold OptInv
  intro t e
  obtain ⟨x, -, hx⟩ := List.exists_of_findSome?_eq_some e
  exact (h x).get hx

theorem OptInv.map {α β : Type} {Q : β → Prop} {f : α → β} {o : Option α} (h : ∀ x, Q (f x)) : OptInv Q (o.map f) := by
  cases o with
  | none => exact OptInv.none
  | some x => exact OptInv.some (h x)

theorem OptInv.mapQ {α β : Type} {Q : β → Prop} {R : α → Prop} {f : α → β} {o : Option α} (ho : OptInv R o)
    (h : ∀ x, R x → Q (f x)) : OptInv Q (o.map f) := by
  cases o with
  | none => exact OptInv.none
  | some x => exact OptInv.some (h x (ho.get rfl))

theorem OptInv.bind {α β : Type} {Q : β → Prop} {f : α → Option β} {o : Option α} (h : ∀ x, OptInv Q (f x)) : OptInv Q (o.bind f) := by
  cases o with
  | none => exact OptInv.none
  | some x => exact h x

/-- The state a command ends in satisfies `P`. -/
@[irreducible] def OutInv (P : State → Prop) (o : Host.Outcome State Fault Refusal) : Prop := ∀ t, o = .next t → P t

theorem OutInv.next {P : State → Prop} {t : State} (h : P t) : OutInv P (.next t) := by unfold OutInv; intro u e; cases e; exact h
theorem OutInv.get {P : State → Prop} {o : Host.Outcome State Fault Refusal} (h : OutInv P o) {t : State} (e : o = .next t) : P t := by
  unfold OutInv at h; exact h t e

/-! The properties. -/

/-- A reset value fits its field. -/
theorem Fld.resetOf_lt (F : Fld) (d : Nat) : Fld.resetOf F.id d < 2 ^ F.width := by
  have hall : ∀ e ∈ Fld.resets, e.2 < 2 ^ e.1.width := by decide +kernel
  simp only [Fld.resetOf, Fld.id_inj]
  split
  · next h => subst h; split <;> decide
  · cases h : Fld.resets.find? (fun e => decide (e.1 = F)) with
    | none => exact Nat.two_pow_pos _
    | some e =>
      have hm := List.mem_of_find?_eq_some h
      have hp := List.find?_some h
      simp only [decide_eq_true_eq] at hp
      subst hp
      exact hall e hm

/-- The invariant of the storage is kept by every write. -/
theorem State.Inv_writes : Writes State.Inv where
  other h h1 _ h3 h4 _ :=
    ⟨h1 ▸ h.csr, fun F d u i => by simpa only [State.fld, h1] using h.fits F d u i, h3 ▸ h.mem, h4 ▸ h.side⟩
  setFld {s F d u i v} h := by
    refine ⟨Tbl.wf_set (d := fun k => Fld.resetOf k.f k.d) (State.csrKey F d u i) _ h.csr, ?_, h.mem, h.side⟩
    intro G d' u' i'
    rw [State.fld_setFld]
    split
    · next hg => rw [hg.1]; exact Nat.mod_lt _ (Nat.two_pow_pos _)
    · exact h.fits G d' u' i'
  clear {s p} h := by
    refine ⟨Tbl.wf_clear p h.csr, ?_, h.mem, h.side⟩
    intro G d u i
    simp only [State.fld, State.resetFields, Tbl.get_clear]
    split
    · exact Fld.resetOf_lt G d
    · exact h.fits G d u i
  fresh {s t} h h1 _ h3 h4 _ := by
    refine ⟨by rw [h1]; rfl, ?_, h3 ▸ h.mem, h4 ▸ h.side⟩
    intro F d u i
    simp only [State.fld, h1]
    exact Fld.resetOf_lt F d
  both h h' := ⟨h.csr, h.fits, h'.mem, h'.side⟩
  raw h := ⟨h.csr, h.fits, Memory.wf_writeBytes _ _ h.mem, Tbl.wf_set (d := fun _ => 0) _ _ h.side⟩
  zero {s a n} h := ⟨h.csr, h.fits, Memory.wf_zero _ _ h.mem,
    Tbl.wf_clear (d := fun _ => 0) (fun k => a / 32 ≤ k.i && k.i < (a + n) / 32) h.side⟩

/-- The queue is no command's to change. -/
theorem pending_writes (q : List Instr) : Writes (fun s => s.pending = q) where
  other h _ _ _ _ h5 := h5.trans h
  setFld h := h
  clear h := h
  fresh h _ _ _ _ h5 := h5.trans h
  both h _ := h
  raw h := h
  zero h := h

/-- The stepping of the dies is no command's to change (R7). -/
theorem b0_writes (b : Bool) : Writes (fun s => s.b0 = b) where
  other h _ h2 _ _ _ := h2.trans h
  setFld h := h
  clear h := h
  fresh h _ h2 _ _ _ := h2.trans h
  both h _ := h
  raw h := h
  zero h := h

/-- What touches no memory leaves every byte of it as it is. -/
theorem mem_stable (m : Memory) : Stable (fun s => s.mem = m) where
  other h _ _ h3 _ _ := h3.trans h
  setFld h := h
  clear h := h
  fresh h _ _ h3 _ _ := h3.trans h
  both _ h' := h'

end Sys2Proof.Machine
end

