-- ==== Sys2Proof/Laws/KeepsOps.lean ====
section
/-! SUPPORT. What the operations of Machine/Ops.lean keep (Laws/Keeps.lean). -/

namespace Sys2Proof.Machine

theorem State.incFld_keeps {P : State → Prop} (hS : Stable P) {s : State} {f : Fld} {d : Nat} {u : Nat} {i : Nat} {n : Nat} (h : P s) :
    P (State.incFld s f d u i n) := by
  unfold State.incFld
  repeat' first
    | with_reducible assumption
    | with_reducible apply State.setFld_keeps hS

theorem State.incSat_keeps {P : State → Prop} (hS : Stable P) {s : State} {f : Fld} {d : Nat} {u : Nat} {i : Nat} {n : Nat} (h : P s) :
    P (State.incSat s f d u i n) := by
  unfold State.incSat
  repeat' first
    | with_reducible assumption
    | with_reducible apply State.setFld_keeps hS

theorem State.gated_keeps {P : State → Prop} (hS : Stable P) {s : State} {die : Nat} {t : State} (h : P s) (h1 : P t) :
    P (State.gated s die t) := by
  unfold State.gated
  repeat' first
    | with_reducible assumption
    | with_reducible apply keep_ite (Q := P)

theorem State.setBit_keeps {P : State → Prop} (hS : Stable P) {s : State} {f : Fld} {d : Nat} {u : Nat} {i : Nat} {b : Nat} {v : Bool} (h : P s) :
    P (State.setBit s f d u i b v) := by
  unfold State.setBit
  repeat' first
    | with_reducible assumption
    | with_reducible apply State.setFld_keeps hS

theorem State.takeFree_keeps {P : State → Prop} (hS : Stable P) {s : State} (h : P s) :
    Inv2 P (State.takeFree s) := by
  unfold State.takeFree
  repeat' first
    | with_reducible assumption
    | simp only [keep_mk hS]
    | simp only [Inv2.iff]

theorem State.raise_keeps {P : State → Prop} (hS : Stable P) {s : State} {e : Ev} {die : Nat} {unit : Nat} {a : Nat} {slot : optParam (Option Nat) none} (h : P s) :
    P (State.raise s e die unit a slot) := by
  unfold State.raise
  repeat' first
    | with_reducible assumption
    | simp only [keep_mk hS]

end Sys2Proof.Machine
end

