-- ==== Sys2Proof/Laws/KeepsOperands.lean ====
section
/-! SUPPORT. What the operations of Machine/Operands.lean keep (Laws/Keeps.lean). -/

namespace Sys2Proof.Machine

theorem State.setFrame_keeps {P : State → Prop} (hS : Stable P) {s : State} {tier : Nat} {n : Nat} {f : Frame} (h : P s) :
    P (State.setFrame s tier n f) := by
  unfold State.setFrame
  repeat' first
    | with_reducible assumption
    | simp only [keep_mk hS]

theorem State.setBlock_keeps {P : State → Prop} (hS : Stable P) {s : State} {cd : Nat} {n : Nat} {b : SramBlock} (h : P s) :
    P (State.setBlock s cd n b) := by
  unfold State.setBlock
  repeat' first
    | with_reducible assumption
    | simp only [keep_mk hS]

theorem State.logAt_keeps {P : State → Prop} (hS : Stable P) {s : State} {d : Nat} {u : Nat} {a : Nat} {syn : Nat} {pos : Nat} {strong : Bool} (h : P s) :
    P (State.logAt s d u a syn pos strong) := by
  unfold State.logAt
  repeat' first
    | with_reducible assumption
    | intro _
    | with_reducible apply State.incSat_keeps hS
    | with_reducible apply State.setFld_keeps hS
    | with_reducible apply State.raise_keeps hS
    | with_reducible apply keep_ite (Q := P)
    | simp only [keep_mk hS]
    | with_reducible apply OptInv.none
    | with_reducible apply OptInv.some
    | split
    | dsimp only

theorem State.logCorrected_keeps {P : State → Prop} (hS : Stable P) {s : State} {a : Nat} {syn : Nat} {pos : Nat} {strong : Bool} (h : P s) :
    P (State.logCorrected s a syn pos strong) := by
  unfold State.logCorrected
  repeat' first
    | with_reducible assumption
    | intro _
    | with_reducible apply State.incFld_keeps hS
    | with_reducible apply State.logAt_keeps hS
    | with_reducible apply keep_ite (Q := P)
    | simp only [keep_mk hS]
    | with_reducible apply OptInv.none
    | with_reducible apply OptInv.some
    | split
    | dsimp only

theorem State.logUncorrectable_keeps {P : State → Prop} (hS : Stable P) {s : State} {a : Nat} {strong : Bool} (h : P s) :
    P (State.logUncorrectable s a strong) := by
  unfold State.logUncorrectable
  repeat' first
    | with_reducible assumption
    | with_reducible apply State.setFld_keeps hS
    | with_reducible apply State.incSat_keeps hS
    | with_reducible apply State.raise_keeps hS
    | simp only [keep_mk hS]
    | split

theorem State.storeRaw_keeps {P : State → Prop} (hP : Writes P) {s : State} {a data side : Nat} (h : P s) :
    P (s.storeRaw a data side) := by
  unfold State.storeRaw
  dsimp only
  split
  · exact hP.raw (hP.other h rfl rfl rfl rfl rfl)
  · exact hP.raw h

theorem State.storeWord_keeps {P : State → Prop} (hP : Writes P) {s : State} {a : Nat} {w : Word} (h : P s) :
    P (State.storeWord s a w) := by
  have hS := hP.toStable
  unfold State.storeWord
  repeat' first
    | with_reducible assumption
    | with_reducible apply State.storeRaw_keeps hP

theorem State.decodeAt_keeps {P : State → Prop} (hP : Writes P) {s : State} {a : Nat} (h : P s) :
    Inv2 P (State.decodeAt s a) := by
  have hS := hP.toStable
  unfold State.decodeAt
  repeat' first
    | with_reducible assumption
    | with_reducible apply State.logCorrected_keeps hS
    | with_reducible apply State.storeWord_keeps hP
    | with_reducible apply State.logUncorrectable_keeps hS
    | simp only [keep_mk hS]
    | simp only [Inv2.iff]
    | split

theorem State.lineWords_keeps {P : State → Prop} (hP : Writes P) {s : State} {line : Nat} (h : P s) :
    Inv2 P (State.lineWords s line) := by
  have hS := hP.toStable
  unfold State.lineWords
  repeat' first
    | with_reducible assumption
    | intro _
    | with_reducible apply State.decodeAt_keeps hP
    | with_reducible apply Inv2.get (P := P)
    | with_reducible apply keep_ite (Q := P)
    | with_reducible apply keep_ite (Q := Inv2 P)
    | with_reducible apply keep_foldl (Q := P)
    | with_reducible apply keep_foldl (Q := Inv2 P)
    | simp only [keep_mk hS]
    | simp only [Inv2.iff]
    | split
    | refine Inv2.of_eq (P := P) ?_ (by with_reducible assumption)
    | exact Inv2.unmk (P := P) (by with_reducible assumption)
    | dsimp only

theorem State.hcFill_keeps {P : State → Prop} (hS : Stable P) {s : State} {hub : Nat} {line : Nat} {slot : Nat} {words : List Word} (h : P s) :
    P (State.hcFill s hub line slot words) := by
  unfold State.hcFill
  repeat' first
    | with_reducible assumption
    | with_reducible apply keep_ite (Q := P)
    | simp only [keep_mk hS]
    | split

theorem State.lineFails_keeps {P : State → Prop} (hS : Stable P) {s : State} {hub : Nat} {line : Nat} {a : Nat} {syn : Nat} {pos : Option Nat} (h : P s) :
    P (State.lineFails s hub line a syn pos) := by
  unfold State.lineFails
  repeat' first
    | with_reducible assumption
    | intro _
    | with_reducible apply State.logAt_keeps hS
    | with_reducible apply State.takeFree_keeps hS
    | with_reducible apply Inv2.get (P := P)
    | with_reducible apply keep_ite (Q := P)
    | with_reducible apply keep_ite (Q := Inv2 P)
    | simp only [keep_mk hS]
    | simp only [Inv2.iff]
    | with_reducible apply OptInv.none
    | with_reducible apply OptInv.some
    | split
    | refine Inv2.of_eq (P := P) ?_ (by with_reducible assumption)
    | exact Inv2.unmk (P := P) (by with_reducible assumption)
    | dsimp only

theorem State.fetchMiss_keeps {P : State → Prop} (hP : Writes P) {s : State} {req : Requester} {a : Nat} (h : P s) :
    Inv2 P (State.fetchMiss s req a) := by
  have hS := hP.toStable
  unfold State.fetchMiss
  repeat' first
    | with_reducible assumption
    | intro _
    | with_reducible apply State.incFld_keeps hS
    | with_reducible apply State.lineWords_keeps hP
    | with_reducible apply State.hcFill_keeps hS
    | with_reducible apply Inv2.get (P := P)
    | with_reducible apply keep_ite (Q := P)
    | with_reducible apply keep_ite (Q := Inv2 P)
    | with_reducible apply OptInv.getD (Q := P)
    | simp only [keep_mk hS]
    | simp only [Inv2.iff]
    | with_reducible apply OptInv.none
    | with_reducible apply OptInv.some
    | split
    | refine Inv2.of_eq (P := P) ?_ (by with_reducible assumption)
    | exact Inv2.unmk (P := P) (by with_reducible assumption)
    | dsimp only

theorem State.fetchWord_keeps {P : State → Prop} (hP : Writes P) {s : State} {req : Requester} {a : Nat} (h : P s) :
    Inv2 P (State.fetchWord s req a) := by
  have hS := hP.toStable
  unfold State.fetchWord
  repeat' first
    | with_reducible assumption
    | intro _
    | with_reducible apply State.fetchMiss_keeps hP
    | with_reducible apply State.lineFails_keeps hS
    | with_reducible apply State.incFld_keeps hS
    | with_reducible apply State.decodeAt_keeps hP
    | with_reducible apply Inv2.get (P := P)
    | with_reducible apply keep_ite (Q := P)
    | with_reducible apply keep_ite (Q := Inv2 P)
    | with_reducible apply OptInv.getD (Q := P)
    | simp only [keep_mk hS]
    | simp only [Inv2.iff]
    | with_reducible apply OptInv.none
    | with_reducible apply OptInv.some
    | split
    | refine Inv2.of_eq (P := P) ?_ (by with_reducible assumption)
    | exact Inv2.unmk (P := P) (by with_reducible assumption)
    | dsimp only

theorem State.closeMerge_keeps {P : State → Prop} (hS : Stable P) {s : State} {a : Nat} (h : P s) :
    P (State.closeMerge s a) := by
  unfold State.closeMerge
  repeat' first
    | with_reducible assumption
    | simp only [keep_mk hS]
    | split

theorem State.hcUpdate_keeps {P : State → Prop} (hS : Stable P) {s : State} {a : Nat} {w : Word} (h : P s) :
    P (State.hcUpdate s a w) := by
  unfold State.hcUpdate
  repeat' first
    | with_reducible assumption
    | simp only [keep_mk hS]
    | split

theorem State.writeWord_keeps {P : State → Prop} (hP : Writes P) {s : State} {req : Requester} {a : Nat} {data : Nat} {poison : Bool} {isSealed : Bool} (h : P s) :
    P (State.writeWord s req a data poison isSealed) := by
  have hS := hP.toStable
  unfold State.writeWord
  repeat' first
    | with_reducible assumption
    | with_reducible apply State.hcUpdate_keeps hS
    | with_reducible apply State.closeMerge_keeps hS
    | with_reducible apply State.setFld_keeps hS
    | with_reducible apply State.storeRaw_keeps hP
    | with_reducible apply State.storeWord_keeps hP
    | with_reducible apply keep_ite (Q := P)
    | simp only [keep_mk hS]
    | split

theorem State.mergeWord_keeps {P : State → Prop} (hP : Writes P) {s : State} {req : Requester} {a : Nat} {off : Nat} {bs : List Byte} {poison : Bool} {isSealed : Bool} (h : P s) :
    P (State.mergeWord s req a off bs poison isSealed) := by
  have hS := hP.toStable
  unfold State.mergeWord
  repeat' first
    | with_reducible assumption
    | with_reducible apply State.writeWord_keeps hP
    | with_reducible apply State.decodeAt_keeps hP
    | with_reducible apply Inv2.get (P := P)
    | with_reducible apply keep_ite (Q := P)

theorem State.readFor_keeps {P : State → Prop} (hP : Writes P) {s : State} {req : Requester} {a : Nat} (h : P s) :
    Inv2 P (State.readFor s req a) := by
  have hS := hP.toStable
  unfold State.readFor
  repeat' first
    | with_reducible assumption
    | with_reducible apply State.fetchWord_keeps hP
    | with_reducible apply Inv2.get (P := P)
    | with_reducible apply keep_ite (Q := Inv2 P)
    | simp only [keep_mk hS]
    | simp only [Inv2.iff]
    | split

theorem State.writeFor_keeps {P : State → Prop} (hP : Writes P) {s : State} {req : Requester} {a : Nat} {bs : List Byte} {poison : Bool} {isSealed : Bool} (h : P s) :
    P (State.writeFor s req a bs poison isSealed) := by
  have hS := hP.toStable
  unfold State.writeFor
  repeat' first
    | with_reducible assumption
    | intro _
    | with_reducible apply State.mergeWord_keeps hP
    | with_reducible apply keep_ite (Q := P)
    | with_reducible apply keep_foldl (Q := P)

theorem State.zeroRange_keeps {P : State → Prop} (hP : Writes P) {s : State} {a n : Nat} (h : P s) : P (s.zeroRange a n) := hP.zero h

end Sys2Proof.Machine
end

