-- ==== Sys2Proof/Laws/KeepsMesh.lean ====
section
/-! SUPPORT. What the operations of Machine/Mesh.lean keep (Laws/Keeps.lean). -/

namespace Sys2Proof.Machine

theorem State.crossEntries_keeps {P : State → Prop} (hS : Stable P) {s : State} {cd : Nat} {k : Nat} {n : Nat} (h : P s) :
    P (State.crossEntries s cd k n) := by
  unfold State.crossEntries
  repeat' first
    | with_reducible assumption
    | intro _
    | with_reducible apply keep_ite (Q := P)
    | simp only [keep_mk hS]
    | split
    | dsimp only

theorem State.meshSend_keeps {P : State → Prop} (hS : Stable P) {s : State} {cd : Nat} {p : MeshPacket} {src : MeshEnd} {dst : MeshEnd} (h : P s) :
    P (State.meshSend s cd p src dst) := by
  unfold State.meshSend
  repeat' first
    | with_reducible assumption
    | intro _
    | with_reducible apply State.incFld_keeps hS
    | with_reducible apply State.setFld_keeps hS
    | with_reducible apply State.crossEntries_keeps hS
    | with_reducible apply keep_ite (Q := P)
    | with_reducible apply keep_foldl (Q := P)
    | simp only [keep_mk hS]
    | split
    | dsimp only

theorem State.meshRead_keeps {P : State → Prop} (hS : Stable P) {s : State} {cd : Nat} {src : MeshEnd} {a : Nat} (h : P s) :
    P (State.meshRead s cd src a) := by
  unfold State.meshRead
  repeat' first
    | with_reducible assumption
    | intro _
    | with_reducible apply State.meshSend_keeps hS
    | with_reducible apply keep_ite (Q := P)
    | simp only [keep_mk hS]
    | split
    | dsimp only

theorem State.meshWrite_keeps {P : State → Prop} (hS : Stable P) {s : State} {cd : Nat} {src : MeshEnd} {a : Nat} (h : P s) :
    P (State.meshWrite s cd src a) := by
  unfold State.meshWrite
  repeat' first
    | with_reducible assumption
    | intro _
    | with_reducible apply State.meshSend_keeps hS
    | with_reducible apply keep_ite (Q := P)
    | simp only [keep_mk hS]
    | split
    | dsimp only

theorem State.meshPosted_keeps {P : State → Prop} (hS : Stable P) {s : State} {cd : Nat} {a : Nat} {n : Nat} (h : P s) :
    P (State.meshPosted s cd a n) := by
  unfold State.meshPosted
  repeat' first
    | with_reducible assumption
    | intro _
    | with_reducible apply State.meshSend_keeps hS
    | with_reducible apply keep_ite (Q := P)
    | simp only [keep_mk hS]
    | split
    | dsimp only

theorem State.meshNotice_keeps {P : State → Prop} (hS : Stable P) {s : State} {cd : Nat} {n : Nat} (h : P s) :
    P (State.meshNotice s cd n) := by
  unfold State.meshNotice
  repeat' first
    | with_reducible assumption
    | intro _
    | with_reducible apply State.meshSend_keeps hS
    | with_reducible apply keep_ite (Q := P)
    | simp only [keep_mk hS]
    | split
    | dsimp only

theorem State.meshOuter_keeps {P : State → Prop} (hS : Stable P) {s : State} {a : Nat} {write : Bool} (h : P s) :
    P (State.meshOuter s a write) := by
  unfold State.meshOuter
  repeat' first
    | with_reducible assumption
    | intro _
    | with_reducible apply State.meshWrite_keeps hS
    | with_reducible apply State.meshRead_keeps hS
    | with_reducible apply keep_ite (Q := P)
    | simp only [keep_mk hS]
    | split
    | dsimp only

end Sys2Proof.Machine
end

