-- ==== Sys2Proof/Laws/KeepsQueues.lean ====
section
/-! SUPPORT. What the operations of Machine/Queues.lean keep (Laws/Keeps.lean). -/

namespace Sys2Proof.Machine

theorem State.ownWrite_keeps {P : State → Prop} (hP : Writes P) {s : State} {a : Nat} {bs : List Byte} (h : P s) :
    P (State.ownWrite s a bs) := by
  have hS := hP.toStable
  unfold State.ownWrite
  repeat' first
    | with_reducible assumption
    | intro _
    | with_reducible apply State.mergeWord_keeps hP
    | with_reducible apply keep_foldl (Q := P)

theorem State.ownWords_keeps {P : State → Prop} (hP : Writes P) {x : Nat} {x1 : Nat} {x2 : State} (h : P x2) :
    Inv3 P (State.ownWords x x1 x2) := by
  have hS := hP.toStable
  induction x generalizing x1 x2 with
  | zero =>
    unfold State.ownWords
    repeat' first
      | with_reducible assumption
      | with_reducible apply State.fetchWord_keeps hP
      | with_reducible apply Inv3.get (P := P)
      | with_reducible apply Inv2.get (P := P)
      | simp only [keep_mk hS]
      | simp only [Inv3.iff]
  | succ n ih =>
    unfold State.ownWords
    repeat' first
      | with_reducible apply ih
      | with_reducible assumption
      | with_reducible apply State.fetchWord_keeps hP
      | with_reducible apply Inv3.get (P := P)
      | with_reducible apply Inv2.get (P := P)
      | simp only [keep_mk hS]
      | simp only [Inv3.iff]

theorem State.ownRead_keeps {P : State → Prop} (hP : Writes P) {s : State} {a : Nat} {n : Nat} (h : P s) :
    Inv3 P (State.ownRead s a n) := by
  have hS := hP.toStable
  unfold State.ownRead
  repeat' first
    | with_reducible assumption
    | with_reducible apply State.ownWords_keeps hP
    | simp only [keep_mk hS]
    | simp only [Inv3.iff2]
    | with_reducible apply Inv2.snd

theorem State.cplPush_keeps {P : State → Prop} (hP : Writes P) {s : State} {slot : Nat} {entry : List Byte} (h : P s) :
    P (State.cplPush s slot entry) := by
  have hS := hP.toStable
  unfold State.cplPush
  repeat' first
    | with_reducible assumption
    | with_reducible apply State.ownWrite_keeps hP
    | with_reducible apply State.setFld_keeps hS
    | simp only [keep_mk hS]

theorem State.cplReply_keeps {P : State → Prop} (hP : Writes P) {s : State} {slot : Nat} {kept : Bool} {entry : List Byte} (h : P s) :
    P (State.cplReply s slot kept entry) := by
  have hS := hP.toStable
  unfold State.cplReply
  repeat' first
    | with_reducible assumption
    | with_reducible apply State.cplPush_keeps hP
    | with_reducible apply keep_ite (Q := P)
    | simp only [keep_mk hS]

theorem State.drainNotices_keeps {P : State → Prop} (hP : Writes P) {s : State} {slot : Nat} {x : Nat} (h : P s) :
    P (State.drainNotices s slot x) := by
  have hS := hP.toStable
  induction x generalizing s slot with
  | zero =>
    unfold State.drainNotices
    repeat' first
      | with_reducible assumption
      | with_reducible apply State.cplPush_keeps hP
      | with_reducible apply keep_ite (Q := P)
      | simp only [keep_mk hS]
      | split
  | succ n ih =>
    unfold State.drainNotices
    repeat' first
      | with_reducible apply ih
      | with_reducible assumption
      | with_reducible apply State.cplPush_keeps hP
      | with_reducible apply keep_ite (Q := P)
      | simp only [keep_mk hS]
      | split

theorem State.notice_keeps {P : State → Prop} (hP : Writes P) {s : State} {slot : Nat} {code : Nat} {info : List Byte} (h : P s) :
    P (State.notice s slot code info) := by
  have hS := hP.toStable
  unfold State.notice
  repeat' first
    | with_reducible assumption
    | with_reducible apply State.cplPush_keeps hP
    | with_reducible apply State.setFld_keeps hS
    | with_reducible apply State.incFld_keeps hS
    | with_reducible apply keep_ite (Q := P)
    | simp only [keep_mk hS]

theorem State.setCtxState_keeps {P : State → Prop} (hS : Stable P) {s : State} {cd : Nat} {c : Nat} {v : Nat} (h : P s) :
    P (State.setCtxState s cd c v) := by
  unfold State.setCtxState
  repeat' first
    | with_reducible assumption
    | with_reducible apply State.setFld_keeps hS

theorem State.runCtx_keeps {P : State → Prop} (hS : Stable P) {s : State} {cd : Nat} {c : Nat} {beat : Nat} (h : P s) :
    P (State.runCtx s cd c beat) := by
  unfold State.runCtx
  repeat' first
    | with_reducible assumption
    | with_reducible apply State.setFld_keeps hS
    | with_reducible apply State.setCtxState_keeps hS
    | simp only [keep_mk hS]

theorem State.switchCtx_keeps {P : State → Prop} (hS : Stable P) {s : State} {cd : Nat} {t : Nat} (h : P s) :
    P (State.switchCtx s cd t) := by
  unfold State.switchCtx
  repeat' first
    | with_reducible assumption
    | with_reducible apply State.runCtx_keeps hS
    | with_reducible apply State.setFld_keeps hS
    | with_reducible apply keep_ite (Q := P)
    | simp only [keep_mk hS]
    | split

theorem State.closeHold_keeps {P : State → Prop} (hS : Stable P) {s : State} {cd : Nat} {c : Nat} {t : Nat} (h : P s) :
    P (State.closeHold s cd c t) := by
  unfold State.closeHold
  repeat' first
    | with_reducible assumption
    | with_reducible apply State.incFld_keeps hS
    | with_reducible apply State.setCtxState_keeps hS
    | with_reducible apply State.setFld_keeps hS
    | with_reducible apply keep_ite (Q := P)

theorem State.yieldCtx_keeps {P : State → Prop} (hS : Stable P) {s : State} {cd : Nat} {c : Nat} {t : Nat} (h : P s) :
    P (State.yieldCtx s cd c t) := by
  unfold State.yieldCtx
  repeat' first
    | with_reducible assumption
    | with_reducible apply State.switchCtx_keeps hS
    | with_reducible apply State.setCtxState_keeps hS

theorem State.makeReady_keeps {P : State → Prop} (hS : Stable P) {s : State} {cd : Nat} {c : Nat} {t : Nat} (h : P s) :
    P (State.makeReady s cd c t) := by
  unfold State.makeReady
  repeat' first
    | with_reducible assumption
    | intro _
    | with_reducible apply State.setCtxState_keeps hS
    | with_reducible apply State.runCtx_keeps hS
    | with_reducible apply State.yieldCtx_keeps hS
    | with_reducible apply State.closeHold_keeps hS
    | with_reducible apply keep_ite (Q := P)
    | simp only [keep_mk hS]
    | split
    | dsimp only

theorem State.ctxError_keeps {P : State → Prop} (hP : Writes P) {s : State} {cd : Nat} {c : Nat} {cause : Nat} {unit : Nat} {tag : Nat} (h : P s) :
    P (State.ctxError s cd c cause unit tag) := by
  have hS := hP.toStable
  unfold State.ctxError
  repeat' first
    | with_reducible assumption
    | intro _
    | with_reducible apply State.closeHold_keeps hS
    | with_reducible apply State.setFld_keeps hS
    | with_reducible apply State.setCtxState_keeps hS
    | with_reducible apply State.switchCtx_keeps hS
    | with_reducible apply State.raise_keeps hS
    | with_reducible apply State.notice_keeps hP
    | with_reducible apply keep_ite (Q := P)
    | simp only [keep_mk hS]
    | with_reducible apply OptInv.none
    | with_reducible apply OptInv.some
    | split
    | dsimp only

theorem State.bumpCnt_keeps {P : State → Prop} (hS : Stable P) {s : State} {cd : Nat} {c : Nat} {n : Nat} {k : Nat} (h : P s) :
    P (State.bumpCnt s cd c n k) := by
  unfold State.bumpCnt
  repeat' first
    | with_reducible assumption
    | intro _
    | with_reducible apply State.meshNotice_keeps hS
    | with_reducible apply keep_ite (Q := P)
    | simp only [keep_mk hS]
    | split
    | dsimp only

end Sys2Proof.Machine
end

