-- ==== Sys2Proof/Laws/KeepsUnits.lean ====
section
/-! SUPPORT. What the operations of Machine/Units.lean keep (Laws/Keeps.lean). -/

namespace Sys2Proof.Machine

theorem State.setArray_keeps {P : State → Prop} (hS : Stable P) {s : State} {cd : Nat} {n : Nat} {a : ArrayUnit} (h : P s) :
    P (State.setArray s cd n a) := by
  unfold State.setArray
  repeat' first
    | with_reducible assumption
    | simp only [keep_mk hS]

theorem State.setRegion_keeps {P : State → Prop} (hS : Stable P) {s : State} {cd : Nat} {n : Nat} {q : Nat} {r : Region} (h : P s) :
    P (State.setRegion s cd n q r) := by
  unfold State.setRegion
  repeat' first
    | with_reducible assumption
    | simp only [keep_mk hS]

theorem State.setBobbin_keeps {P : State → Prop} (hS : Stable P) {s : State} {cd : Nat} {bob : Nat} {b : Bobbin} (h : P s) :
    P (State.setBobbin s cd bob b) := by
  unfold State.setBobbin
  repeat' first
    | with_reducible assumption
    | simp only [keep_mk hS]

theorem State.setStation_keeps {P : State → Prop} (hS : Stable P) {s : State} {cd : Nat} {g : Nat} {x : Station} (h : P s) :
    P (State.setStation s cd g x) := by
  unfold State.setStation
  repeat' first
    | with_reducible assumption
    | simp only [keep_mk hS]

theorem State.setGateway_keeps {P : State → Prop} (hS : Stable P) {s : State} {cd : Nat} {g : Nat} {x : List GwTile} (h : P s) :
    P (State.setGateway s cd g x) := by
  unfold State.setGateway
  repeat' first
    | with_reducible assumption
    | simp only [keep_mk hS]

theorem State.setUses_keeps {P : State → Prop} (hS : Stable P) {s : State} {cd : Nat} {tk : Nat} {us : List Use} (h : P s) :
    P (State.setUses s cd tk us) := by
  unfold State.setUses
  repeat' first
    | with_reducible assumption
    | simp only [keep_mk hS]

theorem State.setRingSlot_keeps {P : State → Prop} (hS : Stable P) {s : State} {cd : Nat} {ring : Nat} {k : Nat} {x : RingSlot} (h : P s) :
    P (State.setRingSlot s cd ring k x) := by
  unfold State.setRingSlot
  repeat' first
    | with_reducible assumption
    | simp only [keep_mk hS]

theorem State.setVe_keeps {P : State → Prop} (hS : Stable P) {s : State} {cd : Nat} {v : Nat} {x : VeUnit} (h : P s) :
    P (State.setVe s cd v x) := by
  unfold State.setVe
  repeat' first
    | with_reducible assumption
    | simp only [keep_mk hS]

theorem State.setCtx_keeps {P : State → Prop} (hS : Stable P) {s : State} {cd : Nat} {c : Nat} {x : Ctx} (h : P s) :
    P (State.setCtx s cd c x) := by
  unfold State.setCtx
  repeat' first
    | with_reducible assumption
    | simp only [keep_mk hS]

theorem State.setSync_keeps {P : State → Prop} (hS : Stable P) {s : State} {cd : Nat} {slot : Nat} {k : Nat} {x : SyncCtr} (h : P s) :
    P (State.setSync s cd slot k x) := by
  unfold State.setSync
  repeat' first
    | with_reducible assumption
    | simp only [keep_mk hS]

theorem State.poolMoves_keeps {P : State → Prop} (hS : Stable P) {s : State} {cd : Nat} {pool : Nat} (h : P s) :
    P (State.poolMoves s cd pool) := by
  unfold State.poolMoves
  repeat' first
    | with_reducible assumption
    | intro _
    | with_reducible apply keep_ite (Q := P)
    | simp only [keep_mk hS]
    | split
    | dsimp only

theorem State.charge_keeps {P : State → Prop} (hS : Stable P) {s : State} {cd : Nat} {u : Nat} {slot : Nat} (h : P s) :
    P (State.charge s cd u slot) := by
  unfold State.charge
  repeat' first
    | with_reducible assumption
    | simp only [keep_mk hS]

theorem State.tktHold_keeps {P : State → Prop} (hS : Stable P) {s : State} {cd : Nat} {u : Nat} (h : P s) :
    P (State.tktHold s cd u) := by
  unfold State.tktHold
  repeat' first
    | with_reducible assumption
    | intro _
    | with_reducible apply keep_ite (Q := P)
    | simp only [keep_mk hS]
    | split
    | dsimp only

theorem State.tktClose_keeps {P : State → Prop} (hS : Stable P) {s : State} {cd : Nat} {u : Nat} {c : Nat} (h : P s) :
    P (State.tktClose s cd u c) := by
  unfold State.tktClose
  repeat' first
    | with_reducible assumption
    | intro _
    | with_reducible apply State.incFld_keeps hS
    | with_reducible apply keep_ite (Q := P)
    | simp only [keep_mk hS]
    | split
    | dsimp only

theorem State.release_keeps {P : State → Prop} (hS : Stable P) {s : State} {cd : Nat} {u : Nat} (h : P s) :
    P (State.release s cd u) := by
  unfold State.release
  repeat' first
    | with_reducible assumption
    | simp only [keep_mk hS]

theorem State.arrSettle_keeps {P : State → Prop} (hS : Stable P) {s : State} {cd : Nat} {n : Nat} (h : P s) :
    P (State.arrSettle s cd n) := by
  unfold State.arrSettle
  repeat' first
    | with_reducible assumption
    | with_reducible apply State.setFld_keeps hS
    | with_reducible apply keep_ite (Q := P)

theorem State.arrDone_keeps {P : State → Prop} (hS : Stable P) {s : State} {cd : Nat} {n : Nat} {ctx : Nat} (h : P s) :
    P (State.arrDone s cd n ctx) := by
  unfold State.arrDone
  repeat' first
    | with_reducible assumption
    | with_reducible apply State.bumpCnt_keeps hS
    | with_reducible apply State.incFld_keeps hS

theorem State.arrDiscard_keeps {P : State → Prop} (hS : Stable P) {s : State} {cd : Nat} {n : Nat} {es : List ArrEntry} (h : P s) :
    P (State.arrDiscard s cd n es) := by
  unfold State.arrDiscard
  repeat' first
    | with_reducible assumption
    | intro _
    | with_reducible apply State.bumpCnt_keeps hS
    | with_reducible apply State.incFld_keeps hS
    | with_reducible apply keep_foldl (Q := P)

theorem State.setHeldBy_keeps {P : State → Prop} (hS : Stable P) {s : State} {cd : Nat} {u : Nat} {slot : Option Nat} (h : P s) :
    P (State.setHeldBy s cd u slot) := by
  unfold State.setHeldBy
  repeat' first
    | with_reducible assumption
    | simp only [keep_mk hS]

theorem State.arrRefuse_keeps {P : State → Prop} (hP : Writes P) {s : State} {cd : Nat} {n : Nat} {ctx : Nat} {tag : Nat} {kind : Nat} {why : State.ArrRefusal} (h : P s) :
    P (State.arrRefuse s cd n ctx tag kind why) := by
  have hS := hP.toStable
  unfold State.arrRefuse
  repeat' first
    | with_reducible assumption
    | with_reducible apply State.setFld_keeps hS
    | with_reducible apply State.setHeldBy_keeps hS
    | with_reducible apply State.setArray_keeps hS
    | with_reducible apply State.arrDiscard_keeps hS
    | with_reducible apply State.arrDone_keeps hS
    | with_reducible apply State.ctxError_keeps hP

theorem State.arrLeaveFault_keeps {P : State → Prop} (hS : Stable P) {s : State} {cd : Nat} {n : Nat} (h : P s) :
    P (State.arrLeaveFault s cd n) := by
  unfold State.arrLeaveFault
  repeat' first
    | with_reducible assumption
    | with_reducible apply State.arrSettle_keeps hS
    | with_reducible apply State.setFld_keeps hS
    | with_reducible apply keep_ite (Q := P)

theorem State.arrEnqueue_keeps {P : State → Prop} (hS : Stable P) {s : State} {cd : Nat} {n : Nat} {e : ArrEntry} (h : P s) :
    P (State.arrEnqueue s cd n e) := by
  unfold State.arrEnqueue
  repeat' first
    | with_reducible assumption
    | with_reducible apply State.arrDiscard_keeps hS
    | with_reducible apply State.setArray_keeps hS
    | with_reducible apply keep_ite (Q := P)

theorem State.feedEnqueue_keeps {P : State → Prop} (hS : Stable P) {s : State} {cd : Nat} {bob : Nat} {c : Cmd} (h : P s) :
    P (State.feedEnqueue s cd bob c) := by
  unfold State.feedEnqueue
  repeat' first
    | with_reducible assumption
    | with_reducible apply State.bumpCnt_keeps hS
    | with_reducible apply State.setBobbin_keeps hS
    | with_reducible apply State.setArray_keeps hS
    | with_reducible apply keep_ite (Q := P)

end Sys2Proof.Machine
end

