-- ==== Sys2Proof/Laws/KeepsResults.lean ====
section
/-! SUPPORT. What the operations of Machine/Results.lean keep (Laws/Keeps.lean). -/

namespace Sys2Proof.Machine

theorem State.setSeUnit_keeps {P : State → Prop} (hS : Stable P) {s : State} {cd : Nat} {se : Nat} {u : SeUnit} (h : P s) :
    P (State.setSeUnit s cd se u) := by
  unfold State.setSeUnit
  repeat' first
    | with_reducible assumption
    | simp only [keep_mk hS]

theorem State.writeSeSeed_keeps {P : State → Prop} (hS : Stable P) {s : State} {cd : Nat} {se : Nat} {v : Word64} (h : P s) :
    P (State.writeSeSeed s cd se v) := by
  unfold State.writeSeSeed
  repeat' first
    | with_reducible assumption
    | with_reducible apply State.setSeUnit_keeps hS
    | with_reducible apply State.setFld_keeps hS

theorem State.writeVeSeed_keeps {P : State → Prop} (hS : Stable P) {s : State} {cd : Nat} {ve : Nat} {v : Word64} (h : P s) :
    P (State.writeVeSeed s cd ve v) := by
  unfold State.writeVeSeed
  repeat' first
    | with_reducible assumption
    | intro _
    | with_reducible apply State.setVe_keeps hS
    | with_reducible apply State.setFld_keeps hS
    | with_reducible apply keep_ite (Q := P)
    | simp only [keep_mk hS]
    | split
    | dsimp only

theorem State.setVreg_keeps {P : State → Prop} (hS : Stable P) {s : State} {cd : Nat} {ve : Nat} {r : Nat} {bs : List Byte} {isSealed : Bool} (h : P s) :
    P (State.setVreg s cd ve r bs isSealed) := by
  unfold State.setVreg
  repeat' first
    | with_reducible assumption
    | simp only [keep_mk hS]

theorem State.pinVst_keeps {P : State → Prop} (hS : Stable P) {s : State} {cd : Nat} {ve : Nat} {r : Nat} {due : Nat} (h : P s) :
    P (State.pinVst s cd ve r due) := by
  unfold State.pinVst
  repeat' first
    | with_reducible assumption
    | intro _
    | with_reducible apply State.takeFree_keeps hS
    | with_reducible apply State.setVe_keeps hS
    | with_reducible apply Inv2.get (P := P)
    | with_reducible apply keep_ite (Q := P)
    | with_reducible apply keep_ite (Q := Inv2 P)
    | simp only [keep_mk hS]
    | simp only [Inv2.iff]
    | split
    | refine Inv2.of_eq (P := P) ?_ (by with_reducible assumption)
    | exact Inv2.unmk (P := P) (by with_reducible assumption)
    | dsimp only

theorem State.land_keeps {P : State → Prop} (hS : Stable P) {s : State} {x : Pending} (h : P s) :
    P (State.land s x) := by
  unfold State.land
  repeat' first
    | with_reducible assumption
    | intro _
    | with_reducible apply State.setVreg_keeps hS
    | with_reducible apply State.pinVst_keeps hS
    | with_reducible apply State.writeVeSeed_keeps hS
    | with_reducible apply State.writeSeSeed_keeps hS
    | with_reducible apply keep_ite (Q := P)
    | simp only [keep_mk hS]
    | split
    | dsimp only

theorem State.landSome_keeps {P : State → Prop} (hS : Stable P) {s : State} {p : Pending → Bool} (h : P s) :
    P (State.landSome s p) := by
  unfold State.landSome
  repeat' first
    | with_reducible assumption
    | intro _
    | with_reducible apply State.land_keeps hS
    | with_reducible apply keep_ite (Q := P)
    | with_reducible apply keep_foldl (Q := P)
    | simp only [keep_mk hS]
    | split
    | dsimp only

theorem State.settle_keeps {P : State → Prop} (hS : Stable P) {s : State} {cd : Nat} {t : Nat} (h : P s) :
    P (State.settle s cd t) := by
  unfold State.settle
  repeat' first
    | with_reducible assumption
    | intro _
    | with_reducible apply State.landSome_keeps hS
    | with_reducible apply keep_ite (Q := P)
    | simp only [keep_mk hS]
    | split
    | dsimp only

theorem State.reach_keeps {P : State → Prop} (hS : Stable P) {s : State} {cd : Nat} {t : Nat} (h : P s) :
    P (State.reach s cd t) := by
  unfold State.reach
  repeat' first
    | with_reducible assumption
    | intro _
    | with_reducible apply State.settle_keeps hS
    | with_reducible apply keep_ite (Q := P)
    | simp only [keep_mk hS]
    | split
    | dsimp only

theorem State.reachVe_keeps {P : State → Prop} (hS : Stable P) {s : State} {cd : Nat} {ve : Nat} {rs : List Nat} (h : P s) :
    P (State.reachVe s cd ve rs) := by
  unfold State.reachVe
  repeat' first
    | with_reducible assumption
    | intro _
    | with_reducible apply State.reach_keeps hS
    | with_reducible apply keep_ite (Q := P)
    | simp only [keep_mk hS]
    | split
    | dsimp only

theorem State.vregSeen_keeps {P : State → Prop} (hS : Stable P) {s : State} {cd : Nat} {ve : Nat} {r : Nat} {t : Nat} (h : P s) :
    Inv2 P (State.vregSeen s cd ve r t) := by
  unfold State.vregSeen
  repeat' first
    | with_reducible assumption
    | intro _
    | with_reducible apply State.takeFree_keeps hS
    | with_reducible apply Inv3.get (P := P)
    | with_reducible apply Inv2.get (P := P)
    | with_reducible apply keep_ite (Q := P)
    | with_reducible apply keep_ite (Q := Inv2 P)
    | with_reducible apply keep_ite (Q := Inv3 P)
    | simp only [keep_mk hS]
    | simp only [Inv2.iff]
    | simp only [Inv3.iff]
    | simp only [Inv3.iff2]
    | with_reducible apply Inv2.snd
    | with_reducible apply OptInv.none
    | with_reducible apply OptInv.some
    | split
    | refine Inv3.of_eq (P := P) ?_ (by with_reducible assumption)
    | exact Inv3.unmk (P := P) (by with_reducible assumption)
    | refine Inv2.of_eq (P := P) ?_ (by with_reducible assumption)
    | exact Inv2.unmk (P := P) (by with_reducible assumption)
    | dsimp only

end Sys2Proof.Machine
end

