-- ==== Sys2Proof/Laws/KeepsArrays.lean ====
section
/-! SUPPORT. What the operations of Machine/Arrays.lean keep (Laws/Keeps.lean). -/

namespace Sys2Proof.Machine

/-- The state of a state.drain. -/
@[irreducible] def DrainInv (P : State → Prop) (r : State.Drain) : Prop := P r.st

theorem DrainInv.of {P : State → Prop} {r : State.Drain} (h : P r.st) : DrainInv P r := by unfold DrainInv; exact h
theorem DrainInv.st {P : State → Prop} {r : State.Drain} (h : DrainInv P r) : P r.st := by unfold DrainInv at h; exact h
theorem DrainInv.iff {P : State → Prop} {st : State} {poison : Bool} {ue : Bool} {sat : Bool} {firstRow : Option Nat} {gen : Nat} :
    DrainInv P ⟨st, poison, ue, sat, firstRow, gen⟩ ↔ P st := ⟨fun h => DrainInv.st h, fun h => DrainInv.of h⟩

theorem State.wgmRows_keeps {P : State → Prop} (hP : Writes P) {s : State} {cd : Nat} {n : Nat} {slot : Nat} {f : ArrFields} (h : P s) :
    Inv3 P (State.wgmRows s cd n slot f) := by
  have hS := hP.toStable
  unfold State.wgmRows
  repeat' first
    | with_reducible assumption
    | with_reducible apply State.decodeAt_keeps hP
    | with_reducible apply Inv2.get (P := P)
    | with_reducible apply keep_ite (Q := Inv3 P)
    | simp only [Inv3.iff]

theorem State.acbRow_keeps {P : State → Prop} (hP : Writes P) {s : State} {cd n row : Nat} (h : P s) :
    Inv3 P (State.acbRow s cd n row) := by
  unfold State.acbRow
  refine keep_foldl (Q := Inv3 P) (Inv3.mk h) (fun r w hr => ?_)
  exact Inv3.iff2.mpr (Inv2.mk (Inv2.get (State.decodeAt_keeps hP hr.get)))

theorem State.drainRow_keeps {P : State → Prop} (hP : Writes P) {d : State.Drain} {cd : Nat} {n : Nat} {slot : Nat} {row : Nat} {acc : Bool} {asInt : Bool} {long : Bool} {vals : List (Option AccVal)} (h : DrainInv P d) :
    DrainInv P (State.drainRow d cd n slot row acc asInt long vals) := by
  have hS := hP.toStable
  unfold State.drainRow
  repeat' first
    | with_reducible assumption
    | intro _
    | with_reducible apply State.decodeAt_keeps hP
    | with_reducible apply State.writeWord_keeps hP
    | with_reducible apply Inv2.get (P := P)
    | with_reducible apply keep_ite (Q := DrainInv P)
    | with_reducible apply keep_ite (Q := Inv2 P)
    | with_reducible apply keep_foldl (Q := DrainInv P)
    | simp only [keep_mk hS]
    | simp only [Inv2.iff]
    | simp only [DrainInv.iff]
    | with_reducible apply DrainInv.st (P := P)

theorem State.drainEnd_keeps {P : State → Prop} (hP : Writes P) {d : State.Drain} {cd : Nat} {n : Nat} {c : Cmd} {f : ArrFields} (h : DrainInv P d) :
    P (State.drainEnd d cd n c f) := by
  have hS := hP.toStable
  unfold State.drainEnd
  repeat' first
    | with_reducible assumption
    | with_reducible apply State.setArray_keeps hS
    | with_reducible apply State.setFld_keeps hS
    | with_reducible apply State.incSat_keeps hS
    | with_reducible apply State.arrDone_keeps hS
    | with_reducible apply State.ctxError_keeps hP
    | with_reducible apply keep_ite (Q := P)
    | simp only [keep_mk hS]
    | with_reducible apply DrainInv.st (P := P)

theorem State.residentRows_keeps {P : State → Prop} (hP : Writes P) {s : State} {cd : Nat} {n : Nat} {r : Running} {rows : Nat} (h : P s) :
    DrainInv P (State.residentRows s cd n r rows) := by
  have hS := hP.toStable
  unfold State.residentRows
  repeat' first
    | with_reducible assumption
    | intro _
    | with_reducible apply State.drainRow_keeps hP
    | with_reducible apply keep_ite (Q := DrainInv P)
    | with_reducible apply keep_foldl (Q := DrainInv P)
    | simp only [keep_mk hS]
    | simp only [DrainInv.iff]
    | with_reducible apply DrainInv.st (P := P)

theorem State.drainResident_keeps {P : State → Prop} (hP : Writes P) {s : State} {cd : Nat} {n : Nat} {r : Running} (h : P s) :
    P (State.drainResident s cd n r) := by
  have hS := hP.toStable
  unfold State.drainResident
  repeat' first
    | with_reducible assumption
    | with_reducible apply State.drainEnd_keeps hP
    | with_reducible apply State.residentRows_keeps hP

theorem State.holdRows_keeps {P : State → Prop} (hP : Writes P) {s : State} {cd : Nat} {n : Nat} {r : Running} {rows : Nat} (h : P s) :
    DrainInv P (State.holdRows s cd n r rows) := by
  have hS := hP.toStable
  unfold State.holdRows
  repeat' first
    | with_reducible assumption
    | intro _
    | with_reducible apply State.drainRow_keeps hP
    | with_reducible apply keep_foldl (Q := DrainInv P)
    | simp only [keep_mk hS]
    | simp only [DrainInv.iff]
    | with_reducible apply DrainInv.st (P := P)

theorem State.drainHold_keeps {P : State → Prop} (hP : Writes P) {s : State} {cd : Nat} {n : Nat} {r : Running} (h : P s) :
    P (State.drainHold s cd n r) := by
  have hS := hP.toStable
  unfold State.drainHold
  repeat' first
    | with_reducible assumption
    | with_reducible apply State.drainEnd_keeps hP
    | with_reducible apply State.holdRows_keeps hP

theorem State.arrIssue_keeps {P : State → Prop} (hP : Writes P) {s : State} {cd : Nat} {n : Nat} {kind : Nat} {ready : ArrayUnit → ArrFields → Bool} {issue : State → Cmd → ArrFields → State} (h : P s) (hissue : ∀ (v0 : State) (v1 : Cmd) (v2 : ArrFields), P v0 → P (issue v0 v1 v2)) :
    P (State.arrIssue s cd n kind ready issue) := by
  have hS := hP.toStable
  unfold State.arrIssue
  repeat' first
    | with_reducible assumption
    | intro _
    | with_reducible apply State.reach_keeps hS
    | with_reducible apply State.arrRefuse_keeps hP
    | with_reducible apply State.tktClose_keeps hS
    | with_reducible apply State.setArray_keeps hS
    | with_reducible apply State.charge_keeps hS
    | with_reducible apply State.arrSettle_keeps hS
    | with_reducible apply State.tktHold_keeps hS
    | with_reducible apply hissue
    | with_reducible apply keep_ite (Q := P)
    | simp only [keep_mk hS]
    | with_reducible apply OptInv.none
    | with_reducible apply OptInv.some
    | split
    | dsimp only

theorem State.arrLongSum_keeps {P : State → Prop} (hS : Stable P) {s : State} {cd : Nat} {n : Nat} {f : ArrFields} (h : P s) :
    Inv2 P (State.arrLongSum s cd n f) := by
  unfold State.arrLongSum
  repeat' first
    | with_reducible assumption
    | with_reducible apply State.setRegion_keeps hS
    | with_reducible apply State.setFld_keeps hS
    | with_reducible apply keep_ite (Q := P)
    | with_reducible apply keep_ite (Q := Inv2 P)
    | simp only [keep_mk hS]
    | simp only [Inv2.iff]

theorem State.initRows_keeps {P : State → Prop} (hP : Writes P) {s : State} {cd n row0 rows : Nat} (h : P s) :
    Inv3 P (State.initRows s cd n row0 rows) := by
  unfold State.initRows
  refine keep_foldl (Q := Inv3 P) (Inv3.mk h) (fun r m hr => ?_)
  exact Inv3.mk (Inv3.get (State.acbRow_keeps hP hr.get))

theorem execResTile_keeps {P : State → Prop} (hP : Writes P) {cd : Fin 8} {arr : Fin 24} {s : State} (h : P s) :
    OutInv P (execResTile cd arr s) := by
  have hS := hP.toStable
  unfold execResTile
  repeat' first
    | with_reducible assumption
    | intro _
    | with_reducible apply State.gated_keeps hS
    | with_reducible apply State.arrIssue_keeps hP
    | with_reducible apply State.wgmRows_keeps hP
    | with_reducible apply State.arrLongSum_keeps hS
    | with_reducible apply State.initRows_keeps hP
    | with_reducible apply State.setFld_keeps hS
    | with_reducible apply State.setArray_keeps hS
    | with_reducible apply OutInv.next
    | with_reducible apply Inv3.get (P := P)
    | with_reducible apply Inv2.get (P := P)
    | with_reducible apply keep_ite (Q := P)
    | with_reducible apply keep_ite (Q := Inv3 P)
    | simp only [Inv3.iff]

theorem State.beginLoad_keeps {P : State → Prop} (hS : Stable P) {s : State} {cd : Nat} {n : Nat} {r : Running} (h : P s) :
    P (State.beginLoad s cd n r) := by
  unfold State.beginLoad
  repeat' first
    | with_reducible assumption
    | with_reducible apply State.setArray_keeps hS

theorem execHoldLoad_keeps {P : State → Prop} (hP : Writes P) {cd : Fin 8} {arr : Fin 24} {s : State} (h : P s) :
    OutInv P (execHoldLoad cd arr s) := by
  have hS := hP.toStable
  unfold execHoldLoad
  repeat' first
    | with_reducible assumption
    | intro _
    | with_reducible apply State.gated_keeps hS
    | with_reducible apply State.arrIssue_keeps hP
    | with_reducible apply State.setFld_keeps hS
    | with_reducible apply State.setArray_keeps hS
    | with_reducible apply State.beginLoad_keeps hS
    | with_reducible apply OutInv.next
    | with_reducible apply keep_ite (Q := P)

theorem State.seamSwap_keeps {P : State → Prop} (hS : Stable P) {s : State} {cd : Nat} {n : Nat} (h : P s) :
    P (State.seamSwap s cd n) := by
  unfold State.seamSwap
  repeat' first
    | with_reducible assumption
    | intro _
    | with_reducible apply State.setArray_keeps hS
    | with_reducible apply State.setFld_keeps hS
    | with_reducible apply State.beginLoad_keeps hS
    | with_reducible apply keep_ite (Q := P)
    | simp only [keep_mk hS]
    | with_reducible apply OptInv.none
    | with_reducible apply OptInv.some
    | split
    | dsimp only

theorem execHoldPass_keeps {P : State → Prop} (hP : Writes P) {cd : Fin 8} {arr : Fin 24} {s : State} (h : P s) :
    OutInv P (execHoldPass cd arr s) := by
  have hS := hP.toStable
  unfold execHoldPass
  repeat' first
    | with_reducible assumption
    | intro _
    | with_reducible apply State.gated_keeps hS
    | with_reducible apply State.arrIssue_keeps hP
    | with_reducible apply State.arrLongSum_keeps hS
    | with_reducible apply State.setArray_keeps hS
    | with_reducible apply State.seamSwap_keeps hS
    | with_reducible apply OutInv.next
    | with_reducible apply Inv2.get (P := P)
    | with_reducible apply keep_ite (Q := P)
    | with_reducible apply keep_ite (Q := Inv2 P)
    | with_reducible apply keep_ite (Q := OutInv P)
    | simp only [keep_mk hS]
    | simp only [Inv2.iff]
    | split
    | refine Inv2.of_eq (P := P) ?_ (by with_reducible assumption)
    | exact Inv2.unmk (P := P) (by with_reducible assumption)
    | dsimp only

theorem execArrayCommandComplete_keeps {P : State → Prop} (hP : Writes P) {cd : Fin 8} {arr : Fin 24} {load : Bool} {s : State} (h : P s) :
    OutInv P (execArrayCommandComplete cd arr load s) := by
  have hS := hP.toStable
  unfold execArrayCommandComplete
  repeat' first
    | with_reducible assumption
    | intro _
    | with_reducible apply State.gated_keeps hS
    | with_reducible apply State.setArray_keeps hS
    | with_reducible apply State.arrDone_keeps hS
    | with_reducible apply State.setFld_keeps hS
    | with_reducible apply State.arrSettle_keeps hS
    | with_reducible apply State.seamSwap_keeps hS
    | with_reducible apply State.drainResident_keeps hP
    | with_reducible apply State.drainHold_keeps hP
    | with_reducible apply OutInv.next
    | with_reducible apply keep_ite (Q := P)
    | with_reducible apply keep_ite (Q := OutInv P)
    | simp only [keep_mk hS]
    | with_reducible apply OptInv.none
    | with_reducible apply OptInv.some
    | split
    | dsimp only

theorem State.writeRgnBase_keeps {P : State → Prop} (hS : Stable P) {s : State} {cd : Nat} {n : Nat} {q : Nat} {v : Word64} {slot : Option Nat} (h : P s) :
    P (State.writeRgnBase s cd n q v slot) := by
  unfold State.writeRgnBase
  repeat' first
    | with_reducible assumption
    | with_reducible apply State.setFld_keeps hS
    | with_reducible apply State.setRegion_keeps hS

theorem State.writeWgm_keeps {P : State → Prop} (hS : Stable P) {s : State} {cd : Nat} {n : Nat} {q : Nat} {v : Word64} (h : P s) :
    P (State.writeWgm s cd n q v) := by
  unfold State.writeWgm
  repeat' first
    | with_reducible assumption
    | with_reducible apply State.setFld_keeps hS

theorem State.writeLsSeed_keeps {P : State → Prop} (hS : Stable P) {s : State} {cd : Nat} {n : Nat} {v : Word64} (h : P s) :
    P (State.writeLsSeed s cd n v) := by
  unfold State.writeLsSeed
  repeat' first
    | with_reducible assumption
    | with_reducible apply State.setFld_keeps hS
    | with_reducible apply State.setArray_keeps hS

theorem State.gateAcb_keeps {P : State → Prop} (hS : Stable P) {s : State} {cd : Nat} {n : Nat} (h : P s) :
    P (State.gateAcb s cd n) := by
  unfold State.gateAcb
  repeat' first
    | with_reducible assumption
    | intro _
    | with_reducible apply State.setArray_keeps hS
    | with_reducible apply keep_ite (Q := P)
    | simp only [keep_mk hS]
    | split
    | dsimp only

theorem State.writeArrCtl_keeps {P : State → Prop} (hS : Stable P) {s : State} {cd : Nat} {n : Nat} {v : Word64} (h : P s) :
    P (State.writeArrCtl s cd n v) := by
  unfold State.writeArrCtl
  repeat' first
    | with_reducible assumption
    | intro _
    | with_reducible apply State.setFld_keeps hS
    | with_reducible apply State.gateAcb_keeps hS
    | with_reducible apply keep_ite (Q := P)
    | simp only [keep_mk hS]
    | split
    | dsimp only

theorem State.bumpArrEpoch_keeps {P : State → Prop} (hS : Stable P) {s : State} {cd : Nat} {n : Nat} (h : P s) :
    P (State.bumpArrEpoch s cd n) := by
  unfold State.bumpArrEpoch
  repeat' first
    | with_reducible assumption
    | with_reducible apply State.setFld_keeps hS
    | with_reducible apply State.setArray_keeps hS
    | with_reducible apply keep_ite (Q := P)

theorem State.bumpAcbEpoch_keeps {P : State → Prop} (hS : Stable P) {s : State} {cd : Nat} {n : Nat} (h : P s) :
    P (State.bumpAcbEpoch s cd n) := by
  unfold State.bumpAcbEpoch
  repeat' first
    | with_reducible assumption
    | intro _
    | with_reducible apply State.setFld_keeps hS
    | with_reducible apply keep_ite (Q := P)
    | with_reducible apply keep_foldl (Q := P)

theorem execCsetEntryEffect_keeps {P : State → Prop} (hP : Writes P) {cd : Fin 8} {arr : Fin 24} {s : State} (h : P s) :
    OutInv P (execCsetEntryEffect cd arr s) := by
  have hS := hP.toStable
  unfold execCsetEntryEffect
  repeat' first
    | with_reducible assumption
    | intro _
    | with_reducible apply State.gated_keeps hS
    | with_reducible apply State.reach_keeps hS
    | with_reducible apply State.arrRefuse_keeps hP
    | with_reducible apply State.setArray_keeps hS
    | with_reducible apply State.writeArrCtl_keeps hS
    | with_reducible apply State.setFld_keeps hS
    | with_reducible apply State.writeLsSeed_keeps hS
    | with_reducible apply State.writeRgnBase_keeps hS
    | with_reducible apply State.writeWgm_keeps hS
    | with_reducible apply State.bumpCnt_keeps hS
    | with_reducible apply OutInv.next
    | with_reducible apply keep_ite (Q := P)
    | with_reducible apply keep_ite (Q := OutInv P)
    | simp only [keep_mk hS]
    | with_reducible apply OptInv.none
    | with_reducible apply OptInv.some
    | split
    | dsimp only

theorem State.regWrite_keeps {P : State → Prop} (hS : Stable P) {s : State} {die : Nat} {allowed : Bool} {f : State → Option State} (h : P s) (hf : ∀ (v0 : State), P v0 → OptInv P (f v0)) :
    P (State.regWrite s die allowed f) := by
  unfold State.regWrite
  repeat' first
    | with_reducible assumption
    | with_reducible apply hf
    | with_reducible apply keep_ite (Q := P)
    | simp only [keep_mk hS]
    | split
    | refine OptInv.get (Q := P) ?_ (by with_reducible assumption)

theorem execArrAcbRgnBaseWrite_keeps {P : State → Prop} (hS : Stable P) {acc : Accessor} {cd : Fin 8} {arr : Fin 24} {q : Fin 8} {v : Word64} {s : State} (h : P s) :
    OutInv P (execArrAcbRgnBaseWrite acc cd arr q v s) := by
  unfold execArrAcbRgnBaseWrite
  repeat' first
    | with_reducible assumption
    | intro _
    | with_reducible apply State.regWrite_keeps hS
    | with_reducible apply State.writeRgnBase_keeps hS
    | with_reducible apply OutInv.next
    | with_reducible apply OptInv.none
    | with_reducible apply OptInv.some
    | split

theorem execArrAcbRgnWgmWrite_keeps {P : State → Prop} (hS : Stable P) {acc : Accessor} {cd : Fin 8} {arr : Fin 24} {q : Fin 8} {v : Word64} {s : State} (h : P s) :
    OutInv P (execArrAcbRgnWgmWrite acc cd arr q v s) := by
  unfold execArrAcbRgnWgmWrite
  repeat' first
    | with_reducible assumption
    | intro _
    | with_reducible apply State.regWrite_keeps hS
    | with_reducible apply State.writeWgm_keeps hS
    | with_reducible apply OutInv.next
    | with_reducible apply OptInv.none
    | with_reducible apply OptInv.some
    | split

theorem execArrLsSeedWrite_keeps {P : State → Prop} (hS : Stable P) {acc : Accessor} {cd : Fin 8} {arr : Fin 24} {v : Word64} {s : State} (h : P s) :
    OutInv P (execArrLsSeedWrite acc cd arr v s) := by
  unfold execArrLsSeedWrite
  repeat' first
    | with_reducible assumption
    | intro _
    | with_reducible apply State.regWrite_keeps hS
    | with_reducible apply State.writeLsSeed_keeps hS
    | with_reducible apply OutInv.next
    | with_reducible apply OptInv.some

theorem execArrParkRequest_keeps {P : State → Prop} (hS : Stable P) {acc : Accessor} {cd : Fin 8} {arr : Fin 24} {v : Word64} {s : State} (h : P s) :
    OutInv P (execArrParkRequest acc cd arr v s) := by
  unfold execArrParkRequest
  repeat' first
    | with_reducible assumption
    | intro _
    | with_reducible apply State.regWrite_keeps hS
    | with_reducible apply State.writeArrCtl_keeps hS
    | with_reducible apply OutInv.next
    | with_reducible apply OptInv.some

theorem execArrayPark_keeps {P : State → Prop} (hS : Stable P) {cd : Fin 8} {arr : Fin 24} {s : State} (h : P s) :
    OutInv P (execArrayPark cd arr s) := by
  unfold execArrayPark
  repeat' first
    | with_reducible assumption
    | intro _
    | with_reducible apply State.gated_keeps hS
    | with_reducible apply State.setFld_keeps hS
    | with_reducible apply State.setArray_keeps hS
    | with_reducible apply State.gateAcb_keeps hS
    | with_reducible apply OutInv.next
    | with_reducible apply keep_ite (Q := P)
    | with_reducible apply keep_ite (Q := OutInv P)
    | simp only [keep_mk hS]
    | split
    | dsimp only

theorem execArrayWakeComplete_keeps {P : State → Prop} (hS : Stable P) {cd : Fin 8} {arr : Fin 24} {s : State} (h : P s) :
    OutInv P (execArrayWakeComplete cd arr s) := by
  unfold execArrayWakeComplete
  repeat' first
    | with_reducible assumption
    | with_reducible apply State.gated_keeps hS
    | with_reducible apply State.setArray_keeps hS
    | with_reducible apply State.bumpArrEpoch_keeps hS
    | with_reducible apply State.bumpAcbEpoch_keeps hS
    | with_reducible apply State.setFld_keeps hS
    | with_reducible apply OutInv.next
    | with_reducible apply keep_ite (Q := P)

theorem State.clearArrFault_keeps {P : State → Prop} (hS : Stable P) {s : State} {cd : Nat} {n : Nat} {v : Nat} (h : P s) :
    P (State.clearArrFault s cd n v) := by
  unfold State.clearArrFault
  repeat' first
    | with_reducible assumption
    | with_reducible apply State.setFld_keeps hS
    | with_reducible apply State.arrLeaveFault_keeps hS
    | with_reducible apply keep_ite (Q := P)

theorem execArrFaultClear_keeps {P : State → Prop} (hS : Stable P) {acc : Accessor} {cd : Fin 8} {arr : Fin 24} {v : Word64} {s : State} (h : P s) :
    OutInv P (execArrFaultClear acc cd arr v s) := by
  unfold execArrFaultClear
  repeat' first
    | with_reducible assumption
    | intro _
    | with_reducible apply State.regWrite_keeps hS
    | with_reducible apply State.clearArrFault_keeps hS
    | with_reducible apply OutInv.next
    | with_reducible apply OptInv.some

end Sys2Proof.Machine
end

