-- ==== Sys2Proof/Laws/KeepsCarousel.lean ====
section
/-! SUPPORT. What the operations of Machine/Carousel.lean keep (Laws/Keeps.lean). -/

namespace Sys2Proof.Machine

theorem State.tkRegister_keeps {P : State → Prop} (hS : Stable P) {s : State} {cd : Nat} {tk : Nat} {slot : Nat} {r : Nat} (h : P s) :
    P (State.tkRegister s cd tk slot r) := by
  unfold State.tkRegister
  repeat' first
    | with_reducible assumption
    | with_reducible apply State.setUses_keeps hS
    | simp only [keep_mk hS]
    | split

theorem State.tkDeclare_keeps {P : State → Prop} (hS : Stable P) {s : State} {cd : Nat} {tk : Nat} {slot : Nat} {station : Nat} {ring : Nat} {subs : Nat} {src : TileSrc} (h : P s) :
    Inv2 P (State.tkDeclare s cd tk slot station ring subs src) := by
  unfold State.tkDeclare
  repeat' first
    | with_reducible assumption
    | with_reducible apply State.setUses_keeps hS
    | simp only [keep_mk hS]
    | simp only [Inv2.iff]
    | split

theorem State.mapUse_keeps {P : State → Prop} (hS : Stable P) {s : State} {cd : Nat} {tk : Nat} {id : Nat} {g : Use → Use} (h : P s) :
    P (State.mapUse s cd tk id g) := by
  unfold State.mapUse
  repeat' first
    | with_reducible assumption
    | with_reducible apply State.setUses_keeps hS

theorem State.feedRefuse_keeps {P : State → Prop} (hP : Writes P) {s : State} {cd : Nat} {bob : Nat} {c : Cmd} {group : Bool} (h : P s) :
    P (State.feedRefuse s cd bob c group) := by
  have hS := hP.toStable
  unfold State.feedRefuse
  repeat' first
    | with_reducible assumption
    | intro _
    | with_reducible apply State.setFld_keeps hS
    | with_reducible apply State.setHeldBy_keeps hS
    | with_reducible apply State.setBobbin_keeps hS
    | with_reducible apply State.bumpCnt_keeps hS
    | with_reducible apply State.ctxError_keeps hP
    | with_reducible apply keep_foldl (Q := P)

theorem State.feedTake_keeps {P : State → Prop} (hP : Writes P) {s : State} {cd : Nat} {bob : Nat} {kind : Nat} (h : P s) :
    P (State.feedTake s cd bob kind) := by
  have hS := hP.toStable
  unfold State.feedTake
  repeat' first
    | with_reducible assumption
    | intro _
    | with_reducible apply State.reach_keeps hS
    | with_reducible apply State.feedRefuse_keeps hP
    | with_reducible apply State.setFld_keeps hS
    | with_reducible apply State.setBobbin_keeps hS
    | with_reducible apply State.tkRegister_keeps hS
    | with_reducible apply keep_ite (Q := P)
    | simp only [keep_mk hS]
    | with_reducible apply OptInv.none
    | with_reducible apply OptInv.some
    | split
    | dsimp only

theorem execFeedSub_keeps {P : State → Prop} (hP : Writes P) {cd : Fin 8} {arr : Fin 24} {b : Fin 2} {s : State} (h : P s) :
    OutInv P (execFeedSub cd arr b s) := by
  have hS := hP.toStable
  unfold execFeedSub
  repeat' first
    | with_reducible assumption
    | with_reducible apply State.gated_keeps hS
    | with_reducible apply State.feedTake_keeps hP
    | with_reducible apply OutInv.next

theorem execFeedPriv_keeps {P : State → Prop} (hP : Writes P) {cd : Fin 8} {arr : Fin 24} {b : Fin 2} {s : State} (h : P s) :
    OutInv P (execFeedPriv cd arr b s) := by
  have hS := hP.toStable
  unfold execFeedPriv
  repeat' first
    | with_reducible assumption
    | with_reducible apply State.gated_keeps hS
    | with_reducible apply State.feedTake_keeps hP
    | with_reducible apply OutInv.next

theorem State.stationRefuse_keeps {P : State → Prop} (hP : Writes P) {s : State} {cd : Nat} {g : Nat} {c : Cmd} {ringOff : Bool} (h : P s) :
    P (State.stationRefuse s cd g c ringOff) := by
  have hS := hP.toStable
  unfold State.stationRefuse
  repeat' first
    | with_reducible assumption
    | intro _
    | with_reducible apply State.setFld_keeps hS
    | with_reducible apply State.setHeldBy_keeps hS
    | with_reducible apply State.setStation_keeps hS
    | with_reducible apply State.bumpCnt_keeps hS
    | with_reducible apply State.ctxError_keeps hP
    | with_reducible apply keep_foldl (Q := P)

theorem State.captureOwn_keeps {P : State → Prop} (hS : Stable P) {s : State} {cd : Nat} {g : Nat} (h : P s) :
    P (State.captureOwn s cd g) := by
  unfold State.captureOwn
  repeat' first
    | with_reducible assumption
    | intro _
    | with_reducible apply State.reach_keeps hS
    | with_reducible apply State.tkRegister_keeps hS
    | with_reducible apply State.setStation_keeps hS
    | with_reducible apply keep_ite (Q := P)
    | simp only [keep_mk hS]
    | with_reducible apply OptInv.none
    | with_reducible apply OptInv.some
    | split
    | dsimp only

theorem State.stationTake_keeps {P : State → Prop} (hP : Writes P) {s : State} {cd : Nat} {g : Nat} {kind : Nat} (h : P s) :
    P (State.stationTake s cd g kind) := by
  have hS := hP.toStable
  unfold State.stationTake
  repeat' first
    | with_reducible assumption
    | intro _
    | with_reducible apply State.captureOwn_keeps hS
    | with_reducible apply State.reach_keeps hS
    | with_reducible apply State.stationRefuse_keeps hP
    | with_reducible apply State.setStation_keeps hS
    | with_reducible apply State.tkRegister_keeps hS
    | with_reducible apply keep_ite (Q := P)
    | simp only [keep_mk hS]
    | with_reducible apply OptInv.none
    | with_reducible apply OptInv.some
    | split
    | dsimp only

theorem execInject_keeps {P : State → Prop} (hP : Writes P) {cd : Fin 8} {g : Fin 4} {s : State} (h : P s) :
    OutInv P (execInject cd g s) := by
  have hS := hP.toStable
  unfold execInject
  repeat' first
    | with_reducible assumption
    | with_reducible apply State.gated_keeps hS
    | with_reducible apply State.stationTake_keeps hP
    | with_reducible apply OutInv.next

theorem execCapture_keeps {P : State → Prop} (hP : Writes P) {cd : Fin 8} {g : Fin 4} {s : State} (h : P s) :
    OutInv P (execCapture cd g s) := by
  have hS := hP.toStable
  unfold execCapture
  repeat' first
    | with_reducible assumption
    | with_reducible apply State.gated_keeps hS
    | with_reducible apply State.stationTake_keeps hP
    | with_reducible apply OutInv.next

theorem execTileDeclare_keeps {P : State → Prop} (hP : Writes P) {cd : Fin 8} {st : Fin 32} {s : State} (h : P s) :
    OutInv P (execTileDeclare cd st s) := by
  have hS := hP.toStable
  unfold execTileDeclare
  repeat' first
    | with_reducible assumption
    | intro _
    | with_reducible apply State.gated_keeps hS
    | with_reducible apply State.tkDeclare_keeps hS
    | with_reducible apply State.setStation_keeps hS
    | with_reducible apply State.setFld_keeps hS
    | with_reducible apply State.setHeldBy_keeps hS
    | with_reducible apply State.ctxError_keeps hP
    | with_reducible apply State.setGateway_keeps hS
    | with_reducible apply OutInv.next
    | with_reducible apply Inv2.get (P := P)
    | with_reducible apply keep_ite (Q := P)
    | with_reducible apply keep_ite (Q := Inv2 P)
    | with_reducible apply keep_ite (Q := OutInv P)
    | simp only [keep_mk hS]
    | simp only [Inv2.iff]
    | with_reducible apply OptInv.none
    | with_reducible apply OptInv.some
    | split
    | refine Inv2.of_eq (P := P) ?_ (by with_reducible assumption)
    | exact Inv2.unmk (P := P) (by with_reducible assumption)
    | dsimp only

theorem execTileArm_keeps {P : State → Prop} (hS : Stable P) {cd : Fin 8} {tk : Fin 64} {s : State} (h : P s) :
    OutInv P (execTileArm cd tk s) := by
  unfold execTileArm
  repeat' first
    | with_reducible assumption
    | with_reducible apply State.gated_keeps hS
    | with_reducible apply State.mapUse_keeps hS
    | with_reducible apply OutInv.next
    | with_reducible apply keep_ite (Q := P)
    | split

theorem State.tileWord_keeps {P : State → Prop} (hP : Writes P) {s : State} {cd : Nat} {slot : Nat} {off : Nat} (h : P s) :
    Inv3 P (State.tileWord s cd slot off) := by
  have hS := hP.toStable
  unfold State.tileWord
  repeat' first
    | with_reducible assumption
    | with_reducible apply State.readFor_keeps hP
    | simp only [keep_mk hS]
    | simp only [Inv3.iff]
    | split
    | refine Inv2.of_eq (P := P) ?_ (by with_reducible assumption)

theorem State.flitFromSram_keeps {P : State → Prop} (hP : Writes P) {s : State} {cd : Nat} {slot : Nat} {off : Nat} (h : P s) :
    Inv3 P (State.flitFromSram s cd slot off) := by
  have hS := hP.toStable
  unfold State.flitFromSram
  repeat' first
    | with_reducible assumption
    | intro _
    | with_reducible apply State.tileWord_keeps hP
    | with_reducible apply Inv3.get (P := P)
    | with_reducible apply keep_foldl (Q := Inv3 P)
    | simp only [keep_mk hS]
    | simp only [Inv3.iff]

theorem State.verifyFlitWord_keeps {P : State → Prop} (hS : Stable P) {x : Flit × State} {cd : Nat} {st : Nat} {w : Nat} (h : Inv2 P x) :
    Inv2 P (State.verifyFlitWord x cd st w) := by
  unfold State.verifyFlitWord
  repeat' first
    | with_reducible assumption
    | intro _
    | with_reducible apply State.incFld_keeps hS
    | with_reducible apply State.setFld_keeps hS
    | with_reducible apply Inv2.get (P := P)
    | with_reducible apply keep_ite (Q := P)
    | with_reducible apply keep_ite (Q := Inv2 P)
    | simp only [keep_mk hS]
    | simp only [Inv2.iff]
    | split
    | refine Inv2.of_eq (P := P) ?_ (by with_reducible assumption)
    | exact Inv2.unmk (P := P) (by with_reducible assumption)
    | dsimp only

theorem State.verifyFlit_keeps {P : State → Prop} (hS : Stable P) {s : State} {cd : Nat} {st : Nat} {fl : Flit} (h : P s) :
    Inv2 P (State.verifyFlit s cd st fl) := by
  unfold State.verifyFlit
  repeat' first
    | with_reducible assumption
    | intro _
    | with_reducible apply State.verifyFlitWord_keeps hS
    | with_reducible apply Inv2.get (P := P)
    | with_reducible apply keep_ite (Q := P)
    | with_reducible apply keep_ite (Q := Inv2 P)
    | with_reducible apply keep_foldl (Q := P)
    | with_reducible apply keep_foldl (Q := Inv2 P)
    | simp only [keep_mk hS]
    | simp only [Inv2.iff]
    | split
    | refine Inv2.of_eq (P := P) ?_ (by with_reducible assumption)
    | exact Inv2.unmk (P := P) (by with_reducible assumption)
    | dsimp only

theorem State.captureFlit_keeps {P : State → Prop} (hP : Writes P) {s : State} {cd : Nat} {c : Cmd} {fl : Flit} (h : P s) :
    P (State.captureFlit s cd c fl) := by
  have hS := hP.toStable
  unfold State.captureFlit
  repeat' first
    | with_reducible assumption
    | intro _
    | with_reducible apply State.writeWord_keeps hP
    | with_reducible apply keep_ite (Q := P)
    | with_reducible apply keep_foldl (Q := P)
    | simp only [keep_mk hS]
    | split
    | dsimp only

theorem State.copyFlit_keeps {P : State → Prop} (hP : Writes P) {s : State} {cd : Nat} {u : Use} {fl : Flit} {r : Nat} (h : P s) :
    P (State.copyFlit s cd u fl r) := by
  have hS := hP.toStable
  unfold State.copyFlit
  repeat' first
    | with_reducible assumption
    | intro _
    | with_reducible apply State.crossEntries_keeps hS
    | with_reducible apply State.incFld_keeps hS
    | with_reducible apply State.setFld_keeps hS
    | with_reducible apply State.captureFlit_keeps hP
    | with_reducible apply State.bumpCnt_keeps hS
    | with_reducible apply State.setStation_keeps hS
    | with_reducible apply keep_ite (Q := P)
    | simp only [keep_mk hS]
    | with_reducible apply OptInv.none
    | with_reducible apply OptInv.some
    | split
    | dsimp only

theorem State.copyAt_keeps {P : State → Prop} (hP : Writes P) {s : State} {cd : Nat} {u : Use} {fl : Flit} {st : Nat} (h : P s) :
    P (State.copyAt s cd u fl st) := by
  have hS := hP.toStable
  unfold State.copyAt
  repeat' first
    | with_reducible assumption
    | intro _
    | with_reducible apply State.copyFlit_keeps hP
    | with_reducible apply keep_foldl (Q := P)

theorem State.takeFlit_keeps {P : State → Prop} (hP : Writes P) {s : State} {cd : Nat} {st : Nat} {tk : Nat} {u : Use} (h : P s) :
    Inv2 P (State.takeFlit s cd st tk u) := by
  have hS := hP.toStable
  unfold State.takeFlit
  repeat' first
    | with_reducible assumption
    | intro _
    | with_reducible apply State.flitFromSram_keeps hP
    | with_reducible apply State.verifyFlit_keeps hS
    | with_reducible apply Inv3.get (P := P)
    | with_reducible apply Inv2.get (P := P)
    | with_reducible apply keep_ite (Q := P)
    | with_reducible apply keep_ite (Q := Inv2 P)
    | with_reducible apply keep_ite (Q := Inv3 P)
    | simp only [keep_mk hS]
    | simp only [Inv2.iff]
    | simp only [Inv3.iff]
    | simp only [Inv3.iff2]
    | with_reducible apply Inv2.snd
    | with_reducible apply OptInv.none
    | with_reducible apply OptInv.some
    | split
    | refine Inv3.of_eq (P := P) ?_ (by with_reducible assumption)
    | exact Inv3.unmk (P := P) (by with_reducible assumption)
    | refine Inv2.of_eq (P := P) ?_ (by with_reducible assumption)
    | exact Inv2.unmk (P := P) (by with_reducible assumption)
    | dsimp only

theorem State.sentLast_keeps {P : State → Prop} (hS : Stable P) {s : State} {cd : Nat} {st : Nat} {u : Use} (h : P s) :
    P (State.sentLast s cd st u) := by
  unfold State.sentLast
  repeat' first
    | with_reducible assumption
    | with_reducible apply State.bumpCnt_keeps hS
    | with_reducible apply State.setStation_keeps hS
    | with_reducible apply State.setGateway_keeps hS
    | simp only [keep_mk hS]
    | split

theorem execFlitInject_keeps {P : State → Prop} (hP : Writes P) {cd : Fin 8} {st : Fin 32} {s : State} (h : P s) :
    OutInv P (execFlitInject cd st s) := by
  have hS := hP.toStable
  unfold execFlitInject
  repeat' first
    | with_reducible assumption
    | intro _
    | with_reducible apply State.gated_keeps hS
    | with_reducible apply State.takeFlit_keeps hP
    | with_reducible apply State.setRingSlot_keeps hS
    | with_reducible apply State.poolMoves_keeps hS
    | with_reducible apply State.incFld_keeps hS
    | with_reducible apply State.mapUse_keeps hS
    | with_reducible apply State.copyAt_keeps hP
    | with_reducible apply State.sentLast_keeps hS
    | with_reducible apply OutInv.next
    | with_reducible apply Inv2.get (P := P)
    | with_reducible apply keep_ite (Q := P)
    | with_reducible apply keep_ite (Q := Inv2 P)
    | with_reducible apply keep_ite (Q := OutInv P)
    | simp only [keep_mk hS]
    | simp only [Inv2.iff]
    | with_reducible apply OptInv.none
    | with_reducible apply OptInv.some
    | split
    | refine Inv2.of_eq (P := P) ?_ (by with_reducible assumption)
    | exact Inv2.unmk (P := P) (by with_reducible assumption)
    | dsimp only

theorem execSlotReserve_keeps {P : State → Prop} (hS : Stable P) {cd : Fin 8} {st : Fin 32} {s : State} (h : P s) :
    OutInv P (execSlotReserve cd st s) := by
  unfold execSlotReserve
  repeat' first
    | with_reducible assumption
    | with_reducible apply State.gated_keeps hS
    | with_reducible apply State.incFld_keeps hS
    | with_reducible apply State.setRingSlot_keeps hS
    | with_reducible apply OutInv.next
    | with_reducible apply keep_ite (Q := P)
    | simp only [keep_mk hS]
    | split

theorem execTileRideEnd_keeps {P : State → Prop} (hS : Stable P) {cd : Fin 8} {tk : Fin 64} {s : State} (h : P s) :
    OutInv P (execTileRideEnd cd tk s) := by
  unfold execTileRideEnd
  repeat' first
    | with_reducible assumption
    | with_reducible apply State.gated_keeps hS
    | with_reducible apply State.setUses_keeps hS
    | with_reducible apply OutInv.next
    | with_reducible apply keep_ite (Q := P)
    | split

theorem execArmStall_keeps {P : State → Prop} (hS : Stable P) {cd : Fin 8} {tk : Fin 64} {s : State} (h : P s) :
    OutInv P (execArmStall cd tk s) := by
  unfold execArmStall
  repeat' first
    | with_reducible assumption
    | with_reducible apply State.setFld_keeps hS
    | with_reducible apply State.mapUse_keeps hS
    | with_reducible apply State.raise_keeps hS
    | with_reducible apply OutInv.next
    | with_reducible apply keep_ite (Q := P)
    | simp only [keep_mk hS]
    | split

theorem State.privateWords_keeps {P : State → Prop} (hP : Writes P) {s : State} {cd : Nat} {base : Nat} {c : Cmd} (h : P s) :
    InvL P (State.privateWords s cd base c) := by
  have hS := hP.toStable
  unfold State.privateWords
  repeat' first
    | with_reducible assumption
    | intro _
    | with_reducible apply State.tileWord_keeps hP
    | with_reducible apply Inv3.get (P := P)
    | with_reducible apply InvL.get (P := P)
    | with_reducible apply keep_ite (Q := P)
    | with_reducible apply keep_ite (Q := Inv3 P)
    | with_reducible apply keep_ite (Q := InvL P)
    | with_reducible apply keep_foldl (Q := P)
    | with_reducible apply keep_foldl (Q := Inv3 P)
    | with_reducible apply keep_foldl (Q := InvL P)
    | simp only [keep_mk hS]
    | simp only [InvL.iff]
    | simp only [Inv3.iff]
    | simp only [Inv3.iff2]
    | with_reducible apply Inv2.snd
    | split
    | refine Inv3.of_eq (P := P) ?_ (by with_reducible assumption)
    | exact Inv3.unmk (P := P) (by with_reducible assumption)
    | refine InvL.of_eq (P := P) ?_ (by with_reducible assumption)
    | exact InvL.unmk (P := P) (by with_reducible assumption)
    | dsimp only

theorem State.freshTile_keeps {P : State → Prop} (hS : Stable P) {s : State} {base : Nat} (h : P s) :
    P (State.freshTile s base) := by
  unfold State.freshTile
  repeat' first
    | with_reducible assumption
    | intro _
    | with_reducible apply keep_ite (Q := P)
    | simp only [keep_mk hS]
    | split
    | dsimp only

theorem State.fillPrivate_keeps {P : State → Prop} (hP : Writes P) {s : State} {cd : Nat} {bob : Nat} {k : Nat} {c : Cmd} (h : P s) :
    P (State.fillPrivate s cd bob k c) := by
  have hS := hP.toStable
  unfold State.fillPrivate
  repeat' first
    | with_reducible assumption
    | intro _
    | with_reducible apply State.privateWords_keeps hP
    | with_reducible apply State.freshTile_keeps hS
    | with_reducible apply State.crossEntries_keeps hS
    | with_reducible apply State.incFld_keeps hS
    | with_reducible apply State.setFld_keeps hS
    | with_reducible apply InvL.get (P := P)
    | with_reducible apply keep_ite (Q := P)
    | with_reducible apply keep_ite (Q := InvL P)
    | simp only [keep_mk hS]
    | simp only [InvL.iff]
    | split
    | refine InvL.of_eq (P := P) ?_ (by with_reducible assumption)
    | exact InvL.unmk (P := P) (by with_reducible assumption)
    | dsimp only

theorem State.verifyTileWord_keeps {P : State → Prop} (hS : Stable P) {s : State} {cd : Nat} {bob : Nat} {k : Nat} {w : Nat} (h : P s) :
    P (State.verifyTileWord s cd bob k w) := by
  unfold State.verifyTileWord
  repeat' first
    | with_reducible assumption
    | intro _
    | with_reducible apply State.incFld_keeps hS
    | with_reducible apply State.setFld_keeps hS
    | with_reducible apply keep_ite (Q := P)
    | simp only [keep_mk hS]
    | split
    | dsimp only

theorem State.verifyTile_keeps {P : State → Prop} (hS : Stable P) {s : State} {cd : Nat} {bob : Nat} {bytes : Nat} {k : Nat} (h : P s) :
    P (State.verifyTile s cd bob bytes k) := by
  unfold State.verifyTile
  repeat' first
    | with_reducible assumption
    | intro _
    | with_reducible apply State.verifyTileWord_keeps hS
    | with_reducible apply keep_ite (Q := P)
    | with_reducible apply keep_foldl (Q := P)
    | simp only [keep_mk hS]
    | split
    | dsimp only

theorem State.dropSlot_keeps {P : State → Prop} (hS : Stable P) {s : State} {cd : Nat} {bob : Nat} {k : Nat} (h : P s) :
    P (State.dropSlot s cd bob k) := by
  unfold State.dropSlot
  repeat' first
    | with_reducible assumption
    | with_reducible apply State.resetFields_keeps hS
    | with_reducible apply State.setBobbin_keeps hS
    | simp only [keep_mk hS]

theorem State.endPass_keeps {P : State → Prop} (hS : Stable P) {s : State} {cd : Nat} {bob : Nat} {k : Nat} (h : P s) :
    P (State.endPass s cd bob k) := by
  unfold State.endPass
  repeat' first
    | with_reducible assumption
    | with_reducible apply State.setFld_keeps hS
    | with_reducible apply State.dropSlot_keeps hS
    | with_reducible apply keep_ite (Q := P)

theorem State.passOver_keeps {P : State → Prop} (hS : Stable P) {s : State} {cd : Nat} {bob : Nat} {k : Nat} (h : P s) :
    P (State.passOver s cd bob k) := by
  unfold State.passOver
  repeat' first
    | with_reducible assumption
    | intro _
    | with_reducible apply State.endPass_keeps hS
    | with_reducible apply keep_ite (Q := P)
    | simp only [keep_mk hS]
    | split
    | dsimp only

theorem State.passSettle_keeps {P : State → Prop} (hS : Stable P) {s : State} {cd : Nat} {bob : Nat} {k : Nat} (h : P s) :
    P (State.passSettle s cd bob k) := by
  unfold State.passSettle
  repeat' first
    | with_reducible assumption
    | intro _
    | with_reducible apply State.endPass_keeps hS
    | with_reducible apply keep_ite (Q := P)
    | simp only [keep_mk hS]
    | split
    | dsimp only

theorem execBobbinSlotReady_keeps {P : State → Prop} (hP : Writes P) {cd : Fin 8} {arr : Fin 24} {b : Fin 2} {k : Fin 4} {s : State} (h : P s) :
    OutInv P (execBobbinSlotReady cd arr b k s) := by
  have hS := hP.toStable
  unfold execBobbinSlotReady
  repeat' first
    | with_reducible assumption
    | intro _
    | with_reducible apply State.gated_keeps hS
    | with_reducible apply State.fillPrivate_keeps hP
    | with_reducible apply State.passSettle_keeps hS
    | with_reducible apply State.bumpCnt_keeps hS
    | with_reducible apply State.setFld_keeps hS
    | with_reducible apply OutInv.next
    | with_reducible apply keep_ite (Q := P)
    | with_reducible apply keep_ite (Q := OutInv P)
    | simp only [keep_mk hS]
    | with_reducible apply OptInv.none
    | with_reducible apply OptInv.some
    | split
    | dsimp only

theorem State.refuseRunning_keeps {P : State → Prop} (hP : Writes P) {s : State} {cd : Nat} {n : Nat} {isLoad : Bool} {r : Running} (h : P s) :
    P (State.refuseRunning s cd n isLoad r) := by
  have hS := hP.toStable
  unfold State.refuseRunning
  repeat' first
    | with_reducible assumption
    | intro _
    | with_reducible apply State.setArray_keeps hS
    | with_reducible apply State.arrRefuse_keeps hP
    | with_reducible apply keep_ite (Q := P)
    | simp only [keep_mk hS]
    | with_reducible apply OptInv.none
    | with_reducible apply OptInv.some
    | split
    | dsimp only

theorem execBobbinPassEnd_keeps {P : State → Prop} (hP : Writes P) {cd : Fin 8} {arr : Fin 24} {b : Fin 2} {s : State} (h : P s) :
    OutInv P (execBobbinPassEnd cd arr b s) := by
  have hS := hP.toStable
  unfold execBobbinPassEnd
  repeat' first
    | with_reducible assumption
    | intro _
    | with_reducible apply State.gated_keeps hS
    | with_reducible apply State.refuseRunning_keeps hP
    | with_reducible apply State.verifyTile_keeps hS
    | with_reducible apply State.setArray_keeps hS
    | with_reducible apply State.setFld_keeps hS
    | with_reducible apply State.incFld_keeps hS
    | with_reducible apply State.passOver_keeps hS
    | with_reducible apply OutInv.next
    | with_reducible apply keep_ite (Q := P)
    | with_reducible apply keep_ite (Q := OutInv P)
    | with_reducible apply keep_foldl (Q := P)
    | with_reducible apply keep_foldl (Q := OutInv P)
    | simp only [keep_mk hS]
    | with_reducible apply OptInv.none
    | with_reducible apply OptInv.some
    | split
    | dsimp only

theorem State.clearFdrFault_keeps {P : State → Prop} (hS : Stable P) {s : State} {cd : Nat} {bob : Nat} {v : Nat} (h : P s) :
    P (State.clearFdrFault s cd bob v) := by
  unfold State.clearFdrFault
  repeat' first
    | with_reducible assumption
    | with_reducible apply State.setFld_keeps hS
    | with_reducible apply keep_ite (Q := P)

theorem State.carRelease_keeps {P : State → Prop} (hS : Stable P) {s : State} {cd : Nat} (h : P s) :
    P (State.carRelease s cd) := by
  unfold State.carRelease
  repeat' first
    | with_reducible assumption
    | intro _
    | with_reducible apply State.setStation_keeps hS
    | with_reducible apply keep_ite (Q := P)
    | with_reducible apply keep_foldl (Q := P)

theorem State.clearCarFault_keeps {P : State → Prop} (hS : Stable P) {s : State} {cd : Nat} {v : Nat} (h : P s) :
    P (State.clearCarFault s cd v) := by
  unfold State.clearCarFault
  repeat' first
    | with_reducible assumption
    | with_reducible apply State.setFld_keeps hS
    | with_reducible apply State.carRelease_keeps hS
    | with_reducible apply keep_ite (Q := P)

theorem State.stationEnqueue_keeps {P : State → Prop} (hS : Stable P) {s : State} {cd : Nat} {g : Nat} {c : Cmd} (h : P s) :
    P (State.stationEnqueue s cd g c) := by
  unfold State.stationEnqueue
  repeat' first
    | with_reducible assumption
    | with_reducible apply State.bumpCnt_keeps hS
    | with_reducible apply State.setStation_keeps hS
    | with_reducible apply keep_ite (Q := P)

theorem execFdrFaultClear_keeps {P : State → Prop} (hS : Stable P) {acc : Accessor} {cd : Fin 8} {arr : Fin 24} {b : Fin 2} {v : Word64} {s : State} (h : P s) :
    OutInv P (execFdrFaultClear acc cd arr b v s) := by
  unfold execFdrFaultClear
  repeat' first
    | with_reducible assumption
    | intro _
    | with_reducible apply State.regWrite_keeps hS
    | with_reducible apply State.clearFdrFault_keeps hS
    | with_reducible apply OutInv.next
    | with_reducible apply OptInv.some

theorem execCarFaultClear_keeps {P : State → Prop} (hS : Stable P) {acc : Accessor} {cd : Fin 8} {v : Word64} {s : State} (h : P s) :
    OutInv P (execCarFaultClear acc cd v s) := by
  unfold execCarFaultClear
  repeat' first
    | with_reducible assumption
    | intro _
    | with_reducible apply State.regWrite_keeps hS
    | with_reducible apply State.clearCarFault_keeps hS
    | with_reducible apply OutInv.next
    | with_reducible apply OptInv.some

theorem State.verifyRings_keeps {P : State → Prop} (hS : Stable P) {s : State} {cd : Nat} (h : P s) :
    P (State.verifyRings s cd) := by
  unfold State.verifyRings
  repeat' first
    | with_reducible assumption
    | intro _
    | with_reducible apply State.verifyFlit_keeps hS
    | with_reducible apply State.setRingSlot_keeps hS
    | with_reducible apply Inv2.get (P := P)
    | with_reducible apply keep_ite (Q := P)
    | with_reducible apply keep_ite (Q := Inv2 P)
    | with_reducible apply keep_foldl (Q := P)
    | with_reducible apply keep_foldl (Q := Inv2 P)
    | simp only [keep_mk hS]
    | simp only [Inv2.iff]
    | with_reducible apply OptInv.none
    | with_reducible apply OptInv.some
    | split
    | refine Inv2.of_eq (P := P) ?_ (by with_reducible assumption)
    | exact Inv2.unmk (P := P) (by with_reducible assumption)
    | dsimp only

theorem State.dropFlits_keeps {P : State → Prop} (hS : Stable P) {s : State} {cd : Nat} (h : P s) :
    P (State.dropFlits s cd) := by
  unfold State.dropFlits
  repeat' first
    | with_reducible assumption
    | intro _
    | with_reducible apply State.setRingSlot_keeps hS
    | with_reducible apply keep_ite (Q := P)
    | with_reducible apply keep_foldl (Q := P)
    | simp only [keep_mk hS]
    | split

theorem State.copyAll_keeps {P : State → Prop} (hP : Writes P) {s : State} {cd : Nat} (h : P s) :
    P (State.copyAll s cd) := by
  have hS := hP.toStable
  unfold State.copyAll
  repeat' first
    | with_reducible assumption
    | intro _
    | with_reducible apply State.copyAt_keeps hP
    | with_reducible apply keep_foldl (Q := P)
    | simp only [keep_mk hS]
    | split

theorem State.carCounters_keeps {P : State → Prop} (hS : Stable P) {s : State} {cd : Nat} (h : P s) :
    P (State.carCounters s cd) := by
  unfold State.carCounters
  repeat' first
    | with_reducible assumption
    | intro _
    | with_reducible apply State.incFld_keeps hS
    | with_reducible apply keep_ite (Q := P)
    | with_reducible apply keep_foldl (Q := P)

theorem State.carMove_keeps {P : State → Prop} (hP : Writes P) {s : State} {cd : Nat} (h : P s) :
    P (State.carMove s cd) := by
  have hS := hP.toStable
  unfold State.carMove
  repeat' first
    | with_reducible assumption
    | intro _
    | with_reducible apply State.dropFlits_keeps hS
    | with_reducible apply State.carCounters_keeps hS
    | with_reducible apply State.copyAll_keeps hP
    | with_reducible apply State.verifyRings_keeps hS
    | with_reducible apply keep_ite (Q := P)
    | simp only [keep_mk hS]
    | split
    | dsimp only

theorem State.carTick_keeps {P : State → Prop} (hP : Writes P) {s : State} {cd : Nat} (h : P s) :
    P (State.carTick s cd) := by
  have hS := hP.toStable
  unfold State.carTick
  repeat' first
    | with_reducible assumption
    | intro _
    | with_reducible apply State.carMove_keeps hP
    | with_reducible apply keep_ite (Q := P)
    | with_reducible apply keep_foldl (Q := P)
    | simp only [keep_mk hS]
    | split
    | dsimp only

end Sys2Proof.Machine
end

