-- ==== Sys2Proof/Laws/KeepsTranslate.lean ====
section
/-! SUPPORT. What the operations of Machine/Translate.lean keep (Laws/Keeps.lean). -/

namespace Sys2Proof.Machine

theorem State.touchWalk_keeps {P : State → Prop} (hP : Writes P) {s : State} {slot : Nat} {va : Nat} (h : P s) :
    P (State.touchWalk s slot va) := by
  have hS := hP.toStable
  unfold State.touchWalk
  repeat' first
    | with_reducible assumption
    | intro _
    | with_reducible apply State.decodeAt_keeps hP
    | with_reducible apply Inv2.get (P := P)
    | with_reducible apply keep_ite (Q := P)
    | with_reducible apply keep_ite (Q := Inv2 P)
    | with_reducible apply keep_foldl (Q := P)
    | with_reducible apply keep_foldl (Q := Inv2 P)
    | simp only [keep_mk hS]
    | simp only [Inv2.iff]
    | split
    | refine Inv2.of_eq (P := P) ?_ (by with_reducible assumption)
    | exact Inv2.unmk (P := P) (by with_reducible assumption)
    | dsimp only

theorem State.touchPages_keeps {P : State → Prop} (hP : Writes P) {s : State} {slot : Nat} {va : Nat} {n : Nat} (h : P s) :
    P (State.touchPages s slot va n) := by
  have hS := hP.toStable
  unfold State.touchPages
  repeat' first
    | with_reducible assumption
    | intro _
    | with_reducible apply State.touchWalk_keeps hP
    | with_reducible apply keep_ite (Q := P)
    | with_reducible apply keep_foldl (Q := P)
    | simp only [keep_mk hS]
    | split
    | dsimp only

theorem State.mergeSparse_keeps {P : State → Prop} (hP : Writes P) {s : State} {req : Requester} {a : Nat} {bs : List (Option Byte)} {poison : Bool} {isSealed : Bool} (h : P s) :
    P (State.mergeSparse s req a bs poison isSealed) := by
  have hS := hP.toStable
  unfold State.mergeSparse
  repeat' first
    | with_reducible assumption
    | with_reducible apply State.writeWord_keeps hP
    | with_reducible apply State.decodeAt_keeps hP
    | with_reducible apply Inv2.get (P := P)
    | with_reducible apply keep_ite (Q := P)

theorem State.setOvf_keeps {P : State → Prop} (hS : Stable P) {s : State} {slot : Nat} {cid : Nat} (h : P s) :
    P (State.setOvf s slot cid) := by
  unfold State.setOvf
  repeat' first
    | with_reducible assumption
    | with_reducible apply State.setFld_keeps hS
    | with_reducible apply State.raise_keeps hS
    | with_reducible apply keep_ite (Q := P)

theorem State.censusMerge_keeps {P : State → Prop} (hP : Writes P) {s : State} {slot : Nat} {cid : Nat} {cls : Nat} {step : Nat} {u : List Nat} {isSealed : Bool} (h : P s) :
    OptInv (Inv2 P) (State.censusMerge s slot cid cls step u isSealed) := by
  have hS := hP.toStable
  unfold State.censusMerge
  repeat' first
    | with_reducible assumption
    | intro _
    | with_reducible apply State.touchWalk_keeps hP
    | with_reducible apply State.decodeAt_keeps hP
    | with_reducible apply State.incFld_keeps hS
    | with_reducible apply State.setOvf_keeps hS
    | with_reducible apply State.writeWord_keeps hP
    | with_reducible apply State.raise_keeps hS
    | with_reducible apply Inv2.get (P := P)
    | with_reducible apply keep_ite (Q := P)
    | with_reducible apply keep_ite (Q := Inv2 P)
    | with_reducible apply keep_ite (Q := OptInv (Inv2 P))
    | with_reducible apply OptInv.getD (Q := P)
    | simp only [keep_mk hS]
    | simp only [Inv2.iff]
    | with_reducible apply OptInv.none
    | with_reducible apply OptInv.some
    | split
    | refine Inv2.of_eq (P := P) ?_ (by with_reducible assumption)
    | exact Inv2.unmk (P := P) (by with_reducible assumption)
    | refine Inv2.unmk (P := P) (OptInv.get (Q := Inv2 P) ?_ (by with_reducible assumption))
    | refine OptInv.get (Q := Inv2 P) ?_ (by with_reducible assumption)
    | dsimp only

theorem State.setStashEntry_keeps {P : State → Prop} (hS : Stable P) {s : State} {cd : Nat} {i : Nat} {e : Option StashEntry} (h : P s) :
    P (State.setStashEntry s cd i e) := by
  unfold State.setStashEntry
  repeat' first
    | with_reducible assumption
    | simp only [keep_mk hS]

theorem State.stashDecide_keeps {P : State → Prop} (hS : Stable P) {s : State} {cd : Nat} {slot : Nat} {key : Nat} {bytes : Nat} {recomp : Bool} (h : P s) :
    Inv2 P (State.stashDecide s cd slot key bytes recomp) := by
  unfold State.stashDecide
  repeat' first
    | with_reducible assumption
    | with_reducible apply State.incFld_keeps hS
    | with_reducible apply State.setBit_keeps hS
    | with_reducible apply State.setStashEntry_keeps hS
    | with_reducible apply keep_ite (Q := Inv2 P)
    | simp only [Inv2.iff]
    | split

end Sys2Proof.Machine
end

