-- ==== Sys2Proof/Laws/KeepsStreams.lean ====
section
/-! SUPPORT. What the operations of Machine/Streams.lean keep (Laws/Keeps.lean). -/

namespace Sys2Proof.Machine

/-- The state of a mover. -/
@[irreducible] def MoverInv (P : State → Prop) (r : Mover) : Prop := P r.st

theorem MoverInv.of {P : State → Prop} {r : Mover} (h : P r.st) : MoverInv P r := by unfold MoverInv; exact h
theorem MoverInv.st {P : State → Prop} {r : Mover} (h : MoverInv P r) : P r.st := by unfold MoverInv at h; exact h
theorem MoverInv.iff {P : State → Prop} {st : State} {w : Nat} {rd rs : Option (Nat × Word)} {wr sc : Option WrBuf} {pages : List Nat} {census : List Nat} {censusSealed : Bool} {gen : Nat} {stop : Option Stop} :
    MoverInv P ⟨st, w, rd, rs, wr, sc, pages, census, censusSealed, gen, stop⟩ ↔ P st := ⟨fun h => MoverInv.st h, fun h => MoverInv.of h⟩

/-- The mover of a pair. -/
@[irreducible] def InvM2 (P : State → Prop) {α : Type} (r : α × Mover) : Prop := MoverInv P r.2

theorem InvM2.mk {P : State → Prop} {α : Type} {a : α} {m : Mover} (h : MoverInv P m) : InvM2 P (a, m) := by unfold InvM2; exact h
theorem InvM2.get {P : State → Prop} {α : Type} {r : α × Mover} (h : InvM2 P r) : MoverInv P r.2 := by unfold InvM2 at h; exact h
theorem InvM2.unmk {P : State → Prop} {α : Type} {a : α} {m : Mover} (h : InvM2 P (a, m)) : MoverInv P m := h.get
theorem InvM2.iff {P : State → Prop} {α : Type} {a : α} {m : Mover} : InvM2 P (a, m) ↔ MoverInv P m := ⟨InvM2.unmk, InvM2.mk⟩
theorem InvM2.of_eq {P : State → Prop} {α : Type} {r : α × Mover} (h : InvM2 P r) {a : α} {m : Mover} (e : r = (a, m)) : MoverInv P m := by
  subst e; exact h.get

theorem State.setStream_keeps {P : State → Prop} (hS : Stable P) {s : State} {cd : Nat} {se : Nat} {ch : Nat} {x : Option StreamRun} (h : P s) :
    P (State.setStream s cd se ch x) := by
  unfold State.setStream
  repeat' first
    | with_reducible assumption
    | simp only [keep_mk hS]

theorem State.scaleRecord_keeps {P : State → Prop} (hP : Writes P) {s : State} {cd : Nat} {slot : Nat} {off : Nat} (h : P s) :
    Inv2 P (State.scaleRecord s cd slot off) := by
  have hS := hP.toStable
  unfold State.scaleRecord
  repeat' first
    | with_reducible assumption
    | with_reducible apply State.readFor_keeps hP
    | with_reducible apply keep_ite (Q := Inv2 P)
    | simp only [keep_mk hS]
    | simp only [Inv2.iff]
    | split
    | refine Inv2.of_eq (P := P) ?_ (by with_reducible assumption)

theorem State.effectiveExp_keeps {P : State → Prop} (hP : Writes P) {s : State} {cd : Nat} {slot : Nat} {d : List Nat} (h : P s) :
    Inv2 P (State.effectiveExp s cd slot d) := by
  have hS := hP.toStable
  unfold State.effectiveExp
  repeat' first
    | with_reducible assumption
    | with_reducible apply State.scaleRecord_keeps hP
    | with_reducible apply keep_ite (Q := Inv2 P)
    | simp only [keep_mk hS]
    | simp only [Inv2.iff]
    | split
    | refine Inv2.of_eq (P := P) ?_ (by with_reducible assumption)

theorem State.putOutcome_keeps {P : State → Prop} (hS : Stable P) {s : State} {cd : Nat} {se : Nat} {slot : Nat} {i : Nat} {code : Nat} (h : P s) :
    P (State.putOutcome s cd se slot i code) := by
  unfold State.putOutcome
  repeat' first
    | with_reducible assumption
    | simp only [keep_mk hS]

theorem State.leaveTiles_keeps {P : State → Prop} (hS : Stable P) {s : State} {cd : Nat} {src : Nat} (h : P s) :
    P (State.leaveTiles s cd src) := by
  unfold State.leaveTiles
  repeat' first
    | with_reducible assumption
    | intro _
    | with_reducible apply keep_ite (Q := P)
    | simp only [keep_mk hS]
    | split
    | dsimp only

theorem State.freeChannel_keeps {P : State → Prop} (hS : Stable P) {s : State} {cd : Nat} {se : Nat} {ch : Nat} {w : Nat} (h : P s) :
    P (State.freeChannel s cd se ch w) := by
  unfold State.freeChannel
  repeat' first
    | with_reducible assumption
    | intro _
    | with_reducible apply State.setFld_keeps hS
    | with_reducible apply State.setStream_keeps hS
    | with_reducible apply State.leaveTiles_keeps hS
    | with_reducible apply keep_ite (Q := P)
    | simp only [keep_mk hS]
    | with_reducible apply OptInv.none
    | with_reducible apply OptInv.some
    | split
    | dsimp only

theorem State.closeStream_keeps {P : State → Prop} (hP : Writes P) {s : State} {cd : Nat} {se : Nat} {ch : Nat} {c : Cmd} {d : List Nat} {w : Nat} {err : Nat} {outcome : Nat} (h : P s) :
    P (State.closeStream s cd se ch c d w err outcome) := by
  have hS := hP.toStable
  unfold State.closeStream
  repeat' first
    | with_reducible assumption
    | with_reducible apply State.putOutcome_keeps hS
    | with_reducible apply State.incFld_keeps hS
    | with_reducible apply State.freeChannel_keeps hS
    | with_reducible apply State.bumpCnt_keeps hS
    | with_reducible apply State.setFld_keeps hS
    | with_reducible apply State.raise_keeps hS
    | with_reducible apply State.ctxError_keeps hP
    | with_reducible apply keep_ite (Q := P)

theorem State.stashWrite_keeps {P : State → Prop} (hS : Stable P) {s : State} {cd : Nat} {r : StreamRun} (h : P s) :
    Inv2 P (State.stashWrite s cd r) := by
  unfold State.stashWrite
  repeat' first
    | with_reducible assumption
    | intro _
    | with_reducible apply State.stashDecide_keeps hS
    | with_reducible apply Inv2.get (P := P)
    | with_reducible apply keep_ite (Q := P)
    | with_reducible apply keep_ite (Q := Inv2 P)
    | simp only [keep_mk hS]
    | simp only [Inv2.iff]
    | with_reducible apply OptInv.none
    | with_reducible apply OptInv.some
    | split
    | refine Inv2.of_eq (P := P) ?_ (by with_reducible assumption)
    | exact Inv2.unmk (P := P) (by with_reducible assumption)
    | dsimp only

theorem State.stashRead_keeps {P : State → Prop} (hS : Stable P) {s : State} {cd : Nat} {r : StreamRun} (h : P s) :
    Inv2 P (State.stashRead s cd r) := by
  unfold State.stashRead
  repeat' first
    | with_reducible assumption
    | intro _
    | with_reducible apply State.incFld_keeps hS
    | with_reducible apply State.setStashEntry_keeps hS
    | with_reducible apply Inv2.get (P := P)
    | with_reducible apply keep_ite (Q := P)
    | with_reducible apply keep_ite (Q := Inv2 P)
    | simp only [keep_mk hS]
    | simp only [Inv2.iff]
    | with_reducible apply OptInv.none
    | with_reducible apply OptInv.some
    | split
    | refine Inv2.of_eq (P := P) ?_ (by with_reducible assumption)
    | exact Inv2.unmk (P := P) (by with_reducible assumption)
    | dsimp only

theorem State.stashStart_keeps {P : State → Prop} (hS : Stable P) {s : State} {cd : Nat} {r : StreamRun} (h : P s) :
    Inv2 P (State.stashStart s cd r) := by
  unfold State.stashStart
  repeat' first
    | with_reducible assumption
    | intro _
    | with_reducible apply State.stashWrite_keeps hS
    | with_reducible apply State.stashRead_keeps hS
    | with_reducible apply State.setStashEntry_keeps hS
    | with_reducible apply Inv2.get (P := P)
    | with_reducible apply keep_ite (Q := P)
    | with_reducible apply keep_ite (Q := Inv2 P)
    | simp only [keep_mk hS]
    | simp only [Inv2.iff]
    | with_reducible apply OptInv.none
    | with_reducible apply OptInv.some
    | split
    | refine Inv2.of_eq (P := P) ?_ (by with_reducible assumption)
    | exact Inv2.unmk (P := P) (by with_reducible assumption)
    | dsimp only

theorem State.streamChecks_keeps {P : State → Prop} (hP : Writes P) {s : State} {cd : Nat} {se : Nat} {c : Cmd} (h : P s) :
    Inv2 P (State.streamChecks s cd se c) := by
  have hS := hP.toStable
  unfold State.streamChecks
  repeat' first
    | with_reducible assumption
    | with_reducible apply State.effectiveExp_keeps hP
    | with_reducible apply State.stashStart_keeps hS
    | with_reducible apply keep_ite (Q := Inv2 P)
    | simp only [Inv2.iff]
    | split
    | refine Inv2.of_eq (P := P) ?_ (by with_reducible assumption)

theorem execStream_keeps {P : State → Prop} (hP : Writes P) {cd : Fin 8} {se : Fin 8} {ch : Fin 4} {s : State} (h : P s) :
    OutInv P (execStream cd se ch s) := by
  have hS := hP.toStable
  unfold execStream
  repeat' first
    | with_reducible assumption
    | intro _
    | with_reducible apply State.gated_keeps hS
    | with_reducible apply State.reach_keeps hS
    | with_reducible apply State.tktHold_keeps hS
    | with_reducible apply State.tktClose_keeps hS
    | with_reducible apply State.streamChecks_keeps hP
    | with_reducible apply State.charge_keeps hS
    | with_reducible apply State.setSeUnit_keeps hS
    | with_reducible apply State.closeStream_keeps hP
    | with_reducible apply State.setFld_keeps hS
    | with_reducible apply State.setStream_keeps hS
    | with_reducible apply OutInv.next
    | with_reducible apply Inv2.get (P := P)
    | with_reducible apply keep_ite (Q := P)
    | with_reducible apply keep_ite (Q := Inv2 P)
    | with_reducible apply keep_ite (Q := OutInv P)
    | simp only [keep_mk hS]
    | simp only [Inv2.iff]
    | with_reducible apply OptInv.none
    | with_reducible apply OptInv.some
    | split
    | refine Inv2.of_eq (P := P) ?_ (by with_reducible assumption)
    | exact Inv2.unmk (P := P) (by with_reducible assumption)
    | dsimp only

theorem Mover.store_keeps {P : State → Prop} (hP : Writes P) {m : Mover} {slot : Nat} {cd : Nat} {se : Nat} {b : WrBuf} (h : MoverInv P m) :
    MoverInv P (Mover.store m slot cd se b) := by
  have hS := hP.toStable
  unfold Mover.store
  repeat' first
    | with_reducible assumption
    | intro _
    | with_reducible apply State.meshWrite_keeps hS
    | with_reducible apply State.mergeSparse_keeps hP
    | with_reducible apply keep_ite (Q := P)
    | with_reducible apply keep_ite (Q := MoverInv P)
    | simp only [keep_mk hS]
    | simp only [MoverInv.iff]
    | with_reducible apply MoverInv.st (P := P)
    | split
    | dsimp only

theorem Mover.flushOne_keeps {P : State → Prop} (hP : Writes P) {m : Mover} {slot : Nat} {cd : Nat} {se : Nat} {scale : Bool} (h : MoverInv P m) :
    MoverInv P (Mover.flushOne m slot cd se scale) := by
  have hS := hP.toStable
  unfold Mover.flushOne
  repeat' first
    | with_reducible assumption
    | intro _
    | with_reducible apply Mover.store_keeps hP
    | with_reducible apply keep_ite (Q := P)
    | with_reducible apply keep_ite (Q := MoverInv P)
    | simp only [keep_mk hS]
    | simp only [MoverInv.iff]
    | with_reducible apply MoverInv.st (P := P)
    | with_reducible apply OptInv.none
    | with_reducible apply OptInv.some
    | split
    | dsimp only

theorem Mover.flush_keeps {P : State → Prop} (hP : Writes P) {m : Mover} {slot : Nat} {cd : Nat} {se : Nat} (h : MoverInv P m) :
    MoverInv P (Mover.flush m slot cd se) := by
  have hS := hP.toStable
  unfold Mover.flush
  repeat' first
    | with_reducible assumption
    | intro _
    | with_reducible apply Mover.flushOne_keeps hP
    | with_reducible apply keep_ite (Q := P)
    | with_reducible apply keep_ite (Q := MoverInv P)
    | simp only [keep_mk hS]
    | simp only [MoverInv.iff]
    | with_reducible apply MoverInv.st (P := P)
    | split
    | dsimp only

theorem Mover.walk_keeps {P : State → Prop} (hP : Writes P) {m : Mover} {slot : Nat} {cls : Nat} {va : Nat} (h : MoverInv P m) :
    MoverInv P (Mover.walk m slot cls va) := by
  have hS := hP.toStable
  unfold Mover.walk
  repeat' first
    | with_reducible assumption
    | intro _
    | with_reducible apply State.touchWalk_keeps hP
    | with_reducible apply keep_ite (Q := P)
    | with_reducible apply keep_ite (Q := MoverInv P)
    | simp only [keep_mk hS]
    | simp only [MoverInv.iff]
    | with_reducible apply MoverInv.st (P := P)
    | split
    | dsimp only

theorem Mover.read_keeps {P : State → Prop} (hP : Writes P) {m : Mover} {slot : Nat} {cd : Nat} {se : Nat} {pa : Nat} {n : Nat} {scale : Bool} (h : MoverInv P m) :
    InvM2 P (Mover.read m slot cd se pa n scale) := by
  have hS := hP.toStable
  unfold Mover.read
  repeat' first
    | with_reducible assumption
    | intro _
    | with_reducible apply State.readFor_keeps hP
    | with_reducible apply State.meshRead_keeps hS
    | with_reducible apply State.incFld_keeps hS
    | with_reducible apply Inv2.get (P := P)
    | with_reducible apply InvM2.get (P := P)
    | with_reducible apply keep_ite (Q := P)
    | with_reducible apply keep_ite (Q := Inv2 P)
    | with_reducible apply keep_ite (Q := InvM2 P)
    | with_reducible apply keep_ite (Q := MoverInv P)
    | with_reducible apply OptInv.bind
    | simp only [keep_mk hS]
    | simp only [InvM2.iff]
    | simp only [Inv2.iff]
    | simp only [MoverInv.iff]
    | with_reducible apply MoverInv.st (P := P)
    | with_reducible apply OptInv.none
    | with_reducible apply OptInv.some
    | split
    | refine Inv2.of_eq (P := P) ?_ (by with_reducible assumption)
    | exact Inv2.unmk (P := P) (by with_reducible assumption)
    | refine InvM2.of_eq (P := P) ?_ (by with_reducible assumption)
    | exact InvM2.unmk (P := P) (by with_reducible assumption)
    | dsimp only

theorem Mover.write_keeps {P : State → Prop} (hP : Writes P) {m : Mover} {slot : Nat} {cd : Nat} {se : Nat} {pa : Nat} {bs : List Byte} {poison : Bool} {isSealed : Bool} {scale : Bool} (h : MoverInv P m) :
    MoverInv P (Mover.write m slot cd se pa bs poison isSealed scale) := by
  have hS := hP.toStable
  unfold Mover.write
  repeat' first
    | with_reducible assumption
    | intro _
    | with_reducible apply Mover.flushOne_keeps hP
    | with_reducible apply State.incFld_keeps hS
    | with_reducible apply keep_ite (Q := P)
    | with_reducible apply keep_ite (Q := MoverInv P)
    | with_reducible apply OptInv.getD (Q := P)
    | simp only [keep_mk hS]
    | simp only [MoverInv.iff]
    | with_reducible apply MoverInv.st (P := P)
    | with_reducible apply OptInv.none
    | with_reducible apply OptInv.some
    | split
    | dsimp only

theorem Lane.dstPlace_keeps {P : State → Prop} (hP : Writes P) {x : Lane} {m : Mover} {a : Nat} (h : MoverInv P m) :
    InvM2 P (Lane.dstPlace x m a) := by
  have hS := hP.toStable
  unfold Lane.dstPlace
  repeat' first
    | with_reducible assumption
    | intro _
    | with_reducible apply Mover.walk_keeps hP
    | with_reducible apply InvM2.get (P := P)
    | with_reducible apply keep_ite (Q := P)
    | with_reducible apply keep_ite (Q := InvM2 P)
    | with_reducible apply keep_ite (Q := MoverInv P)
    | simp only [keep_mk hS]
    | simp only [InvM2.iff]
    | simp only [MoverInv.iff]
    | with_reducible apply MoverInv.st (P := P)
    | split
    | refine InvM2.of_eq (P := P) ?_ (by with_reducible assumption)
    | exact InvM2.unmk (P := P) (by with_reducible assumption)
    | dsimp only

theorem Lane.elemPlace_keeps {P : State → Prop} (hP : Writes P) {x : Lane} {m : Mover} {l : Nat} (h : MoverInv P m) :
    InvM2 P (Lane.elemPlace x m l) := by
  have hS := hP.toStable
  unfold Lane.elemPlace
  repeat' first
    | with_reducible assumption
    | intro _
    | with_reducible apply Lane.dstPlace_keeps hP
    | with_reducible apply InvM2.get (P := P)
    | with_reducible apply keep_ite (Q := P)
    | with_reducible apply keep_ite (Q := InvM2 P)
    | with_reducible apply keep_ite (Q := MoverInv P)
    | simp only [keep_mk hS]
    | simp only [InvM2.iff]
    | simp only [MoverInv.iff]
    | with_reducible apply MoverInv.st (P := P)
    | split
    | refine InvM2.of_eq (P := P) ?_ (by with_reducible assumption)
    | exact InvM2.unmk (P := P) (by with_reducible assumption)
    | dsimp only

theorem Lane.deliver_keeps {P : State → Prop} (hP : Writes P) {x : Lane} {m : Mover} {l : Nat} {pa : Nat} {bs : List Byte} {poison : Bool} {isSealed : Bool} (h : MoverInv P m) :
    MoverInv P (Lane.deliver x m l pa bs poison isSealed) := by
  have hS := hP.toStable
  unfold Lane.deliver
  repeat' first
    | with_reducible assumption
    | intro _
    | with_reducible apply State.incFld_keeps hS
    | with_reducible apply State.poolMoves_keeps hS
    | with_reducible apply State.setGateway_keeps hS
    | with_reducible apply State.meshSend_keeps hS
    | with_reducible apply Mover.write_keeps hP
    | with_reducible apply keep_ite (Q := P)
    | with_reducible apply keep_ite (Q := MoverInv P)
    | simp only [keep_mk hS]
    | simp only [MoverInv.iff]
    | with_reducible apply MoverInv.st (P := P)
    | with_reducible apply OptInv.none
    | with_reducible apply OptInv.some
    | split
    | dsimp only

theorem Lane.readSide_keeps {P : State → Prop} (hP : Writes P) {x : Lane} {m : Mover} {a : Nat} {n : Nat} {scale : Bool} (h : MoverInv P m) :
    InvM2 P (Lane.readSide x m a n scale) := by
  have hS := hP.toStable
  unfold Lane.readSide
  repeat' first
    | with_reducible assumption
    | intro _
    | with_reducible apply Mover.walk_keeps hP
    | with_reducible apply Mover.read_keeps hP
    | with_reducible apply InvM2.get (P := P)
    | with_reducible apply keep_ite (Q := P)
    | with_reducible apply keep_ite (Q := InvM2 P)
    | with_reducible apply keep_ite (Q := MoverInv P)
    | simp only [keep_mk hS]
    | simp only [InvM2.iff]
    | simp only [MoverInv.iff]
    | with_reducible apply MoverInv.st (P := P)
    | split
    | refine InvM2.of_eq (P := P) ?_ (by with_reducible assumption)
    | exact InvM2.unmk (P := P) (by with_reducible assumption)
    | dsimp only

theorem Lane.readElem_keeps {P : State → Prop} (hP : Writes P) {x : Lane} {m : Mover} {l : Nat} (h : MoverInv P m) :
    InvM2 P (Lane.readElem x m l) := by
  have hS := hP.toStable
  unfold Lane.readElem
  repeat' first
    | with_reducible assumption
    | intro _
    | with_reducible apply Lane.readSide_keeps hP
    | with_reducible apply InvM2.get (P := P)
    | with_reducible apply keep_ite (Q := P)
    | with_reducible apply keep_ite (Q := InvM2 P)
    | with_reducible apply keep_ite (Q := MoverInv P)
    | with_reducible apply OptInv.getD (Q := P)
    | simp only [keep_mk hS]
    | simp only [InvM2.iff]
    | simp only [MoverInv.iff]
    | with_reducible apply MoverInv.st (P := P)
    | split
    | refine InvM2.of_eq (P := P) ?_ (by with_reducible assumption)
    | exact InvM2.unmk (P := P) (by with_reducible assumption)
    | dsimp only

theorem Lane.poisonPattern_keeps {P : State → Prop} (hS : Stable P) {x : Lane} {m : Mover} (h : MoverInv P m) :
    InvM2 P (Lane.poisonPattern x m) := by
  unfold Lane.poisonPattern
  repeat' first
    | with_reducible assumption
    | with_reducible apply State.takeFree_keeps hS
    | with_reducible apply Inv2.get (P := P)
    | with_reducible apply keep_ite (Q := InvM2 P)
    | simp only [keep_mk hS]
    | simp only [InvM2.iff]
    | simp only [MoverInv.iff]
    | with_reducible apply MoverInv.st (P := P)

theorem Lane.draw1_keeps {P : State → Prop} (hS : Stable P) {x : Lane} {m : Mover} (h : MoverInv P m) :
    InvM2 P (Lane.draw1 x m) := by
  unfold Lane.draw1
  repeat' first
    | with_reducible assumption
    | with_reducible apply keep_ite (Q := InvM2 P)
    | simp only [keep_mk hS]
    | simp only [InvM2.iff]
    | simp only [MoverInv.iff]
    | with_reducible apply MoverInv.st (P := P)

theorem Lane.moveOne_keeps {P : State → Prop} (hP : Writes P) {x : Lane} {m : Mover} (h : MoverInv P m) :
    MoverInv P (Lane.moveOne x m) := by
  have hS := hP.toStable
  unfold Lane.moveOne
  repeat' first
    | with_reducible assumption
    | intro _
    | with_reducible apply Lane.readElem_keeps hP
    | with_reducible apply Lane.elemPlace_keeps hP
    | with_reducible apply Lane.draw1_keeps hS
    | with_reducible apply Lane.poisonPattern_keeps hS
    | with_reducible apply Lane.deliver_keeps hP
    | with_reducible apply InvM2.get (P := P)
    | with_reducible apply keep_ite (Q := P)
    | with_reducible apply keep_ite (Q := InvM2 P)
    | with_reducible apply keep_ite (Q := MoverInv P)
    | with_reducible apply OptInv.getD (Q := P)
    | simp only [keep_mk hS]
    | simp only [InvM2.iff]
    | simp only [MoverInv.iff]
    | with_reducible apply MoverInv.st (P := P)
    | with_reducible apply OptInv.none
    | with_reducible apply OptInv.some
    | split
    | refine InvM2.of_eq (P := P) ?_ (by with_reducible assumption)
    | exact InvM2.unmk (P := P) (by with_reducible assumption)
    | dsimp only

theorem Lane.formBlock_keeps {P : State → Prop} (hP : Writes P) {x : Lane} {x1 : Nat} {x2 : Mover} {x3 : Nat} {x4 : List Lane.BlockElem} (h : MoverInv P x2) :
    InvM2 P (Lane.formBlock x x1 x2 x3 x4) := by
  have hS := hP.toStable
  induction x1 generalizing x x2 x3 x4 with
  | zero =>
    unfold Lane.formBlock
    repeat' first
      | with_reducible assumption
      | intro _
      | with_reducible apply Lane.elemPlace_keeps hP
      | with_reducible apply Lane.readElem_keeps hP
      | with_reducible apply InvM2.get (P := P)
      | with_reducible apply keep_ite (Q := P)
      | with_reducible apply keep_ite (Q := InvM2 P)
      | with_reducible apply keep_ite (Q := MoverInv P)
      | simp only [keep_mk hS]
      | simp only [InvM2.iff]
      | simp only [MoverInv.iff]
      | with_reducible apply MoverInv.st (P := P)
      | split
      | refine InvM2.of_eq (P := P) ?_ (by with_reducible assumption)
      | exact InvM2.unmk (P := P) (by with_reducible assumption)
      | dsimp only
  | succ n ih =>
    unfold Lane.formBlock
    repeat' first
      | with_reducible apply ih
      | with_reducible assumption
      | intro _
      | with_reducible apply Lane.elemPlace_keeps hP
      | with_reducible apply Lane.readElem_keeps hP
      | with_reducible apply InvM2.get (P := P)
      | with_reducible apply keep_ite (Q := P)
      | with_reducible apply keep_ite (Q := InvM2 P)
      | with_reducible apply keep_ite (Q := MoverInv P)
      | simp only [keep_mk hS]
      | simp only [InvM2.iff]
      | simp only [MoverInv.iff]
      | with_reducible apply MoverInv.st (P := P)
      | split
      | refine InvM2.of_eq (P := P) ?_ (by with_reducible assumption)
      | exact InvM2.unmk (P := P) (by with_reducible assumption)
      | dsimp only

theorem Lane.scalePlace_keeps {P : State → Prop} (hP : Writes P) {x : Lane} {m : Mover} (h : MoverInv P m) :
    InvM2 P (Lane.scalePlace x m) := by
  have hS := hP.toStable
  unfold Lane.scalePlace
  repeat' first
    | with_reducible assumption
    | intro _
    | with_reducible apply Lane.dstPlace_keeps hP
    | with_reducible apply InvM2.get (P := P)
    | with_reducible apply keep_ite (Q := P)
    | with_reducible apply keep_ite (Q := InvM2 P)
    | with_reducible apply keep_ite (Q := MoverInv P)
    | simp only [keep_mk hS]
    | simp only [InvM2.iff]
    | simp only [MoverInv.iff]
    | with_reducible apply MoverInv.st (P := P)
    | with_reducible apply OptInv.none
    | with_reducible apply OptInv.some
    | split
    | refine InvM2.of_eq (P := P) ?_ (by with_reducible assumption)
    | exact InvM2.unmk (P := P) (by with_reducible assumption)
    | dsimp only

theorem Lane.gatherBlock_keeps {P : State → Prop} (hP : Writes P) {x : Lane} {m : Mover} {n : Nat} (h : MoverInv P m) :
    InvM2 P (Lane.gatherBlock x m n) := by
  have hS := hP.toStable
  unfold Lane.gatherBlock
  repeat' first
    | with_reducible assumption
    | intro _
    | with_reducible apply Lane.formBlock_keeps hP
    | with_reducible apply Lane.scalePlace_keeps hP
    | with_reducible apply InvM2.get (P := P)
    | with_reducible apply keep_ite (Q := P)
    | with_reducible apply keep_ite (Q := InvM2 P)
    | with_reducible apply keep_ite (Q := MoverInv P)
    | simp only [keep_mk hS]
    | simp only [InvM2.iff]
    | simp only [MoverInv.iff]
    | with_reducible apply MoverInv.st (P := P)
    | split
    | refine InvM2.of_eq (P := P) ?_ (by with_reducible assumption)
    | exact InvM2.unmk (P := P) (by with_reducible assumption)
    | dsimp only

theorem Lane.deliverBlock_keeps {P : State → Prop} (hP : Writes P) {x : Lane} {m : Mover} {es : List Lane.BlockElem} {scale : Option Nat} (h : MoverInv P m) :
    MoverInv P (Lane.deliverBlock x m es scale) := by
  have hS := hP.toStable
  unfold Lane.deliverBlock
  repeat' first
    | with_reducible assumption
    | intro _
    | with_reducible apply Lane.draw1_keeps hS
    | with_reducible apply Lane.deliver_keeps hP
    | with_reducible apply Mover.write_keeps hP
    | with_reducible apply InvM2.get (P := P)
    | with_reducible apply keep_ite (Q := P)
    | with_reducible apply keep_ite (Q := InvM2 P)
    | with_reducible apply keep_ite (Q := MoverInv P)
    | with_reducible apply keep_foldl (Q := P)
    | with_reducible apply keep_foldl (Q := InvM2 P)
    | with_reducible apply keep_foldl (Q := MoverInv P)
    | with_reducible apply OptInv.getD (Q := P)
    | simp only [keep_mk hS]
    | simp only [InvM2.iff]
    | simp only [MoverInv.iff]
    | with_reducible apply MoverInv.st (P := P)
    | with_reducible apply OptInv.none
    | with_reducible apply OptInv.some
    | split
    | refine InvM2.of_eq (P := P) ?_ (by with_reducible assumption)
    | exact InvM2.unmk (P := P) (by with_reducible assumption)
    | dsimp only

theorem Lane.moveBlock_keeps {P : State → Prop} (hP : Writes P) {x : Lane} {m : Mover} {total : Nat} (h : MoverInv P m) :
    MoverInv P (Lane.moveBlock x m total) := by
  have hS := hP.toStable
  unfold Lane.moveBlock
  repeat' first
    | with_reducible assumption
    | intro _
    | with_reducible apply Lane.gatherBlock_keeps hP
    | with_reducible apply Lane.deliverBlock_keeps hP
    | with_reducible apply InvM2.get (P := P)
    | with_reducible apply keep_ite (Q := P)
    | with_reducible apply keep_ite (Q := InvM2 P)
    | with_reducible apply keep_ite (Q := MoverInv P)
    | simp only [keep_mk hS]
    | simp only [InvM2.iff]
    | simp only [MoverInv.iff]
    | with_reducible apply MoverInv.st (P := P)
    | with_reducible apply OptInv.none
    | with_reducible apply OptInv.some
    | split
    | refine InvM2.of_eq (P := P) ?_ (by with_reducible assumption)
    | exact InvM2.unmk (P := P) (by with_reducible assumption)
    | dsimp only

theorem Lane.skim_keeps {P : State → Prop} (hP : Writes P) {x : Lane} {x1 : Nat} {x2 : Mover} {x3 : Nat} (h : MoverInv P x2) :
    MoverInv P (Lane.skim x x1 x2 x3) := by
  have hS := hP.toStable
  induction x1 generalizing x x2 x3 with
  | zero =>
    unfold Lane.skim
    repeat' first
      | with_reducible assumption
      | intro _
      | with_reducible apply Lane.readElem_keeps hP
      | with_reducible apply InvM2.get (P := P)
      | with_reducible apply keep_ite (Q := P)
      | with_reducible apply keep_ite (Q := InvM2 P)
      | with_reducible apply keep_ite (Q := MoverInv P)
      | simp only [keep_mk hS]
      | simp only [InvM2.iff]
      | simp only [MoverInv.iff]
      | with_reducible apply MoverInv.st (P := P)
      | with_reducible apply OptInv.none
      | with_reducible apply OptInv.some
      | split
      | refine InvM2.of_eq (P := P) ?_ (by with_reducible assumption)
      | exact InvM2.unmk (P := P) (by with_reducible assumption)
      | dsimp only
  | succ n ih =>
    unfold Lane.skim
    repeat' first
      | with_reducible apply ih
      | with_reducible assumption
      | intro _
      | with_reducible apply Lane.readElem_keeps hP
      | with_reducible apply InvM2.get (P := P)
      | with_reducible apply keep_ite (Q := P)
      | with_reducible apply keep_ite (Q := InvM2 P)
      | with_reducible apply keep_ite (Q := MoverInv P)
      | simp only [keep_mk hS]
      | simp only [InvM2.iff]
      | simp only [MoverInv.iff]
      | with_reducible apply MoverInv.st (P := P)
      | with_reducible apply OptInv.none
      | with_reducible apply OptInv.some
      | split
      | refine InvM2.of_eq (P := P) ?_ (by with_reducible assumption)
      | exact InvM2.unmk (P := P) (by with_reducible assumption)
      | dsimp only

theorem Lane.moveAll_keeps {P : State → Prop} (hP : Writes P) {x : Lane} {total : Nat} {x1 : Nat} {x2 : Mover} (h : MoverInv P x2) :
    MoverInv P (Lane.moveAll x total x1 x2) := by
  have hS := hP.toStable
  induction x1 generalizing x total x2 with
  | zero =>
    unfold Lane.moveAll
    repeat' first
      | with_reducible assumption
      | with_reducible apply Lane.moveOne_keeps hP
      | with_reducible apply Lane.moveBlock_keeps hP
      | with_reducible apply keep_ite (Q := MoverInv P)
  | succ n ih =>
    unfold Lane.moveAll
    repeat' first
      | with_reducible apply ih
      | with_reducible assumption
      | with_reducible apply Lane.moveOne_keeps hP
      | with_reducible apply Lane.moveBlock_keeps hP
      | with_reducible apply keep_ite (Q := MoverInv P)

theorem State.streamMoveBy_keeps {P : State → Prop} (hP : Writes P) {s : State} {cd : Nat} {se : Nat} {ch : Nat} {r : StreamRun} {fuel : Nat} (h : P s) :
    MoverInv P (State.streamMoveBy s cd se ch r fuel) := by
  have hS := hP.toStable
  unfold State.streamMoveBy
  repeat' first
    | with_reducible assumption
    | intro _
    | with_reducible apply Lane.skim_keeps hP
    | with_reducible apply Mover.flush_keeps hP
    | with_reducible apply Lane.moveAll_keeps hP
    | with_reducible apply keep_ite (Q := P)
    | with_reducible apply keep_ite (Q := MoverInv P)
    | with_reducible apply OptInv.bind
    | simp only [keep_mk hS]
    | simp only [MoverInv.iff]
    | with_reducible apply MoverInv.st (P := P)
    | with_reducible apply OptInv.none
    | with_reducible apply OptInv.some
    | split
    | dsimp only

theorem State.streamMove_keeps {P : State → Prop} (hP : Writes P) {s : State} {cd : Nat} {se : Nat} {ch : Nat} {r : StreamRun} (h : P s) :
    MoverInv P (State.streamMove s cd se ch r) := by
  have hS := hP.toStable
  unfold State.streamMove
  repeat' first
    | with_reducible assumption
    | with_reducible apply State.streamMoveBy_keeps hP

theorem State.heldBytes_keeps {P : State → Prop} (hS : Stable P) {s : State} {r : StreamRun} {m : Mover} (h : P s) (h1 : MoverInv P m) :
    Inv2 P (State.heldBytes s r m) := by
  unfold State.heldBytes
  repeat' first
    | with_reducible assumption
    | intro _
    | with_reducible apply State.takeFree_keeps hS
    | with_reducible apply Inv2.get (P := P)
    | with_reducible apply keep_ite (Q := P)
    | with_reducible apply keep_ite (Q := Inv2 P)
    | with_reducible apply keep_ite (Q := MoverInv P)
    | simp only [keep_mk hS]
    | simp only [Inv2.iff]
    | simp only [MoverInv.iff]
    | with_reducible apply MoverInv.st (P := P)
    | with_reducible apply OptInv.none
    | with_reducible apply OptInv.some
    | split
    | refine Inv2.of_eq (P := P) ?_ (by with_reducible assumption)
    | exact Inv2.unmk (P := P) (by with_reducible assumption)
    | dsimp only

theorem State.poolWaited_keeps {P : State → Prop} (hS : Stable P) {s : State} {cd : Nat} {se : Nat} {r : StreamRun} (h : P s) :
    P (State.poolWaited s cd se r) := by
  unfold State.poolWaited
  repeat' first
    | with_reducible assumption
    | intro _
    | with_reducible apply State.incFld_keeps hS
    | with_reducible apply keep_ite (Q := P)
    | simp only [keep_mk hS]
    | with_reducible apply OptInv.none
    | with_reducible apply OptInv.some
    | split
    | dsimp only

theorem State.keepMove_keeps {P : State → Prop} (hS : Stable P) {m : Mover} {cd : Nat} {se : Nat} {ch : Nat} {r : StreamRun} (h : MoverInv P m) :
    Inv2 P (State.keepMove m cd se ch r) := by
  unfold State.keepMove
  repeat' first
    | with_reducible assumption
    | intro _
    | with_reducible apply State.poolWaited_keeps hS
    | with_reducible apply State.setSeUnit_keeps hS
    | with_reducible apply State.heldBytes_keeps hS
    | with_reducible apply State.poolMoves_keeps hS
    | with_reducible apply State.setFld_keeps hS
    | with_reducible apply State.setStream_keeps hS
    | with_reducible apply Inv2.get (P := P)
    | with_reducible apply keep_ite (Q := P)
    | with_reducible apply keep_ite (Q := Inv2 P)
    | with_reducible apply keep_ite (Q := MoverInv P)
    | simp only [keep_mk hS]
    | simp only [Inv2.iff]
    | simp only [MoverInv.iff]
    | with_reducible apply MoverInv.st (P := P)
    | with_reducible apply OptInv.none
    | with_reducible apply OptInv.some
    | split
    | refine Inv2.of_eq (P := P) ?_ (by with_reducible assumption)
    | exact Inv2.unmk (P := P) (by with_reducible assumption)
    | dsimp only

theorem State.releaseRead_keeps {P : State → Prop} (hS : Stable P) {s : State} {cd : Nat} {r : StreamRun} (h : P s) :
    Inv2 P (State.releaseRead s cd r) := by
  unfold State.releaseRead
  repeat' first
    | with_reducible assumption
    | intro _
    | with_reducible apply State.setStashEntry_keeps hS
    | with_reducible apply Inv2.get (P := P)
    | with_reducible apply keep_ite (Q := P)
    | with_reducible apply keep_ite (Q := Inv2 P)
    | simp only [keep_mk hS]
    | simp only [Inv2.iff]
    | with_reducible apply OptInv.none
    | with_reducible apply OptInv.some
    | split
    | refine Inv2.of_eq (P := P) ?_ (by with_reducible assumption)
    | exact Inv2.unmk (P := P) (by with_reducible assumption)
    | dsimp only

theorem State.settleWrite_keeps {P : State → Prop} (hS : Stable P) {s : State} {cd : Nat} {r : StreamRun} {err : Nat} (h : P s) :
    P (State.settleWrite s cd r err) := by
  unfold State.settleWrite
  repeat' first
    | with_reducible assumption
    | intro _
    | with_reducible apply State.setStashEntry_keeps hS
    | with_reducible apply keep_ite (Q := P)
    | simp only [keep_mk hS]
    | with_reducible apply OptInv.none
    | with_reducible apply OptInv.some
    | split
    | dsimp only

theorem State.endStream_keeps {P : State → Prop} (hP : Writes P) {s : State} {cd : Nat} {se : Nat} {ch : Nat} {r : StreamRun} {err : Nat} (h : P s) :
    P (State.endStream s cd se ch r err) := by
  have hS := hP.toStable
  unfold State.endStream
  repeat' first
    | with_reducible assumption
    | intro _
    | with_reducible apply State.releaseRead_keeps hS
    | with_reducible apply State.censusMerge_keeps hP
    | with_reducible apply State.setFld_keeps hS
    | with_reducible apply State.setStream_keeps hS
    | with_reducible apply State.closeStream_keeps hP
    | with_reducible apply State.settleWrite_keeps hS
    | with_reducible apply Inv2.get (P := P)
    | with_reducible apply keep_ite (Q := P)
    | with_reducible apply keep_ite (Q := Inv2 P)
    | with_reducible apply keep_ite (Q := OptInv (Inv2 P))
    | simp only [keep_mk hS]
    | simp only [Inv2.iff]
    | with_reducible apply OptInv.none
    | with_reducible apply OptInv.some
    | split
    | refine Inv2.of_eq (P := P) ?_ (by with_reducible assumption)
    | exact Inv2.unmk (P := P) (by with_reducible assumption)
    | refine Inv2.unmk (P := P) (OptInv.get (Q := Inv2 P) ?_ (by with_reducible assumption))
    | refine OptInv.get (Q := Inv2 P) ?_ (by with_reducible assumption)
    | dsimp only

theorem execStreamFault_keeps {P : State → Prop} (hP : Writes P) {cd : Fin 8} {se : Fin 8} {ch : Fin 4} {s : State} (h : P s) :
    OutInv P (execStreamFault cd se ch s) := by
  have hS := hP.toStable
  unfold execStreamFault
  repeat' first
    | with_reducible assumption
    | with_reducible apply State.gated_keeps hS
    | with_reducible apply State.streamMove_keeps hP
    | with_reducible apply State.keepMove_keeps hS
    | with_reducible apply State.setStream_keeps hS
    | with_reducible apply State.setFld_keeps hS
    | with_reducible apply State.incFld_keeps hS
    | with_reducible apply State.notice_keeps hP
    | with_reducible apply OutInv.next
    | with_reducible apply Inv2.get (P := P)
    | with_reducible apply keep_ite (Q := P)
    | simp only [keep_mk hS]
    | split

theorem execStreamEnd_keeps {P : State → Prop} (hP : Writes P) {cd : Fin 8} {se : Fin 8} {ch : Fin 4} {s : State} (h : P s) :
    OutInv P (execStreamEnd cd se ch s) := by
  have hS := hP.toStable
  unfold execStreamEnd
  repeat' first
    | with_reducible assumption
    | intro _
    | with_reducible apply State.gated_keeps hS
    | with_reducible apply State.endStream_keeps hP
    | with_reducible apply State.streamMove_keeps hP
    | with_reducible apply State.keepMove_keeps hS
    | with_reducible apply OutInv.next
    | with_reducible apply Inv2.get (P := P)
    | with_reducible apply keep_ite (Q := P)
    | with_reducible apply keep_ite (Q := Inv2 P)
    | with_reducible apply keep_ite (Q := MoverInv P)
    | with_reducible apply keep_ite (Q := OutInv P)
    | simp only [keep_mk hS]
    | simp only [Inv2.iff]
    | simp only [MoverInv.iff]
    | with_reducible apply MoverInv.st (P := P)
    | with_reducible apply OptInv.none
    | with_reducible apply OptInv.some
    | split
    | refine Inv2.of_eq (P := P) ?_ (by with_reducible assumption)
    | exact Inv2.unmk (P := P) (by with_reducible assumption)
    | dsimp only

theorem State.failStream_keeps {P : State → Prop} (hP : Writes P) {s : State} {cd : Nat} {se : Nat} {ch : Nat} (h : P s) :
    P (State.failStream s cd se ch) := by
  have hS := hP.toStable
  unfold State.failStream
  repeat' first
    | with_reducible assumption
    | intro _
    | with_reducible apply State.endStream_keeps hP
    | with_reducible apply keep_ite (Q := P)
    | simp only [keep_mk hS]
    | with_reducible apply OptInv.none
    | with_reducible apply OptInv.some
    | split
    | dsimp only

theorem State.chControl_keeps {P : State → Prop} (hP : Writes P) {s : State} {cd : Nat} {se : Nat} {ch : Nat} {resume : Bool} (h : P s) :
    P (State.chControl s cd se ch resume) := by
  have hS := hP.toStable
  unfold State.chControl
  repeat' first
    | with_reducible assumption
    | with_reducible apply State.setFld_keeps hS
    | with_reducible apply State.failStream_keeps hP
    | with_reducible apply keep_ite (Q := P)

theorem State.writeChCtl_keeps {P : State → Prop} (hP : Writes P) {s : State} {acc : Accessor} {cd : Nat} {se : Nat} {ch : Nat} {resume : Bool} (h : P s) :
    P (State.writeChCtl s acc cd se ch resume) := by
  have hS := hP.toStable
  unfold State.writeChCtl
  repeat' first
    | with_reducible assumption
    | intro _
    | with_reducible apply State.regWrite_keeps hS
    | with_reducible apply State.chControl_keeps hP
    | with_reducible apply OptInv.some

theorem execSeChResume_keeps {P : State → Prop} (hP : Writes P) {acc : Accessor} {cd : Fin 8} {se : Fin 8} {ch : Fin 4} {s : State} (h : P s) :
    OutInv P (execSeChResume acc cd se ch s) := by
  have hS := hP.toStable
  unfold execSeChResume
  repeat' first
    | with_reducible assumption
    | with_reducible apply State.writeChCtl_keeps hP
    | with_reducible apply OutInv.next

theorem execSeChFail_keeps {P : State → Prop} (hP : Writes P) {acc : Accessor} {cd : Fin 8} {se : Fin 8} {ch : Fin 4} {s : State} (h : P s) :
    OutInv P (execSeChFail acc cd se ch s) := by
  have hS := hP.toStable
  unfold execSeChFail
  repeat' first
    | with_reducible assumption
    | with_reducible apply State.writeChCtl_keeps hP
    | with_reducible apply OutInv.next

theorem execFaultLimitExpiry_keeps {P : State → Prop} (hP : Writes P) {cd : Fin 8} {se : Fin 8} {ch : Fin 4} {s : State} (h : P s) :
    OutInv P (execFaultLimitExpiry cd se ch s) := by
  have hS := hP.toStable
  unfold execFaultLimitExpiry
  repeat' first
    | with_reducible assumption
    | with_reducible apply State.raise_keeps hS
    | with_reducible apply State.setFld_keeps hS
    | with_reducible apply State.failStream_keeps hP
    | with_reducible apply OutInv.next
    | with_reducible apply keep_ite (Q := P)
    | simp only [keep_mk hS]
    | split

theorem execPoolStall_keeps {P : State → Prop} (hS : Stable P) {cd : Fin 8} {pool : Fin 12} {s : State} (h : P s) :
    OutInv P (execPoolStall cd pool s) := by
  unfold execPoolStall
  repeat' first
    | with_reducible assumption
    | intro _
    | with_reducible apply State.raise_keeps hS
    | with_reducible apply State.setFld_keeps hS
    | with_reducible apply State.setBit_keeps hS
    | with_reducible apply OutInv.next
    | with_reducible apply keep_ite (Q := P)
    | with_reducible apply keep_ite (Q := OutInv P)
    | simp only [keep_mk hS]
    | split
    | dsimp only

theorem execSeSrSeedWrite_keeps {P : State → Prop} (hS : Stable P) {acc : Accessor} {cd : Fin 8} {se : Fin 8} {v : Word64} {s : State} (h : P s) :
    OutInv P (execSeSrSeedWrite acc cd se v s) := by
  unfold execSeSrSeedWrite
  repeat' first
    | with_reducible assumption
    | intro _
    | with_reducible apply State.regWrite_keeps hS
    | with_reducible apply State.writeSeSeed_keeps hS
    | with_reducible apply OutInv.next
    | with_reducible apply OptInv.some

theorem execXltInvalWrite_keeps {P : State → Prop} (hS : Stable P) {acc : Accessor} {slot : Fin 4} {v : Word64} {s : State} (h : P s) :
    OutInv P (execXltInvalWrite acc slot v s) := by
  unfold execXltInvalWrite
  repeat' first
    | with_reducible assumption
    | intro _
    | with_reducible apply State.regWrite_keeps hS
    | with_reducible apply State.setFld_keeps hS
    | with_reducible apply OutInv.next
    | simp only [keep_mk hS]
    | with_reducible apply OptInv.none
    | with_reducible apply OptInv.some
    | split

theorem execXltInvalDone_keeps {P : State → Prop} (hS : Stable P) {slot : Fin 4} {s : State} (h : P s) :
    OutInv P (execXltInvalDone slot s) := by
  unfold execXltInvalDone
  repeat' first
    | with_reducible assumption
    | with_reducible apply State.setFld_keeps hS
    | with_reducible apply OutInv.next

theorem State.purgeStash_keeps {P : State → Prop} (hP : Writes P) {s : State} {cd : Nat} {slot : Nat} (h : P s) :
    P (State.purgeStash s cd slot) := by
  have hS := hP.toStable
  unfold State.purgeStash
  repeat' first
    | with_reducible assumption
    | intro _
    | with_reducible apply State.endStream_keeps hP
    | with_reducible apply keep_ite (Q := P)
    | with_reducible apply keep_foldl (Q := P)
    | simp only [keep_mk hS]
    | with_reducible apply OptInv.none
    | with_reducible apply OptInv.some
    | split
    | dsimp only

theorem execStashPurgeWrite_keeps {P : State → Prop} (hP : Writes P) {acc : Accessor} {cd : Fin 8} {v : Word64} {s : State} (h : P s) :
    OutInv P (execStashPurgeWrite acc cd v s) := by
  have hS := hP.toStable
  unfold execStashPurgeWrite
  repeat' first
    | with_reducible assumption
    | intro _
    | with_reducible apply State.regWrite_keeps hS
    | with_reducible apply State.purgeStash_keeps hP
    | with_reducible apply OutInv.next
    | with_reducible apply keep_foldl (Q := P)
    | with_reducible apply OptInv.some

theorem State.abandonStream_keeps {P : State → Prop} (hP : Writes P) {s : State} {cd : Nat} {se : Nat} {ch : Nat} {r : StreamRun} (h : P s) :
    P (State.abandonStream s cd se ch r) := by
  have hS := hP.toStable
  unfold State.abandonStream
  repeat' first
    | with_reducible assumption
    | intro _
    | with_reducible apply State.takeFree_keeps hS
    | with_reducible apply State.keepMove_keeps hS
    | with_reducible apply State.streamMoveBy_keeps hP
    | with_reducible apply State.poolWaited_keeps hS
    | with_reducible apply State.releaseRead_keeps hS
    | with_reducible apply State.setStashEntry_keeps hS
    | with_reducible apply State.freeChannel_keeps hS
    | with_reducible apply Inv2.get (P := P)
    | with_reducible apply keep_ite (Q := P)
    | with_reducible apply keep_ite (Q := Inv2 P)
    | with_reducible apply keep_ite (Q := MoverInv P)
    | simp only [keep_mk hS]
    | simp only [Inv2.iff]
    | simp only [MoverInv.iff]
    | with_reducible apply MoverInv.st (P := P)
    | with_reducible apply OptInv.none
    | with_reducible apply OptInv.some
    | split
    | refine Inv2.of_eq (P := P) ?_ (by with_reducible assumption)
    | exact Inv2.unmk (P := P) (by with_reducible assumption)
    | dsimp only

end Sys2Proof.Machine
end

