-- ==== Sys2Proof/Laws/KeepsVirtual.lean ====
section
/-! SUPPORT. What the operations of Machine/Virtual.lean keep (Laws/Keeps.lean). -/

namespace Sys2Proof.Machine

theorem State.vaWord_keeps {P : State → Prop} (hP : Writes P) {s : State} {req : Requester} {slot : Nat} {va : Nat} (h : P s) :
    Inv2 P (State.vaWord s req slot va) := by
  have hS := hP.toStable
  unfold State.vaWord
  repeat' first
    | with_reducible assumption
    | with_reducible apply State.readFor_keeps hP
    | with_reducible apply keep_ite (Q := Inv2 P)
    | simp only [Inv2.iff]
    | split

theorem State.vaWords_keeps {P : State → Prop} (hP : Writes P) {req : Requester} {slot : Nat} {x : Nat} {x1 : Nat} {x2 : List MByte} {x3 : State} (h : P x3) :
    Inv2 P (State.vaWords req slot x x1 x2 x3) := by
  have hS := hP.toStable
  induction x generalizing req slot x1 x2 x3 with
  | zero =>
    unfold State.vaWords
    repeat' first
      | with_reducible assumption
      | with_reducible apply State.vaWord_keeps hP
      | simp only [keep_mk hS]
      | simp only [Inv2.iff]
      | split
      | refine Inv2.of_eq (P := P) ?_ (by with_reducible assumption)
  | succ n ih =>
    unfold State.vaWords
    repeat' first
      | with_reducible apply ih
      | with_reducible assumption
      | with_reducible apply State.vaWord_keeps hP
      | simp only [keep_mk hS]
      | simp only [Inv2.iff]
      | split
      | refine Inv2.of_eq (P := P) ?_ (by with_reducible assumption)

theorem State.vaRead_keeps {P : State → Prop} (hP : Writes P) {s : State} {req : Requester} {slot : Nat} {va : Nat} {n : Nat} (h : P s) :
    Inv2 P (State.vaRead s req slot va n) := by
  have hS := hP.toStable
  unfold State.vaRead
  repeat' first
    | with_reducible assumption
    | intro _
    | with_reducible apply State.vaWords_keeps hP
    | with_reducible apply State.touchPages_keeps hP
    | with_reducible apply Inv2.get (P := P)
    | with_reducible apply keep_ite (Q := P)
    | with_reducible apply keep_ite (Q := Inv2 P)
    | simp only [keep_mk hS]
    | simp only [Inv2.iff]
    | split
    | refine Inv2.of_eq (P := P) ?_ (by with_reducible assumption)
    | exact Inv2.unmk (P := P) (by with_reducible assumption)
    | dsimp only

theorem State.vaWrite_keeps {P : State → Prop} (hP : Writes P) {s : State} {req : Requester} {slot : Nat} {va : Nat} {bs : List Byte} {poison : Bool} {isSealed : Bool} (h : P s) :
    P (State.vaWrite s req slot va bs poison isSealed) := by
  have hS := hP.toStable
  unfold State.vaWrite
  repeat' first
    | with_reducible assumption
    | intro _
    | with_reducible apply State.mergeWord_keeps hP
    | with_reducible apply State.touchPages_keeps hP
    | with_reducible apply keep_ite (Q := P)
    | with_reducible apply keep_foldl (Q := P)
    | simp only [keep_mk hS]
    | split
    | dsimp only

theorem State.vaStore_keeps {P : State → Prop} (hP : Writes P) {s : State} {req : Requester} {slot : Nat} {va : Nat} {bs : List MByte} (h : P s) :
    P (State.vaStore s req slot va bs) := by
  have hS := hP.toStable
  unfold State.vaStore
  repeat' first
    | with_reducible assumption
    | intro _
    | with_reducible apply State.vaWrite_keeps hP
    | with_reducible apply InvL.get (P := P)
    | with_reducible apply keep_foldl (Q := InvL P)
    | simp only [keep_mk hS]
    | simp only [InvL.iff]

end Sys2Proof.Machine
end

