-- ==== Sys2Proof/Laws/KeepsHuward.lean ====
section
/-! SUPPORT. What the operations of Machine/Huward.lean keep (Laws/Keeps.lean). -/

namespace Sys2Proof.Machine

theorem State.setPort_keeps {P : State → Prop} (hS : Stable P) {s : State} {p : Nat} {x : Port} (h : P s) :
    P (State.setPort s p x) := by
  unfold State.setPort
  repeat' first
    | with_reducible assumption
    | simp only [keep_mk hS]

theorem State.modPort_keeps {P : State → Prop} (hS : Stable P) {s : State} {p : Nat} {g : Port → Port} (h : P s) :
    P (State.modPort s p g) := by
  unfold State.modPort
  repeat' first
    | with_reducible assumption
    | with_reducible apply State.setPort_keeps hS

theorem State.setHl_keeps {P : State → Prop} (hS : Stable P) {s : State} {f : Fld} {p : Nat} {v : Nat} {i : Nat} (h : P s) :
    P (State.setHl s f p v i) := by
  unfold State.setHl
  repeat' first
    | with_reducible assumption
    | with_reducible apply State.setFld_keeps hS

theorem State.hlInc_keeps {P : State → Prop} (hS : Stable P) {s : State} {f : Fld} {p : Nat} {n : Nat} (h : P s) :
    P (State.hlInc s f p n) := by
  unfold State.hlInc
  repeat' first
    | with_reducible assumption
    | with_reducible apply State.incFld_keeps hS

theorem State.raiseHl_keeps {P : State → Prop} (hS : Stable P) {s : State} {e : Ev} {r : Reg} {p : Nat} (h : P s) :
    P (State.raiseHl s e r p) := by
  unfold State.raiseHl
  repeat' first
    | with_reducible assumption
    | with_reducible apply State.raise_keeps hS

theorem State.countMisroute_keeps {P : State → Prop} (hS : Stable P) {s : State} (h : P s) :
    P (State.countMisroute s) := by
  unfold State.countMisroute
  repeat' first
    | with_reducible assumption
    | with_reducible apply State.incFld_keeps hS

theorem State.misroute_keeps {P : State → Prop} (hS : Stable P) {s : State} (h : P s) :
    P (State.misroute s) := by
  unfold State.misroute
  repeat' first
    | with_reducible assumption
    | with_reducible apply State.raise_keeps hS
    | with_reducible apply State.countMisroute_keeps hS

theorem State.freeFrame_keeps {P : State → Prop} (hS : Stable P) {s : State} {f : LinkFrame} (h : P s) :
    P (State.freeFrame s f) := by
  unfold State.freeFrame
  repeat' first
    | with_reducible assumption
    | with_reducible apply State.modPort_keeps hS
    | split

theorem State.emitFlit_keeps {P : State → Prop} (hS : Stable P) {s : State} {p : Nat} {f : TxFlit} (h : P s) :
    P (State.emitFlit s p f) := by
  unfold State.emitFlit
  repeat' first
    | with_reducible assumption
    | with_reducible apply State.setPort_keeps hS
    | with_reducible apply State.hlInc_keeps hS
    | with_reducible apply keep_ite (Q := P)
    | simp only [keep_mk hS]

theorem State.sendFlit_keeps {P : State → Prop} (hS : Stable P) {s : State} {p : Nat} {kind : Nat} {vc : Nat} {body : List Byte} (h : P s) :
    P (State.sendFlit s p kind vc body) := by
  unfold State.sendFlit
  repeat' first
    | with_reducible assumption
    | with_reducible apply State.emitFlit_keeps hS
    | with_reducible apply State.setPort_keeps hS

theorem State.idleFlit_keeps {P : State → Prop} (hS : Stable P) {s : State} {p : Nat} (h : P s) :
    P (State.idleFlit s p) := by
  unfold State.idleFlit
  repeat' first
    | with_reducible assumption
    | with_reducible apply State.emitFlit_keeps hS
    | with_reducible apply keep_ite (Q := P)

theorem State.replayAll_keeps {P : State → Prop} (hS : Stable P) {s : State} {p : Nat} (h : P s) :
    P (State.replayAll s p) := by
  unfold State.replayAll
  repeat' first
    | with_reducible assumption
    | intro _
    | with_reducible apply State.emitFlit_keeps hS
    | with_reducible apply State.hlInc_keeps hS
    | with_reducible apply keep_ite (Q := P)
    | with_reducible apply keep_foldl (Q := P)

theorem State.pumpPicot_keeps {P : State → Prop} (hS : Stable P) {s : State} {p : Nat} (h : P s) :
    OptInv P (State.pumpPicot s p) := by
  unfold State.pumpPicot
  repeat' first
    | with_reducible assumption
    | with_reducible apply State.setPort_keeps hS
    | with_reducible apply State.sendFlit_keeps hS
    | with_reducible apply State.hlInc_keeps hS
    | with_reducible apply keep_ite (Q := OptInv P)
    | simp only [keep_mk hS]
    | with_reducible apply OptInv.none
    | with_reducible apply OptInv.some
    | split

theorem State.beginFrame_keeps {P : State → Prop} (hS : Stable P) {s : State} {p : Nat} {f : LinkFrame} (h : P s) :
    P (State.beginFrame s p f) := by
  unfold State.beginFrame
  repeat' first
    | with_reducible assumption
    | intro _
    | with_reducible apply State.modPort_keeps hS
    | with_reducible apply keep_ite (Q := P)
    | with_reducible apply keep_foldl (Q := P)
    | with_reducible apply OptInv.getD (Q := P)
    | simp only [keep_mk hS]
    | split
    | dsimp only

theorem State.egress_keeps {P : State → Prop} (hS : Stable P) {s : State} {p : Nat} {relayed : Bool} {f : LinkFrame} (h : P s) :
    P (State.egress s p relayed f) := by
  unfold State.egress
  repeat' first
    | with_reducible assumption
    | intro _
    | with_reducible apply State.freeFrame_keeps hS
    | with_reducible apply State.raiseHl_keeps hS
    | with_reducible apply State.setHl_keeps hS
    | with_reducible apply State.hlInc_keeps hS
    | with_reducible apply State.beginFrame_keeps hS
    | with_reducible apply keep_ite (Q := P)
    | simp only [keep_mk hS]
    | split
    | dsimp only

theorem State.pumpFrame_keeps {P : State → Prop} (hS : Stable P) {s : State} {p : Nat} (h : P s) :
    OptInv P (State.pumpFrame s p) := by
  unfold State.pumpFrame
  repeat' first
    | with_reducible assumption
    | intro _
    | with_reducible apply State.egress_keeps hS
    | with_reducible apply State.setPort_keeps hS
    | with_reducible apply keep_ite (Q := OptInv P)
    | with_reducible apply OptInv.findSome
    | simp only [keep_mk hS]
    | with_reducible apply OptInv.none
    | with_reducible apply OptInv.some
    | split

theorem State.pumpFlit_keeps {P : State → Prop} (hS : Stable P) {s : State} {p : Nat} (h : P s) :
    OptInv P (State.pumpFlit s p) := by
  unfold State.pumpFlit
  repeat' first
    | with_reducible assumption
    | intro _
    | with_reducible apply State.sendFlit_keeps hS
    | with_reducible apply State.modPort_keeps hS
    | with_reducible apply State.pumpFrame_keeps hS
    | with_reducible apply keep_ite (Q := P)
    | with_reducible apply keep_ite (Q := OptInv P)
    | with_reducible apply OptInv.mapQ (R := P)
    | with_reducible apply OptInv.mapQ (R := Inv2 P)
    | with_reducible apply OptInv.mapQ (R := Inv3 P)
    | with_reducible apply OptInv.mapQ (R := Inv4 P)
    | with_reducible apply OptInv.map
    | simp only [keep_mk hS]
    | with_reducible apply OptInv.none
    | with_reducible apply OptInv.some
    | split
    | refine OptInv.get (Q := P) ?_ (by with_reducible assumption)
    | dsimp only

theorem State.pumpPort_keeps {P : State → Prop} (hS : Stable P) {p : Nat} {x : Nat} {x1 : State} (h : P x1) :
    P (State.pumpPort p x x1) := by
  induction x generalizing p x1 with
  | zero =>
    unfold State.pumpPort
    repeat' first
      | with_reducible assumption
      | intro _
      | with_reducible apply State.modPort_keeps hS
      | with_reducible apply State.pumpPicot_keeps hS
      | with_reducible apply State.pumpFlit_keeps hS
      | with_reducible apply keep_ite (Q := P)
      | with_reducible apply keep_ite (Q := OptInv P)
      | simp only [keep_mk hS]
      | with_reducible apply OptInv.none
      | with_reducible apply OptInv.some
      | split
      | refine OptInv.get (Q := P) ?_ (by with_reducible assumption)
      | dsimp only
  | succ n ih =>
    unfold State.pumpPort
    repeat' first
      | with_reducible apply ih
      | with_reducible assumption
      | intro _
      | with_reducible apply State.modPort_keeps hS
      | with_reducible apply State.pumpPicot_keeps hS
      | with_reducible apply State.pumpFlit_keeps hS
      | with_reducible apply keep_ite (Q := P)
      | with_reducible apply keep_ite (Q := OptInv P)
      | simp only [keep_mk hS]
      | with_reducible apply OptInv.none
      | with_reducible apply OptInv.some
      | split
      | refine OptInv.get (Q := P) ?_ (by with_reducible assumption)
      | dsimp only

theorem State.passSlots_keeps {P : State → Prop} (hS : Stable P) {s : State} {p : Nat} (h : P s) :
    P (State.passSlots s p) := by
  unfold State.passSlots
  repeat' first
    | with_reducible assumption
    | intro _
    | with_reducible apply State.modPort_keeps hS
    | with_reducible apply keep_ite (Q := P)
    | simp only [keep_mk hS]
    | split
    | dsimp only

theorem State.pump_keeps {P : State → Prop} (hS : Stable P) {s : State} (h : P s) :
    P (State.pump s) := by
  unfold State.pump
  repeat' first
    | with_reducible assumption
    | intro _
    | with_reducible apply State.pumpPicot_keeps hS
    | with_reducible apply State.pumpFlit_keeps hS
    | with_reducible apply State.pumpPort_keeps hS
    | with_reducible apply State.passSlots_keeps hS
    | with_reducible apply keep_ite (Q := P)
    | with_reducible apply keep_ite (Q := OptInv P)
    | with_reducible apply keep_foldl (Q := P)
    | with_reducible apply keep_foldl (Q := OptInv P)
    | simp only [keep_mk hS]
    | split
    | refine OptInv.get (Q := P) ?_ (by with_reducible assumption)
    | dsimp only

theorem State.placeFrame_keeps {P : State → Prop} (hS : Stable P) {s : State} {h : HeldFrame} (hi : P s) :
    P (State.placeFrame s h) := by
  unfold State.placeFrame
  repeat' first
    | with_reducible assumption
    | with_reducible apply State.modPort_keeps hS
    | simp only [keep_mk hS]
    | split

theorem State.placeHeld_keeps {P : State → Prop} (hS : Stable P) {s : State} (h : P s) :
    P (State.placeHeld s) := by
  unfold State.placeHeld
  repeat' first
    | with_reducible assumption
    | intro _
    | with_reducible apply State.placeFrame_keeps hS
    | with_reducible apply keep_foldl (Q := P)
    | simp only [keep_mk hS]

theorem State.unplace_keeps {P : State → Prop} (hS : Stable P) {s : State} {p : Nat} {role : Nat} (h : P s) :
    P (State.unplace s p role) := by
  unfold State.unplace
  repeat' first
    | with_reducible assumption
    | with_reducible apply State.setPort_keeps hS
    | simp only [keep_mk hS]

theorem State.dropQueued_keeps {P : State → Prop} (hS : Stable P) {s : State} {p : Nat} (h : P s) :
    P (State.dropQueued s p) := by
  unfold State.dropQueued
  repeat' first
    | with_reducible assumption
    | intro _
    | with_reducible apply State.setPort_keeps hS
    | with_reducible apply State.freeFrame_keeps hS
    | with_reducible apply keep_foldl (Q := P)

theorem State.setColls_keeps {P : State → Prop} (hS : Stable P) {s : State} {re : Nat} {slot : Nat} {cs : List Coll} (h : P s) :
    P (State.setColls s re slot cs) := by
  unfold State.setColls
  repeat' first
    | with_reducible assumption
    | simp only [keep_mk hS]

theorem State.setLanded_keeps {P : State → Prop} (hS : Stable P) {s : State} {re : Nat} {slot : Nat} {ls : List Landed} (h : P s) :
    P (State.setLanded s re slot ls) := by
  unfold State.setLanded
  repeat' first
    | with_reducible assumption
    | simp only [keep_mk hS]

theorem State.countStale_keeps {P : State → Prop} (hS : Stable P) {s : State} {slot : Nat} {tag : Nat} (h : P s) :
    P (State.countStale s slot tag) := by
  unfold State.countStale
  repeat' first
    | with_reducible assumption
    | with_reducible apply State.incFld_keeps hS

theorem State.landFrame_keeps {P : State → Prop} (hP : Writes P) {s : State} {f : LinkFrame} (h : P s) :
    P (State.landFrame s f) := by
  have hS := hP.toStable
  unfold State.landFrame
  repeat' first
    | with_reducible assumption
    | with_reducible apply State.freeFrame_keeps hS
    | with_reducible apply State.countStale_keeps hS
    | with_reducible apply State.vaStore_keeps hP
    | with_reducible apply State.setLanded_keeps hS
    | with_reducible apply State.setColls_keeps hS
    | with_reducible apply keep_ite (Q := P)
    | simp only [keep_mk hS]
    | split

theorem State.deliverFrame_keeps {P : State → Prop} (hP : Writes P) {s : State} {f : LinkFrame} (h : P s) :
    P (State.deliverFrame s f) := by
  have hS := hP.toStable
  unfold State.deliverFrame
  repeat' first
    | with_reducible assumption
    | with_reducible apply State.landFrame_keeps hP
    | with_reducible apply keep_ite (Q := P)
    | simp only [keep_mk hS]

theorem State.routeFrame_keeps {P : State → Prop} (hP : Writes P) {s : State} {f : LinkFrame} (h : P s) :
    P (State.routeFrame s f) := by
  have hS := hP.toStable
  unfold State.routeFrame
  repeat' first
    | with_reducible assumption
    | with_reducible apply State.deliverFrame_keeps hP
    | with_reducible apply State.misroute_keeps hS
    | with_reducible apply State.freeFrame_keeps hS
    | with_reducible apply State.placeFrame_keeps hS
    | with_reducible apply keep_ite (Q := P)
    | simp only [keep_mk hS]
    | split

theorem State.sendFrame_keeps {P : State → Prop} (hP : Writes P) {s : State} {f : LinkFrame} (h : P s) :
    P (State.sendFrame s f) := by
  have hS := hP.toStable
  unfold State.sendFrame
  repeat' first
    | with_reducible assumption
    | with_reducible apply State.pump_keeps hS
    | with_reducible apply State.routeFrame_keeps hP

theorem State.queuePicot_keeps {P : State → Prop} (hS : Stable P) {s : State} {p : Nat} {m : List Byte} (h : P s) :
    P (State.queuePicot s p m) := by
  unfold State.queuePicot
  repeat' first
    | with_reducible assumption
    | with_reducible apply State.modPort_keeps hS

theorem State.freePicot_keeps {P : State → Prop} (hS : Stable P) {s : State} {p : Nat} (h : P s) :
    P (State.freePicot s p) := by
  unfold State.freePicot
  repeat' first
    | with_reducible assumption
    | with_reducible apply State.modPort_keeps hS
    | with_reducible apply keep_ite (Q := P)

theorem State.deliverPicot_keeps {P : State → Prop} (hS : Stable P) {s : State} {p : Nat} {m : List Byte} (h : P s) :
    P (State.deliverPicot s p m) := by
  unfold State.deliverPicot
  repeat' first
    | with_reducible assumption
    | with_reducible apply State.countMisroute_keeps hS
    | with_reducible apply State.freePicot_keeps hS
    | with_reducible apply State.incFld_keeps hS
    | with_reducible apply keep_ite (Q := P)
    | simp only [keep_mk hS]

theorem State.routePicot_keeps {P : State → Prop} (hS : Stable P) {s : State} {p : Nat} {m : List Byte} (h : P s) :
    P (State.routePicot s p m) := by
  unfold State.routePicot
  repeat' first
    | with_reducible assumption
    | with_reducible apply State.deliverPicot_keeps hS
    | with_reducible apply State.misroute_keeps hS
    | with_reducible apply State.freePicot_keeps hS
    | with_reducible apply State.queuePicot_keeps hS
    | with_reducible apply keep_ite (Q := P)
    | split

theorem State.sendPicot_keeps {P : State → Prop} (hS : Stable P) {s : State} {m : List Byte} (h : P s) :
    P (State.sendPicot s m) := by
  unfold State.sendPicot
  repeat' first
    | with_reducible assumption
    | with_reducible apply State.pump_keeps hS
    | with_reducible apply State.routePicot_keeps hS

theorem State.sendPicotOn_keeps {P : State → Prop} (hS : Stable P) {s : State} {p : Nat} {m : List Byte} (h : P s) :
    P (State.sendPicotOn s p m) := by
  unfold State.sendPicotOn
  repeat' first
    | with_reducible assumption
    | with_reducible apply State.pump_keeps hS
    | with_reducible apply State.queuePicot_keeps hS

theorem State.takeMsg_keeps {P : State → Prop} (hS : Stable P) {s : State} {want : List Byte → Bool} (h : P s) :
    OptInv (Inv3 P) (State.takeMsg s want) := by
  unfold State.takeMsg
  repeat' first
    | with_reducible assumption
    | with_reducible apply State.freePicot_keeps hS
    | simp only [keep_mk hS]
    | simp only [Inv3.iff]
    | with_reducible apply OptInv.none
    | with_reducible apply OptInv.some
    | split

theorem State.lossDetected_keeps {P : State → Prop} (hS : Stable P) {s : State} {p : Nat} (h : P s) :
    P (State.lossDetected s p) := by
  unfold State.lossDetected
  repeat' first
    | with_reducible assumption
    | with_reducible apply State.sendPicotOn_keeps hS
    | with_reducible apply keep_ite (Q := P)
    | simp only [keep_mk hS]
    | split

theorem State.declareUnfit_keeps {P : State → Prop} (hS : Stable P) {s : State} (h : P s) :
    P (State.declareUnfit s) := by
  unfold State.declareUnfit
  repeat' first
    | with_reducible assumption
    | intro _
    | with_reducible apply State.sendPicotOn_keeps hS
    | with_reducible apply keep_foldl (Q := P)
    | simp only [keep_mk hS]

theorem State.sealEnforce_keeps {P : State → Prop} (hS : Stable P) {s : State} {p : Nat} (h : P s) :
    P (State.sealEnforce s p) := by
  unfold State.sealEnforce
  repeat' first
    | with_reducible assumption
    | with_reducible apply State.raiseHl_keeps hS
    | with_reducible apply State.setHl_keeps hS
    | with_reducible apply keep_ite (Q := P)

theorem State.evalCompat_keeps {P : State → Prop} (hS : Stable P) {s : State} {p : Nat} (h : P s) :
    P (State.evalCompat s p) := by
  unfold State.evalCompat
  repeat' first
    | with_reducible assumption
    | with_reducible apply State.setHl_keeps hS
    | with_reducible apply State.modPort_keeps hS
    | with_reducible apply State.raiseHl_keeps hS
    | with_reducible apply State.pump_keeps hS
    | with_reducible apply State.placeHeld_keeps hS
    | with_reducible apply State.sealEnforce_keeps hS
    | with_reducible apply State.unplace_keeps hS
    | with_reducible apply keep_ite (Q := P)

theorem State.evalAll_keeps {P : State → Prop} (hS : Stable P) {s : State} (h : P s) :
    P (State.evalAll s) := by
  unfold State.evalAll
  repeat' first
    | with_reducible assumption
    | intro _
    | with_reducible apply State.evalCompat_keeps hS
    | with_reducible apply keep_foldl (Q := P)

theorem State.sendIdent_keeps {P : State → Prop} (hS : Stable P) {s : State} {p : Nat} {expect : Bool} (h : P s) :
    P (State.sendIdent s p expect) := by
  unfold State.sendIdent
  repeat' first
    | with_reducible assumption
    | with_reducible apply State.pump_keeps hS
    | with_reducible apply State.modPort_keeps hS

theorem State.enterState_keeps {P : State → Prop} (hS : Stable P) {s : State} {p : Nat} {st : Nat} (h : P s) :
    P (State.enterState s p st) := by
  unfold State.enterState
  repeat' first
    | with_reducible assumption
    | with_reducible apply State.modPort_keeps hS
    | with_reducible apply State.setHl_keeps hS

theorem State.leaveTraffic_keeps {P : State → Prop} (hS : Stable P) {s : State} {p : Nat} {st : Nat} (h : P s) :
    P (State.leaveTraffic s p st) := by
  unfold State.leaveTraffic
  repeat' first
    | with_reducible assumption
    | with_reducible apply State.setHl_keeps hS
    | with_reducible apply State.modPort_keeps hS
    | with_reducible apply State.unplace_keeps hS
    | with_reducible apply State.enterState_keeps hS
    | with_reducible apply State.sealEnforce_keeps hS
    | with_reducible apply State.lossDetected_keeps hS
    | with_reducible apply State.raiseHl_keeps hS
    | with_reducible apply keep_ite (Q := P)

theorem State.startTraining_keeps {P : State → Prop} (hS : Stable P) {s : State} {p : Nat} (h : P s) :
    P (State.startTraining s p) := by
  unfold State.startTraining
  repeat' first
    | with_reducible assumption
    | intro _
    | with_reducible apply State.setHl_keeps hS
    | with_reducible apply State.enterState_keeps hS
    | with_reducible apply State.modPort_keeps hS
    | with_reducible apply keep_foldl (Q := P)

theorem State.retrain_keeps {P : State → Prop} (hS : Stable P) {s : State} {p : Nat} (h : P s) :
    P (State.retrain s p) := by
  unfold State.retrain
  repeat' first
    | with_reducible assumption
    | with_reducible apply State.leaveTraffic_keeps hS
    | with_reducible apply State.startTraining_keeps hS
    | with_reducible apply State.hlInc_keeps hS
    | with_reducible apply keep_ite (Q := P)

theorem State.setEnRole_keeps {P : State → Prop} (hS : Stable P) {s : State} {p : Nat} {en : Nat} {role : Nat} (h : P s) :
    P (State.setEnRole s p en role) := by
  unfold State.setEnRole
  repeat' first
    | with_reducible assumption
    | with_reducible apply State.unplace_keeps hS
    | with_reducible apply State.setHl_keeps hS
    | with_reducible apply State.leaveTraffic_keeps hS
    | with_reducible apply State.startTraining_keeps hS
    | with_reducible apply State.sendIdent_keeps hS
    | with_reducible apply State.sealEnforce_keeps hS
    | with_reducible apply keep_ite (Q := P)

theorem State.writeHlCtl_keeps {P : State → Prop} (hS : Stable P) {s : State} {p : Nat} {v : Word64} (h : P s) :
    P (State.writeHlCtl s p v) := by
  unfold State.writeHlCtl
  repeat' first
    | with_reducible assumption
    | with_reducible apply State.setEnRole_keeps hS
    | with_reducible apply State.setHl_keeps hS
    | with_reducible apply State.retrain_keeps hS
    | with_reducible apply keep_ite (Q := P)

theorem State.excludeLane_keeps {P : State → Prop} (hS : Stable P) {s : State} {p : Nat} {i : Nat} {cause : Nat} {tx : Bool} {rx : Bool} (h : P s) :
    P (State.excludeLane s p i cause tx rx) := by
  unfold State.excludeLane
  repeat' first
    | with_reducible assumption
    | with_reducible apply State.setHl_keeps hS
    | with_reducible apply State.setBit_keeps hS
    | with_reducible apply State.raiseHl_keeps hS
    | with_reducible apply keep_ite (Q := P)

theorem State.chooseWidths_keeps {P : State → Prop} (hS : Stable P) {s : State} {p : Nat} {tx : Nat} {rx : Nat} (h : P s) :
    Inv2 P (State.chooseWidths s p tx rx) := by
  unfold State.chooseWidths
  repeat' first
    | with_reducible assumption
    | with_reducible apply State.leaveTraffic_keeps hS
    | with_reducible apply State.setHl_keeps hS
    | with_reducible apply State.raiseHl_keeps hS
    | with_reducible apply keep_ite (Q := Inv2 P)
    | simp only [keep_mk hS]
    | simp only [Inv2.iff]

theorem State.fastRetrain_keeps {P : State → Prop} (hS : Stable P) {s : State} {p : Nat} (h : P s) :
    P (State.fastRetrain s p) := by
  unfold State.fastRetrain
  repeat' first
    | with_reducible assumption
    | intro _
    | with_reducible apply State.setHl_keeps hS
    | with_reducible apply State.hlInc_keeps hS
    | with_reducible apply State.modPort_keeps hS
    | with_reducible apply State.enterState_keeps hS
    | with_reducible apply keep_ite (Q := P)
    | simp only [keep_mk hS]
    | split
    | dsimp only

theorem State.enterTraffic_keeps {P : State → Prop} (hS : Stable P) {s : State} {p : Nat} (h : P s) :
    P (State.enterTraffic s p) := by
  unfold State.enterTraffic
  repeat' first
    | with_reducible assumption
    | intro _
    | with_reducible apply State.enterState_keeps hS
    | with_reducible apply State.replayAll_keeps hS
    | with_reducible apply State.pump_keeps hS
    | with_reducible apply State.evalCompat_keeps hS
    | with_reducible apply State.modPort_keeps hS
    | with_reducible apply keep_ite (Q := P)
    | simp only [keep_mk hS]
    | split
    | dsimp only

theorem State.linkFail_keeps {P : State → Prop} (hS : Stable P) {s : State} {p : Nat} (h : P s) :
    P (State.linkFail s p) := by
  unfold State.linkFail
  repeat' first
    | with_reducible assumption
    | with_reducible apply State.idleFlit_keeps hS
    | with_reducible apply State.modPort_keeps hS

theorem State.inOrder_keeps {P : State → Prop} (hS : Stable P) {s : State} {p : Nat} (h : P s) :
    P (State.inOrder s p) := by
  unfold State.inOrder
  repeat' first
    | with_reducible assumption
    | with_reducible apply State.modPort_keeps hS

theorem State.whole_keeps {P : State → Prop} (hS : Stable P) {s : State} {p : Nat} (h : P s) :
    P (State.whole s p) := by
  unfold State.whole
  repeat' first
    | with_reducible assumption
    | with_reducible apply State.modPort_keeps hS

theorem State.closeFrame_keeps {P : State → Prop} (hS : Stable P) {s : State} {p : Nat} (h : P s) :
    P (State.closeFrame s p) := by
  unfold State.closeFrame
  repeat' first
    | with_reducible assumption
    | with_reducible apply State.whole_keeps hS
    | with_reducible apply State.setPort_keeps hS
    | with_reducible apply State.linkFail_keeps hS
    | with_reducible apply State.hlInc_keeps hS
    | with_reducible apply keep_ite (Q := P)

theorem State.dropFlit_keeps {P : State → Prop} (hS : Stable P) {s : State} {p : Nat} {vc : Nat} (h : P s) :
    P (State.dropFlit s p vc) := by
  unfold State.dropFlit
  repeat' first
    | with_reducible assumption
    | intro _
    | with_reducible apply State.modPort_keeps hS
    | with_reducible apply keep_ite (Q := P)
    | simp only [keep_mk hS]
    | split
    | dsimp only

theorem State.acceptFlit_keeps {P : State → Prop} (hS : Stable P) {s : State} {p : Nat} {kind : Nat} {vc : Nat} {seq : Nat} {body : List Byte} (h : P s) :
    P (State.acceptFlit s p kind vc seq body) := by
  unfold State.acceptFlit
  repeat' first
    | with_reducible assumption
    | intro _
    | with_reducible apply State.hlInc_keeps hS
    | with_reducible apply State.whole_keeps hS
    | with_reducible apply State.inOrder_keeps hS
    | with_reducible apply State.modPort_keeps hS
    | with_reducible apply State.pump_keeps hS
    | with_reducible apply State.routePicot_keeps hS
    | with_reducible apply State.linkFail_keeps hS
    | with_reducible apply State.countMisroute_keeps hS
    | with_reducible apply State.dropFlit_keeps hS
    | with_reducible apply State.closeFrame_keeps hS
    | with_reducible apply keep_ite (Q := P)
    | simp only [keep_mk hS]
    | split
    | dsimp only

theorem State.applyControl_keeps {P : State → Prop} (hS : Stable P) {s : State} {p : Nat} {w : Nat} (h : P s) :
    P (State.applyControl s p w) := by
  unfold State.applyControl
  repeat' first
    | with_reducible assumption
    | with_reducible apply State.setPort_keeps hS
    | with_reducible apply State.fastRetrain_keeps hS
    | with_reducible apply State.modPort_keeps hS
    | with_reducible apply State.setHl_keeps hS
    | with_reducible apply State.replayAll_keeps hS
    | with_reducible apply keep_ite (Q := P)

theorem State.receiveFlit_keeps {P : State → Prop} (hS : Stable P) {s : State} {p : Nat} {flit : List Byte} {corrected : Nat} {bad : Bool} (h : P s) :
    P (State.receiveFlit s p flit corrected bad) := by
  unfold State.receiveFlit
  repeat' first
    | with_reducible assumption
    | with_reducible apply State.hlInc_keeps hS
    | with_reducible apply State.linkFail_keeps hS
    | with_reducible apply State.applyControl_keeps hS
    | with_reducible apply State.pump_keeps hS
    | with_reducible apply State.acceptFlit_keeps hS
    | with_reducible apply keep_ite (Q := P)

theorem State.linkTick_keeps {P : State → Prop} (hS : Stable P) {s : State} (h : P s) :
    P (State.linkTick s) := by
  unfold State.linkTick
  repeat' first
    | with_reducible assumption
    | intro _
    | with_reducible apply State.idleFlit_keeps hS
    | with_reducible apply keep_foldl (Q := P)

theorem execHlEnWrite_keeps {P : State → Prop} (hS : Stable P) {acc : Accessor} {port : Fin 8} {v : Word64} {s : State} (h : P s) :
    OutInv P (execHlEnWrite acc port v s) := by
  unfold execHlEnWrite
  repeat' first
    | with_reducible assumption
    | intro _
    | with_reducible apply State.regWrite_keeps hS
    | with_reducible apply State.writeHlCtl_keeps hS
    | with_reducible apply OutInv.next
    | with_reducible apply OptInv.some

theorem execHlRoleChange_keeps {P : State → Prop} (hS : Stable P) {port : Fin 8} {role : Fin 8} {s : State} (h : P s) :
    OutInv P (execHlRoleChange port role s) := by
  unfold execHlRoleChange
  repeat' first
    | with_reducible assumption
    | with_reducible apply State.setEnRole_keeps hS
    | with_reducible apply OutInv.next

theorem execSealOkWrite_keeps {P : State → Prop} (hS : Stable P) {acc : Accessor} {port : Fin 8} {on : Bool} {s : State} (h : P s) :
    OutInv P (execSealOkWrite acc port on s) := by
  unfold execSealOkWrite
  repeat' first
    | with_reducible assumption
    | intro _
    | with_reducible apply State.regWrite_keeps hS
    | with_reducible apply State.setHl_keeps hS
    | with_reducible apply OutInv.next
    | with_reducible apply keep_ite (Q := P)
    | with_reducible apply OptInv.some

theorem execHlRetrain_keeps {P : State → Prop} (hS : Stable P) {acc : Accessor} {port : Fin 8} {s : State} (h : P s) :
    OutInv P (execHlRetrain acc port s) := by
  unfold execHlRetrain
  repeat' first
    | with_reducible assumption
    | intro _
    | with_reducible apply State.regWrite_keeps hS
    | with_reducible apply State.retrain_keeps hS
    | with_reducible apply OutInv.next
    | with_reducible apply OptInv.some

theorem execDetectComplete_keeps {P : State → Prop} (hS : Stable P) {port : Fin 8} {driven : BitVec 12} {txGnd : BitVec 12} {rxGnd : BitVec 12} {txSup : BitVec 12} {rxSup : BitVec 12} {txOpen : BitVec 12} {rxOpen : BitVec 12} {s : State} (h : P s) :
    OutInv P (execDetectComplete port driven txGnd rxGnd txSup rxSup txOpen rxOpen s) := by
  unfold execDetectComplete
  repeat' first
    | with_reducible assumption
    | intro _
    | with_reducible apply State.modPort_keeps hS
    | with_reducible apply State.leaveTraffic_keeps hS
    | with_reducible apply State.setHl_keeps hS
    | with_reducible apply State.raiseHl_keeps hS
    | with_reducible apply State.excludeLane_keeps hS
    | with_reducible apply State.enterState_keeps hS
    | with_reducible apply OutInv.next
    | with_reducible apply keep_ite (Q := P)
    | with_reducible apply keep_foldl (Q := P)

theorem execEqualizeComplete_keeps {P : State → Prop} (hS : Stable P) {port : Fin 8} {s : State} (h : P s) :
    OutInv P (execEqualizeComplete port s) := by
  unfold execEqualizeComplete
  repeat' first
    | with_reducible assumption
    | with_reducible apply State.enterState_keeps hS
    | with_reducible apply OutInv.next
    | with_reducible apply keep_ite (Q := P)

theorem execAlignComplete_keeps {P : State → Prop} (hS : Stable P) {port : Fin 8} {order : BitVec 48} {inverted : BitVec 12} {s : State} (h : P s) :
    OutInv P (execAlignComplete port order inverted s) := by
  unfold execAlignComplete
  repeat' first
    | with_reducible assumption
    | intro _
    | with_reducible apply State.setHl_keeps hS
    | with_reducible apply State.chooseWidths_keeps hS
    | with_reducible apply State.sendIdent_keeps hS
    | with_reducible apply State.enterState_keeps hS
    | with_reducible apply OutInv.next
    | with_reducible apply Inv2.get (P := P)
    | with_reducible apply keep_ite (Q := P)
    | with_reducible apply keep_foldl (Q := P)

theorem execTrainingTimeout_keeps {P : State → Prop} (hS : Stable P) {port : Fin 8} {s : State} (h : P s) :
    OutInv P (execTrainingTimeout port s) := by
  unfold execTrainingTimeout
  repeat' first
    | with_reducible assumption
    | with_reducible apply State.retrain_keeps hS
    | with_reducible apply OutInv.next
    | with_reducible apply keep_ite (Q := P)

theorem execCrossedRecheck_keeps {P : State → Prop} (hS : Stable P) {port : Fin 8} {s : State} (h : P s) :
    OutInv P (execCrossedRecheck port s) := by
  unfold execCrossedRecheck
  repeat' first
    | with_reducible assumption
    | with_reducible apply State.startTraining_keeps hS
    | with_reducible apply OutInv.next
    | with_reducible apply keep_ite (Q := P)

theorem execLaneLossOfLock_keeps {P : State → Prop} (hS : Stable P) {port : Fin 8} {lane : Fin 12} {s : State} (h : P s) :
    OutInv P (execLaneLossOfLock port lane s) := by
  unfold execLaneLossOfLock
  repeat' first
    | with_reducible assumption
    | with_reducible apply State.fastRetrain_keeps hS
    | with_reducible apply State.excludeLane_keeps hS
    | with_reducible apply OutInv.next
    | with_reducible apply keep_ite (Q := P)

theorem execLaneErrorRate_keeps {P : State → Prop} (hS : Stable P) {port : Fin 8} {lane : Fin 12} {s : State} (h : P s) :
    OutInv P (execLaneErrorRate port lane s) := by
  unfold execLaneErrorRate
  repeat' first
    | with_reducible assumption
    | with_reducible apply State.fastRetrain_keeps hS
    | with_reducible apply State.excludeLane_keeps hS
    | with_reducible apply OutInv.next
    | with_reducible apply keep_ite (Q := P)

theorem execFastRetrainComplete_keeps {P : State → Prop} (hS : Stable P) {port : Fin 8} {s : State} (h : P s) :
    OutInv P (execFastRetrainComplete port s) := by
  unfold execFastRetrainComplete
  repeat' first
    | with_reducible assumption
    | with_reducible apply State.enterTraffic_keeps hS
    | with_reducible apply State.modPort_keeps hS
    | with_reducible apply OutInv.next
    | with_reducible apply keep_ite (Q := P)

theorem execFlitReceive_keeps {P : State → Prop} (hS : Stable P) {port : Fin 8} {flit : List Byte} {corrected : Nat} {bad : Bool} {s : State} (h : P s) :
    OutInv P (execFlitReceive port flit corrected bad s) := by
  unfold execFlitReceive
  repeat' first
    | with_reducible assumption
    | with_reducible apply State.receiveFlit_keeps hS
    | with_reducible apply OutInv.next

theorem execFrameReceive_keeps {P : State → Prop} (hP : Writes P) {port : Fin 8} {s : State} (h : P s) :
    OutInv P (execFrameReceive port s) := by
  have hS := hP.toStable
  unfold execFrameReceive
  repeat' first
    | with_reducible assumption
    | with_reducible apply State.modPort_keeps hS
    | with_reducible apply State.countMisroute_keeps hS
    | with_reducible apply State.freeFrame_keeps hS
    | with_reducible apply State.pump_keeps hS
    | with_reducible apply State.routeFrame_keeps hP
    | with_reducible apply OutInv.next
    | with_reducible apply keep_ite (Q := P)
    | simp only [keep_mk hS]
    | split

theorem execHoldLimitExpiry_keeps {P : State → Prop} (hS : Stable P) {s : State} (h : P s) :
    OutInv P (execHoldLimitExpiry s) := by
  unfold execHoldLimitExpiry
  repeat' first
    | with_reducible assumption
    | with_reducible apply State.incFld_keeps hS
    | with_reducible apply State.freeFrame_keeps hS
    | with_reducible apply State.raiseHl_keeps hS
    | with_reducible apply State.modPort_keeps hS
    | with_reducible apply OutInv.next
    | with_reducible apply keep_ite (Q := P)
    | simp only [keep_mk hS]
    | split

theorem execHeartbeatSend_keeps {P : State → Prop} (hS : Stable P) {port : Fin 8} {s : State} (h : P s) :
    OutInv P (execHeartbeatSend port s) := by
  unfold execHeartbeatSend
  repeat' first
    | with_reducible assumption
    | with_reducible apply State.sendPicotOn_keeps hS
    | with_reducible apply State.setPort_keeps hS
    | with_reducible apply OutInv.next
    | with_reducible apply keep_ite (Q := P)

theorem execHeartbeat_keeps {P : State → Prop} (hS : Stable P) {s : State} (h : P s) :
    OutInv P (execHeartbeat s) := by
  unfold execHeartbeat
  repeat' first
    | with_reducible assumption
    | with_reducible apply State.takeMsg_keeps hS
    | with_reducible apply State.setHl_keeps hS
    | with_reducible apply State.modPort_keeps hS
    | with_reducible apply State.sealEnforce_keeps hS
    | with_reducible apply State.evalCompat_keeps hS
    | with_reducible apply OutInv.next
    | simp only [keep_mk hS]
    | split
    | refine Inv3.unmk (P := P) (OptInv.get (Q := Inv3 P) ?_ (by with_reducible assumption))

theorem execHeartbeatLoss_keeps {P : State → Prop} (hS : Stable P) {port : Fin 8} {s : State} (h : P s) :
    OutInv P (execHeartbeatLoss port s) := by
  unfold execHeartbeatLoss
  repeat' first
    | with_reducible assumption
    | with_reducible apply State.raiseHl_keeps hS
    | with_reducible apply State.setHl_keeps hS
    | with_reducible apply State.sealEnforce_keeps hS
    | with_reducible apply State.modPort_keeps hS
    | with_reducible apply State.lossDetected_keeps hS
    | with_reducible apply OutInv.next
    | with_reducible apply keep_ite (Q := P)

theorem execAliveLimitExpiry_keeps {P : State → Prop} (hS : Stable P) {s : State} (h : P s) :
    OutInv P (execAliveLimitExpiry s) := by
  unfold execAliveLimitExpiry
  repeat' first
    | with_reducible assumption
    | with_reducible apply OutInv.next
    | with_reducible apply keep_ite (Q := P)
    | simp only [keep_mk hS]

theorem execHlmAlive_keeps {P : State → Prop} (hS : Stable P) {acc : Accessor} {v : Word64} {s : State} (h : P s) :
    OutInv P (execHlmAlive acc v s) := by
  unfold execHlmAlive
  repeat' first
    | with_reducible assumption
    | intro _
    | with_reducible apply State.regWrite_keeps hS
    | with_reducible apply OutInv.next
    | with_reducible apply keep_ite (Q := P)
    | simp only [keep_mk hS]
    | with_reducible apply OptInv.some

theorem execIdent_keeps {P : State → Prop} (hS : Stable P) {s : State} (h : P s) :
    OutInv P (execIdent s) := by
  unfold execIdent
  repeat' first
    | with_reducible assumption
    | with_reducible apply State.takeMsg_keeps hS
    | with_reducible apply State.setHl_keeps hS
    | with_reducible apply State.modPort_keeps hS
    | with_reducible apply State.chooseWidths_keeps hS
    | with_reducible apply State.enterTraffic_keeps hS
    | with_reducible apply State.evalCompat_keeps hS
    | with_reducible apply State.sendIdent_keeps hS
    | with_reducible apply OutInv.next
    | with_reducible apply Inv2.get (P := P)
    | with_reducible apply keep_ite (Q := P)
    | simp only [keep_mk hS]
    | split
    | refine Inv3.unmk (P := P) (OptInv.get (Q := Inv3 P) ?_ (by with_reducible assumption))

end Sys2Proof.Machine
end

