-- ==== Sys2Proof/Laws/KeepsCommit.lean ====
section
/-! SUPPORT. What the operations of Machine/Commit.lean keep (Laws/Keeps.lean). -/

namespace Sys2Proof.Machine

theorem State.setVote_keeps {P : State → Prop} (hS : Stable P) {s : State} {slot : Nat} {v : Option Vote} (h : P s) :
    P (State.setVote s slot v) := by
  unfold State.setVote
  repeat' first
    | with_reducible assumption
    | simp only [keep_mk hS]

theorem State.cmtShow_keeps {P : State → Prop} (hS : Stable P) {s : State} {slot : Nat} (h : P s) :
    P (State.cmtShow s slot) := by
  unfold State.cmtShow
  repeat' first
    | with_reducible assumption
    | intro _
    | with_reducible apply State.setFld_keeps hS
    | with_reducible apply keep_ite (Q := P)
    | simp only [keep_mk hS]
    | with_reducible apply OptInv.none
    | with_reducible apply OptInv.some
    | split
    | dsimp only

theorem State.ueShow_keeps {P : State → Prop} (hS : Stable P) {s : State} (h : P s) :
    P (State.ueShow s) := by
  unfold State.ueShow
  repeat' first
    | with_reducible assumption
    | intro _
    | with_reducible apply State.setFld_keeps hS
    | with_reducible apply keep_ite (Q := P)
    | with_reducible apply keep_foldl (Q := P)
    | simp only [keep_mk hS]
    | with_reducible apply OptInv.none
    | with_reducible apply OptInv.some
    | split
    | dsimp only

theorem State.voteTryOpen_keeps {P : State → Prop} (hS : Stable P) {s : State} {slot : Nat} (h : P s) :
    P (State.voteTryOpen s slot) := by
  unfold State.voteTryOpen
  repeat' first
    | with_reducible assumption
    | intro _
    | with_reducible apply State.setSync_keeps hS
    | with_reducible apply State.setVote_keeps hS
    | with_reducible apply State.setFld_keeps hS
    | with_reducible apply keep_ite (Q := P)
    | with_reducible apply keep_foldl (Q := P)

theorem State.segment_keeps {P : State → Prop} (hP : Writes P) {s : State} {hub : Nat} {n : Nat} {slot : Nat} {i : Nat} (h : P s) :
    Inv2 P (State.segment s hub n slot i) := by
  have hS := hP.toStable
  unfold State.segment
  repeat' first
    | with_reducible assumption
    | intro _
    | with_reducible apply State.vaRead_keeps hP
    | with_reducible apply Inv2.get (P := P)
    | with_reducible apply keep_ite (Q := P)
    | with_reducible apply keep_ite (Q := Inv2 P)
    | simp only [keep_mk hS]
    | simp only [Inv2.iff]
    | split
    | refine Inv2.of_eq (P := P) ?_ (by with_reducible assumption)
    | exact Inv2.unmk (P := P) (by with_reducible assumption)
    | dsimp only

theorem State.checkSegments_keeps {P : State → Prop} (hP : Writes P) {s : State} {slot : Nat} {t : List (Key × Nat)} (h : P s) :
    Inv2 P (State.checkSegments s slot t) := by
  have hS := hP.toStable
  unfold State.checkSegments
  repeat' first
    | with_reducible assumption
    | intro _
    | with_reducible apply State.segment_keeps hP
    | with_reducible apply State.setFld_keeps hS
    | with_reducible apply Inv2.get (P := P)
    | with_reducible apply keep_ite (Q := P)
    | with_reducible apply keep_ite (Q := Inv2 P)
    | with_reducible apply keep_foldl (Q := P)
    | with_reducible apply keep_foldl (Q := Inv2 P)
    | simp only [keep_mk hS]
    | simp only [Inv2.iff]
    | with_reducible apply OptInv.none
    | with_reducible apply OptInv.some
    | split
    | refine Inv2.of_eq (P := P) ?_ (by with_reducible assumption)
    | exact Inv2.unmk (P := P) (by with_reducible assumption)
    | dsimp only

theorem State.sendTo_keeps {P : State → Prop} (hS : Stable P) {s : State} {pos : Nat} {kind : Nat} {slot : Nat} {gen : Nat} {payload : List Byte} (h : P s) :
    P (State.sendTo s pos kind slot gen payload) := by
  unfold State.sendTo
  repeat' first
    | with_reducible assumption
    | with_reducible apply State.sendPicotOn_keeps hS
    | with_reducible apply State.sendPicot_keeps hS
    | simp only [keep_mk hS]
    | split

theorem State.sendVote_keeps {P : State → Prop} (hS : Stable P) {s : State} {slot : Nat} {kind : Nat} {commit : Bool} {reasons : Nat} {step : Nat} (h : P s) :
    P (State.sendVote s slot kind commit reasons step) := by
  unfold State.sendVote
  repeat' first
    | with_reducible assumption
    | intro _
    | with_reducible apply State.sendTo_keeps hS
    | with_reducible apply keep_ite (Q := P)
    | simp only [keep_mk hS]
    | split
    | dsimp only

theorem State.setLscale_keeps {P : State → Prop} (hS : Stable P) {s : State} {slot : Nat} {e : Int} (h : P s) :
    P (State.setLscale s slot e) := by
  unfold State.setLscale
  repeat' first
    | with_reducible assumption
    | with_reducible apply State.setFld_keeps hS

theorem State.resolveScale_keeps {P : State → Prop} (hS : Stable P) {s : State} {slot : Nat} {commit : Bool} (h : P s) :
    P (State.resolveScale s slot commit) := by
  unfold State.resolveScale
  repeat' first
    | with_reducible assumption
    | with_reducible apply State.setFld_keeps hS
    | with_reducible apply State.setLscale_keeps hS
    | with_reducible apply State.incFld_keeps hS
    | with_reducible apply State.raise_keeps hS
    | with_reducible apply keep_ite (Q := P)

theorem State.setStep_keeps {P : State → Prop} (hS : Stable P) {s : State} {slot : Nat} {step : Nat} (h : P s) :
    P (State.setStep s slot step) := by
  unfold State.setStep
  repeat' first
    | with_reducible assumption
    | with_reducible apply State.setFld_keeps hS
    | with_reducible apply keep_ite (Q := P)

theorem State.storePowers_keeps {P : State → Prop} (hS : Stable P) {s : State} {slot : Nat} {t : List (Key × Nat)} (h : P s) :
    P (State.storePowers s slot t) := by
  unfold State.storePowers
  repeat' first
    | with_reducible assumption
    | intro _
    | with_reducible apply keep_ite (Q := P)
    | with_reducible apply keep_foldl (Q := P)
    | simp only [keep_mk hS]

theorem State.bumpSlot_keeps {P : State → Prop} (hS : Stable P) {s : State} {slot : Nat} {n : Nat} (h : P s) :
    P (State.bumpSlot s slot n) := by
  unfold State.bumpSlot
  repeat' first
    | with_reducible assumption
    | intro _
    | with_reducible apply State.bumpCnt_keeps hS
    | with_reducible apply keep_ite (Q := P)
    | with_reducible apply keep_foldl (Q := P)

theorem State.voteResolve_keeps {P : State → Prop} (hS : Stable P) {s : State} {slot : Nat} {v : Vote} {commit : Bool} {reasons : Nat} (h : P s) :
    P (State.voteResolve s slot v commit reasons) := by
  unfold State.voteResolve
  repeat' first
    | with_reducible assumption
    | intro _
    | with_reducible apply State.setFld_keeps hS
    | with_reducible apply State.setStep_keeps hS
    | with_reducible apply State.resolveScale_keeps hS
    | with_reducible apply State.raise_keeps hS
    | with_reducible apply State.setVote_keeps hS
    | with_reducible apply State.storePowers_keeps hS
    | with_reducible apply State.incFld_keeps hS
    | with_reducible apply State.ueShow_keeps hS
    | with_reducible apply State.bumpSlot_keeps hS
    | with_reducible apply State.voteTryOpen_keeps hS
    | with_reducible apply State.cmtShow_keeps hS
    | with_reducible apply keep_ite (Q := P)
    | simp only [keep_mk hS]
    | with_reducible apply OptInv.none
    | with_reducible apply OptInv.some
    | split
    | dsimp only

theorem State.joinGather_keeps {P : State → Prop} (hS : Stable P) {s : State} {slot : Nat} {v : Vote} {m : List Byte} (h : P s) :
    P (State.joinGather s slot v m) := by
  unfold State.joinGather
  repeat' first
    | with_reducible assumption
    | with_reducible apply State.sendVote_keeps hS
    | simp only [keep_mk hS]

theorem State.setAwaiting_keeps {P : State → Prop} (hS : Stable P) {s : State} {slot : Nat} {x : Option Nat} (h : P s) :
    P (State.setAwaiting s slot x) := by
  unfold State.setAwaiting
  repeat' first
    | with_reducible assumption
    | intro _
    | with_reducible apply keep_ite (Q := P)
    | simp only [keep_mk hS]
    | with_reducible apply OptInv.none
    | with_reducible apply OptInv.some
    | split
    | dsimp only

theorem State.voteDiscard_keeps {P : State → Prop} (hS : Stable P) {s : State} {slot : Nat} (h : P s) :
    P (State.voteDiscard s slot) := by
  unfold State.voteDiscard
  repeat' first
    | with_reducible assumption
    | with_reducible apply State.incFld_keeps hS

theorem execVoteLocalReady_keeps {P : State → Prop} (hP : Writes P) {slot : Fin 4} {s : State} (h : P s) :
    OutInv P (execVoteLocalReady slot s) := by
  have hS := hP.toStable
  unfold execVoteLocalReady
  repeat' first
    | with_reducible assumption
    | intro _
    | with_reducible apply State.checkSegments_keeps hP
    | with_reducible apply State.setFld_keeps hS
    | with_reducible apply State.setVote_keeps hS
    | with_reducible apply State.voteResolve_keeps hS
    | with_reducible apply State.sendVote_keeps hS
    | with_reducible apply State.joinGather_keeps hS
    | with_reducible apply OutInv.next
    | with_reducible apply Inv2.get (P := P)
    | with_reducible apply keep_ite (Q := P)
    | with_reducible apply keep_ite (Q := Inv2 P)
    | with_reducible apply keep_ite (Q := OutInv P)
    | simp only [keep_mk hS]
    | simp only [Inv2.iff]
    | with_reducible apply OptInv.none
    | with_reducible apply OptInv.some
    | split
    | refine Inv2.of_eq (P := P) ?_ (by with_reducible assumption)
    | exact Inv2.unmk (P := P) (by with_reducible assumption)
    | dsimp only

theorem execVoteGather_keeps {P : State → Prop} (hS : Stable P) {s : State} (h : P s) :
    OutInv P (execVoteGather s) := by
  unfold execVoteGather
  repeat' first
    | with_reducible assumption
    | intro _
    | with_reducible apply State.takeMsg_keeps hS
    | with_reducible apply State.voteDiscard_keeps hS
    | with_reducible apply State.voteResolve_keeps hS
    | with_reducible apply State.sendVote_keeps hS
    | with_reducible apply State.setAwaiting_keeps hS
    | with_reducible apply State.joinGather_keeps hS
    | with_reducible apply OutInv.next
    | with_reducible apply Inv3.get (P := P)
    | with_reducible apply keep_ite (Q := P)
    | with_reducible apply keep_ite (Q := OptInv (Inv3 P))
    | with_reducible apply keep_ite (Q := OutInv P)
    | simp only [keep_mk hS]
    | simp only [Inv3.iff]
    | simp only [Inv3.iff2]
    | with_reducible apply Inv2.snd
    | with_reducible apply OptInv.none
    | with_reducible apply OptInv.some
    | split
    | refine Inv3.of_eq (P := P) ?_ (by with_reducible assumption)
    | exact Inv3.unmk (P := P) (by with_reducible assumption)
    | refine Inv3.unmk (P := P) (OptInv.get (Q := Inv3 P) ?_ (by with_reducible assumption))
    | refine OptInv.get (Q := Inv3 P) ?_ (by with_reducible assumption)
    | dsimp only

theorem execVoteResult_keeps {P : State → Prop} (hS : Stable P) {s : State} (h : P s) :
    OutInv P (execVoteResult s) := by
  unfold execVoteResult
  repeat' first
    | with_reducible assumption
    | intro _
    | with_reducible apply State.takeMsg_keeps hS
    | with_reducible apply State.voteDiscard_keeps hS
    | with_reducible apply State.setAwaiting_keeps hS
    | with_reducible apply State.sendVote_keeps hS
    | with_reducible apply State.voteResolve_keeps hS
    | with_reducible apply OutInv.next
    | with_reducible apply Inv3.get (P := P)
    | with_reducible apply keep_ite (Q := P)
    | with_reducible apply keep_ite (Q := OptInv (Inv3 P))
    | with_reducible apply keep_ite (Q := OutInv P)
    | simp only [keep_mk hS]
    | simp only [Inv3.iff]
    | simp only [Inv3.iff2]
    | with_reducible apply Inv2.snd
    | with_reducible apply OptInv.none
    | with_reducible apply OptInv.some
    | split
    | refine Inv3.of_eq (P := P) ?_ (by with_reducible assumption)
    | exact Inv3.unmk (P := P) (by with_reducible assumption)
    | refine Inv3.unmk (P := P) (OptInv.get (Q := Inv3 P) ?_ (by with_reducible assumption))
    | refine OptInv.get (Q := Inv3 P) ?_ (by with_reducible assumption)
    | dsimp only

theorem execVoteTimeout_keeps {P : State → Prop} (hS : Stable P) {slot : Fin 4} {s : State} (h : P s) :
    OutInv P (execVoteTimeout slot s) := by
  unfold execVoteTimeout
  repeat' first
    | with_reducible assumption
    | with_reducible apply State.setFld_keeps hS
    | with_reducible apply State.setVote_keeps hS
    | with_reducible apply State.raise_keeps hS
    | with_reducible apply OutInv.next
    | with_reducible apply keep_ite (Q := P)
    | simp only [keep_mk hS]
    | split

theorem execNumStepWrite_keeps {P : State → Prop} (hS : Stable P) {acc : Accessor} {slot : Fin 4} {v : Word64} {s : State} (h : P s) :
    OutInv P (execNumStepWrite acc slot v s) := by
  unfold execNumStepWrite
  repeat' first
    | with_reducible assumption
    | intro _
    | with_reducible apply State.regWrite_keeps hS
    | with_reducible apply State.setStep_keeps hS
    | with_reducible apply OutInv.next
    | with_reducible apply OptInv.some

theorem State.updateBlock_keeps {P : State → Prop} (hP : Writes P) {s : State} {slot : Nat} {u : UpdateRule} {x : Segment} {b : Nat} (h : P s) :
    Inv2 P (State.updateBlock s slot u x b) := by
  have hS := hP.toStable
  unfold State.updateBlock
  repeat' first
    | with_reducible assumption
    | intro _
    | with_reducible apply State.vaRead_keeps hP
    | with_reducible apply State.vaStore_keeps hP
    | with_reducible apply Inv2.get (P := P)
    | with_reducible apply keep_ite (Q := P)
    | with_reducible apply keep_ite (Q := Inv2 P)
    | with_reducible apply keep_foldl (Q := Inv2 P)
    | simp only [keep_mk hS]
    | simp only [Inv2.iff]
    | split
    | refine Inv2.of_eq (P := P) ?_ (by with_reducible assumption)

theorem State.ueRecord_keeps {P : State → Prop} (hS : Stable P) {s : State} {hub : Nat} {n : Nat} {slot : Nat} {seg : Nat} {f : Fld} {e : Ev} (h : P s) :
    P (State.ueRecord s hub n slot seg f e) := by
  unfold State.ueRecord
  repeat' first
    | with_reducible assumption
    | with_reducible apply State.setFld_keeps hS
    | with_reducible apply State.raise_keeps hS

theorem State.ueBlock_keeps {P : State → Prop} (hP : Writes P) {hub : Nat} {n : Nat} {v : Update} {r : Bool × Bool × State} {k : Nat × SegRead × Nat} (h : Inv3 P r) :
    Inv3 P (State.ueBlock hub n v r k) := by
  have hS := hP.toStable
  unfold State.ueBlock
  repeat' first
    | with_reducible assumption
    | intro _
    | with_reducible apply State.ueRecord_keeps hS
    | with_reducible apply State.updateBlock_keeps hP
    | with_reducible apply State.incFld_keeps hS
    | with_reducible apply State.setFld_keeps hS
    | with_reducible apply State.raise_keeps hS
    | with_reducible apply Inv3.get (P := P)
    | with_reducible apply Inv2.get (P := P)
    | with_reducible apply keep_ite (Q := P)
    | with_reducible apply keep_ite (Q := Inv2 P)
    | with_reducible apply keep_ite (Q := Inv3 P)
    | simp only [keep_mk hS]
    | simp only [Inv2.iff]
    | simp only [Inv3.iff]
    | simp only [Inv3.iff2]
    | with_reducible apply Inv2.snd
    | with_reducible apply OptInv.none
    | with_reducible apply OptInv.some
    | split
    | refine Inv3.of_eq (P := P) ?_ (by with_reducible assumption)
    | exact Inv3.unmk (P := P) (by with_reducible assumption)
    | refine Inv2.of_eq (P := P) ?_ (by with_reducible assumption)
    | exact Inv2.unmk (P := P) (by with_reducible assumption)
    | dsimp only

theorem State.ueRun_keeps {P : State → Prop} (hP : Writes P) {s : State} {hub : Nat} {n : Nat} {v : Update} {work : List (Nat × SegRead × Nat)} (h : P s) :
    Inv3 P (State.ueRun s hub n v work) := by
  have hS := hP.toStable
  unfold State.ueRun
  repeat' first
    | with_reducible assumption
    | intro _
    | with_reducible apply State.ueBlock_keeps hP
    | with_reducible apply Inv3.get (P := P)
    | with_reducible apply Inv2.get (P := P)
    | with_reducible apply keep_ite (Q := P)
    | with_reducible apply keep_ite (Q := Inv2 P)
    | with_reducible apply keep_ite (Q := Inv3 P)
    | with_reducible apply keep_foldl (Q := P)
    | with_reducible apply keep_foldl (Q := Inv2 P)
    | with_reducible apply keep_foldl (Q := Inv3 P)
    | simp only [keep_mk hS]
    | simp only [Inv2.iff]
    | simp only [Inv3.iff]
    | simp only [Inv3.iff2]
    | with_reducible apply Inv2.snd
    | split
    | refine Inv3.of_eq (P := P) ?_ (by with_reducible assumption)
    | exact Inv3.unmk (P := P) (by with_reducible assumption)
    | refine Inv2.of_eq (P := P) ?_ (by with_reducible assumption)
    | exact Inv2.unmk (P := P) (by with_reducible assumption)
    | dsimp only

theorem State.ueTorn_keeps {P : State → Prop} (hS : Stable P) {s : State} {slot : Nat} (h : P s) :
    P (State.ueTorn s slot) := by
  unfold State.ueTorn
  repeat' first
    | with_reducible assumption
    | intro _
    | with_reducible apply State.setFld_keeps hS
    | with_reducible apply keep_ite (Q := P)
    | with_reducible apply keep_foldl (Q := P)
    | simp only [keep_mk hS]
    | split
    | dsimp only

theorem State.tearUpdate_keeps {P : State → Prop} (hP : Writes P) {s : State} {slot : Nat} (h : P s) :
    P (State.tearUpdate s slot) := by
  have hS := hP.toStable
  unfold State.tearUpdate
  repeat' first
    | with_reducible assumption
    | intro _
    | with_reducible apply State.takeFree_keeps hS
    | with_reducible apply State.ueRun_keeps hP
    | with_reducible apply State.cmtShow_keeps hS
    | with_reducible apply State.ueShow_keeps hS
    | with_reducible apply State.ueTorn_keeps hS
    | with_reducible apply Inv3.get (P := P)
    | with_reducible apply Inv2.get (P := P)
    | with_reducible apply keep_ite (Q := P)
    | with_reducible apply keep_ite (Q := Inv2 P)
    | with_reducible apply keep_ite (Q := Inv3 P)
    | with_reducible apply keep_foldl (Q := P)
    | with_reducible apply keep_foldl (Q := Inv2 P)
    | with_reducible apply keep_foldl (Q := Inv3 P)
    | simp only [keep_mk hS]
    | simp only [Inv2.iff]
    | simp only [Inv3.iff]
    | simp only [Inv3.iff2]
    | with_reducible apply Inv2.snd
    | split
    | refine Inv3.of_eq (P := P) ?_ (by with_reducible assumption)
    | exact Inv3.unmk (P := P) (by with_reducible assumption)
    | refine Inv2.of_eq (P := P) ?_ (by with_reducible assumption)
    | exact Inv2.unmk (P := P) (by with_reducible assumption)
    | dsimp only

theorem State.dropVote_keeps {P : State → Prop} (hS : Stable P) {s : State} {slot : Nat} (h : P s) :
    P (State.dropVote s slot) := by
  unfold State.dropVote
  repeat' first
    | with_reducible assumption
    | intro _
    | with_reducible apply State.cmtShow_keeps hS
    | with_reducible apply State.setVote_keeps hS
    | with_reducible apply keep_ite (Q := P)
    | simp only [keep_mk hS]
    | with_reducible apply OptInv.none
    | with_reducible apply OptInv.some
    | split
    | dsimp only

theorem State.applyUpdate_keeps {P : State → Prop} (hP : Writes P) {s : State} {v : Update} (h : P s) :
    Inv2 P (State.applyUpdate s v) := by
  have hS := hP.toStable
  unfold State.applyUpdate
  repeat' first
    | with_reducible assumption
    | intro _
    | with_reducible apply State.ueRun_keeps hP
    | with_reducible apply Inv3.get (P := P)
    | with_reducible apply Inv2.get (P := P)
    | with_reducible apply keep_ite (Q := P)
    | with_reducible apply keep_ite (Q := Inv2 P)
    | with_reducible apply keep_ite (Q := Inv3 P)
    | with_reducible apply keep_foldl (Q := P)
    | with_reducible apply keep_foldl (Q := Inv2 P)
    | with_reducible apply keep_foldl (Q := Inv3 P)
    | simp only [keep_mk hS]
    | simp only [Inv2.iff]
    | simp only [Inv3.iff]
    | simp only [Inv3.iff2]
    | with_reducible apply Inv2.snd
    | split
    | refine Inv3.of_eq (P := P) ?_ (by with_reducible assumption)
    | exact Inv3.unmk (P := P) (by with_reducible assumption)
    | refine Inv2.of_eq (P := P) ?_ (by with_reducible assumption)
    | exact Inv2.unmk (P := P) (by with_reducible assumption)
    | dsimp only

theorem execUpdateComplete_keeps {P : State → Prop} (hP : Writes P) {slot : Fin 4} {s : State} (h : P s) :
    OutInv P (execUpdateComplete slot s) := by
  have hS := hP.toStable
  unfold execUpdateComplete
  repeat' first
    | with_reducible assumption
    | intro _
    | with_reducible apply State.applyUpdate_keeps hP
    | with_reducible apply State.bumpSlot_keeps hS
    | with_reducible apply State.cmtShow_keeps hS
    | with_reducible apply State.ueShow_keeps hS
    | with_reducible apply OutInv.next
    | with_reducible apply Inv2.get (P := P)
    | with_reducible apply keep_ite (Q := P)
    | with_reducible apply keep_ite (Q := Inv2 P)
    | with_reducible apply keep_ite (Q := OutInv P)
    | simp only [keep_mk hS]
    | simp only [Inv2.iff]
    | split
    | refine Inv2.of_eq (P := P) ?_ (by with_reducible assumption)
    | exact Inv2.unmk (P := P) (by with_reducible assumption)
    | dsimp only

end Sys2Proof.Machine
end

