-- ==== Sys2Proof/Laws/KeepsSequencer.lean ====
section
/-! SUPPORT. What the operations of Machine/Sequencer.lean keep (Laws/Keeps.lean). -/

namespace Sys2Proof.Machine

theorem State.badInst_keeps {P : State → Prop} (hP : Writes P) {s : State} {cd : Nat} {c : Nat} (h : P s) :
    P (State.badInst s cd c) := by
  have hS := hP.toStable
  unfold State.badInst
  repeat' first
    | with_reducible assumption
    | with_reducible apply State.ctxError_keeps hP

theorem State.stall_keeps {P : State → Prop} (hS : Stable P) {s : State} {cd : Nat} {c : Nat} {code : Nat} {t : Nat} {late : Nat} (h : P s) :
    P (State.stall s cd c code t late) := by
  unfold State.stall
  repeat' first
    | with_reducible assumption
    | with_reducible apply State.yieldCtx_keeps hS
    | with_reducible apply State.closeHold_keeps hS
    | with_reducible apply State.setFld_keeps hS
    | with_reducible apply State.setCtxState_keeps hS
    | with_reducible apply State.setCtx_keeps hS
    | with_reducible apply keep_ite (Q := P)

theorem State.boundary_keeps {P : State → Prop} (hS : Stable P) {s : State} {cd : Nat} {c : Nat} {t : Nat} (h : P s) :
    P (State.boundary s cd c t) := by
  unfold State.boundary
  repeat' first
    | with_reducible assumption
    | with_reducible apply State.yieldCtx_keeps hS
    | with_reducible apply keep_ite (Q := P)

theorem State.issued_keeps {P : State → Prop} (hS : Stable P) {s : State} {cd : Nat} {f : Fetch} {t : Nat} {pc : Nat} {next : Nat} {tile : Bool} (h : P s) :
    P (State.issued s cd f t pc next tile) := by
  unfold State.issued
  repeat' first
    | with_reducible assumption
    | with_reducible apply State.incFld_keeps hS
    | with_reducible apply State.closeHold_keeps hS
    | with_reducible apply State.setFld_keeps hS
    | with_reducible apply State.setCtx_keeps hS
    | with_reducible apply State.boundary_keeps hS
    | with_reducible apply keep_ite (Q := P)

theorem State.step1_keeps {P : State → Prop} (hS : Stable P) {s : State} {cd : Nat} {f : Fetch} {t : Nat} (h : P s) :
    P (State.step1 s cd f t) := by
  unfold State.step1
  repeat' first
    | with_reducible assumption
    | with_reducible apply State.issued_keeps hS

theorem State.runOp_keeps {P : State → Prop} (hP : Writes P) {s : State} {cd : Nat} {t : Nat} {op : Nat} {want : Fetch → Bool} {body : State → Fetch → State} (h : P s) (hbody : ∀ (v0 : State) (v1 : Fetch), P v0 → P (body v0 v1)) :
    P (State.runOp s cd t op want body) := by
  have hS := hP.toStable
  unfold State.runOp
  repeat' first
    | with_reducible assumption
    | intro _
    | with_reducible apply State.badInst_keeps hP
    | with_reducible apply State.closeHold_keeps hS
    | with_reducible apply State.reach_keeps hS
    | with_reducible apply hbody
    | with_reducible apply keep_ite (Q := P)
    | simp only [keep_mk hS]
    | with_reducible apply OptInv.none
    | with_reducible apply OptInv.some
    | split
    | dsimp only

theorem State.slotDone_keeps {P : State → Prop} (hS : Stable P) {s : State} {slot : Nat} (h : P s) :
    P (State.slotDone s slot) := by
  unfold State.slotDone
  repeat' first
    | with_reducible assumption
    | with_reducible apply State.setFld_keeps hS
    | with_reducible apply keep_ite (Q := P)

theorem State.yieldSettle_keeps {P : State → Prop} (hS : Stable P) {s : State} {cd : Nat} (h : P s) :
    P (State.yieldSettle s cd) := by
  unfold State.yieldSettle
  repeat' first
    | with_reducible assumption
    | with_reducible apply State.setFld_keeps hS
    | with_reducible apply keep_ite (Q := P)

theorem State.yieldStart_keeps {P : State → Prop} (hS : Stable P) {s : State} {cd : Nat} {c : Nat} (h : P s) :
    P (State.yieldStart s cd c) := by
  unfold State.yieldStart
  repeat' first
    | with_reducible assumption
    | with_reducible apply State.incFld_keeps hS
    | with_reducible apply State.setFld_keeps hS
    | with_reducible apply keep_ite (Q := P)
    | simp only [keep_mk hS]

theorem State.wakeCtx_keeps {P : State → Prop} (hS : Stable P) {s : State} {cd : Nat} {c : Nat} {t : Nat} (h : P s) :
    P (State.wakeCtx s cd c t) := by
  unfold State.wakeCtx
  repeat' first
    | with_reducible assumption
    | with_reducible apply State.yieldSettle_keeps hS
    | with_reducible apply State.makeReady_keeps hS
    | with_reducible apply State.yieldStart_keeps hS

theorem State.blockCtx_keeps {P : State → Prop} (hS : Stable P) {s : State} {cd : Nat} {f : Fetch} {t : Nat} {cnt : Nat} {target : Nat} {fenced : Bool} (h : P s) :
    P (State.blockCtx s cd f t cnt target fenced) := by
  unfold State.blockCtx
  repeat' first
    | with_reducible assumption
    | with_reducible apply State.incFld_keeps hS
    | with_reducible apply State.closeHold_keeps hS
    | with_reducible apply State.setFld_keeps hS
    | with_reducible apply State.setCtxState_keeps hS
    | with_reducible apply State.setCtx_keeps hS
    | with_reducible apply State.switchCtx_keeps hS
    | with_reducible apply keep_ite (Q := P)

theorem State.unblock_keeps {P : State → Prop} (hS : Stable P) {s : State} {cd : Nat} {c : Nat} {t : Nat} (h : P s) :
    P (State.unblock s cd c t) := by
  unfold State.unblock
  repeat' first
    | with_reducible assumption
    | with_reducible apply State.incFld_keeps hS
    | with_reducible apply State.setFld_keeps hS
    | with_reducible apply State.setCtx_keeps hS
    | with_reducible apply State.setCtxState_keeps hS
    | with_reducible apply State.wakeCtx_keeps hS
    | with_reducible apply keep_ite (Q := P)

theorem execIssue_keeps {P : State → Prop} (hP : Writes P) {cd : Fin 8} {t : Nat} {s : State} (h : P s) :
    OutInv P (execIssue cd t s) := by
  have hS := hP.toStable
  unfold execIssue
  repeat' first
    | with_reducible assumption
    | intro _
    | with_reducible apply State.gated_keeps hS
    | with_reducible apply State.runOp_keeps hP
    | with_reducible apply State.badInst_keeps hP
    | with_reducible apply State.closeHold_keeps hS
    | with_reducible apply State.stall_keeps hS
    | with_reducible apply State.step1_keeps hS
    | with_reducible apply State.arrEnqueue_keeps hS
    | with_reducible apply State.feedEnqueue_keeps hS
    | with_reducible apply State.stationEnqueue_keeps hS
    | with_reducible apply State.setVe_keeps hS
    | with_reducible apply State.setSeUnit_keeps hS
    | with_reducible apply OutInv.next
    | with_reducible apply keep_ite (Q := P)

theorem execWait_keeps {P : State → Prop} (hP : Writes P) {cd : Fin 8} {t : Nat} {s : State} (h : P s) :
    OutInv P (execWait cd t s) := by
  have hS := hP.toStable
  unfold execWait
  repeat' first
    | with_reducible assumption
    | intro _
    | with_reducible apply State.gated_keeps hS
    | with_reducible apply State.runOp_keeps hP
    | with_reducible apply State.badInst_keeps hP
    | with_reducible apply State.closeHold_keeps hS
    | with_reducible apply State.issued_keeps hS
    | with_reducible apply State.blockCtx_keeps hS
    | with_reducible apply OutInv.next
    | with_reducible apply keep_ite (Q := P)

theorem execWaitSatisfied_keeps {P : State → Prop} (hS : Stable P) {cd : Fin 8} {ctx : Fin 4} {t : Nat} {s : State} (h : P s) :
    OutInv P (execWaitSatisfied cd ctx t s) := by
  unfold execWaitSatisfied
  repeat' first
    | with_reducible assumption
    | with_reducible apply State.gated_keeps hS
    | with_reducible apply State.unblock_keeps hS
    | with_reducible apply OutInv.next
    | with_reducible apply keep_ite (Q := P)

theorem execFence_keeps {P : State → Prop} (hP : Writes P) {cd : Fin 8} {t : Nat} {s : State} (h : P s) :
    OutInv P (execFence cd t s) := by
  have hS := hP.toStable
  unfold execFence
  repeat' first
    | with_reducible assumption
    | intro _
    | with_reducible apply State.gated_keeps hS
    | with_reducible apply State.runOp_keeps hP
    | with_reducible apply State.issued_keeps hS
    | with_reducible apply State.blockCtx_keeps hS
    | with_reducible apply OutInv.next
    | with_reducible apply keep_ite (Q := P)

theorem execFenceComplete_keeps {P : State → Prop} (hS : Stable P) {cd : Fin 8} {ctx : Fin 4} {t : Nat} {s : State} (h : P s) :
    OutInv P (execFenceComplete cd ctx t s) := by
  unfold execFenceComplete
  repeat' first
    | with_reducible assumption
    | with_reducible apply State.gated_keeps hS
    | with_reducible apply State.unblock_keeps hS
    | with_reducible apply OutInv.next
    | with_reducible apply keep_ite (Q := P)

theorem execSalu_keeps {P : State → Prop} (hP : Writes P) {cd : Fin 8} {t : Nat} {s : State} (h : P s) :
    OutInv P (execSalu cd t s) := by
  have hS := hP.toStable
  unfold execSalu
  repeat' first
    | with_reducible assumption
    | intro _
    | with_reducible apply State.gated_keeps hS
    | with_reducible apply State.runOp_keeps hP
    | with_reducible apply State.badInst_keeps hP
    | with_reducible apply State.closeHold_keeps hS
    | with_reducible apply State.step1_keeps hS
    | with_reducible apply OutInv.next
    | with_reducible apply keep_ite (Q := P)
    | simp only [keep_mk hS]

theorem execBr_keeps {P : State → Prop} (hP : Writes P) {cd : Fin 8} {t : Nat} {s : State} (h : P s) :
    OutInv P (execBr cd t s) := by
  have hS := hP.toStable
  unfold execBr
  repeat' first
    | with_reducible assumption
    | intro _
    | with_reducible apply State.gated_keeps hS
    | with_reducible apply State.runOp_keeps hP
    | with_reducible apply State.badInst_keeps hP
    | with_reducible apply State.closeHold_keeps hS
    | with_reducible apply State.step1_keeps hS
    | with_reducible apply State.issued_keeps hS
    | with_reducible apply OutInv.next
    | with_reducible apply keep_ite (Q := P)

theorem execPost_keeps {P : State → Prop} (hP : Writes P) {cd : Fin 8} {t : Nat} {s : State} (h : P s) :
    OutInv P (execPost cd t s) := by
  have hS := hP.toStable
  unfold execPost
  repeat' first
    | with_reducible assumption
    | intro _
    | with_reducible apply State.gated_keeps hS
    | with_reducible apply State.runOp_keeps hP
    | with_reducible apply State.badInst_keeps hP
    | with_reducible apply State.closeHold_keeps hS
    | with_reducible apply State.ctxError_keeps hP
    | with_reducible apply State.step1_keeps hS
    | with_reducible apply State.vaWrite_keeps hP
    | with_reducible apply State.meshPosted_keeps hS
    | with_reducible apply State.bumpCnt_keeps hS
    | with_reducible apply OutInv.next
    | with_reducible apply keep_ite (Q := P)
    | with_reducible apply keep_ite (Q := OutInv P)
    | simp only [keep_mk hS]
    | with_reducible apply OptInv.none
    | with_reducible apply OptInv.some
    | split
    | dsimp only

theorem execSignal_keeps {P : State → Prop} (hP : Writes P) {cd : Fin 8} {t : Nat} {s : State} (h : P s) :
    OutInv P (execSignal cd t s) := by
  have hS := hP.toStable
  unfold execSignal
  repeat' first
    | with_reducible assumption
    | intro _
    | with_reducible apply State.gated_keeps hS
    | with_reducible apply State.runOp_keeps hP
    | with_reducible apply State.notice_keeps hP
    | with_reducible apply State.step1_keeps hS
    | with_reducible apply OutInv.next

theorem execCinc_keeps {P : State → Prop} (hP : Writes P) {cd : Fin 8} {t : Nat} {s : State} (h : P s) :
    OutInv P (execCinc cd t s) := by
  have hS := hP.toStable
  unfold execCinc
  repeat' first
    | with_reducible assumption
    | intro _
    | with_reducible apply State.gated_keeps hS
    | with_reducible apply State.runOp_keeps hP
    | with_reducible apply State.setSync_keeps hS
    | with_reducible apply State.step1_keeps hS
    | with_reducible apply State.voteTryOpen_keeps hS
    | with_reducible apply OutInv.next

theorem execYield_keeps {P : State → Prop} (hP : Writes P) {cd : Fin 8} {t : Nat} {s : State} (h : P s) :
    OutInv P (execYield cd t s) := by
  have hS := hP.toStable
  unfold execYield
  repeat' first
    | with_reducible assumption
    | intro _
    | with_reducible apply State.gated_keeps hS
    | with_reducible apply State.runOp_keeps hP
    | with_reducible apply State.issued_keeps hS
    | with_reducible apply OutInv.next

theorem execEnd_keeps {P : State → Prop} (hP : Writes P) {cd : Fin 8} {t : Nat} {s : State} (h : P s) :
    OutInv P (execEnd cd t s) := by
  have hS := hP.toStable
  unfold execEnd
  repeat' first
    | with_reducible assumption
    | intro _
    | with_reducible apply State.gated_keeps hS
    | with_reducible apply State.runOp_keeps hP
    | with_reducible apply State.incFld_keeps hS
    | with_reducible apply State.closeHold_keeps hS
    | with_reducible apply State.slotDone_keeps hS
    | with_reducible apply State.yieldSettle_keeps hS
    | with_reducible apply State.switchCtx_keeps hS
    | with_reducible apply State.setCtxState_keeps hS
    | with_reducible apply OutInv.next

theorem execCset_keeps {P : State → Prop} (hP : Writes P) {cd : Fin 8} {t : Nat} {s : State} (h : P s) :
    OutInv P (execCset cd t s) := by
  have hS := hP.toStable
  unfold execCset
  repeat' first
    | with_reducible assumption
    | intro _
    | with_reducible apply State.gated_keeps hS
    | with_reducible apply State.runOp_keeps hP
    | with_reducible apply State.badInst_keeps hP
    | with_reducible apply State.closeHold_keeps hS
    | with_reducible apply State.stall_keeps hS
    | with_reducible apply State.arrEnqueue_keeps hS
    | with_reducible apply State.step1_keeps hS
    | with_reducible apply OutInv.next
    | with_reducible apply keep_ite (Q := P)
    | with_reducible apply keep_ite (Q := OutInv P)
    | simp only [keep_mk hS]
    | split
    | dsimp only

theorem State.vopRepeats_keeps {P : State → Prop} (hS : Stable P) {s : State} {cd : Nat} {ve : Nat} {t : Nat} {v : Vop} (h : P s) :
    P (State.vopRepeats s cd ve t v) := by
  unfold State.vopRepeats
  repeat' first
    | with_reducible assumption
    | intro _
    | with_reducible apply State.vregSeen_keeps hS
    | with_reducible apply State.setVe_keeps hS
    | with_reducible apply Inv2.get (P := P)
    | with_reducible apply keep_ite (Q := P)
    | with_reducible apply keep_ite (Q := Inv2 P)
    | with_reducible apply keep_foldl (Q := P)
    | with_reducible apply keep_foldl (Q := Inv2 P)
    | simp only [keep_mk hS]
    | simp only [Inv2.iff]
    | split
    | refine Inv2.of_eq (P := P) ?_ (by with_reducible assumption)
    | exact Inv2.unmk (P := P) (by with_reducible assumption)
    | dsimp only

theorem State.runVop_keeps {P : State → Prop} (hP : Writes P) {s : State} {cd : Nat} {t : Nat} {fn : Nat} (h : P s) :
    P (State.runVop s cd t fn) := by
  have hS := hP.toStable
  unfold State.runVop
  repeat' first
    | with_reducible assumption
    | intro _
    | with_reducible apply State.runOp_keeps hP
    | with_reducible apply State.badInst_keeps hP
    | with_reducible apply State.closeHold_keeps hS
    | with_reducible apply State.ctxError_keeps hP
    | with_reducible apply State.setFld_keeps hS
    | with_reducible apply State.stall_keeps hS
    | with_reducible apply State.step1_keeps hS
    | with_reducible apply State.charge_keeps hS
    | with_reducible apply State.vopRepeats_keeps hS
    | with_reducible apply State.setVe_keeps hS
    | with_reducible apply keep_ite (Q := P)

theorem execAdd_keeps {P : State → Prop} (hP : Writes P) {cd : Fin 8} {t : Nat} {s : State} (h : P s) :
    OutInv P (execAdd cd t s) := by
  have hS := hP.toStable
  unfold execAdd
  repeat' first
    | with_reducible assumption
    | with_reducible apply State.gated_keeps hS
    | with_reducible apply State.runVop_keeps hP
    | with_reducible apply OutInv.next

theorem execSub_keeps {P : State → Prop} (hP : Writes P) {cd : Fin 8} {t : Nat} {s : State} (h : P s) :
    OutInv P (execSub cd t s) := by
  have hS := hP.toStable
  unfold execSub
  repeat' first
    | with_reducible assumption
    | with_reducible apply State.gated_keeps hS
    | with_reducible apply State.runVop_keeps hP
    | with_reducible apply OutInv.next

theorem execMul_keeps {P : State → Prop} (hP : Writes P) {cd : Fin 8} {t : Nat} {s : State} (h : P s) :
    OutInv P (execMul cd t s) := by
  have hS := hP.toStable
  unfold execMul
  repeat' first
    | with_reducible assumption
    | with_reducible apply State.gated_keeps hS
    | with_reducible apply State.runVop_keeps hP
    | with_reducible apply OutInv.next

theorem execFma_keeps {P : State → Prop} (hP : Writes P) {cd : Fin 8} {t : Nat} {s : State} (h : P s) :
    OutInv P (execFma cd t s) := by
  have hS := hP.toStable
  unfold execFma
  repeat' first
    | with_reducible assumption
    | with_reducible apply State.gated_keeps hS
    | with_reducible apply State.runVop_keeps hP
    | with_reducible apply OutInv.next

theorem execMax_keeps {P : State → Prop} (hP : Writes P) {cd : Fin 8} {t : Nat} {s : State} (h : P s) :
    OutInv P (execMax cd t s) := by
  have hS := hP.toStable
  unfold execMax
  repeat' first
    | with_reducible assumption
    | with_reducible apply State.gated_keeps hS
    | with_reducible apply State.runVop_keeps hP
    | with_reducible apply OutInv.next

theorem execMin_keeps {P : State → Prop} (hP : Writes P) {cd : Fin 8} {t : Nat} {s : State} (h : P s) :
    OutInv P (execMin cd t s) := by
  have hS := hP.toStable
  unfold execMin
  repeat' first
    | with_reducible assumption
    | with_reducible apply State.gated_keeps hS
    | with_reducible apply State.runVop_keeps hP
    | with_reducible apply OutInv.next

theorem execCmp_keeps {P : State → Prop} (hP : Writes P) {cd : Fin 8} {t : Nat} {s : State} (h : P s) :
    OutInv P (execCmp cd t s) := by
  have hS := hP.toStable
  unfold execCmp
  repeat' first
    | with_reducible assumption
    | with_reducible apply State.gated_keeps hS
    | with_reducible apply State.runVop_keeps hP
    | with_reducible apply OutInv.next

theorem execSel_keeps {P : State → Prop} (hP : Writes P) {cd : Fin 8} {t : Nat} {s : State} (h : P s) :
    OutInv P (execSel cd t s) := by
  have hS := hP.toStable
  unfold execSel
  repeat' first
    | with_reducible assumption
    | with_reducible apply State.gated_keeps hS
    | with_reducible apply State.runVop_keeps hP
    | with_reducible apply OutInv.next

theorem execCvt_keeps {P : State → Prop} (hP : Writes P) {cd : Fin 8} {t : Nat} {s : State} (h : P s) :
    OutInv P (execCvt cd t s) := by
  have hS := hP.toStable
  unfold execCvt
  repeat' first
    | with_reducible assumption
    | with_reducible apply State.gated_keeps hS
    | with_reducible apply State.runVop_keeps hP
    | with_reducible apply OutInv.next

theorem execFunc_keeps {P : State → Prop} (hP : Writes P) {cd : Fin 8} {t : Nat} {s : State} (h : P s) :
    OutInv P (execFunc cd t s) := by
  have hS := hP.toStable
  unfold execFunc
  repeat' first
    | with_reducible assumption
    | with_reducible apply State.gated_keeps hS
    | with_reducible apply State.runVop_keeps hP
    | with_reducible apply OutInv.next

theorem execRsum_keeps {P : State → Prop} (hP : Writes P) {cd : Fin 8} {t : Nat} {s : State} (h : P s) :
    OutInv P (execRsum cd t s) := by
  have hS := hP.toStable
  unfold execRsum
  repeat' first
    | with_reducible assumption
    | with_reducible apply State.gated_keeps hS
    | with_reducible apply State.runVop_keeps hP
    | with_reducible apply OutInv.next

theorem execRmax_keeps {P : State → Prop} (hP : Writes P) {cd : Fin 8} {t : Nat} {s : State} (h : P s) :
    OutInv P (execRmax cd t s) := by
  have hS := hP.toStable
  unfold execRmax
  repeat' first
    | with_reducible assumption
    | with_reducible apply State.gated_keeps hS
    | with_reducible apply State.runVop_keeps hP
    | with_reducible apply OutInv.next

theorem execPerm_keeps {P : State → Prop} (hP : Writes P) {cd : Fin 8} {t : Nat} {s : State} (h : P s) :
    OutInv P (execPerm cd t s) := by
  have hS := hP.toStable
  unfold execPerm
  repeat' first
    | with_reducible assumption
    | with_reducible apply State.gated_keeps hS
    | with_reducible apply State.runVop_keeps hP
    | with_reducible apply OutInv.next

theorem execTicketRelease_keeps {P : State → Prop} (hS : Stable P) {cd : Fin 8} {unit : Fin 96} {s : State} (h : P s) :
    OutInv P (execTicketRelease cd unit s) := by
  unfold execTicketRelease
  repeat' first
    | with_reducible assumption
    | intro _
    | with_reducible apply State.gated_keeps hS
    | with_reducible apply State.yieldSettle_keeps hS
    | with_reducible apply State.release_keeps hS
    | with_reducible apply State.reach_keeps hS
    | with_reducible apply OutInv.next
    | with_reducible apply keep_ite (Q := P)
    | with_reducible apply keep_ite (Q := OutInv P)
    | simp only [keep_mk hS]
    | with_reducible apply OptInv.none
    | with_reducible apply OptInv.some
    | split
    | dsimp only

end Sys2Proof.Machine
end

