-- ==== Sys2Proof/Laws/KeepsVector.lean ====
section
/-! SUPPORT. What the operations of Machine/Vector.lean keep (Laws/Keeps.lean). -/

namespace Sys2Proof.Machine

theorem State.vmFinish_keeps {P : State → Prop} (hS : Stable P) {s : State} {cd : Nat} {ve : Nat} {c : Cmd} (h : P s) :
    P (State.vmFinish s cd ve c) := by
  unfold State.vmFinish
  repeat' first
    | with_reducible assumption
    | with_reducible apply State.setVe_keeps hS
    | with_reducible apply State.bumpCnt_keeps hS

theorem State.vmError_keeps {P : State → Prop} (hP : Writes P) {s : State} {cd : Nat} {ve : Nat} {c : Cmd} {cause : Nat} (h : P s) :
    P (State.vmError s cd ve c cause) := by
  have hS := hP.toStable
  unfold State.vmError
  repeat' first
    | with_reducible assumption
    | with_reducible apply State.ctxError_keeps hP
    | with_reducible apply State.vmFinish_keeps hS

theorem State.vmStart_keeps {P : State → Prop} (hP : Writes P) {s : State} {cd : Nat} {ve : Nat} {kind : Nat} {bad : Cmd → Option Nat} {begin_ : State → Cmd → State} (h : P s) (hbegin_ : ∀ (v0 : State) (v1 : Cmd), P v0 → P (begin_ v0 v1)) :
    P (State.vmStart s cd ve kind bad begin_) := by
  have hS := hP.toStable
  unfold State.vmStart
  repeat' first
    | with_reducible assumption
    | intro _
    | with_reducible apply State.reach_keeps hS
    | with_reducible apply State.vmError_keeps hP
    | with_reducible apply State.tktClose_keeps hS
    | with_reducible apply State.tktHold_keeps hS
    | with_reducible apply State.charge_keeps hS
    | with_reducible apply State.setVe_keeps hS
    | with_reducible apply hbegin_
    | with_reducible apply keep_ite (Q := P)
    | simp only [keep_mk hS]
    | with_reducible apply OptInv.none
    | with_reducible apply OptInv.some
    | split
    | dsimp only

theorem State.vmRead_keeps {P : State → Prop} (hP : Writes P) {cd : Nat} {ve : Nat} {req : Requester} {x : Nat} {x1 : Nat} {x2 : List Byte} {x3 : Bool} {x4 : State} (h : P x4) :
    Inv4 P (State.vmRead cd ve req x x1 x2 x3 x4) := by
  have hS := hP.toStable
  induction x generalizing cd ve req x1 x2 x3 x4 with
  | zero =>
    unfold State.vmRead
    repeat' first
      | with_reducible assumption
      | intro _
      | with_reducible apply State.readFor_keeps hP
      | with_reducible apply State.meshRead_keeps hS
      | with_reducible apply Inv4.get (P := P)
      | with_reducible apply Inv3.get (P := P)
      | with_reducible apply Inv2.get (P := P)
      | with_reducible apply keep_ite (Q := P)
      | with_reducible apply keep_ite (Q := Inv2 P)
      | with_reducible apply keep_ite (Q := Inv3 P)
      | with_reducible apply keep_ite (Q := Inv4 P)
      | simp only [keep_mk hS]
      | simp only [Inv2.iff]
      | simp only [Inv3.iff]
      | simp only [Inv4.iff]
      | simp only [Inv3.iff2]
      | with_reducible apply Inv2.snd
      | with_reducible apply Inv3.snd
      | split
      | refine Inv4.of_eq (P := P) ?_ (by with_reducible assumption)
      | exact Inv4.unmk (P := P) (by with_reducible assumption)
      | refine Inv3.of_eq (P := P) ?_ (by with_reducible assumption)
      | exact Inv3.unmk (P := P) (by with_reducible assumption)
      | refine Inv2.of_eq (P := P) ?_ (by with_reducible assumption)
      | exact Inv2.unmk (P := P) (by with_reducible assumption)
      | dsimp only
  | succ n ih =>
    unfold State.vmRead
    repeat' first
      | with_reducible apply ih
      | with_reducible assumption
      | intro _
      | with_reducible apply State.readFor_keeps hP
      | with_reducible apply State.meshRead_keeps hS
      | with_reducible apply Inv4.get (P := P)
      | with_reducible apply Inv3.get (P := P)
      | with_reducible apply Inv2.get (P := P)
      | with_reducible apply keep_ite (Q := P)
      | with_reducible apply keep_ite (Q := Inv2 P)
      | with_reducible apply keep_ite (Q := Inv3 P)
      | with_reducible apply keep_ite (Q := Inv4 P)
      | simp only [keep_mk hS]
      | simp only [Inv2.iff]
      | simp only [Inv3.iff]
      | simp only [Inv4.iff]
      | simp only [Inv3.iff2]
      | with_reducible apply Inv2.snd
      | with_reducible apply Inv3.snd
      | split
      | refine Inv4.of_eq (P := P) ?_ (by with_reducible assumption)
      | exact Inv4.unmk (P := P) (by with_reducible assumption)
      | refine Inv3.of_eq (P := P) ?_ (by with_reducible assumption)
      | exact Inv3.unmk (P := P) (by with_reducible assumption)
      | refine Inv2.of_eq (P := P) ?_ (by with_reducible assumption)
      | exact Inv2.unmk (P := P) (by with_reducible assumption)
      | dsimp only

theorem State.vldRun_keeps {P : State → Prop} (hP : Writes P) {cd : Nat} {ve : Nat} {c : Cmd} {x : Nat} {x1 : Nat} {x2 : State} (h : P x2) :
    Inv2 P (State.vldRun cd ve c x x1 x2) := by
  have hS := hP.toStable
  induction x generalizing cd ve c x1 x2 with
  | zero =>
    unfold State.vldRun
    repeat' first
      | with_reducible assumption
      | with_reducible apply State.setVreg_keeps hS
      | with_reducible apply State.vmRead_keeps hP
      | with_reducible apply keep_ite (Q := P)
      | simp only [Inv2.iff]
      | split
      | refine Inv4.of_eq (P := P) ?_ (by with_reducible assumption)
  | succ n ih =>
    unfold State.vldRun
    repeat' first
      | with_reducible apply ih
      | with_reducible assumption
      | with_reducible apply State.setVreg_keeps hS
      | with_reducible apply State.vmRead_keeps hP
      | with_reducible apply keep_ite (Q := P)
      | simp only [Inv2.iff]
      | split
      | refine Inv4.of_eq (P := P) ?_ (by with_reducible assumption)

theorem State.vstWords_keeps {P : State → Prop} (hP : Writes P) {cd : Nat} {ve : Nat} {req : Requester} {sl : Bool} {x : List (Nat × List Byte)} {x1 : State} (h : P x1) :
    Inv2 P (State.vstWords cd ve req sl x x1) := by
  have hS := hP.toStable
  induction x generalizing cd ve req sl x1 with
  | nil =>
    unfold State.vstWords
    repeat' first
      | with_reducible assumption
      | intro _
      | with_reducible apply State.writeWord_keeps hP
      | with_reducible apply State.meshWrite_keeps hS
      | with_reducible apply Inv2.get (P := P)
      | with_reducible apply keep_ite (Q := P)
      | with_reducible apply keep_ite (Q := Inv2 P)
      | simp only [keep_mk hS]
      | simp only [Inv2.iff]
      | split
      | refine Inv2.of_eq (P := P) ?_ (by with_reducible assumption)
      | exact Inv2.unmk (P := P) (by with_reducible assumption)
      | dsimp only
  | cons x xs ih =>
    unfold State.vstWords
    repeat' first
      | with_reducible apply ih
      | with_reducible assumption
      | intro _
      | with_reducible apply State.writeWord_keeps hP
      | with_reducible apply State.meshWrite_keeps hS
      | with_reducible apply Inv2.get (P := P)
      | with_reducible apply keep_ite (Q := P)
      | with_reducible apply keep_ite (Q := Inv2 P)
      | simp only [keep_mk hS]
      | simp only [Inv2.iff]
      | split
      | refine Inv2.of_eq (P := P) ?_ (by with_reducible assumption)
      | exact Inv2.unmk (P := P) (by with_reducible assumption)
      | dsimp only

theorem State.vstRun_keeps {P : State → Prop} (hP : Writes P) {cd : Nat} {ve : Nat} {c : Cmd} {x : Nat} {x1 : Nat} {x2 : State} (h : P x2) :
    Inv2 P (State.vstRun cd ve c x x1 x2) := by
  have hS := hP.toStable
  induction x generalizing cd ve c x1 x2 with
  | zero =>
    unfold State.vstRun
    repeat' first
      | with_reducible assumption
      | with_reducible apply State.vstWords_keeps hP
      | simp only [Inv2.iff]
      | split
      | refine Inv2.of_eq (P := P) ?_ (by with_reducible assumption)
  | succ n ih =>
    unfold State.vstRun
    repeat' first
      | with_reducible apply ih
      | with_reducible assumption
      | with_reducible apply State.vstWords_keeps hP
      | simp only [Inv2.iff]
      | split
      | refine Inv2.of_eq (P := P) ?_ (by with_reducible assumption)

theorem execVld_keeps {P : State → Prop} (hP : Writes P) {cd : Fin 8} {ve : Fin 8} {s : State} (h : P s) :
    OutInv P (execVld cd ve s) := by
  have hS := hP.toStable
  unfold execVld
  repeat' first
    | with_reducible assumption
    | intro _
    | with_reducible apply State.gated_keeps hS
    | with_reducible apply State.vmStart_keeps hP
    | with_reducible apply OutInv.next

theorem execVst_keeps {P : State → Prop} (hP : Writes P) {cd : Fin 8} {ve : Fin 8} {s : State} (h : P s) :
    OutInv P (execVst cd ve s) := by
  have hS := hP.toStable
  unfold execVst
  repeat' first
    | with_reducible assumption
    | intro _
    | with_reducible apply State.gated_keeps hS
    | with_reducible apply State.vmStart_keeps hP
    | with_reducible apply OutInv.next

theorem execScalePick_keeps {P : State → Prop} (hP : Writes P) {cd : Fin 8} {ve : Fin 8} {s : State} (h : P s) :
    OutInv P (execScalePick cd ve s) := by
  have hS := hP.toStable
  unfold execScalePick
  repeat' first
    | with_reducible assumption
    | intro _
    | with_reducible apply State.gated_keeps hS
    | with_reducible apply State.vmStart_keeps hP
    | with_reducible apply OutInv.next

theorem execFtabLoad_keeps {P : State → Prop} (hP : Writes P) {cd : Fin 8} {ve : Fin 8} {s : State} (h : P s) :
    OutInv P (execFtabLoad cd ve s) := by
  have hS := hP.toStable
  unfold execFtabLoad
  repeat' first
    | with_reducible assumption
    | intro _
    | with_reducible apply State.gated_keeps hS
    | with_reducible apply State.vmStart_keeps hP
    | with_reducible apply State.setBit_keeps hS
    | with_reducible apply OutInv.next

theorem execVmemComplete_keeps {P : State → Prop} (hP : Writes P) {cd : Fin 8} {ve : Fin 8} {s : State} (h : P s) :
    OutInv P (execVmemComplete cd ve s) := by
  have hS := hP.toStable
  unfold execVmemComplete
  repeat' first
    | with_reducible assumption
    | intro _
    | with_reducible apply State.gated_keeps hS
    | with_reducible apply State.reachVe_keeps hS
    | with_reducible apply State.vmFinish_keeps hS
    | with_reducible apply State.vmError_keeps hP
    | with_reducible apply State.vldRun_keeps hP
    | with_reducible apply State.vstRun_keeps hP
    | with_reducible apply State.vstWords_keeps hP
    | with_reducible apply State.setVreg_keeps hS
    | with_reducible apply State.vmRead_keeps hP
    | with_reducible apply State.setBit_keeps hS
    | with_reducible apply OutInv.next
    | with_reducible apply Inv4.get (P := P)
    | with_reducible apply Inv2.get (P := P)
    | with_reducible apply keep_ite (Q := P)
    | with_reducible apply keep_ite (Q := Inv2 P)
    | with_reducible apply keep_ite (Q := Inv4 P)
    | with_reducible apply keep_ite (Q := OutInv P)
    | simp only [keep_mk hS]
    | simp only [Inv2.iff]
    | simp only [Inv4.iff]
    | with_reducible apply Inv3.snd
    | split
    | refine Inv4.of_eq (P := P) ?_ (by with_reducible assumption)
    | exact Inv4.unmk (P := P) (by with_reducible assumption)
    | refine Inv2.of_eq (P := P) ?_ (by with_reducible assumption)
    | exact Inv2.unmk (P := P) (by with_reducible assumption)
    | dsimp only

theorem execVeSrSeedWrite_keeps {P : State → Prop} (hS : Stable P) {acc : Accessor} {cd : Fin 8} {ve : Fin 8} {v : Word64} {s : State} (h : P s) :
    OutInv P (execVeSrSeedWrite acc cd ve v s) := by
  unfold execVeSrSeedWrite
  repeat' first
    | with_reducible assumption
    | intro _
    | with_reducible apply State.regWrite_keeps hS
    | with_reducible apply State.writeVeSeed_keeps hS
    | with_reducible apply OutInv.next
    | with_reducible apply keep_ite (Q := P)
    | with_reducible apply keep_ite (Q := OutInv P)
    | simp only [keep_mk hS]
    | with_reducible apply OptInv.none
    | with_reducible apply OptInv.some
    | split
    | dsimp only

end Sys2Proof.Machine
end

