-- ==== Sys2Proof/Laws/KeepsCut.lean ====
section
/-! SUPPORT. What the operations of Machine/Cut.lean keep (Laws/Keeps.lean). -/

namespace Sys2Proof.Machine

/-- The state of a cut. -/
@[irreducible] def CutInv (P : State → Prop) (r : Cut) : Prop := P r.st

theorem CutInv.of {P : State → Prop} {r : Cut} (h : P r.st) : CutInv P r := by unfold CutInv; exact h
theorem CutInv.st {P : State → Prop} {r : Cut} (h : CutInv P r) : P r.st := by unfold CutInv at h; exact h
theorem CutInv.iff {P : State → Prop} {st : State} {n : Nat} {ctxs : List Nat} :
    CutInv P ⟨st, n, ctxs⟩ ↔ P st := ⟨fun h => CutInv.st h, fun h => CutInv.of h⟩

theorem State.cutDrain_keeps {P : State → Prop} (hP : Writes P) {s : State} {cd : Nat} {n : Nat} {r : Running} (h : P s) :
    P (State.cutDrain s cd n r) := by
  have hS := hP.toStable
  unfold State.cutDrain
  repeat' first
    | with_reducible assumption
    | with_reducible apply State.takeFree_keeps hS
    | with_reducible apply State.residentRows_keeps hP
    | with_reducible apply State.holdRows_keeps hP
    | with_reducible apply State.setArray_keeps hS
    | with_reducible apply Inv2.get (P := P)
    | with_reducible apply keep_ite (Q := P)
    | with_reducible apply keep_ite (Q := DrainInv P)
    | simp only [keep_mk hS]
    | with_reducible apply DrainInv.st (P := P)

theorem State.arrRefusalClear_keeps {P : State → Prop} (hS : Stable P) {s : State} {cd : Nat} {n : Nat} (h : P s) :
    P (State.arrRefusalClear s cd n) := by
  unfold State.arrRefusalClear
  repeat' first
    | with_reducible assumption
    | with_reducible apply State.setHeldBy_keeps hS
    | with_reducible apply State.arrLeaveFault_keeps hS
    | with_reducible apply State.setFld_keeps hS

theorem State.fdrRefusalClear_keeps {P : State → Prop} (hS : Stable P) {s : State} {cd : Nat} {bob : Nat} (h : P s) :
    P (State.fdrRefusalClear s cd bob) := by
  unfold State.fdrRefusalClear
  repeat' first
    | with_reducible assumption
    | with_reducible apply State.setHeldBy_keeps hS
    | with_reducible apply State.setFld_keeps hS

theorem State.carRefusalClear_keeps {P : State → Prop} (hS : Stable P) {s : State} {cd : Nat} {g : Nat} (h : P s) :
    P (State.carRefusalClear s cd g) := by
  unfold State.carRefusalClear
  repeat' first
    | with_reducible assumption
    | with_reducible apply State.setHeldBy_keeps hS
    | with_reducible apply State.carRelease_keeps hS
    | with_reducible apply State.setFld_keeps hS

theorem State.cutArray_keeps {P : State → Prop} (hP : Writes P) {s : State} {cd : Nat} {n : Nat} {slot : Nat} (h : P s) :
    CutInv P (State.cutArray s cd n slot) := by
  have hS := hP.toStable
  unfold State.cutArray
  repeat' first
    | with_reducible assumption
    | intro _
    | with_reducible apply State.tktClose_keeps hS
    | with_reducible apply State.cutDrain_keeps hP
    | with_reducible apply State.setArray_keeps hS
    | with_reducible apply State.setFld_keeps hS
    | with_reducible apply State.arrSettle_keeps hS
    | with_reducible apply State.arrDiscard_keeps hS
    | with_reducible apply State.arrRefusalClear_keeps hS
    | with_reducible apply keep_ite (Q := P)
    | with_reducible apply keep_ite (Q := CutInv P)
    | simp only [keep_mk hS]
    | simp only [CutInv.iff]
    | with_reducible apply CutInv.st (P := P)
    | with_reducible apply OptInv.none
    | with_reducible apply OptInv.some
    | split
    | dsimp only

theorem State.withdraw_keeps {P : State → Prop} (hS : Stable P) {s : State} {cd : Nat} {slot : Nat} {r : Nat} (h : P s) :
    P (State.withdraw s cd slot r) := by
  unfold State.withdraw
  repeat' first
    | with_reducible assumption
    | simp only [keep_mk hS]

theorem State.cutBobbin_keeps {P : State → Prop} (hS : Stable P) {s : State} {cd : Nat} {bob : Nat} {slot : Nat} (h : P s) :
    CutInv P (State.cutBobbin s cd bob slot) := by
  unfold State.cutBobbin
  repeat' first
    | with_reducible assumption
    | intro _
    | with_reducible apply State.setBobbin_keeps hS
    | with_reducible apply State.dropSlot_keeps hS
    | with_reducible apply State.withdraw_keeps hS
    | with_reducible apply State.setFld_keeps hS
    | with_reducible apply State.fdrRefusalClear_keeps hS
    | with_reducible apply keep_ite (Q := P)
    | with_reducible apply keep_foldl (Q := P)
    | simp only [keep_mk hS]
    | simp only [CutInv.iff]

theorem State.dropReservations_keeps {P : State → Prop} (hS : Stable P) {s : State} {cd : Nat} {st : Nat} (h : P s) :
    P (State.dropReservations s cd st) := by
  unfold State.dropReservations
  repeat' first
    | with_reducible assumption
    | intro _
    | with_reducible apply State.setRingSlot_keeps hS
    | with_reducible apply keep_foldl (Q := P)

theorem State.cutStation_keeps {P : State → Prop} (hS : Stable P) {s : State} {cd : Nat} {g : Nat} {slot : Nat} (h : P s) :
    CutInv P (State.cutStation s cd g slot) := by
  unfold State.cutStation
  repeat' first
    | with_reducible assumption
    | with_reducible apply State.dropReservations_keeps hS
    | with_reducible apply State.withdraw_keeps hS
    | with_reducible apply State.setUses_keeps hS
    | with_reducible apply State.setStation_keeps hS
    | with_reducible apply State.carRefusalClear_keeps hS
    | with_reducible apply keep_ite (Q := P)
    | simp only [keep_mk hS]
    | simp only [CutInv.iff]
    | split

theorem State.cutVmem_keeps {P : State → Prop} (hP : Writes P) {s : State} {cd : Nat} {ve : Nat} {x : VeCmd} (h : P s) :
    P (State.cutVmem s cd ve x) := by
  have hS := hP.toStable
  unfold State.cutVmem
  repeat' first
    | with_reducible assumption
    | intro _
    | with_reducible apply State.takeFree_keeps hS
    | with_reducible apply State.vldRun_keeps hP
    | with_reducible apply State.reachVe_keeps hS
    | with_reducible apply State.vmRead_keeps hP
    | with_reducible apply State.setVreg_keeps hS
    | with_reducible apply State.vstWords_keeps hP
    | with_reducible apply Inv4.get (P := P)
    | with_reducible apply Inv2.get (P := P)
    | with_reducible apply keep_ite (Q := P)
    | with_reducible apply keep_ite (Q := Inv2 P)
    | with_reducible apply keep_ite (Q := Inv4 P)
    | with_reducible apply keep_foldl (Q := P)
    | with_reducible apply keep_foldl (Q := Inv2 P)
    | with_reducible apply keep_foldl (Q := Inv4 P)
    | simp only [keep_mk hS]
    | simp only [Inv2.iff]
    | simp only [Inv4.iff]
    | with_reducible apply Inv3.snd
    | split
    | refine Inv4.of_eq (P := P) ?_ (by with_reducible assumption)
    | exact Inv4.unmk (P := P) (by with_reducible assumption)
    | refine Inv2.of_eq (P := P) ?_ (by with_reducible assumption)
    | exact Inv2.unmk (P := P) (by with_reducible assumption)
    | dsimp only

theorem State.cutVeCharge_keeps {P : State → Prop} (hS : Stable P) {s : State} {cd : Nat} {ve : Nat} {slot : Nat} (h : P s) :
    P (State.cutVeCharge s cd ve slot) := by
  unfold State.cutVeCharge
  repeat' first
    | with_reducible assumption
    | with_reducible apply State.release_keeps hS
    | with_reducible apply keep_ite (Q := P)

theorem State.cutVe_keeps {P : State → Prop} (hP : Writes P) {s : State} {cd : Nat} {ve : Nat} {slot : Nat} (h : P s) :
    CutInv P (State.cutVe s cd ve slot) := by
  have hS := hP.toStable
  unfold State.cutVe
  repeat' first
    | with_reducible assumption
    | intro _
    | with_reducible apply State.cutVmem_keeps hP
    | with_reducible apply State.tktClose_keeps hS
    | with_reducible apply State.setVe_keeps hS
    | with_reducible apply State.cutVeCharge_keeps hS
    | with_reducible apply keep_ite (Q := P)
    | with_reducible apply keep_ite (Q := CutInv P)
    | simp only [keep_mk hS]
    | simp only [CutInv.iff]
    | with_reducible apply CutInv.st (P := P)
    | with_reducible apply OptInv.none
    | with_reducible apply OptInv.some
    | split
    | dsimp only

theorem State.cutGateway_keeps {P : State → Prop} (hS : Stable P) {s : State} {cd : Nat} {g : Nat} {slot : Nat} {mine : GwTile → Bool} (h : P s) :
    P (State.cutGateway s cd g slot mine) := by
  unfold State.cutGateway
  repeat' first
    | with_reducible assumption
    | intro _
    | with_reducible apply State.setGateway_keeps hS
    | with_reducible apply State.dropReservations_keeps hS
    | with_reducible apply State.setUses_keeps hS
    | with_reducible apply State.mapUse_keeps hS
    | with_reducible apply keep_ite (Q := P)
    | with_reducible apply keep_foldl (Q := P)
    | simp only [keep_mk hS]
    | split

theorem State.cutSe_keeps {P : State → Prop} (hP : Writes P) {s : State} {cd : Nat} {se : Nat} {slot : Nat} (h : P s) :
    CutInv P (State.cutSe s cd se slot) := by
  have hS := hP.toStable
  unfold State.cutSe
  repeat' first
    | with_reducible assumption
    | intro _
    | with_reducible apply State.tktClose_keeps hS
    | with_reducible apply State.setSeUnit_keeps hS
    | with_reducible apply State.abandonStream_keeps hP
    | with_reducible apply State.cutGateway_keeps hS
    | with_reducible apply keep_ite (Q := P)
    | with_reducible apply keep_ite (Q := CutInv P)
    | with_reducible apply keep_foldl (Q := P)
    | with_reducible apply keep_foldl (Q := CutInv P)
    | with_reducible apply OptInv.bind
    | simp only [keep_mk hS]
    | simp only [CutInv.iff]
    | with_reducible apply CutInv.st (P := P)
    | with_reducible apply OptInv.none
    | with_reducible apply OptInv.some
    | split
    | dsimp only

theorem State.cutCharge_keeps {P : State → Prop} (hS : Stable P) {s : State} {cd : Nat} {u : Nat} {slot : Nat} (h : P s) :
    P (State.cutCharge s cd u slot) := by
  unfold State.cutCharge
  repeat' first
    | with_reducible assumption
    | with_reducible apply State.release_keeps hS
    | with_reducible apply keep_ite (Q := P)

theorem State.cutUnit_keeps {P : State → Prop} (hP : Writes P) {s : State} {cd : Nat} {u : Nat} {slot : Nat} (h : P s) :
    CutInv P (State.cutUnit s cd u slot) := by
  have hS := hP.toStable
  unfold State.cutUnit
  repeat' first
    | with_reducible assumption
    | with_reducible apply State.cutArray_keeps hP
    | with_reducible apply State.cutBobbin_keeps hS
    | with_reducible apply State.cutStation_keeps hS
    | with_reducible apply State.cutVe_keeps hP
    | with_reducible apply State.cutSe_keeps hP
    | with_reducible apply State.cutCharge_keeps hS
    | with_reducible apply keep_ite (Q := P)
    | with_reducible apply keep_ite (Q := CutInv P)
    | simp only [keep_mk hS]
    | simp only [CutInv.iff]
    | with_reducible apply CutInv.st (P := P)

theorem State.faultCtx_keeps {P : State → Prop} (hP : Writes P) {s : State} {cd : Nat} {c : Nat} {cause : Nat} {unit : Nat} (h : P s) :
    P (State.faultCtx s cd c cause unit) := by
  have hS := hP.toStable
  unfold State.faultCtx
  repeat' first
    | with_reducible assumption
    | with_reducible apply State.ctxError_keeps hP
    | with_reducible apply keep_ite (Q := P)

theorem State.cutUses_keeps {P : State → Prop} (hS : Stable P) {s : State} {cd : Nat} {slot : Nat} (h : P s) :
    P (State.cutUses s cd slot) := by
  unfold State.cutUses
  repeat' first
    | with_reducible assumption
    | intro _
    | with_reducible apply State.cutGateway_keeps hS
    | with_reducible apply keep_foldl (Q := P)
    | simp only [keep_mk hS]

end Sys2Proof.Machine
end

