-- ==== Sys2Proof/Laws/KeepsMemories.lean ====
section
/-! SUPPORT. What the operations of Machine/Memories.lean keep (Laws/Keeps.lean). -/

namespace Sys2Proof.Machine

theorem State.countBlocked_keeps {P : State → Prop} (hS : Stable P) {s : State} (h : P s) :
    P (State.countBlocked s) := by
  unfold State.countBlocked
  repeat' first
    | with_reducible assumption
    | with_reducible apply State.incFld_keeps hS

theorem State.coreRefused_keeps {P : State → Prop} (hS : Stable P) {s : State} (h : P s) :
    Inv2 P (State.coreRefused s) := by
  unfold State.coreRefused
  repeat' first
    | with_reducible assumption
    | with_reducible apply State.incFld_keeps hS
    | with_reducible apply State.countBlocked_keeps hS
    | simp only [Inv2.iff]

theorem State.readPiece_keeps {P : State → Prop} (hP : Writes P) {s : State} {req : Requester} {a : Nat} {n : Nat} (h : P s) :
    Inv2 P (State.readPiece s req a n) := by
  have hS := hP.toStable
  unfold State.readPiece
  repeat' first
    | with_reducible assumption
    | intro _
    | with_reducible apply State.meshOuter_keeps hS
    | with_reducible apply State.coreRefused_keeps hS
    | with_reducible apply State.fetchWord_keeps hP
    | with_reducible apply State.countBlocked_keeps hS
    | with_reducible apply State.readFor_keeps hP
    | with_reducible apply Inv2.get (P := P)
    | with_reducible apply keep_ite (Q := P)
    | with_reducible apply keep_ite (Q := Inv2 P)
    | simp only [keep_mk hS]
    | simp only [Inv2.iff]
    | split
    | refine Inv2.of_eq (P := P) ?_ (by with_reducible assumption)
    | exact Inv2.unmk (P := P) (by with_reducible assumption)
    | dsimp only

theorem State.readPieces_keeps {P : State → Prop} (hP : Writes P) {s : State} {req : Requester} {x : Nat} {x1 : Nat} {x2 : Nat} (h : P s) :
    Inv2 P (State.readPieces s req x x1 x2) := by
  have hS := hP.toStable
  induction x generalizing s req x1 x2 with
  | zero =>
    unfold State.readPieces
    repeat' first
      | with_reducible assumption
      | with_reducible apply State.readPiece_keeps hP
      | with_reducible apply Inv2.get (P := P)
      | with_reducible apply keep_ite (Q := Inv2 P)
      | simp only [keep_mk hS]
      | simp only [Inv2.iff]
  | succ n ih =>
    unfold State.readPieces
    repeat' first
      | with_reducible apply ih
      | with_reducible assumption
      | with_reducible apply State.readPiece_keeps hP
      | with_reducible apply Inv2.get (P := P)
      | with_reducible apply keep_ite (Q := Inv2 P)
      | simp only [keep_mk hS]
      | simp only [Inv2.iff]

theorem State.storeMeetsPoison_keeps {P : State → Prop} (hP : Writes P) {s : State} {req : Requester} {p : Nat × Nat × List Byte} (h : P s) :
    Inv2 P (State.storeMeetsPoison s req p) := by
  have hS := hP.toStable
  unfold State.storeMeetsPoison
  repeat' first
    | with_reducible assumption
    | intro _
    | with_reducible apply State.decodeAt_keeps hP
    | with_reducible apply Inv2.get (P := P)
    | with_reducible apply keep_ite (Q := P)
    | with_reducible apply keep_ite (Q := Inv2 P)
    | simp only [keep_mk hS]
    | simp only [Inv2.iff]
    | split
    | refine Inv2.of_eq (P := P) ?_ (by with_reducible assumption)
    | exact Inv2.unmk (P := P) (by with_reducible assumption)
    | dsimp only

theorem State.writePieces_keeps {P : State → Prop} (hP : Writes P) {s : State} {req : Requester} {a : Nat} {bs : List Byte} {tag : Nat} (h : P s) :
    Inv2 P (State.writePieces s req a bs tag) := by
  have hS := hP.toStable
  unfold State.writePieces
  repeat' first
    | with_reducible assumption
    | intro _
    | with_reducible apply State.meshOuter_keeps hS
    | with_reducible apply State.storeMeetsPoison_keeps hP
    | with_reducible apply State.mergeWord_keeps hP
    | with_reducible apply Inv2.get (P := P)
    | with_reducible apply keep_ite (Q := P)
    | with_reducible apply keep_ite (Q := Inv2 P)
    | with_reducible apply keep_foldl (Q := P)
    | with_reducible apply keep_foldl (Q := Inv2 P)
    | simp only [keep_mk hS]
    | simp only [Inv2.iff]
    | split
    | refine Inv2.of_eq (P := P) ?_ (by with_reducible assumption)
    | exact Inv2.unmk (P := P) (by with_reducible assumption)
    | dsimp only

theorem State.access_keeps {P : State → Prop} (hP : Writes P) {s : State} {m : MemAccess} (h : P s) :
    P (State.access s m) := by
  have hS := hP.toStable
  unfold State.access
  repeat' first
    | with_reducible assumption
    | with_reducible apply State.readPieces_keeps hP
    | with_reducible apply State.writePieces_keeps hP
    | with_reducible apply Inv2.get (P := P)
    | with_reducible apply keep_ite (Q := P)
    | simp only [keep_mk hS]
    | split

theorem State.accessesProceed_keeps {P : State → Prop} (hP : Writes P) {s : State} (h : P s) :
    P (State.accessesProceed s) := by
  have hS := hP.toStable
  unfold State.accessesProceed
  repeat' first
    | with_reducible assumption
    | intro _
    | with_reducible apply State.access_keeps hP
    | with_reducible apply keep_foldl (Q := P)
    | simp only [keep_mk hS]

theorem State.zeroFrames_keeps {P : State → Prop} (hS : Stable P) {s : State} {fs : List (Nat × Nat × Frame)} (h : P s) :
    P (State.zeroFrames s fs) := by
  unfold State.zeroFrames
  repeat' first
    | with_reducible assumption
    | intro _
    | with_reducible apply State.setFrame_keeps hS
    | with_reducible apply keep_foldl (Q := P)
    | simp only [keep_mk hS]

theorem State.zeroBlock_keeps {P : State → Prop} (hS : Stable P) {s : State} {cd : Nat} {k : Nat} {owner : Option Nat} {moved : optParam Bool true} (h : P s) :
    P (State.zeroBlock s cd k owner moved) := by
  unfold State.zeroBlock
  repeat' first
    | with_reducible assumption
    | with_reducible apply State.setBlock_keeps hS

theorem State.zeroFrameDone_keeps {P : State → Prop} (hP : Writes P) {s : State} {tier : Nat} {n : Nat} (h : P s) :
    P (State.zeroFrameDone s tier n) := by
  have hS := hP.toStable
  unfold State.zeroFrameDone
  repeat' first
    | with_reducible assumption
    | with_reducible apply State.setFrame_keeps hS
    | with_reducible apply State.zeroRange_keeps hP
    | with_reducible apply State.accessesProceed_keeps hP
    | with_reducible apply keep_ite (Q := P)

theorem State.zeroBlockDone_keeps {P : State → Prop} (hP : Writes P) {s : State} {cd : Nat} {k : Nat} (h : P s) :
    P (State.zeroBlockDone s cd k) := by
  have hS := hP.toStable
  unfold State.zeroBlockDone
  repeat' first
    | with_reducible assumption
    | with_reducible apply State.accessesProceed_keeps hP
    | with_reducible apply State.setBlock_keeps hS
    | with_reducible apply State.zeroRange_keeps hP
    | with_reducible apply keep_ite (Q := P)

theorem execZeroingComplete_keeps {P : State → Prop} (hP : Writes P) {tier : Fin 3} {cd : Fin 8} {index : Nat} {s : State} (h : P s) :
    OutInv P (execZeroingComplete tier cd index s) := by
  have hS := hP.toStable
  unfold execZeroingComplete
  repeat' first
    | with_reducible assumption
    | intro _
    | with_reducible apply State.gated_keeps hS
    | with_reducible apply State.zeroBlockDone_keeps hP
    | with_reducible apply State.zeroFrameDone_keeps hP
    | with_reducible apply OutInv.next
    | with_reducible apply keep_ite (Q := P)
    | with_reducible apply keep_ite (Q := OutInv P)
    | simp only [keep_mk hS]
    | split
    | dsimp only

theorem State.scrubAt_keeps {P : State → Prop} (hP : Writes P) {s : State} {die : Nat} {a : Nat} (h : P s) :
    P (State.scrubAt s die a) := by
  have hS := hP.toStable
  unfold State.scrubAt
  repeat' first
    | with_reducible assumption
    | with_reducible apply State.incFld_keeps hS
    | with_reducible apply State.storeWord_keeps hP
    | with_reducible apply State.logCorrected_keeps hS
    | with_reducible apply State.decodeAt_keeps hP
    | with_reducible apply Inv2.get (P := P)
    | with_reducible apply keep_ite (Q := P)
    | simp only [keep_mk hS]
    | split

theorem State.scrubNext_keeps {P : State → Prop} (hS : Stable P) {s : State} {die : Nat} {ctls : Nat} {granules : Nat} (h : P s) :
    P (State.scrubNext s die ctls granules) := by
  unfold State.scrubNext
  repeat' first
    | with_reducible assumption
    | with_reducible apply State.setFld_keeps hS
    | with_reducible apply State.incFld_keeps hS
    | with_reducible apply keep_ite (Q := P)
    | simp only [keep_mk hS]

theorem State.scrub_keeps {P : State → Prop} (hP : Writes P) {s : State} {k : Nat} (h : P s) : P (State.scrub s k) := by
  have hS := hP.toStable
  unfold State.scrub
  extract_lets die p g
  clear_value die
  repeat' first
    | with_reducible assumption
    | with_reducible apply State.scrubNext_keeps hS
    | with_reducible apply State.scrubAt_keeps hP
    | with_reducible apply keep_ite (Q := P)

theorem execScrubWord_keeps {P : State → Prop} (hP : Writes P) {die : Fin 6} {s : State} (h : P s) :
    OutInv P (execScrubWord die s) := by
  have hS := hP.toStable
  unfold execScrubWord
  repeat' first
    | with_reducible assumption
    | with_reducible apply State.scrub_keeps hP
    | with_reducible apply OutInv.next

theorem State.writeFrameData_keeps {P : State → Prop} (hS : Stable P) {s : State} {v : Nat} (h : P s) :
    OptInv P (State.writeFrameData s v) := by
  unfold State.writeFrameData
  extract_lets tier n u seal1 old
  clear_value tier n u seal1 old
  cases ownerOf (v % 8) with
  | none => exact OptInv.none
  | some o =>
    refine keep_ite (Q := OptInv P) OptInv.none ?_
    extract_lets new
    clear_value new
    exact keep_ite (Q := OptInv P) (OptInv.some (State.setFrame_keeps hS h)) (OptInv.some (State.zeroFrames_keeps hS h))

theorem State.writeSramClass_keeps {P : State → Prop} (hS : Stable P) {s : State} {cd : Nat} {k : Nat} {v : Nat} (h : P s) :
    OptInv P (State.writeSramClass s cd k v) := by
  unfold State.writeSramClass
  repeat' first
    | with_reducible assumption
    | intro _
    | with_reducible apply State.zeroBlock_keeps hS
    | with_reducible apply State.setFld_keeps hS
    | with_reducible apply keep_ite (Q := OptInv P)
    | with_reducible apply keep_foldl (Q := P)
    | with_reducible apply OptInv.none
    | with_reducible apply OptInv.some

theorem execMemFrameDataWrite_keeps {P : State → Prop} (hS : Stable P) {acc : Accessor} {v : Word64} {s : State} (h : P s) :
    OutInv P (execMemFrameDataWrite acc v s) := by
  unfold execMemFrameDataWrite
  repeat' first
    | with_reducible assumption
    | intro _
    | with_reducible apply State.regWrite_keeps hS
    | with_reducible apply State.writeFrameData_keeps hS
    | with_reducible apply OutInv.next

theorem execSramClassWrite_keeps {P : State → Prop} (hS : Stable P) {acc : Accessor} {cd : Fin 8} {k : Fin 32} {v : Word64} {s : State} (h : P s) :
    OutInv P (execSramClassWrite acc cd k v s) := by
  unfold execSramClassWrite
  repeat' first
    | with_reducible assumption
    | intro _
    | with_reducible apply State.regWrite_keeps hS
    | with_reducible apply State.writeSramClass_keeps hS
    | with_reducible apply OutInv.next

theorem State.rawRefuse_keeps {P : State → Prop} (hS : Stable P) {s : State} {d : Nat} {u : Nat} {isSealed : Bool} (h : P s) :
    P (State.rawRefuse s d u isSealed) := by
  unfold State.rawRefuse
  repeat' first
    | with_reducible assumption
    | with_reducible apply State.setFld_keeps hS
    | with_reducible apply State.countBlocked_keeps hS
    | with_reducible apply keep_ite (Q := P)

theorem State.rawAccess_keeps {P : State → Prop} (hP : Writes P) {s : State} {d : Nat} {u : Nat} {write : Bool} (h : P s) :
    P (State.rawAccess s d u write) := by
  have hS := hP.toStable
  unfold State.rawAccess
  repeat' first
    | with_reducible assumption
    | intro _
    | with_reducible apply State.rawRefuse_keeps hS
    | with_reducible apply State.closeMerge_keeps hS
    | with_reducible apply State.storeRaw_keeps hP
    | with_reducible apply State.setFld_keeps hS
    | with_reducible apply keep_ite (Q := P)
    | with_reducible apply keep_foldl (Q := P)
    | simp only [keep_mk hS]

theorem execRawRead_keeps {P : State → Prop} (hP : Writes P) {acc : Accessor} {ctl : Fin 62} {s : State} (h : P s) :
    OutInv P (execRawRead acc ctl s) := by
  have hS := hP.toStable
  unfold execRawRead
  repeat' first
    | with_reducible assumption
    | intro _
    | with_reducible apply State.regWrite_keeps hS
    | with_reducible apply State.rawAccess_keeps hP
    | with_reducible apply OutInv.next
    | with_reducible apply OptInv.some

theorem execRawWrite_keeps {P : State → Prop} (hP : Writes P) {acc : Accessor} {ctl : Fin 62} {s : State} (h : P s) :
    OutInv P (execRawWrite acc ctl s) := by
  have hS := hP.toStable
  unfold execRawWrite
  repeat' first
    | with_reducible assumption
    | intro _
    | with_reducible apply State.regWrite_keeps hS
    | with_reducible apply State.rawAccess_keeps hP
    | with_reducible apply OutInv.next
    | with_reducible apply OptInv.some

end Sys2Proof.Machine
end

