-- ==== Sys2Proof/Laws/KeepsClocks.lean ====
section
/-! SUPPORT. What the operations of Machine/Clocks.lean keep (Laws/Keeps.lean). -/

namespace Sys2Proof.Machine

theorem State.setClk_keeps {P : State → Prop} (hS : Stable P) {s : State} {die : Nat} {c : Clk} (h : P s) :
    P (State.setClk s die c) := by
  unfold State.setClk
  repeat' first
    | with_reducible assumption
    | simp only [keep_mk hS]

theorem State.clkPhase_keeps {P : State → Prop} (hS : Stable P) {s : State} {die : Nat} {p : ClkPhase} {goal : Nat} (h : P s) :
    P (State.clkPhase s die p goal) := by
  unfold State.clkPhase
  repeat' first
    | with_reducible assumption
    | with_reducible apply State.setFld_keeps hS
    | with_reducible apply State.setClk_keeps hS

theorem State.clkMove_keeps {P : State → Prop} (hS : Stable P) {s : State} {die : Nat} {goal : Nat} (h : P s) :
    P (State.clkMove s die goal) := by
  unfold State.clkMove
  repeat' first
    | with_reducible assumption
    | intro _
    | with_reducible apply State.clkPhase_keeps hS
    | with_reducible apply keep_ite (Q := P)
    | simp only [keep_mk hS]
    | split
    | dsimp only

theorem State.clkNext_keeps {P : State → Prop} (hS : Stable P) {s : State} {die : Nat} (h : P s) :
    P (State.clkNext s die) := by
  unfold State.clkNext
  repeat' first
    | with_reducible assumption
    | intro _
    | with_reducible apply State.clkPhase_keeps hS
    | with_reducible apply State.setClk_keeps hS
    | with_reducible apply State.clkMove_keeps hS
    | with_reducible apply keep_ite (Q := P)
    | simp only [keep_mk hS]
    | split
    | dsimp only

theorem State.clkKick_keeps {P : State → Prop} (hS : Stable P) {s : State} {die : Nat} (h : P s) :
    P (State.clkKick s die) := by
  unfold State.clkKick
  repeat' first
    | with_reducible assumption
    | with_reducible apply State.clkNext_keeps hS
    | with_reducible apply keep_ite (Q := P)

theorem State.setCause_keeps {P : State → Prop} (hS : Stable P) {s : State} {cause : CapCause} {k : Nat} {v : Nat} (h : P s) :
    P (State.setCause s cause k v) := by
  unfold State.setCause
  repeat' first
    | with_reducible assumption
    | with_reducible apply State.clkKick_keeps hS
    | with_reducible apply State.setFld_keeps hS
    | simp only [keep_mk hS]

theorem State.setCauseAll_keeps {P : State → Prop} (hS : Stable P) {s : State} {cause : CapCause} {v : Nat} (h : P s) :
    P (State.setCauseAll s cause v) := by
  unfold State.setCauseAll
  repeat' first
    | with_reducible assumption
    | intro _
    | with_reducible apply State.setCause_keeps hS
    | with_reducible apply keep_foldl (Q := P)

theorem State.writeClkStep_keeps {P : State → Prop} (hS : Stable P) {s : State} {die : Nat} {v : Nat} (h : P s) :
    P (State.writeClkStep s die v) := by
  unfold State.writeClkStep
  repeat' first
    | with_reducible assumption
    | with_reducible apply State.clkKick_keeps hS
    | with_reducible apply State.setFld_keeps hS
    | with_reducible apply keep_ite (Q := P)
    | simp only [keep_mk hS]

theorem execClkStepWrite_keeps {P : State → Prop} (hS : Stable P) {acc : Accessor} {die : Fin 12} {v : Word64} {s : State} (h : P s) :
    OutInv P (execClkStepWrite acc die v s) := by
  unfold execClkStepWrite
  repeat' first
    | with_reducible assumption
    | intro _
    | with_reducible apply State.regWrite_keeps hS
    | with_reducible apply State.writeClkStep_keeps hS
    | with_reducible apply OutInv.next
    | with_reducible apply OptInv.some

theorem State.stretchIsland_keeps {P : State → Prop} (hS : Stable P) {s : State} {cd : Nat} (h : P s) :
    P (State.stretchIsland s cd) := by
  unfold State.stretchIsland
  repeat' first
    | with_reducible assumption
    | intro _
    | with_reducible apply State.takeFree_keeps hS
    | with_reducible apply Inv2.get (P := P)
    | with_reducible apply keep_ite (Q := P)
    | with_reducible apply keep_ite (Q := Inv2 P)
    | simp only [keep_mk hS]
    | simp only [Inv2.iff]
    | split
    | refine Inv2.of_eq (P := P) ?_ (by with_reducible assumption)
    | exact Inv2.unmk (P := P) (by with_reducible assumption)
    | dsimp only

theorem execStretchPeriod_keeps {P : State → Prop} (hS : Stable P) {die : Fin 12} {carousel : Bool} {s : State} (h : P s) :
    OutInv P (execStretchPeriod die carousel s) := by
  unfold execStretchPeriod
  repeat' first
    | with_reducible assumption
    | intro _
    | with_reducible apply State.gated_keeps hS
    | with_reducible apply State.incFld_keeps hS
    | with_reducible apply State.stretchIsland_keeps hS
    | with_reducible apply OutInv.next
    | with_reducible apply keep_ite (Q := P)
    | with_reducible apply keep_ite (Q := OutInv P)
    | simp only [keep_mk hS]
    | split
    | dsimp only

theorem execSupplyChangeDone_keeps {P : State → Prop} (hS : Stable P) {die : Fin 12} {s : State} (h : P s) :
    OutInv P (execSupplyChangeDone die s) := by
  unfold execSupplyChangeDone
  repeat' first
    | with_reducible assumption
    | intro _
    | with_reducible apply State.clkMove_keeps hS
    | with_reducible apply State.setClk_keeps hS
    | with_reducible apply State.clkNext_keeps hS
    | with_reducible apply OutInv.next
    | with_reducible apply keep_ite (Q := P)
    | with_reducible apply keep_ite (Q := OutInv P)
    | simp only [keep_mk hS]
    | split
    | dsimp only

theorem execGlideComplete_keeps {P : State → Prop} (hS : Stable P) {die : Fin 12} {s : State} (h : P s) :
    OutInv P (execGlideComplete die s) := by
  unfold execGlideComplete
  repeat' first
    | with_reducible assumption
    | with_reducible apply State.incFld_keeps hS
    | with_reducible apply State.setFld_keeps hS
    | with_reducible apply State.clkNext_keeps hS
    | with_reducible apply OutInv.next
    | with_reducible apply keep_ite (Q := P)

theorem execStopHalt_keeps {P : State → Prop} (hS : Stable P) {die : Fin 12} {s : State} (h : P s) :
    OutInv P (execStopHalt die s) := by
  unfold execStopHalt
  repeat' first
    | with_reducible assumption
    | with_reducible apply State.setFld_keeps hS
    | with_reducible apply State.setClk_keeps hS
    | with_reducible apply OutInv.next
    | with_reducible apply keep_ite (Q := P)

theorem execStopRestart_keeps {P : State → Prop} (hP : Writes P) {die : Fin 12} {s : State} (h : P s) :
    OutInv P (execStopRestart die s) := by
  have hS := hP.toStable
  unfold execStopRestart
  repeat' first
    | with_reducible assumption
    | intro _
    | with_reducible apply State.incFld_keeps hS
    | with_reducible apply State.setFld_keeps hS
    | with_reducible apply State.accessesProceed_keeps hP
    | with_reducible apply State.clkNext_keeps hS
    | with_reducible apply OutInv.next
    | with_reducible apply keep_ite (Q := P)
    | with_reducible apply keep_ite (Q := OutInv P)
    | simp only [keep_mk hS]
    | split
    | dsimp only

end Sys2Proof.Machine
end

