-- ==== Sys2Proof/Laws/KeepsCollectives.lean ====
section
/-! SUPPORT. What the operations of Machine/Collectives.lean keep (Laws/Keeps.lean). -/

namespace Sys2Proof.Machine

theorem State.collRead_keeps {P : State → Prop} (hP : Writes P) {s : State} {slot : Nat} {va : Nat} {n : Nat} (h : P s) :
    OptInv (Inv2 P) (State.collRead s slot va n) := by
  have hS := hP.toStable
  unfold State.collRead
  repeat' first
    | with_reducible assumption
    | with_reducible apply State.vaRead_keeps hP
    | simp only [Inv2.iff]
    | with_reducible apply OptInv.none
    | with_reducible apply OptInv.some
    | split
    | refine Inv2.of_eq (P := P) ?_ (by with_reducible assumption)

theorem State.localBlock_keeps {P : State → Prop} (hP : Writes P) {s : State} {slot : Nat} {d : List Byte} {b : Nat} (h : P s) :
    OptInv (Inv2 P) (State.localBlock s slot d b) := by
  have hS := hP.toStable
  unfold State.localBlock
  repeat' first
    | with_reducible assumption
    | with_reducible apply State.collRead_keeps hP
    | with_reducible apply keep_ite (Q := OptInv (Inv2 P))
    | simp only [keep_mk hS]
    | simp only [Inv2.iff]
    | with_reducible apply OptInv.none
    | with_reducible apply OptInv.some
    | split
    | refine Inv2.unmk (P := P) (OptInv.get (Q := Inv2 P) ?_ (by with_reducible assumption))

theorem State.downconvert_keeps {P : State → Prop} (hS : Stable P) {s : State} {re : Nat} {sums : List AccVal} {census : List Nat} (h : P s) :
    Inv2 P (State.downconvert s re sums census) := by
  unfold State.downconvert
  repeat' first
    | with_reducible assumption
    | simp only [keep_mk hS]
    | simp only [Inv2.iff]

theorem State.modColl_keeps {P : State → Prop} (hS : Stable P) {s : State} {re : Nat} {slot : Nat} {k : Nat} {g : Coll → Coll} (h : P s) :
    P (State.modColl s re slot k g) := by
  unfold State.modColl
  repeat' first
    | with_reducible assumption
    | with_reducible apply State.setColls_keeps hS

theorem State.taskBlock_keeps {P : State → Prop} (hP : Writes P) {s : State} {re : Nat} {slot : Nat} {k : Nat} {c : Coll} {t : CTask} {b : Nat} {recv : List (List AccVal)} (h : P s) :
    OptInv (Inv3 P) (State.taskBlock s re slot k c t b recv) := by
  have hS := hP.toStable
  unfold State.taskBlock
  repeat' first
    | with_reducible assumption
    | with_reducible apply State.localBlock_keeps hP
    | with_reducible apply State.downconvert_keeps hS
    | with_reducible apply State.vaWrite_keeps hP
    | with_reducible apply State.vaStore_keeps hP
    | with_reducible apply State.modColl_keeps hS
    | with_reducible apply Inv2.get (P := P)
    | with_reducible apply keep_ite (Q := P)
    | with_reducible apply keep_ite (Q := OptInv (Inv3 P))
    | simp only [keep_mk hS]
    | simp only [Inv3.iff]
    | with_reducible apply OptInv.none
    | with_reducible apply OptInv.some
    | split
    | refine Inv2.unmk (P := P) (OptInv.get (Q := Inv2 P) ?_ (by with_reducible assumption))

theorem State.taskBlocks_keeps {P : State → Prop} (hP : Writes P) {re : Nat} {slot : Nat} {k : Nat} {t : CTask} {recv : Nat → List (List AccVal)} {x : Nat} {x1 : Nat} {x2 : List MByte} {x3 : List Byte} {x4 : Coll} {x5 : State} (h : P x5) :
    OptInv (Inv4 P) (State.taskBlocks re slot k t recv x x1 x2 x3 x4 x5) := by
  have hS := hP.toStable
  induction x generalizing re slot k t recv x1 x2 x3 x4 x5 with
  | zero =>
    unfold State.taskBlocks
    repeat' first
      | with_reducible assumption
      | with_reducible apply State.taskBlock_keeps hP
      | simp only [Inv4.iff]
      | with_reducible apply OptInv.none
      | with_reducible apply OptInv.some
      | split
      | refine Inv3.unmk (P := P) (OptInv.get (Q := Inv3 P) ?_ (by with_reducible assumption))
  | succ n ih =>
    unfold State.taskBlocks
    repeat' first
      | with_reducible apply ih
      | with_reducible assumption
      | with_reducible apply State.taskBlock_keeps hP
      | simp only [Inv4.iff]
      | with_reducible apply OptInv.none
      | with_reducible apply OptInv.some
      | split
      | refine Inv3.unmk (P := P) (OptInv.get (Q := Inv3 P) ?_ (by with_reducible assumption))

theorem State.runTask_keeps {P : State → Prop} (hP : Writes P) {s : State} {re : Nat} {slot : Nat} {k : Nat} {c : Coll} {t : CTask} {n : Nat} {recv : Nat → List (List AccVal)} (h : P s) :
    OptInv P (State.runTask s re slot k c t n recv) := by
  have hS := hP.toStable
  unfold State.runTask
  repeat' first
    | with_reducible assumption
    | with_reducible apply State.taskBlocks_keeps hP
    | with_reducible apply State.modColl_keeps hS
    | simp only [keep_mk hS]
    | with_reducible apply OptInv.none
    | with_reducible apply OptInv.some
    | split
    | refine Inv4.unmk (P := P) (OptInv.get (Q := Inv4 P) ?_ (by with_reducible assumption))

theorem State.sendColl_keeps {P : State → Prop} (hP : Writes P) {s : State} {re : Nat} {slot : Nat} {c : Coll} {o : OutFrame} (h : P s) :
    P (State.sendColl s re slot c o) := by
  have hS := hP.toStable
  unfold State.sendColl
  repeat' first
    | with_reducible assumption
    | with_reducible apply State.incFld_keeps hS
    | with_reducible apply State.sendFrame_keeps hP
    | with_reducible apply State.pump_keeps hS
    | with_reducible apply State.placeFrame_keeps hS
    | with_reducible apply keep_ite (Q := P)

theorem State.collMsg_keeps {P : State → Prop} (hS : Stable P) {s : State} {slot : Nat} {c : Coll} {peer : Nat} {sub : Nat} {a : Nat} {b : Nat} (h : P s) :
    P (State.collMsg s slot c peer sub a b) := by
  unfold State.collMsg
  repeat' first
    | with_reducible assumption
    | with_reducible apply State.sendPicotOn_keeps hS
    | with_reducible apply State.sendPicot_keeps hS
    | with_reducible apply keep_ite (Q := P)

theorem State.noiseRecord_keeps {P : State → Prop} (hP : Writes P) {s : State} {slot : Nat} {c : Coll} {t : Nat × Nat} (h : P s) :
    P (State.noiseRecord s slot c t) := by
  have hS := hP.toStable
  unfold State.noiseRecord
  repeat' first
    | with_reducible assumption
    | with_reducible apply State.vaWrite_keeps hP

theorem State.passResult_keeps {P : State → Prop} (hP : Writes P) {s : State} {re : Nat} {slot : Nat} {k : Nat} {c : Coll} {t : Nat × Nat} (h : P s) :
    P (State.passResult s re slot k c t) := by
  have hS := hP.toStable
  unfold State.passResult
  repeat' first
    | with_reducible assumption
    | intro _
    | with_reducible apply State.noiseRecord_keeps hP
    | with_reducible apply State.modColl_keeps hS
    | with_reducible apply State.collMsg_keeps hS
    | with_reducible apply keep_ite (Q := P)
    | with_reducible apply keep_foldl (Q := P)

theorem State.circStart_keeps {P : State → Prop} (hP : Writes P) {s : State} {re : Nat} {slot : Nat} {k : Nat} {c : Coll} (h : P s) :
    P (State.circStart s re slot k c) := by
  have hS := hP.toStable
  unfold State.circStart
  repeat' first
    | with_reducible assumption
    | with_reducible apply State.modColl_keeps hS
    | with_reducible apply State.collMsg_keeps hS
    | with_reducible apply State.passResult_keeps hP
    | with_reducible apply keep_ite (Q := P)
    | simp only [keep_mk hS]
    | split

theorem State.collSend_keeps {P : State → Prop} (hP : Writes P) {re : Nat} {slot : Nat} {k : Nat} {x : Nat} {x1 : State} (h : P x1) :
    P (State.collSend re slot k x x1) := by
  have hS := hP.toStable
  induction x generalizing re slot k x1 with
  | zero =>
    unfold State.collSend
    repeat' first
      | with_reducible assumption
      | with_reducible apply State.modColl_keeps hS
      | with_reducible apply State.sendColl_keeps hP
      | simp only [keep_mk hS]
      | split
  | succ n ih =>
    unfold State.collSend
    repeat' first
      | with_reducible apply ih
      | with_reducible assumption
      | with_reducible apply State.modColl_keeps hS
      | with_reducible apply State.sendColl_keeps hP
      | simp only [keep_mk hS]
      | split

theorem State.collGrant_keeps {P : State → Prop} (hS : Stable P) {s : State} {re : Nat} {slot : Nat} {k : Nat} {c : Coll} (h : P s) :
    P (State.collGrant s re slot k c) := by
  unfold State.collGrant
  repeat' first
    | with_reducible assumption
    | intro _
    | with_reducible apply State.modColl_keeps hS
    | with_reducible apply State.collMsg_keeps hS
    | with_reducible apply keep_ite (Q := P)
    | with_reducible apply keep_foldl (Q := P)
    | simp only [keep_mk hS]
    | split

theorem State.placeSegments_keeps {P : State → Prop} (hP : Writes P) {s : State} {re : Nat} {slot : Nat} {k : Nat} {c : Coll} (h : P s) :
    P (State.placeSegments s re slot k c) := by
  have hS := hP.toStable
  unfold State.placeSegments
  repeat' first
    | with_reducible assumption
    | with_reducible apply State.vaStore_keeps hP
    | with_reducible apply State.modColl_keeps hS
    | with_reducible apply keep_ite (Q := P)

theorem State.collPump_keeps {P : State → Prop} (hP : Writes P) {re : Nat} {slot : Nat} {x : Nat} {x1 : State} (h : P x1) :
    P (State.collPump re slot x x1) := by
  have hS := hP.toStable
  induction x generalizing re slot x1 with
  | zero =>
    unfold State.collPump
    repeat' first
      | with_reducible assumption
      | intro _
      | with_reducible apply State.runTask_keeps hP
      | with_reducible apply State.circStart_keeps hP
      | with_reducible apply State.collSend_keeps hP
      | with_reducible apply State.collGrant_keeps hS
      | with_reducible apply State.placeSegments_keeps hP
      | with_reducible apply keep_ite (Q := P)
      | with_reducible apply keep_foldl (Q := P)
      | with_reducible apply OptInv.getD (Q := P)
      | simp only [keep_mk hS]
      | split
  | succ n ih =>
    unfold State.collPump
    repeat' first
      | with_reducible apply ih
      | with_reducible assumption
      | intro _
      | with_reducible apply State.runTask_keeps hP
      | with_reducible apply State.circStart_keeps hP
      | with_reducible apply State.collSend_keeps hP
      | with_reducible apply State.collGrant_keeps hS
      | with_reducible apply State.placeSegments_keeps hP
      | with_reducible apply keep_ite (Q := P)
      | with_reducible apply keep_foldl (Q := P)
      | with_reducible apply OptInv.getD (Q := P)
      | simp only [keep_mk hS]
      | split

theorem State.reFault_keeps {P : State → Prop} (hS : Stable P) {s : State} {re : Nat} {slot : Nat} {bit : Fld} {code : Nat} {tag : Nat} {inst : Nat} {entry : Nat} {e : Option Ev} (h : P s) :
    P (State.reFault s re slot bit code tag inst entry e) := by
  unfold State.reFault
  repeat' first
    | with_reducible assumption
    | with_reducible apply State.setFld_keeps hS
    | with_reducible apply State.raise_keeps hS
    | simp only [keep_mk hS]
    | split

theorem State.reError_keeps {P : State → Prop} (hP : Writes P) {s : State} {ctxs : List (Nat × Nat)} {tag : Nat} (h : P s) :
    P (State.reError s ctxs tag) := by
  have hS := hP.toStable
  unfold State.reError
  repeat' first
    | with_reducible assumption
    | intro _
    | with_reducible apply State.ctxError_keeps hP
    | with_reducible apply keep_foldl (Q := P)

theorem State.reConsume_keeps {P : State → Prop} (hS : Stable P) {s : State} {re : Nat} {cd : Nat} {slot : Nat} {k : Nat} (h : P s) :
    P (State.reConsume s re cd slot k) := by
  unfold State.reConsume
  repeat' first
    | with_reducible assumption
    | with_reducible apply State.setSync_keeps hS

theorem State.collTable_keeps {P : State → Prop} (hP : Writes P) {s : State} {slot : Nat} {d : List Byte} (h : P s) :
    OptInv (Inv2 P) (State.collTable s slot d) := by
  have hS := hP.toStable
  unfold State.collTable
  repeat' first
    | with_reducible assumption
    | with_reducible apply State.collRead_keeps hP
    | with_reducible apply keep_ite (Q := OptInv (Inv2 P))
    | simp only [Inv2.iff]
    | with_reducible apply OptInv.some

theorem State.sendFrames_keeps {P : State → Prop} (hP : Writes P) {slot : Nat} {d : List Byte} {x : List (Nat × Nat × Nat)} {x1 : State} (h : P x1) :
    OptInv (Inv3 P) (State.sendFrames slot d x x1) := by
  have hS := hP.toStable
  induction x generalizing slot d x1 with
  | nil =>
    unfold State.sendFrames
    repeat' first
      | with_reducible assumption
      | intro _
      | with_reducible apply State.collRead_keeps hP
      | with_reducible apply Inv3.get (P := P)
      | with_reducible apply OptInv.mapQ (R := Inv3 P)
      | simp only [Inv3.iff]
      | with_reducible apply OptInv.none
      | with_reducible apply OptInv.some
      | split
      | refine Inv2.unmk (P := P) (OptInv.get (Q := Inv2 P) ?_ (by with_reducible assumption))
  | cons x xs ih =>
    unfold State.sendFrames
    repeat' first
      | with_reducible apply ih
      | with_reducible assumption
      | intro _
      | with_reducible apply State.collRead_keeps hP
      | with_reducible apply Inv3.get (P := P)
      | with_reducible apply OptInv.mapQ (R := Inv3 P)
      | simp only [Inv3.iff]
      | with_reducible apply OptInv.none
      | with_reducible apply OptInv.some
      | split
      | refine Inv2.unmk (P := P) (OptInv.get (Q := Inv2 P) ?_ (by with_reducible assumption))

theorem State.localSquares_keeps {P : State → Prop} (hP : Writes P) {slot : Nat} {d : List Byte} {x : Nat} {x1 : Nat} {x2 : Nat} {x3 : Bool} {x4 : State} (h : P x4) :
    OptInv (Inv3 P) (State.localSquares slot d x x1 x2 x3 x4) := by
  have hS := hP.toStable
  induction x generalizing slot d x1 x2 x3 x4 with
  | zero =>
    unfold State.localSquares
    repeat' first
      | with_reducible assumption
      | with_reducible apply State.localBlock_keeps hP
      | simp only [Inv3.iff]
      | with_reducible apply OptInv.none
      | with_reducible apply OptInv.some
      | split
      | refine Inv2.unmk (P := P) (OptInv.get (Q := Inv2 P) ?_ (by with_reducible assumption))
  | succ n ih =>
    unfold State.localSquares
    repeat' first
      | with_reducible apply ih
      | with_reducible assumption
      | with_reducible apply State.localBlock_keeps hP
      | simp only [Inv3.iff]
      | with_reducible apply OptInv.none
      | with_reducible apply OptInv.some
      | split
      | refine Inv2.unmk (P := P) (OptInv.get (Q := Inv2 P) ?_ (by with_reducible assumption))

theorem State.gatherOwn_keeps {P : State → Prop} (hP : Writes P) {s : State} {slot : Nat} {c : Coll} (h : P s) :
    OptInv (Inv2 P) (State.gatherOwn s slot c) := by
  have hS := hP.toStable
  unfold State.gatherOwn
  repeat' first
    | with_reducible assumption
    | with_reducible apply State.collRead_keeps hP
    | with_reducible apply State.vaStore_keeps hP
    | with_reducible apply keep_ite (Q := OptInv (Inv2 P))
    | simp only [keep_mk hS]
    | simp only [Inv2.iff]
    | with_reducible apply OptInv.none
    | with_reducible apply OptInv.some
    | split
    | refine Inv2.unmk (P := P) (OptInv.get (Q := Inv2 P) ?_ (by with_reducible assumption))

theorem State.collBegin_keeps {P : State → Prop} (hP : Writes P) {s : State} {slot : Nat} {c : Coll} {table : List MByte} (h : P s) :
    OptInv (Inv2 P) (State.collBegin s slot c table) := by
  have hS := hP.toStable
  unfold State.collBegin
  repeat' first
    | with_reducible assumption
    | intro _
    | with_reducible apply State.gatherOwn_keeps hP
    | with_reducible apply State.localSquares_keeps hP
    | with_reducible apply State.sendFrames_keeps hP
    | with_reducible apply State.collRead_keeps hP
    | with_reducible apply Inv3.get (P := P)
    | with_reducible apply Inv2.get (P := P)
    | with_reducible apply keep_ite (Q := OptInv (Inv2 P))
    | with_reducible apply OptInv.mapQ (R := Inv2 P)
    | with_reducible apply OptInv.mapQ (R := Inv3 P)
    | simp only [keep_mk hS]
    | simp only [Inv2.iff]
    | with_reducible apply OptInv.none
    | with_reducible apply OptInv.some
    | split
    | refine Inv3.unmk (P := P) (OptInv.get (Q := Inv3 P) ?_ (by with_reducible assumption))

theorem State.startFail_keeps {P : State → Prop} (hP : Writes P) {s : State} {re : Nat} {slot : Nat} {land : Bool} {d : List Byte} {inst : Nat} {ctxs : List (Nat × Nat)} (h : P s) :
    P (State.startFail s re slot land d inst ctxs) := by
  have hS := hP.toStable
  unfold State.startFail
  repeat' first
    | with_reducible assumption
    | with_reducible apply State.reFault_keeps hS
    | with_reducible apply State.reError_keeps hP
    | with_reducible apply State.setFld_keeps hS

theorem State.collStart_keeps {P : State → Prop} (hP : Writes P) {s : State} {re : Nat} {slot : Nat} {op : Nat} (h : P s) :
    P (State.collStart s re slot op) := by
  have hS := hP.toStable
  unfold State.collStart
  repeat' first
    | with_reducible assumption
    | intro _
    | with_reducible apply State.vaRead_keeps hP
    | with_reducible apply State.startFail_keeps hP
    | with_reducible apply State.reConsume_keeps hS
    | with_reducible apply State.collTable_keeps hP
    | with_reducible apply State.collBegin_keeps hP
    | with_reducible apply State.setColls_keeps hS
    | with_reducible apply State.setFld_keeps hS
    | with_reducible apply State.collMsg_keeps hS
    | with_reducible apply State.collPump_keeps hP
    | with_reducible apply keep_ite (Q := P)
    | with_reducible apply keep_foldl (Q := P)
    | simp only [keep_mk hS]
    | split
    | refine Inv2.of_eq (P := P) ?_ (by with_reducible assumption)
    | refine Inv2.unmk (P := P) (OptInv.get (Q := Inv2 P) ?_ (by with_reducible assumption))

theorem State.freeLanded_keeps {P : State → Prop} (hS : Stable P) {s : State} {re : Nat} {slot : Nat} {l : Landed} (h : P s) :
    P (State.freeLanded s re slot l) := by
  unfold State.freeLanded
  repeat' first
    | with_reducible assumption
    | with_reducible apply State.setLanded_keeps hS

theorem State.countRx_keeps {P : State → Prop} (hS : Stable P) {s : State} {re : Nat} {n : Nat} (h : P s) :
    P (State.countRx s re n) := by
  unfold State.countRx
  repeat' first
    | with_reducible assumption
    | with_reducible apply State.incFld_keeps hS

theorem State.reduceStep_keeps {P : State → Prop} (hP : Writes P) {s : State} {re : Nat} {slot : Nat} {k : Nat} {c : Coll} {t : CTask} (h : P s) :
    OptInv P (State.reduceStep s re slot k c t) := by
  have hS := hP.toStable
  unfold State.reduceStep
  repeat' first
    | with_reducible assumption
    | intro _
    | with_reducible apply State.countRx_keeps hS
    | with_reducible apply State.freeLanded_keeps hS
    | with_reducible apply State.setLanded_keeps hS
    | with_reducible apply State.runTask_keeps hP
    | with_reducible apply keep_ite (Q := P)
    | with_reducible apply keep_ite (Q := OptInv P)
    | with_reducible apply keep_foldl (Q := P)
    | with_reducible apply OptInv.mapQ (R := P)
    | with_reducible apply OptInv.none

theorem State.copyStep_keeps {P : State → Prop} (hP : Writes P) {s : State} {re : Nat} {slot : Nat} {k : Nat} {c : Coll} {l : Landed} (h : P s) :
    OptInv P (State.copyStep s re slot k c l) := by
  have hS := hP.toStable
  unfold State.copyStep
  repeat' first
    | with_reducible assumption
    | with_reducible apply State.vaWrite_keeps hP
    | with_reducible apply State.vaStore_keeps hP
    | with_reducible apply State.modColl_keeps hS
    | with_reducible apply State.freeLanded_keeps hS
    | with_reducible apply State.countRx_keeps hS
    | with_reducible apply keep_ite (Q := OptInv P)
    | simp only [keep_mk hS]
    | with_reducible apply OptInv.none
    | with_reducible apply OptInv.some

theorem State.pieceStep_keeps {P : State → Prop} (hP : Writes P) {s : State} {re : Nat} {slot : Nat} {k : Nat} {c : Coll} {l : Landed} (h : P s) :
    OptInv P (State.pieceStep s re slot k c l) := by
  have hS := hP.toStable
  unfold State.pieceStep
  repeat' first
    | with_reducible assumption
    | with_reducible apply State.freeLanded_keeps hS
    | with_reducible apply State.modColl_keeps hS
    | with_reducible apply State.vaStore_keeps hP
    | with_reducible apply State.countRx_keeps hS
    | with_reducible apply keep_ite (Q := OptInv P)
    | simp only [keep_mk hS]
    | with_reducible apply OptInv.none
    | with_reducible apply OptInv.some
    | split

theorem State.consumeOne_keeps {P : State → Prop} (hP : Writes P) {s : State} {re : Nat} {slot : Nat} {l : Landed} (h : P s) :
    OptInv P (State.consumeOne s re slot l) := by
  have hS := hP.toStable
  unfold State.consumeOne
  repeat' first
    | with_reducible assumption
    | intro _
    | with_reducible apply State.freeLanded_keeps hS
    | with_reducible apply State.pieceStep_keeps hP
    | with_reducible apply State.copyStep_keeps hP
    | with_reducible apply State.reduceStep_keeps hP
    | with_reducible apply keep_ite (Q := OptInv P)
    | with_reducible apply OptInv.bind
    | with_reducible apply OptInv.none
    | with_reducible apply OptInv.some
    | split

theorem State.collEnd_keeps {P : State → Prop} (hP : Writes P) {s : State} {re : Nat} {slot : Nat} {k : Nat} {c : Coll} (h : P s) :
    P (State.collEnd s re slot k c) := by
  have hS := hP.toStable
  unfold State.collEnd
  repeat' first
    | with_reducible assumption
    | intro _
    | with_reducible apply State.censusMerge_keeps hP
    | with_reducible apply State.setColls_keeps hS
    | with_reducible apply State.setLanded_keeps hS
    | with_reducible apply State.bumpCnt_keeps hS
    | with_reducible apply State.reFault_keeps hS
    | with_reducible apply State.reError_keeps hP
    | with_reducible apply State.collPump_keeps hP
    | with_reducible apply State.incFld_keeps hS
    | with_reducible apply keep_ite (Q := P)
    | with_reducible apply keep_ite (Q := OptInv (Inv2 P))
    | with_reducible apply keep_foldl (Q := P)
    | simp only [keep_mk hS]
    | simp only [Inv2.iff]
    | with_reducible apply OptInv.some
    | split
    | refine Inv2.unmk (P := P) (OptInv.get (Q := Inv2 P) ?_ (by with_reducible assumption))

theorem State.reMsg_keeps {P : State → Prop} (hS : Stable P) {s : State} {sub : Nat} {ready : Nat → Coll → Bool} (h : P s) :
    OptInv (Inv4 P) (State.reMsg s sub ready) := by
  unfold State.reMsg
  repeat' first
    | with_reducible assumption
    | with_reducible apply State.takeMsg_keeps hS
    | with_reducible apply State.countStale_keeps hS
    | with_reducible apply keep_ite (Q := P)
    | simp only [keep_mk hS]
    | simp only [Inv4.iff]
    | with_reducible apply OptInv.none
    | with_reducible apply OptInv.some
    | split
    | refine Inv3.unmk (P := P) (OptInv.get (Q := Inv3 P) ?_ (by with_reducible assumption))

theorem State.gatherMsg_keeps {P : State → Prop} (hP : Writes P) {s : State} {sub : Nat} (h : P s) :
    P (State.gatherMsg s sub) := by
  have hS := hP.toStable
  unfold State.gatherMsg
  repeat' first
    | with_reducible assumption
    | with_reducible apply State.reMsg_keeps hS
    | with_reducible apply State.collPump_keeps hP
    | with_reducible apply State.modColl_keeps hS
    | with_reducible apply State.collMsg_keeps hS
    | with_reducible apply keep_ite (Q := P)
    | simp only [keep_mk hS]
    | split
    | refine Inv4.unmk (P := P) (OptInv.get (Q := Inv4 P) ?_ (by with_reducible assumption))

theorem State.resultMsg_keeps {P : State → Prop} (hP : Writes P) {s : State} {sub : Nat} (h : P s) :
    P (State.resultMsg s sub) := by
  have hS := hP.toStable
  unfold State.resultMsg
  repeat' first
    | with_reducible assumption
    | with_reducible apply State.reMsg_keeps hS
    | with_reducible apply State.passResult_keeps hP
    | with_reducible apply State.collMsg_keeps hS
    | with_reducible apply keep_ite (Q := P)
    | simp only [keep_mk hS]
    | split
    | refine Inv4.unmk (P := P) (OptInv.get (Q := Inv4 P) ?_ (by with_reducible assumption))

theorem State.dropColls_keeps {P : State → Prop} (hS : Stable P) {s : State} {re : Nat} {slot : Nat} (h : P s) :
    P (State.dropColls s re slot) := by
  unfold State.dropColls
  repeat' first
    | with_reducible assumption
    | with_reducible apply State.setLanded_keeps hS
    | with_reducible apply State.setColls_keeps hS

theorem State.resetLists_keeps {P : State → Prop} (hS : Stable P) {s : State} {slot : Nat} (h : P s) :
    P (State.resetLists s slot) := by
  unfold State.resetLists
  repeat' first
    | with_reducible assumption
    | intro _
    | with_reducible apply State.dropColls_keeps hS
    | with_reducible apply State.setFld_keeps hS
    | with_reducible apply keep_foldl (Q := P)
    | simp only [keep_mk hS]

theorem State.writeListCtl_keeps {P : State → Prop} (hS : Stable P) {s : State} {re : Nat} {slot : Nat} {v : Nat} (h : P s) :
    OptInv P (State.writeListCtl s re slot v) := by
  unfold State.writeListCtl
  repeat' first
    | with_reducible assumption
    | with_reducible apply State.setFld_keeps hS
    | with_reducible apply keep_ite (Q := OptInv P)
    | simp only [keep_mk hS]
    | with_reducible apply OptInv.none
    | with_reducible apply OptInv.some

theorem State.creditTick_keeps {P : State → Prop} (hS : Stable P) {s : State} (h : P s) :
    P (State.creditTick s) := by
  unfold State.creditTick
  repeat' first
    | with_reducible assumption
    | intro _
    | with_reducible apply State.incFld_keeps hS
    | with_reducible apply keep_ite (Q := P)
    | with_reducible apply keep_foldl (Q := P)

theorem execAllReduce_keeps {P : State → Prop} (hP : Writes P) {re : Fin 2} {slot : Fin 4} {s : State} (h : P s) :
    OutInv P (execAllReduce re slot s) := by
  have hS := hP.toStable
  unfold execAllReduce
  repeat' first
    | with_reducible assumption
    | with_reducible apply State.collStart_keeps hP
    | with_reducible apply OutInv.next

theorem execReduceScatter_keeps {P : State → Prop} (hP : Writes P) {re : Fin 2} {slot : Fin 4} {s : State} (h : P s) :
    OutInv P (execReduceScatter re slot s) := by
  have hS := hP.toStable
  unfold execReduceScatter
  repeat' first
    | with_reducible assumption
    | with_reducible apply State.collStart_keeps hP
    | with_reducible apply OutInv.next

theorem execAllGather_keeps {P : State → Prop} (hP : Writes P) {re : Fin 2} {slot : Fin 4} {s : State} (h : P s) :
    OutInv P (execAllGather re slot s) := by
  have hS := hP.toStable
  unfold execAllGather
  repeat' first
    | with_reducible assumption
    | with_reducible apply State.collStart_keeps hP
    | with_reducible apply OutInv.next

theorem execAllToAll_keeps {P : State → Prop} (hP : Writes P) {re : Fin 2} {slot : Fin 4} {s : State} (h : P s) :
    OutInv P (execAllToAll re slot s) := by
  have hS := hP.toStable
  unfold execAllToAll
  repeat' first
    | with_reducible assumption
    | with_reducible apply State.collStart_keeps hP
    | with_reducible apply OutInv.next

theorem execPermute_keeps {P : State → Prop} (hP : Writes P) {re : Fin 2} {slot : Fin 4} {s : State} (h : P s) :
    OutInv P (execPermute re slot s) := by
  have hS := hP.toStable
  unfold execPermute
  repeat' first
    | with_reducible assumption
    | with_reducible apply State.collStart_keeps hP
    | with_reducible apply OutInv.next

theorem execSend_keeps {P : State → Prop} (hP : Writes P) {re : Fin 2} {slot : Fin 4} {s : State} (h : P s) :
    OutInv P (execSend re slot s) := by
  have hS := hP.toStable
  unfold execSend
  repeat' first
    | with_reducible assumption
    | with_reducible apply State.collStart_keeps hP
    | with_reducible apply OutInv.next

theorem execRecv_keeps {P : State → Prop} (hP : Writes P) {re : Fin 2} {slot : Fin 4} {s : State} (h : P s) :
    OutInv P (execRecv re slot s) := by
  have hS := hP.toStable
  unfold execRecv
  repeat' first
    | with_reducible assumption
    | with_reducible apply State.collStart_keeps hP
    | with_reducible apply OutInv.next

theorem execShift_keeps {P : State → Prop} (hP : Writes P) {re : Fin 2} {slot : Fin 4} {s : State} (h : P s) :
    OutInv P (execShift re slot s) := by
  have hS := hP.toStable
  unfold execShift
  repeat' first
    | with_reducible assumption
    | with_reducible apply State.collStart_keeps hP
    | with_reducible apply OutInv.next

theorem execBarrier_keeps {P : State → Prop} (hP : Writes P) {re : Fin 2} {slot : Fin 4} {s : State} (h : P s) :
    OutInv P (execBarrier re slot s) := by
  have hS := hP.toStable
  unfold execBarrier
  repeat' first
    | with_reducible assumption
    | with_reducible apply State.collStart_keeps hP
    | with_reducible apply OutInv.next

theorem execReFrameConsume_keeps {P : State → Prop} (hP : Writes P) {re : Fin 2} {slot : Fin 4} {s : State} (h : P s) :
    OutInv P (execReFrameConsume re slot s) := by
  have hS := hP.toStable
  unfold execReFrameConsume
  repeat' first
    | with_reducible assumption
    | intro _
    | with_reducible apply State.consumeOne_keeps hP
    | with_reducible apply State.collPump_keeps hP
    | with_reducible apply OutInv.next
    | with_reducible apply OptInv.findSome
    | split
    | refine OptInv.get (Q := P) ?_ (by with_reducible assumption)

theorem execCollectiveEnd_keeps {P : State → Prop} (hP : Writes P) {re : Fin 2} {slot : Fin 4} {index : Fin 4} {s : State} (h : P s) :
    OutInv P (execCollectiveEnd re slot index s) := by
  have hS := hP.toStable
  unfold execCollectiveEnd
  repeat' first
    | with_reducible assumption
    | with_reducible apply State.collEnd_keeps hP
    | with_reducible apply OutInv.next
    | with_reducible apply keep_ite (Q := P)
    | split

theorem execCollectiveTimeout_keeps {P : State → Prop} (hS : Stable P) {re : Fin 2} {slot : Fin 4} {s : State} (h : P s) :
    OutInv P (execCollectiveTimeout re slot s) := by
  unfold execCollectiveTimeout
  repeat' first
    | with_reducible assumption
    | with_reducible apply State.reFault_keeps hS
    | with_reducible apply State.modColl_keeps hS
    | with_reducible apply OutInv.next
    | simp only [keep_mk hS]
    | split

theorem execCredit_keeps {P : State → Prop} (hP : Writes P) {s : State} (h : P s) :
    OutInv P (execCredit s) := by
  have hS := hP.toStable
  unfold execCredit
  repeat' first
    | with_reducible assumption
    | with_reducible apply State.reMsg_keeps hS
    | with_reducible apply State.collPump_keeps hP
    | with_reducible apply State.modColl_keeps hS
    | with_reducible apply OutInv.next
    | simp only [keep_mk hS]
    | split
    | refine Inv4.unmk (P := P) (OptInv.get (Q := Inv4 P) ?_ (by with_reducible assumption))

theorem execCount_keeps {P : State → Prop} (hP : Writes P) {s : State} (h : P s) :
    OutInv P (execCount s) := by
  have hS := hP.toStable
  unfold execCount
  repeat' first
    | with_reducible assumption
    | with_reducible apply State.reMsg_keeps hS
    | with_reducible apply State.collPump_keeps hP
    | with_reducible apply State.modColl_keeps hS
    | with_reducible apply State.vaWrite_keeps hP
    | with_reducible apply OutInv.next
    | with_reducible apply keep_ite (Q := P)
    | simp only [keep_mk hS]
    | split
    | refine Inv4.unmk (P := P) (OptInv.get (Q := Inv4 P) ?_ (by with_reducible assumption))

theorem execBarrierGather_keeps {P : State → Prop} (hP : Writes P) {s : State} (h : P s) :
    OutInv P (execBarrierGather s) := by
  have hS := hP.toStable
  unfold execBarrierGather
  repeat' first
    | with_reducible assumption
    | with_reducible apply State.gatherMsg_keeps hP
    | with_reducible apply OutInv.next

theorem execBarrierResult_keeps {P : State → Prop} (hP : Writes P) {s : State} (h : P s) :
    OutInv P (execBarrierResult s) := by
  have hS := hP.toStable
  unfold execBarrierResult
  repeat' first
    | with_reducible assumption
    | with_reducible apply State.resultMsg_keeps hP
    | with_reducible apply OutInv.next

theorem execNoiseGather_keeps {P : State → Prop} (hP : Writes P) {s : State} (h : P s) :
    OutInv P (execNoiseGather s) := by
  have hS := hP.toStable
  unfold execNoiseGather
  repeat' first
    | with_reducible assumption
    | with_reducible apply State.gatherMsg_keeps hP
    | with_reducible apply OutInv.next

theorem execNoiseResult_keeps {P : State → Prop} (hP : Writes P) {s : State} (h : P s) :
    OutInv P (execNoiseResult s) := by
  have hS := hP.toStable
  unfold execNoiseResult
  repeat' first
    | with_reducible assumption
    | with_reducible apply State.resultMsg_keeps hP
    | with_reducible apply OutInv.next

theorem execReListCtlWrite_keeps {P : State → Prop} (hS : Stable P) {acc : Accessor} {re : Fin 2} {slot : Fin 4} {v : Word64} {s : State} (h : P s) :
    OutInv P (execReListCtlWrite acc re slot v s) := by
  unfold execReListCtlWrite
  repeat' first
    | with_reducible assumption
    | intro _
    | with_reducible apply State.regWrite_keeps hS
    | with_reducible apply State.writeListCtl_keeps hS
    | with_reducible apply OutInv.next

theorem State.writeReSeed_keeps {P : State → Prop} (hS : Stable P) {s : State} {re : Nat} {v : Word64} (h : P s) :
    P (State.writeReSeed s re v) := by
  unfold State.writeReSeed
  repeat' first
    | with_reducible assumption
    | with_reducible apply State.setFld_keeps hS
    | simp only [keep_mk hS]

theorem execReSrSeedWrite_keeps {P : State → Prop} (hS : Stable P) {acc : Accessor} {re : Fin 2} {v : Word64} {s : State} (h : P s) :
    OutInv P (execReSrSeedWrite acc re v s) := by
  unfold execReSrSeedWrite
  repeat' first
    | with_reducible assumption
    | intro _
    | with_reducible apply State.regWrite_keeps hS
    | with_reducible apply State.writeReSeed_keeps hS
    | with_reducible apply OutInv.next
    | with_reducible apply OptInv.some

theorem execYieldForced_keeps {P : State → Prop} (hP : Writes P) {cd : Fin 8} {s : State} (h : P s) :
    OutInv P (execYieldForced cd s) := by
  have hS := hP.toStable
  unfold execYieldForced
  repeat' first
    | with_reducible assumption
    | intro _
    | with_reducible apply State.cutUnit_keeps hP
    | with_reducible apply State.faultCtx_keeps hP
    | with_reducible apply State.incFld_keeps hS
    | with_reducible apply State.cutUses_keeps hS
    | with_reducible apply State.yieldSettle_keeps hS
    | with_reducible apply State.setFld_keeps hS
    | with_reducible apply State.notice_keeps hP
    | with_reducible apply State.raise_keeps hS
    | with_reducible apply OutInv.next
    | with_reducible apply keep_ite (Q := P)
    | with_reducible apply keep_foldl (Q := P)
    | simp only [keep_mk hS]
    | with_reducible apply CutInv.st (P := P)
    | split

end Sys2Proof.Machine
end

