-- ==== Sys2Proof/Laws/KeepsRecorder.lean ====
section
/-! SUPPORT. What the operations of Machine/Recorder.lean keep (Laws/Keeps.lean). -/

namespace Sys2Proof.Machine

theorem State.bucketSettle_keeps {P : State → Prop} (hS : Stable P) {s : State} {code : Nat} (h : P s) :
    P (State.bucketSettle s code) := by
  unfold State.bucketSettle
  repeat' first
    | with_reducible assumption
    | simp only [keep_mk hS]

theorem State.bucketTake_keeps {P : State → Prop} (hS : Stable P) {s : State} {code : Nat} (h : P s) :
    OptInv P (State.bucketTake s code) := by
  unfold State.bucketTake
  repeat' first
    | with_reducible assumption
    | with_reducible apply keep_ite (Q := OptInv P)
    | simp only [keep_mk hS]
    | with_reducible apply OptInv.none
    | with_reducible apply OptInv.some

theorem State.startFlush_keeps {P : State → Prop} (hS : Stable P) {s : State} (h : P s) :
    P (State.startFlush s) := by
  unfold State.startFlush
  repeat' first
    | with_reducible assumption
    | with_reducible apply State.setFld_keeps hS
    | with_reducible apply keep_ite (Q := P)
    | simp only [keep_mk hS]

theorem State.storeRecord_keeps {P : State → Prop} (hS : Stable P) {s : State} {e : Event} {suppr : Nat} (h : P s) :
    P (State.storeRecord s e suppr) := by
  unfold State.storeRecord
  repeat' first
    | with_reducible assumption
    | with_reducible apply State.setFld_keeps hS
    | with_reducible apply keep_ite (Q := P)
    | simp only [keep_mk hS]

theorem State.recordEvent_keeps {P : State → Prop} (hS : Stable P) {s : State} {e : Event} (h : P s) :
    P (State.recordEvent s e) := by
  unfold State.recordEvent
  repeat' first
    | with_reducible assumption
    | with_reducible apply State.bucketTake_keeps hS
    | with_reducible apply State.incFld_keeps hS
    | with_reducible apply State.incSat_keeps hS
    | with_reducible apply State.setFld_keeps hS
    | with_reducible apply State.storeRecord_keeps hS
    | with_reducible apply State.startFlush_keeps hS
    | with_reducible apply keep_ite (Q := P)
    | simp only [keep_mk hS]
    | split
    | refine OptInv.get (Q := P) ?_ (by with_reducible assumption)

theorem State.recordAll_keeps {P : State → Prop} (hS : Stable P) {s : State} (h : P s) :
    P (State.recordAll s) := by
  unfold State.recordAll
  repeat' first
    | with_reducible assumption
    | intro _
    | with_reducible apply State.recordEvent_keeps hS
    | with_reducible apply keep_foldl (Q := P)
    | simp only [keep_mk hS]

theorem State.flushDone_keeps {P : State → Prop} (hS : Stable P) {s : State} (h : P s) :
    P (State.flushDone s) := by
  unfold State.flushDone
  repeat' first
    | with_reducible assumption
    | with_reducible apply State.setFld_keeps hS
    | with_reducible apply State.startFlush_keeps hS
    | with_reducible apply keep_ite (Q := P)
    | simp only [keep_mk hS]
    | split

theorem State.clearLog_keeps {P : State → Prop} (hS : Stable P) {s : State} (h : P s) :
    P (State.clearLog s) := by
  unfold State.clearLog
  repeat' first
    | with_reducible assumption
    | with_reducible apply State.setFld_keeps hS
    | with_reducible apply State.storeRecord_keeps hS
    | with_reducible apply keep_ite (Q := P)
    | simp only [keep_mk hS]

theorem State.scanLog_keeps {P : State → Prop} (hS : Stable P) {s : State} (h : P s) :
    P (State.scanLog s) := by
  unfold State.scanLog
  repeat' first
    | with_reducible assumption
    | with_reducible apply State.setFld_keeps hS

theorem execEventRaise_keeps {P : State → Prop} (hS : Stable P) {s : State} (h : P s) :
    OutInv P (execEventRaise s) := by
  unfold execEventRaise
  repeat' first
    | with_reducible assumption
    | with_reducible apply State.recordEvent_keeps hS
    | with_reducible apply OutInv.next
    | simp only [keep_mk hS]
    | split

theorem execEvrFlush_keeps {P : State → Prop} (hS : Stable P) {acc : Accessor} {s : State} (h : P s) :
    OutInv P (execEvrFlush acc s) := by
  unfold execEvrFlush
  repeat' first
    | with_reducible assumption
    | intro _
    | with_reducible apply State.regWrite_keeps hS
    | with_reducible apply State.startFlush_keeps hS
    | with_reducible apply OutInv.next
    | with_reducible apply OptInv.some

theorem execEvrClear_keeps {P : State → Prop} (hS : Stable P) {acc : Accessor} {s : State} (h : P s) :
    OutInv P (execEvrClear acc s) := by
  unfold execEvrClear
  repeat' first
    | with_reducible assumption
    | intro _
    | with_reducible apply State.regWrite_keeps hS
    | with_reducible apply State.clearLog_keeps hS
    | with_reducible apply OutInv.next
    | with_reducible apply OptInv.some

theorem execEvrEraseComplete_keeps {P : State → Prop} (hS : Stable P) {s : State} (h : P s) :
    OutInv P (execEvrEraseComplete s) := by
  unfold execEvrEraseComplete
  repeat' first
    | with_reducible assumption
    | with_reducible apply State.startFlush_keeps hS
    | with_reducible apply State.setFld_keeps hS
    | with_reducible apply OutInv.next
    | with_reducible apply keep_ite (Q := P)

end Sys2Proof.Machine
end

