-- ==== Sys2Proof/Laws/KeepsFailures.lean ====
section
/-! SUPPORT. What the operations of Machine/Failures.lean keep (Laws/Keeps.lean). -/

namespace Sys2Proof.Machine

theorem State.reply_keeps {P : State → Prop} (hP : Writes P) {s : State} {p : Packet} {status : Nat} {info : List Byte} (h : P s) :
    P (State.reply s p status info) := by
  have hS := hP.toStable
  unfold State.reply
  repeat' first
    | with_reducible assumption
    | with_reducible apply State.cplReply_keeps hP
    | with_reducible apply State.sendTo_keeps hS
    | simp only [keep_mk hS]
    | split

theorem State.refuse_keeps {P : State → Prop} (hP : Writes P) {s : State} {p : Packet} {status : Nat} (h : P s) :
    P (State.refuse s p status) := by
  have hS := hP.toStable
  unfold State.refuse
  repeat' first
    | with_reducible assumption
    | with_reducible apply State.incFld_keeps hS
    | with_reducible apply State.reply_keeps hP

theorem State.setSlotState_keeps {P : State → Prop} (hS : Stable P) {s : State} {slot : Nat} {v : Nat} (h : P s) :
    P (State.setSlotState s slot v) := by
  unfold State.setSlotState
  repeat' first
    | with_reducible assumption
    | with_reducible apply State.setFld_keeps hS

theorem State.finishCtx_keeps {P : State → Prop} (hS : Stable P) {s : State} {cd : Nat} {c : Nat} (h : P s) :
    P (State.finishCtx s cd c) := by
  unfold State.finishCtx
  repeat' first
    | with_reducible assumption
    | with_reducible apply State.setFld_keeps hS
    | with_reducible apply State.closeHold_keeps hS
    | with_reducible apply State.setCtx_keeps hS
    | with_reducible apply State.setCtxState_keeps hS
    | with_reducible apply State.switchCtx_keeps hS
    | with_reducible apply keep_ite (Q := P)

theorem State.disarm_keeps {P : State → Prop} (hS : Stable P) {s : State} {slot : Nat} (h : P s) :
    P (State.disarm s slot) := by
  unfold State.disarm
  repeat' first
    | with_reducible assumption
    | with_reducible apply State.zeroFrames_keeps hS
    | with_reducible apply State.setBit_keeps hS
    | with_reducible apply keep_ite (Q := P)

theorem State.dropSnap_keeps {P : State → Prop} (hS : Stable P) {s : State} {slot : Nat} (h : P s) :
    P (State.dropSnap s slot) := by
  unfold State.dropSnap
  repeat' first
    | with_reducible assumption
    | simp only [keep_mk hS]

theorem State.cutDie_keeps {P : State → Prop} (hP : Writes P) {s : State} {cd : Nat} {slot : Nat} (h : P s) :
    Inv2 P (State.cutDie s cd slot) := by
  have hS := hP.toStable
  unfold State.cutDie
  repeat' first
    | with_reducible assumption
    | intro _
    | with_reducible apply State.cutUnit_keeps hP
    | with_reducible apply State.yieldSettle_keeps hS
    | with_reducible apply State.cutUses_keeps hS
    | with_reducible apply Inv2.get (P := P)
    | with_reducible apply keep_foldl (Q := Inv2 P)
    | simp only [keep_mk hS]
    | simp only [Inv2.iff]
    | with_reducible apply CutInv.st (P := P)

theorem State.abortRuns_keeps {P : State → Prop} (hP : Writes P) {s : State} {slot : Nat} (h : P s) :
    P (State.abortRuns s slot) := by
  have hS := hP.toStable
  unfold State.abortRuns
  repeat' first
    | with_reducible assumption
    | intro _
    | with_reducible apply State.reply_keeps hP
    | with_reducible apply keep_foldl (Q := P)
    | simp only [keep_mk hS]

theorem State.abandonWork_keeps {P : State → Prop} (hP : Writes P) {s : State} {slot : Nat} (h : P s) :
    Inv2 P (State.abandonWork s slot) := by
  have hS := hP.toStable
  unfold State.abandonWork
  repeat' first
    | with_reducible assumption
    | intro _
    | with_reducible apply State.cutDie_keeps hP
    | with_reducible apply State.finishCtx_keeps hS
    | with_reducible apply State.dropColls_keeps hS
    | with_reducible apply State.setFld_keeps hS
    | with_reducible apply State.dropSnap_keeps hS
    | with_reducible apply State.abortRuns_keeps hP
    | with_reducible apply State.disarm_keeps hS
    | with_reducible apply Inv2.get (P := P)
    | with_reducible apply keep_foldl (Q := P)
    | with_reducible apply keep_foldl (Q := Inv2 P)
    | simp only [keep_mk hS]
    | simp only [Inv2.iff]

theorem State.abortSlot_keeps {P : State → Prop} (hP : Writes P) {s : State} {slot : Nat} (h : P s) :
    Inv2 P (State.abortSlot s slot) := by
  have hS := hP.toStable
  unfold State.abortSlot
  repeat' first
    | with_reducible assumption
    | with_reducible apply State.abandonWork_keeps hP
    | with_reducible apply State.dropVote_keeps hS
    | with_reducible apply State.tearUpdate_keeps hP
    | with_reducible apply State.setFld_keeps hS
    | with_reducible apply State.setSlotState_keeps hS
    | with_reducible apply Inv2.get (P := P)
    | with_reducible apply keep_ite (Q := P)
    | simp only [keep_mk hS]
    | simp only [Inv2.iff]

theorem State.applyBudget_keeps {P : State → Prop} (hS : Stable P) {s : State} {cd : Nat} {b : Nat} (h : P s) :
    P (State.applyBudget s cd b) := by
  unfold State.applyBudget
  repeat' first
    | with_reducible assumption
    | with_reducible apply State.setFld_keeps hS
    | with_reducible apply State.setCause_keeps hS
    | with_reducible apply keep_ite (Q := P)

theorem State.budgetAgain_keeps {P : State → Prop} (hS : Stable P) {s : State} {cd : Nat} (h : P s) :
    P (State.budgetAgain s cd) := by
  unfold State.budgetAgain
  repeat' first
    | with_reducible assumption
    | with_reducible apply State.applyBudget_keeps hS
    | with_reducible apply keep_ite (Q := P)

theorem State.unload_keeps {P : State → Prop} (hS : Stable P) {s : State} {cd : Nat} {slot : Nat} (h : P s) :
    P (State.unload s cd slot) := by
  unfold State.unload
  repeat' first
    | with_reducible assumption
    | intro _
    | with_reducible apply State.resetFields_keeps hS
    | with_reducible apply State.finishCtx_keeps hS
    | with_reducible apply State.setBit_keeps hS
    | with_reducible apply State.setFld_keeps hS
    | with_reducible apply State.budgetAgain_keeps hS
    | with_reducible apply keep_ite (Q := P)
    | with_reducible apply keep_foldl (Q := P)
    | simp only [keep_mk hS]

theorem State.zeroAcb_keeps {P : State → Prop} (hP : Writes P) {s : State} {cd : Nat} {slot : Nat} (h : P s) :
    P (State.zeroAcb s cd slot) := by
  have hS := hP.toStable
  unfold State.zeroAcb
  repeat' first
    | with_reducible assumption
    | intro _
    | with_reducible apply State.storeWord_keeps hP
    | with_reducible apply State.setRegion_keeps hS
    | with_reducible apply State.setFld_keeps hS
    | with_reducible apply State.setArray_keeps hS
    | with_reducible apply keep_ite (Q := P)
    | with_reducible apply keep_foldl (Q := P)

theorem State.releaseAll_keeps {P : State → Prop} (hS : Stable P) {s : State} {ws : List (Nat × Nat × Nat)} (h : P s) :
    P (State.releaseAll s ws) := by
  unfold State.releaseAll
  repeat' first
    | with_reducible assumption
    | intro _
    | with_reducible apply State.zeroFrames_keeps hS
    | with_reducible apply State.zeroBlock_keeps hS
    | with_reducible apply keep_foldl (Q := P)

theorem State.takeEntry_keeps {P : State → Prop} (hP : Writes P) {s : State} {slot : Nat} (h : P s) :
    Inv2 P (State.takeEntry s slot) := by
  have hS := hP.toStable
  unfold State.takeEntry
  repeat' first
    | with_reducible assumption
    | with_reducible apply State.ownRead_keeps hP
    | with_reducible apply State.setFld_keeps hS
    | with_reducible apply State.incFld_keeps hS
    | with_reducible apply Inv3.get (P := P)
    | simp only [keep_mk hS]
    | simp only [Inv2.iff]

theorem State.unskip_keeps {P : State → Prop} (hS : Stable P) {s : State} {slot : Nat} {k : Nat} (h : P s) :
    P (State.unskip s slot k) := by
  unfold State.unskip
  repeat' first
    | with_reducible assumption
    | simp only [keep_mk hS]

theorem State.flushQueue_keeps {P : State → Prop} (hP : Writes P) {x : Nat} {x1 : Nat} {x2 : State} (h : P x2) :
    P (State.flushQueue x x1 x2) := by
  have hS := hP.toStable
  induction x generalizing x1 x2 with
  | zero =>
    unfold State.flushQueue
    repeat' first
      | with_reducible assumption
      | with_reducible apply State.reply_keeps hP
      | with_reducible apply State.takeEntry_keeps hP
      | with_reducible apply State.unskip_keeps hS
      | with_reducible apply Inv2.get (P := P)
      | with_reducible apply keep_ite (Q := P)
  | succ n ih =>
    unfold State.flushQueue
    repeat' first
      | with_reducible apply ih
      | with_reducible assumption
      | with_reducible apply State.reply_keeps hP
      | with_reducible apply State.takeEntry_keeps hP
      | with_reducible apply State.unskip_keeps hS
      | with_reducible apply Inv2.get (P := P)
      | with_reducible apply keep_ite (Q := P)

theorem State.disableSlot_keeps {P : State → Prop} (hP : Writes P) {s : State} {slot : Nat} (h : P s) :
    Inv2 P (State.disableSlot s slot) := by
  have hS := hP.toStable
  unfold State.disableSlot
  repeat' first
    | with_reducible assumption
    | intro _
    | with_reducible apply State.setSlotState_keeps hS
    | with_reducible apply State.abortSlot_keeps hP
    | with_reducible apply State.flushQueue_keeps hP
    | with_reducible apply State.unload_keeps hS
    | with_reducible apply State.purgeStash_keeps hP
    | with_reducible apply State.setFld_keeps hS
    | with_reducible apply State.releaseAll_keeps hS
    | with_reducible apply State.zeroAcb_keeps hP
    | with_reducible apply State.resetLists_keeps hS
    | with_reducible apply Inv2.get (P := P)
    | with_reducible apply keep_foldl (Q := P)
    | simp only [keep_mk hS]
    | simp only [Inv2.iff]

theorem State.freeSlotPage_keeps {P : State → Prop} (hS : Stable P) {s : State} {slot : Nat} (h : P s) :
    P (State.freeSlotPage s slot) := by
  unfold State.freeSlotPage
  repeat' first
    | with_reducible assumption
    | with_reducible apply State.resetFields_keeps hS
    | simp only [keep_mk hS]

theorem State.abortOnDie_keeps {P : State → Prop} (hP : Writes P) {s : State} {die : Nat} (h : P s) :
    P (State.abortOnDie s die) := by
  have hS := hP.toStable
  unfold State.abortOnDie
  repeat' first
    | with_reducible assumption
    | intro _
    | with_reducible apply State.abortSlot_keeps hP
    | with_reducible apply Inv2.get (P := P)
    | with_reducible apply keep_ite (Q := P)
    | with_reducible apply keep_foldl (Q := P)

theorem State.dieFails_keeps {P : State → Prop} (hP : Writes P) {s : State} {die : Nat} (h : P s) :
    P (State.dieFails s die) := by
  have hS := hP.toStable
  unfold State.dieFails
  repeat' first
    | with_reducible assumption
    | with_reducible apply State.setFld_keeps hS
    | with_reducible apply State.setBit_keeps hS
    | with_reducible apply State.declareUnfit_keeps hS
    | with_reducible apply State.abortOnDie_keeps hP
    | with_reducible apply keep_ite (Q := P)

theorem execCrossingError_keeps {P : State → Prop} (hP : Writes P) {cd : Fin 8} {xing : BitVec 7} {s : State} (h : P s) :
    OutInv P (execCrossingError cd xing s) := by
  have hS := hP.toStable
  unfold execCrossingError
  repeat' first
    | with_reducible assumption
    | with_reducible apply State.setFld_keeps hS
    | with_reducible apply State.clkPhase_keeps hS
    | with_reducible apply State.raise_keeps hS
    | with_reducible apply State.dieFails_keeps hP
    | with_reducible apply OutInv.next
    | with_reducible apply keep_ite (Q := P)

end Sys2Proof.Machine
end

