-- ==== Sys2Proof/Laws/KeepsPower.lean ====
section
/-! SUPPORT. What the operations of Machine/Power.lean keep (Laws/Keeps.lean). -/

namespace Sys2Proof.Machine

theorem State.setSensor_keeps {P : State → Prop} (hS : Stable P) {s : State} {i : Nat} {x : Sensor} (h : P s) :
    P (State.setSensor s i x) := by
  unfold State.setSensor
  repeat' first
    | with_reducible assumption
    | simp only [keep_mk hS]

theorem State.parkRegions_keeps {P : State → Prop} (hS : Stable P) {s : State} {direct : Bool} (h : P s) :
    P (State.parkRegions s direct) := by
  unfold State.parkRegions
  repeat' first
    | with_reducible assumption
    | intro _
    | with_reducible apply State.setFld_keeps hS
    | with_reducible apply State.setCause_keeps hS
    | with_reducible apply keep_ite (Q := P)
    | with_reducible apply keep_foldl (Q := P)

theorem State.dropKeys_keeps {P : State → Prop} (hS : Stable P) {s : State} (h : P s) :
    P (State.dropKeys s) := by
  unfold State.dropKeys
  repeat' first
    | with_reducible assumption
    | intro _
    | with_reducible apply State.sealEnforce_keeps hS
    | with_reducible apply State.modPort_keeps hS
    | with_reducible apply keep_foldl (Q := P)
    | simp only [keep_mk hS]

theorem State.park_keeps {P : State → Prop} (hP : Writes P) {s : State} (h : P s) :
    P (State.park s) := by
  have hS := hP.toStable
  unfold State.park
  repeat' first
    | with_reducible assumption
    | intro _
    | with_reducible apply State.declareUnfit_keeps hS
    | with_reducible apply State.setFld_keeps hS
    | with_reducible apply State.abortSlot_keeps hP
    | with_reducible apply State.parkRegions_keeps hS
    | with_reducible apply State.dropKeys_keeps hS
    | with_reducible apply Inv2.get (P := P)
    | with_reducible apply keep_ite (Q := P)
    | with_reducible apply keep_foldl (Q := P)

theorem State.judgeWiring_keeps {P : State → Prop} (hP : Writes P) {s : State} {i : Nat} {raw : Nat} (h : P s) :
    P (State.judgeWiring s i raw) := by
  have hS := hP.toStable
  unfold State.judgeWiring
  repeat' first
    | with_reducible assumption
    | with_reducible apply State.setSensor_keeps hS
    | with_reducible apply State.setFld_keeps hS
    | with_reducible apply State.park_keeps hP
    | with_reducible apply State.raise_keeps hS
    | with_reducible apply State.setCauseAll_keeps hS
    | with_reducible apply keep_ite (Q := P)
    | simp only [keep_mk hS]
    | split

theorem State.judgeCoolant_keeps {P : State → Prop} (hS : Stable P) {s : State} {i : Nat} (h : P s) :
    P (State.judgeCoolant s i) := by
  unfold State.judgeCoolant
  repeat' first
    | with_reducible assumption
    | with_reducible apply State.setSensor_keeps hS
    | with_reducible apply State.setCauseAll_keeps hS
    | with_reducible apply State.raise_keeps hS
    | with_reducible apply keep_ite (Q := P)
    | simp only [keep_mk hS]
    | split

theorem State.liftCoolant_keeps {P : State → Prop} (hS : Stable P) {s : State} (h : P s) :
    P (State.liftCoolant s) := by
  unfold State.liftCoolant
  repeat' first
    | with_reducible assumption
    | intro _
    | with_reducible apply State.setCauseAll_keeps hS
    | with_reducible apply State.setSensor_keeps hS
    | with_reducible apply keep_ite (Q := P)
    | with_reducible apply keep_foldl (Q := P)
    | simp only [keep_mk hS]
    | split

theorem State.judgeDie_keeps {P : State → Prop} (hS : Stable P) {s : State} {i : Nat} {die : Nat} (h : P s) :
    P (State.judgeDie s i die) := by
  unfold State.judgeDie
  repeat' first
    | with_reducible assumption
    | with_reducible apply State.setSensor_keeps hS
    | with_reducible apply State.raise_keeps hS
    | with_reducible apply State.setBit_keeps hS
    | with_reducible apply State.setCause_keeps hS
    | with_reducible apply keep_ite (Q := P)
    | simp only [keep_mk hS]
    | split

theorem State.setRamp_keeps {P : State → Prop} (hS : Stable P) {s : State} {d : Nat} {r : Ramp} (h : P s) :
    P (State.setRamp s d r) := by
  unfold State.setRamp
  repeat' first
    | with_reducible assumption
    | simp only [keep_mk hS]

theorem State.lowerCap_keeps {P : State → Prop} (hS : Stable P) {s : State} {c : CapCause} {k : Nat} (h : P s) :
    Inv2 P (State.lowerCap s c k) := by
  unfold State.lowerCap
  repeat' first
    | with_reducible assumption
    | with_reducible apply State.setCause_keeps hS
    | with_reducible apply keep_ite (Q := Inv2 P)
    | simp only [Inv2.iff]

theorem State.raiseCaps_keeps {P : State → Prop} (hS : Stable P) {s : State} {c : CapCause} {ks : List Nat} (h : P s) :
    P (State.raiseCaps s c ks) := by
  unfold State.raiseCaps
  repeat' first
    | with_reducible assumption
    | intro _
    | with_reducible apply State.setCause_keeps hS
    | with_reducible apply keep_ite (Q := P)
    | with_reducible apply keep_foldl (Q := P)

theorem State.throttle_keeps {P : State → Prop} (hS : Stable P) {s : State} {die : Nat} (h : P s) :
    P (State.throttle s die) := by
  unfold State.throttle
  repeat' first
    | with_reducible assumption
    | intro _
    | with_reducible apply State.lowerCap_keeps hS
    | with_reducible apply State.incFld_keeps hS
    | with_reducible apply State.setRamp_keeps hS
    | with_reducible apply State.raise_keeps hS
    | with_reducible apply State.raiseCaps_keeps hS
    | with_reducible apply Inv2.get (P := P)
    | with_reducible apply keep_ite (Q := P)
    | with_reducible apply keep_foldl (Q := Inv2 P)
    | simp only [keep_mk hS]
    | simp only [Inv2.iff]
    | split

theorem State.critical_keeps {P : State → Prop} (hP : Writes P) {s : State} {i : Nat} {die : Nat} (h : P s) :
    P (State.critical s i die) := by
  have hS := hP.toStable
  unfold State.critical
  repeat' first
    | with_reducible assumption
    | with_reducible apply State.setSensor_keeps hS
    | with_reducible apply State.raise_keeps hS
    | with_reducible apply State.park_keeps hP
    | with_reducible apply State.dieFails_keeps hP
    | with_reducible apply State.setCause_keeps hS
    | with_reducible apply State.setFld_keeps hS
    | with_reducible apply keep_ite (Q := P)
    | simp only [keep_mk hS]
    | split

theorem State.judgeCarrier_keeps {P : State → Prop} (hS : Stable P) {s : State} (h : P s) :
    P (State.judgeCarrier s) := by
  unfold State.judgeCarrier
  repeat' first
    | with_reducible assumption
    | with_reducible apply State.setRamp_keeps hS
    | with_reducible apply State.setCauseAll_keeps hS
    | with_reducible apply State.raiseCaps_keeps hS
    | with_reducible apply keep_ite (Q := P)

theorem State.judgePower_keeps {P : State → Prop} (hS : Stable P) {s : State} (h : P s) :
    P (State.judgePower s) := by
  unfold State.judgePower
  repeat' first
    | with_reducible assumption
    | intro _
    | with_reducible apply State.setFld_keeps hS
    | with_reducible apply State.lowerCap_keeps hS
    | with_reducible apply State.incFld_keeps hS
    | with_reducible apply State.raise_keeps hS
    | with_reducible apply State.raiseCaps_keeps hS
    | with_reducible apply Inv2.get (P := P)
    | with_reducible apply keep_ite (Q := P)
    | with_reducible apply keep_foldl (Q := Inv2 P)
    | simp only [keep_mk hS]
    | simp only [Inv2.iff]

theorem State.takeSample_keeps {P : State → Prop} (hS : Stable P) {s : State} {i : Nat} {v : Int} (h : P s) :
    P (State.takeSample s i v) := by
  unfold State.takeSample
  repeat' first
    | with_reducible assumption
    | with_reducible apply State.setSensor_keeps hS

theorem State.sampleSensor_keeps {P : State → Prop} (hP : Writes P) {s : State} {i : Nat} {v : Int} {raw : Nat} (h : P s) :
    P (State.sampleSensor s i v raw) := by
  have hS := hP.toStable
  unfold State.sampleSensor
  repeat' first
    | with_reducible assumption
    | with_reducible apply State.takeSample_keeps hS
    | with_reducible apply State.critical_keeps hP
    | with_reducible apply State.throttle_keeps hS
    | with_reducible apply State.judgeDie_keeps hS
    | with_reducible apply State.judgeCarrier_keeps hS
    | with_reducible apply State.setFld_keeps hS
    | with_reducible apply State.judgePower_keeps hS
    | with_reducible apply State.judgeWiring_keeps hP
    | with_reducible apply State.liftCoolant_keeps hS
    | with_reducible apply State.judgeCoolant_keeps hS
    | with_reducible apply keep_ite (Q := P)
    | simp only [keep_mk hS]
    | split

theorem State.clearWiring_keeps {P : State → Prop} (hS : Stable P) {s : State} {i : Nat} (h : P s) :
    P (State.clearWiring s i) := by
  unfold State.clearWiring
  repeat' first
    | with_reducible assumption
    | with_reducible apply State.setFld_keeps hS
    | with_reducible apply State.setSensor_keeps hS
    | with_reducible apply keep_ite (Q := P)
    | simp only [keep_mk hS]
    | split

theorem State.clearDieCap_keeps {P : State → Prop} (hS : Stable P) {s : State} {die : Nat} (h : P s) :
    P (State.clearDieCap s die) := by
  unfold State.clearDieCap
  repeat' first
    | with_reducible assumption
    | intro _
    | with_reducible apply State.setBit_keeps hS
    | with_reducible apply State.setSensor_keeps hS
    | with_reducible apply State.setCause_keeps hS
    | with_reducible apply keep_ite (Q := P)
    | with_reducible apply keep_foldl (Q := P)
    | simp only [keep_mk hS]
    | split

theorem State.clearSnsFault_keeps {P : State → Prop} (hS : Stable P) {s : State} {v : Nat} (h : P s) :
    P (State.clearSnsFault s v) := by
  unfold State.clearSnsFault
  repeat' first
    | with_reducible assumption
    | intro _
    | with_reducible apply State.clearWiring_keeps hS
    | with_reducible apply State.setCauseAll_keeps hS
    | with_reducible apply State.clearDieCap_keeps hS
    | with_reducible apply keep_ite (Q := P)
    | with_reducible apply keep_foldl (Q := P)

theorem State.setStage_keeps {P : State → Prop} (hS : Stable P) {s : State} {i : Nat} {x : Stage} (h : P s) :
    P (State.setStage s i x) := by
  unfold State.setStage
  repeat' first
    | with_reducible assumption
    | simp only [keep_mk hS]

theorem State.inputFails_keeps {P : State → Prop} (hS : Stable P) {s : State} (h : P s) :
    P (State.inputFails s) := by
  unfold State.inputFails
  repeat' first
    | with_reducible assumption
    | with_reducible apply State.setFld_keeps hS
    | with_reducible apply State.recordAll_keeps hS
    | with_reducible apply State.raise_keeps hS
    | with_reducible apply State.parkRegions_keeps hS
    | with_reducible apply State.startFlush_keeps hS
    | simp only [keep_mk hS]

theorem State.inputStops_keeps {P : State → Prop} (hS : Stable P) {s : State} {i : Nat} {why : Nat} (h : P s) :
    P (State.inputStops s i why) := by
  unfold State.inputStops
  repeat' first
    | with_reducible assumption
    | with_reducible apply State.setBit_keeps hS
    | with_reducible apply State.setStage_keeps hS
    | with_reducible apply State.inputFails_keeps hS
    | with_reducible apply State.setCauseAll_keeps hS
    | with_reducible apply State.setFld_keeps hS
    | with_reducible apply keep_ite (Q := P)

theorem State.raisePwr_keeps {P : State → Prop} (hS : Stable P) {s : State} {e : Ev} {i : Nat} (h : P s) :
    P (State.raisePwr s e i) := by
  unfold State.raisePwr
  repeat' first
    | with_reducible assumption
    | with_reducible apply State.raise_keeps hS

theorem State.inputServes_keeps {P : State → Prop} (hS : Stable P) {s : State} {i : Nat} {settled : Bool} (h : P s) :
    P (State.inputServes s i settled) := by
  unfold State.inputServes
  repeat' first
    | with_reducible assumption
    | with_reducible apply State.setBit_keeps hS
    | with_reducible apply State.setStage_keeps hS
    | with_reducible apply State.raisePwr_keeps hS
    | with_reducible apply State.setCauseAll_keeps hS
    | with_reducible apply State.setFld_keeps hS
    | with_reducible apply keep_ite (Q := P)

theorem execInputReversed_keeps {P : State → Prop} (hS : Stable P) {input : Fin 2} {s : State} (h : P s) :
    OutInv P (execInputReversed input s) := by
  unfold execInputReversed
  repeat' first
    | with_reducible assumption
    | with_reducible apply State.raisePwr_keeps hS
    | with_reducible apply State.inputStops_keeps hS
    | with_reducible apply State.setBit_keeps hS
    | with_reducible apply OutInv.next

theorem execInputOvervoltage_keeps {P : State → Prop} (hS : Stable P) {input : Fin 2} {s : State} (h : P s) :
    OutInv P (execInputOvervoltage input s) := by
  unfold execInputOvervoltage
  repeat' first
    | with_reducible assumption
    | with_reducible apply State.raisePwr_keeps hS
    | with_reducible apply State.inputStops_keeps hS
    | with_reducible apply State.setBit_keeps hS
    | with_reducible apply OutInv.next

theorem execInputOvercurrent_keeps {P : State → Prop} (hS : Stable P) {input : Fin 2} {s : State} (h : P s) :
    OutInv P (execInputOvercurrent input s) := by
  unfold execInputOvercurrent
  repeat' first
    | with_reducible assumption
    | with_reducible apply State.incFld_keeps hS
    | with_reducible apply State.setStage_keeps hS
    | with_reducible apply State.setBit_keeps hS
    | with_reducible apply State.raisePwr_keeps hS
    | with_reducible apply State.inputStops_keeps hS
    | with_reducible apply OutInv.next
    | with_reducible apply keep_ite (Q := P)

theorem execStageReclose_keeps {P : State → Prop} (hS : Stable P) {input : Fin 2} {s : State} (h : P s) :
    OutInv P (execStageReclose input s) := by
  unfold execStageReclose
  repeat' first
    | with_reducible assumption
    | with_reducible apply State.inputServes_keeps hS
    | with_reducible apply State.setBit_keeps hS
    | with_reducible apply OutInv.next
    | with_reducible apply keep_ite (Q := P)

theorem execInputLost_keeps {P : State → Prop} (hS : Stable P) {input : Fin 2} {s : State} (h : P s) :
    OutInv P (execInputLost input s) := by
  unfold execInputLost
  repeat' first
    | with_reducible assumption
    | with_reducible apply State.raisePwr_keeps hS
    | with_reducible apply State.inputStops_keeps hS
    | with_reducible apply OutInv.next

theorem execInputRestored_keeps {P : State → Prop} (hS : Stable P) {input : Fin 2} {s : State} (h : P s) :
    OutInv P (execInputRestored input s) := by
  unfold execInputRestored
  repeat' first
    | with_reducible assumption
    | with_reducible apply State.inputServes_keeps hS
    | with_reducible apply State.setBit_keeps hS
    | with_reducible apply OutInv.next
    | with_reducible apply keep_ite (Q := P)

theorem execSnsFaultClear_keeps {P : State → Prop} (hS : Stable P) {acc : Accessor} {v : Word64} {s : State} (h : P s) :
    OutInv P (execSnsFaultClear acc v s) := by
  unfold execSnsFaultClear
  repeat' first
    | with_reducible assumption
    | intro _
    | with_reducible apply State.regWrite_keeps hS
    | with_reducible apply State.clearSnsFault_keeps hS
    | with_reducible apply OutInv.next
    | with_reducible apply OptInv.some

end Sys2Proof.Machine
end

