-- ==== Sys2Proof/Laws/KeepsSupervisor.lean ====
section
/-! SUPPORT. What the operations of Machine/Supervisor.lean keep (Laws/Keeps.lean). -/

namespace Sys2Proof.Machine

theorem State.setFwSlot_keeps {P : State → Prop} (hS : Stable P) {s : State} {b : Bool} {x : FwImage} (h : P s) :
    P (State.setFwSlot s b x) := by
  unfold State.setFwSlot
  repeat' first
    | with_reducible assumption
    | with_reducible apply keep_ite (Q := P)
    | simp only [keep_mk hS]

theorem State.bootFirmware_keeps {P : State → Prop} (hS : Stable P) {s : State} (h : P s) :
    P (State.bootFirmware s) := by
  unfold State.bootFirmware
  repeat' first
    | with_reducible assumption
    | with_reducible apply State.setFld_keeps hS
    | with_reducible apply State.raise_keeps hS
    | with_reducible apply keep_ite (Q := P)
    | simp only [keep_mk hS]

theorem State.checkRecord_keeps {P : State → Prop} (hS : Stable P) {s : State} (h : P s) :
    P (State.checkRecord s) := by
  unfold State.checkRecord
  repeat' first
    | with_reducible assumption
    | with_reducible apply State.setFld_keeps hS
    | with_reducible apply State.raise_keeps hS
    | with_reducible apply keep_ite (Q := P)

theorem State.setLevel_keeps {P : State → Prop} (hS : Stable P) {s : State} {n : Nat} (h : P s) :
    P (State.setLevel s n) := by
  unfold State.setLevel
  repeat' first
    | with_reducible assumption
    | with_reducible apply State.setFld_keeps hS
    | with_reducible apply State.raise_keeps hS

theorem State.bringUp_keeps {P : State → Prop} (hS : Stable P) {s : State} (h : P s) :
    P (State.bringUp s) := by
  unfold State.bringUp
  repeat' first
    | with_reducible assumption
    | with_reducible apply State.bootFirmware_keeps hS
    | with_reducible apply State.scanLog_keeps hS
    | with_reducible apply State.setFld_keeps hS
    | with_reducible apply State.setLevel_keeps hS
    | with_reducible apply State.checkRecord_keeps hS
    | with_reducible apply keep_ite (Q := P)
    | simp only [keep_mk hS]

theorem State.setTraining_keeps {P : State → Prop} (hS : Stable P) {s : State} {n : Nat} {t : Training} (h : P s) :
    P (State.setTraining s n t) := by
  unfold State.setTraining
  repeat' first
    | with_reducible assumption
    | simp only [keep_mk hS]

theorem State.lockDies_keeps {P : State → Prop} (hS : Stable P) {s : State} (h : P s) :
    P (State.lockDies s) := by
  unfold State.lockDies
  repeat' first
    | with_reducible assumption
    | intro _
    | with_reducible apply State.setFld_keeps hS
    | with_reducible apply keep_ite (Q := P)
    | with_reducible apply keep_foldl (Q := P)
    | simp only [keep_mk hS]
    | split
    | dsimp only

theorem State.excludeArrays_keeps {P : State → Prop} (hS : Stable P) {s : State} {die : Nat} (h : P s) :
    P (State.excludeArrays s die) := by
  unfold State.excludeArrays
  repeat' first
    | with_reducible assumption
    | intro _
    | with_reducible apply State.takeFree_keeps hS
    | with_reducible apply State.setFld_keeps hS
    | with_reducible apply Inv2.get (P := P)
    | with_reducible apply keep_ite (Q := P)
    | with_reducible apply keep_ite (Q := Inv2 P)
    | simp only [keep_mk hS]
    | simp only [Inv2.iff]
    | split
    | refine Inv2.of_eq (P := P) ?_ (by with_reducible assumption)
    | exact Inv2.unmk (P := P) (by with_reducible assumption)
    | dsimp only

theorem State.admitDie_keeps {P : State → Prop} (hS : Stable P) {s : State} {die : Nat} (h : P s) :
    P (State.admitDie s die) := by
  unfold State.admitDie
  repeat' first
    | with_reducible assumption
    | intro _
    | with_reducible apply State.setFld_keeps hS
    | with_reducible apply State.excludeArrays_keeps hS
    | with_reducible apply State.setBit_keeps hS
    | with_reducible apply State.setCause_keeps hS
    | with_reducible apply keep_ite (Q := P)
    | simp only [keep_mk hS]
    | with_reducible apply OptInv.none
    | with_reducible apply OptInv.some
    | split
    | dsimp only

theorem State.settleStacks_keeps {P : State → Prop} (hS : Stable P) {s : State} (h : P s) :
    P (State.settleStacks s) := by
  unfold State.settleStacks
  repeat' first
    | with_reducible assumption
    | intro _
    | with_reducible apply State.setBit_keeps hS
    | with_reducible apply keep_foldl (Q := P)

theorem State.enablePorts_keeps {P : State → Prop} (hS : Stable P) {s : State} (h : P s) :
    P (State.enablePorts s) := by
  unfold State.enablePorts
  repeat' first
    | with_reducible assumption
    | intro _
    | with_reducible apply State.pump_keeps hS
    | with_reducible apply State.setEnRole_keeps hS
    | with_reducible apply keep_ite (Q := P)
    | with_reducible apply keep_foldl (Q := P)

theorem State.settlePorts_keeps {P : State → Prop} (hS : Stable P) {s : State} (h : P s) :
    P (State.settlePorts s) := by
  unfold State.settlePorts
  repeat' first
    | with_reducible assumption
    | intro _
    | with_reducible apply State.setBit_keeps hS
    | with_reducible apply keep_ite (Q := P)
    | with_reducible apply keep_foldl (Q := P)

theorem State.settleDegraded_keeps {P : State → Prop} (hS : Stable P) {s : State} (h : P s) :
    P (State.settleDegraded s) := by
  unfold State.settleDegraded
  repeat' first
    | with_reducible assumption
    | intro _
    | with_reducible apply State.setFld_keeps hS
    | with_reducible apply keep_foldl (Q := P)

theorem State.enterStage2_keeps {P : State → Prop} (hS : Stable P) {s : State} (h : P s) :
    P (State.enterStage2 s) := by
  unfold State.enterStage2
  repeat' first
    | with_reducible assumption
    | intro _
    | with_reducible apply State.enablePorts_keeps hS
    | with_reducible apply State.lockDies_keeps hS
    | with_reducible apply State.admitDie_keeps hS
    | with_reducible apply keep_ite (Q := P)
    | with_reducible apply keep_foldl (Q := P)

theorem State.nextLevel_keeps {P : State → Prop} (hS : Stable P) {s : State} (h : P s) :
    P (State.nextLevel s) := by
  unfold State.nextLevel
  repeat' first
    | with_reducible assumption
    | with_reducible apply State.setLevel_keeps hS
    | with_reducible apply State.enablePorts_keeps hS
    | with_reducible apply keep_ite (Q := P)

theorem State.svcSettle_keeps {P : State → Prop} (hS : Stable P) {s : State} (h : P s) :
    P (State.svcSettle s) := by
  unfold State.svcSettle
  repeat' first
    | with_reducible assumption
    | with_reducible apply State.setFld_keeps hS
    | with_reducible apply State.enterStage2_keeps hS
    | with_reducible apply State.nextLevel_keeps hS
    | with_reducible apply State.settleDegraded_keeps hS
    | with_reducible apply State.settleStacks_keeps hS
    | with_reducible apply State.settlePorts_keeps hS
    | with_reducible apply keep_ite (Q := P)
    | simp only [keep_mk hS]

theorem State.coolTick_keeps {P : State → Prop} (hS : Stable P) {s : State} (h : P s) :
    P (State.coolTick s) := by
  unfold State.coolTick
  repeat' first
    | with_reducible assumption
    | with_reducible apply keep_ite (Q := P)
    | simp only [keep_mk hS]

theorem State.boundPasses_keeps {P : State → Prop} (hS : Stable P) {s : State} {n : Nat} (h : P s) :
    P (State.boundPasses s n) := by
  unfold State.boundPasses
  repeat' first
    | with_reducible assumption
    | intro _
    | with_reducible apply State.setTraining_keeps hS
    | with_reducible apply State.setBit_keeps hS
    | with_reducible apply State.setEnRole_keeps hS
    | with_reducible apply State.svcSettle_keeps hS
    | with_reducible apply State.setFld_keeps hS
    | with_reducible apply State.raise_keeps hS
    | with_reducible apply keep_ite (Q := P)
    | with_reducible apply keep_foldl (Q := P)
    | simp only [keep_mk hS]
    | split

theorem State.selfTestEnds_keeps {P : State → Prop} (hS : Stable P) {s : State} {die : Nat} {pass : Bool} (h : P s) :
    P (State.selfTestEnds s die pass) := by
  unfold State.selfTestEnds
  repeat' first
    | with_reducible assumption
    | with_reducible apply State.svcSettle_keeps hS
    | with_reducible apply State.setFld_keeps hS
    | with_reducible apply keep_ite (Q := P)
    | simp only [keep_mk hS]

theorem State.firstTraining_keeps {P : State → Prop} (hS : Stable P) {s : State} {n : Nat} {pass : Bool} (h : P s) :
    P (State.firstTraining s n pass) := by
  unfold State.firstTraining
  repeat' first
    | with_reducible assumption
    | with_reducible apply State.setTraining_keeps hS
    | with_reducible apply State.svcSettle_keeps hS
    | with_reducible apply State.setFld_keeps hS
    | with_reducible apply keep_ite (Q := P)

theorem State.retraining_keeps {P : State → Prop} (hS : Stable P) {s : State} {n : Nat} {pass : Bool} (h : P s) :
    P (State.retraining s n pass) := by
  unfold State.retraining
  repeat' first
    | with_reducible assumption
    | with_reducible apply State.setTraining_keeps hS
    | with_reducible apply State.svcSettle_keeps hS
    | with_reducible apply State.setBit_keeps hS
    | with_reducible apply keep_ite (Q := P)
    | simp only [keep_mk hS]
    | split

theorem State.capRises_keeps {P : State → Prop} (hS : Stable P) {s : State} (h : P s) :
    P (State.capRises s) := by
  unfold State.capRises
  repeat' first
    | with_reducible assumption
    | with_reducible apply State.svcSettle_keeps hS
    | with_reducible apply State.raiseCaps_keeps hS
    | with_reducible apply keep_ite (Q := P)
    | simp only [keep_mk hS]

theorem State.supReset_keeps {P : State → Prop} (hP : Writes P) {s : State} {cause : Nat} (h : P s) :
    P (State.supReset s cause) := by
  have hS := hP.toStable
  unfold State.supReset
  repeat' first
    | with_reducible assumption
    | intro _
    | with_reducible apply State.abortSlot_keeps hP
    | with_reducible apply State.setFld_keeps hS
    | with_reducible apply State.incFld_keeps hS
    | with_reducible apply State.raise_keeps hS
    | with_reducible apply State.sealEnforce_keeps hS
    | with_reducible apply State.bootFirmware_keeps hS
    | with_reducible apply State.reply_keeps hP
    | with_reducible apply State.disableSlot_keeps hP
    | with_reducible apply State.declareUnfit_keeps hS
    | with_reducible apply Inv2.get (P := P)
    | with_reducible apply keep_ite (Q := P)
    | with_reducible apply keep_foldl (Q := P)
    | simp only [keep_mk hS]

theorem State.moduleReset_keeps {P : State → Prop} (hS : Stable P) {s : State} (h : P s) : P (State.moduleReset s) := by
  unfold State.moduleReset
  extract_lets keep stages t0 t1 t2 serving t3
  have h1 : P t1 := hS.fresh h rfl rfl rfl rfl rfl
  clear_value t1
  have h2 : P t2 := keep_foldl (Q := P) h1 (fun t f ht => hS.setFld ht)
  clear_value t2 serving
  have h3 : P t3 := keep_foldl (Q := P) h2 (fun t i ht => State.setBit_keeps hS ht)
  clear_value t3
  exact keep_ite (Q := P) (State.bringUp_keeps hS h3) h3

theorem State.resetSettle_keeps {P : State → Prop} (hS : Stable P) {s : State} (h : P s) :
    P (State.resetSettle s) := by
  unfold State.resetSettle
  repeat' first
    | with_reducible assumption
    | with_reducible apply State.moduleReset_keeps hS
    | with_reducible apply keep_ite (Q := P)

theorem State.requestReset_keeps {P : State → Prop} (hS : Stable P) {s : State} (h : P s) :
    P (State.requestReset s) := by
  unfold State.requestReset
  repeat' first
    | with_reducible assumption
    | with_reducible apply State.resetSettle_keeps hS
    | with_reducible apply State.startFlush_keeps hS
    | with_reducible apply State.recordAll_keeps hS
    | simp only [keep_mk hS]

theorem State.supRead_keeps {P : State → Prop} (hP : Writes P) {s : State} {a : Nat} {n : Nat} (h : P s) :
    Inv2 P (State.supRead s a n) := by
  have hS := hP.toStable
  unfold State.supRead
  repeat' first
    | with_reducible assumption
    | with_reducible apply State.readPieces_keeps hP
    | with_reducible apply Inv2.get (P := P)
    | simp only [keep_mk hS]
    | simp only [Inv2.iff]

theorem State.fwRefuse_keeps {P : State → Prop} (hS : Stable P) {s : State} (h : P s) :
    P (State.fwRefuse s) := by
  unfold State.fwRefuse
  repeat' first
    | with_reducible assumption
    | with_reducible apply State.setFld_keeps hS

theorem State.fwWrite_keeps {P : State → Prop} (hS : Stable P) {s : State} (h : P s) :
    P (State.fwWrite s) := by
  unfold State.fwWrite
  repeat' first
    | with_reducible assumption
    | with_reducible apply State.fwRefuse_keeps hS
    | with_reducible apply State.setFld_keeps hS
    | with_reducible apply State.setFwSlot_keeps hS
    | with_reducible apply keep_ite (Q := P)
    | simp only [keep_mk hS]

theorem State.fwWriteEnds_keeps {P : State → Prop} (hP : Writes P) {s : State} {readback : Bool} (h : P s) :
    P (State.fwWriteEnds s readback) := by
  have hS := hP.toStable
  unfold State.fwWriteEnds
  repeat' first
    | with_reducible assumption
    | with_reducible apply State.supRead_keeps hP
    | with_reducible apply State.setFwSlot_keeps hS
    | with_reducible apply State.setFld_keeps hS
    | with_reducible apply Inv2.get (P := P)
    | simp only [keep_mk hS]
    | split

theorem State.fwTrialWrite_keeps {P : State → Prop} (hS : Stable P) {s : State} (h : P s) :
    P (State.fwTrialWrite s) := by
  unfold State.fwTrialWrite
  repeat' first
    | with_reducible assumption
    | with_reducible apply State.fwRefuse_keeps hS
    | with_reducible apply keep_ite (Q := P)
    | simp only [keep_mk hS]

theorem State.fwReboot_keeps {P : State → Prop} (hP : Writes P) {s : State} (h : P s) :
    P (State.fwReboot s) := by
  have hS := hP.toStable
  unfold State.fwReboot
  repeat' first
    | with_reducible assumption
    | with_reducible apply State.fwRefuse_keeps hS
    | with_reducible apply State.supReset_keeps hP
    | with_reducible apply keep_ite (Q := P)

theorem State.fwFloor_keeps {P : State → Prop} (hS : Stable P) {s : State} (h : P s) :
    P (State.fwFloor s) := by
  unfold State.fwFloor
  repeat' first
    | with_reducible assumption
    | with_reducible apply State.fwRefuse_keeps hS
    | with_reducible apply State.setFld_keeps hS
    | with_reducible apply keep_ite (Q := P)

theorem State.writeFwCtl_keeps {P : State → Prop} (hP : Writes P) {s : State} {v : Nat} (h : P s) :
    P (State.writeFwCtl s v) := by
  have hS := hP.toStable
  unfold State.writeFwCtl
  repeat' first
    | with_reducible assumption
    | with_reducible apply State.fwWrite_keeps hS
    | with_reducible apply State.fwTrialWrite_keeps hS
    | with_reducible apply State.fwReboot_keeps hP
    | with_reducible apply State.fwFloor_keeps hS
    | with_reducible apply State.fwRefuse_keeps hS
    | with_reducible apply keep_ite (Q := P)

theorem execSensorSample_keeps {P : State → Prop} (hP : Writes P) {index : Fin 420} {value : BitVec 16} {raw : Nat} {s : State} (h : P s) :
    OutInv P (execSensorSample index value raw s) := by
  have hS := hP.toStable
  unfold execSensorSample
  repeat' first
    | with_reducible assumption
    | with_reducible apply State.svcSettle_keeps hS
    | with_reducible apply State.sampleSensor_keeps hP
    | with_reducible apply OutInv.next
    | with_reducible apply keep_ite (Q := P)

theorem execPowerGood_keeps {P : State → Prop} (hS : Stable P) {serving : BitVec 2} {rec : List Byte} {certs : Bool} {keys : Bool} {s : State} (h : P s) :
    OutInv P (execPowerGood serving rec certs keys s) := by
  unfold execPowerGood
  repeat' first
    | with_reducible assumption
    | with_reducible apply State.setFld_keeps hS
    | with_reducible apply State.incFld_keeps hS
    | with_reducible apply State.bringUp_keeps hS
    | with_reducible apply OutInv.next
    | with_reducible apply keep_ite (Q := P)
    | simp only [keep_mk hS]

theorem execSelfTestComplete_keeps {P : State → Prop} (hS : Stable P) {die : Fin 14} {pass : Bool} {s : State} (h : P s) :
    OutInv P (execSelfTestComplete die pass s) := by
  unfold execSelfTestComplete
  repeat' first
    | with_reducible assumption
    | with_reducible apply State.selfTestEnds_keeps hS
    | with_reducible apply OutInv.next

theorem execFirstTrainingComplete_keeps {P : State → Prop} (hS : Stable P) {stack : Fin 24} {pass : Bool} {s : State} (h : P s) :
    OutInv P (execFirstTrainingComplete stack pass s) := by
  unfold execFirstTrainingComplete
  repeat' first
    | with_reducible assumption
    | with_reducible apply State.firstTraining_keeps hS
    | with_reducible apply OutInv.next

theorem execStackRetrainComplete_keeps {P : State → Prop} (hS : Stable P) {stack : Fin 24} {pass : Bool} {s : State} (h : P s) :
    OutInv P (execStackRetrainComplete stack pass s) := by
  unfold execStackRetrainComplete
  repeat' first
    | with_reducible assumption
    | with_reducible apply State.retraining_keeps hS
    | with_reducible apply OutInv.next

theorem execStageBoundExpiry_keeps {P : State → Prop} (hS : Stable P) {s : State} (h : P s) :
    OutInv P (execStageBoundExpiry s) := by
  unfold execStageBoundExpiry
  repeat' first
    | with_reducible assumption
    | with_reducible apply State.boundPasses_keeps hS
    | with_reducible apply OutInv.next
    | with_reducible apply keep_ite (Q := P)

theorem execCapRaise_keeps {P : State → Prop} (hS : Stable P) {s : State} (h : P s) :
    OutInv P (execCapRaise s) := by
  unfold execCapRaise
  repeat' first
    | with_reducible assumption
    | with_reducible apply State.capRises_keeps hS
    | with_reducible apply OutInv.next

theorem execSupCoreMark_keeps {P : State → Prop} (hS : Stable P) {acc : Accessor} {v : Word64} {s : State} (h : P s) :
    OutInv P (execSupCoreMark acc v s) := by
  unfold execSupCoreMark
  repeat' first
    | with_reducible assumption
    | intro _
    | with_reducible apply State.regWrite_keeps hS
    | with_reducible apply State.svcSettle_keeps hS
    | with_reducible apply OutInv.next
    | with_reducible apply keep_ite (Q := P)
    | simp only [keep_mk hS]
    | with_reducible apply OptInv.some

theorem execWatchdogKick_keeps {P : State → Prop} (hS : Stable P) {acc : Accessor} {s : State} (h : P s) :
    OutInv P (execWatchdogKick acc s) := by
  unfold execWatchdogKick
  repeat' first
    | with_reducible assumption
    | intro _
    | with_reducible apply State.regWrite_keeps hS
    | with_reducible apply OutInv.next
    | simp only [keep_mk hS]
    | with_reducible apply OptInv.some

theorem execWatchdogNmi_keeps {P : State → Prop} (hS : Stable P) {s : State} (h : P s) :
    OutInv P (execWatchdogNmi s) := by
  unfold execWatchdogNmi
  repeat' first
    | with_reducible assumption
    | with_reducible apply State.setFld_keeps hS
    | with_reducible apply OutInv.next
    | with_reducible apply keep_ite (Q := P)
    | simp only [keep_mk hS]

theorem execWatchdogReset_keeps {P : State → Prop} (hP : Writes P) {s : State} (h : P s) :
    OutInv P (execWatchdogReset s) := by
  have hS := hP.toStable
  unfold execWatchdogReset
  repeat' first
    | with_reducible assumption
    | with_reducible apply State.supReset_keeps hP
    | with_reducible apply OutInv.next
    | with_reducible apply keep_ite (Q := P)

theorem execSupSramUe_keeps {P : State → Prop} (hP : Writes P) {s : State} (h : P s) :
    OutInv P (execSupSramUe s) := by
  have hS := hP.toStable
  unfold execSupSramUe
  repeat' first
    | with_reducible assumption
    | with_reducible apply State.supReset_keeps hP
    | with_reducible apply OutInv.next
    | with_reducible apply keep_ite (Q := P)

theorem execFwWrite_keeps {P : State → Prop} (hS : Stable P) {acc : Accessor} {s : State} (h : P s) :
    OutInv P (execFwWrite acc s) := by
  unfold execFwWrite
  repeat' first
    | with_reducible assumption
    | intro _
    | with_reducible apply State.regWrite_keeps hS
    | with_reducible apply State.fwWrite_keeps hS
    | with_reducible apply OutInv.next
    | with_reducible apply OptInv.some

theorem execFwWriteComplete_keeps {P : State → Prop} (hP : Writes P) {readback : Bool} {s : State} (h : P s) :
    OutInv P (execFwWriteComplete readback s) := by
  have hS := hP.toStable
  unfold execFwWriteComplete
  repeat' first
    | with_reducible assumption
    | with_reducible apply State.fwWriteEnds_keeps hP
    | with_reducible apply OutInv.next

theorem execFwTrial_keeps {P : State → Prop} (hS : Stable P) {acc : Accessor} {s : State} (h : P s) :
    OutInv P (execFwTrial acc s) := by
  unfold execFwTrial
  repeat' first
    | with_reducible assumption
    | intro _
    | with_reducible apply State.regWrite_keeps hS
    | with_reducible apply State.fwTrialWrite_keeps hS
    | with_reducible apply OutInv.next
    | with_reducible apply OptInv.some

theorem execFwReboot_keeps {P : State → Prop} (hP : Writes P) {acc : Accessor} {s : State} (h : P s) :
    OutInv P (execFwReboot acc s) := by
  have hS := hP.toStable
  unfold execFwReboot
  repeat' first
    | with_reducible assumption
    | intro _
    | with_reducible apply State.regWrite_keeps hS
    | with_reducible apply State.fwReboot_keeps hP
    | with_reducible apply OutInv.next
    | with_reducible apply OptInv.some

theorem execFwFloor_keeps {P : State → Prop} (hS : Stable P) {acc : Accessor} {s : State} (h : P s) :
    OutInv P (execFwFloor acc s) := by
  unfold execFwFloor
  repeat' first
    | with_reducible assumption
    | intro _
    | with_reducible apply State.regWrite_keeps hS
    | with_reducible apply State.fwFloor_keeps hS
    | with_reducible apply OutInv.next
    | with_reducible apply OptInv.some

theorem execTrialConfirm_keeps {P : State → Prop} (hS : Stable P) {s : State} (h : P s) :
    OutInv P (execTrialConfirm s) := by
  unfold execTrialConfirm
  repeat' first
    | with_reducible assumption
    | with_reducible apply State.setFld_keeps hS
    | with_reducible apply State.raise_keeps hS
    | with_reducible apply OutInv.next
    | with_reducible apply keep_ite (Q := P)

theorem execOperatingSecond_keeps {P : State → Prop} (hS : Stable P) {s : State} (h : P s) :
    OutInv P (execOperatingSecond s) := by
  unfold execOperatingSecond
  repeat' first
    | with_reducible assumption
    | with_reducible apply State.incFld_keeps hS
    | with_reducible apply OutInv.next
    | with_reducible apply keep_ite (Q := P)

theorem execModuleReset_keeps {P : State → Prop} (hS : Stable P) {s : State} (h : P s) :
    OutInv P (execModuleReset s) := by
  unfold execModuleReset
  repeat' first
    | with_reducible assumption
    | with_reducible apply State.requestReset_keeps hS
    | with_reducible apply OutInv.next

theorem execEvrFlushComplete_keeps {P : State → Prop} (hS : Stable P) {s : State} (h : P s) :
    OutInv P (execEvrFlushComplete s) := by
  unfold execEvrFlushComplete
  repeat' first
    | with_reducible assumption
    | with_reducible apply State.resetSettle_keeps hS
    | with_reducible apply State.flushDone_keeps hS
    | with_reducible apply OutInv.next

end Sys2Proof.Machine
end

