-- ==== Sys2Proof/Laws/KeepsIdentity.lean ====
section
/-! SUPPORT. What the operations of Machine/Identity.lean keep (Laws/Keeps.lean). -/

namespace Sys2Proof.Machine

theorem State.startQuote_keeps {P : State → Prop} (hS : Stable P) {s : State} (h : P s) :
    P (State.startQuote s) := by
  unfold State.startQuote
  repeat' first
    | with_reducible assumption
    | with_reducible apply State.setFld_keeps hS
    | with_reducible apply keep_ite (Q := P)
    | simp only [keep_mk hS]

theorem State.quoteDone_keeps {P : State → Prop} (hS : Stable P) {s : State} (h : P s) :
    P (State.quoteDone s) := by
  unfold State.quoteDone
  repeat' first
    | with_reducible assumption
    | intro _
    | with_reducible apply State.setFld_keeps hS
    | with_reducible apply keep_foldl (Q := P)
    | simp only [keep_mk hS]
    | split

theorem State.refill_keeps {P : State → Prop} (hS : Stable P) {s : State} (h : P s) :
    P (State.refill s) := by
  unfold State.refill
  repeat' first
    | with_reducible assumption
    | simp only [keep_mk hS]

theorem State.ringChanged_keeps {P : State → Prop} (hS : Stable P) {s : State} {old : Option Policy} (h : P s) :
    P (State.ringChanged s old) := by
  unfold State.ringChanged
  repeat' first
    | with_reducible assumption
    | intro _
    | with_reducible apply State.sealEnforce_keeps hS
    | with_reducible apply State.modPort_keeps hS
    | with_reducible apply keep_ite (Q := P)
    | with_reducible apply keep_foldl (Q := P)

theorem State.polInstall_keeps {P : State → Prop} (hP : Writes P) {s : State} (h : P s) :
    P (State.polInstall s) := by
  have hS := hP.toStable
  unfold State.polInstall
  repeat' first
    | with_reducible assumption
    | with_reducible apply State.supRead_keeps hP
    | with_reducible apply State.setFld_keeps hS
    | with_reducible apply State.raise_keeps hS
    | with_reducible apply State.refill_keeps hS
    | with_reducible apply State.ringChanged_keeps hS
    | with_reducible apply Inv2.get (P := P)
    | with_reducible apply keep_ite (Q := Inv2 P)
    | simp only [keep_mk hS]
    | simp only [Inv2.iff]
    | split

theorem State.polReset_keeps {P : State → Prop} (hS : Stable P) {s : State} (h : P s) :
    P (State.polReset s) := by
  unfold State.polReset
  repeat' first
    | with_reducible assumption
    | with_reducible apply State.setFld_keeps hS
    | with_reducible apply keep_ite (Q := P)
    | simp only [keep_mk hS]

theorem State.writePolCtl_keeps {P : State → Prop} (hP : Writes P) {s : State} {v : Nat} (h : P s) :
    P (State.writePolCtl s v) := by
  have hS := hP.toStable
  unfold State.writePolCtl
  repeat' first
    | with_reducible assumption
    | with_reducible apply State.polInstall_keeps hP
    | with_reducible apply State.polReset_keeps hS
    | with_reducible apply keep_ite (Q := P)

theorem State.armWindow_keeps {P : State → Prop} (hS : Stable P) {s : State} {slot : Nat} (h : P s) :
    P (State.armWindow s slot) := by
  unfold State.armWindow
  repeat' first
    | with_reducible assumption
    | with_reducible apply State.zeroFrames_keeps hS
    | with_reducible apply State.setBit_keeps hS
    | with_reducible apply keep_ite (Q := P)

theorem State.release__keeps {P : State → Prop} (hS : Stable P) {s : State} {slot : Nat} (h : P s) :
    P (State.release_ s slot) := by
  unfold State.release_
  repeat' first
    | with_reducible assumption
    | with_reducible apply State.refill_keeps hS
    | with_reducible apply State.incFld_keeps hS
    | with_reducible apply State.setFld_keeps hS
    | with_reducible apply State.raise_keeps hS
    | with_reducible apply State.setBit_keeps hS
    | with_reducible apply keep_ite (Q := P)
    | simp only [keep_mk hS]

theorem State.relCopy_keeps {P : State → Prop} (hP : Writes P) {x : Nat} {x1 : Nat} {x2 : Nat} {x3 : State} (h : P x3) :
    Inv3 P (State.relCopy x x1 x2 x3) := by
  have hS := hP.toStable
  induction x generalizing x1 x2 x3 with
  | zero =>
    unfold State.relCopy
    repeat' first
      | with_reducible assumption
      | with_reducible apply State.fetchWord_keeps hP
      | with_reducible apply State.ownWrite_keeps hP
      | with_reducible apply Inv2.get (P := P)
      | with_reducible apply keep_ite (Q := Inv3 P)
      | simp only [keep_mk hS]
      | simp only [Inv3.iff]
      | simp only [Inv3.iff2]
      | with_reducible apply Inv2.snd
  | succ n ih =>
    unfold State.relCopy
    repeat' first
      | with_reducible apply ih
      | with_reducible assumption
      | with_reducible apply State.fetchWord_keeps hP
      | with_reducible apply State.ownWrite_keeps hP
      | with_reducible apply Inv2.get (P := P)
      | with_reducible apply keep_ite (Q := Inv3 P)
      | simp only [keep_mk hS]
      | simp only [Inv3.iff]
      | simp only [Inv3.iff2]
      | with_reducible apply Inv2.snd

theorem State.releaseDone_keeps {P : State → Prop} (hP : Writes P) {s : State} {slot : Nat} (h : P s) :
    P (State.releaseDone s slot) := by
  have hS := hP.toStable
  unfold State.releaseDone
  repeat' first
    | with_reducible assumption
    | with_reducible apply State.relCopy_keeps hP
    | with_reducible apply State.setBit_keeps hS
    | with_reducible apply State.incFld_keeps hS
    | with_reducible apply State.setFld_keeps hS
    | with_reducible apply State.raise_keeps hS
    | with_reducible apply Inv3.get (P := P)
    | with_reducible apply keep_ite (Q := P)
    | simp only [keep_mk hS]
    | split

theorem State.ackLog_keeps {P : State → Prop} (hS : Stable P) {s : State} {q : Nat} (h : P s) :
    P (State.ackLog s q) := by
  unfold State.ackLog
  repeat' first
    | with_reducible assumption
    | simp only [keep_mk hS]

theorem execQuote_keeps {P : State → Prop} (hS : Stable P) {acc : Accessor} {s : State} (h : P s) :
    OutInv P (execQuote acc s) := by
  unfold execQuote
  repeat' first
    | with_reducible assumption
    | intro _
    | with_reducible apply State.regWrite_keeps hS
    | with_reducible apply State.startQuote_keeps hS
    | with_reducible apply OutInv.next
    | with_reducible apply OptInv.some

theorem execQuoteComplete_keeps {P : State → Prop} (hS : Stable P) {s : State} (h : P s) :
    OutInv P (execQuoteComplete s) := by
  unfold execQuoteComplete
  repeat' first
    | with_reducible assumption
    | with_reducible apply State.quoteDone_keeps hS
    | with_reducible apply OutInv.next

theorem execPolInstall_keeps {P : State → Prop} (hP : Writes P) {acc : Accessor} {s : State} (h : P s) :
    OutInv P (execPolInstall acc s) := by
  have hS := hP.toStable
  unfold execPolInstall
  repeat' first
    | with_reducible assumption
    | intro _
    | with_reducible apply State.regWrite_keeps hS
    | with_reducible apply State.polInstall_keeps hP
    | with_reducible apply OutInv.next
    | with_reducible apply OptInv.some

theorem execPolReset_keeps {P : State → Prop} (hS : Stable P) {acc : Accessor} {s : State} (h : P s) :
    OutInv P (execPolReset acc s) := by
  unfold execPolReset
  repeat' first
    | with_reducible assumption
    | intro _
    | with_reducible apply State.regWrite_keeps hS
    | with_reducible apply State.polReset_keeps hS
    | with_reducible apply OutInv.next
    | with_reducible apply OptInv.some

theorem execTsRelease_keeps {P : State → Prop} (hS : Stable P) {acc : Accessor} {slot : Fin 4} {s : State} (h : P s) :
    OutInv P (execTsRelease acc slot s) := by
  unfold execTsRelease
  repeat' first
    | with_reducible assumption
    | intro _
    | with_reducible apply State.regWrite_keeps hS
    | with_reducible apply State.release__keeps hS
    | with_reducible apply OutInv.next
    | with_reducible apply OptInv.some

theorem execTsReleaseComplete_keeps {P : State → Prop} (hP : Writes P) {slot : Fin 4} {s : State} (h : P s) :
    OutInv P (execTsReleaseComplete slot s) := by
  have hS := hP.toStable
  unfold execTsReleaseComplete
  repeat' first
    | with_reducible assumption
    | with_reducible apply State.releaseDone_keeps hP
    | with_reducible apply OutInv.next

theorem execTsLogAck_keeps {P : State → Prop} (hS : Stable P) {acc : Accessor} {v : Word64} {s : State} (h : P s) :
    OutInv P (execTsLogAck acc v s) := by
  unfold execTsLogAck
  repeat' first
    | with_reducible assumption
    | intro _
    | with_reducible apply State.regWrite_keeps hS
    | with_reducible apply State.ackLog_keeps hS
    | with_reducible apply OutInv.next
    | with_reducible apply OptInv.some

end Sys2Proof.Machine
end

