-- ==== Sys2Proof/Laws/KeepsSnapshots.lean ====
section
/-! SUPPORT. What the operations of Machine/Snapshots.lean keep (Laws/Keeps.lean). -/

namespace Sys2Proof.Machine

theorem State.stateList_keeps {P : State → Prop} (hP : Writes P) {s : State} {slot : Nat} (h : P s) :
    Inv2 P (State.stateList s slot) := by
  have hS := hP.toStable
  unfold State.stateList
  repeat' first
    | with_reducible assumption
    | with_reducible apply State.vaRead_keeps hP
    | with_reducible apply keep_ite (Q := Inv2 P)
    | simp only [Inv2.iff]
    | split
    | refine Inv2.of_eq (P := P) ?_ (by with_reducible assumption)

theorem State.regionWords_keeps {P : State → Prop} (hP : Writes P) {slot : Nat} {x : Nat} {x1 : Nat} {x2 : State} (h : P x2) :
    Inv2 P (State.regionWords slot x x1 x2) := by
  have hS := hP.toStable
  induction x generalizing slot x1 x2 with
  | zero =>
    unfold State.regionWords
    repeat' first
      | with_reducible assumption
      | with_reducible apply State.vaWord_keeps hP
      | with_reducible apply Inv2.get (P := P)
      | simp only [keep_mk hS]
      | simp only [Inv2.iff]
      | split
      | refine Inv2.of_eq (P := P) ?_ (by with_reducible assumption)
  | succ n ih =>
    unfold State.regionWords
    repeat' first
      | with_reducible apply ih
      | with_reducible assumption
      | with_reducible apply State.vaWord_keeps hP
      | with_reducible apply Inv2.get (P := P)
      | simp only [keep_mk hS]
      | simp only [Inv2.iff]
      | split
      | refine Inv2.of_eq (P := P) ?_ (by with_reducible assumption)

theorem State.readCommitted_keeps {P : State → Prop} (hP : Writes P) {s : State} {slot : Nat} (h : P s) :
    Inv2 P (State.readCommitted s slot) := by
  have hS := hP.toStable
  unfold State.readCommitted
  repeat' first
    | with_reducible assumption
    | intro _
    | with_reducible apply State.stateList_keeps hP
    | with_reducible apply State.regionWords_keeps hP
    | with_reducible apply Inv2.get (P := P)
    | with_reducible apply keep_foldl (Q := Inv2 P)
    | simp only [keep_mk hS]
    | simp only [Inv2.iff]
    | split
    | refine Inv2.of_eq (P := P) ?_ (by with_reducible assumption)
    | exact Inv2.unmk (P := P) (by with_reducible assumption)

theorem State.loadRegImage_keeps {P : State → Prop} (hS : Stable P) {s : State} {slot : Nat} {regs : List Byte} (h : P s) :
    P (State.loadRegImage s slot regs) := by
  unfold State.loadRegImage
  repeat' first
    | with_reducible assumption
    | intro _
    | with_reducible apply State.setFld_keeps hS
    | with_reducible apply State.setStep_keeps hS
    | with_reducible apply keep_foldl (Q := P)
    | simp only [keep_mk hS]

theorem State.clearTorn_keeps {P : State → Prop} (hS : Stable P) {s : State} {slot : Nat} (h : P s) :
    P (State.clearTorn s slot) := by
  unfold State.clearTorn
  repeat' first
    | with_reducible assumption
    | intro _
    | with_reducible apply State.setFld_keeps hS
    | with_reducible apply keep_ite (Q := P)
    | with_reducible apply keep_foldl (Q := P)
    | simp only [keep_mk hS]
    | split
    | dsimp only

theorem State.storeRegion_keeps {P : State → Prop} (hP : Writes P) {slot : Nat} {x : List Word} {x1 : Nat} {x2 : State} (h : P x2) :
    Inv2 P (State.storeRegion slot x x1 x2) := by
  have hS := hP.toStable
  induction x generalizing slot x1 x2 with
  | nil =>
    unfold State.storeRegion
    repeat' first
      | with_reducible assumption
      | with_reducible apply State.mergeWord_keeps hP
      | with_reducible apply Inv2.get (P := P)
      | with_reducible apply keep_ite (Q := Inv2 P)
      | simp only [keep_mk hS]
      | simp only [Inv2.iff]
      | split
  | cons x xs ih =>
    unfold State.storeRegion
    repeat' first
      | with_reducible apply ih
      | with_reducible assumption
      | with_reducible apply State.mergeWord_keeps hP
      | with_reducible apply Inv2.get (P := P)
      | with_reducible apply keep_ite (Q := Inv2 P)
      | simp only [keep_mk hS]
      | simp only [Inv2.iff]
      | split

theorem State.flashWrite_keeps {P : State → Prop} (hS : Stable P) {s : State} {a : Nat} {bs : List Byte} (h : P s) :
    P (State.flashWrite s a bs) := by
  unfold State.flashWrite
  repeat' first
    | with_reducible assumption
    | simp only [keep_mk hS]

theorem State.setSnap_keeps {P : State → Prop} (hS : Stable P) {s : State} {slot : Nat} {x : Option SnapRun} (h : P s) :
    P (State.setSnap s slot x) := by
  unfold State.setSnap
  repeat' first
    | with_reducible assumption
    | simp only [keep_mk hS]

theorem State.setPause_keeps {P : State → Prop} (hS : Stable P) {s : State} {slot : Nat} {b : Bool} (h : P s) :
    P (State.setPause s slot b) := by
  unfold State.setPause
  repeat' first
    | with_reducible assumption
    | simp only [keep_mk hS]

theorem State.snapBegin_keeps {P : State → Prop} (hS : Stable P) {s : State} {slot : Nat} (h : P s) :
    P (State.snapBegin s slot) := by
  unfold State.snapBegin
  repeat' first
    | with_reducible assumption
    | with_reducible apply State.setPause_keeps hS
    | with_reducible apply State.setSnap_keeps hS
    | with_reducible apply keep_ite (Q := P)
    | simp only [keep_mk hS]
    | split

theorem State.writeShadow_keeps {P : State → Prop} (hP : Writes P) {s : State} {slot : Nat} {head : List Byte} {c : Committed} (h : P s) :
    P (State.writeShadow s slot head c) := by
  have hS := hP.toStable
  unfold State.writeShadow
  repeat' first
    | with_reducible assumption
    | intro _
    | with_reducible apply State.ownWrite_keeps hP
    | with_reducible apply State.mergeWord_keeps hP
    | with_reducible apply InvL.get (P := P)
    | with_reducible apply keep_foldl (Q := P)
    | with_reducible apply keep_foldl (Q := InvL P)
    | simp only [keep_mk hS]
    | simp only [InvL.iff]

theorem State.writeFlash_keeps {P : State → Prop} (hS : Stable P) {s : State} {a : Nat} {head : List Byte} {c : Committed} {fk : List Byte} (h : P s) :
    P (State.writeFlash s a head c fk) := by
  unfold State.writeFlash
  repeat' first
    | with_reducible assumption
    | with_reducible apply State.flashWrite_keeps hS

theorem State.sendWords_keeps {P : State → Prop} (hP : Writes P) {s : State} {kind : Nat} {slot : Nat} {dest : Nat} {region : Nat} {off : Nat} {step : Nat} {legs : List Nat} {ws : List Word} (h : P s) :
    P (State.sendWords s kind slot dest region off step legs ws) := by
  have hS := hP.toStable
  unfold State.sendWords
  repeat' first
    | with_reducible assumption
    | intro _
    | with_reducible apply State.pump_keeps hS
    | with_reducible apply State.modPort_keeps hS
    | with_reducible apply State.sendFrame_keeps hP
    | with_reducible apply keep_ite (Q := P)
    | with_reducible apply keep_foldl (Q := P)
    | simp only [keep_mk hS]
    | split

theorem State.sendState_keeps {P : State → Prop} (hP : Writes P) {s : State} {kind : Nat} {slot : Nat} {dest : Nat} {step : Nat} {c : Committed} (h : P s) :
    P (State.sendState s kind slot dest step c) := by
  have hS := hP.toStable
  unfold State.sendState
  repeat' first
    | with_reducible assumption
    | intro _
    | with_reducible apply State.sendWords_keeps hP
    | with_reducible apply keep_foldl (Q := P)

theorem State.sendMirror_keeps {P : State → Prop} (hP : Writes P) {s : State} {slot : Nat} {step : Nat} {head : List Byte} {c : Committed} (h : P s) :
    P (State.sendMirror s slot step head c) := by
  have hS := hP.toStable
  unfold State.sendMirror
  repeat' first
    | with_reducible assumption
    | with_reducible apply State.sendState_keeps hP
    | with_reducible apply State.sendWords_keeps hP
    | with_reducible apply keep_ite (Q := P)

theorem State.endSnap_keeps {P : State → Prop} (hP : Writes P) {s : State} {slot : Nat} {status : Nat} (h : P s) :
    P (State.endSnap s slot status) := by
  have hS := hP.toStable
  unfold State.endSnap
  repeat' first
    | with_reducible assumption
    | intro _
    | with_reducible apply State.dropSnap_keeps hS
    | with_reducible apply State.reply_keeps hP
    | with_reducible apply State.refuse_keeps hP
    | with_reducible apply keep_ite (Q := P)
    | with_reducible apply keep_foldl (Q := P)
    | simp only [keep_mk hS]

theorem State.snapCopied_keeps {P : State → Prop} (hP : Writes P) {s : State} {slot : Nat} (h : P s) :
    P (State.snapCopied s slot) := by
  have hS := hP.toStable
  unfold State.snapCopied
  repeat' first
    | with_reducible assumption
    | with_reducible apply State.readCommitted_keeps hP
    | with_reducible apply State.endSnap_keeps hP
    | with_reducible apply State.setPause_keeps hS
    | with_reducible apply State.writeShadow_keeps hP
    | with_reducible apply State.writeFlash_keeps hS
    | with_reducible apply State.sendMirror_keeps hP
    | with_reducible apply State.setSnap_keeps hS
    | with_reducible apply keep_ite (Q := P)
    | simp only [keep_mk hS]
    | split
    | refine Inv2.of_eq (P := P) ?_ (by with_reducible assumption)

theorem State.snapDrained_keeps {P : State → Prop} (hP : Writes P) {s : State} {slot : Nat} (h : P s) :
    P (State.snapDrained s slot) := by
  have hS := hP.toStable
  unfold State.snapDrained
  repeat' first
    | with_reducible assumption
    | with_reducible apply State.flashWrite_keeps hS
    | with_reducible apply State.endSnap_keeps hP
    | with_reducible apply State.setFld_keeps hS
    | with_reducible apply keep_ite (Q := P)
    | simp only [keep_mk hS]
    | split

theorem State.restoreStep_keeps {P : State → Prop} (hP : Writes P) {s : State} {slot : Nat} {step : Nat} (h : P s) :
    Inv2 P (State.restoreStep s slot step) := by
  have hS := hP.toStable
  unfold State.restoreStep
  repeat' first
    | with_reducible assumption
    | intro _
    | with_reducible apply State.storeRegion_keeps hP
    | with_reducible apply State.incFld_keeps hS
    | with_reducible apply State.clearTorn_keeps hS
    | with_reducible apply State.loadRegImage_keeps hS
    | with_reducible apply Inv2.get (P := P)
    | with_reducible apply keep_foldl (Q := Inv2 P)
    | simp only [keep_mk hS]
    | simp only [Inv2.iff]
    | split

theorem execSnapshotCopyComplete_keeps {P : State → Prop} (hP : Writes P) {slot : Fin 4} {s : State} (h : P s) :
    OutInv P (execSnapshotCopyComplete slot s) := by
  have hS := hP.toStable
  unfold execSnapshotCopyComplete
  repeat' first
    | with_reducible assumption
    | with_reducible apply State.snapCopied_keeps hP
    | with_reducible apply OutInv.next

theorem execSnapshotDrainComplete_keeps {P : State → Prop} (hP : Writes P) {slot : Fin 4} {s : State} (h : P s) :
    OutInv P (execSnapshotDrainComplete slot s) := by
  have hS := hP.toStable
  unfold execSnapshotDrainComplete
  repeat' first
    | with_reducible assumption
    | with_reducible apply State.snapDrained_keeps hP
    | with_reducible apply OutInv.next

end Sys2Proof.Machine
end

