-- ==== Sys2Proof/Laws/KeepsRecovery.lean ====
section
/-! SUPPORT. What the operations of Machine/Recovery.lean keep (Laws/Keeps.lean). -/

namespace Sys2Proof.Machine

theorem State.recState_keeps {P : State → Prop} (hS : Stable P) {s : State} {v : Nat} (h : P s) :
    P (State.recState s v) := by
  unfold State.recState
  repeat' first
    | with_reducible assumption
    | with_reducible apply State.setFld_keeps hS

theorem State.tryAccept_keeps {P : State → Prop} (hS : Stable P) {s : State} {k : Nat} (h : P s) :
    P (State.tryAccept s k) := by
  unfold State.tryAccept
  repeat' first
    | with_reducible assumption
    | intro _
    | with_reducible apply State.sendPicotOn_keeps hS
    | with_reducible apply State.setFld_keeps hS
    | with_reducible apply State.setEnRole_keeps hS
    | with_reducible apply State.incFld_keeps hS
    | with_reducible apply State.recState_keeps hS
    | with_reducible apply keep_ite (Q := P)
    | with_reducible apply keep_foldl (Q := P)
    | simp only [keep_mk hS]
    | split

theorem State.catchStep_keeps {P : State → Prop} (hS : Stable P) {s : State} {sub : Nat} {ready : List Byte → Bool} {body : Nat → List Byte → State → State} (h : P s) (hbody : ∀ (v0 : Nat) (v1 : List Byte) (v2 : State), P v2 → P (body v0 v1 v2)) :
    P (State.catchStep s sub ready body) := by
  unfold State.catchStep
  repeat' first
    | with_reducible assumption
    | with_reducible apply State.takeMsg_keeps hS
    | with_reducible apply State.incFld_keeps hS
    | with_reducible apply hbody
    | with_reducible apply keep_ite (Q := P)
    | split
    | refine Inv3.unmk (P := P) (OptInv.get (Q := Inv3 P) ?_ (by with_reducible assumption))

theorem State.addPos_keeps {P : State → Prop} (hS : Stable P) {s : State} {f : Fld} {i : Nat} {pos : Nat} (h : P s) :
    OptInv P (State.addPos s f i pos) := by
  unfold State.addPos
  repeat' first
    | with_reducible assumption
    | intro _
    | with_reducible apply State.setFld_keeps hS
    | with_reducible apply OptInv.map

theorem State.dropPos_keeps {P : State → Prop} (hS : Stable P) {s : State} {f : Fld} {i : Nat} {pos : Nat} (h : P s) :
    P (State.dropPos s f i pos) := by
  unfold State.dropPos
  repeat' first
    | with_reducible assumption
    | with_reducible apply State.setFld_keeps hS

theorem State.addPending_keeps {P : State → Prop} (hS : Stable P) {s : State} {pos : Nat} (h : P s) :
    P (State.addPending s pos) := by
  unfold State.addPending
  repeat' first
    | with_reducible assumption
    | with_reducible apply State.addPos_keeps hS
    | with_reducible apply keep_ite (Q := P)
    | with_reducible apply OptInv.getD (Q := P)

theorem State.addDetour_keeps {P : State → Prop} (hS : Stable P) {s : State} {pos : Nat} (h : P s) :
    P (State.addDetour s pos) := by
  unfold State.addDetour
  repeat' first
    | with_reducible assumption
    | with_reducible apply State.addPos_keeps hS
    | with_reducible apply keep_ite (Q := P)
    | with_reducible apply OptInv.getD (Q := P)
    | split
    | refine OptInv.get (Q := P) ?_ (by with_reducible assumption)

theorem State.dropDetour_keeps {P : State → Prop} (hS : Stable P) {s : State} {pos : Nat} (h : P s) :
    P (State.dropDetour s pos) := by
  unfold State.dropDetour
  repeat' first
    | with_reducible assumption
    | with_reducible apply State.dropPos_keeps hS

theorem State.sendPath_keeps {P : State → Prop} (hS : Stable P) {s : State} {slot : Nat} {body : List Byte} (h : P s) :
    P (State.sendPath s slot body) := by
  unfold State.sendPath
  repeat' first
    | with_reducible assumption
    | intro _
    | with_reducible apply State.sendTo_keeps hS
    | with_reducible apply keep_ite (Q := P)
    | simp only [keep_mk hS]
    | split
    | dsimp only

theorem State.setQuiet_keeps {P : State → Prop} (hS : Stable P) {s : State} {slot : Nat} {b : Bool} (h : P s) :
    P (State.setQuiet s slot b) := by
  unfold State.setQuiet
  repeat' first
    | with_reducible assumption
    | simp only [keep_mk hS]

theorem State.setRecovering_keeps {P : State → Prop} (hS : Stable P) {s : State} {slot : Nat} {b : Bool} (h : P s) :
    P (State.setRecovering s slot b) := by
  unfold State.setRecovering
  repeat' first
    | with_reducible assumption
    | simp only [keep_mk hS]

theorem State.setOrigin_keeps {P : State → Prop} (hS : Stable P) {s : State} {slot : Nat} {v : Nat} (h : P s) :
    P (State.setOrigin s slot v) := by
  unfold State.setOrigin
  repeat' first
    | with_reducible assumption
    | simp only [keep_mk hS]

theorem State.setRestore_keeps {P : State → Prop} (hS : Stable P) {s : State} {slot : Nat} {v : Option Nat} (h : P s) :
    P (State.setRestore s slot v) := by
  unfold State.setRestore
  repeat' first
    | with_reducible assumption
    | simp only [keep_mk hS]

theorem State.setFill_keeps {P : State → Prop} (hS : Stable P) {s : State} {slot : Nat} {v : Option Fill} (h : P s) :
    P (State.setFill s slot v) := by
  unfold State.setFill
  repeat' first
    | with_reducible assumption
    | simp only [keep_mk hS]

theorem State.resendResult_keeps {P : State → Prop} (hS : Stable P) {s : State} {slot : Nat} (h : P s) :
    P (State.resendResult s slot) := by
  unfold State.resendResult
  repeat' first
    | with_reducible assumption
    | with_reducible apply State.sendVote_keeps hS
    | with_reducible apply keep_ite (Q := P)
    | split

theorem State.stopSlot_keeps {P : State → Prop} (hP : Writes P) {s : State} {slot : Nat} {cpos : Nat} (h : P s) :
    P (State.stopSlot s slot cpos) := by
  have hS := hP.toStable
  unfold State.stopSlot
  repeat' first
    | with_reducible assumption
    | intro _
    | with_reducible apply State.setSlotState_keeps hS
    | with_reducible apply State.resetLists_keeps hS
    | with_reducible apply State.abandonWork_keeps hP
    | with_reducible apply State.purgeStash_keeps hP
    | with_reducible apply State.setFill_keeps hS
    | with_reducible apply State.setQuiet_keeps hS
    | with_reducible apply State.setRecovering_keeps hS
    | with_reducible apply State.resendResult_keeps hS
    | with_reducible apply Inv2.get (P := P)
    | with_reducible apply keep_ite (Q := P)
    | with_reducible apply keep_foldl (Q := P)
    | simp only [keep_mk hS]

theorem State.swingBack_keeps {P : State → Prop} (hS : Stable P) {s : State} {cpos : Nat} (h : P s) :
    P (State.swingBack s cpos) := by
  unfold State.swingBack
  repeat' first
    | with_reducible assumption
    | intro _
    | with_reducible apply State.setEnRole_keeps hS
    | with_reducible apply State.dropQueued_keeps hS
    | with_reducible apply keep_ite (Q := P)
    | with_reducible apply keep_foldl (Q := P)
    | simp only [keep_mk hS]

theorem State.takeRecover_keeps {P : State → Prop} (hP : Writes P) {s : State} {slot : Nat} {cpos : Nat} {rgen : Nat} {jgen : Nat} {target : Nat} {c0 : Nat} {c1 : Nat} (h : P s) :
    P (State.takeRecover s slot cpos rgen jgen target c0 c1) := by
  have hS := hP.toStable
  unfold State.takeRecover
  repeat' first
    | with_reducible assumption
    | with_reducible apply State.evalAll_keeps hS
    | with_reducible apply State.setFld_keeps hS
    | with_reducible apply State.addPending_keeps hS
    | with_reducible apply State.swingBack_keeps hS
    | with_reducible apply State.dropDetour_keeps hS
    | with_reducible apply State.addDetour_keeps hS
    | with_reducible apply State.stopSlot_keeps hP
    | with_reducible apply State.recState_keeps hS
    | with_reducible apply State.setRestore_keeps hS
    | with_reducible apply keep_ite (Q := P)

theorem State.noCommon_keeps {P : State → Prop} (hS : Stable P) {s : State} {slot : Nat} (h : P s) :
    P (State.noCommon s slot) := by
  unfold State.noCommon
  repeat' first
    | with_reducible assumption
    | with_reducible apply State.setFld_keeps hS
    | with_reducible apply State.raise_keeps hS

theorem State.launchCircuit_keeps {P : State → Prop} (hP : Writes P) {s : State} {slot : Nat} {kind : Nat} {cpos : Nat} {rgen : Nat} {jgen : Nat} {target : Nat} {c0 : Nat} {c1 : Nat} (h : P s) :
    InvL P (State.launchCircuit s slot kind cpos rgen jgen target c0 c1) := by
  have hS := hP.toStable
  unfold State.launchCircuit
  repeat' first
    | with_reducible assumption
    | with_reducible apply State.setOrigin_keeps hS
    | with_reducible apply State.takeRecover_keeps hP
    | with_reducible apply State.setRestore_keeps hS
    | with_reducible apply State.sendPath_keeps hS
    | with_reducible apply keep_ite (Q := P)
    | with_reducible apply keep_ite (Q := InvL P)
    | simp only [InvL.iff]

theorem State.endLoss_keeps {P : State → Prop} (hS : Stable P) {s : State} {cpos : Nat} (h : P s) :
    P (State.endLoss s cpos) := by
  unfold State.endLoss
  repeat' first
    | with_reducible assumption
    | with_reducible apply keep_ite (Q := P)
    | simp only [keep_mk hS]

theorem State.circuitBack_keeps {P : State → Prop} (hP : Writes P) {s : State} {slot : Nat} {cpos : Nat} {c0 : Nat} {c1 : Nat} (h : P s) :
    P (State.circuitBack s slot cpos c0 c1) := by
  have hS := hP.toStable
  unfold State.circuitBack
  repeat' first
    | with_reducible assumption
    | with_reducible apply State.endLoss_keeps hS
    | with_reducible apply State.noCommon_keeps hS
    | with_reducible apply State.setOrigin_keeps hS
    | with_reducible apply State.launchCircuit_keeps hP
    | with_reducible apply InvL.get (P := P)
    | with_reducible apply keep_ite (Q := P)

theorem State.rollback_keeps {P : State → Prop} (hP : Writes P) {s : State} {slot : Nat} {cpos : Nat} {rgen : Nat} {c0 : Nat} {c1 : Nat} (h : P s) :
    P (State.rollback s slot cpos rgen c0 c1) := by
  have hS := hP.toStable
  unfold State.rollback
  repeat' first
    | with_reducible assumption
    | with_reducible apply State.launchCircuit_keeps hP
    | with_reducible apply State.circuitBack_keeps hP
    | with_reducible apply InvL.get (P := P)
    | with_reducible apply keep_ite (Q := P)

theorem State.startFill_keeps {P : State → Prop} (hP : Writes P) {s : State} {slot : Nat} {start : Nat} (h : P s) :
    P (State.startFill s slot start) := by
  have hS := hP.toStable
  unfold State.startFill
  repeat' first
    | with_reducible assumption
    | with_reducible apply State.rollback_keeps hP
    | with_reducible apply State.setFill_keeps hS
    | with_reducible apply State.setFld_keeps hS
    | with_reducible apply State.sendTo_keeps hS
    | with_reducible apply State.recState_keeps hS
    | simp only [keep_mk hS]
    | split

theorem State.fillAgain_keeps {P : State → Prop} (hP : Writes P) {s : State} {slot : Nat} {cpos : Nat} (h : P s) :
    P (State.fillAgain s slot cpos) := by
  have hS := hP.toStable
  unfold State.fillAgain
  repeat' first
    | with_reducible assumption
    | with_reducible apply State.startFill_keeps hP
    | with_reducible apply keep_ite (Q := P)
    | split

theorem State.startCatch_keeps {P : State → Prop} (hP : Writes P) {s : State} (h : P s) :
    P (State.startCatch s) := by
  have hS := hP.toStable
  unfold State.startCatch
  repeat' first
    | with_reducible assumption
    | intro _
    | with_reducible apply State.launchCircuit_keeps hP
    | with_reducible apply State.startFill_keeps hP
    | with_reducible apply InvL.get (P := P)
    | with_reducible apply keep_ite (Q := P)
    | with_reducible apply keep_foldl (Q := P)

theorem State.passResume_keeps {P : State → Prop} (hP : Writes P) {s : State} {slot : Nat} {cpos : Nat} (h : P s) :
    P (State.passResume s slot cpos) := by
  have hS := hP.toStable
  unfold State.passResume
  repeat' first
    | with_reducible assumption
    | with_reducible apply State.dropPos_keeps hS
    | with_reducible apply State.dropVote_keeps hS
    | with_reducible apply State.raise_keeps hS
    | with_reducible apply State.notice_keeps hP
    | with_reducible apply State.recState_keeps hS
    | with_reducible apply State.setQuiet_keeps hS
    | with_reducible apply State.setRecovering_keeps hS
    | with_reducible apply keep_ite (Q := P)
    | simp only [keep_mk hS]

theorem State.sendTwin_keeps {P : State → Prop} (hS : Stable P) {s : State} {slot : Nat} {cpos : Nat} {body : List Byte} (h : P s) :
    P (State.sendTwin s slot cpos body) := by
  unfold State.sendTwin
  repeat' first
    | with_reducible assumption
    | with_reducible apply State.sendPicotOn_keeps hS
    | split

theorem State.resumeSettle_keeps {P : State → Prop} (hP : Writes P) {s : State} {slot : Nat} (h : P s) :
    P (State.resumeSettle s slot) := by
  have hS := hP.toStable
  unfold State.resumeSettle
  repeat' first
    | with_reducible assumption
    | with_reducible apply State.endLoss_keeps hS
    | with_reducible apply State.sendTwin_keeps hS
    | with_reducible apply State.setOrigin_keeps hS
    | with_reducible apply State.sendPath_keeps hS
    | with_reducible apply State.passResume_keeps hP
    | with_reducible apply keep_ite (Q := P)

theorem State.digestSettle_keeps {P : State → Prop} (hS : Stable P) {s : State} (h : P s) :
    P (State.digestSettle s) := by
  unfold State.digestSettle
  repeat' first
    | with_reducible assumption
    | intro _
    | with_reducible apply State.sendTo_keeps hS
    | with_reducible apply keep_foldl (Q := P)
    | simp only [keep_mk hS]

theorem State.sendDigest_keeps {P : State → Prop} (hS : Stable P) {s : State} {slot : Nat} {dest : Nat} {cpos : Nat} {step : Nat} {root : List Byte} (h : P s) :
    P (State.sendDigest s slot dest cpos step root) := by
  unfold State.sendDigest
  repeat' first
    | with_reducible assumption
    | with_reducible apply State.digestSettle_keeps hS
    | simp only [keep_mk hS]

theorem State.answerFill_keeps {P : State → Prop} (hP : Writes P) {s : State} {q : FillReq} (h : P s) :
    P (State.answerFill s q) := by
  have hS := hP.toStable
  unfold State.answerFill
  repeat' first
    | with_reducible assumption
    | with_reducible apply State.sendDigest_keeps hS
    | with_reducible apply State.sendState_keeps hP
    | with_reducible apply State.readCommitted_keeps hP
    | with_reducible apply keep_ite (Q := P)
    | simp only [keep_mk hS]
    | split
    | refine Inv2.of_eq (P := P) ?_ (by with_reducible assumption)

theorem State.answerFills_keeps {P : State → Prop} (hP : Writes P) {s : State} {slot : Nat} (h : P s) :
    P (State.answerFills s slot) := by
  have hS := hP.toStable
  unfold State.answerFills
  repeat' first
    | with_reducible assumption
    | intro _
    | with_reducible apply State.answerFill_keeps hP
    | with_reducible apply keep_foldl (Q := P)
    | simp only [keep_mk hS]

theorem State.takeRecFrame_keeps {P : State → Prop} (hS : Stable P) {s : State} {kind : Nat} (h : P s) :
    OptInv (Inv2 P) (State.takeRecFrame s kind) := by
  unfold State.takeRecFrame
  repeat' first
    | with_reducible assumption
    | with_reducible apply State.freeFrame_keeps hS
    | simp only [keep_mk hS]
    | simp only [Inv2.iff]
    | with_reducible apply OptInv.none
    | with_reducible apply OptInv.some
    | split

theorem State.fillWords_keeps {P : State → Prop} (hP : Writes P) {s : State} {slot : Nat} {f : Fill} {region : Nat} {off : Nat} {ws : List Word} (h : P s) :
    P (State.fillWords s slot f region off ws) := by
  have hS := hP.toStable
  unfold State.fillWords
  repeat' first
    | with_reducible assumption
    | with_reducible apply State.stateList_keeps hP
    | with_reducible apply State.setFill_keeps hS
    | with_reducible apply State.storeRegion_keeps hP
    | with_reducible apply State.setFld_keeps hS
    | with_reducible apply Inv2.get (P := P)
    | with_reducible apply keep_ite (Q := Inv2 P)
    | simp only [keep_mk hS]
    | simp only [Inv2.iff]
    | split
    | refine Inv2.of_eq (P := P) ?_ (by with_reducible assumption)

theorem State.fillFrame_keeps {P : State → Prop} (hP : Writes P) {s : State} (h : P s) :
    P (State.fillFrame s) := by
  have hS := hP.toStable
  unfold State.fillFrame
  repeat' first
    | with_reducible assumption
    | with_reducible apply State.takeRecFrame_keeps hS
    | with_reducible apply State.setFill_keeps hS
    | with_reducible apply State.fillWords_keeps hP
    | with_reducible apply keep_ite (Q := P)
    | simp only [keep_mk hS]
    | split
    | refine Inv2.unmk (P := P) (OptInv.get (Q := Inv2 P) ?_ (by with_reducible assumption))

theorem State.fillState_keeps {P : State → Prop} (hP : Writes P) {s : State} {slot : Nat} {f : Fill} (h : P s) :
    Inv2 P (State.fillState s slot f) := by
  have hS := hP.toStable
  unfold State.fillState
  repeat' first
    | with_reducible assumption
    | with_reducible apply State.stateList_keeps hP
    | simp only [keep_mk hS]
    | simp only [Inv2.iff]
    | split
    | refine Inv2.of_eq (P := P) ?_ (by with_reducible assumption)

theorem State.takeDigest_keeps {P : State → Prop} (hP : Writes P) {s : State} {slot : Nat} {f : Fill} {m : List Byte} (h : P s) :
    P (State.takeDigest s slot f m) := by
  have hS := hP.toStable
  unfold State.takeDigest
  repeat' first
    | with_reducible assumption
    | with_reducible apply State.fillState_keeps hP
    | with_reducible apply State.setFill_keeps hS
    | with_reducible apply State.clearTorn_keeps hS
    | with_reducible apply State.loadRegImage_keeps hS
    | with_reducible apply State.setFld_keeps hS
    | with_reducible apply State.rollback_keeps hP
    | with_reducible apply State.recState_keeps hS
    | with_reducible apply State.setOrigin_keeps hS
    | with_reducible apply State.raise_keeps hS
    | with_reducible apply State.startFill_keeps hP
    | with_reducible apply Inv2.get (P := P)
    | with_reducible apply keep_ite (Q := P)

theorem State.mirrorDone_keeps {P : State → Prop} (hS : Stable P) {s : State} {m : Mirror} (h : P s) :
    P (State.mirrorDone s m) := by
  unfold State.mirrorDone
  repeat' first
    | with_reducible assumption
    | with_reducible apply State.sendTo_keeps hS
    | simp only [keep_mk hS]

theorem State.mirrorFrame_keeps {P : State → Prop} (hS : Stable P) {s : State} (h : P s) :
    P (State.mirrorFrame s) := by
  unfold State.mirrorFrame
  repeat' first
    | with_reducible assumption
    | with_reducible apply State.takeRecFrame_keeps hS
    | with_reducible apply State.mirrorDone_keeps hS
    | with_reducible apply keep_ite (Q := P)
    | simp only [keep_mk hS]
    | split
    | refine Inv2.unmk (P := P) (OptInv.get (Q := Inv2 P) ?_ (by with_reducible assumption))

theorem State.handbackReply_keeps {P : State → Prop} (hP : Writes P) {s : State} {status : Nat} (h : P s) :
    P (State.handbackReply s status) := by
  have hS := hP.toStable
  unfold State.handbackReply
  repeat' first
    | with_reducible assumption
    | intro _
    | with_reducible apply State.reply_keeps hP
    | with_reducible apply State.refuse_keeps hP
    | with_reducible apply keep_ite (Q := P)
    | with_reducible apply keep_foldl (Q := P)
    | simp only [keep_mk hS]

theorem State.standAgain_keeps {P : State → Prop} (hP : Writes P) {s : State} {repl : Nat} (h : P s) :
    P (State.standAgain s repl) := by
  have hS := hP.toStable
  unfold State.standAgain
  repeat' first
    | with_reducible assumption
    | intro _
    | with_reducible apply State.disableSlot_keeps hP
    | with_reducible apply State.setFld_keeps hS
    | with_reducible apply State.setEnRole_keeps hS
    | with_reducible apply State.recState_keeps hS
    | with_reducible apply Inv2.get (P := P)
    | with_reducible apply keep_foldl (Q := P)
    | simp only [keep_mk hS]

theorem State.dropHandback_keeps {P : State → Prop} (hP : Writes P) {s : State} (h : P s) :
    P (State.dropHandback s) := by
  have hS := hP.toStable
  unfold State.dropHandback
  repeat' first
    | with_reducible assumption
    | intro _
    | with_reducible apply State.handbackReply_keeps hP
    | with_reducible apply State.setPause_keeps hS
    | with_reducible apply State.recState_keeps hS
    | with_reducible apply keep_foldl (Q := P)

theorem State.supersede_keeps {P : State → Prop} (hP : Writes P) {s : State} {slot : Nat} {cpos : Nat} (h : P s) :
    P (State.supersede s slot cpos) := by
  have hS := hP.toStable
  unfold State.supersede
  repeat' first
    | with_reducible assumption
    | with_reducible apply State.dropHandback_keeps hP
    | with_reducible apply State.setOrigin_keeps hS
    | with_reducible apply keep_ite (Q := P)
    | simp only [keep_mk hS]

theorem State.handbackSettle_keeps {P : State → Prop} (hP : Writes P) {s : State} (h : P s) :
    P (State.handbackSettle s) := by
  have hS := hP.toStable
  unfold State.handbackSettle
  repeat' first
    | with_reducible assumption
    | with_reducible apply State.dropHandback_keeps hP
    | intro _
    | with_reducible apply State.setPause_keeps hS
    | with_reducible apply State.readCommitted_keeps hP
    | with_reducible apply State.sendDigest_keeps hS
    | with_reducible apply State.sendState_keeps hP
    | with_reducible apply State.launchCircuit_keeps hP
    | with_reducible apply State.sendTwin_keeps hS
    | with_reducible apply State.setOrigin_keeps hS
    | with_reducible apply State.recState_keeps hS
    | with_reducible apply State.handbackReply_keeps hP
    | with_reducible apply State.standAgain_keeps hP
    | with_reducible apply InvL.get (P := P)
    | with_reducible apply keep_ite (Q := P)
    | with_reducible apply keep_foldl (Q := P)
    | simp only [keep_mk hS]
    | split
    | refine Inv2.of_eq (P := P) ?_ (by with_reducible assumption)

theorem State.claimSettle_keeps {P : State → Prop} (hS : Stable P) {s : State} (h : P s) :
    P (State.claimSettle s) := by
  unfold State.claimSettle
  repeat' first
    | with_reducible assumption
    | intro _
    | with_reducible apply State.tryAccept_keeps hS
    | with_reducible apply keep_ite (Q := P)
    | with_reducible apply keep_foldl (Q := P)

theorem execClaim_keeps {P : State → Prop} (hS : Stable P) {s : State} (h : P s) :
    OutInv P (execClaim s) := by
  unfold execClaim
  repeat' first
    | with_reducible assumption
    | intro _
    | with_reducible apply State.catchStep_keeps hS
    | with_reducible apply State.tryAccept_keeps hS
    | with_reducible apply OutInv.next
    | simp only [keep_mk hS]

theorem execClaimWindowExpiry_keeps {P : State → Prop} (hP : Writes P) {s : State} (h : P s) :
    OutInv P (execClaimWindowExpiry s) := by
  have hS := hP.toStable
  unfold execClaimWindowExpiry
  repeat' first
    | with_reducible assumption
    | intro _
    | with_reducible apply State.incFld_keeps hS
    | with_reducible apply State.rollback_keeps hP
    | with_reducible apply OutInv.next
    | with_reducible apply keep_foldl (Q := P)
    | simp only [keep_mk hS]

theorem execAccept_keeps {P : State → Prop} (hS : Stable P) {s : State} (h : P s) :
    OutInv P (execAccept s) := by
  unfold execAccept
  repeat' first
    | with_reducible assumption
    | intro _
    | with_reducible apply State.catchStep_keeps hS
    | with_reducible apply State.setEnRole_keeps hS
    | with_reducible apply State.dropQueued_keeps hS
    | with_reducible apply OutInv.next
    | with_reducible apply keep_foldl (Q := P)
    | simp only [keep_mk hS]
    | split

theorem execDeclare_keeps {P : State → Prop} (hS : Stable P) {s : State} (h : P s) :
    OutInv P (execDeclare s) := by
  unfold execDeclare
  repeat' first
    | with_reducible assumption
    | intro _
    | with_reducible apply State.catchStep_keeps hS
    | with_reducible apply State.tryAccept_keeps hS
    | with_reducible apply State.lossDetected_keeps hS
    | with_reducible apply OutInv.next
    | with_reducible apply keep_ite (Q := P)
    | simp only [keep_mk hS]

theorem execCatchFence_keeps {P : State → Prop} (hP : Writes P) {s : State} (h : P s) :
    OutInv P (execCatchFence s) := by
  have hS := hP.toStable
  unfold execCatchFence
  repeat' first
    | with_reducible assumption
    | intro _
    | with_reducible apply State.catchStep_keeps hS
    | with_reducible apply State.abortSlot_keeps hP
    | with_reducible apply State.setEnRole_keeps hS
    | with_reducible apply OutInv.next
    | with_reducible apply Inv2.get (P := P)
    | with_reducible apply keep_foldl (Q := P)

theorem execSwingComplete_keeps {P : State → Prop} (hP : Writes P) {s : State} (h : P s) :
    OutInv P (execSwingComplete s) := by
  have hS := hP.toStable
  unfold execSwingComplete
  repeat' first
    | with_reducible assumption
    | with_reducible apply State.startCatch_keeps hP
    | with_reducible apply State.recState_keeps hS
    | with_reducible apply OutInv.next
    | with_reducible apply keep_ite (Q := P)

theorem execRecover_keeps {P : State → Prop} (hP : Writes P) {s : State} (h : P s) :
    OutInv P (execRecover s) := by
  have hS := hP.toStable
  unfold execRecover
  repeat' first
    | with_reducible assumption
    | with_reducible apply State.supersede_keeps hP
    | with_reducible apply State.fillAgain_keeps hP
    | intro _
    | with_reducible apply State.catchStep_keeps hS
    | with_reducible apply State.startFill_keeps hP
    | with_reducible apply State.circuitBack_keeps hP
    | with_reducible apply State.sendTwin_keeps hS
    | with_reducible apply State.takeRecover_keeps hP
    | with_reducible apply State.sendPath_keeps hS
    | with_reducible apply OutInv.next
    | with_reducible apply keep_ite (Q := P)

theorem execQuietReached_keeps {P : State → Prop} (hP : Writes P) {slot : Fin 4} {s : State} (h : P s) :
    OutInv P (execQuietReached slot s) := by
  have hS := hP.toStable
  unfold execQuietReached
  repeat' first
    | with_reducible assumption
    | with_reducible apply State.setQuiet_keeps hS
    | with_reducible apply State.answerFills_keeps hP
    | with_reducible apply State.recState_keeps hS
    | with_reducible apply OutInv.next
    | with_reducible apply keep_ite (Q := P)

theorem execFillReq_keeps {P : State → Prop} (hP : Writes P) {s : State} (h : P s) :
    OutInv P (execFillReq s) := by
  have hS := hP.toStable
  unfold execFillReq
  repeat' first
    | with_reducible assumption
    | intro _
    | with_reducible apply State.catchStep_keeps hS
    | with_reducible apply State.answerFills_keeps hP
    | with_reducible apply OutInv.next
    | with_reducible apply keep_ite (Q := P)
    | simp only [keep_mk hS]

theorem execFillFrame_keeps {P : State → Prop} (hP : Writes P) {s : State} (h : P s) :
    OutInv P (execFillFrame s) := by
  have hS := hP.toStable
  unfold execFillFrame
  repeat' first
    | with_reducible assumption
    | with_reducible apply State.fillFrame_keeps hP
    | with_reducible apply OutInv.next

theorem execDigest_keeps {P : State → Prop} (hP : Writes P) {s : State} (h : P s) :
    OutInv P (execDigest s) := by
  have hS := hP.toStable
  unfold execDigest
  repeat' first
    | with_reducible assumption
    | intro _
    | with_reducible apply State.catchStep_keeps hS
    | with_reducible apply State.takeDigest_keeps hP
    | with_reducible apply OutInv.next
    | with_reducible apply keep_ite (Q := P)
    | split

theorem execCatchResume_keeps {P : State → Prop} (hP : Writes P) {s : State} (h : P s) :
    OutInv P (execCatchResume s) := by
  have hS := hP.toStable
  unfold execCatchResume
  repeat' first
    | with_reducible assumption
    | with_reducible apply State.endLoss_keeps hS
    | intro _
    | with_reducible apply State.catchStep_keeps hS
    | with_reducible apply State.recState_keeps hS
    | with_reducible apply State.setOrigin_keeps hS
    | with_reducible apply State.passResume_keeps hP
    | with_reducible apply State.sendTwin_keeps hS
    | with_reducible apply State.sendPath_keeps hS
    | with_reducible apply OutInv.next
    | with_reducible apply keep_ite (Q := P)

theorem execMirrorFrame_keeps {P : State → Prop} (hS : Stable P) {s : State} (h : P s) :
    OutInv P (execMirrorFrame s) := by
  unfold execMirrorFrame
  repeat' first
    | with_reducible assumption
    | with_reducible apply State.mirrorFrame_keeps hS
    | with_reducible apply OutInv.next

theorem execMirrorDone_keeps {P : State → Prop} (hS : Stable P) {s : State} (h : P s) :
    OutInv P (execMirrorDone s) := by
  unfold execMirrorDone
  repeat' first
    | with_reducible assumption
    | intro _
    | with_reducible apply State.catchStep_keeps hS
    | with_reducible apply State.setFld_keeps hS
    | with_reducible apply OutInv.next

theorem execRestoreComplete_keeps {P : State → Prop} (hP : Writes P) {slot : Fin 4} {s : State} (h : P s) :
    OutInv P (execRestoreComplete slot s) := by
  have hS := hP.toStable
  unfold execRestoreComplete
  repeat' first
    | with_reducible assumption
    | with_reducible apply State.restoreStep_keeps hP
    | with_reducible apply State.recState_keeps hS
    | with_reducible apply State.setRestore_keeps hS
    | with_reducible apply State.noCommon_keeps hS
    | with_reducible apply OutInv.next
    | with_reducible apply Inv2.get (P := P)
    | with_reducible apply keep_ite (Q := P)
    | simp only [keep_mk hS]
    | split

end Sys2Proof.Machine
end

