-- ==== Sys2Proof/Laws/KeepsCsr.lean ====
section
/-! SUPPORT. What the operations of Machine/Csr.lean keep (Laws/Keeps.lean). -/

namespace Sys2Proof.Machine

theorem State.setQuota_keeps {P : State → Prop} (hS : Stable P) {s : State} {slot : Nat} {q : Nat} {limit : Nat} (h : P s) :
    P (State.setQuota s slot q limit) := by
  unfold State.setQuota
  repeat' first
    | with_reducible assumption
    | with_reducible apply State.setFld_keeps hS
    | with_reducible apply State.raise_keeps hS
    | with_reducible apply keep_ite (Q := P)

theorem State.plainStore_keeps {P : State → Prop} (hS : Stable P) {s : State} {r : Reg} {d : Nat} {u : Nat} {i : Nat} {v : Nat} (h : P s) :
    P (State.plainStore s r d u i v) := by
  unfold State.plainStore
  repeat' first
    | with_reducible assumption
    | intro _
    | with_reducible apply State.setFld_keeps hS
    | with_reducible apply keep_ite (Q := P)
    | with_reducible apply keep_foldl (Q := P)
    | simp only [keep_mk hS]
    | split

theorem State.writeDb_keeps {P : State → Prop} (hS : Stable P) {s : State} {slot : Nat} {v : Nat} (h : P s) :
    P (State.writeDb s slot v) := by
  unfold State.writeDb
  repeat' first
    | with_reducible assumption
    | with_reducible apply State.setFld_keeps hS
    | with_reducible apply keep_ite (Q := P)

theorem State.writeLscale_keeps {P : State → Prop} (hS : Stable P) {s : State} {slot : Nat} {v : Nat} (h : P s) :
    P (State.writeLscale s slot v) := by
  unfold State.writeLscale
  repeat' first
    | with_reducible assumption
    | with_reducible apply State.plainStore_keeps hS
    | with_reducible apply State.setLscale_keeps hS
    | with_reducible apply keep_ite (Q := P)

theorem State.regStore_keeps {P : State → Prop} (hP : Writes P) {s : State} {acc : Accessor} {r : Reg} {d : Nat} {u : Nat} {i : Nat} {v : Nat} (h : P s) :
    OptInv P (State.regStore s acc r d u i v) := by
  have hS := hP.toStable
  unfold State.regStore
  repeat' first
    | with_reducible assumption
    | intro _
    | with_reducible apply State.setFld_keeps hS
    | with_reducible apply State.writeArrCtl_keeps hS
    | with_reducible apply State.clearArrFault_keeps hS
    | with_reducible apply State.writeLsSeed_keeps hS
    | with_reducible apply State.writeRgnBase_keeps hS
    | with_reducible apply State.writeWgm_keeps hS
    | with_reducible apply State.clearCarFault_keeps hS
    | with_reducible apply State.clearFdrFault_keeps hS
    | with_reducible apply State.purgeStash_keeps hP
    | with_reducible apply State.setVe_keeps hS
    | with_reducible apply State.writeSeSeed_keeps hS
    | with_reducible apply State.writeReSeed_keeps hS
    | with_reducible apply State.plainStore_keeps hS
    | with_reducible apply State.setStep_keeps hS
    | with_reducible apply State.writeLscale_keeps hS
    | with_reducible apply State.setQuota_keeps hS
    | with_reducible apply State.writeFrameData_keeps hS
    | with_reducible apply State.writeSramClass_keeps hS
    | with_reducible apply State.rawAccess_keeps hP
    | with_reducible apply State.chControl_keeps hP
    | with_reducible apply State.writeClkStep_keeps hS
    | with_reducible apply State.writeHlCtl_keeps hS
    | with_reducible apply State.pump_keeps hS
    | with_reducible apply State.evalAll_keeps hS
    | with_reducible apply State.writeListCtl_keeps hS
    | with_reducible apply State.writeDb_keeps hS
    | with_reducible apply State.drainNotices_keeps hP
    | with_reducible apply State.svcSettle_keeps hS
    | with_reducible apply State.clearSnsFault_keeps hS
    | with_reducible apply State.writeFwCtl_keeps hP
    | with_reducible apply State.startQuote_keeps hS
    | with_reducible apply State.writePolCtl_keeps hP
    | with_reducible apply State.ackLog_keeps hS
    | with_reducible apply State.release__keeps hS
    | with_reducible apply State.clearLog_keeps hS
    | with_reducible apply State.startFlush_keeps hS
    | with_reducible apply State.bucketSettle_keeps hS
    | with_reducible apply keep_ite (Q := P)
    | with_reducible apply keep_ite (Q := OptInv P)
    | with_reducible apply keep_foldl (Q := P)
    | simp only [keep_mk hS]
    | with_reducible apply OptInv.none
    | with_reducible apply OptInv.some
    | split

theorem State.csrWrite_keeps {P : State → Prop} (hP : Writes P) {s : State} {acc : Accessor} {a : Nat} {v : Nat} (h : P s) :
    OptInv P (State.csrWrite s acc a v) := by
  have hS := hP.toStable
  unfold State.csrWrite
  repeat' first
    | with_reducible assumption
    | with_reducible apply State.regStore_keeps hP
    | with_reducible apply keep_ite (Q := OptInv P)
    | simp only [keep_mk hS]
    | with_reducible apply OptInv.none
    | with_reducible apply OptInv.some
    | split

theorem State.csrEnter_keeps {P : State → Prop} (hS : Stable P) {s : State} {a : Nat} (h : P s) :
    P (State.csrEnter s a) := by
  unfold State.csrEnter
  repeat' first
    | with_reducible assumption
    | intro _
    | with_reducible apply State.meshSend_keeps hS
    | with_reducible apply keep_ite (Q := P)
    | simp only [keep_mk hS]
    | with_reducible apply OptInv.none
    | with_reducible apply OptInv.some
    | split
    | dsimp only

theorem State.csrLeave_keeps {P : State → Prop} (hS : Stable P) {s : State} {a : Nat} (h : P s) :
    P (State.csrLeave s a) := by
  unfold State.csrLeave
  repeat' first
    | with_reducible assumption
    | intro _
    | with_reducible apply State.meshSend_keeps hS
    | with_reducible apply keep_ite (Q := P)
    | simp only [keep_mk hS]
    | with_reducible apply OptInv.none
    | with_reducible apply OptInv.some
    | split
    | dsimp only

theorem State.csrLoad_keeps {P : State → Prop} (hS : Stable P) {s : State} {acc : Accessor} {a : Nat} (h : P s) :
    P (State.csrLoad s acc a) := by
  unfold State.csrLoad
  repeat' first
    | with_reducible assumption
    | intro _
    | with_reducible apply State.csrEnter_keeps hS
    | with_reducible apply State.csrLeave_keeps hS
    | with_reducible apply keep_ite (Q := P)
    | simp only [keep_mk hS]
    | with_reducible apply OptInv.none
    | with_reducible apply OptInv.some
    | split
    | dsimp only

theorem State.csrStore_keeps {P : State → Prop} (hP : Writes P) {s : State} {acc : Accessor} {a : Nat} {v : Nat} (h : P s) :
    P (State.csrStore s acc a v) := by
  have hS := hP.toStable
  unfold State.csrStore
  repeat' first
    | with_reducible assumption
    | intro _
    | with_reducible apply State.csrEnter_keeps hS
    | with_reducible apply State.csrWrite_keeps hP
    | with_reducible apply State.csrLeave_keeps hS
    | with_reducible apply keep_ite (Q := P)
    | with_reducible apply keep_ite (Q := OptInv P)
    | simp only [keep_mk hS]
    | with_reducible apply OptInv.none
    | with_reducible apply OptInv.some
    | split
    | refine OptInv.get (Q := P) ?_ (by with_reducible assumption)
    | dsimp only

theorem execCsrRegisterWrite_keeps {P : State → Prop} (hP : Writes P) {acc : Accessor} {addr : Nat} {v : Word64} {s : State} (h : P s) :
    OutInv P (execCsrRegisterWrite acc addr v s) := by
  have hS := hP.toStable
  unfold execCsrRegisterWrite
  repeat' first
    | with_reducible assumption
    | with_reducible apply State.csrStore_keeps hP
    | with_reducible apply OutInv.next
    | with_reducible apply keep_ite (Q := P)
    | simp only [keep_mk hS]

theorem execDieBootLockWrite_keeps {P : State → Prop} (hP : Writes P) {acc : Accessor} {die : Fin 14} {v : Word64} {s : State} (h : P s) :
    OutInv P (execDieBootLockWrite acc die v s) := by
  have hS := hP.toStable
  unfold execDieBootLockWrite
  repeat' first
    | with_reducible assumption
    | intro _
    | with_reducible apply State.regWrite_keeps hS
    | with_reducible apply State.regStore_keeps hP
    | with_reducible apply OutInv.next

end Sys2Proof.Machine
end

