-- ==== Sys2Proof/Laws/KeepsPackets.lean ====
section
/-! SUPPORT. What the operations of Machine/Packets.lean keep (Laws/Keeps.lean). -/

namespace Sys2Proof.Machine

/-- The state of an answer of type Intake. -/
@[irreducible] def IntakeInv (P : State → Prop) : Intake → Prop
  | .idle s => P s
  | .cmd _ _ _ s => P s

theorem IntakeInv.idle {P : State → Prop} {s : State} (h : P s) : IntakeInv P (.idle s) := by unfold IntakeInv; exact h
theorem IntakeInv.of_idle {P : State → Prop} {x : Intake} (h : IntakeInv P x) {s : State} (e : x = .idle s) : P s := by
  subst e; unfold IntakeInv at h; exact h
theorem IntakeInv.cmd {P : State → Prop} {p : Packet} {c g : Bool} {s : State} (h : P s) : IntakeInv P (.cmd p c g s) := by unfold IntakeInv; exact h
theorem IntakeInv.of_cmd {P : State → Prop} {x : Intake} (h : IntakeInv P x) {p : Packet} {c g : Bool} {s : State} (e : x = .cmd p c g s) : P s := by
  subst e; unfold IntakeInv at h; exact h

/-- The state of an answer of type Did. -/
@[irreducible] def DidInv (P : State → Prop) : Did → Prop
  | .refused s _ => P s
  | .ok s _ => P s
  | .runs s _ => P s

theorem DidInv.refused {P : State → Prop} {s : State} {n : Nat} (h : P s) : DidInv P (.refused s n) := by unfold DidInv; exact h
theorem DidInv.of_refused {P : State → Prop} {x : Did} (h : DidInv P x) {s : State} {n : Nat} (e : x = .refused s n) : P s := by
  subst e; unfold DidInv at h; exact h
theorem DidInv.ok {P : State → Prop} {s : State} {b : List Byte} (h : P s) : DidInv P (.ok s b) := by unfold DidInv; exact h
theorem DidInv.of_ok {P : State → Prop} {x : Did} (h : DidInv P x) {s : State} {b : List Byte} (e : x = .ok s b) : P s := by
  subst e; unfold DidInv at h; exact h
theorem DidInv.runs {P : State → Prop} {s : State} {w : List (Nat × Nat × Nat)} (h : P s) : DidInv P (.runs s w) := by unfold DidInv; exact h
theorem DidInv.of_runs {P : State → Prop} {x : Did} (h : DidInv P x) {s : State} {w : List (Nat × Nat × Nat)} (e : x = .runs s w) : P s := by
  subst e; unfold DidInv at h; exact h

theorem State.passSkipped_keeps {P : State → Prop} (hP : Writes P) {slot : Nat} {x : Nat} {x1 : State} (h : P x1) :
    P (State.passSkipped slot x x1) := by
  have hS := hP.toStable
  induction x generalizing slot x1 with
  | zero =>
    unfold State.passSkipped
    repeat' first
      | with_reducible assumption
      | with_reducible apply State.takeEntry_keeps hP
      | with_reducible apply State.unskip_keeps hS
      | with_reducible apply Inv2.get (P := P)
      | with_reducible apply keep_ite (Q := P)
  | succ n ih =>
    unfold State.passSkipped
    repeat' first
      | with_reducible apply ih
      | with_reducible assumption
      | with_reducible apply State.takeEntry_keeps hP
      | with_reducible apply State.unskip_keeps hS
      | with_reducible apply Inv2.get (P := P)
      | with_reducible apply keep_ite (Q := P)

theorem State.mgmtIntake_keeps {P : State → Prop} (hS : Stable P) {s : State} {op : Nat} {src : Nat} {bs : List Byte} (h : P s) :
    IntakeInv P (State.mgmtIntake s op src bs) := by
  unfold State.mgmtIntake
  repeat' first
    | with_reducible assumption
    | with_reducible apply State.incFld_keeps hS
    | with_reducible apply keep_ite (Q := IntakeInv P)
    | simp only [keep_mk hS]
    | with_reducible apply IntakeInv.idle
    | with_reducible apply IntakeInv.cmd
    | split

theorem State.hostIntake_keeps {P : State → Prop} (hP : Writes P) {s : State} {op : Nat} {slot : Nat} (h : P s) :
    IntakeInv P (State.hostIntake s op slot) := by
  have hS := hP.toStable
  unfold State.hostIntake
  repeat' first
    | with_reducible assumption
    | with_reducible apply State.passSkipped_keeps hP
    | with_reducible apply State.takeEntry_keeps hP
    | with_reducible apply Inv2.get (P := P)
    | with_reducible apply keep_ite (Q := IntakeInv P)
    | simp only [keep_mk hS]
    | with_reducible apply IntakeInv.idle
    | with_reducible apply IntakeInv.cmd

theorem State.windowIntake_keeps {P : State → Prop} (hS : Stable P) {s : State} {op : Nat} {slot : Nat} (h : P s) :
    IntakeInv P (State.windowIntake s op slot) := by
  unfold State.windowIntake
  repeat' first
    | with_reducible assumption
    | with_reducible apply keep_ite (Q := IntakeInv P)
    | simp only [keep_mk hS]
    | with_reducible apply IntakeInv.idle
    | with_reducible apply IntakeInv.cmd
    | split

theorem State.peerIntake_keeps {P : State → Prop} (hS : Stable P) {s : State} {op : Nat} (h : P s) :
    IntakeInv P (State.peerIntake s op) := by
  unfold State.peerIntake
  repeat' first
    | with_reducible assumption
    | with_reducible apply State.takeMsg_keeps hS
    | with_reducible apply keep_ite (Q := IntakeInv P)
    | simp only [keep_mk hS]
    | with_reducible apply IntakeInv.idle
    | with_reducible apply IntakeInv.cmd
    | split
    | refine Inv3.unmk (P := P) (OptInv.get (Q := Inv3 P) ?_ (by with_reducible assumption))

theorem State.intake_keeps {P : State → Prop} (hP : Writes P) {s : State} {op : Nat} {x : Arrival} (h : P s) :
    IntakeInv P (State.intake s op x) := by
  have hS := hP.toStable
  unfold State.intake
  repeat' first
    | with_reducible assumption
    | with_reducible apply State.mgmtIntake_keeps hS
    | with_reducible apply State.hostIntake_keeps hP
    | with_reducible apply State.windowIntake_keeps hS
    | with_reducible apply State.peerIntake_keeps hS
    | split

theorem State.refuseCmd_keeps {P : State → Prop} (hP : Writes P) {s : State} {p : Packet} {status : Nat} (h : P s) :
    P (State.refuseCmd s p status) := by
  have hS := hP.toStable
  unfold State.refuseCmd
  repeat' first
    | with_reducible assumption
    | with_reducible apply State.refuse_keeps hP
    | with_reducible apply keep_ite (Q := P)
    | simp only [keep_mk hS]
    | split

theorem State.acceptCmd_keeps {P : State → Prop} (hP : Writes P) {s : State} {p : Packet} (h : P s) :
    P (State.acceptCmd s p) := by
  have hS := hP.toStable
  unfold State.acceptCmd
  repeat' first
    | with_reducible assumption
    | with_reducible apply State.incFld_keeps hS
    | with_reducible apply State.reply_keeps hP
    | with_reducible apply keep_ite (Q := P)
    | split

end Sys2Proof.Machine
end

