-- ==== Sys2Proof/Laws/KeepsPatterns.lean ====
section
/-! SUPPORT. What the operations of Machine/Patterns.lean keep (Laws/Keeps.lean). -/

namespace Sys2Proof.Machine

theorem State.fileWords_keeps {P : State → Prop} (hP : Writes P) {slot : Nat} {x : List Nat} {x1 : State} (h : P x1) :
    Inv2 P (State.fileWords slot x x1) := by
  have hS := hP.toStable
  induction x generalizing slot x1 with
  | nil =>
    unfold State.fileWords
    repeat' first
      | with_reducible assumption
      | with_reducible apply State.supRead_keeps hP
      | with_reducible apply Inv2.get (P := P)
      | simp only [keep_mk hS]
      | simp only [Inv2.iff]
      | split
  | cons x xs ih =>
    unfold State.fileWords
    repeat' first
      | with_reducible apply ih
      | with_reducible assumption
      | with_reducible apply State.supRead_keeps hP
      | with_reducible apply Inv2.get (P := P)
      | simp only [keep_mk hS]
      | simp only [Inv2.iff]
      | split

theorem State.patFile_keeps {P : State → Prop} (hP : Writes P) {s : State} {slot : Nat} {a : Nat} {n : Nat} {phys : Bool} (h : P s) :
    Inv2 P (State.patFile s slot a n phys) := by
  have hS := hP.toStable
  unfold State.patFile
  repeat' first
    | with_reducible assumption
    | with_reducible apply State.supRead_keeps hP
    | with_reducible apply State.fileWords_keeps hP
    | with_reducible apply Inv2.get (P := P)
    | with_reducible apply keep_ite (Q := Inv2 P)
    | simp only [keep_mk hS]
    | simp only [Inv2.iff]

theorem State.loadDie_keeps {P : State → Prop} (hS : Stable P) {slot : Nat} {file : List Byte} {s : State} {cd : Nat} (h : P s) :
    P (State.loadDie slot file s cd) := by
  unfold State.loadDie
  repeat' first
    | with_reducible assumption
    | intro _
    | with_reducible apply State.setBit_keeps hS
    | with_reducible apply State.setFld_keeps hS
    | with_reducible apply State.setCtxState_keeps hS
    | with_reducible apply keep_foldl (Q := P)
    | simp only [keep_mk hS]
    | split

theorem State.launchCtx_keeps {P : State → Prop} (hS : Stable P) {cd : Nat} {slot : Nat} {s1 : Nat} {pcs : List Nat} {s : State} {x : Option Nat × Nat} (h : P s) :
    P (State.launchCtx cd slot s1 pcs s x) := by
  unfold State.launchCtx
  repeat' first
    | with_reducible assumption
    | intro _
    | with_reducible apply State.setFld_keeps hS
    | with_reducible apply State.wakeCtx_keeps hS
    | with_reducible apply keep_ite (Q := P)
    | with_reducible apply keep_foldl (Q := P)
    | simp only [keep_mk hS]
    | split

theorem State.launchDie_keeps {P : State → Prop} (hS : Stable P) {slot : Nat} {s1 : Nat} {pcs : List Nat} {s : State} {cd : Nat} (h : P s) :
    P (State.launchDie slot s1 pcs s cd) := by
  unfold State.launchDie
  repeat' first
    | with_reducible assumption
    | intro _
    | with_reducible apply State.setFld_keeps hS
    | with_reducible apply State.launchCtx_keeps hS
    | with_reducible apply keep_foldl (Q := P)
    | simp only [keep_mk hS]

end Sys2Proof.Machine
end

