-- ==== Sys2Proof/Laws/KeepsCommands.lean ====
section
/-! SUPPORT. What the operations of Machine/Commands.lean keep (Laws/Keeps.lean). -/

namespace Sys2Proof.Machine

theorem State.grantAll_keeps {P : State → Prop} (hS : Stable P) {s : State} {p : Packet} (h : P s) :
    P (State.grantAll s p) := by
  unfold State.grantAll
  repeat' first
    | with_reducible assumption
    | intro _
    | with_reducible apply State.zeroBlock_keeps hS
    | with_reducible apply State.setBit_keeps hS
    | with_reducible apply State.zeroFrames_keeps hS
    | with_reducible apply keep_ite (Q := P)
    | with_reducible apply keep_foldl (Q := P)

theorem State.cmdGrant_keeps {P : State → Prop} (hS : Stable P) {s : State} {p : Packet} (h : P s) :
    DidInv P (State.cmdGrant s p) := by
  unfold State.cmdGrant
  repeat' first
    | with_reducible assumption
    | with_reducible apply State.grantAll_keeps hS
    | with_reducible apply keep_ite (Q := DidInv P)
    | simp only [keep_mk hS]
    | with_reducible apply DidInv.refused
    | with_reducible apply DidInv.ok
    | with_reducible apply DidInv.runs
    | split

theorem State.cmdRelease_keeps {P : State → Prop} (hS : Stable P) {s : State} {p : Packet} (h : P s) :
    DidInv P (State.cmdRelease s p) := by
  unfold State.cmdRelease
  repeat' first
    | with_reducible assumption
    | intro _
    | with_reducible apply State.setBit_keeps hS
    | with_reducible apply State.releaseAll_keeps hS
    | with_reducible apply keep_ite (Q := P)
    | with_reducible apply keep_ite (Q := DidInv P)
    | with_reducible apply keep_foldl (Q := P)
    | simp only [keep_mk hS]
    | with_reducible apply DidInv.refused
    | with_reducible apply DidInv.ok

theorem State.cmdSlotCreate_keeps {P : State → Prop} (hS : Stable P) {s : State} {p : Packet} (h : P s) :
    DidInv P (State.cmdSlotCreate s p) := by
  unfold State.cmdSlotCreate
  repeat' first
    | with_reducible assumption
    | with_reducible apply State.setFld_keeps hS
    | with_reducible apply State.setSlotState_keeps hS
    | with_reducible apply keep_ite (Q := DidInv P)
    | simp only [keep_mk hS]
    | with_reducible apply DidInv.refused
    | with_reducible apply DidInv.ok

theorem State.cmdSlotDisable_keeps {P : State → Prop} (hP : Writes P) {s : State} {p : Packet} (h : P s) :
    DidInv P (State.cmdSlotDisable s p) := by
  have hS := hP.toStable
  unfold State.cmdSlotDisable
  repeat' first
    | with_reducible assumption
    | with_reducible apply State.disableSlot_keeps hP
    | with_reducible apply Inv2.get (P := P)
    | simp only [keep_mk hS]
    | with_reducible apply DidInv.runs

theorem State.cmdSlotStatus_keeps {P : State → Prop} (hS : Stable P) {s : State} {p : Packet} (h : P s) :
    DidInv P (State.cmdSlotStatus s p) := by
  unfold State.cmdSlotStatus
  repeat' first
    | with_reducible assumption
    | with_reducible apply DidInv.ok

theorem State.cmdPatLoad_keeps {P : State → Prop} (hP : Writes P) {s : State} {p : Packet} (h : P s) :
    DidInv P (State.cmdPatLoad s p) := by
  have hS := hP.toStable
  unfold State.cmdPatLoad
  repeat' first
    | with_reducible assumption
    | intro _
    | with_reducible apply State.patFile_keeps hP
    | with_reducible apply State.loadDie_keeps hS
    | with_reducible apply Inv2.get (P := P)
    | with_reducible apply keep_ite (Q := DidInv P)
    | with_reducible apply keep_foldl (Q := P)
    | simp only [keep_mk hS]
    | with_reducible apply DidInv.refused
    | with_reducible apply DidInv.ok
    | split

theorem State.cmdPatUnload_keeps {P : State → Prop} (hS : Stable P) {s : State} {p : Packet} (h : P s) :
    DidInv P (State.cmdPatUnload s p) := by
  unfold State.cmdPatUnload
  repeat' first
    | with_reducible assumption
    | intro _
    | with_reducible apply State.unload_keeps hS
    | with_reducible apply State.disarm_keeps hS
    | with_reducible apply keep_foldl (Q := P)
    | with_reducible apply DidInv.ok

theorem State.cmdPatLaunch_keeps {P : State → Prop} (hS : Stable P) {s : State} {p : Packet} (h : P s) :
    DidInv P (State.cmdPatLaunch s p) := by
  unfold State.cmdPatLaunch
  repeat' first
    | with_reducible assumption
    | intro _
    | with_reducible apply State.armWindow_keeps hS
    | with_reducible apply State.setSlotState_keeps hS
    | with_reducible apply State.slotDone_keeps hS
    | with_reducible apply State.launchDie_keeps hS
    | with_reducible apply keep_ite (Q := DidInv P)
    | with_reducible apply keep_foldl (Q := P)
    | simp only [keep_mk hS]
    | with_reducible apply DidInv.refused
    | with_reducible apply DidInv.ok

theorem State.clearRefusal_keeps {P : State → Prop} (hS : Stable P) {s : State} {cd : Nat} {cause : Nat} {u : Nat} (h : P s) :
    P (State.clearRefusal s cd cause u) := by
  unfold State.clearRefusal
  repeat' first
    | with_reducible assumption
    | with_reducible apply State.arrRefusalClear_keeps hS
    | with_reducible apply State.fdrRefusalClear_keeps hS
    | with_reducible apply State.carRefusalClear_keeps hS
    | with_reducible apply keep_ite (Q := P)

theorem State.cmdCtxResume_keeps {P : State → Prop} (hS : Stable P) {s : State} {p : Packet} (h : P s) :
    DidInv P (State.cmdCtxResume s p) := by
  unfold State.cmdCtxResume
  repeat' first
    | with_reducible assumption
    | with_reducible apply State.clearRefusal_keeps hS
    | with_reducible apply State.setFld_keeps hS
    | with_reducible apply State.wakeCtx_keeps hS
    | with_reducible apply keep_ite (Q := DidInv P)
    | simp only [keep_mk hS]
    | with_reducible apply DidInv.refused
    | with_reducible apply DidInv.ok

theorem State.cmdStore_keeps {P : State → Prop} (hP : Writes P) {s : State} {r : RegAt} {v : Nat} (h : P s) :
    DidInv P (State.cmdStore s r v) := by
  have hS := hP.toStable
  unfold State.cmdStore
  repeat' first
    | with_reducible assumption
    | with_reducible apply State.regStore_keeps hP
    | with_reducible apply keep_ite (Q := DidInv P)
    | with_reducible apply DidInv.refused
    | with_reducible apply DidInv.ok
    | split
    | refine OptInv.get (Q := P) ?_ (by with_reducible assumption)

theorem State.cmdSlotRegWrite_keeps {P : State → Prop} (hP : Writes P) {s : State} {p : Packet} (h : P s) :
    DidInv P (State.cmdSlotRegWrite s p) := by
  have hS := hP.toStable
  unfold State.cmdSlotRegWrite
  repeat' first
    | with_reducible assumption
    | with_reducible apply State.cmdStore_keeps hP
    | with_reducible apply keep_ite (Q := DidInv P)
    | with_reducible apply DidInv.refused

theorem State.cmdStashPurge_keeps {P : State → Prop} (hP : Writes P) {s : State} {p : Packet} (h : P s) :
    DidInv P (State.cmdStashPurge s p) := by
  have hS := hP.toStable
  unfold State.cmdStashPurge
  repeat' first
    | with_reducible assumption
    | intro _
    | with_reducible apply State.purgeStash_keeps hP
    | with_reducible apply keep_foldl (Q := P)
    | with_reducible apply DidInv.ok

theorem State.setGroupWord_keeps {P : State → Prop} (hS : Stable P) {s : State} {slot : Nat} {g : Nat} {w : Nat} {v : Nat} (h : P s) :
    P (State.setGroupWord s slot g w v) := by
  unfold State.setGroupWord
  repeat' first
    | with_reducible assumption
    | intro _
    | with_reducible apply State.setFld_keeps hS
    | with_reducible apply keep_ite (Q := P)
    | simp only [keep_mk hS]
    | split
    | dsimp only

theorem State.cmdStepRate_keeps {P : State → Prop} (hS : Stable P) {s : State} {p : Packet} (h : P s) :
    DidInv P (State.cmdStepRate s p) := by
  unfold State.cmdStepRate
  repeat' first
    | with_reducible assumption
    | intro _
    | with_reducible apply State.setGroupWord_keeps hS
    | with_reducible apply keep_foldl (Q := P)
    | simp only [keep_mk hS]
    | with_reducible apply DidInv.ok

theorem State.cmdGroupWrite_keeps {P : State → Prop} (hS : Stable P) {s : State} {p : Packet} (h : P s) :
    DidInv P (State.cmdGroupWrite s p) := by
  unfold State.cmdGroupWrite
  repeat' first
    | with_reducible assumption
    | intro _
    | with_reducible apply State.setGroupWord_keeps hS
    | with_reducible apply keep_foldl (Q := P)
    | with_reducible apply DidInv.ok

theorem State.cmdLscaleSet_keeps {P : State → Prop} (hS : Stable P) {s : State} {p : Packet} (h : P s) :
    DidInv P (State.cmdLscaleSet s p) := by
  unfold State.cmdLscaleSet
  repeat' first
    | with_reducible assumption
    | with_reducible apply State.setFld_keeps hS
    | with_reducible apply State.setLscale_keeps hS
    | with_reducible apply keep_ite (Q := P)
    | with_reducible apply keep_ite (Q := DidInv P)
    | simp only [keep_mk hS]
    | with_reducible apply DidInv.ok

theorem State.cmdSkipNext_keeps {P : State → Prop} (hS : Stable P) {s : State} {p : Packet} (h : P s) :
    DidInv P (State.cmdSkipNext s p) := by
  unfold State.cmdSkipNext
  repeat' first
    | with_reducible assumption
    | with_reducible apply State.setFld_keeps hS
    | with_reducible apply DidInv.ok

theorem State.cmdStepQuery_keeps {P : State → Prop} (hS : Stable P) {s : State} {p : Packet} (h : P s) :
    DidInv P (State.cmdStepQuery s p) := by
  unfold State.cmdStepQuery
  repeat' first
    | with_reducible assumption
    | with_reducible apply DidInv.ok

theorem State.cmdSnapTake_keeps {P : State → Prop} (hP : Writes P) {s : State} {p : Packet} (h : P s) :
    DidInv P (State.cmdSnapTake s p) := by
  have hS := hP.toStable
  unfold State.cmdSnapTake
  repeat' first
    | with_reducible assumption
    | with_reducible apply State.stateList_keeps hP
    | with_reducible apply State.snapBegin_keeps hS
    | with_reducible apply State.setSnap_keeps hS
    | with_reducible apply Inv2.get (P := P)
    | with_reducible apply keep_ite (Q := DidInv P)
    | with_reducible apply DidInv.refused
    | with_reducible apply DidInv.runs

theorem State.cmdSnapConfig_keeps {P : State → Prop} (hP : Writes P) {s : State} {p : Packet} (h : P s) :
    DidInv P (State.cmdSnapConfig s p) := by
  have hS := hP.toStable
  unfold State.cmdSnapConfig
  repeat' first
    | with_reducible assumption
    | with_reducible apply State.cmdStore_keeps hP

theorem State.cmdSnapStatus_keeps {P : State → Prop} (hS : Stable P) {s : State} {p : Packet} (h : P s) :
    DidInv P (State.cmdSnapStatus s p) := by
  unfold State.cmdSnapStatus
  repeat' first
    | with_reducible assumption
    | with_reducible apply DidInv.ok

theorem State.cmdRingForm_keeps {P : State → Prop} (hS : Stable P) {s : State} {p : Packet} (h : P s) :
    DidInv P (State.cmdRingForm s p) := by
  unfold State.cmdRingForm
  repeat' first
    | with_reducible assumption
    | with_reducible apply State.setFld_keeps hS
    | with_reducible apply State.enablePorts_keeps hS
    | with_reducible apply State.pump_keeps hS
    | with_reducible apply State.evalAll_keeps hS
    | with_reducible apply keep_ite (Q := DidInv P)
    | simp only [keep_mk hS]
    | with_reducible apply DidInv.refused
    | with_reducible apply DidInv.ok

theorem State.cmdPortRole_keeps {P : State → Prop} (hS : Stable P) {s : State} {p : Packet} (h : P s) :
    DidInv P (State.cmdPortRole s p) := by
  unfold State.cmdPortRole
  repeat' first
    | with_reducible assumption
    | with_reducible apply State.enablePorts_keeps hS
    | with_reducible apply State.pump_keeps hS
    | with_reducible apply State.setEnRole_keeps hS
    | with_reducible apply keep_ite (Q := DidInv P)
    | with_reducible apply DidInv.refused
    | with_reducible apply DidInv.ok

theorem State.cmdCatchTable_keeps {P : State → Prop} (hP : Writes P) {s : State} {p : Packet} (h : P s) :
    DidInv P (State.cmdCatchTable s p) := by
  have hS := hP.toStable
  unfold State.cmdCatchTable
  repeat' first
    | with_reducible assumption
    | with_reducible apply State.cmdStore_keeps hP

theorem State.cmdHandback_keeps {P : State → Prop} (hS : Stable P) {s : State} {p : Packet} (h : P s) :
    DidInv P (State.cmdHandback s p) := by
  unfold State.cmdHandback
  repeat' first
    | with_reducible assumption
    | with_reducible apply State.recState_keeps hS
    | with_reducible apply keep_ite (Q := DidInv P)
    | simp only [keep_mk hS]
    | with_reducible apply DidInv.refused
    | with_reducible apply DidInv.runs

theorem State.cmdJoin_keeps {P : State → Prop} (hS : Stable P) {s : State} {p : Packet} (h : P s) :
    DidInv P (State.cmdJoin s p) := by
  unfold State.cmdJoin
  repeat' first
    | with_reducible assumption
    | with_reducible apply State.pump_keeps hS
    | with_reducible apply State.evalAll_keeps hS
    | with_reducible apply State.setFld_keeps hS
    | with_reducible apply keep_ite (Q := DidInv P)
    | with_reducible apply DidInv.refused
    | with_reducible apply DidInv.ok

theorem State.cmdRingStatus_keeps {P : State → Prop} (hS : Stable P) {s : State} {_p : Packet} (h : P s) :
    DidInv P (State.cmdRingStatus s _p) := by
  unfold State.cmdRingStatus
  repeat' first
    | with_reducible assumption
    | with_reducible apply DidInv.ok

theorem State.cmdCsrRead_keeps {P : State → Prop} (hP : Writes P) {s : State} {p : Packet} (h : P s) :
    DidInv P (State.cmdCsrRead s p) := by
  have hS := hP.toStable
  unfold State.cmdCsrRead
  repeat' first
    | with_reducible assumption
    | intro _
    | with_reducible apply State.csrEnter_keeps hS
    | with_reducible apply State.csrLeave_keeps hS
    | with_reducible apply State.fetchWord_keeps hP
    | with_reducible apply State.readPiece_keeps hP
    | with_reducible apply Inv2.get (P := P)
    | with_reducible apply keep_ite (Q := P)
    | with_reducible apply keep_ite (Q := DidInv P)
    | with_reducible apply keep_ite (Q := Inv2 P)
    | simp only [keep_mk hS]
    | simp only [Inv2.iff]
    | with_reducible apply DidInv.refused
    | with_reducible apply DidInv.ok
    | with_reducible apply DidInv.runs
    | with_reducible apply OptInv.none
    | with_reducible apply OptInv.some
    | split
    | refine Inv2.of_eq (P := P) ?_ (by with_reducible assumption)
    | exact Inv2.unmk (P := P) (by with_reducible assumption)
    | refine DidInv.of_ok (P := P) ?_ (by with_reducible assumption)
    | refine DidInv.of_refused (P := P) ?_ (by with_reducible assumption)
    | refine DidInv.of_runs (P := P) ?_ (by with_reducible assumption)
    | dsimp only

theorem State.cmdCsrWrite_keeps {P : State → Prop} (hP : Writes P) {s : State} {p : Packet} (h : P s) :
    DidInv P (State.cmdCsrWrite s p) := by
  have hS := hP.toStable
  unfold State.cmdCsrWrite
  repeat' first
    | with_reducible assumption
    | intro _
    | with_reducible apply State.csrWrite_keeps hP
    | with_reducible apply State.csrEnter_keeps hS
    | with_reducible apply State.csrLeave_keeps hS
    | with_reducible apply State.writePieces_keeps hP
    | with_reducible apply Inv2.get (P := P)
    | with_reducible apply keep_ite (Q := P)
    | with_reducible apply keep_ite (Q := DidInv P)
    | with_reducible apply keep_ite (Q := Inv2 P)
    | with_reducible apply keep_ite (Q := OptInv P)
    | with_reducible apply OptInv.bind
    | simp only [keep_mk hS]
    | simp only [Inv2.iff]
    | with_reducible apply DidInv.refused
    | with_reducible apply DidInv.ok
    | with_reducible apply DidInv.runs
    | with_reducible apply OptInv.none
    | with_reducible apply OptInv.some
    | split
    | refine Inv2.of_eq (P := P) ?_ (by with_reducible assumption)
    | exact Inv2.unmk (P := P) (by with_reducible assumption)
    | refine OptInv.get (Q := P) ?_ (by with_reducible assumption)
    | refine DidInv.of_ok (P := P) ?_ (by with_reducible assumption)
    | refine DidInv.of_refused (P := P) ?_ (by with_reducible assumption)
    | refine DidInv.of_runs (P := P) ?_ (by with_reducible assumption)
    | dsimp only

theorem State.dieReset_keeps {P : State → Prop} (hS : Stable P) {s : State} {d : Nat} (h : P s) :
    P (State.dieReset s d) := by
  unfold State.dieReset
  repeat' first
    | with_reducible assumption
    | intro _
    | with_reducible apply State.resetFields_keeps hS
    | with_reducible apply State.setFld_keeps hS
    | with_reducible apply keep_ite (Q := P)
    | with_reducible apply keep_foldl (Q := P)
    | simp only [keep_mk hS]

theorem State.readmit_keeps {P : State → Prop} (hS : Stable P) {s : State} {d : Nat} (h : P s) :
    P (State.readmit s d) := by
  unfold State.readmit
  repeat' first
    | with_reducible assumption
    | intro _
    | with_reducible apply State.bumpArrEpoch_keeps hS
    | with_reducible apply State.setFld_keeps hS
    | with_reducible apply keep_ite (Q := P)
    | with_reducible apply keep_foldl (Q := P)
    | simp only [keep_mk hS]
    | split
    | dsimp only

theorem State.cmdSelftest_keeps {P : State → Prop} (hS : Stable P) {s : State} {p : Packet} {pass : Nat} (h : P s) :
    DidInv P (State.cmdSelftest s p pass) := by
  unfold State.cmdSelftest
  repeat' first
    | with_reducible assumption
    | intro _
    | with_reducible apply State.svcSettle_keeps hS
    | with_reducible apply State.setFld_keeps hS
    | with_reducible apply State.dieReset_keeps hS
    | with_reducible apply State.readmit_keeps hS
    | with_reducible apply State.setBit_keeps hS
    | with_reducible apply keep_ite (Q := P)
    | with_reducible apply keep_ite (Q := DidInv P)
    | with_reducible apply keep_foldl (Q := P)
    | with_reducible apply keep_foldl (Q := DidInv P)
    | simp only [keep_mk hS]
    | with_reducible apply DidInv.refused
    | with_reducible apply DidInv.ok
    | with_reducible apply DidInv.runs
    | split
    | refine DidInv.of_ok (P := P) ?_ (by with_reducible assumption)
    | refine DidInv.of_refused (P := P) ?_ (by with_reducible assumption)
    | refine DidInv.of_runs (P := P) ?_ (by with_reducible assumption)
    | dsimp only

theorem State.cmdBudgetSet_keeps {P : State → Prop} (hS : Stable P) {s : State} {p : Packet} (h : P s) :
    DidInv P (State.cmdBudgetSet s p) := by
  unfold State.cmdBudgetSet
  repeat' first
    | with_reducible assumption
    | intro _
    | with_reducible apply State.applyBudget_keeps hS
    | with_reducible apply keep_ite (Q := DidInv P)
    | with_reducible apply keep_foldl (Q := P)
    | with_reducible apply DidInv.refused
    | with_reducible apply DidInv.ok
    | with_reducible apply DidInv.runs

theorem State.cmdCapSet_keeps {P : State → Prop} (hS : Stable P) {s : State} {p : Packet} (h : P s) :
    DidInv P (State.cmdCapSet s p) := by
  unfold State.cmdCapSet
  repeat' first
    | with_reducible assumption
    | intro _
    | with_reducible apply State.setCause_keeps hS
    | with_reducible apply keep_ite (Q := P)
    | with_reducible apply keep_foldl (Q := P)
    | with_reducible apply DidInv.ok

theorem State.cmdDiePark_keeps {P : State → Prop} (hS : Stable P) {s : State} {p : Packet} (h : P s) :
    DidInv P (State.cmdDiePark s p) := by
  unfold State.cmdDiePark
  repeat' first
    | with_reducible assumption
    | intro _
    | with_reducible apply State.clkKick_keeps hS
    | with_reducible apply State.setFld_keeps hS
    | with_reducible apply keep_ite (Q := P)
    | with_reducible apply keep_ite (Q := DidInv P)
    | with_reducible apply keep_foldl (Q := P)
    | with_reducible apply DidInv.refused
    | with_reducible apply DidInv.ok

theorem State.cmdAbortQueue_keeps {P : State → Prop} (hP : Writes P) {s : State} {p : Packet} (h : P s) :
    DidInv P (State.cmdAbortQueue s p) := by
  have hS := hP.toStable
  unfold State.cmdAbortQueue
  repeat' first
    | with_reducible assumption
    | intro _
    | with_reducible apply State.cutUnit_keeps hP
    | with_reducible apply State.yieldSettle_keeps hS
    | with_reducible apply State.faultCtx_keeps hP
    | with_reducible apply keep_foldl (Q := P)
    | simp only [keep_mk hS]
    | with_reducible apply CutInv.st (P := P)
    | with_reducible apply DidInv.ok

theorem State.cmdAbortSlot_keeps {P : State → Prop} (hP : Writes P) {s : State} {p : Packet} (h : P s) :
    DidInv P (State.cmdAbortSlot s p) := by
  have hS := hP.toStable
  unfold State.cmdAbortSlot
  repeat' first
    | with_reducible assumption
    | with_reducible apply State.abortSlot_keeps hP
    | with_reducible apply Inv2.get (P := P)
    | simp only [keep_mk hS]
    | with_reducible apply DidInv.ok

theorem State.cmdAbortCmd_keeps {P : State → Prop} (hP : Writes P) {s : State} {p : Packet} (h : P s) :
    DidInv P (State.cmdAbortCmd s p) := by
  have hS := hP.toStable
  unfold State.cmdAbortCmd
  repeat' first
    | with_reducible assumption
    | intro _
    | with_reducible apply State.dropSnap_keeps hS
    | with_reducible apply State.reply_keeps hP
    | with_reducible apply keep_ite (Q := P)
    | with_reducible apply keep_foldl (Q := P)
    | simp only [keep_mk hS]
    | with_reducible apply DidInv.ok

theorem State.cmdBody_keeps {P : State → Prop} (hP : Writes P) {s : State} {p : Packet} {pass : Nat} (h : P s) :
    DidInv P (State.cmdBody s p pass) := by
  have hS := hP.toStable
  unfold State.cmdBody
  repeat' first
    | with_reducible assumption
    | with_reducible apply State.cmdSlotCreate_keeps hS
    | with_reducible apply State.cmdSlotDisable_keeps hP
    | with_reducible apply State.cmdSlotStatus_keeps hS
    | with_reducible apply State.cmdPatLoad_keeps hP
    | with_reducible apply State.cmdPatUnload_keeps hS
    | with_reducible apply State.cmdPatLaunch_keeps hS
    | with_reducible apply State.cmdCtxResume_keeps hS
    | with_reducible apply State.cmdGrant_keeps hS
    | with_reducible apply State.cmdRelease_keeps hS
    | with_reducible apply State.setQuota_keeps hS
    | with_reducible apply State.cmdSlotRegWrite_keeps hP
    | with_reducible apply State.cmdStashPurge_keeps hP
    | with_reducible apply State.cmdStepRate_keeps hS
    | with_reducible apply State.cmdGroupWrite_keeps hS
    | with_reducible apply State.cmdLscaleSet_keeps hS
    | with_reducible apply State.cmdSkipNext_keeps hS
    | with_reducible apply State.cmdStepQuery_keeps hS
    | with_reducible apply State.cmdSnapTake_keeps hP
    | with_reducible apply State.cmdSnapConfig_keeps hP
    | with_reducible apply State.cmdSnapStatus_keeps hS
    | with_reducible apply State.cmdRingForm_keeps hS
    | with_reducible apply State.cmdPortRole_keeps hS
    | with_reducible apply State.cmdCatchTable_keeps hP
    | with_reducible apply State.cmdHandback_keeps hS
    | with_reducible apply State.cmdJoin_keeps hS
    | with_reducible apply State.cmdRingStatus_keeps hS
    | with_reducible apply State.cmdCsrRead_keeps hP
    | with_reducible apply State.cmdCsrWrite_keeps hP
    | with_reducible apply State.cmdSelftest_keeps hS
    | with_reducible apply State.cmdBudgetSet_keeps hS
    | with_reducible apply State.cmdCapSet_keeps hS
    | with_reducible apply State.cmdDiePark_keeps hS
    | with_reducible apply State.cmdAbortQueue_keeps hP
    | with_reducible apply State.cmdAbortSlot_keeps hP
    | with_reducible apply State.cmdAbortCmd_keeps hP
    | with_reducible apply keep_ite (Q := DidInv P)
    | with_reducible apply DidInv.ok

theorem State.runSettle_keeps {P : State → Prop} (hP : Writes P) {s : State} {r : CmdRun} (h : P s) :
    OptInv P (State.runSettle s r) := by
  have hS := hP.toStable
  unfold State.runSettle
  repeat' first
    | with_reducible assumption
    | with_reducible apply State.freeSlotPage_keeps hS
    | with_reducible apply State.reply_keeps hP
    | with_reducible apply State.cmdBody_keeps hP
    | with_reducible apply State.refuse_keeps hP
    | with_reducible apply keep_ite (Q := OptInv P)
    | simp only [keep_mk hS]
    | with_reducible apply OptInv.none
    | with_reducible apply OptInv.some
    | split
    | refine DidInv.of_ok (P := P) ?_ (by with_reducible assumption)
    | refine DidInv.of_refused (P := P) ?_ (by with_reducible assumption)
    | refine DidInv.of_runs (P := P) ?_ (by with_reducible assumption)

theorem State.wipeStale_keeps {P : State → Prop} (hS : Stable P) {s : State} (h : P s) :
    P (State.wipeStale s) := by
  unfold State.wipeStale
  repeat' first
    | with_reducible assumption
    | with_reducible apply State.releaseAll_keeps hS
    | with_reducible apply keep_ite (Q := P)
    | simp only [keep_mk hS]

theorem State.cmdSettle_keeps {P : State → Prop} (hP : Writes P) {s : State} (h : P s) :
    P (State.cmdSettle s) := by
  have hS := hP.toStable
  unfold State.cmdSettle
  repeat' first
    | with_reducible assumption
    | with_reducible apply State.claimSettle_keeps hS
    | with_reducible apply State.wipeStale_keeps hS
    | intro _
    | with_reducible apply State.runSettle_keeps hP
    | with_reducible apply State.resumeSettle_keeps hP
    | with_reducible apply State.snapBegin_keeps hS
    | with_reducible apply State.handbackSettle_keeps hP
    | with_reducible apply keep_ite (Q := P)
    | with_reducible apply keep_foldl (Q := P)
    | with_reducible apply OptInv.getD (Q := P)

theorem State.runPacket_keeps {P : State → Prop} (hP : Writes P) {s : State} {p : Packet} {clean : Bool} {genOk : Bool} {pass : Nat} (h : P s) :
    P (State.runPacket s p clean genOk pass) := by
  have hS := hP.toStable
  unfold State.runPacket
  repeat' first
    | with_reducible assumption
    | with_reducible apply State.refuseCmd_keeps hP
    | with_reducible apply State.cmdBody_keeps hP
    | with_reducible apply State.reply_keeps hP
    | with_reducible apply State.acceptCmd_keeps hP
    | with_reducible apply State.runSettle_keeps hP
    | with_reducible apply OptInv.getD (Q := P)
    | simp only [keep_mk hS]
    | split
    | refine DidInv.of_ok (P := P) ?_ (by with_reducible assumption)
    | refine DidInv.of_refused (P := P) ?_ (by with_reducible assumption)
    | refine DidInv.of_runs (P := P) ?_ (by with_reducible assumption)

theorem State.command_keeps {P : State → Prop} (hP : Writes P) {s : State} {op : Nat} {a : Arrival} {pass : Nat} (h : P s) :
    P (State.command s op a pass) := by
  have hS := hP.toStable
  unfold State.command
  repeat' first
    | with_reducible assumption
    | with_reducible apply State.intake_keeps hP
    | with_reducible apply State.runPacket_keeps hP
    | simp only [keep_mk hS]
    | split
    | refine IntakeInv.of_idle (P := P) ?_ (by with_reducible assumption)
    | refine IntakeInv.of_cmd (P := P) ?_ (by with_reducible assumption)

theorem State.doorbell_keeps {P : State → Prop} (hP : Writes P) {s : State} (h : P s) :
    P (State.doorbell s) := by
  have hS := hP.toStable
  unfold State.doorbell
  repeat' first
    | with_reducible assumption
    | with_reducible apply State.takeMsg_keeps hS
    | with_reducible apply State.notice_keeps hP
    | with_reducible apply State.incFld_keeps hS
    | with_reducible apply keep_ite (Q := P)
    | simp only [keep_mk hS]
    | split
    | refine Inv3.unmk (P := P) (OptInv.get (Q := Inv3 P) ?_ (by with_reducible assumption))

theorem execSlotCreate_keeps {P : State → Prop} (hP : Writes P) {arr : Arrival} {s : State} (h : P s) :
    OutInv P (execSlotCreate arr s) := by
  have hS := hP.toStable
  unfold execSlotCreate
  repeat' first
    | with_reducible assumption
    | with_reducible apply State.command_keeps hP
    | with_reducible apply OutInv.next

theorem execSlotDisable_keeps {P : State → Prop} (hP : Writes P) {arr : Arrival} {s : State} (h : P s) :
    OutInv P (execSlotDisable arr s) := by
  have hS := hP.toStable
  unfold execSlotDisable
  repeat' first
    | with_reducible assumption
    | with_reducible apply State.command_keeps hP
    | with_reducible apply OutInv.next

theorem execSlotStatus_keeps {P : State → Prop} (hP : Writes P) {arr : Arrival} {s : State} (h : P s) :
    OutInv P (execSlotStatus arr s) := by
  have hS := hP.toStable
  unfold execSlotStatus
  repeat' first
    | with_reducible assumption
    | with_reducible apply State.command_keeps hP
    | with_reducible apply OutInv.next

theorem execPatLoad_keeps {P : State → Prop} (hP : Writes P) {arr : Arrival} {s : State} (h : P s) :
    OutInv P (execPatLoad arr s) := by
  have hS := hP.toStable
  unfold execPatLoad
  repeat' first
    | with_reducible assumption
    | with_reducible apply State.command_keeps hP
    | with_reducible apply OutInv.next

theorem execPatUnload_keeps {P : State → Prop} (hP : Writes P) {arr : Arrival} {s : State} (h : P s) :
    OutInv P (execPatUnload arr s) := by
  have hS := hP.toStable
  unfold execPatUnload
  repeat' first
    | with_reducible assumption
    | with_reducible apply State.command_keeps hP
    | with_reducible apply OutInv.next

theorem execPatLaunch_keeps {P : State → Prop} (hP : Writes P) {arr : Arrival} {s : State} (h : P s) :
    OutInv P (execPatLaunch arr s) := by
  have hS := hP.toStable
  unfold execPatLaunch
  repeat' first
    | with_reducible assumption
    | with_reducible apply State.command_keeps hP
    | with_reducible apply OutInv.next

theorem execCtxResume_keeps {P : State → Prop} (hP : Writes P) {arr : Arrival} {s : State} (h : P s) :
    OutInv P (execCtxResume arr s) := by
  have hS := hP.toStable
  unfold execCtxResume
  repeat' first
    | with_reducible assumption
    | with_reducible apply State.command_keeps hP
    | with_reducible apply OutInv.next

theorem execFrameGrant_keeps {P : State → Prop} (hP : Writes P) {arr : Arrival} {s : State} (h : P s) :
    OutInv P (execFrameGrant arr s) := by
  have hS := hP.toStable
  unfold execFrameGrant
  repeat' first
    | with_reducible assumption
    | with_reducible apply State.command_keeps hP
    | with_reducible apply OutInv.next

theorem execFrameRelease_keeps {P : State → Prop} (hP : Writes P) {arr : Arrival} {s : State} (h : P s) :
    OutInv P (execFrameRelease arr s) := by
  have hS := hP.toStable
  unfold execFrameRelease
  repeat' first
    | with_reducible assumption
    | with_reducible apply State.command_keeps hP
    | with_reducible apply OutInv.next

theorem execQuotaSet_keeps {P : State → Prop} (hP : Writes P) {arr : Arrival} {s : State} (h : P s) :
    OutInv P (execQuotaSet arr s) := by
  have hS := hP.toStable
  unfold execQuotaSet
  repeat' first
    | with_reducible assumption
    | with_reducible apply State.command_keeps hP
    | with_reducible apply OutInv.next

theorem execSlotRegWrite_keeps {P : State → Prop} (hP : Writes P) {arr : Arrival} {s : State} (h : P s) :
    OutInv P (execSlotRegWrite arr s) := by
  have hS := hP.toStable
  unfold execSlotRegWrite
  repeat' first
    | with_reducible assumption
    | with_reducible apply State.command_keeps hP
    | with_reducible apply OutInv.next

theorem execStashPurge_keeps {P : State → Prop} (hP : Writes P) {arr : Arrival} {s : State} (h : P s) :
    OutInv P (execStashPurge arr s) := by
  have hS := hP.toStable
  unfold execStashPurge
  repeat' first
    | with_reducible assumption
    | with_reducible apply State.command_keeps hP
    | with_reducible apply OutInv.next

theorem execStepRate_keeps {P : State → Prop} (hP : Writes P) {arr : Arrival} {s : State} (h : P s) :
    OutInv P (execStepRate arr s) := by
  have hS := hP.toStable
  unfold execStepRate
  repeat' first
    | with_reducible assumption
    | with_reducible apply State.command_keeps hP
    | with_reducible apply OutInv.next

theorem execGroupWrite_keeps {P : State → Prop} (hP : Writes P) {arr : Arrival} {s : State} (h : P s) :
    OutInv P (execGroupWrite arr s) := by
  have hS := hP.toStable
  unfold execGroupWrite
  repeat' first
    | with_reducible assumption
    | with_reducible apply State.command_keeps hP
    | with_reducible apply OutInv.next

theorem execLscaleSet_keeps {P : State → Prop} (hP : Writes P) {arr : Arrival} {s : State} (h : P s) :
    OutInv P (execLscaleSet arr s) := by
  have hS := hP.toStable
  unfold execLscaleSet
  repeat' first
    | with_reducible assumption
    | with_reducible apply State.command_keeps hP
    | with_reducible apply OutInv.next

theorem execSkipNext_keeps {P : State → Prop} (hP : Writes P) {arr : Arrival} {s : State} (h : P s) :
    OutInv P (execSkipNext arr s) := by
  have hS := hP.toStable
  unfold execSkipNext
  repeat' first
    | with_reducible assumption
    | with_reducible apply State.command_keeps hP
    | with_reducible apply OutInv.next

theorem execStepQuery_keeps {P : State → Prop} (hP : Writes P) {arr : Arrival} {s : State} (h : P s) :
    OutInv P (execStepQuery arr s) := by
  have hS := hP.toStable
  unfold execStepQuery
  repeat' first
    | with_reducible assumption
    | with_reducible apply State.command_keeps hP
    | with_reducible apply OutInv.next

theorem execSnapTake_keeps {P : State → Prop} (hP : Writes P) {arr : Arrival} {s : State} (h : P s) :
    OutInv P (execSnapTake arr s) := by
  have hS := hP.toStable
  unfold execSnapTake
  repeat' first
    | with_reducible assumption
    | with_reducible apply State.command_keeps hP
    | with_reducible apply OutInv.next

theorem execSnapConfig_keeps {P : State → Prop} (hP : Writes P) {arr : Arrival} {s : State} (h : P s) :
    OutInv P (execSnapConfig arr s) := by
  have hS := hP.toStable
  unfold execSnapConfig
  repeat' first
    | with_reducible assumption
    | with_reducible apply State.command_keeps hP
    | with_reducible apply OutInv.next

theorem execSnapStatus_keeps {P : State → Prop} (hP : Writes P) {arr : Arrival} {s : State} (h : P s) :
    OutInv P (execSnapStatus arr s) := by
  have hS := hP.toStable
  unfold execSnapStatus
  repeat' first
    | with_reducible assumption
    | with_reducible apply State.command_keeps hP
    | with_reducible apply OutInv.next

theorem execRingForm_keeps {P : State → Prop} (hP : Writes P) {arr : Arrival} {s : State} (h : P s) :
    OutInv P (execRingForm arr s) := by
  have hS := hP.toStable
  unfold execRingForm
  repeat' first
    | with_reducible assumption
    | with_reducible apply State.command_keeps hP
    | with_reducible apply OutInv.next

theorem execPortRole_keeps {P : State → Prop} (hP : Writes P) {arr : Arrival} {s : State} (h : P s) :
    OutInv P (execPortRole arr s) := by
  have hS := hP.toStable
  unfold execPortRole
  repeat' first
    | with_reducible assumption
    | with_reducible apply State.command_keeps hP
    | with_reducible apply OutInv.next

theorem execCatchTable_keeps {P : State → Prop} (hP : Writes P) {arr : Arrival} {s : State} (h : P s) :
    OutInv P (execCatchTable arr s) := by
  have hS := hP.toStable
  unfold execCatchTable
  repeat' first
    | with_reducible assumption
    | with_reducible apply State.command_keeps hP
    | with_reducible apply OutInv.next

theorem execHandback_keeps {P : State → Prop} (hP : Writes P) {arr : Arrival} {s : State} (h : P s) :
    OutInv P (execHandback arr s) := by
  have hS := hP.toStable
  unfold execHandback
  repeat' first
    | with_reducible assumption
    | with_reducible apply State.command_keeps hP
    | with_reducible apply OutInv.next

theorem execJoin_keeps {P : State → Prop} (hP : Writes P) {arr : Arrival} {s : State} (h : P s) :
    OutInv P (execJoin arr s) := by
  have hS := hP.toStable
  unfold execJoin
  repeat' first
    | with_reducible assumption
    | with_reducible apply State.command_keeps hP
    | with_reducible apply OutInv.next

theorem execRingStatus_keeps {P : State → Prop} (hP : Writes P) {arr : Arrival} {s : State} (h : P s) :
    OutInv P (execRingStatus arr s) := by
  have hS := hP.toStable
  unfold execRingStatus
  repeat' first
    | with_reducible assumption
    | with_reducible apply State.command_keeps hP
    | with_reducible apply OutInv.next

theorem execCsrRead_keeps {P : State → Prop} (hP : Writes P) {arr : Arrival} {s : State} (h : P s) :
    OutInv P (execCsrRead arr s) := by
  have hS := hP.toStable
  unfold execCsrRead
  repeat' first
    | with_reducible assumption
    | with_reducible apply State.command_keeps hP
    | with_reducible apply OutInv.next

theorem execCsrWrite_keeps {P : State → Prop} (hP : Writes P) {arr : Arrival} {s : State} (h : P s) :
    OutInv P (execCsrWrite arr s) := by
  have hS := hP.toStable
  unfold execCsrWrite
  repeat' first
    | with_reducible assumption
    | with_reducible apply State.command_keeps hP
    | with_reducible apply OutInv.next

theorem execSelftest_keeps {P : State → Prop} (hP : Writes P) {arr : Arrival} {pass : BitVec 12} {s : State} (h : P s) :
    OutInv P (execSelftest arr pass s) := by
  have hS := hP.toStable
  unfold execSelftest
  repeat' first
    | with_reducible assumption
    | with_reducible apply State.command_keeps hP
    | with_reducible apply OutInv.next

theorem execBudgetSet_keeps {P : State → Prop} (hP : Writes P) {arr : Arrival} {s : State} (h : P s) :
    OutInv P (execBudgetSet arr s) := by
  have hS := hP.toStable
  unfold execBudgetSet
  repeat' first
    | with_reducible assumption
    | with_reducible apply State.command_keeps hP
    | with_reducible apply OutInv.next

theorem execCapSet_keeps {P : State → Prop} (hP : Writes P) {arr : Arrival} {s : State} (h : P s) :
    OutInv P (execCapSet arr s) := by
  have hS := hP.toStable
  unfold execCapSet
  repeat' first
    | with_reducible assumption
    | with_reducible apply State.command_keeps hP
    | with_reducible apply OutInv.next

theorem execDiePark_keeps {P : State → Prop} (hP : Writes P) {arr : Arrival} {s : State} (h : P s) :
    OutInv P (execDiePark arr s) := by
  have hS := hP.toStable
  unfold execDiePark
  repeat' first
    | with_reducible assumption
    | with_reducible apply State.command_keeps hP
    | with_reducible apply OutInv.next

theorem execAbortQueue_keeps {P : State → Prop} (hP : Writes P) {arr : Arrival} {s : State} (h : P s) :
    OutInv P (execAbortQueue arr s) := by
  have hS := hP.toStable
  unfold execAbortQueue
  repeat' first
    | with_reducible assumption
    | with_reducible apply State.command_keeps hP
    | with_reducible apply OutInv.next

theorem execAbortSlot_keeps {P : State → Prop} (hP : Writes P) {arr : Arrival} {s : State} (h : P s) :
    OutInv P (execAbortSlot arr s) := by
  have hS := hP.toStable
  unfold execAbortSlot
  repeat' first
    | with_reducible assumption
    | with_reducible apply State.command_keeps hP
    | with_reducible apply OutInv.next

theorem execAbortCmd_keeps {P : State → Prop} (hP : Writes P) {arr : Arrival} {s : State} (h : P s) :
    OutInv P (execAbortCmd arr s) := by
  have hS := hP.toStable
  unfold execAbortCmd
  repeat' first
    | with_reducible assumption
    | with_reducible apply State.command_keeps hP
    | with_reducible apply OutInv.next

theorem execDatagramDiscard_keeps {P : State → Prop} (hS : Stable P) {s : State} (h : P s) :
    OutInv P (execDatagramDiscard s) := by
  unfold execDatagramDiscard
  repeat' first
    | with_reducible assumption
    | with_reducible apply State.incFld_keeps hS
    | with_reducible apply OutInv.next
    | with_reducible apply keep_ite (Q := P)

theorem execSlqDb_keeps {P : State → Prop} (hS : Stable P) {acc : Accessor} {slot : Fin 4} {v : Word64} {s : State} (h : P s) :
    OutInv P (execSlqDb acc slot v s) := by
  unfold execSlqDb
  repeat' first
    | with_reducible assumption
    | intro _
    | with_reducible apply State.regWrite_keeps hS
    | with_reducible apply State.writeDb_keeps hS
    | with_reducible apply OutInv.next
    | with_reducible apply OptInv.some

theorem execDoorbell_keeps {P : State → Prop} (hP : Writes P) {s : State} (h : P s) :
    OutInv P (execDoorbell s) := by
  have hS := hP.toStable
  unfold execDoorbell
  repeat' first
    | with_reducible assumption
    | with_reducible apply State.doorbell_keeps hP
    | with_reducible apply OutInv.next

theorem execPeerCmdReply_keeps {P : State → Prop} (hS : Stable P) {s : State} (h : P s) :
    OutInv P (execPeerCmdReply s) := by
  unfold execPeerCmdReply
  repeat' first
    | with_reducible assumption
    | with_reducible apply State.takeMsg_keeps hS
    | with_reducible apply OutInv.next
    | split
    | refine Inv3.unmk (P := P) (OptInv.get (Q := Inv3 P) ?_ (by with_reducible assumption))

end Sys2Proof.Machine
end

