-- ==== Sys2Proof/Laws/KeepsAccess.lean ====
section
/-! SUPPORT. What the operations of Machine/Access.lean keep (Laws/Keeps.lean). -/

namespace Sys2Proof.Machine

theorem State.readAt_keeps {P : State → Prop} (hP : Writes P) {s : State} {req : Requester} {a : Nat} {n : Nat} (h : P s) :
    P (State.readAt s req a n) := by
  have hS := hP.toStable
  unfold State.readAt
  repeat' first
    | with_reducible assumption
    | with_reducible apply State.access_keeps hP
    | with_reducible apply State.csrLoad_keeps hS
    | with_reducible apply keep_ite (Q := P)
    | simp only [keep_mk hS]
    | split

theorem State.writeAt_keeps {P : State → Prop} (hP : Writes P) {s : State} {req : Requester} {a : Nat} {bs : List Byte} {tag : Nat} (h : P s) :
    P (State.writeAt s req a bs tag) := by
  have hS := hP.toStable
  unfold State.writeAt
  repeat' first
    | with_reducible assumption
    | with_reducible apply State.access_keeps hP
    | with_reducible apply State.csrStore_keeps hP
    | with_reducible apply keep_ite (Q := P)
    | simp only [keep_mk hS]
    | split

theorem State.portWords_keeps {P : State → Prop} (hP : Writes P) {x : List Nat} {x1 : State} (h : P x1) :
    Inv3 P (State.portWords x x1) := by
  have hS := hP.toStable
  induction x generalizing x1 with
  | nil =>
    unfold State.portWords
    repeat' first
      | with_reducible assumption
      | with_reducible apply State.fetchWord_keeps hP
      | with_reducible apply Inv2.get (P := P)
      | with_reducible apply keep_ite (Q := Inv3 P)
      | simp only [keep_mk hS]
      | simp only [Inv3.iff]
      | simp only [Inv3.iff2]
      | with_reducible apply Inv2.snd
  | cons x xs ih =>
    unfold State.portWords
    repeat' first
      | with_reducible apply ih
      | with_reducible assumption
      | with_reducible apply State.fetchWord_keeps hP
      | with_reducible apply Inv2.get (P := P)
      | with_reducible apply keep_ite (Q := Inv3 P)
      | simp only [keep_mk hS]
      | simp only [Inv3.iff]
      | simp only [Inv3.iff2]
      | with_reducible apply Inv2.snd

theorem State.transmit_keeps {P : State → Prop} (hP : Writes P) {s : State} {port : Nat} {a : Nat} {n : Nat} (h : P s) :
    P (State.transmit s port a n) := by
  have hS := hP.toStable
  unfold State.transmit
  repeat' first
    | with_reducible assumption
    | with_reducible apply State.portWords_keeps hP
    | with_reducible apply State.countBlocked_keeps hS
    | with_reducible apply State.raise_keeps hS
    | with_reducible apply keep_ite (Q := P)
    | simp only [keep_mk hS]
    | split
    | refine Inv3.of_eq (P := P) ?_ (by with_reducible assumption)

theorem State.tick_keeps {P : State → Prop} (hP : Writes P) {s : State} (h : P s) :
    P (State.tick s) := by
  have hS := hP.toStable
  unfold State.tick
  repeat' first
    | with_reducible assumption
    | intro _
    | with_reducible apply State.carTick_keeps hP
    | with_reducible apply State.cmdSettle_keeps hP
    | with_reducible apply State.resetSettle_keeps hS
    | with_reducible apply State.svcSettle_keeps hS
    | with_reducible apply State.coolTick_keeps hS
    | with_reducible apply State.creditTick_keeps hS
    | with_reducible apply State.digestSettle_keeps hS
    | with_reducible apply State.linkTick_keeps hS
    | with_reducible apply keep_foldl (Q := P)
    | simp only [keep_mk hS]

theorem execMemRead_keeps {P : State → Prop} (hP : Writes P) {req : Requester} {addr : Nat} {len : Nat} {s : State} (h : P s) :
    OutInv P (execMemRead req addr len s) := by
  have hS := hP.toStable
  unfold execMemRead
  repeat' first
    | with_reducible assumption
    | with_reducible apply State.readAt_keeps hP
    | with_reducible apply OutInv.next

theorem execMemWrite_keeps {P : State → Prop} (hP : Writes P) {req : Requester} {addr : Nat} {data : List Byte} {tag : Byte} {s : State} (h : P s) :
    OutInv P (execMemWrite req addr data tag s) := by
  have hS := hP.toStable
  unfold execMemWrite
  repeat' first
    | with_reducible assumption
    | with_reducible apply State.writeAt_keeps hP
    | with_reducible apply OutInv.next

theorem execDataPortTransmit_keeps {P : State → Prop} (hP : Writes P) {port : Fin 2} {addr : Nat} {len : Nat} {s : State} (h : P s) :
    OutInv P (execDataPortTransmit port addr len s) := by
  have hS := hP.toStable
  unfold execDataPortTransmit
  repeat' first
    | with_reducible assumption
    | with_reducible apply State.transmit_keeps hP
    | with_reducible apply OutInv.next

end Sys2Proof.Machine
end

