-- ==== Sys2Proof/Laws/Reports.lean ====
section
/-! SUPPORT. What the accesses of memory and the reports to a context leave as it was: Aux says that a state differs from another in
memory, contexts, completion queues and their registers alone. -/

namespace Sys2Proof.Machine

/-- The register fields that memory accesses and the reports to a context change. -/
def Fld.aux : Fld → Bool
  | .ERR_CNT_CE_COUNT | .ERR_CNT_UE_COUNT | .ERR_STATUS_UE_SEEN | .ERR_UE_ADDR_VALID | .ERR_UE_ADDR_CLASS | .ERR_UE_ADDR_ADDR => true
  | .ERR_LOG_ADDR_VALID | .ERR_LOG_ADDR_CLASS | .ERR_LOG_ADDR_ADDR | .ERR_LOG_ADDR_REPEAT | .ERR_LOG_SYN_SYN | .ERR_LOG_SYN_POS => true
  | .ERR_LOG_SYN_FIRST | .CE_UNLOGGED_COUNT | .ARR_CNT_CE_COUNT | .HC_CNT_HIT_COUNT | .HC_CNT_MISS_COUNT | .HC_CNT_MERGED_COUNT => true
  | .SLQ_STATE_SEALED_RUN | .FLIP_CTL_ARM | .FLIP_CTL_DONE | .SLQ_CPL_CTL_TAIL | .SLQ_CNT_DROP_COUNT | .SLQ_EVENTS_OVERFLOW => true
  | .SEQ_CTX_STATE_STATE | .SEQ_CTX_STATE_STALL | .SEQ_CNT_LATE_COUNT | .SEQ_CNT_TKT_STALL_COUNT | .SEQ_CNT_QFULL_COUNT => true
  | .SEQ_CNT_LATE_STRETCH_COUNT | .MESH_CNT_FLITS_COUNT | .MESH_PEAK_PEAK => true
  | .SEQ_STATUS_RUNNING | .SEQ_STATUS_IDLE | .SEQ_CTX_FAULT_CAUSE | .SEQ_CTX_FAULT_UNIT | .SEQ_CTX_FAULT_PC | .SEQ_CTX_FAULT_TAG => true
  | _ => false

/-- A state without its registers, its memory, its contexts and its completion queues. -/
def State.units (s : State) : State :=
  { s with csr := [], mem := [], side := [], acbAge := [], events := [], hcLines := [], hcClock := 0, merges := [], ctxs := [],
           lastRan := [], cnts := [], yieldHold := [], notices := [], irq := [], replies := [], cplOwed := [], crossings := [],
           logTold := [], fresh := 0, busyAt := [] }

/-- Nothing changes but memory, contexts, completion queues and the registers of Fld.aux. -/
structure Aux (s t : State) : Prop where
  units : t.units = s.units
  fld : ∀ {F : Fld} {d u i : Nat}, F.aux = false → t.fld F d u i = s.fld F d u i

namespace Aux

variable {s t u : State}

theorem refl : Aux s s := ⟨rfl, fun _ => rfl⟩
theorem trans (h : Aux s t) (g : Aux t u) : Aux s u := ⟨g.units.trans h.units, fun hF => (g.fld hF).trans (h.fld hF)⟩
theorem of_csr (h : t.csr = s.csr) (g : t.units = s.units) : Aux s t := ⟨g, fun _ => by simp [State.fld, h]⟩
theorem setFld (h : Aux s t) {F : Fld} (d x i v : Nat) (hF : F.aux = true) : Aux s (t.setFld F d x i v) :=
  ⟨h.units, fun hG => by
    rw [State.fld_setFld_other]
    · exact h.fld hG
    · rintro rfl; simp [hF] at hG⟩
theorem incFld (h : Aux s t) {F : Fld} (d x i n : Nat) (hF : F.aux = true) : Aux s (t.incFld F d x i n) := h.setFld _ _ _ _ hF
theorem incSat (h : Aux s t) {F : Fld} (d x i n : Nat) (hF : F.aux = true) : Aux s (t.incSat F d x i n) := h.setFld _ _ _ _ hF
theorem raise (h : Aux s t) (e : Ev) (d x a : Nat) (o : Option Nat) : Aux s (t.raise e d x a o) := ⟨h.units, h.fld⟩
theorem of_mesh (h : MeshOnly s t) : Aux s t :=
  ⟨by rw [h.rest]; rfl, fun hF => h.fld _ _ _ _ (by rintro rfl; simp [Fld.aux] at hF) (by rintro rfl; simp [Fld.aux] at hF)⟩
theorem bumpCnt (h : Aux s t) (cd c n k : Nat) : Aux s (t.bumpCnt cd c n k) :=
  (h.trans (of_mesh (MeshOnly.notice t cd n))).trans (of_csr rfl rfl)
theorem told (h : Aux s t) (x : Tbl Bool) : Aux s { t with logTold := x } := h.trans (of_csr rfl rfl)
theorem ite {c : Prop} [Decidable c] {a b : State} (h : Aux s a) (g : Aux s b) : Aux s (if c then a else b) := by split <;> assumption

theorem arrays (h : Aux s t) : t.arrays = s.arrays := (congrArg State.arrays h.units :)
theorem charges (h : Aux s t) : t.charges = s.charges := (congrArg State.charges h.units :)
theorem regions (h : Aux s t) : t.regions = s.regions := (congrArg State.regions h.units :)
theorem bobbins (h : Aux s t) : t.bobbins = s.bobbins := (congrArg State.bobbins h.units :)
theorem stations (h : Aux s t) : t.stations = s.stations := (congrArg State.stations h.units :)
theorem ves (h : Aux s t) : t.ves = s.ves := (congrArg State.ves h.units :)
theorem ses (h : Aux s t) : t.ses = s.ses := (congrArg State.ses h.units :)
theorem streams (h : Aux s t) : t.streams = s.streams := (congrArg State.streams h.units :)
theorem heldBy (h : Aux s t) : t.heldBy = s.heldBy := (congrArg State.heldBy h.units :)

theorem foldl {α : Type} {f : State → α → State} {l : List α} (h : Aux s t) (hf : ∀ (r : State) (x : α), Aux r (f r x)) :
    Aux s (l.foldl f t) := by
  induction l generalizing t with
  | nil => exact h
  | cons x l ih => exact ih (h.trans (hf t x))

theorem logAt (s : State) (d u a syn pos : Nat) (strong : Bool) : Aux s (s.logAt d u a syn pos strong) := by
  unfold State.logAt
  dsimp only
  split
  · exact (refl.incSat _ _ _ _ rfl).incSat _ _ _ _ rfl
  · split
    · refine Aux.told ?_ _
      exact (((((((refl.incSat _ _ _ _ rfl).setFld _ _ _ _ rfl).setFld _ _ _ _ rfl).setFld _ _ _ _ rfl).setFld _ _ _ _ rfl).setFld _ _ _ _
        rfl).setFld _ _ _ _ rfl).setFld _ _ _ _ rfl
    · split
      · exact (refl.incSat _ _ _ _ rfl).incSat _ _ _ _ rfl
      · refine Aux.raise ?_ _ _ _ _ _
        refine Aux.told ?_ _
        exact (refl.incSat _ _ _ _ rfl).incSat _ _ _ _ rfl

theorem logCorrected (s : State) (a syn pos : Nat) (strong : Bool) : Aux s (s.logCorrected a syn pos strong) := by
  unfold State.logCorrected
  split
  · split
    · exact refl.incFld _ _ _ _ rfl
    · exact refl
  · exact logAt ..

theorem logUncorrectable (s : State) (a : Nat) (strong : Bool) : Aux s (s.logUncorrectable a strong) := by
  unfold State.logUncorrectable
  split
  · exact refl
  · exact (((((refl.incSat _ _ _ _ rfl).setFld _ _ _ _ rfl).setFld _ _ _ _ rfl).setFld _ _ _ _ rfl).setFld _ _ _ _ rfl).raise _ _ _ _ _

theorem storeRaw (s : State) (a data side : Nat) : Aux s (s.storeRaw a data side) := by
  unfold State.storeRaw
  split <;> exact of_csr rfl rfl

theorem storeWord (s : State) (a : Nat) (w : Word) : Aux s (s.storeWord a w) := storeRaw ..

theorem decodeAt (s : State) (a : Nat) : Aux s (s.decodeAt a).2 := by
  unfold State.decodeAt
  dsimp only
  split
  · exact refl
  · exact logCorrected ..
  · exact (logUncorrectable ..).trans (storeWord ..)

theorem lineWords (s : State) (line : Nat) : Aux s (s.lineWords line).2 := by
  unfold State.lineWords
  have h : ∀ (l : List Nat) (x : List Word × State), Aux s x.2 → Aux s (l.foldl (fun (x : List Word × State) k =>
      let r := x.2.decodeAt (line * 256 + 32 * k); (x.1 ++ [r.1], r.2)) x).2 := by
    intro l
    induction l with
    | nil => exact fun _ hx => hx
    | cons k l ih => exact fun x hx => ih _ (hx.trans (decodeAt ..))
  exact h _ _ refl

theorem hcFill (s : State) (hub line slot : Nat) (ws : List Word) : Aux s (s.hcFill hub line slot ws) := by
  unfold State.hcFill
  dsimp only
  repeat' split
  all_goals first | exact refl | exact of_csr rfl rfl

theorem lineFails (s : State) (hub line a syn : Nat) (pos : Option Nat) : Aux s (s.lineFails hub line a syn pos) := by
  unfold State.lineFails
  dsimp only
  split
  all_goals refine Aux.trans ?_ (logAt ..)
  all_goals exact of_csr rfl rfl

theorem fetchMiss (s : State) (req : Requester) (a : Nat) : Aux s (s.fetchMiss req a).2 := by
  unfold State.fetchMiss
  dsimp only
  split
  · exact (refl.incFld _ _ _ _ (rfl : Fld.aux .HC_CNT_MERGED_COUNT = true)).trans (of_csr rfl rfl)
  · have h : ∀ ms : List MergeEntry, ∀ d, Aux s { s.incFld .HC_CNT_MISS_COUNT d 0 0 with merges := ms } := fun ms d =>
      (refl.incFld _ _ _ _ rfl).trans (of_csr rfl rfl)
    split
    · dsimp only
      refine Aux.ite (Aux.trans ?_ (hcFill ..)) ?_
      · exact (h _ _).trans (lineWords ..)
      · exact (h _ _).trans (lineWords ..)
    · exact (h _ _).trans (lineWords ..)

theorem fetchWord (s : State) (req : Requester) (a : Nat) : Aux s (s.fetchWord req a).2 := by
  unfold State.fetchWord
  split
  · dsimp only
    split
    · split
      · exact (lineFails ..).trans (fetchMiss ..)
      · exact (refl.incFld _ _ _ _ rfl).trans (of_csr rfl rfl)
    · exact fetchMiss ..
  · exact decodeAt ..

theorem closeMerge (s : State) (a : Nat) : Aux s (s.closeMerge a) := by
  unfold State.closeMerge
  split
  · exact of_csr rfl rfl
  · exact refl

theorem hcUpdate (s : State) (a : Nat) (w : Word) : Aux s (s.hcUpdate a w) := by
  unfold State.hcUpdate
  split
  · dsimp only
    split
    · exact of_csr rfl rfl
    · exact refl
  · exact refl

theorem writeWord (s : State) (req : Requester) (a data : Nat) (p q : Bool) : Aux s (s.writeWord req a data p q) := by
  unfold State.writeWord
  dsimp only
  have h : ∀ w : Word, Aux s ((s.closeMerge a).hcUpdate a w) := fun w => (closeMerge ..).trans (hcUpdate ..)
  have g : ∀ (w : Word) (x : Nat) (c : Bool),
      Aux s (if c then ((s.closeMerge a).hcUpdate a w).setFld .SLQ_STATE_SEALED_RUN iod0 x 0 1 else (s.closeMerge a).hcUpdate a w) :=
    fun w x c => ite ((h w).setFld _ _ _ _ rfl) (h w)
  split
  · exact ((((g _ _ _).trans (storeRaw ..)).setFld _ _ _ _ rfl).setFld _ _ _ _ rfl)
  · exact (g _ _ _).trans (storeWord ..)

theorem mergeWord (s : State) (req : Requester) (a off : Nat) (bs : List Byte) (p q : Bool) : Aux s (s.mergeWord req a off bs p q) := by
  unfold State.mergeWord
  split
  · exact writeWord ..
  · exact (decodeAt ..).trans (writeWord ..)

theorem ownWrite (s : State) (a : Nat) (bs : List Byte) : Aux s (s.ownWrite a bs) := refl.foldl fun _ _ => mergeWord ..

theorem cplPush (s : State) (slot : Nat) (e : List Byte) : Aux s (s.cplPush slot e) := by
  unfold State.cplPush
  exact ((ownWrite ..).setFld _ _ _ _ rfl).trans (of_csr rfl rfl)

theorem notice (s : State) (slot code : Nat) (info : List Byte) : Aux s (s.notice slot code info) := by
  unfold State.notice
  dsimp only
  split
  · exact cplPush ..
  · split
    · exact of_csr rfl rfl
    · exact (refl.incFld _ _ _ _ rfl).setFld _ _ _ _ rfl

theorem runCtx (s : State) (cd c beat : Nat) : Aux s (s.runCtx cd c beat) := by
  have h : Aux s (((s.setCtxState cd c ctxRunning).setFld .SEQ_STATUS_RUNNING cd 0 0 c).setFld .SEQ_STATUS_IDLE cd 0 0 0) :=
    ((refl.setFld _ _ _ _ rfl).setFld _ _ _ _ rfl).setFld _ _ _ _ rfl
  exact h.trans (of_csr rfl rfl)

theorem switchCtx (s : State) (cd t : Nat) : Aux s (s.switchCtx cd t) := by
  unfold State.switchCtx
  split
  · dsimp only
    split
    · exact (of_csr rfl rfl : Aux s { s with yieldHold := s.yieldHold.set false (Key.at cd) false }).trans (runCtx ..)
    · exact runCtx ..
  · exact (of_csr rfl rfl : Aux s { s with yieldHold := s.yieldHold.set false (Key.at cd) false }).setFld _ _ _ _ rfl

theorem closeHold (s : State) (cd c t : Nat) : Aux s (s.closeHold cd c t) := by
  unfold State.closeHold
  dsimp only
  split
  · exact refl
  · refine setFld (setFld ?_ _ _ _ _ rfl) _ _ _ _ rfl
    split
    · exact (refl.incFld _ _ _ _ rfl).incFld _ _ _ _ rfl
    · split <;> exact refl.incFld _ _ _ _ rfl

theorem ctxError (s : State) (cd c cause unit tag : Nat) : Aux s (s.ctxError cd c cause unit tag) := by
  unfold State.ctxError
  refine (closeHold s cd c (s.beatOf cd)).trans ?_
  generalize s.closeHold cd c (s.beatOf cd) = s
  dsimp only
  refine Aux.trans ?_ (notice ..)
  refine Aux.raise ?_ _ _ _ _ _
  split
  · exact refl
  · have h : Aux s (((((s.setFld .SEQ_CTX_FAULT_CAUSE cd 0 c cause).setFld .SEQ_CTX_FAULT_UNIT cd 0 c unit).setFld .SEQ_CTX_FAULT_PC cd 0 c
        (s.fld .SEQ_CTX_PC_PC cd 0 c)).setFld .SEQ_CTX_FAULT_TAG cd 0 c tag).setCtxState cd c ctxFaulted) :=
      ((((refl.setFld _ _ _ _ rfl).setFld _ _ _ _ rfl).setFld _ _ _ _ rfl).setFld _ _ _ _ rfl).setFld _ _ _ _ rfl
    split
    · exact h.trans (switchCtx ..)
    · exact h

end Aux

end Sys2Proof.Machine
end

