-- ==== Sys2Proof/Tests/Slice0.lean ====
section
/-! SUPPORT. The model's own tests: what the checks of WellFormed refuse, small steps with the results that the manual gives, and for
each statement a state and operands that meet its hypotheses. -/

namespace Sys2Proof.Tests

open Sys2Proof Sys2Proof.Machine

set_option Elab.async false

/-! The checks of WellFormed. -/

theorem test_wellFormed_read_address : WellFormed (.memRead .supervisor (2 ^ 64) 8) = false := by decide
theorem test_wellFormed_read_length : WellFormed (.memRead .supervisor 0 0) = false := by decide
theorem test_wellFormed_read_good : WellFormed (.memRead .supervisor (2 ^ 64 - 1) 1) = true := by decide
theorem test_wellFormed_write_address : WellFormed (.memWrite .supervisor (2 ^ 64) [1] 0) = false := by decide
theorem test_wellFormed_write_length : WellFormed (.memWrite .supervisor 0 [] 0) = false := by decide
theorem test_wellFormed_register_address : WellFormed (.csrRegisterWrite .supervisor (2 ^ 64) 0) = false := by decide
theorem test_wellFormed_transmit_address : WellFormed (.dataPortTransmit 0 (2 ^ 64) 32) = false := by decide
theorem test_wellFormed_transmit_length : WellFormed (.dataPortTransmit 0 0 0) = false := by decide
theorem test_wellFormed_zeroing_hbm : WellFormed (.zeroingComplete 0 0 589824) = false := by decide
theorem test_wellFormed_zeroing_tier2 : WellFormed (.zeroingComplete 1 0 786432) = false := by decide
theorem test_wellFormed_zeroing_sram : WellFormed (.zeroingComplete 2 0 2048) = false := by decide
theorem test_wellFormed_zeroing_good : WellFormed (.zeroingComplete 2 7 2047) = true := by decide
theorem test_wellFormed_flit : WellFormed (.flitReceive 0 [0, 1, 2] 0 false) = false := by decide

/-! Small states. -/

/-- Sets register fields, one after another. -/
def regs (s : State) (l : List (Fld × Nat × Nat × Nat × Nat)) : State := l.foldl (fun s x => s.setFld x.1 x.2.1 x.2.2.1 x.2.2.2.1 x.2.2.2.2) s

/-- The register fields that say that every die is in service. -/
def inService : List (Key × Nat) := (List.range 14).map fun k => (State.csrKey .DIE_STATUS_IN_SERVICE (dieOf k) 0 0, 1)

/-- After reset with every die in service. -/
def up : State := { State.reset with csr := inService }

/-- As `up`, with firmware running, the management port up and service level 3. -/
def booted : State := { State.reset with
  csr := inService ++ [(State.csrKey .SVC_STATUS_LEVEL iod0 0 0, 3)], booted := true, fwRuns := true, mgmtUp := true }

/-- A packet of 64 bytes with this opcode, TAG 7, slot byte and PARAM. -/
def pk (op slotByte : Nat) (param : List Byte) : List Byte := State.padTo 64 (leBytes 2 op ++ [7, 0, 0, BitVec.ofNat 8 slotByte, 0, 0] ++ param)

/-- The datagram of such a packet from management source 3. -/
def dg (op slotByte : Nat) (param : List Byte) : Arrival := .mgmt 3 (pk op slotByte param)

/-- The packet itself. -/
def pp (op slotByte : Nat) (param : List Byte) : Packet := State.packetOf (pk op slotByte param) (.mgmt 3)

/-- The state after a command. -/
def after (c : Instr) (s : State) : State := match exec c s with | .next t => t | _ => s

/-! What the witnesses ask of a step. -/

/-- A register field, with die, unit and index. -/
abbrev K4 := Fld × Nat × Nat × Nat

def n4 (k : K4) : Nat × Nat × Nat × Nat := (k.1.id, k.2.1, k.2.2.1, k.2.2.2)
def val (s : State) (k : Key) : Nat := s.csr.get (Fld.resetOf k.f k.d) k

/-- The register fields in which two states differ. -/
def regDiff (s t : State) : List (Nat × Nat × Nat × Nat) :=
  (((s.csr.map (·.1)) ++ (t.csr.map (·.1))).eraseDups.filter (fun k => val s k != val t k)).map fun k => (k.f, k.d, k.u, k.i)

/-- No field differs but those listed, or but those of the listed registers. -/
def kR (s t : State) (l : List K4) : Bool := (regDiff s t).all fun k => (l.map n4).contains k
def kF (s t : State) (l : List Fld) : Bool := (regDiff s t).all fun k => (l.map Fld.id).contains k.1

/-- Two states agree but for the parts that `f` blanks. -/
def sB (s t : State) (f : State → State) : Bool := decide (f t = f s)

def keeps (s t : State) (l : List K4) (f : State → State) : Bool := kR s t l && sB s t fun x => { f x with csr := [] }
def wroteB (s t : State) (l : List K4) : Bool := kR s t l && decide (t.resp = .written) && sB s t fun x => { x with csr := [], resp := .none }

/-- One more event, of this code and die. -/
def raisedB (s t : State) (e : Ev) (die : Nat) : Bool :=
  match t.events.drop s.events.length with
  | [x] => decide (t.events.take s.events.length = s.events) && x.code == e.code && x.die == die
  | _ => false

/-- A management command is answered, is fulfilled, is refused, and is offered to a state that takes it. -/
def answersB (s u : State) (p : Packet) (src : Nat) (info : List Byte) : Bool :=
  decide (u.out = .mgmt src (replyBytes p stOk info) :: ((if p.early then [.mgmt src (replyBytes p stAccepted [])] else []) ++ s.out)) &&
  decide (u.keptReplies.head? = some ⟨src, p.tag, s.now, replyBytes p stOk info⟩)
def fulfilsB (s u : State) (p : Packet) (src : Nat) (info : List Byte) (l : List K4) (forget : State → State) : Bool :=
  answersB s u p src info && u.fld .CMD_CNT_MGMT_COUNT iod0 == (s.fld .CMD_CNT_MGMT_COUNT iod0 + 1) % 2 ^ 64 &&
  kR s u ((.CMD_CNT_MGMT_COUNT, iod0, 0, 0) :: l) && sB s u fun x => forget { x with csr := [], out := [], keptReplies := [] }
def refusesB (s u : State) (p : Packet) (src st : Nat) : Bool :=
  decide (u.out = .mgmt src (replyBytes p st []) :: s.out) && decide (u.keptReplies.head? = some ⟨src, p.tag, s.now, replyBytes p st []⟩) &&
  u.fld .CMD_CNT_REFUSED_COUNT iod0 == (s.fld .CMD_CNT_REFUSED_COUNT iod0 + 1) % 2 ^ 64 &&
  kR s u [(.CMD_CNT_REFUSED_COUNT, iod0, 0, 0)] && sB s u fun x => { x with csr := [], out := [], keptReplies := [] }
def offersB (s : State) (op src : Nat) (bs : List Byte) (p : Packet) : Bool :=
  s.mgmtUp && bs.length == 64 && p == State.packetOf bs (.mgmt src) && p.op == op && (s.keptFor src p.tag).isNone &&
  (s.checkCmd p (headClean bs) true).isNone

/-- The die of the command runs, and a register that it writes may be written. -/
def may (c : Instr) (s : State) : Bool :=
  (match eventDie c with | some d => !s.halted d | none => true) &&
  (match s.writeOf c with | some (d, ok) => s.dieUp d && ok | none => true)

/-- The command goes on with all of `hyps` true, and the state after it is as `P` says. -/
def ck (hyps : List Bool) (c : Instr) (s : State) (P : State → List Bool) : Bool × Bool :=
  match exec c s with
  | .next t => (hyps.all id && may c s, (P t).all id)
  | _ => (false, false)

def rowsK (die unit : Nat) (l : List (Fld × Nat)) : List K4 := l.map fun x => (x.1, die, unit, x.2)

/-- The command leads from the first state to the second. -/
def nx (c : Instr) (s t : State) : Bool := match exec c s with | .next u => decide (u = t) | _ => false

/-! Witnesses of what every step does. -/

/-- After reset, with two commands waiting. -/
abbrev waiting : State := { State.reset with pending := [.operatingSecond, .watchdogNmi] }

theorem wit_StepRunsFront : waiting.pending = .operatingSecond :: [.watchdogNmi] := rfl
theorem wit_IdleStepTicks : booted.pending = [] := by decide +kernel
theorem wit_StepKeepsInv : waiting.Inv ∧ ∃ t, step waiting = .next t := ⟨⟨rfl, fun F d _ _ => Fld.resetOf_lt F d, rfl, rfl⟩, _, rfl⟩
theorem wit_QueueAndSteppingKept : exec .operatingSecond waiting = .next (after .operatingSecond waiting) := rfl
theorem wit_MemoryUntouched : touchesNoMemory .operatingSecond = true ∧ exec .operatingSecond waiting = .next (after .operatingSecond waiting) := ⟨rfl, rfl⟩
theorem wit_HaltedDieDoesNothing : eventDie (.yield 7 3) = some 7 ∧ (regs booted [(.CLK_STEP_STOPPED, 7, 0, 0, 1)]).halted 7 = true := by decide +kernel
theorem wit_WriteWithoutAuthority_die : State.reset.writeOf (.arrParkRequest .supervisor 7 23 1) = some (7, true) ∧ State.reset.dieUp 7 = false := by
  decide +kernel
theorem wit_WriteWithoutAuthority_accessor : booted.writeOf (.arrParkRequest (.core 5 false) 7 23 1) = some (7, false) := by decide +kernel

/-! Witnesses about matrix arrays. -/

namespace Arrays

abbrev s := booted
abbrev a0 (l : List (Fld × Nat × Nat)) (cd n : Nat) (s : State) : State := regs s (l.map fun x => (x.1, cd, n, x.2.1, x.2.2))
abbrev bw (row0 rows tie uses : Nat) : Word64 := BitVec.ofNat 64 (row0 + 4096 * rows + 2 ^ 32 * tie + 2 ^ 40 * uses)
theorem wit_ArrayRegisterWrites_rgnBase : (ck [s.dieUp 7, !s.rgnNamed 7 23 5, rgnBaseOk (bw 4095 1 255 1)] (.arrAcbRgnBaseWrite .supervisor 7 23 5 (bw 4095 1 255 1)) s fun t => [
   t.fld .ARR_ACB_RGN_BASE_ROW0 7 23 5 = 4095, t.fld .ARR_ACB_RGN_BASE_ROWS 7 23 5 = 1, t.fld .ARR_ACB_RGN_BASE_TIE 7 23 5 = 255, t.fld .ARR_ACB_RGN_BASE_USES 7 23 5 = 1,
      t.fld .ARR_ACB_RGN_BASE_EPOCH 7 23 5 = s.fld .ARR_EPOCH_ACB_EPOCH 7 23 % 2 ^ 16 , t.fld .ARR_ACB_RGN_CNT_ADDS 7 23 5 = 0 ,
      t.region 7 23 5 = ⟨none, 0, false⟩, t.resp = .written,
   kR s t (rowsK 7 23 [(.ARR_ACB_RGN_BASE_ROW0, 5), (.ARR_ACB_RGN_BASE_ROWS, 5), (.ARR_ACB_RGN_BASE_TIE, 5), (.ARR_ACB_RGN_BASE_USES, 5), (.ARR_ACB_RGN_BASE_EPOCH, 5), (.ARR_ACB_RGN_CNT_ADDS, 5)]),
   sB s t fun x => { x with csr := [], regions := [], resp := .none }]).1 = true := by decide +kernel
theorem wit_ArrayRegisterWrites_rgnBase_bad : (ck [!rgnBaseOk (bw 4095 2 0 1)] (.arrAcbRgnBaseWrite .supervisor 7 23 5 (bw 4095 2 0 1)) s fun t => [decide (t = {s with resp := .busError})]) = (true, true) := by decide +kernel
theorem wit_ArrayRegisterWrites_wgm : (ck [wgmOk 0xF00000000FFD] (.arrAcbRgnWgmWrite .supervisor 7 23 5 0xF00000000FFD) s fun t => [t.fld .ARR_ACB_RGN_WGM_EN 7 23 5 = 1, t.fld .ARR_ACB_RGN_WGM_GRAN 7 23 5 = 0,
  t.fld .ARR_ACB_RGN_WGM_COLS_T 7 23 5 = 255, t.fld .ARR_ACB_RGN_WGM_BITMAP 7 23 5 = 3, t.fld .ARR_ACB_RGN_WGM_ROW_OFF 7 23 5 = 0xF000,
  wroteB s t (rowsK 7 23 [(.ARR_ACB_RGN_WGM_EN, 5), (.ARR_ACB_RGN_WGM_GRAN, 5), (.ARR_ACB_RGN_WGM_COLS_T, 5), (.ARR_ACB_RGN_WGM_BITMAP, 5), (.ARR_ACB_RGN_WGM_ROW_OFF, 5)])]).1 = true := by decide +kernel
theorem wit_ArrayRegisterWrites_wgm_bad : (ck [!wgmOk 1] (.arrAcbRgnWgmWrite .supervisor 7 23 5 1) s fun t => [decide (t = {s with resp := .busError})]) = (true, true) := by decide +kernel
theorem wit_ArrayRegisterWrites_seed : (ck [] (.arrLsSeedWrite .supervisor 7 23 0) s fun t => [t.fld .ARR_LS_SEED_SEED 7 23 = 0, decide (t.array 7 23 = { s.array 7 23 with gen := 1 }), kR s t (rowsK 7 23 [(.ARR_LS_SEED_SEED, 0)]),
  sB s t fun x => { x with csr := [], arrays := [], resp := .none }]) = (true, true) := by decide +kernel
abbrev ctl := rowsK 7 23 [(.ARR_CTL_PARK, 0), (.ARR_CTL_ACB_RETAIN, 0), (.ARR_CTL_LS_ENABLE, 0)]
theorem wit_ArrayRegisterWrites_park : (ck [] (.arrParkRequest .supervisor 7 23 7) s fun t => [t.fld .ARR_CTL_PARK 7 23 = 1, t.fld .ARR_CTL_ACB_RETAIN 7 23 = 1, t.fld .ARR_CTL_LS_ENABLE 7 23 = 1, decide (t.arrays = s.arrays), kR s t ctl, sB s t fun x => { x with csr := [], resp := .none }]) = (true, true) := by decide +kernel
abbrev sp := (regs s [(.ARR_STATUS_STATE, 7, 23, 0, 0), (.ARR_CTL_ACB_RETAIN, 7, 23, 0, 1)]).setArray 7 23 { ArrayUnit.reset with acbOff := false }
theorem wit_ArrayRegisterWrites_retain : (ck [] (.arrParkRequest .supervisor 7 23 1) sp fun t => [(t.array 7 23).acbOff, kR sp t ctl, sB sp t fun x => { x with csr := [], arrays := [], acbSeed := [], resp := .none }]).1 = true := by decide +kernel
abbrev pk1 := a0 [(.ARR_CTL_PARK, 0, 1), (.ARR_STATUS_STATE, 0, 1)] 7 23 s
theorem wit_ArrayParksAndWakes_arrayPark : (ck [!pk1.halted 7, (pk1.array 7 23).queue.isEmpty, pk1.feedersEmpty 7 23] (.arrayPark 7 23) pk1 fun t => [t.fld .ARR_STATUS_STATE 7 23 = 0, t.array 7 23 = { pk1.array 7 23 with acbOff := true },
  t.acbSeed.get 0 (Key.at 7 23) = 1, kR pk1 t (rowsK 7 23 [(.ARR_STATUS_STATE, 0)]), sB pk1 t fun x => { x with csr := [], arrays := [], acbSeed := [] }]).1 = true := by decide +kernel
abbrev pk2 := a0 [(.ARR_CTL_ACB_RETAIN, 0, 1)] 7 23 pk1
theorem wit_ArrayParksAndWakes_arrayPark2 : (ck [] (.arrayPark 7 23) pk2 fun t => [t.fld .ARR_STATUS_STATE 7 23 = 0, t.array 7 23 = { pk2.array 7 23 with acbOff := false },
  t.acbSeed.get 0 (Key.at 7 23) = 0, kR pk2 t (rowsK 7 23 [(.ARR_STATUS_STATE, 0)])]) = (true, true) := by decide +kernel
abbrev wk := (a0 [(.ARR_STATUS_STATE, 0, 0), (.ARR_EPOCH_EPOCH, 0, 0xFFFF), (.ARR_EPOCH_ACB_EPOCH, 0, 0xFFFF), (.ARR_ACB_RGN_BASE_EPOCH, 7, 9)] 7 23 s).setArray 7 23 { ArrayUnit.reset with waking := true, acbOff := true, bank0 := ⟨0, 5, none, []⟩ }
theorem wit_ArrayParksAndWakes_wake : (ck [] (.arrayWakeComplete 7 23) wk fun t => [t.fld .ARR_STATUS_STATE 7 23 = 1, !(t.array 7 23).waking, !(t.array 7 23).acbOff, t.fld .ARR_EPOCH_EPOCH 7 23 = 1, t.fld .ARR_EPOCH_ACB_EPOCH 7 23 = 1,
   t.fld .ARR_EVENTS_EPOCH_WRAP 7 23 = 1, (t.array 7 23).bank0.epoch = 0, t.fld .ARR_ACB_RGN_BASE_EPOCH 7 23 7 = 0,
   kR wk t (rowsK 7 23 ([(.ARR_STATUS_STATE, 0), (.ARR_EPOCH_EPOCH, 0), (.ARR_EPOCH_ACB_EPOCH, 0), (.ARR_EVENTS_EPOCH_WRAP, 0)] ++ (List.range 8).map fun q => (.ARR_ACB_RGN_BASE_EPOCH, q))),
   sB wk t fun x => { x with csr := [], arrays := [] }]).1 = true := by decide +kernel
abbrev ac (kind count : Nat) (fl : Nat := 0) (m : Nat := 1) : Cmd := ⟨BitVec.ofNat 64 (kind + fl + count * 2 ^ 32 + 77 * 2 ^ 48), BitVec.ofNat 64 (m + 512), 2, 1, 6⟩
abbrev base := ({ s with pend := [.scalar 7 2 5 9 3, .seed 7 0x50 9 4, .seed 7 0x58 9 4, .vector 7 1 3 [1,2] true 2 0 0, .scalar 7 2 6 9 1000] } : State) |> fun s => (regs s [(.ARR_STATUS_STATE, 7, 23, 0, 1), (.SEQ_TKT_GRANT_GRANT, 7, 0, 1, 96), (.ARR_ACB_RGN_BASE_ROWS, 7, 23, 0, 256), (.ARR_EPOCH_EPOCH, 7, 23, 0, 4)]).setRegion 7 23 0 ⟨some 1, 0, false⟩
abbrev q (s : State) (c : Cmd) (u : ArrayUnit := ArrayUnit.reset) := s.setArray 7 23 { u with queue := [.cmd c, .cmd (ac 1 1)] }
abbrev rest : List ArrEntry := [.cmd (ac 1 1)]
def okk (s : State) (k : Nat) (c : Cmd) := [!s.halted 7, s.arrAwake 7 23, (s.array 7 23).queue = .cmd c :: rest, (arrFields c).kind = k, (s.reach 7 c.enters).mayStart 7 23 c.slot, ((s.reach 7 c.enters).arrCheck 7 23 c.slot (arrFields c)).isNone]
abbrev hl := q base (ac 2 256 0 0)
abbrev at1 (s : State) (c : Cmd) := (s.reach 7 c.enters).tktClose 7 23 c.ctx
theorem wit_ArrayLoadsAndPassesIssue_holdLoad : (ck (okk hl 2 (ac 2 256 0 0)) (.holdLoad 7 23) hl fun t => let s1 := at1 hl (ac 2 256 0 0)
  [t.charged 7 23 = some 1, (t.array 7 23).queue = rest, (t.array 7 23).issued = 1, (t.array 7 23).inflight = [], t.fld .ARR_STATUS_STATE 7 23 = 2,
   (t.array 7 23).loading.any (fun r => decide (r.cmd = ac 2 256 0 0) && r.aLines.isEmpty && r.bLines.isEmpty && r.bank == 1), t.fld .ARR_STATUS_LOAD_STALL 7 23 = 0,
   kR s1 t (rowsK 7 23 [(.ARR_STATUS_STATE, 0), (.ARR_STATUS_LOAD_STALL, 0)]), sB s1 t fun x => { x with csr := [], arrays := [], charges := [] }]).1 = true := by decide +kernel
abbrev hl2 := a0 [(.ARR_STATUS_BACK_FULL, 0, 1)] 7 23 hl
theorem wit_ArrayLoadsAndPassesIssue_holdLoad_stall : (ck (okk hl2 2 (ac 2 256 0 0)) (.holdLoad 7 23) hl2 fun t => let s1 := at1 hl2 (ac 2 256 0 0)
  [t.charged 7 23 = some 1, (t.array 7 23).loading.any (fun r => decide (r.cmd = ac 2 256 0 0) && r.aLines.isEmpty && r.bLines.isEmpty && r.bank == 2), t.fld .ARR_STATUS_LOAD_STALL 7 23 = 1,
   kR s1 t (rowsK 7 23 [(.ARR_STATUS_STATE, 0), (.ARR_STATUS_LOAD_STALL, 0)]), sB s1 t fun x => { x with csr := [], arrays := [], charges := [] }]).1 = true := by decide +kernel
abbrev bk : HeldBank := ⟨0, 4, some 1, [⟨[3], 0, 0⟩]⟩
abbrev hpu : ArrayUnit := { ArrayUnit.reset with bank0 := bk, bank1 := bk }
abbrev hp := a0 [(.ARR_STATUS_BACK_FULL, 0, 1)] 7 23 (q base (ac 3 7 (2 ^ 17) 0) hpu)
def passOk (s : State) (c : Cmd) (wait : Bool) (front full : Nat) := ck (State.arrCoreFree (s.array 7 23) :: okk s 3 c) (.holdPass 7 23) s fun t => let s1 := at1 s c
  [t.charged 7 23 = some 1, (t.array 7 23).queue = rest, (t.array 7 23).issued = 1, t.fld .ARR_STATUS_STATE 7 23 = 2,
   (match (t.array 7 23).inflight with | [r] => decide (r.cmd = c) && r.order == 1 && r.bank == (if (arrFields c).seam then 1 else 0) && r.seamWait == wait && (wait || decide (r.held = bk.chunks)) | _ => false),
   t.fld .ARR_STATUS_FRONT 7 23 = front, t.fld .ARR_STATUS_BACK_FULL 7 23 = full,
   kR s1 t (rowsK 7 23 [(.ARR_STATUS_STATE, 0), (.ARR_STATUS_FRONT, 0), (.ARR_STATUS_BACK_FULL, 0), (.ARR_STATUS_LOAD_STALL, 0), (.ARR_EVENTS_LS_ACTIVE, 0)]),
   sB s1 t fun x => { x with csr := [], arrays := [], charges := [], regions := [] }]
theorem wit_ArrayLoadsAndPassesIssue_pass_seam : (passOk hp (ac 3 7 (2 ^ 17) 0) false 1 0).1 = true := by decide +kernel
abbrev hp0 := q base (ac 3 7 (2 ^ 17) 0) hpu
theorem wit_ArrayLoadsAndPassesIssue_pass_seam_wait : (passOk hp0 (ac 3 7 (2 ^ 17) 0) true 0 0).1 = true := by decide +kernel
abbrev hp1 := q (regs base [(.ARR_ACB_RGN_BASE_EPOCH, 7, 23, 0, 1), (.ARR_EPOCH_ACB_EPOCH, 7, 23, 0, 1)]) (ac 3 7 (2 ^ 19) 0) hpu
theorem wit_ArrayLoadsAndPassesIssue_pass_plain_acc : (passOk hp1 (ac 3 7 (2 ^ 19) 0) false 0 0).1 = true := by decide +kernel
abbrev rt := q base (ac 1 7)
theorem wit_ArrayTileIssues_resTile : (ck (State.arrCoreFree (rt.array 7 23) :: okk rt 1 (ac 1 7)) (.resTile 7 23) rt fun t => let s1 := at1 rt (ac 1 7)
  [t.charged 7 23 = some 1, (t.array 7 23).queue = rest, (t.array 7 23).issued = 1,
   (match (t.array 7 23).inflight with | [r] => decide (r.cmd = ac 1 7) && r.order == 1 && r.aLeft == 7 && r.bLeft == 7 | _ => false), t.fld .ARR_STATUS_STATE 7 23 = 2,
   kR s1 t (rowsK 7 23 [(.ARR_STATUS_STATE, 0), (.ARR_EVENTS_LS_ACTIVE, 0)]), sB s1 t fun x => { x with csr := [], arrays := [], charges := [], regions := [] }]).1 = true := by decide +kernel
def refu (s : State) (k : Nat) (c : Cmd) (i : Instr) := ck [!s.halted 7, s.arrAwake 7 23, (s.array 7 23).queue = .cmd c :: rest, (arrFields c).kind = k, ((s.reach 7 c.enters).arrCheck 7 23 c.slot (arrFields c)).isSome] i s fun t =>
  [t.fld .ARR_STATUS_STATE 7 23 = 3, t.array 7 23 = { s.array 7 23 with queue := [] }, t.arrHeld 7 23, t.fld .ARR_FAULT_INFO_KIND 7 23 = c.kind, t.fld .ARR_DONE_DONE 7 23 = 1, t.fld .ARR_DONE_DISCARDED 7 23 = 1, t.charges = s.charges]
theorem wit_ArrayRefuses_refuse : [(refu (q base (ac 1 7 (2 ^ 16))) 1 (ac 1 7 (2 ^ 16)) (.resTile 7 23)).1, (refu (q base (ac 2 7)) 2 (ac 2 7) (.holdLoad 7 23)).1, (refu (q base (ac 3 7)) 3 (ac 3 7) (.holdPass 7 23)).1].all id = true := by decide +kernel
abbrev run (c : Cmd) (bank : Nat) : Running := { cmd := c, order := 1, long := false, rows := 0, cols := 0, maskPoison := false, aLeft := 0, bLeft := 0, aLines := [⟨[1,2,3], 7, 5⟩], bLines := [], init := [], bank := bank }
abbrev cl := base.setArray 7 23 { ArrayUnit.reset with loading := some (run (ac 2 2) 1) }
def loadC (s : State) (c : Cmd) (seam : Bool) := ck [] (.arrayCommandComplete 7 23 true) s fun t =>
  [(t.array 7 23).loading.isNone, t.fld .ARR_STATUS_BACK_FULL 7 23 = (if seam then 0 else 1), t.fld .ARR_STATUS_FRONT 7 23 = (if seam then 1 else 0), !(t.array 7 23).inflight.any Running.seamWait,
   (State.bankOf (t.array 7 23) 1).chunks.map (fun l => (l.elems.take 4, l.poison, l.isSealed)) = [([1,2,0,0],3,1)], t.fld .ARR_DONE_DONE 7 23 = 1, t.cnt 7 2 23 = 1,
   kR s t (rowsK 7 23 [(.ARR_STATUS_BACK_FULL, 0), (.ARR_STATUS_FRONT, 0), (.ARR_DONE_DONE, 0), (.ARR_STATUS_STATE, 0)]), sB s t fun x => { x with csr := [], arrays := [], cnts := [], busyAt := [] }]
theorem wit_ArrayCommandsComplete_load_complete : (loadC cl (ac 2 2) false).1 = true := by decide +kernel
abbrev cl2 := base.setArray 7 23 { ArrayUnit.reset with loading := some (run (ac 2 2) 1), inflight := [{ run (ac 3 2) 1 with seamWait := true }] }
theorem wit_ArrayCommandsComplete_load_complete_seam : (loadC cl2 (ac 2 2) true).1 = true := by decide +kernel
abbrev cc := base.setArray 7 23 { ArrayUnit.reset with inflight := [run (ac 1 0 (2 ^ 19)) 0, run (ac 1 1) 0] }
theorem wit_ArrayCommandsComplete_complete_core : (ck [] (.arrayCommandComplete 7 23 false) cc fun t => [(t.array 7 23).inflight = [run (ac 1 1) 0], t.fld .ARR_DONE_DONE 7 23 = 1, t.fld .ARR_ACB_RGN_CNT_ADDS 7 23 0 = 1]) = (true, true) := by decide +kernel
def cse (reg : Nat) (v : Word64) (P : State → List Bool) := let s := base.setArray 7 23 { ArrayUnit.reset with queue := .cset reg v 2 1 6 :: rest }
  ck [!s.halted 7, s.arrAwake 7 23] (.csetEntryEffect 7 23) s fun t => ([decide ((t.array 7 23).queue = rest), decide (t.cnt 7 2 23 = 1), sB (s.reach 7 6) t fun x => { x with csr := [], arrays := [], regions := [], cnts := [], busyAt := [] }] ++ P t : List Bool)
theorem wit_ArrayRegisterEntries_entries : [(cse 2 7 fun t => [t.fld .ARR_CTL_PARK 7 23 = 1, t.fld .ARR_CTL_ACB_RETAIN 7 23 = 1, t.fld .ARR_CTL_LS_ENABLE 7 23 = 1]).1, (cse 8 (2^64-1) fun t => [t.fld .ARR_ROWMASK_BITS 7 23 0 = 2^64-1]).1, (cse 15 (2^64-1) fun t => [t.fld .ARR_COLMASK_BITS 7 23 3 = 2^64-1]).1, (cse 16 0 fun t => [t.fld .ARR_LS_SEED_SEED 7 23 = 0, (t.array 7 23).gen = 1]).1, (cse 0x2E (bw 1 2 3 4) fun t => [t.fld .ARR_ACB_RGN_BASE_ROW0 7 23 7 = 1, t.fld .ARR_ACB_RGN_BASE_ROWS 7 23 7 = 2, t.region 7 23 7 = ⟨some 1, 0, false⟩]).1, (cse 0x21 (2^64-1) fun t => [t.fld .ARR_ACB_RGN_CNT_LS_THRESH 7 23 0 = 2^32-1]).1, (cse 0x37 0xFFD fun t => [t.fld .ARR_ACB_RGN_WGM_EN 7 23 7 = 1, t.fld .ARR_ACB_RGN_WGM_BITMAP 7 23 7 = 3]).1, (cse 0x27F 0x100000002 fun t => [t.fld .ARR_SCALE_A_S_LO 7 23 127 = 2, t.fld .ARR_SCALE_A_S_HI 7 23 127 = 1]).1, (cse 0x2FF 0x100000002 fun t => [t.fld .ARR_SCALE_B_S_LO 7 23 127 = 2, t.fld .ARR_SCALE_B_S_HI 7 23 127 = 1]).1].all id = true := by decide +kernel
theorem wit_ArrayRegisterEntries_cset_bad : (let s := base.setArray 7 23 { ArrayUnit.reset with queue := .cset 0x20 (bw 4095 2 0 0) 2 1 6 :: rest }
  ck [] (.csetEntryEffect 7 23) s fun t => [t.fld .ARR_STATUS_STATE 7 23 = 3, t.fld .ARR_FAULT_BAD_CMD 7 23 = 1, t.fld .ARR_FAULT_INFO_FIELD 7 23 = 9, (t.array 7 23).queue = []]).1 = true := by decide +kernel
abbrev sf := a0 [(.ARR_FAULT_BAD_CMD, 0, 1), (.ARR_FAULT_ACB_UE, 0, 1), (.ARR_STATUS_STATE, 0, 3)] 7 23 s
def fc (v : Word64) (P : State → List Bool) := ck [] (.arrFaultClear .supervisor 7 23 v) sf fun t => wroteB sf t (rowsK 7 23 [(.ARR_FAULT_BAD_CMD, 0), (.ARR_FAULT_STALE_STATE, 0), (.ARR_FAULT_POISON, 0), (.ARR_FAULT_ACB_RANGE, 0), (.ARR_FAULT_ACB_UE, 0), (.ARR_STATUS_STATE, 0)]) :: P t
theorem wit_ArrayFaultClears_fault_clear : (fc 1 fun t => [t.fld .ARR_FAULT_BAD_CMD 7 23 = 0, t.fld .ARR_FAULT_ACB_UE 7 23 = 1, !t.arrHeld 7 23, t.fld .ARR_STATUS_STATE 7 23 = 1]).1 = true := by decide +kernel
theorem wit_ArrayFaultClears_fault_clear0 : (fc 2 fun t => [t.fld .ARR_FAULT_BAD_CMD 7 23 = 1, t.fld .ARR_FAULT_ACB_UE 7 23 = 1, t.arrHeld 7 23, t.fld .ARR_STATUS_STATE 7 23 = 3]).1 = true := by decide +kernel

end Arrays

/-! Witnesses about the carousel and the feeders. -/

namespace Carousel

abbrev s : State := { booted with pend := [.scalar 7 2 5 9 3, .seed 7 0x50 9 4, .seed 7 0x58 9 4, .vector 7 1 3 [1,2] true 2 0 0, .scalar 7 2 6 9 1000] }
abbrev fc (kind tk reuse addr : Nat) (int4 : Nat := 0) : Cmd := ⟨BitVec.ofNat 64 (kind + 16 * int4 + 32 * reuse + 65536 * tk + 77 * 2 ^ 48), BitVec.ofNat 64 addr, 2, 1, 6⟩
abbrev A : Nat := 2 ^ 25 * arrGroup 23
abbrev own (s : State) : State := (List.range 1).foldl (fun s k => s.setBlock 7 (A / 65536 + k) ⟨some 1, false, false⟩) s
abbrev fs := own ((regs s [(.ARR_STATUS_STATE, 7, 23, 0, 1)]).setBobbin 7 47 ⟨[], [0, 2]⟩)
abbrev q (c : Cmd) := fs.setBobbin 7 47 ⟨[c, fc 1 1 1 0], [0, 2]⟩
def feed (c : Cmd) (i : Instr) (P : State → List Bool) := ck [!badFeed c, (q c).freeSlot 7 47 == some 1, c.kind == 1 || (q c).sramOwned 7 1 (addrOf c) 65536 && addrOf c / 2 ^ 25 == arrGroup 23] i (q c) fun t =>
  [decide (t.bobbin 7 47 = ⟨[fc 1 1 1 0], [0, 2, 1]⟩), decide (t.fills.get none ⟨0, 7, 47, 1⟩ = some c), decide (t.fld .FDR_SLOT_STATE 7 47 1 = 1), decide (t.fld .FDR_SLOT_SRC 7 47 1 = if c.kind = 1 then 0 else 1),
   decide (t.fld .FDR_SLOT_INT4 7 47 1 = 1), decide (t.fld .FDR_SLOT_PASSES 7 47 1 = feedReuse c), decide (t.fld .FDR_SLOT_TICKET 7 47 1 = tkOf c), decide (t.fld .FDR_SLOT_FLITS 7 47 1 = 0),
   sB ((q c).reach 7 6) t fun x => { x with csr := [], bobbins := [], fills := [], uses := [], useCount := 0 }] ++ P t
theorem wit_CarouselCommandsTaken_feedSub : (feed (fc 1 63 15 0 1) (.feedSub 7 23 1) fun t => [(t.tkUses 7 63).any fun u => u.slot == 1 && u.regs.contains 47]).1 = true := by decide +kernel
theorem wit_CarouselCommandsTaken_feedPriv : (feed (fc 2 0 15 A 1) (.feedPriv 7 23 1) fun t => [decide (t.uses = fs.uses)]).1 = true := by decide +kernel
abbrev ic (kind ring tk subs addr : Nat) : Cmd := ⟨BitVec.ofNat 64 (kind + 16 * ring + 65536 * tk + subs * 2 ^ 22 + 77 * 2 ^ 48), BitVec.ofNat 64 addr, 2, 1, 6⟩
abbrev B : Nat := 2 ^ 25 * 3
abbrev ownB (s : State) : State := s.setBlock 7 (B / 65536) ⟨some 1, false, false⟩
abbrev sq (c : Cmd) := (ownB s).setStation 7 3 { Station.reset with queue := [c, fc 1 1 1 0], moved := 7 }
def stn (c : Cmd) (i : Instr) (P : State → List Bool) (fg : State → State) := ck [!badStation c 3, (sq c).sramOwned 7 1 (addrOf c) 65536, !(sq c).ringOff 7 (injRing c)] i (sq c) fun t =>
  [decide (t.station 7 3 = { (sq c).station 7 3 with started := true, useId := none, moved := 0 }), sB ((sq c).reach 7 6) t fg] ++ P t
theorem wit_CarouselCommandsTaken_inject : (stn (ic 1 1 63 52 B) (.inject 7 3) (fun _ => []) fun x => { x with stations := [] }).1 = true := by decide +kernel
theorem wit_CarouselCommandsTaken_capture : (stn (ic 2 0 63 0 B) (.capture 7 3) (fun t => [(t.tkUses 7 63).any fun u => u.slot == 1 && u.regs.contains 51]) fun x => { x with stations := [], uses := [], useCount := 0 }) = (true, true) := by decide +kernel
abbrev dq := (ownB { s with now := 99 }).setStation 7 3 { Station.reset with queue := [ic 1 1 63 2 B], started := true }
theorem wit_TilesAreDeclaredAndArm_declare : (ck [dq.tkFree 7 63] (.tileDeclare 7 28) dq fun t => [(t.tkUses 7 63).any fun u => u.declared && u.slot == 1 && u.station == 28 && u.ring == 1 && u.subs == 2 && decide (u.src = .sram B) && u.since == 99 && decide (t.station 7 3 = { dq.station 7 3 with useId := some u.id }),
  sB dq t fun x => { x with stations := [], uses := [], useCount := 0 }]) = (true, true) := by decide +kernel
abbrev gt : GwTile := { ticket := 5, ring := 2, subs := 1, slot := 1, ctx := 2, src := 9, useId := none, got := 1, readyAt := [], data := [], tags := [], errs := [] }
abbrev gd := s.setGateway 7 3 [{ gt with src := 8, useId := some 77 }, gt, { gt with got := 7 }]
theorem wit_TilesAreDeclaredAndArm_declare_gw : (ck [(gd.gateway 7 3).find? (fun y => y.useId.isNone) == some gt, !gd.ringOff 7 2, gd.tkFree 7 5] (.tileDeclare 7 24) gd fun t => [(t.tkUses 7 5).any fun u => u.declared && u.slot == 1 && u.station == 24 && u.ring == 2 && u.subs == 1 && decide (u.src = .gateway) &&
   decide (t.gateway 7 3 = (gd.gateway 7 3).map (fun y => if y = gt then { y with useId := some u.id } else y)), sB gd t fun y => { y with gateways := [], uses := [], useCount := 0 }]) = (true, true) := by decide +kernel
abbrev u0 : Use := { id := 4, slot := 1, declared := true, station := 28, ring := 0, subs := 2, regs := [0, 47], armed := false, ccw := false, drop := 0, sent := 0, src := .sram B, since := 5, stalled := false }
abbrev us (u : Use) : State := { s.setUses 7 63 [{ u with id := 3, declared := false }, u] with carBeat := [(Key.at 7, 40)] }
theorem wit_TilesAreDeclaredAndArm_arm : (ck [((us u0).tkUses 7 63).find? (fun x => x.declared && !x.armed) == some u0, (us u0).pickRing 7 u0 == some false] (.tileArm 7 63) (us u0) fun t =>
  [t.tkUses 7 63 = [{ u0 with id := 3, declared := false }, { u0 with armed := true, ccw := false, drop := farthest false 28 (u0.regs.map regStation), since := 40 }], sB (us u0) t fun x => { x with uses := [] }]) = (true, true) := by decide +kernel
abbrev u1 := { u0 with subs := 3 }
abbrev u2 := { u0 with armed := true, sent := 32 }
abbrev re : State := { s.setUses 7 63 [{ u0 with id := 3, declared := false }, u2] with carBeat := [(Key.at 7, 40)] }
theorem wit_TilesAreDeclaredAndArm_ride_end : (ck [!re.ridingOn 7 u2] (.tileRideEnd 7 63) re fun t => [t.tkUses 7 63 = [{ u0 with id := 3, declared := false }], sB re t fun x => { x with uses := [] }]) = (true, true) := by decide +kernel
abbrev st := { us u0 with now := 100 * max 1 (s.fld .CAR_WDOG_LIMIT 7) + 6 }
theorem wit_TilesAreDeclaredAndArm_stall : (ck [] (.armStall 7 63) st fun t => [t.tkUses 7 63 = [{ u0 with id := 3, declared := false }, { u0 with stalled := true }], t.fld .CAR_EVENTS_ARM_STALL 7 = 1, raisedB st t .EV_CAR_ARM_STALL 7, kR st t [(.CAR_EVENTS_ARM_STALL, 7, 0, 0)],
   sB st t fun x => { x with csr := [], uses := [], events := [] }]) = (true, true) := by decide +kernel
abbrev v0 : Use := { u0 with armed := true, sent := 31, since := 39 }
abbrev fi := ((ownB (us v0)).setStation 7 3 { Station.reset with queue := [ic 1 0 63 2 B], started := true, useId := some 4 })
abbrev fk := fi.slotAt 7 0 28
def inj (s : State) := ck [s.sendingAt 7 28 == some (63, v0), s.flitReady 7 28 63 v0, (s.ringSlot 7 0 (s.slotAt 7 0 28)).flit.isNone, !s.flitWaits 7 v0] (.flitInject 7 28) s fun t =>
  [decide (t.ringSlot 7 0 (s.slotAt 7 0 28) = ⟨none, some (s.takeFlit 7 28 63 v0).1⟩), decide (t.tkUses 7 63 = [{ v0 with id := 3, declared := false }, { v0 with sent := 32, since := 40 }]), decide (t.fld .CAR_CNT_FLIT_CW_COUNT 7 = 1)]
theorem wit_FlitsEnterTheRing_inject_flit : (inj fi).1 = true := by decide +kernel
theorem wit_FlitsEnterTheRing_inject_flit_reserved : (inj (fi.setRingSlot 7 0 fk ⟨some 28, none⟩)).1 = true := by decide +kernel
abbrev w0 : Use := { v0 with since := 7 }
abbrev fr := (((ownB (us w0)).setStation 7 3 { Station.reset with queue := [ic 1 0 63 2 B], started := true, useId := some 4 })).setRingSlot 7 0 fk ⟨none, some ⟨1, 2, 3, [], [], []⟩⟩
theorem wit_FlitsEnterTheRing_reserve : (ck [fr.sendingAt 7 28 == some (63, w0), fr.flitReady 7 28 63 w0, fr.flitSince 7 28 w0 + 33 == 40] (.slotReserve 7 28) fr fun t => [decide (t.ringSlot 7 0 fk = ⟨some 28, some ⟨1, 2, 3, [], [], []⟩⟩), t.fld .CAR_CNT_RESV_COUNT 7 = 1, kR fr t [(.CAR_CNT_RESV_COUNT, 7, 0, 0)], sB fr t fun x => { x with csr := [], rings := [] }]) = (true, true) := by decide +kernel
abbrev bs := { regs (fs.setBobbin 7 47 ⟨[], [3, 1]⟩) [(.FDR_SLOT_STATE, 7, 47, 3, 2), (.FDR_SLOT_FLITS, 7, 47, 3, 32)] with fills := [(⟨0, 7, 47, 3⟩, some (fc 1 63 15 0 1))] }
theorem wit_BobbinSlotsFillAndEnd_ready : (ck [] (.bobbinSlotReady 7 23 1 3) bs fun t => [t.fld .FDR_SLOT_STATE 7 47 3 = 3, t.cnt 7 2 (0x18 + 47) = 1, kR bs t [(.FDR_SLOT_STATE, 7, 47, 3)], sB bs t fun x => { x with csr := [], cnts := [], busyAt := [] }]).1 = true := by decide +kernel
abbrev run (c : Cmd) : Running := { cmd := c, order := 1, long := false, rows := 0, cols := 0, maskPoison := false, aLeft := 7, bLeft := 7, aLines := [], bLines := [], init := [], bank := 0 }
abbrev ac (kind count : Nat) (fl : Nat := 0) (m : Nat := 1) : Cmd := ⟨BitVec.ofNat 64 (kind + fl + count * 2 ^ 32 + 77 * 2 ^ 48), BitVec.ofNat 64 (m + 512), 2, 1, 6⟩
abbrev ps (st passes : Nat) (s := bs) := (regs s [(.FDR_SLOT_STATE, 7, 47, 3, st), (.FDR_SLOT_PASSES, 7, 47, 3, passes)]).setArray 7 23 { ArrayUnit.reset with inflight := [run (ac 1 7)] }
def pe (st passes : Nat) (P : State → List Bool) := ck [(ps st passes).slotReadable 7 47 3 (7 * 256) true] (.bobbinPassEnd 7 23 1) (ps st passes) fun t => (t.fld .FDR_CNT_LINES_COUNT 7 47 == 7) :: P t
theorem wit_BobbinSlotsFillAndEnd_pass_early : (pe 2 0 fun t => [t.earlyRead.get false ⟨0, 7, 47, 3⟩, t.fld .FDR_SLOT_PASSES 7 47 3 = 0, t.bobbin 7 47 = bs.bobbin 7 47]) = (true, true) := by decide +kernel
theorem wit_BobbinSlotsFillAndEnd_pass_rewind : (pe 3 15 fun t => [t.fld .FDR_SLOT_PASSES 7 47 3 = 14, t.fld .FDR_SLOT_STATE 7 47 3 = 4, t.bobbin 7 47 = bs.bobbin 7 47]) = (true, true) := by decide +kernel
theorem wit_BobbinSlotsFillAndEnd_pass_last : (pe 4 0 fun t => [t.fld .FDR_SLOT_STATE 7 47 3 = 0, t.bobbin 7 47 = ⟨[], [1]⟩]) = (true, true) := by decide +kernel
abbrev ff := regs s [(.FDR_FAULT_BAD_FEED, 7, 47, 0, 1), (.FDR_FAULT_UE, 7, 47, 0, 1), (.CAR_FAULT_BAD_INJ, 7, 0, 0, 1), (.CAR_FAULT_TRANSIT_UE, 7, 0, 0, 1)]
theorem wit_CarouselFaultClears_fdr_clear : (ck [] (.fdrFaultClear .supervisor 7 23 1 1) ff fun t => [t.fld .FDR_FAULT_BAD_FEED 7 47 = 0, t.fld .FDR_FAULT_UE 7 47 = 1, wroteB ff t [(.FDR_FAULT_BAD_FEED, 7, 47, 0), (.FDR_FAULT_GROUP, 7, 47, 0), (.FDR_FAULT_UE, 7, 47, 0)]]).1 = true := by decide +kernel
abbrev fg := ff.setStation 7 2 { Station.reset with held := true }
theorem wit_CarouselFaultClears_car_clear : (ck [] (.carFaultClear .supervisor 7 1) fg fun t => [t.fld .CAR_FAULT_BAD_INJ 7 = 0, t.fld .CAR_FAULT_TRANSIT_UE 7 = 1, !t.carHeld 7, !(t.station 7 2).held, t.resp = .written,
  kR fg t [(.CAR_FAULT_BAD_INJ, 7, 0, 0), (.CAR_FAULT_RING_OFF, 7, 0, 0), (.CAR_FAULT_TRANSIT_UE, 7, 0, 0)], sB fg t fun x => { x with csr := [], stations := [], resp := .none }]).1 = true := by decide +kernel

end Carousel

/-! Witnesses about clock regions. -/

namespace Clocks

abbrev s : State := booted
abbrev D : Nat := 0x13
abbrev R (l : List Fld) (d : Nat := D) : List K4 := l.map fun f => (f, d, 0, 0)
theorem wit_ClockRegionsChangeStep_clk_xerr : (ck [] (.clkStepWrite .supervisor 11 0x70F) (regs s [(.CLK_STATUS_XERR, D, 0, 0, 1)]) fun t => [wroteB (regs s [(.CLK_STATUS_XERR, D, 0, 0, 1)]) t []]) = (true, true) := by decide +kernel
def cw (s : State) (v : Word64) := ck [s.dieUp D] (.clkStepWrite .supervisor 11 v) s fun t => [t.fld .CLK_STEP_TARGET D = fieldOf v 2 0, t.fld .CLK_STEP_MODE D = fieldOf v 3 3, t.fld .CLK_STEP_CAP D ≤ fieldOf v 10 8, t.resp = .written,
   (s.clk D).phase = .idle || decide (t.clocks = s.clocks), kR s t (R [.CLK_STEP_TARGET, .CLK_STEP_MODE, .CLK_STEP_CAP, .CLK_STEP_BUSY]), sB s t fun x => { x with csr := [], caps := [], clocks := [], resp := .none }]
theorem wit_ClockRegionsChangeStep_clk : (cw s 0x70F).1 = true := by decide +kernel
theorem wit_ClockRegionsChangeStep_clk_down : (cw (regs s [(.CLK_STEP_CURRENT, D, 0, 0, 5)]) 0x001).1 = true := by decide +kernel
theorem wit_ClockRegionsChangeStep_clk_busy : (cw (s.setClk D { Clk.reset with phase := .gliding }) 0x305).1 = true := by decide +kernel
abbrev v : State := { regs s [(.CLK_CTL_STRETCH_EN, 7, 0, 0, 1), (.CLK_CTL_STRETCH_EN, D, 0, 0, 1)] with pend := [.scalar 7 2 5 9 3] }
theorem wit_ClockRegionsChangeStep_stretch_car : (ck [] (.stretchPeriod 7 true) v fun t => [t.fld .CLK_CNT_STRETCH_COUNT 7 = 4, kR v t (R [.CLK_CNT_STRETCH_COUNT] 7), sB v t fun x => { x with csr := [] }]) = (true, true) := by decide +kernel
theorem wit_ClockRegionsChangeStep_stretch_hub : (ck [] (.stretchPeriod 11 false) v fun t => [t.fld .CLK_CNT_STRETCH_COUNT D = 1, kR v t (R [.CLK_CNT_STRETCH_COUNT]), sB v t fun x => { x with csr := [] }]) = (true, true) := by decide +kernel
def sup (p : ClkPhase) (sp : Nat) := let a := (regs s [(.CLK_STEP_CURRENT, D, 0, 0, 3), (.CLK_STEP_TARGET, D, 0, 0, 5)]).setClk D { Clk.reset with phase := p, goal := 5 }
   ck [] (.supplyChangeDone 11) a fun t => [(t.clk D).supply = sp, kR a t (R [.CLK_STEP_BUSY]), sB a t fun x => { x with csr := [], clocks := [] }]
theorem wit_ClockRegionsChangeStep_supply : [(sup .raising 5).1, (sup .lowering 3).1].all id = true := by decide +kernel
def gl (cur goal n : Nat) := let a := (regs s [(.CLK_STEP_CURRENT, D, 0, 0, cur), (.CLK_STEP_TARGET, D, 0, 0, goal)]).setClk D { Clk.reset with phase := .gliding, goal := goal }
   ck [] (.glideComplete 11) a fun t => [t.fld .CLK_STEP_CURRENT D = n, t.fld .CLK_CNT_GLIDE_COUNT D = 1, kR a t (R [.CLK_STEP_CURRENT, .CLK_CNT_GLIDE_COUNT, .CLK_STEP_BUSY]), sB a t fun x => { x with csr := [], clocks := [] }]
theorem wit_ClockRegionsChangeStep_glides : [(gl 3 5 4).1, (gl 4 5 5).1, (gl 4 3 3).1, (gl 0 0 0).1, (gl 7 7 6).1].all id = true := by decide +kernel
abbrev h (p : ClkPhase) := { (regs s [(.CLK_STEP_CURRENT, D, 0, 0, 3), (.CLK_STEP_TARGET, D, 0, 0, 5)]).setClk D { Clk.reset with phase := p, goal := 5, haltedAt := 4 } with now := 14 }
theorem wit_ClockRegionsChangeStep_halt : (ck [] (.stopHalt 11) (h .draining) fun t => [t.fld .CLK_STEP_STOPPED D = 1, t.halted D, t.clk D = { (h .draining).clk D with phase := .halted, haltedAt := 14 }, kR (h .draining) t (R [.CLK_STEP_STOPPED]), sB (h .draining) t fun x => { x with csr := [], clocks := [] }]) = (true, true) := by decide +kernel
theorem wit_ClockRegionsChangeStep_restart : (ck [] (.stopRestart 11) (h .halted) fun t => [t.fld .CLK_STEP_CURRENT D = 5, t.fld .CLK_STEP_STOPPED D = 0, t.fld .CLK_CNT_STOP_COUNT D = 1, t.fld .CLK_CNT_STOP_TIME_COUNT D = 100,
   kR (h .halted) t (R [.CLK_STEP_CURRENT, .CLK_STEP_STOPPED, .CLK_CNT_STOP_COUNT, .CLK_CNT_STOP_TIME_COUNT, .CLK_STEP_BUSY]), sB (h .halted) t fun x => { x with csr := [], clocks := [], crossings := [] }]).1 = true := by decide +kernel
theorem wit_CrossingErrorTakesTheDieOut_xing : (ck [] (.crossingError 7 79) s fun t => [t.unfit, t.fld .CLK_STATUS_XERR 7 = 1, t.fld .CLK_STATUS_XING 7 = 79, t.halted 7, !t.dieUp 7, !t.flagBit .SVC_STATUS_DIES iod0 0 0 7, (t.clk 7).phase = .idle, t.fld .CLK_STEP_BUSY 7 = 0, t.fld .CLK_STEP_CURRENT 7 = s.fld .CLK_STEP_CURRENT 7]) = (true, true) := by decide +kernel

end Clocks

/-! Witnesses about collectives. -/

namespace Collectives

/-- Slot 1 maps the 2 MiB from virtual address 0 on to the second tier-2 frame. -/
abbrev pgs : State := ((regs booted [(.XLT_ROOT_EN, iod0, 1, 0, 1), (.XLT_ROOT_ROOT, iod0, 1, 0, tier2Base / 4096), (.HLM_POS_POS, iod0, 0, 0, 17)]).setFrame 1 0 ⟨.system, .ordinary, false, false, false, 0, false⟩).setFrame 1 1 ⟨.slot 1, .ordinary, false, false, false, 0, false⟩
abbrev mapped : State := [(tier2Base, tier2Base + 4097), (tier2Base + 4096, tier2Base + 8193), (tier2Base + 8192, tier2Base + 2 ^ 21 + 7)].foldl (fun s x => s.writeWord .supervisor x.1 x.2 false false) pgs
/-- A descriptor: OP, FLAGS, FMT, COUNT, and SIZE 2, RANK 1 of positions 16 and 17. -/
abbrev dsc (op flags fmt count : Nat) (dst : Nat := 0x4000) (aux : Nat := 0x8000) (arg : Nat := 1) : List Byte := State.padTo 64 (leBytes 1 op ++ leBytes 1 flags ++ leBytes 1 0 ++ leBytes 1 3 ++ leBytes 1 0x80 ++ leBytes 1 fmt ++ leBytes 2 0 ++ leBytes 2 2 ++ leBytes 2 1 ++ leBytes 2 16 ++ leBytes 2 1 ++ leBytes 5 count ++ leBytes 3 0 ++ leBytes 6 0x2000 ++ leBytes 6 0x3000 ++ leBytes 6 dst ++ leBytes 6 0x5000 ++ leBytes 6 aux ++ leBytes 2 arg ++ leBytes 2 0xBEEF)
abbrev lst (d : List Byte) (s : State) : State := { (s.writeWord .supervisor (tier2Base + 2 ^ 21) (leNat (d.take 32)) false false).writeWord .supervisor (tier2Base + 2 ^ 21 + 32) (leNat (d.drop 32)) false false with syncs := Tbl.set SyncCtr.reset [] (Key.at 7 1 3) ⟨2, 0, [2, 0], [2, 0]⟩ }
abbrev st (d : List Byte) (slots : Nat := 4) : State := regs (lst d mapped) [(.RE_LIST_CTL_CNT, iodDie 1, 0, 1, 2), (.RE_LAND_SLOTS_SLOTS, iodDie 1, 0, 1, slots)]
abbrev ops : List (Nat × Instr) := [(1, Instr.allReduce 1 1), (2, .reduceScatter 1 1), (3, .allGather 1 1), (4, .allToAll 1 1), (5, .permute 1 1), (6, .send 1 1), (7, .recv 1 1), (8, .shift 1 1), (9, .barrier 1 1)]
def hyp (d : List Byte) (op : Nat) (shape : Bool) : List Bool := let s := st d
  match s.vaRead (unitReq 1) 1 0 64 with
  | (.ok bs, s1) => let d' := bs.map MByte.b
    let s2 := s1.reConsume 1 7 1 3
    [decide (d' = d), !mPoison bs, kOp d' = op, decide (s1.reQueue 1 7 1 3 ≠ []), s2.collShape d' == shape,
      !shape || (match s2.collTable 1 d with | some (t, s3) => (State.collRegions d t).all (fun r => s3.collInside 1 r.1 r.2.1 r.2.2) && (s3.collBegin 1 (s3.collNew 1 d 0 0 [(7, 2)]) t).isSome | none => false)]
  | _ => [false]
def bad (op : Nat) (i : Instr) := ck (hyp (dsc op 0 0 0) op false) i (st (dsc op 0 0 0)) fun t => [t.fld .RE_FAULT_BAD_DESC (iodDie 1) = 1, t.fld .RE_FAULT_INFO_CODE (iodDie 1) = 1, t.fld .RE_LIST_CTL_STATE (iodDie 1) 0 1 = 2, t.fld .RE_LIST_CTL_POS (iodDie 1) 0 1 = 0, t.colls = []]
theorem wit_CollectivesStart_start_bad : (bad 1 (.allReduce 1 1)) = (true, true) := by decide +kernel
def good (d : List Byte) (i : Instr) := ck (hyp d (kOp d) true) i (st d) fun t => [(t.reColls 1 1).length = 1, t.fld .RE_LIST_CTL_POS (iodDie 1) 0 1 = 1, t.insts.get 0 (Key.at 1 1 0xBEEF) = 1, t.reQueue 1 7 1 3 = [0], t.fld .RE_FAULT_BAD_DESC (iodDie 1) = 0]
theorem wit_CollectivesStart_start_barrier : (good (dsc 9 1 0 0) (.barrier 1 1)) = (true, true) := by decide +kernel
/-- A running collective of this descriptor. -/
abbrev live : State := regs { mapped with insts := Tbl.set 0 [] (Key.at 1 1 0xBEEF) 1 } [(.RE_LIST_CTL_CNT, iodDie 1, 0, 1, 2)]
abbrev rc (d : List Byte) (g : Coll → Coll := id) : State := live.setColls 1 1 [g (mapped.collNew 1 d 5 0 [(7, 2)])]
abbrev col (s : State) : Coll := (s.reColls 1 1).getD 0 (mapped.collNew 1 [] 0 0 [])
def ending (g : Coll → Coll) (ok : Bool) := let s := rc (dsc 9 1 0 0) (fun c => g { c with passed := true }); ck [s.collDone 1 1 (col s), !kCen (col s).desc] (.collectiveEnd 1 1 0) s fun t => [t.reColls 1 1 = [], t.cnt 7 2 0x61 = 1,
  t.fld .RE_CNT_DONE_COUNT (iodDie 1) = (if ok then 1 else 0), t.fld .RE_CNT_ERR_COUNT (iodDie 1) = (if ok then 0 else 1)]
theorem wit_CollectivesReceiveAndEnd_end_ok : (ending id true) = (true, true) := by decide +kernel
theorem wit_CollectivesReceiveAndEnd_end_poison : (ending (fun c => { c with poison := true }) false) = (true, true) := by decide +kernel
theorem wit_CollectivesReceiveAndEnd_timeout : (let s := { rc (dsc 9 1 0 0) with now := 10 ^ 12 }; ck [(s.reColls 1 1).length = 1] (.collectiveTimeout 1 1) s fun t => [t.fld .RE_FAULT_TIMEOUT (iodDie 1) = 1, t.fld .RE_FAULT_INFO_CODE (iodDie 1) = 5, t.fld .RE_FAULT_INFO_SLOT (iodDie 1) = 1, t.fld .RE_FAULT_INFO_TAG (iodDie 1) = 0xBEEF,
   t.reColls 1 1 = [{ col s with timedOut := true }], raisedB s t .EV_RE_TIMEOUT (iodDie 1), kR s t [(.RE_FAULT_TIMEOUT, iodDie 1, 0, 0), (.RE_FAULT_INFO_TAG, iodDie 1, 0, 0), (.RE_FAULT_INFO_INST, iodDie 1, 0, 0), (.RE_FAULT_INFO_SLOT, iodDie 1, 0, 0), (.RE_FAULT_INFO_CODE, iodDie 1, 0, 0), (.RE_FAULT_INFO_ENTRY, iodDie 1, 0, 0)],
   sB s t fun x => { x with csr := [], colls := [], events := [] }]) = (true, true) := by decide +kernel
abbrev flit : List Byte := List.replicate 144 1
abbrev lf (s : State) (phase : Nat) : Landed := ⟨0, ⟨s.collHdr 1 (col s) ⟨0, phase, 0, 0, 64, [flit], []⟩ 17 [], [flit], 0, none⟩, 0, 0⟩
abbrev pc := rc (dsc 7 1 0 64) fun c => { c with pieces := [⟨0, 0x4000, 64, 64, [], false⟩] }
theorem wit_CollectivesReceiveAndEnd_consume_piece : (let l := lf pc 0; let s := pc.setLanded 1 1 [l]; ck [State.landedOf l (col s), decide (State.pieceOf (col s).pieces 0 l.frame.offset = (some 0, none)), s.collRoom 1 0x4000 64] (.reFrameConsume 1 1) s fun t => [t.fld .RE_CNT_RX_BYTES_COUNT (iodDie 1) = 64, (t.reColls 1 1).length = 1, t.reLanded 1 1 = []]) = (true, true) := by decide +kernel
abbrev cp := rc (dsc 3 1 0 128)
/-- A message of the collective from position 16. -/
abbrev pm (sub a b : Nat) : List Byte := State.padTo 128 (leBytes 1 4 ++ leBytes 1 1 ++ leBytes 2 16 ++ leBytes 2 17 ++ leBytes 10 0 ++ leBytes 1 sub ++ leBytes 3 0 ++ leBytes 4 (0xBEEF * 2 ^ 16) ++ leBytes 8 a ++ leBytes 8 b)
abbrev wm (sub a b : Nat) (s : State) : State := { s with inbox := [(8, pm sub a b)] }
def msgOk (s : State) (sub : Nat) : Bool := match s.reMsg sub (fun _ _ => true) with | some (_, 1, some (1, 0, _), _) => true | _ => false
theorem wit_CollectiveMessages_credit : (let s := wm 3 2 0 (rc (dsc 6 1 0 64)); ck [msgOk s 3] .credit s fun t => [(col t).credits = [(0, 2)]]) = (true, true) := by decide +kernel
theorem wit_CollectiveMessages_count : (let s := wm 4 9 0 (rc (dsc 4 1 0 64)); ck [msgOk s 4, s.collRoom 1 0x8004 4] .count s fun t => [(col t).counts = [(0, 9)]]) = (true, true) := by decide +kernel
theorem wit_CollectiveMessages_gather : (let s := wm 1 0 0 (rc (dsc 9 1 0 0)); ck [msgOk s 1, s.tasksDone (col s), State.kCircuit (col s).desc] .barrierGather s fun t => [(col t).gathered]) = (true, true) := by decide +kernel
theorem wit_CollectiveMessages_result : (let s := wm 2 0 0 (rc (dsc 9 1 0 0)); ck [msgOk s 2, State.kCircuit (col s).desc] .barrierResult s fun t => [(col t).passed]) = (true, true) := by decide +kernel
theorem wit_RingEngineRegistersAndYield_listctl : (let s := regs (rc (dsc 9 1 0 0)) [(.RE_LIST_CTL_STATE, iodDie 0, 0, 1, 2), (.RE_LIST_CTL_POS, iodDie 0, 0, 1, 3)]; ck [s.reColls 0 1 = []] (.reListCtlWrite .supervisor 0 1 7) s fun t => [t.fld .RE_LIST_CTL_CNT (iodDie 0) 0 1 = 7, t.fld .RE_LIST_CTL_POS (iodDie 0) 0 1 = 0, t.fld .RE_LIST_CTL_STATE (iodDie 0) 0 1 = 0, t.resp = .written,
  kR s t [(.RE_LIST_CTL_CNT, iodDie 0, 0, 1), (.RE_LIST_CTL_POS, iodDie 0, 0, 1), (.RE_LIST_CTL_STATE, iodDie 0, 0, 1)], sB s t fun x => { x with csr := [], resp := .none }]) = (true, true) := by decide +kernel
theorem wit_RingEngineRegistersAndYield_seed : (ck [booted.seedAllowed .supervisor 1] (.reSrSeedWrite .supervisor 1 0) booted fun t => [t.fld .RE_SR_SEED_SEED (iodDie 1) = 0, t.reGen.get 1 (Key.at 1) = 1, kR booted t [(.RE_SR_SEED_SEED, iodDie 1, 0, 0)], sB booted t fun x => { x with csr := [], reGen := [], resp := .none }]) = (true, true) := by decide +kernel
abbrev yf := { regs booted [(.SEQ_SS_STATUS_YIELDING, 7, 0, 0, 1), (.SLQ_STATE_SIDESHOW, iod0, 3, 0, 1)] with now := 20 * usTicks }
theorem wit_RingEngineRegistersAndYield_forced : (ck [yf.isSideshow 3, yf.flag .SEQ_SS_STATUS_YIELDING 7] (.yieldForced 7) yf fun t => [t.fld .SEQ_SS_STATUS_FORCED 7 = 1, t.fld .SEQ_CNT_SS_FORCED_COUNT 7 = 1, t.patterns = yf.patterns, t.syncs = yf.syncs, t.colls = yf.colls, t.votes = yf.votes]) = (true, true) := by decide +kernel

end Collectives

/-! Witnesses about the sequencer. -/

namespace Sequencer

/-- die 7, context 1 of slot 2 runs the pattern of these words. -/
abbrev sq (ws : List Nat) : State := regs { booted with
    code := Memory.writeBytes [] (2 ^ 20 * 7 + 8) (ws.flatMap (leBytes 8)), konst := Memory.writeBytes [] (2 ^ 18 * 7) ([11, 22, 33].flatMap (leBytes 8)),
    patterns := Tbl.set Pattern.none [] (Key.at 7 2) ⟨1, ws.length, 0, 3, [some 1], [0], [255], 90, false, false, 0⟩,
    sregs := [(Key.at 7 1 1, 5), (Key.at 7 1 2, 0xFFFFFFFFFFFFFFFE)] |>.foldl (fun (t : Tbl Word64) x => Tbl.set 0 t x.1 x.2) [],
    pend := [.scalar 7 1 3 77 3, .seed 7 0x50 9 4, .seed 7 0x58 9 4, .vector 7 1 3 (List.replicate 64 1) true 2 0 0, .scalar 7 1 6 9 1000] }
  [(.SEQ_STATUS_IDLE, 7, 0, 0, 0), (.SEQ_STATUS_RUNNING, 7, 0, 0, 1), (.SEQ_CTX_STATE_STATE, 7, 0, 1, 2), (.SEQ_CTX_STATE_SLOT, 7, 0, 1, 2), (.SEQ_TKT_GRANT_GRANT, 7, 0, 2, 90)]
abbrev fe (ws : List Nat) : Fetch := ⟨1, 2, BitVec.ofNat 64 (ws.getD 0 0), BitVec.ofNat 64 (ws.getD 1 0), BitVec.ofNat 64 (ws.getD 2 0)⟩
def standsB (s : State) (op : Nat) (f : Fetch) (t : Nat := 9) : Bool := !s.halted 7 && (match s.fetchAt 7 t with | some (.inl g) => decide (g = f) | _ => false) && f.op == op && f.clean
def issuesB (s u : State) (f : Fetch) (pc : Nat) : Bool := u.fld .SEQ_CTX_PC_PC 7 0 f.c == pc % 2 ^ 32 && u.fld .SEQ_CNT_ISSUE_COUNT 7 0 f.c == s.fld .SEQ_CNT_ISSUE_COUNT 7 0 f.c + 1 &&
  (regDiff s u).all fun k => ((k == (Fld.id .SEQ_CTX_PC_PC, 7, 0, 1)) || (k == (Fld.id .SEQ_CNT_ISSUE_COUNT, 7, 0, 1)) ||
    ([Fld.SEQ_CNT_LATE_COUNT, .SEQ_CNT_LATE_STRETCH_COUNT, .SEQ_CNT_QFULL_COUNT, .SEQ_CNT_TKT_STALL_COUNT, .SEQ_CTX_STATE_STALL, .SEQ_CTX_STATE_STATE, .SEQ_STATUS_IDLE, .SEQ_STATUS_RUNNING].map Fld.id).contains k.1)
abbrev own (x : State) : State := { x with csr := [], ctxs := [], lastRan := [], yieldHold := [] }
def one (s : State) (op : Nat) (f : Fetch) (i : Instr) (pc : Nat) (ign : State → State) (P : State → State → List Bool) (hyp : List Bool := []) := ck (standsB s op f :: hyp) i s fun u =>
  let s1 := s.reach 7 9
  ([issuesB s1 u f pc, sB s1 u fun x => ign (own x)] ++ P s1 u : List Bool)
theorem wit_SequencerInstructionsIssue_yield : (one (sq [10]) 10 (fe [10]) (.yield 7 9) 1 id fun _ _ => []).1 = true := by decide +kernel
/-- stalled before: holds close. -/
abbrev stalled (s : State) := regs s [(.SEQ_CTX_STATE_STATE, 7, 0, 1, 4), (.SEQ_CTX_STATE_STALL, 7, 0, 1, 1)]
theorem wit_SequencerInstructionsIssue_yield_stalled : (one (stalled (sq [10])) 10 (fe [10]) (.yield 7 9) 1 id fun _ u => [u.fld .SEQ_CNT_QFULL_COUNT 7 0 1 != 0]).1 = true := by decide +kernel
/-- another context READY. -/
abbrev two (s : State) := regs s [(.SEQ_CTX_STATE_STATE, 7, 0, 3, 1), (.SEQ_CTX_STATE_SLOT, 7, 0, 3, 0)]
abbrev sal (fn : Nat) := 4 + fn * 2 ^ 16 + 7 * 2 ^ 20 + 1 * 2 ^ 25 + 2 * 2 ^ 30 + (if fn > 7 then 2 * 2 ^ 40 else 0)
def salT (fn : Nat) (v : Word64) (d : Nat) := one (sq [sal fn]) 4 (fe [sal fn]) (.salu 7 9) 1 (fun x => { x with pend := [] }) fun s1 u => [u.pend = s1.pend ++ [Pending.scalar 7 1 7 v d]]
theorem wit_SequencerInstructionsIssue_salu : [(salT 0 3 10).1, (salT 7 (BitVec.ofNat 64 (2^64-10)) 12).1, (salT 9 33 12).1].all id = true := by decide +kernel
abbrev brw (cond : Nat) (off : Nat) := 5 + cond * 2 ^ 16 + 1 * 2 ^ 20 + 2 * 2 ^ 25 + off * 2 ^ 32
def brT (cond off pc : Nat) := one (sq [brw cond off, 10, 10]) 5 (fe [brw cond off, 10, 10]) (.br 7 9) pc id fun _ _ => []
theorem wit_SequencerInstructionsIssue_br : [(brT 0 2 2).1, (brT 1 100 1).1, (brT 4 2 2).1].all id = true := by decide +kernel
theorem wit_SequencerInstructionsIssue_wait : (one (sq [3 + 0x70 * 2 ^ 16]) 3 (fe [3 + 0x70 * 2 ^ 16]) (.wait 7 9) 1 id fun _ _ => []).1 = true := by decide +kernel
theorem wit_SequencerInstructionsIssue_fence : (one (sq [7]) 7 (fe [7]) (.fence 7 9) 1 id fun _ _ => []).1 = true := by decide +kernel
theorem wit_SequencerInstructionsIssue_cinc : (ck [standsB (sq [9 + 7 * 2 ^ 16]) 9 (fe [9 + 7 * 2 ^ 16])] (.cinc 7 9) (sq [9 + 7 * 2 ^ 16]) fun u => let s1 := (sq [9 + 7 * 2 ^ 16]).reach 7 9
  [u.fld .SEQ_CTX_PC_PC 7 0 1 = 1, (u.sync 7 2 7).count = 1, sB s1 u fun x => { own x with syncs := [], votes := [] }]).1 = true := by decide +kernel
abbrev sg := 8 + 1 * 2 ^ 20
theorem wit_SequencerInstructionsIssue_signal : (ck [standsB (sq [sg]) 8 (fe [sg])] (.signal 7 9) { sq [sg] with notices := Tbl.set [] [] (Key.at 0 2) [[1]] } fun u => let s1 := ({ sq [sg] with notices := Tbl.set [] [] (Key.at 0 2) [[1]] } : State).reach 7 9
  [issuesB s1 u (fe [sg]) 1, sB s1 u fun x => { own x with notices := [] }, (match u.notices.get [] (Key.at 0 2) with | [a, e] => a == [1] && field e 4 2 == 1 && field e 6 1 == 2 && field e 8 1 == 7 && field e 12 4 == 5 | _ => false)]).1 = true := by decide +kernel
abbrev sfull : State := { sq [sg] with notices := Tbl.set [] [] (Key.at 0 2) (List.replicate 64 [1]) }
theorem wit_SequencerInstructionsIssue_signal_full : (ck [standsB sfull 8 (fe [sg])] (.signal 7 9) sfull fun u => [u.fld .SEQ_CTX_PC_PC 7 0 1 = 1, u.notices = sfull.notices, u.fld .SLQ_EVENTS_OVERFLOW iod0 2 = 1, u.fld .SLQ_CNT_DROP_COUNT iod0 2 = 1]).1 = true := by decide +kernel
abbrev cw (unit reg : Nat) := 12 + unit * 2 ^ 16 + reg * 2 ^ 24 + 1 * 2 ^ 37
theorem wit_SequencerInstructionsIssue_cset_ve : (one (sq [cw 0x57 0x101]) 12 (fe [cw 0x57 0x101]) (.cset 7 9) 1 (fun x => { x with pend := [] }) fun s1 u => [u.pend = s1.pend ++ [Pending.seed 7 0x57 5 11]]).1 = true := by decide +kernel
theorem wit_SequencerInstructionsIssue_cset_arr : (one (sq [cw 23 16]) 12 (fe [cw 23 16]) (.cset 7 9) 1 (fun x => { x with arrays := [] }) fun s1 u => [u.array 7 23 = { s1.array 7 23 with queue := [.cset 16 5 1 2 11], waking := true }]).1 = true := by decide +kernel
theorem wit_SequencerInstructionsIssue_end : (ck [standsB (two (sq [11])) 11 (fe [11])] (.endContext 7 9) (two (sq [11])) fun u => let s1 := (two (sq [11])).reach 7 9
  [u.fld .SEQ_CTX_STATE_STATE 7 0 1 = 6, u.fld .SEQ_CTX_PC_PC 7 0 1 = 0, u.fld .SEQ_CNT_ISSUE_COUNT 7 0 1 = 1, sB s1 u own]).1 = true := by decide +kernel
theorem wit_SequencerInstructionsIssue_end_last : (ck [] (.endContext 7 9) (regs (sq [11]) [(.SLQ_STATE_STATE, iod0, 2, 0, 2)]) fun u => let s1 := (sq [11]).reach 7 9
  [u.fld .SEQ_CTX_STATE_STATE 7 0 1 = 6, u.fld .SEQ_CTX_PC_PC 7 0 1 = 0, u.fld .SEQ_CNT_ISSUE_COUNT 7 0 1 = 1, sB s1 u own]).1 = true := by decide +kernel
def rb (op : Nat) (i : Instr) := let w := op + 2 ^ 9; let s := sq [w, 0, 0]
  ck [!s.halted 7, (match s.fetchAt 7 9 with | some (.inl g) => decide (g = fe [w]) && !g.clean && g.op == op | _ => false)] i s fun u =>
  [u.fld .SEQ_CTX_STATE_STATE 7 0 1 = 5, u.fld .SEQ_CTX_FAULT_CAUSE 7 0 1 = 1, u.fld .SEQ_CTX_FAULT_UNIT 7 0 1 = 0, u.fld .SEQ_CTX_FAULT_PC 7 0 1 = 0, u.fld .SEQ_CTX_PC_PC 7 0 1 = 0,
   u.fld .SEQ_CNT_ISSUE_COUNT 7 0 1 = 0, u.sregs = (s.reach 7 9).sregs, u.vreg = (s.reach 7 9).vreg, u.pend = (s.reach 7 9).pend, u.arrays = s.arrays]
theorem wit_ReservedBitsFaultTheContext_reserved : [(rb 1 (.issue 7 9)).1, (rb 12 (.cset 7 9)).1].all id = true := by decide +kernel
def bl (w op : Nat) (i : Instr) (n target : Nat) (fen : Bool) (f : State → State := id) := let s := f (sq [w]); let s1 := s.reach 7 9
  ck [standsB s op (fe [w])] i s fun u => [u.fld .SEQ_CTX_STATE_STATE 7 0 1 = 3, u.fld .SEQ_CTX_STATE_WAIT_CNT 7 0 1 = n, u.fld .SEQ_CTX_PC_PC 7 0 1 = 0, u.fld .SEQ_CNT_ISSUE_COUNT 7 0 1 = 1,
    u.ctx 7 1 = { s1.ctx 7 1 with target := target, fenced := fen, since := 9 }, sB s1 u own]
theorem wit_ContextsBlockAndGoOn_block_wait : (bl (3 + 0x10 * 2 ^ 16 + 2 * 2 ^ 24 + 5 * 2 ^ 32) 3 (.wait 7 9) 0x10 3 false).1 = true := by decide +kernel
theorem wit_ContextsBlockAndGoOn_block_fence : (bl 7 7 (.fence 7 9) 0 0 true fun s => s.setCtx 7 1 { s.ctx 7 1 with posted := 1 }).1 = true := by decide +kernel
abbrev wt (run : Bool) (fen : Bool) : State := (regs (sq [3]) [(.SEQ_CTX_STATE_STATE, 7, 0, 1, 3), (.SEQ_CTX_STATE_WAIT_CNT, 7, 0, 1, if fen then 0 else 0x10), (.SEQ_STATUS_IDLE, 7, 0, 0, if run then 0 else 1)]).setCtx 7 1 ⟨2, fen, 0, 4, 5, 0⟩
def ws (s : State) (i : Instr) := ck [s.ctxState 7 1 = 3] i s fun u => [u.fld .SEQ_CTX_PC_PC 7 0 1 = 1, u.fld .SEQ_CTX_STATE_WAIT_CNT 7 0 1 = 0, u.fld .SEQ_CNT_WAIT_COUNT 7 0 1 = 4,
  u.fld .SEQ_CTX_STATE_STATE 7 0 1 = 1 || u.fld .SEQ_CTX_STATE_STATE 7 0 1 = 2, !(u.ctx 7 1).fenced, sB s u fun x => { x with csr := [], ctxs := [], lastRan := [], yieldHold := [], yieldAt := [] }]
theorem wit_ContextsBlockAndGoOn_ws_run : (ws ({ wt true false with cnts := Tbl.set 0 [] (Key.at 7 1 0x10) 2 }) (.waitSatisfied 7 1 9)).1 = true := by decide +kernel
theorem wit_ContextsBlockAndGoOn_ws_fence : (ws (wt true true) (.fenceComplete 7 1 9)).1 = true := by decide +kernel
def isu (u w1 : Nat) (ign : State → State) (P : State → State → Cmd → List Bool) := let s := sq [1 + u * 2 ^ 16, w1, 99]; let f := fe [1 + u * 2 ^ 16, w1, 99]
  one s 1 f (.issue 7 9) 3 ign (fun s1 v => P s1 v ⟨f.w1, f.w2, 1, 2, 11⟩)
theorem wit_CommandsEnterUnitQueues_issue : [(isu 23 1 (fun x => { x with arrays := [] }) fun s1 v c => [v.array 7 23 = { s1.array 7 23 with queue := [.cmd c], waking := true }]).1, (isu 0x47 1 (fun x => { x with arrays := [], bobbins := [] }) fun s1 v c => [(v.bobbin 7 47).queue = [c]]).1, (isu 0x4B 1 (fun x => { x with stations := [] }) fun s1 v c => [(v.station 7 3).queue = [c]]).1, (isu 0x57 1 (fun x => { x with ves := [] }) fun s1 v c => [(v.ve 7 7).queue.map (·.cmd) = [c]]).1, (isu 0x5F 1 (fun x => { x with ses := [] }) fun s1 v c => [(v.seUnit 7 7).queue = [c]]).1].all id = true := by decide +kernel
abbrev qf := (sq [1 + 23 * 2 ^ 16, 0, 0]).setArray 7 23 { ArrayUnit.reset with queue := List.replicate 16 (.cset 1 1 1 1 1) }
theorem wit_CommandsEnterUnitQueues_issue_full : (ck [] (.issue 7 9) qf fun v => [v.fld .SEQ_CTX_STATE_STATE 7 0 1 = 4, v.fld .SEQ_CTX_STATE_STALL 7 0 1 = 1, kR (qf.reach 7 9) v [(.SEQ_CTX_STATE_STATE, 7, 0, 1), (.SEQ_CTX_STATE_STALL, 7, 0, 1)], sB (qf.reach 7 9) v fun x => { x with csr := [], ctxs := [] }]).1 = true := by decide +kernel
abbrev vw (fn etype : Nat) := fn + etype * 2 ^ 4

end Sequencer

/-! Witnesses about vector operations. -/

namespace Vops

/-- die 7, context 1 of slot 2 runs the pattern of these words. -/
abbrev sq (ws : List Nat) : State := regs { booted with
    code := Memory.writeBytes [] (2 ^ 20 * 7 + 8) (ws.flatMap (leBytes 8)), konst := Memory.writeBytes [] (2 ^ 18 * 7) ([11, 22, 33].flatMap (leBytes 8)),
    patterns := Tbl.set Pattern.none [] (Key.at 7 2) ⟨1, ws.length, 0, 3, [some 1], [0], [255], 90, false, false, 0⟩,
    sregs := [(Key.at 7 1 1, 5), (Key.at 7 1 2, 0xFFFFFFFFFFFFFFFE)] |>.foldl (fun (t : Tbl Word64) x => Tbl.set 0 t x.1 x.2) [],
    pend := [.scalar 7 1 3 77 3, .seed 7 0x50 9 4, .seed 7 0x58 9 4, .vector 7 1 3 (List.replicate 64 1) true 2 0 0, .scalar 7 1 6 9 1000] }
  [(.SEQ_STATUS_IDLE, 7, 0, 0, 0), (.SEQ_STATUS_RUNNING, 7, 0, 0, 1), (.SEQ_CTX_STATE_STATE, 7, 0, 1, 2), (.SEQ_CTX_STATE_SLOT, 7, 0, 1, 2), (.SEQ_TKT_GRANT_GRANT, 7, 0, 2, 90)]
abbrev fe (ws : List Nat) : Fetch := ⟨1, 2, BitVec.ofNat 64 (ws.getD 0 0), BitVec.ofNat 64 (ws.getD 1 0), BitVec.ofNat 64 (ws.getD 2 0)⟩
def standsB (s : State) (op : Nat) (f : Fetch) (t : Nat := 9) : Bool := !s.halted 7 && (match s.fetchAt 7 t with | some (.inl g) => decide (g = f) | _ => false) && f.op == op && f.clean
def issuesB (s u : State) (f : Fetch) (pc : Nat) : Bool := u.fld .SEQ_CTX_PC_PC 7 0 f.c == pc % 2 ^ 32 && u.fld .SEQ_CNT_ISSUE_COUNT 7 0 f.c == s.fld .SEQ_CNT_ISSUE_COUNT 7 0 f.c + 1 &&
  (regDiff s u).all fun k => ((k == (Fld.id .SEQ_CTX_PC_PC, 7, 0, 1)) || (k == (Fld.id .SEQ_CNT_ISSUE_COUNT, 7, 0, 1)) ||
    ([Fld.SEQ_CNT_LATE_COUNT, .SEQ_CNT_LATE_STRETCH_COUNT, .SEQ_CNT_QFULL_COUNT, .SEQ_CNT_TKT_STALL_COUNT, .SEQ_CTX_STATE_STALL, .SEQ_CTX_STATE_STATE, .SEQ_STATUS_IDLE, .SEQ_STATUS_RUNNING].map Fld.id).contains k.1)
abbrev own (x : State) : State := { x with csr := [], ctxs := [], lastRan := [], yieldHold := [] }
def one (s : State) (op : Nat) (f : Fetch) (i : Instr) (pc : Nat) (ign : State → State) (P : State → State → List Bool) (hyp : List Bool := []) := ck (standsB s op f :: hyp) i s fun u =>
  let s1 := s.reach 7 9
  ([issuesB s1 u f pc, sB s1 u fun x => ign (own x)] ++ P s1 u : List Bool)
abbrev vw (fn : Nat) (x : Nat := 0) := fn + 5 * 2 ^ 6 + 3 * 2 ^ 11 + 4 * 2 ^ 16 + 6 * 2 ^ 21 + x
def vopIn (ve fn x : Nat) (f : State → State := id) : State :=
  let s := f (sq [2 + ve * 2 ^ 16, vw fn x, 10]); { s with ves := Tbl.set VeUnit.reset s.ves (Key.at 7 ve) ⟨[⟨⟨3, 0, 0, 2, 2⟩, 0, false⟩], false, 9, 7, []⟩ }
def vopT (ve fn : Nat) (i : Instr) (x : Nat := 0) (f : State → State := id) := let s := vopIn ve fn x f; let fe := fe [2 + ve * 2 ^ 16, vw fn x, 10]
  let s1 := s.reach 7 9; let v := vopOf fe.w1
  ck [standsB s 2 fe, v.fn == fn, (s1.ctxVes 7 1).testBit ve, !v.badInst, !v.badFmt, !s1.funcRefused 7 ve v, !s1.lateHold 7 ve 9 v.allReads v.allWrites, (s.ve 7 ve).acceptFrom ≤ 9, s1.mayStart 7 (unitVe ve) 2] i s fun u =>
  [issuesB s1 u fe 2, u.charged 7 (unitVe ve) = some 2, (u.ve 7 ve).acceptFrom = 10 + v.rep,
   sB s1 u fun x => { own x with charges := [], ves := [], pend := [], fresh := 0 }]
theorem wit_VectorOperationsStart_each : [(vopT 7 1 (.add 7 9) 0 (fun s => s)).1, (vopT 7 2 (.sub 7 9) 0 (fun s => s)).1, (vopT 7 3 (.mul 7 9) 0 (fun s => s)).1, (vopT 7 4 (.fma 7 9) 0 (fun s => s)).1, (vopT 7 5 (.max 7 9) 0 (fun s => s)).1, (vopT 7 6 (.min 7 9) 0 (fun s => s)).1, (vopT 7 7 (.cmp 7 9) (1*2^51) (fun s => s)).1, (vopT 7 8 (.sel 7 9) 0 (fun s => s)).1, (vopT 7 9 (.cvt 7 9) (1*2^35 - 2^35) (fun s => s)).1, (vopT 7 10 (.func 7 9) (9*2^53+2^58) (fun s => { regs s [(.VE_FTAB_STATUS_VALID, 7, 7, 0, 512), (.VE_FTAB_STATUS_EPOCH, 7, 7, 0, 3)] with pairEpoch := Tbl.set 0 [] (Key.at 7 7 9) 3 })).1, (vopT 7 11 (.rsum 7 9) 0 (fun s => s)).1, (vopT 7 12 (.rmax 7 9) 0 (fun s => s)).1, (vopT 7 13 (.perm 7 9) 0 (fun s => s)).1].all id = true := by decide +kernel
abbrev tr (u : Nat) : State := { sq [10] with charges := Tbl.set none (Tbl.set none [] (Key.at 7 0) (some 1)) (Key.at 7 u) (some 2), busyAt := Tbl.set 0 [] (Key.at 7 u) 700 }
def trT (u : Fin 96) (s : State) := let s1 := s.reach 7 (s.unitQuiet 7 u + s.idleBeats 7 2 + 1)
  ck [s.unitIdle 7 u 2] (.ticketRelease 7 u) s fun v => [v.charged 7 u = none, v.charged 7 0 = s.charged 7 0, kR s1 v [(.SEQ_SS_STATUS_YIELDING, 7, 0, 0)], sB s1 v fun x => { x with csr := [], charges := [] }]
theorem wit_VectorOperationsStart_release : [(trT 23 (tr 23)).1, (trT 0x5F (regs (tr 0x5F) [(.SEQ_SS_STATUS_YIELDING, 7, 0, 0, 1)])).1].all id = true := by decide +kernel

end Vops

/-! Witnesses about vector memory commands and streams. -/

namespace Streams

abbrev pend0 : List Pending := [.scalar 7 1 3 77 3, .seed 7 0x50 9 4, .seed 7 0x58 9 4, .vector 7 7 4 [1, 2] true 2 0 0, .scalar 7 1 6 9 1000]
abbrev b2 : State := (regs { booted with pend := pend0 } [(.SEQ_TKT_GRANT_GRANT, 7, 0, 2, 90)]).setBlock 7 0 ⟨some 2, false, false⟩
abbrev vin (w0 w1 : Nat) (started : Bool := false) : State := { b2 with ves := Tbl.set VeUnit.reset [] (Key.at 7 7) ⟨[⟨⟨BitVec.ofNat 64 w0, BitVec.ofNat 64 w1, 1, 2, 6⟩, 0x40400000, false⟩, ⟨⟨1, 0, 1, 2, 6⟩, 0, false⟩], started, 9, 7, [(1, [], false)]⟩, tktWait := Tbl.set 0 [] (Key.at 7 0x57) 3 }
abbrev cm (s : State) : Cmd := ((s.ve 7 7).queue.getD 0 ⟨⟨0, 0, 0, 0, 0⟩, 0, false⟩).cmd
def start (w0 w1 kind : Nat) (bad : Cmd → Bool) (i : Instr) := let s := regs (vin w0 w1) [(.VE_FTAB_STATUS_VALID, 7, 7, 0, 2^32-1)]; let c := cm s
  let s1 := (s.reach 7 6).tktClose 7 (unitVe 7) 1
  ck [c.kind == kind, !bad c, (s.reach 7 6).mayStart 7 (unitVe 7) 2] i s fun u => [u.ve 7 7 = { s1.ve 7 7 with started := true }, u.charged 7 (unitVe 7) = some 2,
    kind != 0xE || !u.flagBit .VE_FTAB_STATUS_VALID 7 7 0 (ftPair c), kind == 0xE || decide (u.csr = s1.csr), kR s1 u [(.VE_FTAB_STATUS_VALID, 7, 7, 0)], sB s1 u fun y => { y with csr := [], ves := [], charges := [] }]
theorem wit_VectorMemoryCommands_starts : [(start 1 0 1 vmBad (.vld 7 7)).1, (start (2 + 2 ^ 13 + 15 * 2 ^ 9) 0 2 vmBad (.vst 7 7)).1, (start (0xD + 2 ^ 15 * 5) 0 0xD spBad (.scalePick 7 7)).1, (start (0xE + 31 * 2 ^ 4) 0 0xE ftBad (.ftabLoad 7 7)).1].all id = true := by decide +kernel
def doneB (a u : State) (c : Cmd) : List Bool := [u.ve 7 7 = { a.ve 7 7 with queue := (a.ve 7 7).queue.tail, started := false, pins := if c.kind = 2 then [] else (a.ve 7 7).pins },
  u.cnt 7 1 (unitVe 7) = (a.cnt 7 1 (unitVe 7) + 1) % 2 ^ 32, kR a u [(.MESH_CNT_FLITS_COUNT, 7, 0, 0), (.MESH_PEAK_PEAK, 7, 0, 0)], sB a u fun y => { y with csr := [], ves := [], cnts := [], crossings := [], busyAt := [] }]
abbrev spc (vd : Bool) := vin (0xD + 3 * 2 ^ 9 + (if vd then 2 ^ 14 else 0) + 2 ^ 15 * 5) 64 true
def spT (s : State) := let c := cm s; let s1 := if spVdEn c then s.reachVe 7 7 [spVd c] else s
  let r := (s1.writeWord (unitReq c.slot) (sramAddr 7 (vmAddr c)) (leNat (spRecord c 0x40400000 (s.fld .NUM_STEP_STEP mh0 c.slot))) false false).meshWrite 7 (.ve 7) (sramAddr 7 (vmAddr c))
  ck [c.kind = 0xD, s1.judge (unitReq c.slot) (sramAddr 7 (vmAddr c)) = .ok] (.vmemComplete 7 7) s fun u => if spVdEn c then [true] else doneB r u c
theorem wit_VectorMemoryCommands_sp_done : (spT (spc false)).1 = true := by decide +kernel
theorem wit_VectorMemoryCommands_sp_done_vd : (spT (spc true)) = (true, true) := by decide +kernel
theorem wit_VectorMemoryCommands_ve_seed : (ck [] (.veSrSeedWrite .supervisor 7 7 0) b2 fun u => [u.fld .VE_SR_SEED_SEED 7 7 = 0, (u.ve 7 7).gen = 1, u.resp = .written, kR b2 u [(.VE_SR_SEED_SEED, 7, 7, 0)], sB b2 u fun y => { y with csr := [], ves := [], resp := .none }]) = (true, true) := by decide +kernel
abbrev dsc : List Nat := [1 + 1 * 2 ^ 4 + 1 * 2 ^ 8 + 3 * 2 ^ 11 + 8 * 2 ^ 16, 64, 4096, 4 + 8 * 2 ^ 32, 8, 0,0,0,0,0,0,0,0, 0,0,0,0,0]
abbrev sc : Cmd := ⟨BitVec.ofNat 64 (1 + 3 * 2 ^ 16 + 0xABCD * 2 ^ 48), 0, 1, 2, 6⟩
abbrev st0 : State := regs { b2 with konst := Memory.writeBytes [] (2 ^ 18 * 7 + 8 * (10 + 3)) (dsc.flatMap (leBytes 8)), ses := Tbl.set SeUnit.reset [] (Key.at 7 7) ⟨[sc, sc], 1⟩, tktWait := Tbl.set 0 [] (Key.at 7 0x5F) 3 }
   [(.SE_DESC_BASE_VALID, 7, 7, 2, 1), (.SE_DESC_BASE_BASE, 7, 7, 2, 10), (.SE_DESC_BASE_LEN, 7, 7, 2, 21), (.SE_CH_WMARK_WMARK, 7, 7, 3, 4)]
def strT (s : State) := let sk := ((s.reach 7 6).tktClose 7 (unitSe 7) 1).streamChecks 7 7 sc
  match sk with
  | (.run x, s1) => ck [(s.seUnit 7 7).queue = [sc, sc], (s.stream 7 7 3).isNone, (s.reach 7 6).mayStart 7 (unitSe 7) 2] (.stream 7 7 3) s fun u =>
     [u.stream 7 7 3 = some x, (u.seUnit 7 7).queue = [sc], u.charged 7 (unitSe 7) = some 2, u.fld .SE_CH_STATUS_STATE 7 7 3 = 1, u.fld .SE_CH_STATUS_SLOT 7 7 3 = 2, u.fld .SE_CH_STATUS_CTX 7 7 3 = 1,
      u.fld .SE_CH_STATUS_DESC 7 7 3 = 3, u.fld .SE_CH_STATUS_TAG 7 7 3 = 0xABCD, u.fld .SE_CH_WMARK_WMARK 7 7 3 = 0,
      kR s1 u [(.SE_CH_STATUS_STATE, 7, 7, 3), (.SE_CH_STATUS_SLOT, 7, 7, 3), (.SE_CH_STATUS_CTX, 7, 7, 3), (.SE_CH_STATUS_DESC, 7, 7, 3), (.SE_CH_STATUS_TAG, 7, 7, 3), (.SE_CH_WMARK_WMARK, 7, 7, 3)],
      sB s1 u fun y => { y with csr := [], ses := [], streams := [], charges := [] }]
  | _ => (false, false)
theorem wit_StreamsStartAndEnd_stream : (strT st0).1 = true := by decide +kernel
abbrev run1 (d : List Nat) : StreamRun := { cmd := sc, desc := d, kexp := 0, step := 0, w := 1, started := 0, since := 0, entry := none, source := none, outcome := 0, dropped := false, hollow := false, held := 0, poolWait := none, ending := none, census := censusZero, censusSealed := false }
abbrev str (d : List Nat) (st : Nat := 1) : State := { regs st0 [(.SE_CH_STATUS_STATE, 7, 7, 3, st)] with streams := Tbl.set none [] (Key.at 7 7 3) (some (run1 d)) }
theorem wit_StreamsStartAndEnd_streamEnd : (let s := str dsc; let m := s.streamMove 7 7 3 (run1 dsc); ck [s.stream 7 7 3 = some (run1 dsc), m.stop.isNone] (.streamEnd 7 7 3) s fun u => [(u.stream 7 7 3).isNone, u.fld .SE_CH_STATUS_STATE 7 7 3 = 0,
  u.fld .SE_CH_WMARK_WMARK 7 7 3 = m.w % 2 ^ 41, m.w = 4, u.fld .SE_CNT_STREAMS_COUNT 7 7 = m.st.fld .SE_CNT_STREAMS_COUNT 7 7 + 1, u.cnt 7 1 (unitSe 7) = m.st.cnt 7 1 (unitSe 7) + 1, u.mem = m.st.mem]).1 = true := by decide +kernel
abbrev dsm : List Nat := dsc.set 0 (0 + 1 * 2 ^ 4 + 1 * 2 ^ 8 + 3 * 2 ^ 11 + 8 * 2 ^ 16) |>.set 1 0x7FFFFFFFF000
theorem wit_StreamsStartAndEnd_streamFault : (let s := str dsm; let m := s.streamMove 7 7 3 (run1 dsm); match m.stop with
  | some (.fault cause va dst) => ck [] (.streamFault 7 7 3) s fun u => [u.fld .SE_CH_STATUS_STATE 7 7 3 = 2, u.fld .SE_CH_FAULT_VA 7 7 3 = va, u.fld .SE_CH_FAULT_CAUSE 7 7 3 = cause, u.fld .SE_CH_FAULT_SIDE 7 7 3 = (if dst then 1 else 0),
     u.fld .SE_EVENTS_FAULT 7 7 = 1, u.fld .SE_CNT_FAULT_COUNT 7 7 = 1, u.fld .SE_CH_WMARK_WMARK 7 7 3 = m.w % 2 ^ 41, (u.stream 7 7 3).isSome]
  | _ => (false, false)).1 = true := by decide +kernel
theorem wit_StreamsStartAndEnd_resume : (let s := str dsc 2; ck [] (.seChResume .supervisor 7 7 3) s fun u => [u.fld .SE_CH_STATUS_STATE 7 7 3 = 1, wroteB s u [(.SE_CH_STATUS_STATE, 7, 7, 3)]]).1 = true := by decide +kernel
theorem wit_StreamsStartAndEnd_fail : (let s := str dsc 2; ck [] (.seChFail .supervisor 7 7 3) s fun u => [decide (u = { s.endStream 7 7 3 (run1 dsc) errXlate with resp := .written })]).1 = true := by decide +kernel
theorem wit_StreamsStartAndEnd_limit : (let s := { str dsc 2 with now := 100000000 }; ck [100000 * max 1 (s.fld .SE_CTL_FAULT_LIMIT 7 7) < s.now] (.faultLimitExpiry 7 7 3) s fun u => let v := s.endStream 7 7 3 (run1 dsc) errXlate
  [u.fld .SE_EVENTS_LIMIT 7 7 = 1, raisedB v u .EV_SE_FAULT_LIMIT 7, kR v u [(.SE_EVENTS_LIMIT, 7, 7, 0)], sB v u fun y => { y with csr := [], events := [] }]).1 = true := by decide +kernel
abbrev hld : State := { str dsc 2 with now := 100000, streams := Tbl.set none [] (Key.at 7 7 3) (some { run1 dsc with held := 3 }) }
theorem wit_StreamEngineRegisters_pool : (ck [hld.poolHeld 7 7 ≠ 0, !hld.poolTold.get false (Key.at 7 7)] (.poolStall 7 7) hld fun u => [u.fld .SE_EVENTS_POOL_STALL 7 7 = 1, raisedB hld u .EV_SE_POOL_STALL 7, kR hld u [(.SE_EVENTS_POOL_STALL, 7, 7, 0)], u.poolTold.get false (Key.at 7 7), sB hld u fun y => { y with csr := [], events := [], poolTold := [] }]).1 = true := by decide +kernel
theorem wit_StreamEngineRegisters_seed : (ck [] (.seSrSeedWrite .supervisor 7 7 7) b2 fun u => [u.fld .SE_SR_SEED_SEED 7 7 = 7, (u.seUnit 7 7).gen = 7, kR b2 u [(.SE_SR_SEED_SEED, 7, 7, 0)], sB b2 u fun y => { y with csr := [], ses := [], resp := .none }]) = (true, true) := by decide +kernel
theorem wit_StreamEngineRegisters_inval : (ck [] (.xltInvalWrite .supervisor 3 1) b2 fun u => [u.fld .XLT_INVAL_BUSY iod0 3 = 1, wroteB b2 u [(.XLT_INVAL_BUSY, iod0, 3, 0)]]) = (true, true) := by decide +kernel
theorem wit_StreamEngineRegisters_inval_busy : (let s := regs b2 [(.XLT_INVAL_BUSY, iod0, 3, 0, 1)]; ck [] (.xltInvalWrite .supervisor 3 1) s fun u => [decide (u = { s with resp := .busError })]) = (true, true) := by decide +kernel
theorem wit_StreamEngineRegisters_invaldone : (let s := regs b2 [(.XLT_INVAL_BUSY, iod0, 3, 0, 1)]; ck [] (.xltInvalDone 3) s fun u => [u.fld .XLT_INVAL_BUSY iod0 3 = 0, kR s u [(.XLT_INVAL_BUSY, iod0, 3, 0)], sB s u fun y => { y with csr := [] }]) = (true, true) := by decide +kernel

end Streams

/-! Witnesses about votes and accesses. -/

namespace Commits

def stepped (a u : State) (slot : Nat) (v : Vote) (commit : Bool) (reasons : Nat) : List Bool :=
  [u.fld .NUM_STEP_STEP mh0 slot = (v.step + 1) % 2 ^ 32, u.fld .NUM_STEP_RESOLVED mh0 slot = v.step % 2 ^ 32, u.fld .CMT_LAST_COMMIT mh0 slot = (if commit then 1 else 0), u.fld .CMT_LAST_REASONS mh0 slot = reasons % 16,
   u.fld .CMT_LAST_STEP mh0 slot = v.step % 2 ^ 32, u.fld .CMT_CFG_SKIP_NEXT mh0 slot = 0, u.fld .CMT_CNT_COMMIT_COUNT mh0 slot = a.fld .CMT_CNT_COMMIT_COUNT mh0 slot + (if commit then 1 else 0),
   u.fld .CMT_CNT_SKIP_COUNT mh0 slot = a.fld .CMT_CNT_SKIP_COUNT mh0 slot + (if commit then 0 else 1), u.mem = a.mem, u.patterns = a.patterns, u.colls = a.colls]
abbrev pend0 : List Pending := [.scalar 7 1 3 77 3, .seed 7 0x50 9 4, .seed 7 0x58 9 4]
abbrev vt : Vote := ⟨41, [], none, false⟩
abbrev vs (root skip : Nat) (next : Nat := 17) : State := regs { booted with pend := pend0, votes := Tbl.set none [] (Key.at 3) (some vt), mem := [(5, 6)] } [(.CMT_CFG_ROOT, mh0, 3, 0, root), (.CMT_CFG_SKIP_NEXT, mh0, 3, 0, skip), (.CMT_CFG_NEXT_POS, mh0, 3, 0, next), (.NUM_STEP_STEP, mh0, 3, 0, 41), (.REC_JOB_GEN_GEN, iod0, 3, 0, 2), (.HLM_POS_POS, iod0, 0, 0, 17)]
theorem wit_VotesAreFormedAndResolved_ready : (let s := vs 0 1; ck [(s.vote 3) = some vt, !s.segmentsWait 3] (.voteLocalReady 3) s fun u => [u.vote 3 = some { vt with ready := some s.now }, u.fld .CMT_STATUS_STATE mh0 3 = 2, u.fld .CMT_STATUS_LOCAL mh0 3 = 0, u.fld .CMT_STATUS_REASONS mh0 3 = 8,
   kR s u [(.CMT_STATUS_STATE, mh0, 3, 0), (.CMT_STATUS_LOCAL, mh0, 3, 0), (.CMT_STATUS_REASONS, mh0, 3, 0)], sB s u fun x => { x with csr := [], votes := [] }]).1 = true := by decide +kernel
theorem wit_VotesAreFormedAndResolved_root_ready : (let s := vs 1 0; ck [s.fld .CMT_CFG_NEXT_POS mh0 3 = s.myPos] (.voteLocalReady 3) s fun u => stepped s u 3 vt true 0).1 = true := by decide +kernel
abbrev msg (kind gen commit reasons step : Nat) : List Byte := leBytes 1 3 ++ [3, 0, 0, 0, 0] ++ leBytes 2 gen ++ List.replicate 8 0 ++ leBytes 1 kind ++ leBytes 1 commit ++ leBytes 1 reasons ++ [0] ++ leBytes 4 step ++ List.replicate 100 0
abbrev ms (s : State) (m : List Byte) : State := { s with inbox := [(8, m)] }
def got (s : State) (k : Nat) : State := match s.takeMsg (fun m => msgKind m = 3 && field m 0x10 1 = k) with | some (_, _, s1) => s1 | none => s
theorem wit_VotesAreFormedAndResolved_result : (let s := ms (vs 0 1) (msg 2 2 1 0 41); let s1 := got s 2; ck [(s.takeMsg (fun m => msgKind m = 3 && field m 0x10 1 = 2)).isSome, s1.voteGenOk (msg 2 2 1 0 41)] .voteResult s fun u => stepped s1 u 3 vt true 0).1 = true := by decide +kernel
theorem wit_VotesAreFormedAndResolved_result_gen : (let s := ms (vs 0 1) (msg 2 9 1 0 41); let s1 := got s 2; ck [!s1.voteGenOk (msg 2 9 1 0 41)] .voteResult s fun u => [u.fld .CMT_CNT_DISCARD_COUNT mh0 3 = 1, kR s1 u [(.CMT_CNT_DISCARD_COUNT, mh0, 3, 0)], sB s1 u fun x => { x with csr := [] }]).1 = true := by decide +kernel
theorem wit_VotesAreFormedAndResolved_gather_root : (let s := ms (vs 1 0 18) (msg 1 2 1 0 41); let s1 := got s 1; ck [s1.voteGenOk (msg 1 2 1 0 41)] .voteGather s fun u => stepped s1 u 3 vt true 0 ++ ([u.awaited 3 = some 41] : List Bool)).1 = true := by decide +kernel
theorem wit_VotesAreFormedAndResolved_gather_held : (let s := ms (vs 0 0 18) (msg 1 2 1 0 41); let s1 := got s 1; ck [] .voteGather s fun u => [u.gathers.get none (Key.at 3) = some (msg 1 2 1 0 41), sB s1 u fun x => { x with gathers := [] }]) = (true, true) := by decide +kernel
theorem wit_VotesAreFormedAndResolved_timeout : (let s := { vs 0 0 with now := 5 + usTicks * 1000 * 1000000, votes := Tbl.set none [] (Key.at 3) (some { vt with ready := some 5 }) }; ck [5 + max (s.fld .CMT_CFG_LIMIT mh0 3) 1 * 1000 * usTicks ≤ s.now] (.voteTimeout 3) s fun u => [u.fld .CMT_STATUS_TIMEOUT mh0 3 = 1,
   u.vote 3 = some { vt with ready := some 5, timedOut := true }, raisedB s u .EV_CMT_TIMEOUT mh0, kR s u [(.CMT_STATUS_TIMEOUT, mh0, 3, 0)], sB s u fun x => { x with csr := [], votes := [], events := [] }]) = (true, true) := by decide +kernel
theorem wit_VotesAreFormedAndResolved_numstep : (let s := regs (vs 0 0) [(.NUM_OVF_OVF, mh0, 3, 0, 1)]; ck [] (.numStepWrite .supervisor 3 0xF00000007) s fun u => [u.fld .NUM_STEP_STEP mh0 3 = 7, u.fld .NUM_OVF_STEP mh0 3 = 7, u.fld .NUM_OVF_OVF mh0 3 = 0, wroteB s u [(.NUM_STEP_STEP, mh0, 3, 0), (.NUM_OVF_STEP, mh0, 3, 0), (.NUM_OVF_OVF, mh0, 3, 0)]]).1 = true := by decide +kernel
abbrev up1 : Update := ⟨3, 40, [], 0⟩
theorem wit_VotesAreFormedAndResolved_update : (let s := { vs 0 0 with updates := [up1, ⟨2, 1, [], 0⟩] }; let r := s.applyUpdate up1; ck [r.1] (.updateComplete 3) s fun u => [u.updates = r.2.updates.erase up1, u.votes = r.2.votes, u.mem = r.2.mem, u.groups = r.2.groups, u.cnts = (r.2.bumpSlot 3 0x62).cnts]).1 = true := by decide +kernel
abbrev ca := csrAddr 7 8
abbrev bk : State := { regs booted [] with pend := pend0 }
def refd (c : Instr) := ck [] c bk fun u => [u.resp = .busError, kF bk u [.MESH_CNT_FLITS_COUNT, .MESH_PEAK_PEAK, .MESH_CNT_FLITS_COUNT], sB bk u fun x => { x with csr := [], resp := .none, crossings := [] }]
theorem wit_RegisterAccessWidth_width : [(refd (.csrRegisterWrite .supervisor (ca + 4) 0)).1, (refd (.memRead .supervisor (ca + 1) 8)).1, (refd (.memRead .supervisor ca 4)).1, (refd (.memWrite .supervisor ca [1, 2] 0)).1].all id = true := by decide +kernel
theorem wit_RegisterAccessWidth_w5 : (let s1 := bk.csrEnter ca; match s1.csrRead .supervisor ca with | some v => ck [] (.memRead .supervisor ca 8) bk fun u => [decide (u = { s1.csrLeave ca with resp := .reg (BitVec.ofNat 64 v) })] | none => (false, false)) = (true, true) := by decide +kernel
theorem wit_RegisterAccessWidth_w6 : (let bs := leBytes 8 1; let s1 := bk.csrEnter (csrAddr 7 8); match s1.csrWrite .supervisor (csrAddr 7 8) 1 with | some t => ck [] (.memWrite .supervisor (csrAddr 7 8) bs 0) bk fun u => [decide (u = { t.csrLeave (csrAddr 7 8) with resp := .written })] | none => (false, false)) = (true, true) := by decide +kernel
abbrev od := regs bk [(.DIE_STATUS_IN_SERVICE, 7, 0, 0, 0)]
theorem wit_DieOutOfServiceAnswers_out1 : (ck [(State.csrPlace ca) == some (7, 8), (locate 7 8).isSome] (.csrRegisterWrite .supervisor ca 5) od fun u => [decide (u = { od with resp := .written })]) = (true, true) := by decide +kernel
theorem wit_DieOutOfServiceAnswers_out2 : (ck [] (.memRead .supervisor ca 8) od fun u => [match u.resp with | .reg _ => true | _ => false, sB od u fun x => { x with resp := .none }]) = (true, true) := by decide +kernel
theorem wit_DieOutOfServiceAnswers_out3 : (ck [] (.csrRegisterWrite .supervisor (csrAddr 7 0x100) 5) od fun u => [decide (u = { od with resp := .busError })]).1 = true := by decide +kernel
theorem wit_DieOutOfServiceAnswers_out4 : (ck [] (.memRead .supervisor (csrAddr 7 0x100) 8) od fun u => [decide (u = { od with resp := .busError })]).1 = true := by decide +kernel
theorem wit_DieOutOfServiceAnswers_lock : (ck [] (.dieBootLockWrite .supervisor 13 3) bk fun u => [u.fld .DIE_BOOT_LOCK_LOCK (dieOf 13) = 1, wroteB bk u [(.DIE_BOOT_LOCK_LOCK, dieOf 13, 0, 0)]]) = (true, true) := by decide +kernel
theorem wit_DieOutOfServiceAnswers_lock0 : (ck [] (.dieBootLockWrite .supervisor 13 2) bk fun u => [u.fld .DIE_BOOT_LOCK_LOCK (dieOf 13) = 0, wroteB bk u [(.DIE_BOOT_LOCK_LOCK, dieOf 13, 0, 0)]]) = (true, true) := by decide +kernel
abbrev sa := sramAddr 7 0x20
abbrev mo := bk.setBlock 7 0 ⟨some 2, false, false⟩
abbrev mz := bk.setBlock 7 0 ⟨some 2, true, true⟩
theorem wit_MemoryAccessesAnswer_m1 : (ck [(wordsOf sa 8).any fun w => mz.judge (unitReq 2) w = .wait] (.memRead (unitReq 2) sa 8) mz fun u => [decide (u = { mz with memWait := mz.memWait ++ [.read (unitReq 2) sa 8], resp := .waits })]) = (true, true) := by decide +kernel
theorem wit_MemoryAccessesAnswer_m2 : (ck [(wordsOf sa 8).any fun w => mz.judge (unitReq 2) w = .wait] (.memWrite (unitReq 2) sa (leBytes 8 1) 3) mz fun u => [decide (u = { mz with memWait := mz.memWait ++ [.write (unitReq 2) sa (leBytes 8 1) 3], resp := .waits })]) = (true, true) := by decide +kernel
theorem wit_MemoryAccessesAnswer_m3 : (ck [mo.judge (unitReq 2) sa ≠ .wait] (.memRead (unitReq 2) (sa + 5) 27) mo fun u => [decide (u = { (mo.readPiece (unitReq 2) (sa + 5) 27).2 with resp := .words [(mo.readPiece (unitReq 2) (sa + 5) 27).1] })]).1 = true := by decide +kernel
theorem wit_MemoryAccessesAnswer_m4 : (let s1 := mo.meshOuter sa true; let r := s1.storeMeetsPoison (unitReq 2) (sa, 5, [1, 2]); ck [mo.judge (unitReq 2) sa = .ok, mo.windowLets (unitReq 2) sa, !r.1] (.memWrite (unitReq 2) (sa + 5) [1, 2] 1) mo fun u => [decide (u = { r.2.mergeWord (unitReq 2) sa 5 [1, 2] (tagPoison 1) (tagSealed 1) with resp := .words [.written] })]).1 = true := by decide +kernel
theorem wit_MemoryAccessesAnswer_tx : (let r := mo.fetchWord .supervisor sa; ck [mo.judge .supervisor sa = .ok, !tagSealed r.1.tag, !tagPoison r.1.tag] (.dataPortTransmit 1 (sa + 3) 5) mo fun u => [decide (u = { r.2 with out := .dataPort 1 (((leBytes 32 r.1.data).drop 3).take 5) :: r.2.out })]).1 = true := by decide +kernel
abbrev mse := mo.writeWord .supervisor sa 77 false true
theorem wit_MemoryAccessesAnswer_tx_sealed : (let r := mse.fetchWord .supervisor sa; ck [mse.judge .supervisor sa = .ok, tagSealed r.1.tag] (.dataPortTransmit 1 (sa + 3) 5) mse fun u => [u.fld .TS_CNT_BLOCK_COUNT iod0 = 1, raisedB r.2 u .EV_TS_BLOCK iod0, u.out = r.2.out, kR r.2 u [(.TS_CNT_BLOCK_COUNT, iod0, 0, 0)], sB r.2 u fun x => { x with csr := [], events := [] }]).1 = true := by decide +kernel
abbrev mpo := mo.writeWord .supervisor sa 77 true false
theorem wit_MemoryAccessesAnswer_tx_poison : (let r := mpo.fetchWord .supervisor sa; ck [mpo.judge .supervisor sa = .ok, tagPoison r.1.tag] (.dataPortTransmit 1 (sa + 3) 5) mpo fun u => [decide (u = r.2)]).1 = true := by decide +kernel

end Commits

/-! Witnesses about memory controllers and inputs. -/

namespace Memories

abbrev pend0 : List Pending := [.scalar 7 1 3 77 3, .seed 7 0x50 9 4, .seed 7 0x58 9 4]
abbrev bk : State := regs { booted with pend := pend0 } [(.SCRUB_CTL_EN, mhDie 3, 0, 0, 1), (.SCRUB_CTL_EN, iodDie 1, 0, 0, 1)]
def zc (c : Instr) (s : State) (f : State → State) (P : State → List Bool) := ck [] c s fun u => ([sB s u fun y => f { y with mem := [], side := [], hcLines := [] }] ++ P u : List Bool)
abbrev mz := (bk.setBlock 7 2047 ⟨some 2, true, true⟩).writeWord .supervisor (sramAddr 7 (2 ^ 16 * 2047)) 77 false false
theorem wit_MemoryControllersAct_zero_sram : (zc (.zeroingComplete 2 7 2047) mz (fun y => { y with blocks := [] }) fun u => [u.block 7 2047 = ⟨some 2, false, false⟩, u.mem = []]) = (true, true) := by decide +kernel
abbrev fz := bk.setFrame 0 5 ⟨.slot 1, .ordinary, false, false, true, 3, true⟩
theorem wit_MemoryControllersAct_zero_frame : (zc (.zeroingComplete 0 7 5) fz (fun y => { y with frames := [] }) fun u => [u.frame 0 5 = ⟨.slot 1, .ordinary, false, false, false, 0, false⟩]) = (true, true) := by decide +kernel
abbrev fz1 := bk.setFrame 1 5 ⟨.slot 1, .ordinary, false, false, true, 3, true⟩
theorem wit_MemoryControllersAct_zero_frame_t2 : (zc (.zeroingComplete 1 7 5) fz1 (fun y => { y with frames := [] }) fun u => [u.frame 1 5 = ⟨.slot 1, .ordinary, false, false, false, 0, false⟩]) = (true, true) := by decide +kernel
def scr (k : Fin 6) (pos : Nat) := let die := if k.val < 4 then mhDie k else iodDie (k - 4); let s := { bk with scrubs := Tbl.set 0 [] (Key.at die) pos }
  ck [s.dieUp die, !s.halted die, s.flag .SCRUB_CTL_EN die] (.scrubWord k) s fun u => [decide (u = { s with scrubs := s.scrubs.set 0 (Key.at die) (pos + 1) })]
theorem wit_MemoryControllersAct_scrub : (scr 3 70) = (true, true) := by decide +kernel
abbrev fd := regs bk [(.MEM_FRAME_IDX_TIER, mh0, 0, 0, 0), (.MEM_FRAME_IDX_FRAME, mh0, 0, 0, 589823)]
theorem wit_MemoryControllersAct_frame_data_same : (let s := fd.setFrame 0 589823 ⟨.slot 1, .ordinary, false, false, false, 0, false⟩; ck [(ownerOf 5).isSome, s.entryFits 0 589823 ((ownerOf 5).getD .free) (frameUseOf 0), decide ((ownerOf 5).getD .free = (s.frame 0 589823).owner)] (.memFrameDataWrite .supervisor 5) s fun u => [decide (u = { s with resp := .written })]) = (true, true) := by decide +kernel
theorem wit_MemoryControllersAct_frame_data : (let s := fd; ck [(ownerOf 1).isSome, s.entryFits 0 589823 ((ownerOf 1).getD .free) (frameUseOf 0)] (.memFrameDataWrite .supervisor (1 + 32)) s fun u => [(u.frame 0 589823).owner = (ownerOf 1).getD .free, (u.frame 0 589823).strong, !(u.frame 0 589823).isSealed, (u.frame 0 589823).zeroing, u.resp = .written, sB s u fun y => { y with frames := [], zeroBatch := 0, resp := .none }]) = (true, true) := by decide +kernel
theorem wit_MemoryControllersAct_sramClass : (let s := (bk.setBlock 7 (64 * 31 + 3) ⟨some 2, false, false⟩); ck [] (.sramClassWrite .supervisor 7 31 9) s fun u => [u.fld .SRAM_CLASS_STRONG 7 0 31 = 9, (u.block 7 (64 * 31 + 3)).owner = some 2, (u.block 7 (64 * 31 + 3)).zeroing, (u.block 7 (64*31)).zeroing, !(u.block 7 (64*31+1)).zeroing, kR s u [(.SRAM_CLASS_STRONG, 7, 0, 31)], sB s u fun y => { y with csr := [], blocks := [], resp := .none }]) = (true, true) := by decide +kernel
def raw (ctl : Fin 62) (a : Nat) (P : State → State → Nat → Nat → List Bool) (c : Accessor → Fin 62 → Instr) (good : Bool) := let d := (rawBlock ctl).1; let n := (rawBlock ctl).2; let s := regs bk [(.ERR_RAW_ADDR_ADDR, d, n, 0, a / 32), (.ERR_RAW_DATA_DATA, d, n, 1, 5), (.ERR_RAW_SIDE_SIDE, d, n, 0, 9)]
  ck [s.fld .ERR_RAW_ADDR_ADDR d n * 32 = a, (s.errBlock a == some (d, n)) == good, s.dieUp d] (c .supervisor ctl) s fun u => P s u d n
theorem wit_MemoryControllersAct_raw_refused : [(raw 0 (sramAddr 7 0) (fun s u d n => [u.fld .ERR_RAW_CMD_REFUSED d n = 1, wroteB s u [(.ERR_RAW_CMD_REFUSED, d, n, 0)]]) .rawRead false).1, (raw 0 (sramAddr 7 0) (fun s u d n => [u.fld .ERR_RAW_CMD_REFUSED d n = 1, wroteB s u [(.ERR_RAW_CMD_REFUSED, d, n, 0)]]) .rawWrite false).1].all id = true := by decide +kernel
theorem wit_MemoryControllersAct_raw_read : (raw 0 0 (fun s u d n => [wroteB s u [(.ERR_RAW_DATA_DATA, d, n, 0), (.ERR_RAW_DATA_DATA, d, n, 1), (.ERR_RAW_DATA_DATA, d, n, 2), (.ERR_RAW_DATA_DATA, d, n, 3), (.ERR_RAW_SIDE_SIDE, d, n, 0)]]) .rawRead true).1 = true := by decide +kernel
theorem wit_MemoryControllersAct_raw_write : (raw 0 0 (fun s u d n => [sB ((s.closeMerge 0).storeRaw 0 (5 * 2 ^ 64) 9) u fun y => { y with hcLines := [], resp := .none}, u.resp = .written, u.hcLines = []]) .rawWrite true) = (true, true) := by decide +kernel
abbrev st3 := regs { bk with now := 100 * secTicks } [(.PWR_STATUS_SERVING, iod0, 0, 0, 3)]
def evs : List (Instr × Ev × Nat) := [(.inputReversed 1, .EV_PWR_IN_REVERSED, 4), (.inputOvervoltage 1, .EV_PWR_OVERVOLT, 1), (.inputOvercurrent 1, .EV_PWR_OVERCURRENT, 2), (.inputLost 1, .EV_PWR_IN_LOST, 3)]
abbrev status := [Fld.PWR_STATUS_SERVING, .PWR_STATUS_SINGLE, .PWR_STATUS_LOST, .PWR_STATUS_REVERSED, .PWR_STATUS_OVERVOLT, .PWR_STATUS_LATCHED, .PWR_CNT_TRIP_COUNT]
abbrev clocks := [Fld.CLK_STEP_CAP, .CLK_STEP_BUSY]
theorem wit_InputStagesOpenAndClose_in_3 : (evs.all fun x => (ck [] x.1 st3 fun u => [u.stage 1 = ⟨x.2.2, st3.now, if x.2.2 = 2 then [st3.now] else []⟩, u.stage 0 = st3.stage 0, raisedB st3 u x.2.1 carrierDie, u.fld .PWR_STATUS_SERVING iod0 = 1, u.fld .PWR_STATUS_SINGLE iod0 = 1, u.fld .PWR_STATUS_LOST iod0 = 0,
   (List.range 12).all fun k => u.capBy .single k == 3, kF st3 u (status ++ clocks), sB st3 u fun x => { x with csr := [], stages := [], events := [], caps := [], clocks := [] }]) == (true, true)) = true := by decide +kernel
abbrev stn := regs st3 [(.PWR_STATUS_SERVING, iod0, 0, 0, 1), (.PWR_STATUS_SINGLE, iod0, 0, 0, 1)]
abbrev stt : State := { stn with stages := Tbl.set ⟨0, 0, []⟩ [] (Key.at 0 0 1) ⟨2, 7, [90 * secTicks, 80 * secTicks, 1 * secTicks]⟩ }
theorem wit_InputStagesOpenAndClose_in_n : (evs.all fun x => (ck [] x.1 stt fun u => [u.stage 1 = ⟨x.2.2, stn.now, if x.2.2 = 2 then [stn.now, 90 * secTicks, 80 * secTicks] else [90 * secTicks, 80 * secTicks, 1 * secTicks]⟩, u.stage 0 = stt.stage 0, raisedB stt u x.2.1 carrierDie, u.fld .PWR_STATUS_SERVING iod0 = 1, u.fld .PWR_STATUS_SINGLE iod0 = 1, u.fld .PWR_STATUS_LOST iod0 = 0,
   kF stt u status, sB stt u fun x => { x with csr := [], stages := [], events := [] }]) == (true, true)) = true := by decide +kernel
theorem wit_InputStagesOpenAndClose_in_curr : (ck [] (.inputOvercurrent 1) stt fun u => [u.fld .PWR_CNT_TRIP_COUNT iod0 = 1, u.flagBit .PWR_STATUS_LATCHED iod0 0 0 1]) = (true, true) := by decide +kernel
theorem wit_InputStagesOpenAndClose_in_rev : (ck [] (.inputReversed 1) stt fun u => [u.flagBit .PWR_STATUS_REVERSED iod0 0 0 1]) = (true, true) := by decide +kernel
theorem wit_InputStagesOpenAndClose_in_ov : (ck [] (.inputOvervoltage 1) stt fun u => [u.flagBit .PWR_STATUS_OVERVOLT iod0 0 0 1]) = (true, true) := by decide +kernel
abbrev stl := regs st3 [(.PWR_STATUS_SERVING, iod0, 0, 0, 2)]
theorem wit_InputStagesOpenAndClose_in_last : (evs.all fun x => (ck [] x.1 stl fun u => [u.stage 1 = ⟨x.2.2, st3.now, if x.2.2 = 2 then [st3.now] else []⟩, u.stage 0 = st3.stage 0, u.fld .PWR_STATUS_SERVING iod0 = 0, u.fld .PWR_STATUS_LOST iod0 = 1, u.resetDue, u.mem = stl.mem, u.evLog = stl.evLog]) == (true, true)) = true := by decide +kernel
abbrev sre := { stn with stages := Tbl.set ⟨0, 0, []⟩ [] (Key.at 0 0 1) ⟨1, 99 * secTicks, []⟩ }
theorem wit_InputStagesOpenAndClose_reclose : (let s := regs sre [(.PWR_STATUS_OVERVOLT, iod0, 0, 0, 2)]; ck [] (.stageReclose 1) s fun u => [u.stage 1 = { s.stage 1 with why := 0, since := s.now }, u.fld .PWR_STATUS_SERVING iod0 = 3, !u.flagBit .PWR_STATUS_OVERVOLT iod0 0 0 1, kR s u [(.PWR_STATUS_SERVING, iod0, 0, 0), (.PWR_STATUS_OVERVOLT, iod0, 0, 0)], sB s u fun x => { x with csr := [], stages := [] }]).1 = true := by decide +kernel
theorem wit_InputStagesOpenAndClose_reclose_last : (let s := regs sre [(.PWR_STATUS_SERVING, iod0, 0, 0, 0)]; ck [] (.stageReclose 1) s fun u => [u.stage 1 = { s.stage 1 with why := 0, since := s.now }, u.fld .PWR_STATUS_SERVING iod0 = 2, kR s u [(.PWR_STATUS_SERVING, iod0, 0, 0), (.PWR_STATUS_OVERVOLT, iod0, 0, 0)], sB s u fun x => { x with csr := [], stages := [] }]).1 = true := by decide +kernel
theorem wit_InputStagesOpenAndClose_restored : (let s := { (regs (Tests.after (.inputReversed 1) st3) []) with events := [] }; ck [s.flag .PWR_STATUS_SINGLE iod0, s.fld .PWR_STATUS_SERVING iod0 = 1] (.inputRestored 1) s fun u => [u.fld .PWR_STATUS_SERVING iod0 = 3, u.fld .PWR_STATUS_SINGLE iod0 = 0, !u.flagBit .PWR_STATUS_REVERSED iod0 0 0 1, (List.range 12).all fun k => u.capBy .single k == 7, raisedB s u .EV_PWR_IN_RESTORED carrierDie,
  u.stage 1 = { s.stage 1 with why := 0, since := s.now }, kF s u (status ++ clocks), sB s u fun x => { x with csr := [], stages := [], events := [], caps := [], clocks := [] }]).1 = true := by decide +kernel
theorem wit_InputStagesOpenAndClose_latched : (let s := regs sre [(.PWR_STATUS_LATCHED, iod0, 0, 0, 2)]; ck [] (.stageReclose 1) s fun u => [decide (u = s)]) = (true, true) := by decide +kernel

end Memories

/-! Witnesses about the event recorder. -/

namespace Recorder

abbrev evt (code : Nat) : Event := ⟨3, code, 7, 0, 9, none⟩
abbrev es (code : Nat) (tok : Bool) : State := if tok then { booted with events := [evt code, evt 0x101] } else regs { booted with events := [evt code], buckets := [] } [(.EVR_RATE_DATA_SUPPR, iod0, 0, code, 2 ^ 16 - 1)]
abbrev r0 (s : State) : State := { s with events := s.events.tail }
def rec_ (s : State) (code : Nat) (P : State → State → List Bool) := match (r0 s).bucketTake code with
  | some s1 => ck [s.staged.length < 255, s.evLog.length + s.staged.length < 65535] .eventRaise s (P s1)
  | none => (false, false)
theorem wit_RecorderKeepsRecords_raise : (rec_ (es 0x104 true) 0x104 fun s1 u => [u.staged.length = 1, u.fld .EVR_SEQ_LAST_SEQ iod0 = 1, kR (es 0x104 true) u [(.EVR_SEQ_LAST_SEQ, iod0, 0, 0), (.EVR_RATE_DATA_SUPPR, iod0, 0, 0x104)], sB s1 u fun x => { x with csr := [], staged := [] }]) = (true, true) := by decide +kernel
theorem wit_RecorderKeepsRecords_raise_F : (rec_ (es 0x105 true) 0x105 fun s1 u => [evClassF 0x105, u.staged.length = 1, u.flushN = some 1, !u.flushDue, u.fld .EVR_STATUS_FLUSHING iod0 = 1, sB s1 u fun x => { x with csr := [], staged := [], flushN := none, flushDue := false }]) = (true, true) := by decide +kernel
theorem wit_RecorderKeepsRecords_raise_none : (ck [] .eventRaise booted fun u => [decide (u = booted)]) = (true, true) := by decide +kernel
abbrev fl : State := { booted with staged := [[1], [2], [3]], flushN := some 2 }
theorem wit_RecorderKeepsRecords_flush_busy : (ck [fl.flushN.isSome] (.evrFlush .supervisor) fl fun u => [decide (u = { fl with flushDue := true, resp := .written })]) = (true, true) := by decide +kernel
theorem wit_RecorderKeepsRecords_flush : (let s := { fl with flushN := none }; ck [!s.flag .EVR_STATUS_CLEARING iod0] (.evrFlush .supervisor) s fun u => [u.flushN = some 3, !u.flushDue, u.fld .EVR_STATUS_FLUSHING iod0 = 1]) = (true, true) := by decide +kernel
theorem wit_RecorderKeepsRecords_flush_done : (ck [!fl.flushDue, !fl.resetDue] .evrFlushComplete fl fun u => [u.evLog = [[1], [2]], u.staged = [[3]], u.flushN = none, u.fld .EVR_STATUS_FLUSHING iod0 = 0]) = (true, true) := by decide +kernel
abbrev cl := regs booted [(.EVR_STATUS_CLEARING, iod0, 0, 0, 1)]
theorem wit_RecorderKeepsRecords_clear_busy : (ck [] (.evrClear .supervisor) cl fun u => [decide (u = { cl with resp := .written })]) = (true, true) := by decide +kernel
theorem wit_RecorderKeepsRecords_clear : (ck [] (.evrClear .supervisor) fl fun u => [u.evLog = [], u.staged.length = 1, u.flushDue, u.fld .EVR_STATUS_CLEARING iod0 = 1, u.fld .EVR_SEQ_FIRST_SEQ iod0 = 1, u.fld .EVR_SEQ_LAST_SEQ iod0 = 1]) = (true, true) := by decide +kernel
theorem wit_RecorderKeepsRecords_erased : (let s := { cl with staged := [[1]] }; ck [s.flushN.isNone] .evrEraseComplete s fun u => [u.fld .EVR_STATUS_CLEARING iod0 = 0, u.fld .EVR_STATUS_FLUSHING iod0 = 1, u.flushN = some 1]) = (true, true) := by decide +kernel
abbrev sp : State := regs { es 0x104 true with buckets := Tbl.set ⟨0, 0⟩ [] (Key.at 0 0x104) ⟨tokenUnits, 0⟩ } [(.EVR_RATE_DATA_RATE, iod0, 0, 0x104, 1), (.EVR_RATE_DATA_BURST, iod0, 0, 0x104, 1)]
theorem wit_RecorderKeepsRecords_suppressed : (ck [((r0 sp).bucketTake 0x104).isNone] .eventRaise sp fun u => [u.fld .EVR_CNT_SUPPR_COUNT iod0 = 1, u.fld .EVR_RATE_DATA_SUPPR iod0 0 0x104 = 1, kR sp u [(.EVR_CNT_SUPPR_COUNT, iod0, 0, 0), (.EVR_RATE_DATA_SUPPR, iod0, 0, 0x104)], sB (r0 sp) u fun x => { x with csr := [] }]).1 = true := by decide +kernel
abbrev sf : State := { es 0x104 true with staged := List.replicate 1024 [] }
theorem wit_RecorderKeepsRecords_staging_full : (ck [((r0 sf).bucketTake 0x104).isSome, 1024 ≤ sf.staged.length] .eventRaise sf fun u => [u.fld .EVR_DROPPED_STAGE iod0 = 1]) = (true, true) := by decide +kernel

end Recorder

/-! Witnesses about coolant sensors. -/

namespace Coolant

abbrev w0 (l : List Fld) : State := regs { booted with now := 20 * secTicks } (l.map fun f => (f, iod0, 0, 0, 1))
abbrev sens (i : Nat) (ok : Nat) (s : State) : State := s.setSensor i ⟨3, 0, 2, 0, 0, ok, 0, 0, 7⟩
abbrev cs (i ok : Nat) : State := sens i ok (w0 [State.wiringFld i])
def clr (b i : Nat) := let s := cs i (10 * secTicks); ck [s.flag (State.wiringFld i) iod0, s.steady i, [snInlet, snOutlet, snFlow, snLeak].all fun j => j == i || !s.flag (State.wiringFld j) iod0] (.snsFaultClear .supervisor (BitVec.ofNat 64 (2 ^ b))) s fun u =>
  [u.fld (State.wiringFld i) iod0 = 0, (u.sensor i).map (·.state) = some 0, (List.range 12).all fun k => u.capBy .wiring k == 7, u.resp = .written, kF s u [State.wiringFld i, .CLK_STEP_CAP, .CLK_STEP_BUSY], sB s u fun x => { x with csr := [], sensors := [], caps := [], clocks := [], resp := .none }]
theorem wit_CoolantFaultClears_clear0 : (clr 0 snInlet).1 = true := by decide +kernel
theorem wit_CoolantFaultClears_clear3 : (clr 3 snLeak).1 = true := by decide +kernel
theorem wit_CoolantFaultClears_early : (let s := cs snFlow (10 * secTicks + 1); ck [s.flag (State.wiringFld snFlow) iod0, !s.steady snFlow] (.snsFaultClear .supervisor 4) s fun u => [decide (u = { s with resp := .written })]) = (true, true) := by decide +kernel

end Coolant

/-! Witnesses about command packets. -/

namespace Packets

abbrev s := booted
theorem wit_CommandPacketsAreTaken_down : (ck [booted.mgmtUp] (.slotStatus (.mgmt 3 [])) { s with mgmtUp := false } fun t => [t = { s with mgmtUp := false }]) = (true, true) := by decide +kernel
theorem wit_CommandPacketsAreTaken_short : (ck [] (.slotStatus (.mgmt 3 [1])) s fun t => [t.fld .CMD_CNT_DROP_COUNT iod0 = 1, keeps s t [(.CMD_CNT_DROP_COUNT, iod0, 0, 0)] id]) = (true, true) := by decide +kernel
abbrev k : KeptReply := ⟨3, 7, 0, [1,2]⟩
abbrev s1 := { s with keptReplies := [k] }
theorem wit_CommandPacketsAreTaken_dup : (ck [s1.keptFor 3 7 == some k] (.slotStatus (dg 0x103 0 [])) s1 fun t => [t.out = [Output.mgmt 3 [1,2]], t.fld .CMD_CNT_DUP_COUNT iod0 = 1, keeps s1 t [(.CMD_CNT_DUP_COUNT, iod0, 0, 0)] fun x => { x with out := [] }]) = (true, true) := by decide +kernel
def rf (bs : List Byte) (st : Nat) := ck [s.checkCmd (State.packetOf bs (.mgmt 3)) (headClean bs) true = some st] (.slotStatus (.mgmt 3 bs)) s fun t => [refusesB s t (State.packetOf bs (.mgmt 3)) 3 st]
theorem wit_CommandPacketsAreTaken_op : (rf (pk 0x1234 0 []) stBadOpcode).1 = true := by decide +kernel
theorem wit_CommandPacketsAreTaken_clean : (rf (pk 0x103 0 [1]) stBadParam) = (true, true) := by decide +kernel
theorem wit_CommandPacketsAreTaken_names : (rf (pk 0x103 128 []) stBadParam).1 = true := by decide +kernel
abbrev s2 := {s with fwRuns := false}
theorem wit_CommandPacketsAreTaken_nofw : (ck [s2.checkCmd (pp 0x103 0 []) true true = some stServiceLevel] (.slotStatus (dg 0x103 0 [])) s2 fun t => [refusesB s2 t (pp 0x103 0 []) 3 stServiceLevel]).1 = true := by decide +kernel
def ful (s : State) (op sb : Nat) (param : List Byte) (c : Arrival → Instr) (info : List Byte) (l : List K4) (f : State → State) (P : State → List Bool := fun _ => []) :=
  ck [offersB s op 3 (pk op sb param) (pp op sb param)] (c (dg op sb param)) s fun u => fulfilsB s u (pp op sb param) 3 info l f :: P u
abbrev sr := regs s [(.SLQ_STATE_STATE, iod0, 1, 0, slotReady)]
theorem wit_QueriesAndRegisterCommandsAnswer_slotStatus : (ful sr 0x103 1 [] .slotStatus (leBytes 8 (sr.regWord .SLQ_STATE iod0 1) ++ (List.range 8).flatMap (fun cd => leBytes 1 (sr.fld .SEQ_TKT_GRANT_GRANT cd 0 1)) ++
        State.padTo 8 (Config.quotaInfo ((List.range 5).map (sr.quotaUsed 1)))) [] id).1 = true := by decide +kernel
theorem wit_QueriesAndRegisterCommandsAnswer_stepQuery : (ful sr 0x405 1 [] .stepQuery (leBytes 8 (sr.regWord .NUM_STEP mh0 1) ++ leBytes 8 (sr.regWord .CMT_LAST mh0 1) ++ leBytes 8 (sr.regWord .NUM_LSCALE mh0 1)) [] id).1 = true := by decide +kernel
theorem wit_QueriesAndRegisterCommandsAnswer_snapStatus : (ful sr 0x503 1 [] .snapStatus (leBytes 8 (sr.regWord .SNAP_STATUS iod0 1)) [] id).1 = true := by decide +kernel
theorem wit_QueriesAndRegisterCommandsAnswer_ringStatus : (ful sr 0x606 128 [] .ringStatus (leBytes 8 (sr.regWord .HLM_POS iod0) ++ (List.range 8).flatMap (fun k => leBytes 1 (sr.hlState k)) ++ leBytes 8 (sr.regWord .REC_STATUS iod0)) [] id).1 = true := by decide +kernel
abbrev sq := regs s [(.SLQ_CMD_CTL_SIZE, iod0, 1, 0, 6)]
theorem wit_QueriesAndRegisterCommandsAnswer_slqdb : (ck [] (.slqDb .supervisor 1 5) sq fun u => [u.fld .SLQ_CMD_CTL_TAIL iod0 1 = 5, wroteB sq u [(.SLQ_CMD_CTL_TAIL, iod0, 1, 0)]]) = (true, true) := by decide +kernel
theorem wit_QueriesAndRegisterCommandsAnswer_slqdbbad : (ck [] (.slqDb .supervisor 1 6) sq fun u => [u.fld .SLQ_EVENTS_BAD_DB iod0 1 = 1, wroteB sq u [(.SLQ_EVENTS_BAD_DB, iod0, 1, 0)]]) = (true, true) := by decide +kernel

end Packets

/-! Witnesses about slots and memory. -/

namespace Slots

abbrev s := booted
def ful (s : State) (op sb : Nat) (param : List Byte) (c : Arrival → Instr) (info : List Byte) (l : List K4) (f : State → State) (P : State → List Bool := fun _ => []) :=
  ck [offersB s op 3 (pk op sb param) (pp op sb param)] (c (dg op sb param)) s fun u => fulfilsB s u (pp op sb param) 3 info l f :: P u
def refu (s : State) (op sb : Nat) (param : List Byte) (c : Arrival → Instr) (st : Nat) :=
  ck [offersB s op 3 (pk op sb param) (pp op sb param)] (c (dg op sb param)) s fun u => [refusesB s u (pp op sb param) 3 st]
def ex (s : State) (op sb : Nat) (param : List Byte) (c : Arrival → Instr) (t : Packet → State) :=
  ck [offersB s op 3 (pk op sb param) (pp op sb param)] (c (dg op sb param)) s fun u => [decide (u = t (pp op sb param))]
abbrev sr := regs s [(.SLQ_STATE_STATE, iod0, 1, 0, slotReady)]
abbrev A := csrAddr iod0 0x108000
theorem wit_QueriesAndRegisterCommandsAnswer_csrRead : (ck [offersB sr 0x701 3 (pk 0x701 128 (leBytes 8 A)) (pp 0x701 128 (leBytes 8 A)), ((sr.csrEnter A).csrRead .supervisor A).isSome] (.csrRead (dg 0x701 128 (leBytes 8 A))) sr fun u =>
  [answersB sr u (pp 0x701 128 (leBytes 8 A)) 3 (leBytes 8 (((sr.csrEnter A).csrRead .supervisor A).getD 0)), kF sr u [Fld.CMD_CNT_MGMT_COUNT, .MESH_CNT_FLITS_COUNT, .MESH_PEAK_PEAK],
   sB sr u fun x => { x with csr := [], out := [], keptReplies := [], crossings := [] }]).1 = true := by decide +kernel
abbrev B := csrAddr iod0 0x108001
theorem wit_QueriesAndRegisterCommandsAnswer_csrReadBad : (ck [offersB sr 0x701 3 (pk 0x701 128 (leBytes 8 B)) (pp 0x701 128 (leBytes 8 B)), ((sr.csrEnter B).csrRead .supervisor B).isNone] (.csrRead (dg 0x701 128 (leBytes 8 B))) sr fun u =>
  [u.out = Output.mgmt 3 (replyBytes (pp 0x701 128 (leBytes 8 B)) stRefused []) :: sr.out, kF sr u [Fld.CMD_CNT_REFUSED_COUNT, .MESH_CNT_FLITS_COUNT, .MESH_PEAK_PEAK]]).1 = true := by decide +kernel
abbrev S := sramAddr 2 0x40
theorem wit_QueriesAndRegisterCommandsAnswer_csrReadMem : (ex sr 0x701 128 (leBytes 8 S) .csrRead fun p => (sr.readPiece .supervisor S 8).2.served p (match (sr.readPiece .supervisor S 8).1 with | .data d _ => d | _ => [1])).1 = true := by decide +kernel
theorem wit_QueriesAndRegisterCommandsAnswer_csrWriteReg : (ex sr 0x702 128 (leBytes 8 A ++ leBytes 8 5) .csrWrite fun p => ((((sr.csrEnter A).csrWrite .supervisor A 5).getD sr).csrLeave A).served p).1 = true := by decide +kernel
theorem wit_QueriesAndRegisterCommandsAnswer_csrWriteMem : (ex sr 0x702 128 (leBytes 8 S ++ leBytes 8 5) .csrWrite fun p => (sr.writePieces .supervisor S (leBytes 8 5) 0).2.served p).1 = true := by decide +kernel
abbrev T2 : Nat := tier2Base
abbrev sy := s.setFrame 1 0 { Frame.reset with owner := .system }
abbrev cr : List Byte := [1, 0, 0,0,0,0,0,0] ++ leBytes 8 T2 ++ leBytes 8 2 ++ leBytes 8 (T2 + 0x1000) ++ leBytes 2 3
theorem wit_SlotAndMemoryCommands_slotCreate : (ful sy 0x101 2 cr .slotCreate [] [(.SLQ_STATE_STATE, iod0, 2, 0), (.SLQ_STATE_SIDESHOW, iod0, 2, 0), (.SLQ_CMD_BASE_BASE, iod0, 2, 0),
          (.SLQ_CMD_CTL_SIZE, iod0, 2, 0), (.SLQ_CPL_BASE_BASE, iod0, 2, 0), (.SLQ_CPL_CTL_SIZE, iod0, 2, 0)] id fun u => [sy.systemRange T2 128, u.fld .SLQ_STATE_STATE iod0 2 = slotReady, u.fld .SLQ_STATE_SIDESHOW iod0 2 = 1,
      u.fld .SLQ_CMD_BASE_BASE iod0 2 = T2 / 32, u.fld .SLQ_CMD_CTL_SIZE iod0 2 = 2, u.fld .SLQ_CPL_BASE_BASE iod0 2 = (T2 + 0x1000) / 32, u.fld .SLQ_CPL_CTL_SIZE iod0 2 = 3]).1 = true := by decide +kernel
theorem wit_SlotAndMemoryCommands_slotCreate0 : (refu (regs sy [(.SVC_STATUS_LEVEL, iod0, 0, 0, 0)]) 0x101 2 cr .slotCreate stServiceLevel).1 = true := by decide +kernel
def dis (s : State) (zero : Bool) : Bool × Bool := let p := pp 0x102 1 []
  let r := s.disableSlot 1
  let waits := { r.2.acceptCmd p with cmdRuns := (r.2.acceptCmd p).cmdRuns ++ [⟨p, r.1⟩] }
  ck [offersB s 0x102 3 (pk 0x102 1 []) p, r.1.any waits.beingZeroed == zero] (.slotDisable (dg 0x102 1 [])) s fun u => [
    decide (u = if zero then waits else ({ waits with cmdRuns := waits.cmdRuns.erase ⟨p, r.1⟩ }.reply p stOk []).freeSlotPage 1),
    waits.fld .XLT_ROOT_EN iod0 1 = 0, waits.fld .QTA_HBM_LIMIT mh0 1 = 0, waits.fld .QTA_HCACHE_LIMIT mh0 1 = 0, waits.fld .QTA_SPILL_LIMIT mh0 1 = 0]
abbrev srq := regs sr [(.QTA_HBM_LIMIT, mh0, 1, 0, 3), (.QTA_SPILL_LIMIT, mh0, 1, 0, 3), (.QTA_HCACHE_LIMIT, mh0, 1, 0, 3), (.XLT_ROOT_EN, iod0, 1, 0, 1)]
theorem wit_SlotAndMemoryCommands_disable : (ck [offersB srq 0x102 3 (pk 0x102 1 []) (pp 0x102 1 [])] (.slotDisable (dg 0x102 1 [])) srq fun _ => []).1 = true := by decide +kernel
abbrev gp (tier : Nat) (n k : Nat) (use strong : Nat := 0) : List Byte := [BitVec.ofNat 8 tier, BitVec.ofNat 8 use, BitVec.ofNat 8 strong, 0, 0, 0, 0, 0] ++ leBytes 4 n ++ leBytes 4 k
abbrev sg := regs sr [(.QTA_T2_LIMIT, mh0, 1, 0, 2), (.QTA_SPILL_LIMIT, mh0, 1, 0, 2)]
theorem wit_SlotAndMemoryCommands_grant_t2 : (ful sg 0x301 1 (gp 1 7 2 0 1) .frameGrant [] [] (fun x => { x with frames := [], zeroBatch := 0 }) fun u => [sg.grantCheck (pp 0x301 1 (gp 1 7 2 0 1)) = none,
  u.frame 1 7 = { sg.frame 1 7 with owner := .slot 1, strong := true, zeroing := true, batch := sg.zeroBatch + 1, first := false }, u.frame 1 8 = { sg.frame 1 8 with owner := .slot 1, strong := true, zeroing := true, batch := sg.zeroBatch + 1, first := false }, u.frame 1 9 = sg.frame 1 9]).1 = true := by decide +kernel
theorem wit_SlotAndMemoryCommands_grant_refused : (refu sg 0x301 1 (gp 1 7 3 0 1) .frameGrant stQuota).1 = true := by decide +kernel
theorem wit_SlotAndMemoryCommands_grant_sram : (ck [offersB sg 0x301 3 (pk 0x301 1 (gp 2 63 2 0 1)) (pp 0x301 1 (gp 2 63 2 0 1)), sg.grantCheck (pp 0x301 1 (gp 2 63 2 0 1)) = none] (.frameGrant (dg 0x301 1 (gp 2 63 2 0 1))) sg fun u => [
  answersB sg u (pp 0x301 1 (gp 2 63 2 0 1)) 3 [], u.block 0 63 = ⟨some 1, true, true⟩, u.block 0 64 = ⟨some 1, true, true⟩, u.block 0 62 = sg.block 0 62, u.flagBit .SRAM_CLASS_STRONG 0 0 0 63, u.flagBit .SRAM_CLASS_STRONG 0 0 1 0]) = (true, true) := by decide +kernel
abbrev sgz := sg.setBlock 0 64 ⟨none, true, true⟩
theorem wit_SlotAndMemoryCommands_grant_wait : (ex sgz 0x301 1 (gp 2 63 2 0 1) .frameGrant fun p => { sgz.acceptCmd p with cmdRuns := sgz.cmdRuns ++ [⟨p, (rangeOf p).filter sgz.beingZeroed⟩] }) = (true, true) := by decide +kernel
abbrev so := (sg.setFrame 1 7 { Frame.reset with owner := .slot 1, isSealed := true, use := .spill }).setBlock 0 3 ⟨some 1, false, false⟩
theorem wit_SlotAndMemoryCommands_release : (ful so 0x302 1 (gp 1 7 1) .frameRelease [] [] (fun x => { x with frames := [], zeroBatch := 0 }) fun u => [
  u.frame 1 7 = { so.frame 1 7 with owner := .free, use := .ordinary, isSealed := false, zeroing := true, batch := so.zeroBatch + 1, first := true }]).1 = true := by decide +kernel
theorem wit_SlotAndMemoryCommands_release_sram : (ck [offersB so 0x302 3 (pk 0x302 1 (gp 2 3 1)) (pp 0x302 1 (gp 2 3 1))] (.frameRelease (dg 0x302 1 (gp 2 3 1))) so fun u => [answersB so u (pp 0x302 1 (gp 2 3 1)) 3 [], u.block 0 3 = ⟨none, true, true⟩, u.block 0 4 = so.block 0 4]) = (true, true) := by decide +kernel
abbrev qp (q v : Nat) : List Byte := [BitVec.ofNat 8 q, 0, 0, 0, 0, 0, 0, 0] ++ leBytes 4 v
theorem wit_SlotAndMemoryCommands_quota : (ful so 0x303 1 (qp 1 0) .quotaSet [] [(.QTA_T2_LIMIT, mh0, 1, 0)] (fun x => { x with events := [] }) fun u => [raisedB so u .EV_QUOTA_OVERSUBSCRIBED mh0, u.fld .QTA_T2_LIMIT mh0 1 = 0]).1 = true := by decide +kernel
theorem wit_SlotAndMemoryCommands_quota4 : (ful so 0x303 1 (qp 4 9) .quotaSet [] [(.QTA_HCACHE_LIMIT, mh0, 1, 0)] (fun x => { x with events := [] }) fun u => [u.events = so.events, u.fld .QTA_HCACHE_LIMIT mh0 1 = 9]).1 = true := by decide +kernel
theorem wit_SlotAndMemoryCommands_quota1_eq : (ful so 0x303 1 (qp 1 1) .quotaSet [] [(.QTA_T2_LIMIT, mh0, 1, 0)] (fun x => { x with events := [] }) fun u => [u.events = so.events, u.fld .QTA_T2_LIMIT mh0 1 = 1]).1 = true := by decide +kernel
theorem wit_SlotAndMemoryCommands_slotReg : (ex so 0x304 1 ([4, 0, 0,0,0,0,0,0] ++ leBytes 8 77) .slotRegWrite fun p => ((so.regStore .supervisor .NUM_STEP mh0 1 0 77).getD State.reset).served p).1 = true := by decide +kernel
theorem wit_SlotAndMemoryCommands_stashPurge : (ex so 0x305 1 [3] .stashPurge fun p => ((State.maskDies 3).foldl (fun s cd => s.purgeStash cd 1) so).served p).1 = true := by decide +kernel
theorem wit_SlotAndMemoryCommands_abortQueue : (ex so 0xF01 1 [3, 2] .abortQueue fun p => let c := so.cutUnit 3 2 1
  ((((c.ctxs.eraseDups).foldl (fun s x => s.faultCtx 3 x causeAborted 2) c.st).yieldSettle 3).served p (leBytes 4 c.n ++ leBytes 4 0))).1 = true := by decide +kernel
theorem wit_SlotAndMemoryCommands_abortSlot : (ex so 0xF02 1 [] .abortSlot fun p => (so.abortSlot 1).2.served p (leBytes 4 (so.abortSlot 1).1 ++ leBytes 4 0)).1 = true := by decide +kernel
theorem wit_SlotAndMemoryCommands_abortCmd : (ful so 0xF03 1 [9] .abortCmd (leBytes 4 0 ++ leBytes 4 0) [] fun x => { x with qSkip := [] }).1 = true := by decide +kernel

end Slots

/-! Witnesses about patterns, updates and the module. -/

namespace Patterns

abbrev s := booted
def ful (s : State) (op sb : Nat) (param : List Byte) (c : Arrival → Instr) (info : List Byte) (l : List K4) (f : State → State) (P : State → List Bool := fun _ => []) :=
  ck [offersB s op 3 (pk op sb param) (pp op sb param)] (c (dg op sb param)) s fun u => fulfilsB s u (pp op sb param) 3 info l f :: P u
def refu (s : State) (op sb : Nat) (param : List Byte) (c : Arrival → Instr) (st : Nat) :=
  ck [offersB s op 3 (pk op sb param) (pp op sb param)] (c (dg op sb param)) s fun u => [refusesB s u (pp op sb param) 3 st]
def ex (s : State) (op sb : Nat) (param : List Byte) (c : Arrival → Instr) (t : Packet → State) :=
  ck [offersB s op 3 (pk op sb param) (pp op sb param)] (c (dg op sb param)) s fun u => [decide (u = t (pp op sb param))]
abbrev T2 : Nat := tier2Base
abbrev sr := regs s [(.SLQ_STATE_STATE, iod0, 1, 0, slotReady)]
abbrev sm := regs ((sr.setFrame 1 0 { Frame.reset with owner := .system }).setFrame 1 1 { Frame.reset with owner := .slot 1 }) []
abbrev pl (va n unit : Nat) : List Byte := leBytes 8 va ++ leBytes 4 n ++ [BitVec.ofNat 8 unit]
theorem wit_PatternCommands_patLoad : (ck [offersB sm 0x201 3 (pk 0x201 1 (pl T2 64 1)) (pp 0x201 1 (pl T2 64 1)), (sm.patFile 1 T2 64 true).1.isSome] (.patLoad (dg 0x201 1 (pl T2 64 1))) sm fun u => let r := sm.patFile 1 T2 64 true
   [refusesB r.2 u (pp 0x201 1 (pl T2 64 1)) 3 (stPat (r.2.patCheck 1 (r.1.getD [])))]).1 = true := by decide +kernel
def pat : Pattern := ⟨0, 10, 0, 4, [some 0], [0,0,0,0], [1,0,0,0], 3, false, false, 0⟩
abbrev sp := { sr with patLoaded := [(Key.at 0 1, true)] }
theorem wit_PatternCommands_patUnload : (ex sp 0x202 1 [1] .patUnload fun p => (((State.maskDies 1).foldl (fun s cd => s.unload cd 1) (sp.disarm 1)).served p)).1 = true := by decide +kernel
abbrev lp : List Byte := [1,0,0,0,0,0,0,0] ++ leBytes 8 99 ++ leBytes 4 1 ++ leBytes 4 2 ++ leBytes 4 3 ++ leBytes 4 4
theorem wit_PatternCommands_patLaunch : (ex sp 0x203 1 lp .patLaunch fun p => ((((State.maskDies 1).foldl (State.launchDie 1 99 [1,2,3,4]) ((sp.setSlotState 1 slotRunning).armWindow 1)).slotDone 1).served p)).1 = true := by decide +kernel
theorem wit_PatternCommands_patLaunch_lvl : (refu (regs sp [(.SVC_STATUS_LEVEL, iod0, 0, 0, 1)]) 0x203 1 lp .patLaunch stServiceLevel).1 = true := by decide +kernel
abbrev sf := regs sp [(.SEQ_CTX_STATE_STATE, 2, 0, 3, 5), (.SEQ_CTX_STATE_SLOT, 2, 0, 3, 1), (.SEQ_CTX_FAULT_PC, 2, 0, 3, 12), (.SEQ_CTX_PC_PC, 2, 0, 3, 15), (.SEQ_CTX_FAULT_CAUSE, 2, 0, 3, 1), (.SEQ_CTX_FAULT_TAG, 2, 0, 3, 1)]
theorem wit_PatternCommands_ctxResume : (ck [offersB sf 0x204 3 (pk 0x204 1 [2,3]) (pp 0x204 1 [2,3])] (.ctxResume (dg 0x204 1 [2,3])) sf fun u => [answersB sf u (pp 0x204 1 [2,3]) 3 [], u.fld .SEQ_CTX_PC_PC 2 0 3 = 12,
  u.fld .SEQ_CTX_FAULT_CAUSE 2 0 3 = 0, u.fld .SEQ_CTX_FAULT_PC 2 0 3 = 0, u.fld .SEQ_CTX_FAULT_TAG 2 0 3 = 0, u.ctxState 2 3 = ctxReady || u.ctxState 2 3 = ctxRunning, u.mem = sf.mem]).1 = true := by decide +kernel
abbrev rp (g n lr step : Nat) : List Byte := [BitVec.ofNat 8 g, 0] ++ leBytes 2 n ++ leBytes 4 step ++ leBytes 4 lr
theorem wit_UpdateAndSnapshotCommands_stepRate : (ful sr 0x401 1 (rp 254 5 77 9) .stepRate [] [(.CMT_GRP_IDX_GROUP, mh0, 1, 0)] (fun x => { x with groups := [] }) fun u => [u.groups.get 0 (Key.at 1 254 5) = 77 + 9 * 2 ^ 32, u.groups.get 0 (Key.at 1 255 5) = 77 + 9 * 2 ^ 32,
   u.groups.length = 2, u.fld .CMT_GRP_IDX_GROUP mh0 1 = 255]).1 = true := by decide +kernel
theorem wit_UpdateAndSnapshotCommands_stepRate1 : (ful sr 0x401 1 (rp 2 1 77 8) .stepRate [] [(.CMT_GRP_IDX_GROUP, mh0, 1, 0)] (fun x => { x with groups := [] }) fun u => [u.groups.get 0 (Key.at 1 2 4) = 77 + 8 * 2 ^ 32, u.groups.length = 1, u.fld .CMT_GRP_IDX_GROUP mh0 1 = 2]).1 = true := by decide +kernel
abbrev gw : List Byte := [200, 0,0,0,0,0,0,0] ++ leBytes 8 1 ++ leBytes 8 2 ++ leBytes 8 3 ++ leBytes 8 4 ++ leBytes 8 5
theorem wit_UpdateAndSnapshotCommands_groupWrite : (ful sr 0x402 1 gw .groupWrite [] [(.CMT_GRP_IDX_GROUP, mh0, 1, 0)] (fun x => { x with groups := [] }) fun u => [u.groups.get 0 (Key.at 1 200 0) = 1, u.groups.get 0 (Key.at 1 200 6) = 5, u.fld .CMT_GRP_IDX_GROUP mh0 1 = 200]).1 = true := by decide +kernel
theorem wit_UpdateAndSnapshotCommands_lscale0 : (ful sr 0x403 1 [0, 0xF0] .lscaleSet [] [(.NUM_LSCALE_PEND, mh0, 1, 0), (.NUM_LSCALE_PEND_VALID, mh0, 1, 0)] id fun u => [u.fld .NUM_LSCALE_PEND mh0 1 = 0xF0, u.fld .NUM_LSCALE_PEND_VALID mh0 1 = 1]).1 = true := by decide +kernel
theorem wit_UpdateAndSnapshotCommands_lscale1 : (ful sr 0x403 1 [1, 0x10] .lscaleSet [] [(.NUM_LSCALE_E_MIN, mh0, 1, 0), (.NUM_LSCALE_E, mh0, 1, 0)] id fun u => [u.fld .NUM_LSCALE_E_MIN mh0 1 = 0x10, u.lscale 1 = max (sr.lscale 1) (s8 0x10)]).1 = true := by decide +kernel
theorem wit_UpdateAndSnapshotCommands_lscale1neg : (ful sr 0x403 1 [1, 0x90] .lscaleSet [] [(.NUM_LSCALE_E_MIN, mh0, 1, 0), (.NUM_LSCALE_E, mh0, 1, 0)] id fun u => [u.fld .NUM_LSCALE_E_MIN mh0 1 = 0x90, u.lscale 1 = max (sr.lscale 1) (s8 0x90)]).1 = true := by decide +kernel
theorem wit_UpdateAndSnapshotCommands_skipNext : (ful sr 0x404 1 [] .skipNext [] [(.CMT_CFG_SKIP_NEXT, mh0, 1, 0)] id fun u => [u.fld .CMT_CFG_SKIP_NEXT mh0 1 = 1]).1 = true := by decide +kernel
theorem wit_UpdateAndSnapshotCommands_snapTake_hyp : (ck [offersB sr 0x501 3 (pk 0x501 1 []) (pp 0x501 1 [])] (.snapTake (dg 0x501 1 [])) sr fun u => [refusesB sr u (pp 0x501 1 []) 3 stBadParam]).1 = true := by decide +kernel
theorem wit_UpdateAndSnapshotCommands_snapConfig : (ex sr 0x502 128 ([2, 1,0,0,0,0,0,0] ++ leBytes 8 5) .snapConfig fun p => ((sr.regStore .supervisor .SNAP_SLOT iod0 1 0 5).getD State.reset).served p) = (true, true) := by decide +kernel
abbrev rf : List Byte := leBytes 2 0x0102 ++ leBytes 2 0 ++ [5]
theorem wit_ModuleCommands_ringForm : (ex sr 0x601 128 rf .ringForm fun p =>
      let t := (((sr.setFld .HLM_POS_POS iod0 0 0 (p.fld 0 2)).setFld .HLM_POS_GEN iod0 0 0 (p.fld 2 2)).setFld .HLM_POS_CATCHER iod0 0 0 (bits (p.fld 4 1) 0 0)).setFld
        .HLM_CTL_DATELINE1 iod0 0 0 (bits (p.fld 4 1) 1 1)
      ((t.setFld .HLM_CTL_DATELINE2 iod0 0 0 (bits (p.fld 4 1) 2 2)).evalAll.pump.enablePorts.served p)).1 = true := by decide +kernel
theorem wit_ModuleCommands_ringForm_gen : (refu sp 0x601 128 rf .ringForm stGen) = (true, true) := by decide +kernel
theorem wit_ModuleCommands_portRole : (ex sr 0x602 128 [3, 2] .portRole fun p => ((sr.setEnRole 3 (sr.hl .HL_CTL_EN 3) 2).pump.enablePorts.served p)).1 = true := by decide +kernel
theorem wit_ModuleCommands_catchTable : (ex sr 0x603 128 ([3, 0,0,0,0,0,0,0] ++ leBytes 8 5) .catchTable fun p => ((sr.regStore .supervisor .REC_SRC iod0 0 1 5).getD State.reset).served p) = (true, true) := by decide +kernel
abbrev sh := regs sr [(.HLM_POS_POS, iod0, 0, 0, 17), (.REC_GROUP_POS, iod0, 0, 0, 17)]
theorem wit_ModuleCommands_handback : (ck [offersB sh 0x604 3 (pk 0x604 128 [17, 0, 4, 0]) (pp 0x604 128 [17,0,4,0]), sh.myPos = 17, (sh.groupIdx 17).isSome] (.handback (dg 0x604 128 [17,0,4,0])) sh fun u => [u.handback = some (17, 4, false), u.fld .REC_STATUS_STATE iod0 = 5,
  u.cmdRuns = sh.cmdRuns ++ [⟨pp 0x604 128 [17,0,4,0], []⟩], u.fld .CMD_CNT_MGMT_COUNT iod0 = 1, keeps sh u [(.CMD_CNT_MGMT_COUNT, iod0, 0, 0), (.REC_STATUS_STATE, iod0, 0, 0)] fun x => { x with csr := [], out := [], keptReplies := [], cmdRuns := [], handback := none }]).1 = true := by decide +kernel
theorem wit_ModuleCommands_join : (ex sr 0x605 128 [9, 0] .join fun p => ((sr.setFld .HLM_POS_GEN iod0 0 0 9).evalAll.pump.served p)).1 = true := by decide +kernel
theorem wit_ModuleCommands_selftest : (ck [offersB sr 0x703 3 (pk 0x703 128 [3, 1]) (pp 0x703 128 [3, 1]), !sr.mayBringUp] (.selftest (dg 0x703 128 [3, 1]) 1) sr fun u => [answersB sr u (pp 0x703 128 [3,1]) 3 [], u.selfTests.get 0 (Key.at 0) = 1,
   u.selfTests.get 0 (Key.at 1) = 2, u.selfTests.get 0 (Key.at 0x10) = 2, u.fld .DIE_STATUS_IN_SERVICE 0 = 0, u.fld .DIE_STATUS_IN_SERVICE 0x10 = 0, u.mem = sr.mem]).1 = true := by decide +kernel
theorem wit_ModuleCommands_selftest_bad : (ck [offersB sp 0x703 3 (pk 0x703 128 [3, 1]) (pp 0x703 128 [3, 1])] (.selftest (dg 0x703 128 [3, 1]) 1) sp fun u => [refusesB sp u (pp 0x703 128 [3, 1]) 3 stBadParam]).1 = true := by decide +kernel
theorem wit_ModuleCommands_budget : (ex sr 0x801 128 [7, 20] .budgetSet fun p => ((State.maskDies 7).foldl (fun s cd => s.applyBudget cd 20) sr).served p).1 = true := by decide +kernel
theorem wit_ModuleCommands_capSet : (ck [offersB sr 0x802 3 (pk 0x802 128 [3, 1, 5]) (pp 0x802 128 [3, 1,5])] (.capSet (dg 0x802 128 [3, 1, 5])) sr fun u => [answersB sr u (pp 0x802 128 [3,1,5]) 3 [], u.capBy .command 0 = 5, u.capBy .command 8 = 5, u.capBy .command 2 = sr.capBy .command 2, u.capBy .service 0 = sr.capBy .service 0,
   kF sr u [Fld.CMD_CNT_MGMT_COUNT, .CLK_STEP_CAP, .CLK_STEP_BUSY], sB sr u fun x => { x with csr := [], out := [], keptReplies := [], caps := [], clocks := [] }]).1 = true := by decide +kernel
theorem wit_ModuleCommands_diePark : (ck [offersB sr 0x803 3 (pk 0x803 128 [3, 1]) (pp 0x803 128 [3, 1])] (.diePark (dg 0x803 128 [3, 1])) (regs sr [(.CLK_STEP_TARGET, 0, 0, 0, 4)]) fun u => [answersB sr u (pp 0x803 128 [3,1]) 3 [], u.fld .CLK_STEP_TARGET 0 = 0, u.fld .CLK_STEP_TARGET 0x10 = 0,
   kF sr u [Fld.CMD_CNT_MGMT_COUNT, .CLK_STEP_TARGET, .CLK_STEP_BUSY], sB sr u fun x => { x with csr := [], out := [], keptReplies := [], clocks := [] }]).1 = true := by decide +kernel

end Patterns

/-! Witnesses about Huward ports. -/

namespace Ports

def hls (s : State) (p : Nat) (l : List (Fld × Nat)) : State := l.foldl (fun s x => s.setHl x.1 p x.2) s
abbrev s := booted
abbrev en (en role cls : Nat) : Word64 := BitVec.ofNat 64 (en + 2 * role + 16 * cls)
theorem wit_PortsTrain_enWrite : (ck [s.hlState 5 = 0] (.hlEnWrite .supervisor 5 (en 1 2 0)) { s with now := 44 } fun u => [u.hlState 5 = 1, u.hl .HL_CTL_EN 5 = 1, u.hlRole 5 = 2, (u.port 5).since = 44, u.resp = .written]).1 = true := by decide +kernel
abbrev st := hls s 5 [(.HL_STATUS_STATE, 5), (.HL_CTL_EN, 1), (.HL_CTL_ROLE, 2), (.HL_STATUS_TX_WIDTH, 12), (.HL_STATUS_RX_WIDTH, 12), (.HL_PEER_VALID, 1), (.HL_STATUS_COMPAT, 1)]
theorem wit_PortsTrain_enDown : (ck [st.inTraffic 5] (.hlEnWrite .supervisor 5 (en 0 2 0)) st fun u => [u.hlState 5 = 0, u.hl .HL_CTL_EN 5 = 0, u.hl .HL_STATUS_TX_WIDTH 5 = 0, u.hl .HL_STATUS_RX_WIDTH 5 = 0, u.hl .HL_PEER_VALID 5 = 0, u.hl .HL_FAULT_DOWN 5 = 1, u.resp = .written]).1 = true := by decide +kernel
theorem wit_PortsTrain_enDown_role_0 : (ck [st.inTraffic 5] (.hlEnWrite .supervisor 5 (en 0 0 0)) st fun u => [u.hlState 5 = 0, u.hl .HL_CTL_EN 5 = 0, u.hl .HL_STATUS_TX_WIDTH 5 = 0, u.hl .HL_STATUS_RX_WIDTH 5 = 0, u.hl .HL_PEER_VALID 5 = 0, u.hl .HL_FAULT_DOWN 5 = 1, u.resp = .written]) = (true, true) := by decide +kernel
theorem wit_PortsTrain_roleTrain : (ck [] (.hlRoleChange 5 3) (hls { s with now := 44 } 5 [(.HL_CTL_EN, 1)]) fun u => [u.hlState 5 = 1, u.hlRole 5 = 3, (u.port 5).since = 44]).1 = true := by decide +kernel
theorem wit_PortsTrain_roleTrain7 : (ck [] (.hlRoleChange 5 7) (hls { s with now := 44 } 5 [(.HL_CTL_EN, 1)]) fun u => [u.hlState 5 = 1, u.hlRole 5 = 7, (u.port 5).since = 44]).1 = true := by decide +kernel
theorem wit_PortsTrain_roleTraffic : (ck [] (.hlRoleChange 5 3) st fun u => [u.hlState 5 = 5, u.hlRole 5 = 3, u.hl .HL_STATUS_COMPAT 5 = 0, (u.port 5).identDue]).1 = true := by decide +kernel
theorem wit_PortsTrain_retrain : (ck [] (.hlRetrain .supervisor 5) st fun u => [u.hlState 5 = 1, u.hl .HL_CNT_RETRAIN_COUNT 5 = 1, u.resp = .written]).1 = true := by decide +kernel
theorem wit_PortsTrain_retrain2 : (ck [] (.hlRetrain .supervisor 5) (hls st 5 [(.HL_CTL_EN, 0)]) fun u => [u.hlState 5 = 0, u.resp = .written]) = (true, true) := by decide +kernel
theorem wit_PortsTrain_retrain3 : (ck [] (.hlRetrain .supervisor 5) (hls s 5 [(.HL_CTL_EN, 1), (.HL_STATUS_STATE, 7)]) fun u => [u.hlState 5 = 0, u.resp = .written]) = (true, true) := by decide +kernel
def lim (k n : Nat) (en : Nat := 1) := ck [] (.trainingTimeout 5) { hls st 5 [(.HL_STATUS_STATE, k), (.HL_CTL_EN, en)] with now := n * usTicks + 1 } fun u => [u.hlState 5 = 1, u.hl .HL_CNT_RETRAIN_COUNT 5 = 1, (u.port 5).since = n * usTicks + 1]
theorem wit_PortsTrain_timeouts : [(lim 1 1000).1, (lim 2 60000).1, (lim 3 1000).1, (lim 4 100).1].all id = true := by decide +kernel
theorem wit_PortsTrain_crossed : (ck [] (.crossedRecheck 5) { (hls st 5 [(.HL_STATUS_STATE, 7)]).modPort 5 fun x => { x with crossed := true } with now := 1000000 * usTicks } fun u => [u.hlState 5 = 1, !(u.port 5).crossed, (u.port 5).since = 1000000 * usTicks]).1 = true := by decide +kernel
theorem wit_PortsTrain_detect_crossed : (ck [] (.detectComplete 5 0x7F 1 2 4 8 16 32) (hls s 5 [(.HL_STATUS_STATE, 1)]) fun u => [u.hlState 5 = 7, u.hl .HL_FAULT_LINK_CROSSED 5 = 1, (u.port 5).crossed, u.events.any fun x => x.code == Ev.code .EV_HL_CROSSED]) = (true, true) := by decide +kernel
theorem wit_PortsTrain_detect : (ck [] (.detectComplete 5 0x3F 1 2 4 8 16 32) { hls s 5 [(.HL_STATUS_STATE, 1)] with now := 9 } fun u => [u.hlState 5 = 2, (u.port 5).since = 9, !(u.port 5).crossed,
   u.hl .HL_LANE_TX_OUT 5 0 = 1, u.hl .HL_LANE_TX_OUT 5 2 = 1, u.hl .HL_LANE_TX_OUT 5 4 = 1, u.hl .HL_LANE_RX_OUT 5 1 = 1, u.hl .HL_LANE_RX_OUT 5 3 = 1, u.hl .HL_LANE_RX_OUT 5 5 = 1, u.hl .HL_LANE_CAUSE 5 0 = 1, u.hl .HL_LANE_CAUSE 5 1 = 1]).1 = true := by decide +kernel
theorem wit_PortsTrain_detect_overlap : (ck [] (.detectComplete 5 0 0xFFF 0xFFF 0xFFF 0xFFF 0xFFF 0xFFF) { hls s 5 [(.HL_STATUS_STATE, 1)] with now := 9 } fun u => [u.hlState 5 = 2, (u.port 5).since = 9, !(u.port 5).crossed,
   u.hl .HL_LANE_TX_OUT 5 11 = 1, u.hl .HL_LANE_RX_OUT 5 11 = 1,  u.hl .HL_LANE_CAUSE 5 0 = 1, u.hl .HL_LANE_CAUSE 5 11 = 1]).1 = true := by decide +kernel
theorem wit_PortsTrain_detect_cause_prior : (ck [] (.detectComplete 5 0 1 0 0 0 0 0) { (hls s 5 [(.HL_STATUS_STATE, 1)]).setHl .HL_LANE_CAUSE 5 4 0 with now := 9 } fun u => [u.hlState 5 = 2, u.hl .HL_LANE_TX_OUT 5 0 = 1, u.hl .HL_LANE_CAUSE 5 0 = 1]) = (true, true) := by decide +kernel
abbrev s3 := hls s 5 [(.HL_STATUS_STATE, 2)]
theorem wit_PortsTrain_equalize : (ck [] (.equalizeComplete 5) s3 fun u => [u.hlState 5 = 3, u.port 5 = { s3.port 5 with since := s3.now }, keeps s3 u [(.HL_STATUS_STATE, portDie 5, portUnit 5, 0)] fun x => { x with csr := [], ports := [] }]) = (true, true) := by decide +kernel
abbrev s4 := hls s 5 [(.HL_STATUS_STATE, 3)]
theorem wit_PortsTrain_align : (ck [4 ≤ s4.txGood 5, 4 ≤ s4.rxGood 5] (.alignComplete 5 0x123456789ABC 0x801) s4 fun u => [u.hlState 5 = 4, u.hl .HL_STATUS_TX_WIDTH 5 = widthFor (s4.txGood 5), u.hl .HL_STATUS_RX_WIDTH 5 = widthFor (s4.rxGood 5),
  (u.port 5).identDue, u.hl .HL_LANE_PEER 5 0 = 0xC, u.hl .HL_LANE_PEER 5 11 = 1, u.hl .HL_LANE_RX_INV 5 0 = 1, u.hl .HL_LANE_RX_INV 5 1 = 0, u.hl .HL_LANE_RX_INV 5 11 = 1]).1 = true := by decide +kernel
abbrev s5 := (List.range 9).foldl (fun s i => s.setHl .HL_LANE_TX_OUT 5 1 i) s4
def lane (c : Instr) (cause : Nat) := ck [] c st fun u => [u.hlState 5 = 3, u.port 5 = { st.port 5 with fast := true, since := st.now }, u.hl .HL_LANE_CAUSE 5 11 = cause, u.hl .HL_LANE_RX_OUT 5 11 = 1,
        u.flagBit .HL_STATUS_RX_OUT (portDie 5) (portUnit 5) 0 11, u.hl .HL_STATUS_COMPAT 5 = 0, u.hl .HL_CNT_RETRAIN_COUNT 5 = 1, raisedB st u .EV_HL_LANE (portDie 5),
        keeps st u ([(Fld.HL_LANE_CAUSE, 11), (.HL_LANE_RX_OUT, 11), (.HL_STATUS_RX_OUT, 0), (.HL_STATUS_COMPAT, 0), (.HL_CNT_RETRAIN_COUNT, 0),
          (.HL_STATUS_STATE, 0)].map fun x => (x.1, portDie 5, portUnit 5, x.2)) fun x => { x with csr := [], ports := [], events := [] }]
theorem wit_PortsTrain_lanes : [(lane (.laneLossOfLock 5 11) 4).1, (lane (.laneErrorRate 5 11) 5).1].all id = true := by decide +kernel
def width (u : State) := if u.hl .HL_STATUS_TX_WIDTH 5 = 12 ∧ u.hl .HL_STATUS_RX_WIDTH 5 = 12 then 5 else 6
abbrev sf (w : Nat) := (hls st 5 [(.HL_STATUS_STATE, 4), (.HL_STATUS_TX_WIDTH, w)]).modPort 5 fun x => { x with fast := true }
theorem wit_PortsTrain_fast : (ck [] (.fastRetrainComplete 5) (sf 12) fun u => [u.hlState 5 = width (sf 12), !(u.port 5).fast]).1 = true := by decide +kernel
theorem wit_PortsTrain_fast8 : (ck [] (.fastRetrainComplete 5) (sf 8) fun u => [u.hlState 5 = 6, !(u.port 5).fast]).1 = true := by decide +kernel
abbrev mi (tx rx : Nat) : List Byte := picotMsg 2 0 17 0 4 0 0 ([0, 0, 0, 0] ++ leBytes 2 rx ++ leBytes 2 tx)
def fp (s : State) (m : List Byte) (p : Nat) : State := ({ s with inbox := [(p, m)] } : State)
theorem wit_PortsTrain_ident_idle : (ck [] .ident (fp s (mi 0xFFF 0xFFF) 5) fun u => [u = ({ fp s (mi 0xFFF 0xFFF) 5 with inbox := [] }).freePicot 5]) = (true, true) := by decide +kernel
def idt (tx rx : Nat) := let a := fp (hls s4 5 [(.HL_STATUS_STATE, 4), (.HL_CTL_EN, 1), (.HL_CTL_ROLE, 2)]) (mi tx rx) 5
  ck [] .ident a fun u => [u.hlState 5 = width u, u.hl .HL_PEER_POS 5 = 17, u.hl .HL_PEER_GEN 5 = 4, u.hl .HL_PEER_VALID 5 = 1,
     u.hl .HL_STATUS_TX_WIDTH 5 = widthFor (min (a.txGood 5) (pop12 (field (mi tx rx) 0x16 2))), u.hl .HL_STATUS_RX_WIDTH 5 = widthFor (min (a.rxGood 5) (pop12 (field (mi tx rx) 0x14 2)))]
theorem wit_PortsTrain_ident : (idt 0xFFF 0xFFF).1 = true := by decide +kernel
theorem wit_PortsTrain_ident_4 : (idt 0xF 0xFFF).1 = true := by decide +kernel
theorem wit_PortsTrain_ident_7_9 : (idt 0x7F 0x1FF).1 = true := by decide +kernel

end Ports

/-! Witnesses about flits and frames. -/

namespace Frames

def hls (s : State) (p : Nat) (l : List (Fld × Nat)) : State := l.foldl (fun s x => s.setHl x.1 p x.2) s
abbrev s := booted
abbrev st := hls s 5 [(.HL_STATUS_STATE, 5), (.HL_CTL_EN, 1), (.HL_CTL_ROLE, 2), (.HL_STATUS_TX_WIDTH, 12), (.HL_STATUS_RX_WIDTH, 12), (.HL_PEER_VALID, 1), (.HL_STATUS_COMPAT, 1)]
abbrev s4 := hls s 5 [(.HL_STATUS_STATE, 3), (.HL_STATUS_TX_OUT, 0x1FF)]
theorem wit_PortsTrain_alignFail : (ck [s4.txGood 5 < 4] (.alignComplete 5 0 0) s4 fun u => [u.hlState 5 = 7, u.hl .HL_FAULT_LANE_FAIL 5 = 1]).1 = true := by decide +kernel
def fl (d : List Byte) (w : Nat) : List Byte := State.padTo 136 d ++ leBytes 6 w ++ leBytes 2 (crc16 (leBytes 6 w))
theorem wit_FlitsAndFramesArrive_flit_low : (ck [] (.flitReceive 5 (fl [] 0) 3 false) (hls s 5 [(.HL_STATUS_STATE, 7)]) fun u => [u = hls s 5 [(.HL_STATUS_STATE, 7)]]) = (true, true) := by decide +kernel
theorem wit_FlitsAndFramesArrive_flit_bad : (ck [] (.flitReceive 5 (fl [] 0) 3 true) st fun u => [u.hl .HL_CNT_FEC_CW_COUNT 5 = 3, u.hl .HL_CNT_FEC_UNC_COUNT 5 = 1, (u.port 5).discarding, u.mem = st.mem]) = (true, true) := by decide +kernel
theorem wit_FlitsAndFramesArrive_flit_bad_align : (ck [] (.flitReceive 5 (fl [] 0) 3 true) (hls st 5 [(.HL_STATUS_STATE, 3)]) fun u => [u.hl .HL_CNT_FEC_CW_COUNT 5 = 3, u.hl .HL_CNT_FEC_UNC_COUNT 5 = 1, (u.port 5).discarding, u.mem = st.mem]) = (true, true) := by decide +kernel
theorem wit_FlitsAndFramesArrive_flit_crc : (ck [] (.flitReceive 5 (State.padTo 142 (fl [] 0) ++ [1,2]) 3 false) st fun u => [u.hl .HL_CNT_FEC_CW_COUNT 5 = 3, u.hl .HL_CNT_CRC_COUNT 5 = 1, (u.port 5).discarding, u.mem = st.mem]).1 = true := by decide +kernel
def cfl (w : Nat) (d : List Byte) (s : State) := ck [bits w 1 0 = 0] (.flitReceive 5 (fl d w) 1 false) s fun u => [u = ((s.hlInc .HL_CNT_FEC_CW_COUNT 5 1).applyControl 5 w).pump]
theorem wit_FlitsAndFramesArrive_flit_ctl : (cfl (2^27 + 5 * 2^30) [] st).1 = true := by decide +kernel
def dfl (w : Nat) (d : List Byte) (s : State) := let t := (s.hlInc .HL_CNT_FEC_CW_COUNT 5 1).applyControl 5 w
  ck [bits w 1 0 ≠ 0, bits w 14 3 = (t.port 5).rxNext] (.flitReceive 5 (fl d w) 1 false) s fun u => [u = (t.acceptFlit 5 (bits w 1 0) (bits w 2 2) (bits w 14 3) ((State.padTo 144 (fl d w)).take 0x88)).pump]
theorem wit_FlitsAndFramesArrive_flit_data : (dfl 1 [1, 2] st).1 = true := by decide +kernel
theorem wit_FlitsAndFramesArrive_flit_picot : (dfl 3 (picotMsg 1 0 17 0 4 0 0 [5]) st).1 = true := by decide +kernel
abbrev bad : LinkFrame := ⟨leBytes 1 9, [], 0, some (5, 1)⟩
abbrev sb := st.modPort 5 fun x => { x with frames := [bad] }
theorem wit_FlitsAndFramesArrive_malformed : (ck [bad.malformed] (.frameReceive 5) sb fun u => [u.fld .HLM_CNT_MISROUTE_COUNT iod0 = 1, (u.port 5).frames = [], keeps sb u [(.HLM_CNT_MISROUTE_COUNT, iod0, 0, 0)] fun x => { x with csr := [], ports := [] }]).1 = true := by decide +kernel
theorem wit_FlitsAndFramesArrive_malformed2 : (ck [] (.frameReceive 5) (sb.modPort 5 fun x => { x with frames := [⟨leBytes 1 9, [[1]], 1, some (5, 1)⟩], picotQ := [[1]], cred0 := 5, pcred := 4 }) fun u => [u.fld .HLM_CNT_MISROUTE_COUNT iod0 = 1, (u.port 5).frames = [], sB sb u fun x => { x with csr := [], ports := [] }]) = (true, true) := by decide +kernel
abbrev good : LinkFrame := ⟨State.padTo 136 (leBytes 1 1 ++ leBytes 1 0), [], 0, some (5, 1)⟩
theorem wit_FlitsAndFramesArrive_frame_good : (ck [!good.malformed] (.frameReceive 5) (st.modPort 5 fun x => { x with frames := [good] }) fun u => [u = (((st.modPort 5 fun x => { x with frames := [good] }).modPort 5 fun x => { x with frames := [] }).routeFrame good).pump]).1 = true := by decide +kernel

end Frames

/-! Witnesses about heartbeats and seals. -/

namespace Hearts

def hls (s : State) (p : Nat) (l : List (Fld × Nat)) : State := l.foldl (fun s x => s.setHl x.1 p x.2) s
abbrev s := booted
abbrev st := hls s 5 [(.HL_STATUS_STATE, 5), (.HL_CTL_EN, 1), (.HL_CTL_ROLE, 2), (.HL_STATUS_TX_WIDTH, 12), (.HL_STATUS_RX_WIDTH, 12), (.HL_PEER_VALID, 1), (.HL_STATUS_COMPAT, 1)]
abbrev hf : LinkFrame := ⟨State.padTo 136 (leBytes 1 1), [], 0, some (2, 1)⟩
abbrev hd : HeldFrame := ⟨hf, 1, 0, 0⟩
abbrev sh := { hls st 5 [(.HL_CTL_ROLE, 1)] with held := [hd], now := 10 * usTicks * 1000 }
theorem wit_HeartbeatsAndSeals_hold : (ck [] .holdLimitExpiry sh fun u => [u.held = [], u.fld .HLM_CNT_NOROUTE_COUNT iod0 = 1, keeps sh u [(.HLM_CNT_NOROUTE_COUNT, iod0, 0, 0)] fun x => { x with csr := [], ports := [], held := [], events := [] }]).1 = true := by decide +kernel
theorem wit_HeartbeatsAndSeals_alive : (ck [] (.hlmAlive .supervisor 1) { s with now := 9 } fun u => [u = { s with now := 9, aliveAt := 9, hbAllowed := true, resp := .written }]) = (true, true) := by decide +kernel
theorem wit_HeartbeatsAndSeals_alive0 : (ck [] (.hlmAlive .supervisor 2) { s with now := 9 } fun u => [u = { s with now := 9, resp := .written }]) = (true, true) := by decide +kernel
theorem wit_HeartbeatsAndSeals_aliveunfit : (ck [] (.hlmAlive .supervisor 1) { s with now := 9, unfit := true } fun u => [u = { s with now := 9, unfit := true, resp := .written }]) = (true, true) := by decide +kernel
abbrev lim := max (s.fld .HLM_CTL_ALIVE_LIMIT iod0) 1 * usTicks
theorem wit_HeartbeatsAndSeals_aliveLim : (ck [] .aliveLimitExpiry { s with now := lim + 4, aliveAt := 4, hbAllowed := true } fun u => [u = { s with now := lim + 4, aliveAt := 4, hbAllowed := false }]) = (true, true) := by decide +kernel
theorem wit_HeartbeatsAndSeals_aliveLimminus : (ck [] .aliveLimitExpiry { s with now := lim + 3, aliveAt := 4, hbAllowed := true } fun u => [u = { s with now := lim + 3, aliveAt := 4, hbAllowed := true }]) = (true, true) := by decide +kernel
abbrev sb := { st with now := 100 * usTicks, aliveAt := 100 * usTicks, hbAllowed := true }
theorem wit_HeartbeatsAndSeals_hb : (ck [0 + max (sb.hl .HL_HB_PERIOD 5) 1 * usTicks ≤ sb.now, sb.now < sb.aliveAt + lim] (.heartbeatSend 5) sb fun u => [u = ((sb.setPort 5 { sb.port 5 with hbCount := ((sb.port 5).hbCount + 1) % 2 ^ 32, hbSent := sb.now }).sendPicotOn 5 (sb.heartbeatMsg 5))]).1 = true := by decide +kernel
theorem wit_HeartbeatsAndSeals_hb_limit : (ck [] (.heartbeatSend 5) { sb with aliveAt := 0, now := lim } fun u => [u = { sb with aliveAt := 0, now := lim }]) = (true, true) := by decide +kernel
abbrev m := picotMsg 1 0 17 0 4 0 0 ([3, 1, 0, 0] ++ leBytes 4 8)
abbrev si : State := { st with inbox := [(5, m)], now := 77 }
theorem wit_HeartbeatsAndSeals_heartbeat : (ck [] .heartbeat si fun u => [u.hl .HL_PEER_POS 5 = 17, u.hl .HL_PEER_GEN 5 = 4, u.hl .HL_PEER_PORT 5 = 3 % 2 ^ Fld.HL_PEER_PORT.width, u.hl .HL_PEER_CATCHER 5 = 1 % 2 ^ Fld.HL_PEER_CATCHER.width, (u.port 5).hbSeen = 77, u.mem = si.mem]).1 = true := by decide +kernel
abbrev sl : State := { st with now := 5 + max (st.hl .HL_HB_LIMIT 5) (2 * max (st.hl .HL_HB_PERIOD 5) 1) * usTicks }.modPort 5 fun x => { x with hbSeen := 5 }
theorem wit_HeartbeatsAndSeals_loss : (ck [] (.heartbeatLoss 5) sl fun u => [u.hl .HL_FAULT_HB_LOSS 5 = 1, !(u.port 5).hbOk, u.events.any fun x => x.code == Ev.code .EV_HL_HB_LOSS && x.die == portDie 5, u.hlState 5 = 5, u.mem = sl.mem]).1 = true := by decide +kernel
theorem wit_HeartbeatsAndSeals_seal0 : (ck [] (.sealOkWrite .supervisor 5 false) (hls st 5 [(.HL_CTL_SEAL_OK, 1)]) fun u => [u.hl .HL_CTL_SEAL_OK 5 = 0, wroteB (hls st 5 [(.HL_CTL_SEAL_OK, 1)]) u [(.HL_CTL_SEAL_OK, portDie 5, portUnit 5, 0)]]).1 = true := by decide +kernel
theorem wit_HeartbeatsAndSeals_seal1 : (ck [!st.sealCheck 5] (.sealOkWrite .supervisor 5 true) st fun u => [u = { st with resp := .written }]) = (true, true) := by decide +kernel

end Hearts

/-! Witnesses about recovery and snapshots. -/

namespace Recovery

def hls (s : State) (p : Nat) (l : List (Fld × Nat)) : State := l.foldl (fun s x => s.setHl x.1 p x.2) s
abbrev s := booted
def cm (sub cpos rgen jgen target c0 c1 : Nat) (gen : Nat := 4) (slot : Nat := 1) (src : Nat := 17) : List Byte :=
  picotMsg 5 slot src 0 gen 0 0 (leBytes 1 sub ++ [0] ++ leBytes 2 cpos ++ leBytes 2 rgen ++ leBytes 2 jgen ++ leBytes 4 target ++ leBytes 4 c0 ++ leBytes 4 c1)
def wi (s : State) (m : List Byte) (p : Nat := 2) : State := { s with inbox := [(p, m)] }
def tk (s : State) (m : List Byte) (p : Nat := 2) : State := ({ wi s m p with inbox := (wi s m p).inbox.erase (p, m) } : State).freePicot p
abbrev g4 := regs s [(.HLM_POS_GEN, iod0, 0, 0, 4), (.HLM_POS_POS, iod0, 0, 0, 3)]
abbrev rows : List (Instr × Nat) := [(Instr.claim, 1), (.accept, 2), (.declare, 3), (.catchFence, 4), (.recover, 5), (.catchResume, 6), (.fillReq, 7),
        (.digest, 8), (.mirrorDone, 9)]
theorem wit_CatchMessagesAreTaken_none : ((rows.map fun r => nx r.1 (wi g4 (cm ((r.2 + 1)) 0 0 0 0 0 0)) (wi g4 (cm (r.2+1) 0 0 0 0 0 0))).all id) = true := by decide +kernel
def stale (c : Instr) (k : Nat) : Bool × Bool := let a := wi g4 (cm k 0 0 0 0 0 0 3)
  ck [] c a fun u => [u.fld .REC_CNT_STALE_COUNT iod0 = 1, kR a u [(.REC_CNT_STALE_COUNT, iod0, 0, 0)], sB (tk g4 (cm k 0 0 0 0 0 0 3)) u fun x => { x with csr := [] }]
theorem wit_CatchMessagesAreTaken_stale : [(stale .claim 1).1, (stale .recover 5).1, (stale .fillReq 7).1, (stale .mirrorDone 9).1].all id = true := by decide +kernel
theorem wit_CatchMessagesAreTaken_claim : (let m := cm 1 9 0 0 0 0 0; ck [] .claim (wi g4 m) fun u => [u = { tk g4 m with claims := [⟨9, 17, 0⟩] }]) = (true, true) := by decide +kernel
abbrev gc := hls (hls (regs g4 [(.HLM_POS_CATCHER, iod0, 0, 0, 1), (.REC_GROUP_POS, iod0, 0, 0, 9 + 10 * 65536 + 11 * 2^32 + 12 * 2^48)]) 0 [(.HL_PEER_POS, 17), (.HL_CTL_ROLE, 3)]) 2 [(.HL_PEER_POS, 18), (.HL_CTL_ROLE, 3)]
theorem wit_CatchMessagesAreTaken_claim_catcher_hyp : ([gc.groupIdx 10 == some 1, gc.wiredSides 1 == [(0, 1), (2, 2)]].all id) = true := by decide +kernel
abbrev gc1 := { gc with claims := [⟨10, 18, 0⟩] }
theorem wit_CatchMessagesAreTaken_claim_catcher : (let m := cm 1 10 0 0 0 0 0; ck [] .claim (wi gc1 m) fun u => [u.myPos = 10, !u.flag .HLM_POS_CATCHER iod0, u.fld .REC_STATUS_STATE iod0 = 1, u.fld .REC_CNT_CATCH_COUNT iod0 = 1, u.mem = s.mem]).1 = true := by decide +kernel
theorem wit_CatchMessagesAreTaken_declares : [(let m := cm 3 10 0 0 0 0 0; ck [] .declare (wi gc1 m) fun u => [u = State.tryAccept { tk gc1 m with claims := (tk gc1 m).claims ++ [⟨17, 17, 0⟩] } 17]).1, (let m := cm 3 10 0 0 0 0 0; let a := hls g4 2 [(.HL_CTL_ROLE, 1)]; ck [] .declare (wi a m) fun u => [u = (tk a m).lossDetected 2]).1, (let m := cm 3 10 0 0 0 0 0; ck [] .declare (wi g4 m) fun u => [u = tk g4 m]).1].all id = true := by decide +kernel
abbrev ga := { hls (hls g4 1 [(.HL_CTL_ROLE, 1), (.HL_CTL_EN, 1), (.HL_STATUS_STATE, 5), (.HL_PEER_POS, 9)]) 2 [(.HL_CTL_ROLE, 3)] with claims := [⟨9, 3, 0⟩] }
theorem wit_CatchMessagesAreTaken_accept : (let m := cm 2 9 0 0 0 0 0; ck [roleDim (ga.hlRole 1) = 1] .accept (wi ga m) fun u => [u.hlRole 1 = 0, u.claims.all fun c => c.pos != 9, u.mem = ga.mem]).1 = true := by decide +kernel
theorem wit_CatchMessagesAreTaken_accept_none : (let m := cm 2 8 0 0 0 0 0; ck [] .accept (wi ga m) fun u => [u = tk ga m]).1 = true := by decide +kernel
theorem wit_CatchMessagesAreTaken_fence : (let m := cm 4 8 0 0 0 0 0; ck [] .catchFence (wi ga m) fun u => [u.hl .HL_CTL_EN 1 = 0]).1 = true := by decide +kernel
theorem wit_CatchMessagesAreTaken_mirrorDone : (let m := cm 9 8 0 0 55 0 0; ck [] .mirrorDone (wi ga m) fun u => [u.fld .SNAP_STATUS_MIRROR_STEP iod0 1 = 55, kR (wi ga m) u [(.SNAP_STATUS_MIRROR_STEP, iod0, 1, 0)], sB (tk ga m) u fun x => { x with csr := [] }]).1 = true := by decide +kernel
abbrev gw := { g4 with claims := [⟨9, 8, 0⟩, ⟨9, 8, 5⟩], now := g4.claimWindow + 1 }
theorem wit_CatchMessagesAreTaken_window : (ck [] .claimWindowExpiry gw fun u => [u.claims = [⟨9, 8, 5⟩], u.fld .REC_CNT_CLAIM_DROP_COUNT iod0 = 1, keeps gw u [(.REC_CNT_CLAIM_DROP_COUNT, iod0, 0, 0)] fun x => { x with csr := [], claims := [] }]).1 = true := by decide +kernel
abbrev sw := hls (regs g4 [(.REC_STATUS_STATE, iod0, 0, 0, 1)]) 1 [(.HL_CTL_ROLE, 1), (.HL_CTL_EN, 1), (.HL_STATUS_STATE, 5), (.HL_STATUS_COMPAT, 1)]
theorem wit_RecoveriesAndSnapshotsGoOn_swing : (ck [sw.rolePorts 1 ++ sw.rolePorts 2 = [1], sw.carriesBulk 1] .swingComplete sw fun u => [u = (sw.recState 2).startCatch]).1 = true := by decide +kernel
theorem wit_RecoveriesAndSnapshotsGoOn_recover_old : (let m := cm 5 8 3 0 noStep 1 2; ck [] .recover (wi g4 m) fun u => [u = tk g4 m]) = (true, true) := by decide +kernel
theorem wit_RecoveriesAndSnapshotsGoOn_recover : (let m := cm 5 8 5 2 noStep 1 2; let t := tk g4 m; ck [] .recover (wi g4 m) fun u => [u = (((t.supersede 1 8).takeRecover 1 8 5 2 noStep 1 2).sendPath 1 (circuitBody 5 8 5 2 noStep noStep noStep)).fillAgain 1 8]).1 = true := by decide +kernel
abbrev gf := regs (g4.setFill 1 (some ⟨0, 17, 0, [], [], 0, false⟩)) [(.SLQ_STATE_STATE, iod0, 1, 0, 2)]
theorem wit_RecoveriesAndSnapshotsGoOn_recover_fills : (let m := cm 5 8 5 2 noStep 1 2; ck [] .recover (wi gf m) fun u => [(u.fillOf 1).map Fill.source = some 17, u.isRecovering 1]).1 = true := by decide +kernel
theorem wit_RecoveriesAndSnapshotsGoOn_recover_source : (let m := cm 5 17 5 2 noStep 1 2; ck [] .recover (wi gf m) fun u => [u.fillOf 1 = none, decide (u.originOf 1 = originRollback) || u.flag .REC_STATUS_FAILED iod0]).1 = true := by decide +kernel
theorem wit_RecoveriesAndSnapshotsGoOn_claims_settle : ([decide (gc1.claimSettle.myPos = 10), decide (gw.claimSettle = gw)].all id) = true := by decide +kernel
theorem wit_RecoveriesAndSnapshotsGoOn_recover_fin : (let m := cm 5 8 5 2 1 1 2; let t := tk g4 m; ck [] .recover (wi g4 m) fun u => [u = (((t.supersede 1 8).takeRecover 1 8 5 2 1 1 2).sendPath 1 (circuitBody 5 8 5 2 1 1 2)).fillAgain 1 8]).1 = true := by decide +kernel
theorem wit_RecoveriesAndSnapshotsGoOn_fillreq : (let m := cm 7 8 0 0 55 0 0; let a := g4.setRecovering 1 true; ck [] .fillReq (wi a m) fun u => [u = { tk a m with fillReqs := [⟨1, 17, 8, 55⟩] }]) = (true, true) := by decide +kernel
theorem wit_RecoveriesAndSnapshotsGoOn_fillreq_q : (let m := cm 7 8 0 0 55 0 0; ck [] .fillReq (wi g4 m) fun u => [u = State.answerFills { tk g4 m with fillReqs := [⟨1, 17, 8, 55⟩] } 1]).1 = true := by decide +kernel
theorem wit_RecoveriesAndSnapshotsGoOn_digest_none : (let m := cm 8 8 0 0 55 0 0; ck [!g4.fillWaits 1 17] .digest (wi g4 m) fun u => [u = tk g4 m]) = (true, true) := by decide +kernel
theorem wit_RecoveriesAndSnapshotsGoOn_digest : (let m := cm 8 8 0 0 55 0 0; let f : Fill := ⟨0, 17, 0, [], [], 0, false⟩; let a := g4.setFill 1 (some f); ck [] .digest (wi a m) fun u => [u = (tk a m).takeDigest 1 f m]).1 = true := by decide +kernel
theorem wit_RecoveriesAndSnapshotsGoOn_digest_other : (let m := cm 8 8 0 0 55 0 0; let f : Fill := ⟨0, 16, 0, [], [], 0, false⟩; let a := g4.setFill 1 (some f); ck [] .digest (wi a m) fun u => [u = tk a m]) = (true, true) := by decide +kernel
theorem wit_RecoveriesAndSnapshotsGoOn_resume_circ : (let m := cm 6 3 0 0 55 0 0; let a := g4.setOrigin 1 originCircling; ck [] .catchResume (wi a m) fun u => [u = (((tk a m).setOrigin 1 0).recState 0).endLoss 3]) = (true, true) := by decide +kernel
theorem wit_RecoveriesAndSnapshotsGoOn_resume : (let m := cm 6 8 1 2 55 0 0; ck [] .catchResume (wi g4 m) fun u => [u = (((tk g4 m).sendPath 1 (circuitBody 6 8 1 2 55 0 0)).passResume 1 8)]).1 = true := by decide +kernel
abbrev gr := g4.setRecovering 1 true
theorem wit_RecoveriesAndSnapshotsGoOn_quiet : (ck [] (.quietReached 1) gr fun u => [u = ((gr.setQuiet 1 true).recState 2).answerFills 1]) = (true, true) := by decide +kernel
abbrev gq := (gr.setQuiet 1 true).setRestore 1 (some 5)
theorem wit_RecoveriesAndSnapshotsGoOn_restore : (let t := (gq.restoreStep 1 5).2; ck [!(gq.restoreStep 1 5).1] (.restoreComplete 1) gq fun u => [u.fld .REC_STATUS_FAILED iod0 = 1, raisedB t u .EV_REC_NO_COMMON iod0, keeps t u [(.REC_STATUS_FAILED, iod0, 0, 0)] fun x => { x with csr := [], events := [] }]).1 = true := by decide +kernel
abbrev gs := g4.setSnap 1 (some ⟨.copying, 0, 5, []⟩)
theorem wit_RecoveriesAndSnapshotsGoOn_copy : (let t := (gs.readCommitted 1).2; ck [gs.slotIdle 1, (gs.readCommitted 1).1.isNone] (.snapshotCopyComplete 1) gs fun u => [u = t.endSnap 1 stBadParam]).1 = true := by decide +kernel
abbrev gd := g4.setSnap 1 (some ⟨.draining, 0, 5, []⟩)
theorem wit_RecoveriesAndSnapshotsGoOn_drain : (ck [] (.snapshotDrainComplete 1) gd fun u => [u.snap 1 = none, !u.slotPause.get false (Key.at 0 1), u.fld .SNAP_STATUS_STEP iod0 1 = 5, u.cmdRuns.all fun x => !(x.pkt.op = 0x0501 && x.pkt.slot = 1)]) = (true, true) := by decide +kernel
abbrev gz : State := { hls g4 1 [(.HL_CTL_ROLE, 1), (.HL_STATUS_STATE, 5), (.HL_PEER_VALID, 1), (.HL_PEER_GEN, 7)] with flash := [(5, 1)] }
theorem wit_RecoveriesAndSnapshotsGoOn_wipe : ([gz.staleHere, gz.wipeStale.flash.isEmpty, decide ((gz.setHl .HL_PEER_GEN 1 4).wipeStale = gz.setHl .HL_PEER_GEN 1 4), decide ((gz.setSlotState 2 slotReady).wipeStale = gz.setSlotState 2 slotReady)].all id) = true := by decide +kernel

end Recovery

/-! Witnesses about bring-up, firmware and policies. -/

namespace Modules

def hls (s : State) (p : Nat) (l : List (Fld × Nat)) : State := l.foldl (fun s x => s.setHl x.1 p x.2) s
abbrev s := booted
theorem wit_BringUpGoesOn_powerGood : (ck [] (.powerGood 2 [1,2] true false) { State.reset with now := 7 } fun u => [u.booted, u.bootAt = 7, u.mgmtUp, u.record = [1,2], u.fld .PWR_STATUS_SERVING iod0 = 2, u.fld .PWR_STATUS_LOST iod0 = 0, u.fld .SUP_CYCLES_POWER iod0 = 1, u.fld .DIE_STATUS_IN_SERVICE iod0 = 1, u.mem = []]).1 = true := by decide +kernel
abbrev bu := { regs { State.reset with booted := true, fwRuns := true, mgmtUp := true } [(.ID_STATUS_RECORD_OK, iod0, 0, 0, 1)] with stage1 := true }
theorem wit_BringUpGoesOn_selfTest : (ck [bu.selfTest (dieOf 13) = 0] (.selfTestComplete 13 true) bu fun u => [u = (({ bu with selfTests := bu.selfTests.set 0 (Key.at (dieOf 13)) 1 }.setFld .DIE_STATUS_IN_SERVICE (dieOf 13) 0 0 1).svcSettle)]).1 = true := by decide +kernel
theorem wit_BringUpGoesOn_selfTest2 : (ck [bu.selfTest (dieOf 3) = 0] (.selfTestComplete 3 true) bu fun u => [u = ({ bu with selfTests := bu.selfTests.set 0 (Key.at (dieOf 3)) 1 }.svcSettle)]).1 = true := by decide +kernel
abbrev bt := { bu with selfTests := bu.selfTests.set 0 (Key.at (mhDie 0)) 1 }
theorem wit_BringUpGoesOn_firstTraining : (ck [bt.training 5 = none] (.firstTrainingComplete 5 false) bt fun u => [u = (((bt.setTraining 5 ⟨false, 1, false⟩).setFld .MEM_HBM_SPLIT_HL_GIB mh0 0 0 48).svcSettle)]).1 = true := by decide +kernel
abbrev br := bt.setTraining 5 ⟨false, 3, false⟩
theorem wit_BringUpGoesOn_retrain1 : (ck [] (.stackRetrainComplete 5 true) br fun u => [u = (((br.setTraining 5 ⟨true, 3, false⟩).setBit .DIE_STATUS_UNITS_OUT (mhDie 0) 0 0 5 false).svcSettle)]).1 = true := by decide +kernel
theorem wit_BringUpGoesOn_retrain0 : (ck [] (.stackRetrainComplete 5 false) br fun u => [u = ((br.setTraining 5 ⟨false, 4, false⟩).svcSettle)]) = (true, true) := by decide +kernel
theorem wit_BringUpGoesOn_bound : (ck [({ bu with now := 25 * secTicks }).boundDue] .stageBoundExpiry { bu with now := 25 * secTicks } fun u => [u.lateLevel = 1, u.mem = []]).1 = true := by decide +kernel
abbrev cr := { (regs bu [(.SVC_STATUS_LEVEL, iod0, 0, 0, 2)]).setCause .service 0 4 with now := 20 * secTicks }
theorem wit_BringUpGoesOn_cap : (ck [cr.capBy .service 0 = 4, cr.capBy .wiring 0 = 7, cr.capBy .coolant 0 = 7] .capRaise cr fun u => [u = (({ cr with capRaised := cr.now } : State).raiseCaps .service (List.range 12)).svcSettle]).1 = true := by decide +kernel
theorem wit_BringUpGoesOn_sample_none : (ck [] (.sensorSample 5 3 0) State.reset fun u => [u = State.reset]) = (true, true) := by decide +kernel
theorem wit_BringUpGoesOn_sample_330 : (ck [] (.sensorSample 330 3 0) bu fun u => [u = (bu.takeSample 330 3).svcSettle]).1 = true := by decide +kernel
theorem wit_BringUpGoesOn_sample_305 : (ck [] (.sensorSample 305 3 0) bu fun u => [u = (bu.takeSample 305 3).judgeCarrier.svcSettle]).1 = true := by decide +kernel
theorem wit_BringUpGoesOn_sample_35 : (ck [] (.sensorSample 35 3 0) bu fun u => [u = ((((bu.takeSample 35 3).judgeDie 35 1).throttle 1).critical 35 1).svcSettle]).1 = true := by decide +kernel
theorem wit_BringUpGoesOn_opsec : (ck [] .operatingSecond bu fun u => [u.fld .SUP_OPSEC_SECONDS iod0 = 1, keeps bu u [(.SUP_OPSEC_SECONDS, iod0, 0, 0)] id]) = (true, true) := by decide +kernel
abbrev mr := regs { bu with mem := [(5, 6)], now := 9 } [(.FW_STATUS_FLOOR, iod0, 0, 0, 3), (.DIE_STATUS_IN_SERVICE, 3, 0, 0, 1), (.SLQ_STATE_STATE, iod0, 2, 0, 2)]
theorem wit_FirmwareAndWatchdogAct_modreset : (ck [] .moduleReset mr fun u => [!u.resetDue, u.mem = mr.mem, u.now = 9, u.fld .FW_STATUS_FLOOR iod0 = 3, u.slotState 2 = slotFree, u.fld .DIE_STATUS_IN_SERVICE 3 = 0]) = (true, true) := by decide +kernel
theorem wit_FirmwareAndWatchdogAct_modreset_wait : (ck [] .moduleReset (regs mr [(.EVR_STATUS_CLEARING, iod0, 0, 0, 1)]) fun u => [u.resetDue, u.mem = mr.mem]) = (true, true) := by decide +kernel
theorem wit_FirmwareAndWatchdogAct_modreset_wait2 : (ck [] .moduleReset { mr with flushN := some 0 } fun u => [u.resetDue, u.mem = mr.mem]) = (true, true) := by decide +kernel
abbrev s1 := regs { s with fwA := ⟨true, 1, 2, []⟩, fwB := ⟨true, 1, 2, []⟩ } [(.SLQ_STATE_STATE, iod0, 2, 0, 2)]
abbrev w := { s1 with now := 5 + 2 * s1.wdogLimit, wdogAt := 5 }
def rs (c : Instr) (s : State) (cause : Nat) := ck [] c s fun u => [u.fld .SUP_CYCLES_RESETS iod0 = 1, u.fld .SUP_STATUS_CAUSE iod0 = cause, u.policy = none, u.quoting = none, u.fwJob = none, u.fwTrial = 0, u.supBootAt = s.now]
theorem wit_FirmwareAndWatchdogAct_wdog : (rs .watchdogReset w 1).1 = true := by decide +kernel
theorem wit_FirmwareAndWatchdogAct_nmi : (ck [] .watchdogNmi { s1 with now := 5 + s1.wdogLimit, wdogAt := 5 } fun u => [u.wdogNmi, u.fld .SUP_WDOG_NMI_SEEN iod0 = 1]) = (true, true) := by decide +kernel
theorem wit_FirmwareAndWatchdogAct_fwReboot : (ck [] (.fwReboot .supervisor) s fun u => [u.fld .SUP_CYCLES_RESETS iod0 = 1, u.fld .SUP_STATUS_CAUSE iod0 = 3, u.policy = none, u.fwTrial = 0, u.resp = .written]) = (true, true) := by decide +kernel
abbrev sy := s.setFrame 1 0 { Frame.reset with owner := .system }
abbrev sw := regs sy [(.FW_UPD_ADDR_ADDR, iod0, 0, 0, tier2Base), (.FW_UPD_LEN_LEN, iod0, 0, 0, 32)]
theorem wit_FirmwareAndWatchdogAct_fwWrite : (ck [sw.systemRange tier2Base 32] (.fwWrite .supervisor) sw fun u => [u.fwSlot true = ⟨false, 0, 0, []⟩, u.fwSlot false = sw.fwSlot false, u.fwJob = some (tier2Base, 32), u.fld .FW_STATUS_BUSY iod0 = 1, u.resp = .written,
   keeps sw u [(.FW_STATUS_BUSY, iod0, 0, 0)] fun x => { x with csr := [], fwA := ⟨false, 0, 0, []⟩, fwB := ⟨false, 0, 0, []⟩, fwJob := none, resp := .none }]).1 = true := by decide +kernel
abbrev sj := { sw with fwJob := some (tier2Base, 32) }
theorem wit_FirmwareAndWatchdogAct_fwEnd : (ck [] (.fwWriteComplete false) sj fun u => [u.fwSlot true = ⟨false, 0, 0, []⟩, u.fwJob = none, u.fld .FW_STATUS_BUSY iod0 = 0, u.fld .FW_STATUS_RESULT iod0 = 5, kR (sj.supRead tier2Base 32).2 u [(.FW_STATUS_BUSY, iod0, 0, 0), (.FW_STATUS_RESULT, iod0, 0, 0)]]).1 = true := by decide +kernel
theorem wit_FirmwareAndWatchdogAct_fwEnd2 : (ck [] (.fwWriteComplete true) sj fun u => [u.fwSlot true = ⟨false, 0, 0, []⟩, u.fwJob = none, u.fld .FW_STATUS_BUSY iod0 = 0, u.fld .FW_STATUS_RESULT iod0 = 2]).1 = true := by decide +kernel
theorem wit_FirmwareAndWatchdogAct_fwTrial : (ck [s1.fwVerifies true] (.fwTrial .supervisor) s1 fun u => [u = { s1 with fwTrial := 2, resp := .written }]) = (true, true) := by decide +kernel
theorem wit_FirmwareAndWatchdogAct_fwFloor : (ck [] (.fwFloor .supervisor) s1 fun u => [u.fld .FW_STATUS_FLOOR iod0 = 2, wroteB s1 u [(.FW_STATUS_FLOOR, iod0, 0, 0)]]) = (true, true) := by decide +kernel
abbrev tc := { regs s [(.SUP_STATUS_TRIAL, iod0, 0, 0, 1), (.SUP_STATUS_SLOT, iod0, 0, 0, 1)] with now := 60 * secTicks }
theorem wit_FirmwareAndWatchdogAct_trialConfirm : (ck [] .trialConfirm tc fun u => [u.fld .FW_STATUS_PREF iod0 = 1, u.fld .SUP_STATUS_TRIAL iod0 = 0, raisedB tc u .EV_FW_UPDATE carrierDie, keeps tc u [(.FW_STATUS_PREF, iod0, 0, 0), (.SUP_STATUS_TRIAL, iod0, 0, 0)] fun x => { x with csr := [], events := [] }]).1 = true := by decide +kernel
theorem wit_FirmwareAndWatchdogAct_coreMark : (ck [isMachine (.core 3 true)] (.supCoreMark (.core 3 true) 1) booted fun u => [u.coreMark, u.resp = .written]) = (true, true) := by decide +kernel
abbrev q := regs sy [(.POL_ADDR_ADDR, iod0, 0, 0, tier2Base), (.POL_LEN_LEN, iod0, 0, 0, 8)]
theorem wit_QuotesPoliciesAndReleases_polInstall_bad : (let r := q.supRead tier2Base 8; let k := (r.2.polCheck r.1).1; ck [r.1.isSome, k ≠ 1] (.polInstall .supervisor) q fun u => [u.fld .POL_CTL_RESULT iod0 = k, raisedB r.2 u .EV_POL_REFUSED carrierDie, u.policy = r.2.policy, u.resp = .written,
          keeps r.2 u [(.POL_CTL_RESULT, iod0, 0, 0)] fun x => { x with csr := [], events := [], resp := .none }]).1 = true := by decide +kernel
theorem wit_QuotesPoliciesAndReleases_polReset : (ck [!q.sealedState] (.polReset .supervisor) q fun u => [u.policy = none, u.polHash = [], u.polFloor = 0, u.fld .POL_CTL_RESULT iod0 = 1, keeps q u [(.ID_STATUS_POLICY, iod0, 0, 0), (.ID_STATUS_POL_VER, iod0, 0, 0), (.POL_CTL_RESULT, iod0, 0, 0)]
        fun x => { x with csr := [], policy := none, polHash := [], polFloor := 0, resp := .none }]).1 = true := by decide +kernel
abbrev qs := q.setFrame 1 3 { Frame.reset with isSealed := true }
theorem wit_QuotesPoliciesAndReleases_polReset_sealed : (ck [qs.sealedState] (.polReset .supervisor) qs fun u => [u.fld .POL_CTL_RESULT iod0 = 8, wroteB qs u [(.POL_CTL_RESULT, iod0, 0, 0)]]) = (true, true) := by decide +kernel
theorem wit_QuotesPoliciesAndReleases_logack : (ck [] (.tsLogAck .supervisor 9) (regs q [(.TS_STATUS_SEQ, iod0, 0, 0, 5)]) fun u => [u.relAck = 5]) = (true, true) := by decide +kernel
theorem wit_QuotesPoliciesAndReleases_release_bad : (let t := q.refill; ck [t.relCheck 1 ≠ 0] (.tsRelease .supervisor 1) q fun u => [u.fld .TS_REL_CTL_RESULT iod0 1 = t.relCheck 1, u.fld .TS_CNT_REFUSED_COUNT iod0 = 1, raisedB t u .EV_TS_REFUSED iod0, u.resp = .written, kR q u [(.TS_REL_CTL_RESULT, iod0, 1, 0), (.TS_CNT_REFUSED_COUNT, iod0, 0, 0)],
        sB t u fun x => { x with csr := [], events := [], resp := .none }]).1 = true := by decide +kernel
theorem wit_QuotesPoliciesAndReleases_quoteComplete_none : (ck [] .quoteComplete q fun u => [u = q]) = (true, true) := by decide +kernel
theorem wit_QuotesPoliciesAndReleases_quote : (ck [] (.quote .supervisor) q fun u => [u.fld .ATT_CTL_BUSY iod0 = 1, u.resp = .written]) = (true, true) := by decide +kernel

end Modules

end Sys2Proof.Tests
end

section
/-! PROOF. What every command and every step do: the row of a command goes on, keeps what register and memory writes keep, and so
keeps the storage invariant, the queue and the stepping. -/

namespace Sys2Proof.Machine

/-- Every row of the table keeps a property that the writes of registers and memory keep: the laws of the rows, put together. -/
theorem exec_keeps {P : State → Prop} (hP : Writes P) {s : State} (h : P s) (c : Instr) : OutInv P (exec c s) := by
  have hS := hP.toStable
  cases c with
  | issue => exact execIssue_keeps hP h
  | wait => exact execWait_keeps hP h
  | waitSatisfied => exact execWaitSatisfied_keeps hS h
  | salu => exact execSalu_keeps hP h
  | br => exact execBr_keeps hP h
  | post => exact execPost_keeps hP h
  | fence => exact execFence_keeps hP h
  | fenceComplete => exact execFenceComplete_keeps hS h
  | signal => exact execSignal_keeps hP h
  | cinc => exact execCinc_keeps hP h
  | yield => exact execYield_keeps hP h
  | endContext => exact execEnd_keeps hP h
  | cset => exact execCset_keeps hP h
  | csetEntryEffect => exact execCsetEntryEffect_keeps hP h
  | add => exact execAdd_keeps hP h
  | sub => exact execSub_keeps hP h
  | mul => exact execMul_keeps hP h
  | fma => exact execFma_keeps hP h
  | max => exact execMax_keeps hP h
  | min => exact execMin_keeps hP h
  | cmp => exact execCmp_keeps hP h
  | sel => exact execSel_keeps hP h
  | cvt => exact execCvt_keeps hP h
  | func => exact execFunc_keeps hP h
  | rsum => exact execRsum_keeps hP h
  | rmax => exact execRmax_keeps hP h
  | perm => exact execPerm_keeps hP h
  | ticketRelease => exact execTicketRelease_keeps hS h
  | resTile => exact execResTile_keeps hP h
  | holdLoad => exact execHoldLoad_keeps hP h
  | holdPass => exact execHoldPass_keeps hP h
  | arrayCommandComplete => exact execArrayCommandComplete_keeps hP h
  | arrAcbRgnBaseWrite => exact execArrAcbRgnBaseWrite_keeps hS h
  | arrAcbRgnWgmWrite => exact execArrAcbRgnWgmWrite_keeps hS h
  | arrLsSeedWrite => exact execArrLsSeedWrite_keeps hS h
  | arrParkRequest => exact execArrParkRequest_keeps hS h
  | arrayPark => exact execArrayPark_keeps hS h
  | arrayWakeComplete => exact execArrayWakeComplete_keeps hS h
  | arrFaultClear => exact execArrFaultClear_keeps hS h
  | feedSub => exact execFeedSub_keeps hP h
  | feedPriv => exact execFeedPriv_keeps hP h
  | inject => exact execInject_keeps hP h
  | capture => exact execCapture_keeps hP h
  | tileDeclare => exact execTileDeclare_keeps hP h
  | tileArm => exact execTileArm_keeps hS h
  | flitInject => exact execFlitInject_keeps hP h
  | slotReserve => exact execSlotReserve_keeps hS h
  | tileRideEnd => exact execTileRideEnd_keeps hS h
  | armStall => exact execArmStall_keeps hS h
  | bobbinSlotReady => exact execBobbinSlotReady_keeps hP h
  | bobbinPassEnd => exact execBobbinPassEnd_keeps hP h
  | fdrFaultClear => exact execFdrFaultClear_keeps hS h
  | carFaultClear => exact execCarFaultClear_keeps hS h
  | vld => exact execVld_keeps hP h
  | vst => exact execVst_keeps hP h
  | scalePick => exact execScalePick_keeps hP h
  | ftabLoad => exact execFtabLoad_keeps hP h
  | vmemComplete => exact execVmemComplete_keeps hP h
  | veSrSeedWrite => exact execVeSrSeedWrite_keeps hS h
  | stashPurgeWrite => exact execStashPurgeWrite_keeps hP h
  | numStepWrite => exact execNumStepWrite_keeps hS h
  | voteLocalReady => exact execVoteLocalReady_keeps hP h
  | voteGather => exact execVoteGather_keeps hS h
  | voteResult => exact execVoteResult_keeps hS h
  | voteTimeout => exact execVoteTimeout_keeps hS h
  | updateComplete => exact execUpdateComplete_keeps hP h
  | memRead => exact execMemRead_keeps hP h
  | memWrite => exact execMemWrite_keeps hP h
  | zeroingComplete => exact execZeroingComplete_keeps hP h
  | scrubWord => exact execScrubWord_keeps hP h
  | memFrameDataWrite => exact execMemFrameDataWrite_keeps hS h
  | sramClassWrite => exact execSramClassWrite_keeps hS h
  | rawRead => exact execRawRead_keeps hP h
  | rawWrite => exact execRawWrite_keeps hP h
  | stream => exact execStream_keeps hP h
  | streamFault => exact execStreamFault_keeps hP h
  | streamEnd => exact execStreamEnd_keeps hP h
  | seChResume => exact execSeChResume_keeps hP h
  | seChFail => exact execSeChFail_keeps hP h
  | faultLimitExpiry => exact execFaultLimitExpiry_keeps hP h
  | poolStall => exact execPoolStall_keeps hS h
  | seSrSeedWrite => exact execSeSrSeedWrite_keeps hS h
  | xltInvalWrite _ _ v => exact execXltInvalWrite_keeps hS (v := v) h
  | xltInvalDone => exact execXltInvalDone_keeps hS h
  | crossingError => exact execCrossingError_keeps hP h
  | stretchPeriod => exact execStretchPeriod_keeps hS h
  | clkStepWrite => exact execClkStepWrite_keeps hS h
  | supplyChangeDone => exact execSupplyChangeDone_keeps hS h
  | glideComplete => exact execGlideComplete_keeps hS h
  | stopHalt => exact execStopHalt_keeps hS h
  | stopRestart => exact execStopRestart_keeps hP h
  | hlEnWrite => exact execHlEnWrite_keeps hS h
  | hlRoleChange => exact execHlRoleChange_keeps hS h
  | sealOkWrite => exact execSealOkWrite_keeps hS h
  | hlRetrain => exact execHlRetrain_keeps hS h
  | detectComplete => exact execDetectComplete_keeps hS h
  | equalizeComplete => exact execEqualizeComplete_keeps hS h
  | alignComplete => exact execAlignComplete_keeps hS h
  | trainingTimeout => exact execTrainingTimeout_keeps hS h
  | crossedRecheck => exact execCrossedRecheck_keeps hS h
  | laneLossOfLock => exact execLaneLossOfLock_keeps hS h
  | laneErrorRate => exact execLaneErrorRate_keeps hS h
  | fastRetrainComplete => exact execFastRetrainComplete_keeps hS h
  | flitReceive => exact execFlitReceive_keeps hS h
  | frameReceive => exact execFrameReceive_keeps hP h
  | holdLimitExpiry => exact execHoldLimitExpiry_keeps hS h
  | heartbeatSend => exact execHeartbeatSend_keeps hS h
  | heartbeat => exact execHeartbeat_keeps hS h
  | heartbeatLoss => exact execHeartbeatLoss_keeps hS h
  | aliveLimitExpiry => exact execAliveLimitExpiry_keeps hS h
  | hlmAlive => exact execHlmAlive_keeps hS h
  | ident => exact execIdent_keeps hS h
  | doorbell => exact execDoorbell_keeps hP h
  | peerCmdReply => exact execPeerCmdReply_keeps hS h
  | allReduce => exact execAllReduce_keeps hP h
  | reduceScatter => exact execReduceScatter_keeps hP h
  | allGather => exact execAllGather_keeps hP h
  | allToAll => exact execAllToAll_keeps hP h
  | permute => exact execPermute_keeps hP h
  | send => exact execSend_keeps hP h
  | recv => exact execRecv_keeps hP h
  | shift => exact execShift_keeps hP h
  | barrier => exact execBarrier_keeps hP h
  | reFrameConsume => exact execReFrameConsume_keeps hP h
  | collectiveEnd => exact execCollectiveEnd_keeps hP h
  | collectiveTimeout => exact execCollectiveTimeout_keeps hS h
  | credit => exact execCredit_keeps hP h
  | count => exact execCount_keeps hP h
  | barrierGather => exact execBarrierGather_keeps hP h
  | barrierResult => exact execBarrierResult_keeps hP h
  | noiseGather => exact execNoiseGather_keeps hP h
  | noiseResult => exact execNoiseResult_keeps hP h
  | reListCtlWrite => exact execReListCtlWrite_keeps hS h
  | reSrSeedWrite => exact execReSrSeedWrite_keeps hS h
  | yieldForced => exact execYieldForced_keeps hP h
  | claim => exact execClaim_keeps hS h
  | claimWindowExpiry => exact execClaimWindowExpiry_keeps hP h
  | accept => exact execAccept_keeps hS h
  | declare => exact execDeclare_keeps hS h
  | catchFence => exact execCatchFence_keeps hP h
  | swingComplete => exact execSwingComplete_keeps hP h
  | recover => exact execRecover_keeps hP h
  | quietReached => exact execQuietReached_keeps hP h
  | fillReq => exact execFillReq_keeps hP h
  | fillFrame => exact execFillFrame_keeps hP h
  | digest => exact execDigest_keeps hP h
  | catchResume => exact execCatchResume_keeps hP h
  | mirrorFrame => exact execMirrorFrame_keeps hS h
  | mirrorDone => exact execMirrorDone_keeps hS h
  | snapshotCopyComplete => exact execSnapshotCopyComplete_keeps hP h
  | snapshotDrainComplete => exact execSnapshotDrainComplete_keeps hP h
  | restoreComplete => exact execRestoreComplete_keeps hP h
  | datagramDiscard => exact execDatagramDiscard_keeps hS h
  | slqDb => exact execSlqDb_keeps hS h
  | slotCreate => exact execSlotCreate_keeps hP h
  | slotDisable => exact execSlotDisable_keeps hP h
  | slotStatus => exact execSlotStatus_keeps hP h
  | patLoad => exact execPatLoad_keeps hP h
  | patUnload => exact execPatUnload_keeps hP h
  | patLaunch => exact execPatLaunch_keeps hP h
  | ctxResume => exact execCtxResume_keeps hP h
  | frameGrant => exact execFrameGrant_keeps hP h
  | frameRelease => exact execFrameRelease_keeps hP h
  | quotaSet => exact execQuotaSet_keeps hP h
  | slotRegWrite => exact execSlotRegWrite_keeps hP h
  | stashPurge => exact execStashPurge_keeps hP h
  | stepRate => exact execStepRate_keeps hP h
  | groupWrite => exact execGroupWrite_keeps hP h
  | lscaleSet => exact execLscaleSet_keeps hP h
  | skipNext => exact execSkipNext_keeps hP h
  | stepQuery => exact execStepQuery_keeps hP h
  | snapTake => exact execSnapTake_keeps hP h
  | snapConfig => exact execSnapConfig_keeps hP h
  | snapStatus => exact execSnapStatus_keeps hP h
  | ringForm => exact execRingForm_keeps hP h
  | portRole => exact execPortRole_keeps hP h
  | catchTable => exact execCatchTable_keeps hP h
  | handback => exact execHandback_keeps hP h
  | join => exact execJoin_keeps hP h
  | ringStatus => exact execRingStatus_keeps hP h
  | csrRead => exact execCsrRead_keeps hP h
  | csrWrite => exact execCsrWrite_keeps hP h
  | selftest => exact execSelftest_keeps hP h
  | budgetSet => exact execBudgetSet_keeps hP h
  | capSet => exact execCapSet_keeps hP h
  | diePark => exact execDiePark_keeps hP h
  | abortQueue => exact execAbortQueue_keeps hP h
  | abortSlot => exact execAbortSlot_keeps hP h
  | abortCmd => exact execAbortCmd_keeps hP h
  | powerGood => exact execPowerGood_keeps hS h
  | stageBoundExpiry => exact execStageBoundExpiry_keeps hS h
  | stackRetrainComplete => exact execStackRetrainComplete_keeps hS h
  | capRaise => exact execCapRaise_keeps hS h
  | supCoreMark => exact execSupCoreMark_keeps hS h
  | watchdogKick => exact execWatchdogKick_keeps hS h
  | watchdogNmi => exact execWatchdogNmi_keeps hS h
  | watchdogReset => exact execWatchdogReset_keeps hP h
  | supSramUe => exact execSupSramUe_keeps hP h
  | fwWrite => exact execFwWrite_keeps hS h
  | fwWriteComplete => exact execFwWriteComplete_keeps hP h
  | fwTrial => exact execFwTrial_keeps hS h
  | fwReboot => exact execFwReboot_keeps hP h
  | fwFloor => exact execFwFloor_keeps hS h
  | trialConfirm => exact execTrialConfirm_keeps hS h
  | sensorSample => exact execSensorSample_keeps hP h
  | snsFaultClear => exact execSnsFaultClear_keeps hS h
  | quote => exact execQuote_keeps hS h
  | quoteComplete => exact execQuoteComplete_keeps hS h
  | polInstall => exact execPolInstall_keeps hP h
  | polReset => exact execPolReset_keeps hS h
  | tsRelease => exact execTsRelease_keeps hS h
  | tsReleaseComplete => exact execTsReleaseComplete_keeps hP h
  | tsLogAck => exact execTsLogAck_keeps hS h
  | eventRaise => exact execEventRaise_keeps hS h
  | evrFlush => exact execEvrFlush_keeps hS h
  | evrFlushComplete => exact execEvrFlushComplete_keeps hS h
  | evrClear => exact execEvrClear_keeps hS h
  | evrEraseComplete => exact execEvrEraseComplete_keeps hS h
  | inputReversed => exact execInputReversed_keeps hS h
  | inputOvervoltage => exact execInputOvervoltage_keeps hS h
  | inputOvercurrent => exact execInputOvercurrent_keeps hS h
  | stageReclose => exact execStageReclose_keeps hS h
  | inputLost => exact execInputLost_keeps hS h
  | inputRestored => exact execInputRestored_keeps hS h
  | dieBootLockWrite => exact execDieBootLockWrite_keeps hP h
  | csrRegisterWrite => exact execCsrRegisterWrite_keeps hP h
  | moduleReset => exact execModuleReset_keeps hS h
  | selfTestComplete => exact execSelfTestComplete_keeps hS h
  | firstTrainingComplete => exact execFirstTrainingComplete_keeps hS h
  | dataPortTransmit => exact execDataPortTransmit_keeps hP h
  | operatingSecond => exact execOperatingSecond_keeps hS h

/-- No row answers a fault or a refusal: each arm of the dispatch is a next state. -/
theorem exec_goesOn (c : Instr) (s : State) : ∃ t, exec c s = .next t := by
  cases c <;> exact ⟨_, rfl⟩

theorem step_nil {s : State} (h : s.pending = []) : step s = .next s.tick := by
  simp only [step, h]

theorem step_cons {s : State} {c : Instr} {rest : List Instr} (h : s.pending = c :: rest) :
    step s = exec c { s with pending := rest } := by
  simp only [step, h]

/-- The storage invariant says nothing about the queue. -/
theorem State.Inv.withPending {s : State} (h : s.Inv) (q : List Instr) : State.Inv { s with pending := q } :=
  ⟨h.csr, h.fits, h.mem, h.side⟩

theorem step_keeps_inv {s : State} (h : s.Inv) : OutInv State.Inv (step s) := by
  cases hq : s.pending with
  | nil =>
    rw [step_nil hq]
    exact .next (State.tick_keeps State.Inv_writes h)
  | cons c rest =>
    rw [step_cons hq]
    exact exec_keeps State.Inv_writes (h.withPending rest) c

theorem reset_inv : State.reset.Inv where
  csr := rfl
  fits F d _ _ := Fld.resetOf_lt F d
  mem := rfl
  side := rfl

end Sys2Proof.Machine

open Sys2Proof Sys2Proof.Machine

/-- Settles O1: the step of a queue that is not empty. -/
theorem stepRunsFront : Obligations.StepRunsFront := fun _ _ _ => step_cons

/-- Settles O2: the tick keeps the queue, as every operation does. -/
theorem idleStepTicks : Obligations.IdleStepTicks := fun _ h =>
  ⟨step_nil h, State.tick_keeps (pending_writes []) h⟩

/-- Settles O3: the tables are empty after reset, and every reset value fits its field. -/
theorem resetKeepsInv : Obligations.ResetKeepsInv := reset_inv

/-- Settles O4: the invariant is kept by every write, so by every row and by the tick. -/
theorem stepKeepsInv : Obligations.StepKeepsInv := fun _ _ h hst => (step_keeps_inv h).get hst

/-- Settles O5: the tick and every row answer a next state. -/
theorem everyStepGoesOn : Obligations.EveryStepGoesOn := by
  intro s
  cases hq : s.pending with
  | nil => exact ⟨_, step_nil hq⟩
  | cons c rest =>
    obtain ⟨t, ht⟩ := exec_goesOn c { s with pending := rest }
    exact ⟨t, (step_cons hq).trans ht⟩

/-- Settles O6: the queue and the stepping are properties that every write keeps, so every row keeps them. -/
theorem queueAndSteppingKept : Obligations.QueueAndSteppingKept := fun c s _ h =>
  ⟨(exec_keeps (pending_writes s.pending) rfl c).get h, (exec_keeps (b0_writes s.b0) rfl c).get h⟩

end

section
/-! PROOF. Writes of registers by an accessor (R16, R18, R36): what a refused one does, what a field reads after one, and the fault
registers whose bits are cleared by writing 1s. -/

namespace Sys2Proof.Machine

namespace State

theorem regWrite_refused {s : State} {die : Nat} {allowed : Bool} (f : State → Option State)
    (h : s.dieUp die = false ∨ allowed = false) : s.regWrite die allowed f = { s with resp := .busError } := by
  have hg : (!s.dieUp die || !allowed) = true := by
    rcases h with h | h <;> simp [h]
  rw [regWrite, if_pos hg]

/-- A row that writes one register is a register write to its die, under its authority. -/
theorem exec_of_writeOf {s : State} {c : Instr} {d : Nat} {allowed : Bool} (h : s.writeOf c = some (d, allowed)) :
    ∃ f, exec c s = .next (s.regWrite d allowed f) := by
  unfold writeOf at h
  split at h <;> cases h <;> exact ⟨_, rfl⟩

theorem setFld_keepsRest (s : State) (F : Fld) (d u i v : Nat) : s.keepsRest (s.setFld F d u i v) := rfl

end State

theorem exec_of_regWrite {c : Instr} {s t : State} {die : Nat} {allowed : Bool} {f : State → Option State}
    (h : exec c s = .next (s.regWrite die allowed f)) (hd : s.dieUp die = true) (ha : allowed = true) (hf : f s = some t) :
    exec c s = .next t.ack := h.trans (congrArg Host.Outcome.next (State.regWrite_some hd ha hf))

namespace State

theorem ack_stations (s : State) : s.ack.stations = s.stations := rfl
theorem station_ack (s : State) (cd g : Nat) : s.ack.station cd g = s.station cd g := rfl
theorem carHeld_ack (s : State) (cd : Nat) : s.ack.carHeld cd = s.carHeld cd := rfl
theorem arrHeld_ack (s : State) (cd n : Nat) : s.ack.arrHeld cd n = s.arrHeld cd n := rfl

theorem wrote_ack {s t : State} {l : List (Fld × Nat × Nat × Nat)} (h : s.keepsRegs t l)
    (g : s.sameBut t fun x => { x with csr := [], resp := .none }) : s.wrote t.ack l :=
  ⟨keepsRegs_ack h, rfl, g⟩

theorem keepsRegs_trans {s t u : State} {l m : List (Fld × Nat × Nat × Nat)} (h : s.keepsRegs t l) (g : t.keepsRegs u m) :
    s.keepsRegs u (l ++ m) := fun F d x i hx =>
  (g F d x i fun hm => hx (List.mem_append_right l hm)).trans (h F d x i fun hl => hx (List.mem_append_left m hl))

/-- A write of the word `v` that clears the fields of a unit whose bits are written as 1 (R16): each entry is a field and its bit. -/
def clearWritten (s : State) (v d u : Nat) (l : List (Fld × Nat)) : State :=
  l.foldl (fun s e => if v.testBit e.2 then s.setFld e.1 d u 0 0 else s) s

theorem clearWritten_cons (s : State) (v d u : Nat) (e : Fld × Nat) (l : List (Fld × Nat)) :
    s.clearWritten v d u (e :: l) = (if v.testBit e.2 then s.setFld e.1 d u 0 0 else s).clearWritten v d u l := rfl

theorem fld_clearWritten (s : State) (v d u : Nat) (l : List (Fld × Nat)) (G : Fld) :
    (s.clearWritten v d u l).fld G d u = if ∃ e ∈ l, e.1 = G ∧ v.testBit e.2 = true then 0 else s.fld G d u := by
  induction l generalizing s with
  | nil => simp [clearWritten]
  | cons e l ih =>
    rw [clearWritten_cons, ih, fld_clear]
    by_cases hl : ∃ e ∈ l, e.1 = G ∧ v.testBit e.2 = true
    · simp [hl]
    · simp [hl, and_comm]

theorem keepsRegs_clearWritten (s : State) (v d u : Nat) (l : List (Fld × Nat)) :
    s.keepsRegs (s.clearWritten v d u l) (l.map fun e => (e.1, d, u, 0)) := by
  induction l generalizing s with
  | nil => exact keepsRegs_self _
  | cons e l ih =>
    have he : s.keepsRegs (if v.testBit e.2 then s.setFld e.1 d u 0 0 else s) [(e.1, d, u, 0)] :=
      keepsRegs_ite (keepsRegs_setFld (keepsRegs_self _) _ _ _ _ _ (List.mem_singleton_self _)) (keepsRegs_self _)
    exact keepsRegs_trans he (ih _)

/-- A frame that is blind to field writes is blind to their clearing. -/
theorem sameBut_clearWritten {f : State → State} (hf : ∀ x F d u i v, f (setFld x F d u i v) = f x) (s : State) (v d u : Nat)
    (l : List (Fld × Nat)) : s.sameBut (s.clearWritten v d u l) f := by
  induction l generalizing s with
  | nil => exact sameBut_refl
  | cons e l ih => exact sameBut_trans (sameBut_ite (hf ..) sameBut_refl) (ih _)

theorem array_clearWritten (s : State) (v d u : Nat) (l : List (Fld × Nat)) (cd n : Nat) :
    (s.clearWritten v d u l).array cd n = s.array cd n :=
  congrArg (fun x => x.array cd n) (sameBut_clearWritten (f := fun x => { x with csr := [] }) (fun _ _ _ _ _ _ => rfl) s v d u l)

theorem stations_clearWritten (s : State) (v d u : Nat) (l : List (Fld × Nat)) : (s.clearWritten v d u l).stations = s.stations :=
  (congrArg State.stations (sameBut_clearWritten (f := fun x => { x with csr := [] }) (fun _ _ _ _ _ _ => rfl) s v d u l) :)

/-! ARR_FAULT, and how an array leaves FAULT (R85). -/

theorem arrLeaveFault_free {s : State} {cd n : Nat} (h : s.fld .ARR_STATUS_STATE cd n = 3) (hf : s.arrHeld cd n = false) :
    s.arrLeaveFault cd n = (s.setFld .ARR_STATUS_STATE cd n 0 1).setFld .ARR_STATUS_STATE cd n 0
      (if (s.array cd n).inflight.isEmpty && (s.array cd n).loading.isNone then 1 else 2) := by
  have hst : (s.setFld .ARR_STATUS_STATE cd n 0 1).fld .ARR_STATUS_STATE cd n = 1 := fld_setFld_self ..
  simp [arrLeaveFault, arrSettle, h, hf, hst]

theorem arrLeaveFault_stay {s : State} {cd n : Nat} (h : ¬(s.fld .ARR_STATUS_STATE cd n = 3 ∧ s.arrHeld cd n = false)) :
    s.arrLeaveFault cd n = s := by
  rw [arrLeaveFault, if_neg]
  simpa using h

theorem fld_arrLeaveFault_state (s : State) (cd n : Nat) :
    (s.arrLeaveFault cd n).fld .ARR_STATUS_STATE cd n =
      if s.fld .ARR_STATUS_STATE cd n = 3 ∧ s.arrHeld cd n = false then
        (if (s.array cd n).inflight = [] ∧ (s.array cd n).loading = none then 1 else 2)
      else s.fld .ARR_STATUS_STATE cd n := by
  split
  · next h =>
    rw [arrLeaveFault_free h.1 h.2, fld_setFld_self]
    simp only [Bool.and_eq_true, List.isEmpty_iff, Option.isNone_iff_eq_none]
    split <;> rfl
  · next h => rw [arrLeaveFault_stay h]

theorem keepsRegs_arrLeaveFault (s : State) (cd n : Nat) : s.keepsRegs (s.arrLeaveFault cd n) [(.ARR_STATUS_STATE, cd, n, 0)] := by
  have hw : ∀ {t : State}, s.keepsRegs t [(.ARR_STATUS_STATE, cd, n, 0)] → ∀ v,
      s.keepsRegs (t.setFld .ARR_STATUS_STATE cd n 0 v) [(.ARR_STATUS_STATE, cd, n, 0)] :=
    fun h v => keepsRegs_setFld h _ _ _ _ v (List.mem_singleton_self _)
  by_cases h : s.fld .ARR_STATUS_STATE cd n = 3 ∧ s.arrHeld cd n = false
  · rw [arrLeaveFault_free h.1 h.2]
    exact hw (hw (keepsRegs_self _) _) _
  · rw [arrLeaveFault_stay h]
    exact keepsRegs_self _

theorem fld_arrLeaveFault_other (s : State) (cd n : Nat) {G : Fld} (h : G ≠ .ARR_STATUS_STATE) (d u i : Nat) :
    (s.arrLeaveFault cd n).fld G d u i = s.fld G d u i :=
  keepsRegs_arrLeaveFault s cd n G d u i (by simp [h])

theorem arrHeld_arrLeaveFault (s : State) (cd n : Nat) : (s.arrLeaveFault cd n).arrHeld cd n = s.arrHeld cd n := by
  simp [arrHeld, flag, fld_arrLeaveFault_other]

theorem sameBut_arrLeaveFault {f : State → State} (hf : ∀ x F d u i v, f (setFld x F d u i v) = f x) (s : State) (cd n : Nat) :
    s.sameBut (s.arrLeaveFault cd n) f := by
  by_cases h : s.fld .ARR_STATUS_STATE cd n = 3 ∧ s.arrHeld cd n = false
  · rw [arrLeaveFault_free h.1 h.2]
    exact (hf ..).trans (hf ..)
  · rw [arrLeaveFault_stay h]
    exact sameBut_refl

/-- The bits of ARR_FAULT (R86). -/
def arrFaultBits : List (Fld × Nat) :=
  [(.ARR_FAULT_BAD_CMD, 0), (.ARR_FAULT_STALE_STATE, 1), (.ARR_FAULT_POISON, 2), (.ARR_FAULT_ACB_RANGE, 3), (.ARR_FAULT_ACB_UE, 4)]

theorem clearArrFault_eq (s : State) (cd n v : Nat) :
    s.clearArrFault cd n v = (s.clearWritten v cd n arrFaultBits).arrLeaveFault cd n := rfl

theorem fld_clearArrFault (s : State) (cd n v : Nat) {G : Fld} (h : G ≠ .ARR_STATUS_STATE) :
    (s.clearArrFault cd n v).fld G cd n = if ∃ e ∈ arrFaultBits, e.1 = G ∧ v.testBit e.2 = true then 0 else s.fld G cd n := by
  rw [clearArrFault_eq, fld_arrLeaveFault_other _ _ _ h, fld_clearWritten]

theorem fld_clearArrFault_state (s : State) (cd n v : Nat) :
    (s.clearArrFault cd n v).fld .ARR_STATUS_STATE cd n =
      if s.fld .ARR_STATUS_STATE cd n = 3 ∧ (s.clearArrFault cd n v).arrHeld cd n = false then
        (if (s.array cd n).inflight = [] ∧ (s.array cd n).loading = none then 1 else 2)
      else s.fld .ARR_STATUS_STATE cd n := by
  have hst : (s.clearWritten v cd n arrFaultBits).fld .ARR_STATUS_STATE cd n = s.fld .ARR_STATUS_STATE cd n := by
    rw [fld_clearWritten, if_neg (by simp [arrFaultBits])]
  rw [clearArrFault_eq, fld_arrLeaveFault_state, arrHeld_arrLeaveFault, array_clearWritten, hst]

theorem wrote_clearArrFault (s : State) (cd n v : Nat) : s.wrote (s.clearArrFault cd n v).ack
    ((arrFaultBits.map fun e => (e.1, cd, n, 0)) ++ [(.ARR_STATUS_STATE, cd, n, 0)]) := by
  rw [clearArrFault_eq]
  exact wrote_ack (keepsRegs_trans (keepsRegs_clearWritten s v cd n arrFaultBits) (keepsRegs_arrLeaveFault _ cd n))
    (sameBut_trans (sameBut_clearWritten (fun _ _ _ _ _ _ => rfl) s v cd n arrFaultBits)
      (sameBut_arrLeaveFault (fun _ _ _ _ _ _ => rfl) _ cd n))

/-! FDR_FAULT and CAR_FAULT, and how the station queues are released (R114). -/

/-- The bits of FDR_FAULT (R115). -/
def fdrFaultBits : List (Fld × Nat) := [(.FDR_FAULT_BAD_FEED, 0), (.FDR_FAULT_GROUP, 1), (.FDR_FAULT_UE, 2)]

theorem clearFdrFault_eq (s : State) (cd bob v : Nat) : s.clearFdrFault cd bob v = s.clearWritten v cd bob fdrFaultBits := rfl

theorem wrote_clearFdrFault (s : State) (cd bob v : Nat) :
    s.wrote (s.clearFdrFault cd bob v).ack (fdrFaultBits.map fun e => (e.1, cd, bob, 0)) := by
  rw [clearFdrFault_eq]
  exact wrote_ack (keepsRegs_clearWritten s v cd bob fdrFaultBits)
    (sameBut_clearWritten (fun _ _ _ _ _ _ => rfl) s v cd bob fdrFaultBits)

/-- One station queue accepts commands again. -/
def releaseStation (s : State) (cd g : Nat) : State :=
  if (s.station cd g).held then s.setStation cd g { s.station cd g with held := false } else s

theorem held_releaseStation (s : State) (cd g g' : Nat) :
    ((s.releaseStation cd g).station cd g').held = if g = g' then false else (s.station cd g').held := by
  by_cases hg : g = g'
  · subst hg
    rw [releaseStation, if_pos rfl]
    split
    · rw [station_setStation]
    · next h => simpa using h
  · have hk : Key.at cd g ≠ Key.at cd g' := by simp [Key.at, hg]
    rw [releaseStation, if_neg hg]
    split
    · rw [station, setStation, Tbl.get_set_ne _ _ _ _ hk, station]
    · rfl

theorem held_releaseStations (s : State) (cd : Nat) (l : List Nat) (g : Nat) :
    ((l.foldl (fun s g => s.releaseStation cd g) s).station cd g).held = if g ∈ l then false else (s.station cd g).held := by
  induction l generalizing s with
  | nil => rfl
  | cons g' l ih =>
    rw [List.foldl_cons, ih, held_releaseStation]
    by_cases hl : g ∈ l
    · simp [hl]
    · simp [hl, eq_comm]

theorem carRelease_held {s : State} {cd : Nat} (h : s.carHeld cd = true) : s.carRelease cd = s := if_pos h

theorem carRelease_free {s : State} {cd : Nat} (h : s.carHeld cd = false) :
    s.carRelease cd = (List.range 4).foldl (fun s g => s.releaseStation cd g) s :=
  if_neg (ne_true_of_eq_false h)

theorem sameBut_carRelease {f : State → State} (hf : ∀ x cd g y, f (setStation x cd g y) = f x) (s : State) (cd : Nat) :
    s.sameBut (s.carRelease cd) f := by
  cases h : s.carHeld cd with
  | true => rw [carRelease_held h]; exact sameBut_refl
  | false =>
    rw [carRelease_free h]
    exact keep_foldl (Q := fun t => s.sameBut t f) sameBut_refl fun t g ht => sameBut_ite ((hf ..).trans ht) ht

theorem csr_carRelease (s : State) (cd : Nat) : (s.carRelease cd).csr = s.csr :=
  (congrArg State.csr (sameBut_carRelease (f := fun x => { x with stations := [] }) (fun _ _ _ _ => rfl) s cd) :)

theorem fld_carRelease (s : State) (cd : Nat) (G : Fld) (d u i : Nat) : (s.carRelease cd).fld G d u i = s.fld G d u i := by
  rw [fld, csr_carRelease, fld]

theorem carHeld_carRelease (s : State) (cd : Nat) : (s.carRelease cd).carHeld cd = s.carHeld cd := by
  simp only [carHeld, flag, fld_carRelease]

/-- The bits of CAR_FAULT (R115). -/
def carFaultBits : List (Fld × Nat) := [(.CAR_FAULT_BAD_INJ, 0), (.CAR_FAULT_RING_OFF, 1), (.CAR_FAULT_TRANSIT_UE, 2)]

theorem clearCarFault_eq (s : State) (cd v : Nat) :
    s.clearCarFault cd v = (s.clearWritten v cd 0 carFaultBits).carRelease cd := rfl

theorem fld_clearCarFault (s : State) (cd v : Nat) (G : Fld) :
    (s.clearCarFault cd v).fld G cd = if ∃ e ∈ carFaultBits, e.1 = G ∧ v.testBit e.2 = true then 0 else s.fld G cd := by
  rw [clearCarFault_eq, fld_carRelease, fld_clearWritten]

theorem held_clearCarFault {s : State} {cd v : Nat} (h : (s.clearCarFault cd v).carHeld cd = false) {g : Nat} (hg : g < 4) :
    ((s.clearCarFault cd v).station cd g).held = false := by
  rw [clearCarFault_eq, carHeld_carRelease] at h
  rw [clearCarFault_eq, carRelease_free h, held_releaseStations, if_pos (List.mem_range.mpr hg)]

theorem stations_clearCarFault {s : State} {cd v : Nat} (h : (s.clearCarFault cd v).carHeld cd = true) :
    (s.clearCarFault cd v).stations = s.stations := by
  rw [clearCarFault_eq, carHeld_carRelease] at h
  rw [clearCarFault_eq, carRelease_held h, stations_clearWritten]

theorem keepsRegs_clearCarFault (s : State) (cd v : Nat) :
    s.keepsRegs (s.clearCarFault cd v) (carFaultBits.map fun e => (e.1, cd, 0, 0)) := by
  rw [clearCarFault_eq]
  exact keepsRegs_csr (keepsRegs_clearWritten s v cd 0 carFaultBits) (csr_carRelease _ cd)

theorem sameBut_clearCarFault (s : State) (cd v : Nat) :
    s.sameBut (s.clearCarFault cd v).ack fun x => { x with csr := [], stations := [], resp := .none } := by
  rw [clearCarFault_eq]
  exact sameBut_step (sameBut_trans (sameBut_clearWritten (fun _ _ _ _ _ _ => rfl) s v cd 0 carFaultBits)
    (sameBut_carRelease (fun _ _ _ _ => rfl) _ cd)) fun _ => rfl

end State

/-! The writes under supervisor authority, to a die in service. -/

theorem exec_arrFaultClear {s : State} {acc : Accessor} {cd : Fin 8} (hd : s.dieUp cd = true) (ha : isSup acc = true) (arr : Fin 24)
    (v : Word64) : exec (.arrFaultClear acc cd arr v) s = .next (s.clearArrFault cd arr v.toNat).ack :=
  exec_of_regWrite (f := fun s => some (s.clearArrFault cd arr v.toNat)) rfl hd ha rfl

theorem exec_fdrFaultClear {s : State} {acc : Accessor} {cd : Fin 8} (hd : s.dieUp cd = true) (ha : isSup acc = true) (arr : Fin 24)
    (b : Fin 2) (v : Word64) : exec (.fdrFaultClear acc cd arr b v) s = .next (s.clearFdrFault cd (2 * arr + b) v.toNat).ack :=
  exec_of_regWrite (f := fun s => some (s.clearFdrFault cd (2 * arr + b) v.toNat)) rfl hd ha rfl

theorem exec_carFaultClear {s : State} {acc : Accessor} {cd : Fin 8} (hd : s.dieUp cd = true) (ha : isSup acc = true) (v : Word64) :
    exec (.carFaultClear acc cd v) s = .next (s.clearCarFault cd v.toNat).ack :=
  exec_of_regWrite (f := fun s => some (s.clearCarFault cd v.toNat)) rfl hd ha rfl

end Sys2Proof.Machine

open Sys2Proof Sys2Proof.Machine

/-- Settles O9: each of the rows is a register write, and one without authority or to a die out of service is refused. -/
theorem writeWithoutAuthority : Obligations.WriteWithoutAuthority := by
  intro c s d allowed hw hno
  obtain ⟨f, hf⟩ := State.exec_of_writeOf hw
  rw [hf, State.regWrite_refused f hno]

/-- Settles O11: a field read after a write, and the frame of the write. -/
theorem registerReadsBack : Obligations.RegisterReadsBack := fun s F d u i v =>
  ⟨s.fld_setFld_self F d u i v, State.keepsRegs_setFld (State.keepsRegs_self _) F d u i v (List.mem_singleton_self _),
    s.setFld_keepsRest F d u i v⟩


/-- Settles O19: each bit of ARR_FAULT that is written as 1 is cleared, and the state of the array is that of leaving FAULT. -/
theorem arrayFaultClears : Obligations.ArrayFaultClears := by
  intro s acc cd arr v hd hacc
  refine ⟨_, exec_arrFaultClear hd hacc arr v, ?_⟩
  simp only [State.fld_ack, State.arrHeld_ack, State.fld_clearArrFault_state]
  refine ⟨?_, ?_, ?_, ?_, ?_, ?_, ?_, ?_, State.wrote_clearArrFault s cd arr v.toNat⟩
  · simp [State.fld_clearArrFault, State.arrFaultBits]
  · simp [State.fld_clearArrFault, State.arrFaultBits]
  · simp [State.fld_clearArrFault, State.arrFaultBits]
  · simp [State.fld_clearArrFault, State.arrFaultBits]
  · simp [State.fld_clearArrFault, State.arrFaultBits]
  · intro h3 hheld; rw [if_neg (by simp [hheld]), h3]
  · intro h3 hfree; rw [if_pos ⟨h3, hfree⟩]
  · intro h3; rw [if_neg (fun h => h3 h.1)]

/-- Settles O24: the bits are cleared as they are written, and the stations are released once BAD_INJ and RING_OFF read zero. -/
theorem carouselFaultClears : Obligations.CarouselFaultClears := by
  intro s acc cd v hd hacc
  refine ⟨fun arr b => ⟨_, exec_fdrFaultClear hd hacc arr b v, ?_, ?_, ?_, State.wrote_clearFdrFault s cd (2 * arr + b) v.toNat⟩,
    _, exec_carFaultClear hd hacc v, ?_, ?_, ?_, ?_, ?_, ?_, ?_, ?_⟩
  · simp [State.clearFdrFault_eq, State.fld_clearWritten, State.fdrFaultBits]
  · simp [State.clearFdrFault_eq, State.fld_clearWritten, State.fdrFaultBits]
  · simp [State.clearFdrFault_eq, State.fld_clearWritten, State.fdrFaultBits]
  · simp [State.fld_clearCarFault, State.carFaultBits]
  · simp [State.fld_clearCarFault, State.carFaultBits]
  · simp [State.fld_clearCarFault, State.carFaultBits]
  · intro h g
    rw [State.carHeld_ack] at h
    rw [State.station_ack, State.held_clearCarFault h g.isLt]
  · intro h
    rw [State.carHeld_ack] at h
    rw [State.ack_stations, State.stations_clearCarFault h]
  · rfl
  · exact State.keepsRegs_clearCarFault s cd v.toNat
  · exact State.sameBut_clearCarFault s cd v.toNat

end

section
/-! PROOF. Register accesses by address (R15): the width, the alignment, and the packets of the access on the mesh. -/

namespace Sys2Proof.Machine

theorem MeshOnly.onlyMesh {s t : State} (h : MeshOnly s t) : s.onlyMesh t :=
  ⟨fun F d u i hF hP => h.fld F d u i hF hP, by rw [h.rest]; rfl⟩

namespace State

theorem meshOnly_send_if (s : State) (c : Prop) [Decidable c] (cd : Nat) (p : MeshPacket) (x y : MeshEnd) :
    MeshOnly s (if c then s.meshSend cd p x y else s) :=
  keep_ite (Q := MeshOnly s) (MeshOnly.send ..) (MeshOnly.refl s)

theorem csrEnter_meshOnly (s : State) (a : Nat) : MeshOnly s (s.csrEnter a) := by
  unfold csrEnter
  split
  · exact meshOnly_send_if ..
  · exact MeshOnly.refl _

theorem csrLeave_meshOnly (s : State) (a : Nat) : MeshOnly s (s.csrLeave a) := by
  unfold csrLeave
  split
  · exact meshOnly_send_if ..
  · exact MeshOnly.refl _

theorem csrRead_unaligned (s : State) (acc : Accessor) {a : Nat} (h : a % 8 ≠ 0) : s.csrRead acc a = none := by
  simp [csrRead, h]

theorem csrWrite_unaligned (s : State) (acc : Accessor) {a : Nat} (h : a % 8 ≠ 0) (v : Nat) : s.csrWrite acc a v = none := by
  simp [csrWrite, h]

theorem csrLoad_some {s : State} {acc : Accessor} {a v : Nat} (h : (s.csrEnter a).csrRead acc a = some v) :
    s.csrLoad acc a = { (s.csrEnter a).csrLeave a with resp := .reg (BitVec.ofNat 64 v) } := by
  simp only [csrLoad, h]

theorem csrStore_some {s t : State} {acc : Accessor} {a v : Nat} (h : (s.csrEnter a).csrWrite acc a v = some t) :
    s.csrStore acc a v = { t.csrLeave a with resp := .written } := by
  simp only [csrStore, h]

/-- An answer of bus error, after which nothing has changed but what the packets of the access count on the mesh. -/
def refusedAccess (s u : State) : Prop := ∃ t, s.onlyMesh t ∧ u = { t with resp := .busError }

theorem refusedAccess_self (s : State) : s.refusedAccess { s with resp := .busError } := ⟨s, (MeshOnly.refl s).onlyMesh, rfl⟩

theorem csrLoad_unaligned (s : State) (acc : Accessor) {a : Nat} (h : a % 8 ≠ 0) : s.refusedAccess (s.csrLoad acc a) :=
  ⟨(s.csrEnter a).csrLeave a, ((csrEnter_meshOnly s a).trans (csrLeave_meshOnly _ a)).onlyMesh, by
    simp only [csrLoad, csrRead_unaligned _ acc h]⟩

theorem csrStore_unaligned (s : State) (acc : Accessor) {a : Nat} (h : a % 8 ≠ 0) (v : Nat) : s.refusedAccess (s.csrStore acc a v) :=
  ⟨(s.csrEnter a).csrLeave a, ((csrEnter_meshOnly s a).trans (csrLeave_meshOnly _ a)).onlyMesh, by
    simp only [csrStore, csrWrite_unaligned _ acc h]⟩

theorem readAt_csr {s : State} {req : Requester} {acc : Accessor} {a : Nat} (ha : inCsr a = true) (hr : accessorOf req = some acc) :
    s.readAt req a 8 = s.csrLoad acc a := by
  simp [readAt, ha, hr]

theorem writeAt_csr {s : State} {req : Requester} {acc : Accessor} {a : Nat} {bs : List Byte} (ha : inCsr a = true)
    (hr : accessorOf req = some acc) (hn : bs.length = 8) (tag : Nat) : s.writeAt req a bs tag = s.csrStore acc a (leNat bs) := by
  simp [writeAt, ha, hr, hn]

theorem readAt_refused (s : State) (req : Requester) {a n : Nat} (ha : inCsr a = true) (h : a % 8 ≠ 0 ∨ n ≠ 8) :
    s.refusedAccess (s.readAt req a n) := by
  rw [readAt, if_neg (by simp [ha])]
  split
  · split
    · next hn => exact csrLoad_unaligned s _ (h.resolve_right (not_not_intro hn))
    · exact refusedAccess_self s
  · exact refusedAccess_self s

theorem writeAt_refused (s : State) (req : Requester) {a : Nat} {bs : List Byte} (ha : inCsr a = true)
    (h : a % 8 ≠ 0 ∨ bs.length ≠ 8) (tag : Nat) : s.refusedAccess (s.writeAt req a bs tag) := by
  rw [writeAt, if_neg (by simp [ha])]
  split
  · split
    · next hn => exact csrStore_unaligned s _ (h.resolve_right (not_not_intro hn)) _
    · exact refusedAccess_self s
  · exact refusedAccess_self s

end State

end Sys2Proof.Machine

open Sys2Proof Sys2Proof.Machine

/-- Settles O40: an unaligned address names no register, another width is refused before it, and the rest is a load or a store. -/
theorem registerAccessWidth : Obligations.RegisterAccessWidth := by
  intro s a ha refused
  have hrefused : ∀ {i : Instr} {u : State}, exec i s = .next u → s.refusedAccess u → refused i := by
    rintro i _ hi ⟨t, hmesh, rfl⟩
    exact ⟨t, hmesh, hi⟩
  refine ⟨fun acc v h => ?_, fun req n h => ?_, fun req bs tag h => ?_, fun req acc hacc => ⟨fun v hv => ?_, fun bs tag t hn ht => ?_⟩⟩
  · exact hrefused rfl (keep_ite (Q := s.refusedAccess) (State.refusedAccess_self s) (State.csrStore_unaligned s acc h v.toNat))
  · exact hrefused rfl (State.readAt_refused s req ha h)
  · exact hrefused rfl (State.writeAt_refused s req ha h tag.toNat)
  · exact congrArg Host.Outcome.next ((State.readAt_csr ha hacc).trans (State.csrLoad_some hv))
  · exact congrArg Host.Outcome.next ((State.writeAt_csr ha hacc hn tag.toNat).trans (State.csrStore_some ht))

end

section
/-! PROOF. Memory as the commands see it (R28, R38, R257): the rows that touch no memory, and a byte read after a write or a zeroing. -/

namespace Sys2Proof.Machine

/-- A row that touches no memory keeps a property that register writes alone keep: the laws of those rows, put together. -/
theorem exec_keeps_of_touchesNoMemory {P : State → Prop} (hS : Stable P) {s : State} (h : P s) {c : Instr}
    (hc : touchesNoMemory c = true) : OutInv P (exec c s) := by
  cases c with
  | waitSatisfied => exact execWaitSatisfied_keeps hS h
  | fenceComplete => exact execFenceComplete_keeps hS h
  | ticketRelease => exact execTicketRelease_keeps hS h
  | arrAcbRgnBaseWrite => exact execArrAcbRgnBaseWrite_keeps hS h
  | arrAcbRgnWgmWrite => exact execArrAcbRgnWgmWrite_keeps hS h
  | arrLsSeedWrite => exact execArrLsSeedWrite_keeps hS h
  | arrParkRequest => exact execArrParkRequest_keeps hS h
  | arrayPark => exact execArrayPark_keeps hS h
  | arrayWakeComplete => exact execArrayWakeComplete_keeps hS h
  | arrFaultClear => exact execArrFaultClear_keeps hS h
  | tileArm => exact execTileArm_keeps hS h
  | slotReserve => exact execSlotReserve_keeps hS h
  | tileRideEnd => exact execTileRideEnd_keeps hS h
  | armStall => exact execArmStall_keeps hS h
  | fdrFaultClear => exact execFdrFaultClear_keeps hS h
  | carFaultClear => exact execCarFaultClear_keeps hS h
  | veSrSeedWrite => exact execVeSrSeedWrite_keeps hS h
  | numStepWrite => exact execNumStepWrite_keeps hS h
  | voteGather => exact execVoteGather_keeps hS h
  | voteResult => exact execVoteResult_keeps hS h
  | voteTimeout => exact execVoteTimeout_keeps hS h
  | memFrameDataWrite => exact execMemFrameDataWrite_keeps hS h
  | sramClassWrite => exact execSramClassWrite_keeps hS h
  | poolStall => exact execPoolStall_keeps hS h
  | seSrSeedWrite => exact execSeSrSeedWrite_keeps hS h
  | xltInvalWrite _ _ v => exact execXltInvalWrite_keeps hS (v := v) h
  | xltInvalDone => exact execXltInvalDone_keeps hS h
  | stretchPeriod => exact execStretchPeriod_keeps hS h
  | clkStepWrite => exact execClkStepWrite_keeps hS h
  | supplyChangeDone => exact execSupplyChangeDone_keeps hS h
  | glideComplete => exact execGlideComplete_keeps hS h
  | stopHalt => exact execStopHalt_keeps hS h
  | hlEnWrite => exact execHlEnWrite_keeps hS h
  | hlRoleChange => exact execHlRoleChange_keeps hS h
  | sealOkWrite => exact execSealOkWrite_keeps hS h
  | hlRetrain => exact execHlRetrain_keeps hS h
  | detectComplete => exact execDetectComplete_keeps hS h
  | equalizeComplete => exact execEqualizeComplete_keeps hS h
  | alignComplete => exact execAlignComplete_keeps hS h
  | trainingTimeout => exact execTrainingTimeout_keeps hS h
  | crossedRecheck => exact execCrossedRecheck_keeps hS h
  | laneLossOfLock => exact execLaneLossOfLock_keeps hS h
  | laneErrorRate => exact execLaneErrorRate_keeps hS h
  | fastRetrainComplete => exact execFastRetrainComplete_keeps hS h
  | flitReceive => exact execFlitReceive_keeps hS h
  | holdLimitExpiry => exact execHoldLimitExpiry_keeps hS h
  | heartbeatSend => exact execHeartbeatSend_keeps hS h
  | heartbeat => exact execHeartbeat_keeps hS h
  | heartbeatLoss => exact execHeartbeatLoss_keeps hS h
  | aliveLimitExpiry => exact execAliveLimitExpiry_keeps hS h
  | hlmAlive => exact execHlmAlive_keeps hS h
  | ident => exact execIdent_keeps hS h
  | peerCmdReply => exact execPeerCmdReply_keeps hS h
  | collectiveTimeout => exact execCollectiveTimeout_keeps hS h
  | reListCtlWrite => exact execReListCtlWrite_keeps hS h
  | reSrSeedWrite => exact execReSrSeedWrite_keeps hS h
  | claim => exact execClaim_keeps hS h
  | accept => exact execAccept_keeps hS h
  | declare => exact execDeclare_keeps hS h
  | mirrorFrame => exact execMirrorFrame_keeps hS h
  | mirrorDone => exact execMirrorDone_keeps hS h
  | datagramDiscard => exact execDatagramDiscard_keeps hS h
  | slqDb => exact execSlqDb_keeps hS h
  | powerGood => exact execPowerGood_keeps hS h
  | stageBoundExpiry => exact execStageBoundExpiry_keeps hS h
  | stackRetrainComplete => exact execStackRetrainComplete_keeps hS h
  | capRaise => exact execCapRaise_keeps hS h
  | supCoreMark => exact execSupCoreMark_keeps hS h
  | watchdogKick => exact execWatchdogKick_keeps hS h
  | watchdogNmi => exact execWatchdogNmi_keeps hS h
  | fwWrite => exact execFwWrite_keeps hS h
  | fwTrial => exact execFwTrial_keeps hS h
  | fwFloor => exact execFwFloor_keeps hS h
  | trialConfirm => exact execTrialConfirm_keeps hS h
  | snsFaultClear => exact execSnsFaultClear_keeps hS h
  | quote => exact execQuote_keeps hS h
  | quoteComplete => exact execQuoteComplete_keeps hS h
  | polReset => exact execPolReset_keeps hS h
  | tsRelease => exact execTsRelease_keeps hS h
  | tsLogAck => exact execTsLogAck_keeps hS h
  | eventRaise => exact execEventRaise_keeps hS h
  | evrFlush => exact execEvrFlush_keeps hS h
  | evrFlushComplete => exact execEvrFlushComplete_keeps hS h
  | evrClear => exact execEvrClear_keeps hS h
  | evrEraseComplete => exact execEvrEraseComplete_keeps hS h
  | inputReversed => exact execInputReversed_keeps hS h
  | inputOvervoltage => exact execInputOvervoltage_keeps hS h
  | inputOvercurrent => exact execInputOvercurrent_keeps hS h
  | stageReclose => exact execStageReclose_keeps hS h
  | inputLost => exact execInputLost_keeps hS h
  | inputRestored => exact execInputRestored_keeps hS h
  | moduleReset => exact execModuleReset_keeps hS h
  | selfTestComplete => exact execSelfTestComplete_keeps hS h
  | firstTrainingComplete => exact execFirstTrainingComplete_keeps hS h
  | operatingSecond => exact execOperatingSecond_keeps hS h
  | _ => exact absurd hc Bool.false_ne_true

theorem exec_mem_of_touchesNoMemory {c : Instr} {s t : State} (hc : touchesNoMemory c = true) (h : exec c s = .next t) :
    t.mem = s.mem :=
  (exec_keeps_of_touchesNoMemory (mem_stable s.mem) rfl hc).get h

end Sys2Proof.Machine

open Sys2Proof Sys2Proof.Machine

/-- Settles O7: the rows touch no memory, and a memory that is the same reads the same. -/
theorem memoryUntouched : Obligations.MemoryUntouched := fun _ _ _ hc h a =>
  congrArg (Memory.read · a) (exec_mem_of_touchesNoMemory hc h)

/-- Settles O10: a read after a write of several bytes, and after the zeroing of a range. -/
theorem memoryReadsBack : Obligations.MemoryReadsBack := fun m a bs n x =>
  ⟨Memory.read_writeBytes bs m a x, Memory.read_zero m a n x⟩

end

section
/-! PROOF. The registers of a die that is not in service (R36), the register of an address on one that is (R16 to R18), and
DIE_BOOT_LOCK (R35). -/

namespace Sys2Proof.Machine

theorem MeshOnly.dieUp {s t : State} (h : MeshOnly s t) (d : Nat) : t.dieUp d = s.dieUp d := by
  simp [State.dieUp, State.flag, h.fld]

namespace State

variable {s t : State} {acc : Accessor} {a die off : Nat} {x : RegAt}

theorem csrEnter_out (hp : csrPlace a = some (die, off)) (hd : s.dieUp die = false) : s.csrEnter a = s := by
  simp [csrEnter, hp, hd]

theorem csrLeave_out (hp : csrPlace a = some (die, off)) (hd : s.dieUp die = false) : s.csrLeave a = s := by
  simp [csrLeave, hp, hd]

theorem answersOut_some (hx : x.reg = .DIE_IDENT ∨ x.reg = .DIE_STATUS) : answersOut (some x) = true := by
  simpa [answersOut] using hx

theorem answersOut_other {r : Option RegAt} (h : ∀ x, r = some x → x.reg ≠ .DIE_IDENT ∧ x.reg ≠ .DIE_STATUS) :
    answersOut r = false := by
  cases r with
  | none => rfl
  | some x => simpa [answersOut] using h x rfl

theorem csrRead_answered (h8 : a % 8 = 0) (hp : csrPlace a = some (die, off)) (hl : locate die off = some x)
    (hx : answersOut (some x) = true) (hr : s.mayRead acc x.reg x.u = true) :
    s.csrRead acc a = some (s.regShown acc x.reg x.d x.u x.i % 2 ^ 64) := by
  simp [csrRead, h8, hp, hl, hx, hr]

theorem csrRead_out (hp : csrPlace a = some (die, off)) (hd : s.dieUp die = false) (hx : answersOut (locate die off) = false) :
    s.csrRead acc a = none := by
  simp [csrRead, hp, hd, hx]

theorem csrWrite_ignored (h8 : a % 8 = 0) (hp : csrPlace a = some (die, off)) (hd : s.dieUp die = false)
    (hx : answersOut (locate die off) = true) (v : Nat) : s.csrWrite acc a v = some s := by
  simp [csrWrite, h8, hp, hd, hx]

theorem csrWrite_out (hp : csrPlace a = some (die, off)) (hd : s.dieUp die = false) (hx : answersOut (locate die off) = false)
    (v : Nat) : s.csrWrite acc a v = none := by
  simp [csrWrite, hp, hd, hx]

theorem csrWrite_up (h8 : a % 8 = 0) (hp : csrPlace a = some (die, off)) (hd : s.dieUp die = true) (hl : locate die off = some x)
    (hw : s.mayWrite acc x.reg x.d x.u x.i = true) (v : Nat) : s.csrWrite acc a v = s.regStore acc x.reg x.d x.u x.i v := by
  simp [csrWrite, h8, hp, hd, hl, hw]

/-- A load from a die out of service changes nothing but the answer. -/
theorem csrLoad_out (hp : csrPlace a = some (die, off)) (hd : s.dieUp die = false) (hx : answersOut (locate die off) = false) :
    s.csrLoad acc a = { s with resp := .busError } := by
  simp only [csrLoad, csrEnter_out hp hd, csrRead_out hp hd hx, csrLeave_out hp hd]

/-- A store to a die out of service changes nothing but the answer. -/
theorem csrStore_out (hp : csrPlace a = some (die, off)) (hd : s.dieUp die = false) (hx : answersOut (locate die off) = false)
    (v : Nat) : s.csrStore acc a v = { s with resp := .busError } := by
  simp only [csrStore, csrEnter_out hp hd, csrWrite_out hp hd hx, csrLeave_out hp hd]

theorem csrStore_ignored (h8 : a % 8 = 0) (hp : csrPlace a = some (die, off)) (hd : s.dieUp die = false)
    (hx : answersOut (locate die off) = true) (v : Nat) : s.csrStore acc a v = { s with resp := .written } := by
  simp only [csrStore, csrEnter_out hp hd, csrWrite_ignored h8 hp hd hx, csrLeave_out hp hd]

theorem csrStore_up (h8 : a % 8 = 0) (hp : csrPlace a = some (die, off)) (hd : s.dieUp die = true) (hl : locate die off = some x)
    (hw : (s.csrEnter a).mayWrite acc x.reg x.d x.u x.i = true) {v : Nat}
    (hs : (s.csrEnter a).regStore acc x.reg x.d x.u x.i v = some t) : s.csrStore acc a v = { t.csrLeave a with resp := .written } :=
  csrStore_some ((csrWrite_up h8 hp (((csrEnter_meshOnly s a).dieUp die).trans hd) hl hw v).trans hs)

theorem csrLoad_answered (h8 : a % 8 = 0) (hp : csrPlace a = some (die, off)) (hd : s.dieUp die = false)
    (hl : locate die off = some x) (hx : answersOut (some x) = true) (hr : s.mayRead acc x.reg x.u = true) :
    s.csrLoad acc a = { s with resp := .reg (BitVec.ofNat 64 (s.regShown acc x.reg x.d x.u x.i % 2 ^ 64)) } := by
  simp only [csrLoad, csrEnter_out hp hd, csrRead_answered h8 hp hl hx hr, csrLeave_out hp hd]

/-- Whoever reads a register window, and however many bytes, the answer is a bus error where a register load is one. -/
theorem readAt_busError {req : Requester} (ha : inCsr a = true) (h : ∀ acc, s.csrLoad acc a = { s with resp := .busError }) (n : Nat) :
    s.readAt req a n = { s with resp := .busError } := by
  cases hr : accessorOf req <;> simp [readAt, ha, hr, h]

theorem writeAt_busError {req : Requester} (ha : inCsr a = true) (h : ∀ acc v, s.csrStore acc a v = { s with resp := .busError })
    (bs : List Byte) (tag : Nat) : s.writeAt req a bs tag = { s with resp := .busError } := by
  cases hr : accessorOf req <;> simp [writeAt, ha, hr, h]

/-- The effect of a write of DIE_BOOT_LOCK: a 1 in bit 0 sets LOCK, and nothing clears it (R35). -/
def setBootLock (s : State) (die v : Nat) : State := if v.testBit 0 then s.setFld .DIE_BOOT_LOCK_LOCK die 0 0 1 else s

theorem regStore_bootLock (s : State) (acc : Accessor) (die v : Nat) :
    s.regStore acc .DIE_BOOT_LOCK die 0 0 v = some (s.setBootLock die v) := rfl

theorem fld_setBootLock (s : State) (die v : Nat) :
    (s.setBootLock die v).fld .DIE_BOOT_LOCK_LOCK die = if v.testBit 0 then 1 else s.fld .DIE_BOOT_LOCK_LOCK die := by
  rw [setBootLock]
  split
  · exact fld_setFld_self ..
  · rfl

theorem wrote_setBootLock (s : State) (die v : Nat) : s.wrote (s.setBootLock die v).ack [(.DIE_BOOT_LOCK_LOCK, die, 0, 0)] :=
  wrote_ack (keepsRegs_ite (keepsRegs_setFld (keepsRegs_self _) _ _ _ _ _ (List.mem_singleton_self _)) (keepsRegs_self _))
    (sameBut_ite rfl sameBut_refl)

end State

theorem exec_csrRegisterWrite {a : Nat} (ha : a < 2 ^ 52) (acc : Accessor) (v : Word64) (s : State) :
    exec (.csrRegisterWrite acc a v) s = .next (s.csrStore acc a v.toNat) :=
  congrArg Host.Outcome.next (if_neg (Nat.not_le.mpr ha))

end Sys2Proof.Machine

open Sys2Proof Sys2Proof.Machine

/-- Settles O41: out of service a die answers DIE_IDENT and DIE_STATUS alone, and in service a write is the store of its register. -/
theorem dieOutOfServiceAnswers : Obligations.DieOutOfServiceAnswers := by
  intro s acc a die off h8 ha hp
  refine ⟨fun hd => ⟨fun x hl hx => ⟨fun v => ?_, fun req hacc hr hin => ?_⟩, fun hx => ⟨fun v => ?_, fun req n hin => ?_,
    fun req bs tag hin => ?_⟩⟩, fun x v t hd hl hw hs => ?_, fun k v hd hacc => ?_⟩
  · have hans : State.answersOut (locate die off) = true := hl ▸ State.answersOut_some hx
    rw [exec_csrRegisterWrite ha, State.csrStore_ignored h8 hp hd hans]
  · exact ⟨_, congrArg Host.Outcome.next
      ((State.readAt_csr hin hacc).trans (State.csrLoad_answered h8 hp hd hl (State.answersOut_some hx) hr))⟩
  · rw [exec_csrRegisterWrite ha, State.csrStore_out hp hd (State.answersOut_other hx)]
  · exact congrArg Host.Outcome.next (State.readAt_busError hin (fun _ => State.csrLoad_out hp hd (State.answersOut_other hx)) n)
  · exact congrArg Host.Outcome.next
      (State.writeAt_busError hin (fun _ => State.csrStore_out hp hd (State.answersOut_other hx)) bs tag.toNat)
  · rw [exec_csrRegisterWrite ha, State.csrStore_up h8 hp hd hl hw hs]
  · exact ⟨_, exec_of_regWrite rfl hd hacc (State.regStore_bootLock s acc _ v.toNat), State.fld_setBootLock ..,
      State.wrote_setBootLock ..⟩

end

section
/-! PROOF. Memory accesses by physical address within one word (R30, R37, R38, R257, R277), and transmits of one word (R489). -/

namespace Sys2Proof.Machine

/-! The range of an access that lies within one word. -/

theorem wordsOf_one {a n : Nat} (hn : 0 < n) (h : a % 32 + n ≤ 32) : wordsOf a n = [a / 32 * 32] := by
  have hlast : (a + n - 1) / 32 = a / 32 := by omega
  simp [wordsOf, Nat.pos_iff_ne_zero.mp hn, hlast]

theorem wordPieces_nil (fuel a : Nat) : wordPieces fuel a [] = [] := by
  cases fuel <;> rfl

theorem wordPieces_one {a : Nat} {bs : List Byte} (hbs : bs ≠ []) (h : a % 32 + bs.length ≤ 32) (fuel : Nat) :
    wordPieces (fuel + 1) a bs = [(a / 32 * 32, a % 32, bs)] := by
  have hfit : bs.length ≤ 32 - a % 32 := by omega
  have hword : a - a % 32 = a / 32 * 32 := by omega
  simp [wordPieces, hbs, hword, List.take_of_length_le hfit, List.drop_of_length_le hfit, wordPieces_nil]

/-! What a packet on the mesh leaves as it was, for the checks of a word's access. -/

namespace MeshOnly

variable {s t : State}

theorem frame (h : MeshOnly s t) (tier n : Nat) : t.frame tier n = s.frame tier n :=
  (congrArg (fun x => State.frame x tier n) h.rest :)

theorem block (h : MeshOnly s t) (cd n : Nat) : t.block cd n = s.block cd n :=
  (congrArg (fun x => State.block x cd n) h.rest :)

theorem region (h : MeshOnly s t) (cd arr q : Nat) : t.region cd arr q = s.region cd arr q :=
  (congrArg (fun x => State.region x cd arr q) h.rest :)

theorem stopping (h : MeshOnly s t) (die : Nat) : t.stopping die = s.stopping die :=
  (congrArg (fun x => State.stopping x die) h.rest :)

theorem hlGib (h : MeshOnly s t) : t.hlGib = s.hlGib := by
  simp [State.hlGib, h.fld]

theorem hbmMap (h : MeshOnly s t) (a : Nat) : t.hbmMap a = s.hbmMap a := by
  simp only [State.hbmMap, h.hlGib]

theorem serves (h : MeshOnly s t) (a : Nat) : t.serves a = s.serves a := by
  simp [State.serves, State.stackUp, State.flagBit, h.fld, h.dieUp, h.hbmMap]

theorem zeroingAt (h : MeshOnly s t) (a : Nat) : t.zeroingAt a = s.zeroingAt a := by
  simp [State.zeroingAt, h.frame, h.block]

theorem stopHolds (h : MeshOnly s t) (req : Requester) (a : Nat) : t.stopHolds req a = s.stopHolds req a := by
  simp [State.stopHolds, State.wayStopped, State.ringNodes, h.stopping, h.hbmMap]

theorem acbRefused (h : MeshOnly s t) (cd arr off : Nat) (slot : Option Nat) :
    t.acbRefused cd arr off slot = s.acbRefused cd arr off slot := by
  simp [State.acbRefused, State.rgnCovers, State.rgnStale, State.rgnTied, State.rgnReleased, h.fld, h.region]

theorem judge (h : MeshOnly s t) (req : Requester) (a : Nat) : t.judge req a = s.judge req a := by
  simp [State.judge, h.serves, h.zeroingAt, h.stopHolds, h.block, h.acbRefused, h.frame]

theorem windowLets (h : MeshOnly s t) (req : Requester) (a : Nat) : t.windowLets req a = s.windowLets req a := by
  simp [State.windowLets, State.windowAt, State.flagBit, h.fld]

end MeshOnly

namespace State

/-! Accesses within one word. -/

section
variable {s : State} {req : Requester} {a n : Nat} {bs : List Byte}

theorem access_read_waits (ha : a < 2 ^ 52) (h : (wordsOf a n).any (fun w => s.judge req w = .wait) = true) :
    s.access (.read req a n) = { s with memWait := s.memWait ++ [.read req a n], resp := .waits } := by
  rw [access, if_neg (Nat.not_le.mpr ha), if_pos h]

theorem access_write_waits (ha : a < 2 ^ 52) (h : (wordsOf a bs.length).any (fun w => s.judge req w = .wait) = true) (tag : Nat) :
    s.access (.write req a bs tag) = { s with memWait := s.memWait ++ [.write req a bs tag], resp := .waits } := by
  rw [access, if_neg (Nat.not_le.mpr ha), if_pos h]

theorem readPieces_one (hn : 0 < n) (h : a % 32 + n ≤ 32) :
    s.readPieces req n a n = ([(s.readPiece req a n).1], (s.readPiece req a n).2) := by
  obtain ⟨k, rfl⟩ := Nat.exists_eq_succ_of_ne_zero (Nat.pos_iff_ne_zero.mp hn)
  have hfit : min (k + 1) (32 - a % 32) = k + 1 := by omega
  cases k <;> simp [readPieces, hfit]

theorem access_read_one (ha : a < 2 ^ 52) (hn : 0 < n) (h : a % 32 + n ≤ 32) (hj : s.judge req (a / 32 * 32) ≠ .wait) :
    s.access (.read req a n) = { (s.readPiece req a n).2 with resp := .words [(s.readPiece req a n).1] } := by
  rw [access, if_neg (Nat.not_le.mpr ha), if_neg (by simpa [wordsOf_one hn h] using hj), readPieces_one hn h]

/-- The outcome of a write of one word that passes its checks, and the state after it: the word lies in a window of another slot, is
poisoned for a core's store of a part of it, or is written (R277, R495). -/
def writeOne (s : State) (req : Requester) (w off : Nat) (bs : List Byte) (tag : Nat) : WordAns × State :=
  let s1 := s.meshOuter w true
  let r := s1.storeMeetsPoison req (w, off, bs)
  if s.windowLets req w then
    if r.1 then (.accessFault, r.2) else (.written, r.2.mergeWord req w off bs (tagPoison tag) (tagSealed tag))
  else (.busError, s1)

theorem writePieces_one (hbs : bs ≠ []) (h : a % 32 + bs.length ≤ 32) (hj : s.judge req (a / 32 * 32) = .ok) (tag : Nat) :
    s.writePieces req a bs tag =
      ([(s.writeOne req (a / 32 * 32) (a % 32) bs tag).1], (s.writeOne req (a / 32 * 32) (a % 32) bs tag).2) := by
  have hmesh := MeshOnly.outer s (a / 32 * 32) true
  simp only [writePieces, wordPieces_one hbs h, writeOne, List.foldl_cons, List.foldl_nil, List.nil_append, hmesh.judge, hmesh.windowLets,
    hj, decide_true, Bool.true_and]
  split
  · split <;> rfl
  · rfl

theorem access_write_one (ha : a < 2 ^ 52) (hbs : bs ≠ []) (h : a % 32 + bs.length ≤ 32) (hj : s.judge req (a / 32 * 32) = .ok)
    {tag : Nat} {r : WordAns × State} (hr : s.writeOne req (a / 32 * 32) (a % 32) bs tag = r) :
    s.access (.write req a bs tag) = { r.2 with resp := .words [r.1] } := by
  rw [access, if_neg (Nat.not_le.mpr ha), if_neg (by simp [wordsOf_one (List.length_pos_iff.mpr hbs) h, hj]),
    writePieces_one hbs h hj, hr]

end

/-! Transmits of one word. -/

/-- What a transmit that reads a SEALED word does (R489): it is counted, and the event carries the count. -/
def refuseSealed (s : State) : State := s.countBlocked.raise .EV_TS_BLOCK iod0 0 (s.countBlocked.fld .TS_CNT_BLOCK_COUNT iod0)

theorem fld_refuseSealed (s : State) :
    s.refuseSealed.fld .TS_CNT_BLOCK_COUNT iod0 = (s.fld .TS_CNT_BLOCK_COUNT iod0 + 1) % 2 ^ 64 := fld_setFld_self ..

theorem raised_refuseSealed (s : State) : s.raised s.refuseSealed .EV_TS_BLOCK iod0 := ⟨_, rfl, rfl, rfl⟩

theorem keepsRegs_refuseSealed (s : State) : s.keepsRegs s.refuseSealed [(.TS_CNT_BLOCK_COUNT, iod0, 0, 0)] :=
  keepsRegs_raise (keepsRegs_incFld (keepsRegs_self _) .TS_CNT_BLOCK_COUNT iod0 0 0 1 (List.mem_singleton_self _)) _ _ _ _ _

theorem transmit_one {s : State} {port a n : Nat} (hd : s.dieUp (iodDie port) = true) (hn : 0 < n) (h : a % 32 + n ≤ 32)
    (hj : s.judge .supervisor (a / 32 * 32) = .ok) :
    s.transmit port a n =
      let r := s.fetchWord .supervisor (a / 32 * 32)
      if tagSealed r.1.tag then r.2.refuseSealed
      else if tagPoison r.1.tag then r.2
      else { r.2 with out := .dataPort port (((leBytes 32 r.1.data).drop (a % 32)).take n) :: r.2.out } := by
  have hpass : (!s.dieUp (iodDie port) || [a / 32 * 32].any fun w => s.judge .supervisor w != .ok) = false := by
    simp [hd, hj]
  simp only [transmit, wordsOf_one hn h, hpass, Bool.false_eq_true, if_false, portWords, Option.map_some, List.append_nil]
  cases tagSealed (s.fetchWord .supervisor (a / 32 * 32)).1.tag with
  | true => rfl
  | false => cases tagPoison (s.fetchWord .supervisor (a / 32 * 32)).1.tag <;> rfl

end State

theorem exec_memRead_mem {a : Nat} (ha : inCsr a = false) (req : Requester) (n : Nat) (s : State) :
    exec (.memRead req a n) s = .next (s.access (.read req a n)) :=
  congrArg Host.Outcome.next (if_pos (by rw [ha]; rfl))

theorem exec_memWrite_mem {a : Nat} (ha : inCsr a = false) (req : Requester) (bs : List Byte) (tag : Byte) (s : State) :
    exec (.memWrite req a bs tag) s = .next (s.access (.write req a bs tag.toNat)) :=
  congrArg Host.Outcome.next (if_pos (by rw [ha]; rfl))

end Sys2Proof.Machine

open Sys2Proof Sys2Proof.Machine

/-- Settles O42: an access within one word has one piece, whose checks a packet on the mesh does not change, and a transmit one word. -/
theorem memoryAccessesAnswer : Obligations.MemoryAccessesAnswer := by
  refine fun s => ⟨fun req a n bs tag ha hlt => ⟨fun hw => ?_, fun hw => ?_, fun hn h hj => ?_, fun hbs h hj => ⟨fun hw hr => ?_,
    fun hw hr => ?_, fun hw => ?_⟩⟩, fun port a n hd hn h hj => ⟨fun hs hp => ?_, fun hs => ?_, fun hs hp => ?_⟩⟩
  · rw [exec_memRead_mem ha, State.access_read_waits hlt hw]
  · rw [exec_memWrite_mem ha, State.access_write_waits hlt hw]
  · rw [exec_memRead_mem ha, State.access_read_one hlt hn h hj]
  · rw [exec_memWrite_mem ha, State.access_write_one hlt hbs h hj ((if_pos hw).trans (if_neg (ne_true_of_eq_false hr)))]
  · rw [exec_memWrite_mem ha, State.access_write_one hlt hbs h hj ((if_pos hw).trans (if_pos hr))]
  · rw [exec_memWrite_mem ha, State.access_write_one hlt hbs h hj (if_neg (ne_true_of_eq_false hw))]
  · exact congrArg Host.Outcome.next ((State.transmit_one hd hn h hj).trans
      ((if_neg (ne_true_of_eq_false hs)).trans (if_neg (ne_true_of_eq_false hp))))
  · exact ⟨_, congrArg Host.Outcome.next ((State.transmit_one hd hn h hj).trans (if_pos hs)), State.fld_refuseSealed _,
      State.raised_refuseSealed _, rfl, State.keepsRegs_refuseSealed _, rfl⟩
  · exact congrArg Host.Outcome.next ((State.transmit_one hd hn h hj).trans ((if_neg (ne_true_of_eq_false hs)).trans (if_pos hp)))

end

section
/-! PROOF. Registers and events of the stream engines: pools that stall (R315), the seeds of the generators (R221, R319), invalidations
of translations (R303) and purges of the stash (R203). -/

namespace Sys2Proof.Machine

namespace State

theorem keepsRegs_setFld_only (s : State) (F : Fld) (d u i v : Nat) : s.keepsRegs (s.setFld F d u i v) [(F, d, u, i)] :=
  keepsRegs_setFld (keepsRegs_self _) F d u i v (List.mem_singleton_self _)

theorem flagBit_setBit_true (s : State) (F : Fld) (d u i : Nat) {b : Nat} (hb : b < F.width) :
    (s.setBit F d u i b true).flagBit F d u i b = true := by
  have hbit : ((if (s.fld F d u i).testBit b then s.fld F d u i - 2 ^ b else s.fld F d u i) + 2 ^ b).testBit b = true := by
    cases hold : (s.fld F d u i).testBit b with
    | true => rwa [if_pos rfl, Nat.sub_add_cancel (Nat.ge_two_pow_of_testBit hold)]
    | false => rw [if_neg Bool.false_ne_true, Nat.add_comm, Nat.testBit_two_pow_add_eq, hold, Bool.not_false]
  simp [flagBit, setBit, hb, hbit]

/-! A write of the seed of an engine's generator (R221). -/

theorem seedOf_toNat (v : Word64) : seedOf v.toNat = if v = 0 then 1 else v.toNat := by
  simp [seedOf, BitVec.toNat_eq]

theorem seUnit_writeSeSeed (s : State) (cd se : Nat) (v : Word64) :
    (s.writeSeSeed cd se v).seUnit cd se = { s.seUnit cd se with gen := seedOf v.toNat } :=
  Tbl.get_set_self SeUnit.reset s.ses (Key.at cd se) { s.seUnit cd se with gen := seedOf v.toNat }

theorem keepsRegs_writeSeSeed (s : State) (cd se : Nat) (v : Word64) :
    s.keepsRegs (s.writeSeSeed cd se v) [(.SE_SR_SEED_SEED, cd, se, 0)] :=
  keepsRegs_setFld_only s .SE_SR_SEED_SEED cd se 0 v.toNat

/-! A pool that stalls (R315). -/

/-- The pool has been reported. -/
def tellPool (s : State) (cd pool : Nat) : State := { s with poolTold := s.poolTold.set false (Key.at cd pool) true }

/-- The report of a staging pool: POOL_STALL of its engine, and the event with the pool's word. -/
def reportStaging (s : State) (cd pool : Nat) : State :=
  ((s.tellPool cd pool).setFld .SE_EVENTS_POOL_STALL cd pool 0 1).raise .EV_SE_POOL_STALL cd pool (s.poolWord cd pool)

/-- The report of a gateway buffer: GW_STALL of its die, the buffer's bit in GW, and the event. -/
def reportGateway (s : State) (cd pool : Nat) : State :=
  (((s.tellPool cd pool).setFld .CAR_EVENTS_GW_STALL cd 0 0 1).setBit .CAR_EVENTS_GW cd 0 0 (pool - 8) true).raise .EV_SE_POOL_STALL cd
    pool 0

theorem keepsRegs_tellPool (s : State) (cd pool : Nat) (l : List (Fld × Nat × Nat × Nat)) : s.keepsRegs (s.tellPool cd pool) l :=
  keepsRegs_refl l rfl

theorem told_tellPool (s : State) (cd pool : Nat) : (s.tellPool cd pool).poolTold.get false (Key.at cd pool) = true :=
  Tbl.get_set_self false s.poolTold (Key.at cd pool) true

theorem fld_reportStaging (s : State) (cd pool : Nat) : (s.reportStaging cd pool).fld .SE_EVENTS_POOL_STALL cd pool = 1 :=
  fld_setFld_self (s.tellPool cd pool) .SE_EVENTS_POOL_STALL cd pool 0 1

theorem keepsRegs_reportStaging (s : State) (cd pool : Nat) :
    s.keepsRegs (s.reportStaging cd pool) [(.SE_EVENTS_POOL_STALL, cd, pool, 0)] :=
  keepsRegs_raise (keepsRegs_setFld (keepsRegs_tellPool s cd pool _) _ _ _ _ _ (List.mem_singleton_self _)) _ _ _ _ _

theorem fld_reportGateway (s : State) (cd pool : Nat) : (s.reportGateway cd pool).fld .CAR_EVENTS_GW_STALL cd = 1 := by
  rw [reportGateway, fld_raise, setBit, fld_setFld_other _ (by decide)]
  exact fld_setFld_self ..

theorem flagBit_reportGateway (s : State) (cd : Nat) {pool : Nat} (h : pool - 8 < 4) :
    (s.reportGateway cd pool).flagBit .CAR_EVENTS_GW cd 0 0 (pool - 8) = true := flagBit_setBit_true _ _ _ _ _ h

theorem keepsRegs_reportGateway (s : State) (cd pool : Nat) :
    s.keepsRegs (s.reportGateway cd pool) [(.CAR_EVENTS_GW_STALL, cd, 0, 0), (.CAR_EVENTS_GW, cd, 0, 0)] :=
  keepsRegs_raise (keepsRegs_setFld (keepsRegs_setFld (keepsRegs_tellPool s cd pool _) _ _ _ _ _ (.head _))
    _ _ _ _ _ (.tail _ (.head _))) _ _ _ _ _

/-! A purge of the stash (R203). -/

/-- The entry of a stash table is one of the die that holds a tensor of a slot that `p` names. -/
def stashedFor (cd : Nat) (p : Nat → Bool) (e : Key × Option StashEntry) : Bool := e.1.d == cd && e.2.any fun x => p x.slot

/-- The stash of the die is freed for the slots that `p` names. -/
def freeStash (s : State) (cd : Nat) (p : Nat → Bool) : State := { s with stash := s.stash.filter fun e => !stashedFor cd p e }

theorem stash_freeStash (s : State) (cd : Nat) (p : Nat → Bool) :
    (s.freeStash cd p).stash = s.stash.filter fun e => !(e.1.d == cd && (match e.2 with | some x => p x.slot | none => false)) :=
  List.filter_congr fun ⟨_, x⟩ _ => by cases x <;> rfl

theorem purgeStash_idle {s : State} {cd : Nat} (h : s.dieStreams cd = []) (slot : Nat) :
    s.purgeStash cd slot = s.freeStash cd (· == slot) :=
  (congrArg (fun l => List.foldl _ _ l) h).trans
    (congrArg (fun l => { s with stash := l }) (stash_freeStash s cd (· == slot)).symm)

theorem freeStash_freeStash (s : State) (cd : Nat) (p q : Nat → Bool) :
    (s.freeStash cd p).freeStash cd q = s.freeStash cd fun x => p x || q x := by
  have hfilter : ∀ e, (!stashedFor cd q e && !stashedFor cd p e) = !stashedFor cd (fun x => p x || q x) e := by
    rintro ⟨k, _ | x⟩
    · simp [stashedFor]
    · cases hd : k.d == cd <;> simp [stashedFor, hd, Bool.and_comm]
  simp only [freeStash, List.filter_filter, hfilter]

theorem freeStash_none (s : State) (cd : Nat) : s.freeStash cd (fun _ => false) = s := by
  have hkept : ∀ e, stashedFor cd (fun _ => false) e = false := by
    rintro ⟨k, _ | x⟩ <;> simp [stashedFor]
  have hall : (s.stash.filter fun e => !stashedFor cd (fun _ => false) e) = s.stash :=
    List.filter_eq_self.mpr fun e _ => by rw [hkept, Bool.not_false]
  rw [freeStash, hall]

theorem purgeStashes_idle {s : State} {cd : Nat} (h : s.dieStreams cd = []) (l : List Nat) :
    l.foldl (fun s x => s.purgeStash cd x) s = s.freeStash cd fun x => l.contains x := by
  induction l generalizing s with
  | nil => exact (freeStash_none s cd).symm
  | cons slot l ih =>
    rw [List.foldl_cons, purgeStash_idle h, ih (s := s.freeStash cd (· == slot)) h, freeStash_freeStash]
    simp only [List.contains_cons]

/-- The slots of a die's stash that a supervisor's write of STASH_PURGE names. -/
def purgeNames (v : Word64) (slot : Nat) : Bool := decide (slot < 4) && v.toNat.testBit slot

end State

section
variable {s : State} {acc : Accessor} {cd : Fin 8}

theorem exec_poolStall_staging {pool : Fin 12} (ht : s.poolTold.get false (Key.at cd pool) = false)
    (hm : s.poolMoved.get 0 (Key.at cd pool) + 100000 ≤ s.now) (hp : pool.val < 8) (hh : s.poolHeld cd pool ≠ 0) :
    exec (.poolStall cd pool) s = .next (s.reportStaging cd pool) := by
  refine congrArg Host.Outcome.next ((if_neg ?_).trans ((if_pos hp).trans (if_neg hh)))
  simpa [ht] using hm

theorem exec_poolStall_gateway {pool : Fin 12} (ht : s.poolTold.get false (Key.at cd pool) = false)
    (hm : s.poolMoved.get 0 (Key.at cd pool) + 100000 ≤ s.now) (hp : 8 ≤ pool.val)
    (hh : s.gatewayHeld cd (pool.val - 8) (fun _ => true) ≠ 0) :
    exec (.poolStall cd pool) s = .next (s.reportGateway cd pool) := by
  refine congrArg Host.Outcome.next ((if_neg ?_).trans ((if_neg (Nat.not_lt.mpr hp)).trans (if_neg hh)))
  simpa [ht] using hm

theorem exec_seSrSeedWrite (hd : s.dieUp cd = true) (ha : isSup acc = true) (se : Fin 8) (v : Word64) :
    exec (.seSrSeedWrite acc cd se v) s = .next (s.writeSeSeed cd se v).ack :=
  exec_of_regWrite (f := fun s => some (s.writeSeSeed cd se v)) rfl hd ha rfl

theorem exec_xltInvalWrite_idle {slot : Fin 4} (hd : s.dieUp iod0 = true) (ha : (isSup acc || s.hostAuth acc slot) = true)
    (hb : s.flag .XLT_INVAL_BUSY iod0 slot = false) (v : Word64) :
    exec (.xltInvalWrite acc slot v) s = .next (s.setFld .XLT_INVAL_BUSY iod0 slot 0 1).ack :=
  exec_of_regWrite rfl hd ha (if_neg (ne_true_of_eq_false hb))

theorem exec_xltInvalWrite_busy {slot : Fin 4} (hb : s.flag .XLT_INVAL_BUSY iod0 slot = true) (v : Word64) :
    exec (.xltInvalWrite acc slot v) s = .next { s with resp := .busError } :=
  congrArg Host.Outcome.next (State.regWrite_none (if_pos hb))

theorem exec_stashPurgeWrite_idle (hd : s.dieUp cd = true) (ha : isSup acc = true) (h : s.dieStreams cd = []) (v : Word64) :
    exec (.stashPurgeWrite acc cd v) s = .next (s.freeStash cd (State.purgeNames v)).ack := by
  refine exec_of_regWrite rfl hd (by rw [ha]; rfl) ?_
  have hnames : (fun x => ((List.range 4).filter fun x => v.toNat.testBit x && (isSup acc || s.hostAuth acc x)).contains x) =
      State.purgeNames v := by
    funext x
    rw [Bool.eq_iff_iff]
    simp [State.purgeNames, ha]
  rw [State.purgeStashes_idle h, hnames]

end

end Sys2Proof.Machine

open Sys2Proof Sys2Proof.Machine

/-- Settles O38: each row is the report of its pool, the write of its register, or the freeing of the stash of the named slots. -/
theorem streamEngineRegisters : Obligations.StreamEngineRegisters := by
  refine fun s cd => ⟨fun pool ht hm => ⟨fun hp hh => ?_, fun hp hh => ?_⟩, fun acc se v hd ha => ?_, fun acc slot v hd ha =>
    ⟨fun hb => ?_, fun hb => exec_xltInvalWrite_busy hb v⟩, fun slot => ?_, fun acc v hd ha hs => ?_⟩
  · exact ⟨_, exec_poolStall_staging ht hm hp hh, State.fld_reportStaging .., ⟨_, rfl, rfl, rfl⟩, State.keepsRegs_reportStaging s cd pool,
      State.told_tellPool .., rfl⟩
  · exact ⟨_, exec_poolStall_gateway ht hm hp hh, State.fld_reportGateway .., State.flagBit_reportGateway s cd (by omega),
      ⟨_, rfl, rfl, rfl⟩, State.keepsRegs_reportGateway s cd pool, State.told_tellPool .., rfl⟩
  · exact ⟨_, exec_seSrSeedWrite hd ha se v, (State.fld_setFld_self ..).trans (toNat_mod (Nat.le_refl 64)),
      (congrArg SeUnit.gen (State.seUnit_writeSeSeed s cd se v)).trans (State.seedOf_toNat v), rfl,
      State.keepsRegs_writeSeSeed s cd se v, rfl⟩
  · have hallowed : (isSup acc || s.hostAuth acc slot) = true := (Bool.or_eq_true ..).mpr ha
    exact ⟨_, exec_xltInvalWrite_idle hd hallowed hb v, State.fld_setFld_self s .XLT_INVAL_BUSY iod0 slot 0 1,
      State.wrote_ack (State.keepsRegs_setFld_only s _ _ _ _ _) rfl⟩
  · exact ⟨_, rfl, State.fld_setFld_self .., State.keepsRegs_setFld_only s _ _ _ _ _, rfl⟩
  · exact ⟨_, exec_stashPurgeWrite_idle hd ha hs v, State.stash_freeStash s cd (State.purgeNames v), rfl, rfl⟩

end
